-- ==== Sys2Proof/Word.lean ====
section
/-!
DEFINITION. The word types of the device and nothing else (every mendable helper lies under Sys2Proof/Machine).
-/
namespace Sys2Proof

/-- A byte (00 R5). -/
abbrev Byte := BitVec 8

/-- A 32-bit word: half registers, tally values, fp32 bit patterns. -/
abbrev W32 := BitVec 32

/-- A 64-bit word: general registers and 64-bit set-up registers. -/
abbrev Word := BitVec 64

/-- One 64-byte granule or tile row (07 R148; 02 R26). -/
abbrev Row := BitVec 512

end Sys2Proof
end

