-- ==== Sys2Proof/Syntax.lean ====
section
/-!
DEFINITION. The commands of the Casma M4: one constructor per row of opcode_table.json, with the row's operands, and the
small data types those operands use. A command carries what the outside supplies (an address, a value, a message, what a
test found); everything else it needs is state.
-/
namespace Sys2Proof

/-- Who makes a BAR access: the host through the single logical device, the host through logical device `p` under MLD,
or service processor `i` (22 R466). -/
inductive Req where
  | host
  | ld (p : Nat)
  | sp (i : Nat)
  deriving DecidableEq, Repr

/-- The fields of the wide half but WOP (06, wide half table). -/
structure WF where
  td : BitVec 5 := 0
  ta : BitVec 5 := 0
  tb : BitVec 5 := 0
  ga : BitVec 5 := 0
  gs : BitVec 5 := 0
  fmt : BitVec 4 := 0
  loop : BitVec 2 := 0
  acc : Bool := false
  rows : BitVec 16 := 0
  off : BitVec 24 := 0
  hint : BitVec 2 := 0
  rnd : BitVec 2 := 0
  sub : BitVec 4 := 0
  imm8 : BitVec 8 := 0
  deriving DecidableEq, Repr

/-- An HDM decoder's setting (02 R22): host physical base, DPA base and size in bytes, interleave ways and granularity in bytes, LOCK. -/
structure HdmSet where
  hpa : Nat
  base : Nat
  size : Nat
  ways : Nat
  gran : Nat
  lock : Bool
  deriving DecidableEq, Repr

/-- The transfer actions of Transfer FW (02 R29, 19 R420). -/
inductive XferAct where
  | full
  | first
  | next
  | last
  | abort
  deriving DecidableEq, Repr

/-- The kinds of line access of 05 R109. -/
inductive AccKind where
  | read
  | write
  | partialWrite
  deriving DecidableEq, Repr

/-- The party a tally operation belongs to (09 R198 to R205). -/
inductive TOwner where
  | thread (s k : Nat)
  | desc (p r : Nat) (seq : W32)
  | porter (s i k : Nat)
  | parked (s k : Nat)
  | remote (peer port msg : Nat)
  deriving DecidableEq, Repr

/-- The outputs of an aisle router (10 R215): the stall, the four mesh links, the south port of row 0 being `south`. -/
inductive Dir where
  | here
  | east
  | west
  | north
  | south
  deriving DecidableEq, Repr

/-- A capability record (10, Version negotiation). -/
structure CapRec where
  vmin : Nat
  vmax : Nat
  feat : Nat
  rev : Nat
  deriving DecidableEq, Repr

/-- What a far channel does with its next request: serves it, loses its training, or its module stops answering (11 R248; 12 R269). -/
inductive ChanRes where
  | served
  | lostTraining
  | noAnswer
  deriving DecidableEq, Repr

/-- A request at a far channel: a write or a read, and what the channel does with it. -/
structure ChanUse where
  wr : Bool
  res : ChanRes
  deriving DecidableEq, Repr

/-- A submission read that the host fails: its ring, and whether it is the turn's second read, past the end of the ring (03 R83). -/
structure FailedRead where
  ring : Nat
  second : Bool
  deriving DecidableEq, Repr

/-- A pitch whose request reads its input, and the granule of host memory, counted from the start of the input, that the host fails (03 R83). -/
structure InputRead where
  pitch : Nat
  hostFail : Option Nat
  deriving DecidableEq, Repr

/-- What the host does with the reads of a CARAVAN descriptor: whether it fails the buffer entries, and the granule of data it fails (03 R83). -/
structure CopReads where
  entries : Bool
  data : Option Nat
  deriving DecidableEq, Repr

/-- What the read-back of a word shows: the symbols in error, and those of the further read-backs it may start (12 R265, R267). -/
structure Readback where
  word : List (Nat × BitVec 16)
  later : List (List (Nat × BitVec 16))
  deriving DecidableEq, Repr

/-- What a start or a POWERUP finds of a module: presence, the rate codes of MODSTAT that pass on all eight channels, the highest that its SPD
allows, self-test, supported SPD, raw bytes of a channel, ranks and SPD serial (11 R232 to R234). -/
structure ModFind where
  present : Bool := false
  passes : List Nat := []
  spdMax : Nat := 5
  tested : Bool := false
  supported : Bool := true
  rawBytes : Nat := 0
  ranks : Nat := 1
  serial : W32 := 0
  deriving DecidableEq, Repr

/-- Where an integrity event lies (12 R269, R277). -/
inductive EUnit where
  | slice (s off : Nat)
  | far (off : Nat)
  | shelf (s off : Nat)
  | tile (s t r w : Nat)
  | ibuf (s w : Nat)
  | tally (id : Nat)
  | fcache (set way w : Nat)
  | vstore (s blk : Nat)
  | fvstore (blk : Nat)
  | gsram (a : Nat)
  deriving DecidableEq, Repr

/-- Whose access met an integrity event: the REQ codes of 12 R277, with the item or thread concerned. -/
inductive EReq where
  | thread (s k : Nat)
  | porter (s i : Nat)
  | cxl (ld : Nat)
  | window (p n : Nat)
  | item (p r : Nat) (seq : W32)
  | scrub
  | firmware
  | caravan (p : Nat)
  deriving DecidableEq, Repr

/-- What a packet of the aisles carries for whom: a tally operation's request or result, an access of a unit by a requester, or else. -/
inductive PktUse where
  | tally (id : Nat) (owner : TOwner) (result : Bool)
  | data (u : EUnit) (who : EReq)
  | other
  deriving DecidableEq, Repr

/-- A packet as it arrives: what it carries, and its bytes (12 R270). -/
structure Arrival where
  use : PktUse
  bytes : List Byte
  deriving DecidableEq, Repr

/-- The Caravan header of a received frame, with the port it came in on and whether the packet was CE-marked (14 R314). -/
structure Frame where
  port : Nat
  src : Nat
  dst : Nat
  tp : Nat
  sp : Nat
  cgen : Nat
  msg : Nat
  psn : Nat
  ack : Nat
  key : W32
  ece : Bool := false
  ce : Bool := false
  deriving DecidableEq, Repr

/-- One item of the forecast (16 R350): milliwatts on each hall, from `t0` to `t1` ms from now. -/
structure FItem where
  mw : List Nat
  t0 : Nat
  t1 : Nat
  deriving DecidableEq, Repr

/-- What phases 3 to 5 find of one hall (17 R370, R371; 12 R276): power-good, whether replayed delays hold (17 R373), links that train, the
capability record, stalls that fail with their CAUSE and the UNIT that failed (12 R277), lane faults (link, direction, group, lane), parity
checkers of lane groups that fail, bonds that fail (stall, port, symbol), a router (number) or the tally unit failing. -/
structure HallFind where
  pg : Bool := true
  replay : Bool := true
  links : List Bool := [true, true, true, true]
  cap : CapRec := ⟨1, 1, 7, 1⟩
  fail : List (Nat × Nat × Nat) := []
  lanes : List (Nat × Nat × Nat × Nat) := []
  parity : List (Nat × Nat × Nat) := []
  bonds : List (Nat × Nat × Nat) := []
  router : Option Nat := none
  tallyBad : Bool := false
  deriving DecidableEq, Repr

/-- What a start finds (17 R367 to R373): the straps, junction B of each hall in 0.01 °C, the gatehouse's capability record,
the halls, march-test rows (stall, retired row, symbol), failing channels, the far
cache and gatehouse SRAM checkers, the modules, replayed training of a module that fails, which service processors pass their self-test,
the time the start takes, and whether defect-list writes succeed. -/
structure Find where
  smb : Nat := 0
  ssc : Bool := false
  diode : List Int := [3000, 3000, 3000, 3000]
  gcap : CapRec := ⟨1, 1, 7, 1⟩
  halls : List HallFind := [{}, {}, {}, {}]
  march : List (Nat × Nat × Nat) := []
  badCh : List Nat := []
  fcacheBad : Bool := false
  gsramBad : Bool := false
  mods : List ModFind := [{}, {}, {}, {}]
  replayBad : Bool := false
  sps : List Bool := [true, true, true, true]
  badBack : List Nat := []
  ms : Nat := 0
  dlOk : Bool := true
  deriving DecidableEq, Repr

/-- The commands, in the order of opcode_table.json. -/
inductive Instr where
  /-- READ_CLEAR -/
  | readClear (q : Req) (bar off size : Nat)
  /-- LOW_HALF_READ -/
  | lowHalfRead (q : Req) (bar off : Nat)
  /-- SETUP_REGISTER_WRITE -/
  | setupRegisterWrite (q : Req) (bar off size : Nat) (v : Word) (f : Find)
  /-- BAR_ACCESS_BAD_SIZE -/
  | barAccessBadSize (q : Req) (bar off bytes : Nat) (wr : Bool)
  /-- LINK_TRAINING -/
  | linkTraining (width speed : Nat) (apn mldSwitch : Bool)
  /-- HDM_DECODER_COMMIT -/
  | hdmDecoderCommit (ld dec : Nat) (d : HdmSet)
  /-- CXL_MEM_READ -/
  | cxlMemRead (ld addr : Nat)
  /-- CXL_MEM_WRITE -/
  | cxlMemWrite (ld addr : Nat) (data : Row)
  /-- MEMWRPTL -/
  | memWrPtl (ld addr : Nat) (data : Row) (be : Word)
  /-- GET_EVENT_RECORDS -/
  | getEventRecords (ld log : Nat)
  /-- CLEAR_EVENT_RECORDS -/
  | clearEventRecords (ld log n : Nat)
  /-- GET_EVENT_INTERRUPT_POLICY -/
  | getEventInterruptPolicy (ld : Nat)
  /-- SET_EVENT_INTERRUPT_POLICY -/
  | setEventInterruptPolicy (ld : Nat) (pol : W32)
  /-- GET_FW_INFO -/
  | getFwInfo (ld : Nat)
  /-- TRANSFER_FW -/
  | transferFw (ld slot : Nat) (act : XferAct) (off : Nat) (data : List Byte)
  /-- ACTIVATE_FW -/
  | activateFw (ld slot : Nat) (online : Bool)
  /-- GET_TIMESTAMP -/
  | getTimestamp (ld : Nat)
  /-- SET_TIMESTAMP -/
  | setTimestamp (ld : Nat) (ns : Word)
  /-- GET_SUPPORTED_LOGS -/
  | getSupportedLogs (ld : Nat)
  /-- GET_LOG -/
  | getLog (ld : Nat) (cel : Bool) (off len : Nat)
  /-- IDENTIFY_MEMORY_DEVICE -/
  | identifyMemoryDevice (ld : Nat)
  /-- GET_HEALTH_INFO -/
  | getHealthInfo (ld : Nat)
  /-- GET_POISON_LIST -/
  | getPoisonList (ld dpa len : Nat)
  /-- INJECT_POISON -/
  | injectPoison (ld dpa : Nat)
  /-- CLEAR_POISON -/
  | clearPoison (ld dpa : Nat) (data : Row)
  /-- UNSUPPORTED_MAILBOX_COMMAND -/
  | unsupportedMailboxCommand (ld opcode : Nat)
  /-- GET_LD_INFO -/
  | getLdInfo
  /-- GET_LD_ALLOCATIONS -/
  | getLdAllocations
  /-- GET_QOS_CONTROL -/
  | getQosControl
  /-- SET_LD_ALLOCATIONS -/
  | setLdAllocations
  /-- SET_QOS_CONTROL -/
  | setQosControl
  /-- FILL -/
  | fillOp (q : Req) (p n : Nat) (v : Word) (wide : Bool)
  /-- ADD_REDUCE -/
  | addReduce (q : Req) (p n : Nat) (v : Word) (wide : Bool)
  /-- GATHER_SUM -/
  | gatherSum (q : Req) (p n : Nat) (v : Word) (wide : Bool)
  /-- COMPARE_COUNT -/
  | compareCount (q : Req) (p n : Nat) (v : Word) (wide : Bool)
  /-- WINDOW_OP_END -/
  | windowOpEnd (p n ce : Nat)
  /-- WABORT -/
  | wabort (q : Req) (p n : Nat) (v : W32)
  /-- RING_ENABLE -/
  | ringEnable (q : Req) (p r : Nat)
  /-- RING_DISABLE -/
  | ringDisable (q : Req) (p r : Nat)
  /-- ABORT -/
  | ringAbort (q : Req) (p r : Nat)
  /-- TAIL_DOORBELL -/
  | tailDoorbell (q : Req) (p r : Nat) (v : W32) (stores : List Host.Cell)
  /-- HEAD_DOORBELL -/
  | headDoorbell (q : Req) (p r : Nat) (v : W32)
  /-- DESCRIPTOR_FETCH -/
  | descriptorFetch (p r : Nat)
  /-- SUBMISSION_FETCH_FAILED -/
  | submissionFetchFailed (p : Nat) (r : FailedRead)
  /-- KERNEL -/
  | kernel (p r : Nat) (seq : W32)
  /-- KERNEL_END -/
  | kernelEnd (p r : Nat) (seq : W32) (ce : Nat)
  /-- PORTER_COPY -/
  | porterCopy (p r : Nat) (seq : W32) (rdFail : Bool)
  /-- PORTER_COPY_END -/
  | porterCopyEnd (p r : Nat) (seq : W32) (ce : Nat) (hostFail : Option Nat)
  /-- NEAR_BATCH -/
  | nearBatch (p r : Nat) (seq : W32) (rdFail : Bool) (hostFail : Option Nat)
  /-- NEAR_BATCH_END -/
  | nearBatchEnd (p r : Nat) (seq : W32) (ce : Nat)
  /-- FENCE_DESCRIPTOR -/
  | fenceDescriptor (p r : Nat) (seq : W32)
  /-- NOP -/
  | nopDescriptor (p r : Nat) (seq : W32)
  /-- ITEM_TIMEOUT -/
  | itemTimeout (p r : Nat) (seq : W32)
  /-- MODERATION_TIMER -/
  | moderationTimer (p r : Nat)
  /-- BUS_MASTER_ENABLE_SET -/
  | busMasterEnableSet (fn : Nat)
  /-- FLR -/
  | flr (fn : Nat)
  /-- PTCOMMIT -/
  | ptCommit (q : Req) (v : W32)
  /-- PTREVERT -/
  | ptRevert (q : Req) (v : W32)
  /-- STALL_APPLY_GENERATION -/
  | stallApplyGeneration (s : Nat)
  /-- QUIESCE -/
  | quiesce (q : Req) (p : Nat) (on : Bool)
  /-- PITCH_RESET -/
  | pitchReset (q : Req) (p : Nat) (scrub : Bool)
  /-- NEAR_REQUEST -/
  | nearRequest (s off cyc : Nat) (k : AccKind)
  /-- FOREIGN_REQUEST -/
  | foreignRequest (s off cyc : Nat) (k : AccKind)
  /-- FAR_EGRESS -/
  | farEgress (s k : Nat) (agent : Nat) (wr : Bool) (addr : Word)
  /-- READ_RESPONSE -/
  | readResponse (s k : Nat)
  /-- REFRESH_SLOT -/
  | refreshSlot (h : Nat)
  /-- FRAME_BOUNDARY -/
  | frameBoundary (h : Nat)
  /-- HALLREFCMD -/
  | hallRefCmd (q : Req) (h : Nat) (v : W32)
  /-- MULTIPLIER_LOWERING -/
  | multiplierLowering (h layer : Nat)
  /-- REFRESH_FAILSAFE -/
  | refreshFailsafe (h : Nat)
  /-- ROW_COPY_DONE -/
  | rowCopyDone (s row : Nat)
  /-- SNOP -/
  | snop (s k : Nat)
  /-- ADD -/
  | addG (s k : Nat) (rd ra rb : BitVec 5)
  /-- SUB -/
  | subG (s k : Nat) (rd ra rb : BitVec 5)
  /-- AND -/
  | andG (s k : Nat) (rd ra rb : BitVec 5)
  /-- OR -/
  | orG (s k : Nat) (rd ra rb : BitVec 5)
  /-- XOR -/
  | xorG (s k : Nat) (rd ra rb : BitVec 5)
  /-- SLL -/
  | sllG (s k : Nat) (rd ra rb : BitVec 5)
  /-- SRL -/
  | srlG (s k : Nat) (rd ra rb : BitVec 5)
  /-- SRA -/
  | sraG (s k : Nat) (rd ra rb : BitVec 5)
  /-- SLT -/
  | sltG (s k : Nat) (rd ra rb : BitVec 5)
  /-- SLTU -/
  | sltuG (s k : Nat) (rd ra rb : BitVec 5)
  /-- MUL -/
  | mulG (s k : Nat) (rd ra rb : BitVec 5)
  /-- MULH -/
  | mulhG (s k : Nat) (rd ra rb : BitVec 5)
  /-- MULHU -/
  | mulhuG (s k : Nat) (rd ra rb : BitVec 5)
  /-- DIV -/
  | divG (s k : Nat) (rd ra rb : BitVec 5)
  /-- DIVU -/
  | divuG (s k : Nat) (rd ra rb : BitVec 5)
  /-- REM -/
  | remG (s k : Nat) (rd ra rb : BitVec 5)
  /-- REMU -/
  | remuG (s k : Nat) (rd ra rb : BitVec 5)
  /-- MIN -/
  | minG (s k : Nat) (rd ra rb : BitVec 5)
  /-- MAX -/
  | maxG (s k : Nat) (rd ra rb : BitVec 5)
  /-- MINU -/
  | minuG (s k : Nat) (rd ra rb : BitVec 5)
  /-- MAXU -/
  | maxuG (s k : Nat) (rd ra rb : BitVec 5)
  /-- CLZ -/
  | clzG (s k : Nat) (rd ra rb : BitVec 5)
  /-- CTZ -/
  | ctzG (s k : Nat) (rd ra rb : BitVec 5)
  /-- POPC -/
  | popcG (s k : Nat) (rd ra rb : BitVec 5)
  /-- ADDI -/
  | addi (s k : Nat) (rd ra : BitVec 5) (imm : BitVec 15)
  /-- ANDI -/
  | andi (s k : Nat) (rd ra : BitVec 5) (imm : BitVec 15)
  /-- ORI -/
  | ori (s k : Nat) (rd ra : BitVec 5) (imm : BitVec 15)
  /-- XORI -/
  | xori (s k : Nat) (rd ra : BitVec 5) (imm : BitVec 15)
  /-- SLLI -/
  | slli (s k : Nat) (rd ra : BitVec 5) (imm : BitVec 15)
  /-- SRLI -/
  | srli (s k : Nat) (rd ra : BitVec 5) (imm : BitVec 15)
  /-- SRAI -/
  | srai (s k : Nat) (rd ra : BitVec 5) (imm : BitVec 15)
  /-- SLTI -/
  | slti (s k : Nat) (rd ra : BitVec 5) (imm : BitVec 15)
  /-- SLTIU -/
  | sltiu (s k : Nat) (rd ra : BitVec 5) (imm : BitVec 15)
  /-- LUI -/
  | lui (s k : Nat) (rd : BitVec 5) (imm : BitVec 20)
  /-- AUIPC -/
  | auipc (s k : Nat) (rd : BitVec 5) (imm : BitVec 20)
  /-- LB -/
  | lb (s k : Nat) (rd ra : BitVec 5) (imm : BitVec 15)
  /-- LH -/
  | lh (s k : Nat) (rd ra : BitVec 5) (imm : BitVec 15)
  /-- LW -/
  | lw (s k : Nat) (rd ra : BitVec 5) (imm : BitVec 15)
  /-- LD -/
  | ld (s k : Nat) (rd ra : BitVec 5) (imm : BitVec 15)
  /-- LBU -/
  | lbu (s k : Nat) (rd ra : BitVec 5) (imm : BitVec 15)
  /-- LHU -/
  | lhu (s k : Nat) (rd ra : BitVec 5) (imm : BitVec 15)
  /-- LWU -/
  | lwu (s k : Nat) (rd ra : BitVec 5) (imm : BitVec 15)
  /-- SB -/
  | sb (s k : Nat) (rb ra : BitVec 5) (imm : BitVec 15)
  /-- SH -/
  | sh (s k : Nat) (rb ra : BitVec 5) (imm : BitVec 15)
  /-- SW -/
  | sw (s k : Nat) (rb ra : BitVec 5) (imm : BitVec 15)
  /-- SD -/
  | sd (s k : Nat) (rb ra : BitVec 5) (imm : BitVec 15)
  /-- BEQ -/
  | beq (s k : Nat) (ra rb : BitVec 5) (off : BitVec 15)
  /-- BNE -/
  | bne (s k : Nat) (ra rb : BitVec 5) (off : BitVec 15)
  /-- BLT -/
  | blt (s k : Nat) (ra rb : BitVec 5) (off : BitVec 15)
  /-- BGE -/
  | bge (s k : Nat) (ra rb : BitVec 5) (off : BitVec 15)
  /-- BLTU -/
  | bltu (s k : Nat) (ra rb : BitVec 5) (off : BitVec 15)
  /-- BGEU -/
  | bgeu (s k : Nat) (ra rb : BitVec 5) (off : BitVec 15)
  /-- JAL -/
  | jal (s k : Nat) (rd : BitVec 5) (off : BitVec 20)
  /-- JALR -/
  | jalr (s k : Nat) (rd ra : BitVec 5) (imm : BitVec 15)
  /-- MFS -/
  | mfs (s k : Nat) (rd ra : BitVec 5) (imm : BitVec 15)
  /-- MTS -/
  | mts (s k : Nat) (rd ra : BitVec 5) (imm : BitVec 15)
  /-- FENCE -/
  | fence (s k : Nat) (fn : BitVec 10)
  /-- SYNCG -/
  | syncg (s k : Nat)
  /-- TTAKE -/
  | ttake (s k : Nat) (rd ra rb : BitVec 5) (fn : BitVec 10)
  /-- TSETV -/
  | tsetv (s k : Nat) (rd ra rb : BitVec 5) (fn : BitVec 10)
  /-- TSIG -/
  | tsig (s k : Nat) (rd ra rb : BitVec 5) (fn : BitVec 10)
  /-- TWAIT -/
  | twait (s k : Nat) (rd ra rb : BitVec 5) (fn : BitVec 10)
  /-- KEND -/
  | kend (s k : Nat)
  /-- TRAP -/
  | trap (s k : Nat) (imm : BitVec 15)
  /-- ERET -/
  | eret (s k : Nat)
  /-- WNOP -/
  | wnop (s k : Nat) (w : WF)
  /-- TLD -/
  | tld (s k : Nat) (w : WF)
  /-- TST -/
  | tst (s k : Nat) (w : WF)
  /-- TREL -/
  | trel (s k : Nat) (w : WF)
  /-- MWLD -/
  | mwld (s k : Nat) (w : WF)
  /-- MSTRM -/
  | mstrm (s k : Nat) (w : WF)
  /-- MFILL -/
  | mfill (s k : Nat) (w : WF)
  /-- HMV -/
  | hmv (s k : Nat) (w : WF)
  /-- VOP -/
  | vop (s k : Nat) (w : WF)
  /-- VFMA -/
  | vfma (s k : Nat) (w : WF)
  /-- VCVT -/
  | vcvt (s k : Nat) (w : WF)
  /-- VEXP -/
  | vexp (s k : Nat) (w : WF)
  /-- VRCP -/
  | vrcp (s k : Nat) (w : WF)
  /-- VRSQ -/
  | vrsq (s k : Nat) (w : WF)
  /-- VRED -/
  | vred (s k : Nat) (w : WF)
  /-- VSCL -/
  | vscl (s k : Nat) (w : WF)
  /-- VCMP -/
  | vcmp (s k : Nat) (w : WF)
  /-- PCOPY -/
  | pcopy (s k : Nat) (w : WF)
  /-- PWAIT -/
  | pwait (s k : Nat) (w : WF)
  /-- PORTER_TRANSFER_END -/
  | porterTransferEnd (s i : Nat)
  /-- INSTRUCTION_FETCH -/
  | instructionFetch (s k : Nat) (line : Word)
  /-- ARRAY_PASS -/
  | arrayPass (s cyc : Nat)
  /-- HAWKER_STEP -/
  | hawkerStep (s : Nat)
  /-- WIDE_OP_FINISH -/
  | wideOpFinish (s : Nat)
  /-- ARRAY_COLD -/
  | arrayCold (s : Nat)
  /-- HAWKER_POWER_DOWN -/
  | hawkerPowerDown (s : Nat)
  /-- PREEMPT -/
  | preempt (q : Req) (s slot : Nat)
  /-- CONTEXT_SAVE_DONE -/
  | contextSaveDone (s : Nat)
  /-- HALT -/
  | haltStall (q : Req) (s : Nat)
  /-- RESTORE -/
  | restore (q : Req) (s slot : Nat)
  /-- TAKE -/
  | takeTally (o : TOwner)
  /-- SET -/
  | setTally (o : TOwner)
  /-- SIGNAL -/
  | signalTally (o : TOwner)
  /-- WAIT_UNTIL -/
  | waitUntil (o : TOwner)
  /-- ISLANDCLK_WRITE -/
  | islandclkWrite (q : Req) (s : Nat) (v : W32)
  /-- FLL_SLEW_DONE -/
  | fllSlewDone (s : Nat)
  /-- FLIT_TRANSFER -/
  | flitTransfer (h r : Nat) (out : Dir)
  /-- ARCADE_BEAT -/
  | arcadeBeat (l dir : Nat) (bad : List Nat) (seq : Byte)
  /-- REPLAY -/
  | replay (l dir : Nat)
  /-- LANE_TEST -/
  | laneTest (l dir g : Nat) (bad : List Nat) (strobe : Bool)
  /-- REMAP_DRAIN_DONE -/
  | remapDrainDone (h : Nat)
  /-- RETRAIN -/
  | retrain (q : Req) (l : Nat)
  /-- RETRAIN_DONE -/
  | retrainDone (l : Nat) (ok : Bool) (lostDown lostUp : List Nat)
  /-- CAPABILITY_RECORD -/
  | capabilityRecord (h : Nat) (g r : CapRec)
  /-- TIMEBASE_SYNC_BEAT -/
  | timebaseSyncBeat (h : Nat)
  /-- FAR_CACHE_ACCESS -/
  | farCacheAccess (off hint : Nat) (wr whole : Bool)
  /-- FAR_CHANNEL_ACCESS -/
  | farChannelAccess (ch : Nat) (use : ChanUse)
  /-- MR4_POLL -/
  | mr4Poll (m ch rank rate : Nat)
  /-- SPD_TEMP_POLL -/
  | spdTempPoll (m : Nat) (temp : Int)
  /-- DISPLACE -/
  | displace (q : Req) (m : Nat)
  /-- POWERDOWN -/
  | powerdown (q : Req) (m : Nat)
  /-- POWERDOWN_DONE -/
  | powerdownDone (m : Nat)
  /-- POWERUP -/
  | powerup (q : Req) (m : Nat)
  /-- POWERUP_DONE -/
  | powerupDone (m : Nat) (f : ModFind)
  /-- MODULE_RESTORE -/
  | moduleRestore (q : Req) (m : Nat)
  /-- LINE_MOVE -/
  | lineMove (m : Nat) (bad : Bool)
  /-- CORRECTED_REWRITE -/
  | correctedRewrite (u : EUnit) (who : EReq) (e1 : List (Nat × BitVec 16)) (es : List (List (Nat × BitVec 16)))
  /-- READ_RETRY -/
  | readRetry (u : EUnit) (who : EReq) (e1 e2 e3 rb : List (Nat × BitVec 16))
  /-- POISON_READBACK -/
  | poisonReadback (u : EUnit) (who : EReq) (rb : Readback)
  /-- PACKET_RESEND -/
  | packetResend (src dst id : Nat) (pkt : Arrival)
  /-- SLICE_SCRUB -/
  | sliceScrub (s port : Nat) (w : List (Nat × List (List (Nat × BitVec 16))))
  /-- FAR_SCRUB -/
  | farScrub (ch : Nat) (w : List (Nat × List (List (Nat × BitVec 16))))
  /-- VALID_BIT_WRITEBACK -/
  | validBitWriteback (far : Bool) (s : Nat)
  /-- LOAD -/
  | loadModel (q : Req) (p : Nat) (v : Word)
  /-- LOAD_COPY_DONE -/
  | loadCopyDone (p slot : Nat) (bad : Bool)
  /-- UNLOAD -/
  | unloadModel (q : Req) (p : Nat) (v : Word)
  /-- JISAN_REQUEST -/
  | jisanRequest (p r : Nat) (seq : W32) (rdFail : Bool)
  /-- ADMISSION -/
  | admission (i : InputRead)
  /-- STEP -/
  | jisanStep (p slot : Nat)
  /-- STEP_END -/
  | stepEnd (p : Nat) (ce : Nat) (bad : Bool)
  /-- RESUME_PARKED -/
  | resumeParked (i : InputRead)
  /-- JCANCEL -/
  | jcancel (q : Req) (p : Nat) (v : W32)
  /-- STEPLIM_EXPIRY -/
  | steplimExpiry (p : Nat)
  /-- POLICY_TICK -/
  | policyTick (fsteps : List (Nat × Nat)) (mults : List (Nat × W32)) (batch : List (Nat × Nat)) (park : List Nat)
  /-- REMOTE_WRITE -/
  | remoteWrite (p r : Nat) (seq : W32) (rd : CopReads)
  /-- REMOTE_TALLY -/
  | remoteTally (p r : Nat) (seq : W32)
  /-- COLLECTIVE -/
  | collective (p r : Nat) (seq : W32) (rd : CopReads)
  /-- OPEN -/
  | openFrame (f : Frame) (epoch : W32)
  /-- OPEN_ACK -/
  | openAckFrame (f : Frame) (epoch : W32)
  /-- START -/
  | startFrame (f : Frame) (addr len : Nat) (signal : W32)
  /-- DATA -/
  | dataFrame (f : Frame) (addr : Nat) (data : List Byte)
  /-- TALLY -/
  | tallyFrame (f : Frame) (tally : BitVec 18) (top cmp : Nat) (x : W32)
  /-- TALLY_RESULT -/
  | tallyResultFrame (f : Frame) (status : Byte) (v : W32)
  /-- ACK -/
  | ackFrame (f : Frame)
  /-- REFUSE -/
  | refuseFrame (f : Frame) (status : Byte)
  /-- COLL -/
  | collFrame (f : Frame) (handle step : Nat) (inst : W32) (data : List Byte)
  /-- CARAVAN_ABORT -/
  | caravanAbort (f : Frame) (status : Byte)
  /-- PROBE -/
  | probeFrame (f : Frame)
  /-- ACK_TIMER -/
  | ackTimer (peer port : Nat)
  /-- RTO_EXPIRY -/
  | rtoExpiry (peer port : Nat)
  /-- PROBE_TIMER -/
  | probeTimer (peer port : Nat)
  /-- LOSTTIME_EXPIRY -/
  | losttimeExpiry (peer port : Nat)
  /-- RATE_UPDATE -/
  | rateUpdate (peer port : Nat)
  /-- ETHERNET_PORT_DOWN -/
  | ethernetPortDown (port : Nat)
  /-- NEIGHBOR_DISCOVERY -/
  | neighborDiscovery (port : Nat) (ns : Bool) (target : BitVec 128) (src : BitVec 128) (mac : BitVec 48)
  /-- ICMPV6_ECHO_REQUEST -/
  | icmpv6EchoRequest (port : Nat) (dst src : BitVec 128) (ident seqno : BitVec 16) (data : List Byte)
  /-- PEERCTL_WRITE -/
  | peerctlWrite (q : Req) (v : W32)
  /-- PEERIDX_WRITE -/
  | peeridxWrite (q : Req) (v : W32)
  /-- HANDLE_WRITE -/
  | handleWrite (q : Req) (p h off size : Nat) (v : Word)
  /-- STALL_GATE -/
  | stallGate (s : Nat)
  /-- STALL_WAKE -/
  | stallWake (s : Nat)
  /-- VSET_WRITE -/
  | vsetWrite (q : Req) (rail : Nat) (v : W32)
  /-- RAIL_READ -/
  | railRead (rail mv da : Nat)
  /-- DOMAIN_ESTIMATE -/
  | domainEstimate (d uw : Nat)
  /-- GOVERNOR_TICK -/
  | governorTick (p1 p10 p1s : Nat)
  /-- DROOP_DETECT -/
  | droopDetect (s mv : Nat)
  /-- STRETCH_RELEASE -/
  | stretchRelease (s mv : Nat)
  /-- RAIL_LIMITED -/
  | railLimited (rail : Nat)
  /-- RAIL_CAP_RISE -/
  | railCapRise (rail : Nat)
  /-- DIODE_CONVERSION -/
  | diodeConversion (h : Nat) (t : Int)
  /-- THERMISTOR_CONVERSION -/
  | thermistorConversion (tin tout : Int)
  /-- SENSFAULT_TIMER -/
  | sensfaultTimer
  /-- LOWFLOW_TIMER -/
  | lowflowTimer
  /-- LAYER_MODEL_TICK -/
  | layerModelTick (h : Nat) (dramUw : List Nat)
  /-- FORECAST_TICK -/
  | forecastTick (items : List FItem) (idle : List Nat)
  /-- FLOW_DEMAND_LOWER -/
  | flowDemandLower
  /-- FORECAST_UPDATE_TIMEOUT -/
  | forecastUpdateTimeout
  /-- HEAT_FORECAST -/
  | heatForecast
  /-- GRANT -/
  | grantMsg (seq : Byte) (accept : Bool) (valid : Nat)
  /-- GRANT_REQUEST_TIMEOUT -/
  | grantRequestTimeout
  /-- GRANT_EXPIRY -/
  | grantExpiry
  /-- COOLANT_STATUS -/
  | coolantStatus (flows : List Nat) (inlet : Int) (pump leak lowpress : Bool)
  /-- CTRLSEEN_EXPIRY -/
  | ctrlseenExpiry
  /-- THERMCAP_TICK -/
  | thermcapTick
  /-- CLAMP -/
  | clampHall (h : Nat)
  /-- CLAMP_RELEASE -/
  | clampRelease (h : Nat)
  /-- TRIP -/
  | tripHall (h : Nat)
  /-- REARM -/
  | rearm (h : Nat)
  /-- RESTART -/
  | restart (q : Req) (h : Nat)
  /-- HALL_RETURN -/
  | hallReturn (h : Nat) (f : HallFind)
  /-- GATEHOUSE_TRIP -/
  | gatehouseTrip
  /-- GATEHOUSE_COOL_RESTART -/
  | gatehouseCoolRestart (f : Find)
  /-- SYS_PWRGD_ASSERT -/
  | sysPwrgdAssert (f : Find)
  /-- PERST_N -/
  | perstN (f : Find)
  /-- HOT_RESET -/
  | hotReset (f : Find)
  /-- WARM -/
  | warmReset (q : Req) (f : Find)
  /-- DEFECT_LIST_RETRY -/
  | defectListRetry (ok : Bool)
  /-- DEFECT_LIST_COMPACT -/
  | defectListCompact
  /-- BOOTCFG_WRITE -/
  | bootcfgWrite (q : Req) (v : W32)
  /-- HB -/
  | heartbeat (i : Nat)
  /-- HEARTBEAT_TIMEOUT -/
  | heartbeatTimeout (i : Nat)
  /-- WATCHDOG_EXPIRY -/
  | watchdogExpiry (i : Nat)
  /-- FATAL_FAULT -/
  | fatalFault (i : Nat)
  /-- CHECKPOINT -/
  | checkpoint (pair : Nat)
  /-- SP_RESTART_DONE -/
  | spRestartDone (i : Nat) (ok : Bool)
  /-- RETIRECMD -/
  | retireCmd (q : Req) (v : W32)
  /-- SALVAGE -/
  | salvage (q : Req) (v : W32)
  /-- LEDGER_SNAPSHOT -/
  | ledgerSnapshot (ok : Bool)
  /-- FLUSH -/
  | ledgerFlush (q : Req)
  /-- LEDGER_RETRY -/
  | ledgerRetry (ok : Bool)
  /-- LEDGER_SAMPLE -/
  | ledgerSample
  /-- BONDQ_ACCUMULATE -/
  | bondqAccumulate (layerUw : List Nat)
  /-- LIFE_UPDATE -/
  | lifeUpdate
  /-- QUERY_DEVICE_IDENTIFIERS -/
  | queryDeviceIdentifiers
  /-- GET_FIRMWARE_PARAMETERS -/
  | getFirmwareParameters
  /-- REQUEST_UPDATE -/
  | requestUpdate
  /-- PASS_COMPONENT_TABLE -/
  | passComponentTable (comps : List Nat)
  /-- UPDATE_COMPONENT -/
  | updateComponent (comp size : Nat)
  /-- REQUEST_FIRMWARE_DATA -/
  | requestFirmwareData (off : Nat) (data : List Byte)
  /-- TRANSFER_COMPLETE -/
  | transferComplete
  /-- VERIFY_COMPLETE -/
  | verifyComplete
  /-- APPLY_COMPLETE -/
  | applyComplete
  /-- ACTIVATE_FIRMWARE -/
  | activateFirmware
  /-- GET_STATUS -/
  | getStatus
  /-- CANCEL_UPDATE -/
  | cancelUpdate
  /-- CANCEL -/
  | fwCancel (q : Req)
  /-- UPDATE_AGENT_TIMEOUT -/
  | updateAgentTimeout
  /-- CONFIRM -/
  | fwConfirm (q : Req)
  /-- AUTOCONFIRM_EXPIRY -/
  | autoconfirmExpiry
  /-- MCOMMIT -/
  | mcommit (q : Req) (m : Nat) (v : W32)
  /-- WINDOW_BOUNDARY -/
  | windowBoundary (m : Nat)
  /-- SCALES_SAMPLE -/
  | scalesSample (m v : Nat)
  /-- ARM -/
  | selArm (q : Req) (s : Nat)
  /-- STOP -/
  | selStop (q : Req) (s : Nat)
  /-- DISARM -/
  | selDisarm (q : Req) (s : Nat)
  /-- TRACE_START -/
  | traceStart (s : Nat)
  /-- TRACE_STOP -/
  | traceStop (s : Nat)
  /-- SELOG_SYNC -/
  | selogSync (s : Nat)
  /-- SELOG_FLUSH -/
  | selogFlush (s : Nat)
  /-- SELRPTR_WRITE -/
  | selrptrWrite (q : Req) (s : Nat) (v : Word)
  /-- UNLOCK -/
  | jostleUnlock (q : Req) (v : W32)
  /-- JOSTLE_EXPIRY -/
  | jostleExpiry
  /-- JINJCFG_WRITE -/
  | jinjcfgWrite (q : Req) (i : Nat) (v : Word)
  /-- CRIER_WRITE -/
  | crierWrite (q : Req) (off size : Nat) (v : Word)
  /-- CRIER_READ -/
  | crierRead (q : Req) (off size : Nat)
  /-- REG_READ -/
  | regRead (seq : Byte) (off size : Nat) (rsvdOk : Bool)
  /-- REG_WRITE -/
  | regWriteMsg (seq : Byte) (off size : Nat) (v : Word) (rsvdOk : Bool) (f : Find)
  /-- SYS_PWRGD_DROP -/
  | sysPwrgdDrop (ns : Nat)
  /-- HALL_PG_DROP -/
  | hallPgDrop (h ns : Nat)
  /-- HALL_PG_TIMEOUT -/
  | hallPgTimeout (h : Nat)
  /-- CAMM_PRESENCE_CHANGE -/
  | cammPresenceChange (m : Nat) (present : Bool)
  /-- CAMM_PG_DROP -/
  | cammPgDrop (m ns : Nat)
  /-- TALLY_DESCRIPTOR -/
  | tallyDescriptor (p r : Nat) (seq : W32)
  /-- BUS_MASTER_ENABLE_CLEAR -/
  | busMasterEnableClear (fn : Nat)
  /-- CONFIGURATION_REQUEST -/
  | configurationRequest (fn off : Nat) (wr : Option W32)
  /-- ETHERNET_LINK_UP -/
  | ethernetLinkUp (port : Nat)
  /-- REGULATOR_STATUS_ALERT -/
  | regulatorStatusAlert (rail : Nat) (on : Bool)
  /-- EVENT_LOG_ENTRY_READ -/
  | eventLogEntryRead (q : Req) (i : Nat)
  /-- SALVAGE_DONE -/
  | salvageDone (ce : Nat) (bad : List Nat)
  /-- MIGRATION_DONE -/
  | migrationDone (p : Nat)
  /-- FAR_REFRESH -/
  | farRefresh (ch rank : Nat)
  /-- RESERVED_OPCODE -/
  | reservedOpcode (s k : Nat)
  deriving DecidableEq, Repr

end Sys2Proof
end

