-- ==== Sys2Proof/Decode.lean ====
section
/-!
DEFINITION. The table gives no row any bits (opcode_table.json, every "fields" empty), so no word spells a command.
-/
namespace Sys2Proof

/-- The command a word of `nbits` bits spells by the table's bits: none, for the table gives no row bits. -/
def decodeTableWord (_nbits _w : Nat) : Option Instr := none

end Sys2Proof
end

