-- ==== Sys2Proof/Machine/Bits.lean ====
section
/-!
DEFINITION. Bit fields, little-endian bytes (00 R4, R5), sign extension, and the cyclic codes the spec names: CRC-32 of the
context save (06 R145) and CRC-32C of packets and records (12 R270).
-/
namespace Sys2Proof.Machine

/-- Bits [lo + n − 1 : lo] of a number. -/
def bitsOf (v lo n : Nat) : Nat := v / 2 ^ lo % 2 ^ n

/-- Bits [lo + n − 1 : lo] of a 64-bit word. -/
def fld (w : Word) (lo n : Nat) : Nat := bitsOf w.toNat lo n

/-- Bit `i` of a 64-bit word. -/
def bit (w : Word) (i : Nat) : Bool := fld w i 1 = 1

/-- Bits of a 32-bit word. -/
def fld32 (w : W32) (lo n : Nat) : Nat := bitsOf w.toNat lo n

def bit32 (w : W32) (i : Nat) : Bool := fld32 w i 1 = 1

def ofBool (b : Bool) : Nat := if b then 1 else 0

/-- A 64-bit word from (value, low bit, width) fields that do not overlap. -/
def pack (l : List (Nat × Nat × Nat)) : Word :=
  BitVec.ofNat 64 (l.foldl (fun a f => a + f.1 % 2 ^ f.2.2 * 2 ^ f.2.1) 0)

/-- Bytes to a number, least significant first (R5). -/
def leNat : List Byte → Nat
  | [] => 0
  | b :: bs => b.toNat + 256 * leNat bs

/-- The low `n` bytes of a number, least significant first. -/
def toLE : Nat → Nat → List Byte
  | 0, _ => []
  | n + 1, v => BitVec.ofNat 8 v :: toLE n (v / 256)

def toBE (n v : Nat) : List Byte := (toLE n v).reverse

def zeros (n : Nat) : List Byte := List.replicate n 0

/-- Bytes [off, off + n) of a list as a number. -/
def leAt (l : List Byte) (off n : Nat) : Nat := leNat ((l.drop off).take n)

/-- The 64 bytes of a granule. -/
def rowBytes (r : Row) : List Byte := toLE 64 r.toNat

def rowOf (l : List Byte) : Row := BitVec.ofNat 512 (leNat l)

/-- Sign extension of the low `n` bits to 64. -/
def sext64 (n v : Nat) : Word :=
  if bitsOf v (n - 1) 1 = 1 then BitVec.ofInt 64 ((v % 2 ^ n : Nat) - (2 ^ n : Nat) : Int) else BitVec.ofNat 64 (v % 2 ^ n)

/-- A sticky counter: it stops at its maximum. -/
def stick (v max : Nat) : Nat := if v < max then v + 1 else max

/-- A 48-bit counter wraps at this increment (20 R431). -/
def wraps48 (c : BitVec 48) (n : Nat) : Bool := 2 ^ 48 ≤ c.toNat + n

/-- One step of a reflected CRC-32 with polynomial `poly` (reflected) over one byte. -/
def crcStep (poly : W32) (c : W32) : Nat → W32
  | 0 => c
  | n + 1 => crcStep poly (if c.getLsbD 0 then (c >>> 1) ^^^ poly else c >>> 1) n

def crcBytes (poly : W32) (l : List Byte) : W32 :=
  ~~~ (l.foldl (fun c b => crcStep poly (c ^^^ b.setWidth 32) 8) (BitVec.allOnes 32))

/-- CRC-32, IEEE 802.3 polynomial (06 R145). -/
def crc32 (l : List Byte) : W32 := crcBytes 0xEDB88320 l

/-- CRC-32C, polynomial 0x1EDC_6F41 (12 R270; 17; 19). -/
def crc32c (l : List Byte) : W32 := crcBytes 0x82F63B78 l

/-- a precedes b serially: (b − a) mod 2^32 from 1 to 2^31 − 1 (03 R46). -/
def serialLt (a b : W32) : Bool := let d := (b - a).toNat; decide (1 ≤ d ∧ d < 2 ^ 31)

/-- Multiples of `n`. -/
def aligned (v n : Nat) : Bool := v % n = 0

/-- ⌈a / b⌉. -/
def cdiv (a b : Nat) : Nat := (a + b - 1) / b

end Sys2Proof.Machine
end

