-- ==== Sys2Proof/Machine/Fp.lean ====
section
/-!
DEFINITION. Floating point on exact dyadics: formats of 07 R158, exact sums and products, one rounding at the end (02 R39,
07 R159, R160, R174, R175).
-/
namespace Sys2Proof.Machine

/-- A floating-point format: exponent and fraction widths, bias, magnitude bits of the largest finite value, of infinity where
it has one, and of the default NaN. -/
structure Fmt where
  eb : Nat
  mb : Nat
  bias : Nat
  top : Nat
  inf : Option Nat
  nan : Nat
  deriving DecidableEq, Repr

def Fmt.fp32 : Fmt := ⟨8, 23, 127, 0x7F7FFFFF, some 0x7F800000, 0x7FC00000⟩
def Fmt.bf16 : Fmt := ⟨8, 7, 127, 0x7F7F, some 0x7F80, 0x7FC0⟩
def Fmt.e4m3 : Fmt := ⟨4, 3, 7, 0x7E, none, 0x7F⟩
def Fmt.e5m2 : Fmt := ⟨5, 2, 15, 0x7B, some 0x7C, 0x7E⟩
def Fmt.e2m1 : Fmt := ⟨2, 1, 1, 7, none, 0⟩

def Fmt.bits (f : Fmt) : Nat := 1 + f.eb + f.mb

/-- A value: NaN, an infinity, or ± m × 2^e exactly (m = 0: a signed zero). -/
inductive FV where
  | nan
  | inf (neg : Bool)
  | fin (neg : Bool) (m : Nat) (e : Int)
  deriving DecidableEq, Repr

/-- The value a bit pattern stands for. -/
def Fmt.dec (f : Fmt) (v : Nat) : FV :=
  let mag := v % 2 ^ (f.eb + f.mb)
  let neg := v / 2 ^ (f.eb + f.mb) % 2 = 1
  let ex := mag / 2 ^ f.mb
  let fr := mag % 2 ^ f.mb
  if some mag = f.inf then .inf neg
  else if f.top < mag then .nan
  else if ex = 0 then .fin neg fr (1 - (f.bias : Int) - f.mb)
  else .fin neg (fr + 2 ^ f.mb) ((ex : Int) - (f.bias : Int) - f.mb)

/-- How a discarded part rounds (07 R160, R161). -/
inductive Rnd where
  | even
  | zero
  | stoch (u : Nat)
  deriving DecidableEq, Repr

/-- Whether a magnitude rounds up: kept part `q`, discarded part `rem` of 2^sh. -/
def Rnd.up (r : Rnd) (q rem sh : Nat) : Bool :=
  match r with
  | .even => decide (2 ^ sh < 2 * rem) || (decide (2 * rem = 2 ^ sh) && decide (q % 2 = 1))
  | .zero => false
  | .stoch u => decide (2 ^ 16 ≤ rem * 2 ^ 16 / 2 ^ sh + u)

def signBits (f : Fmt) (neg : Bool) : Nat := if neg then 2 ^ (f.eb + f.mb) else 0

/-- What a magnitude beyond the largest finite value becomes (07 R160; R159 for fp32). -/
def Fmt.overflowed (f : Fmt) (neg : Bool) (r : Rnd) : Nat :=
  signBits f neg + (match f.inf with
    | some i => if f.eb = 5 then f.top else if r = .zero then f.top else i
    | none => f.top)

/-- Round ± m × 2^e to the format once. A zero keeps its sign. -/
def Fmt.round (f : Fmt) (r : Rnd) (neg : Bool) (m : Nat) (e : Int) : Nat :=
  if m = 0 then signBits f neg
  else
    let p : Int := (f.mb : Int) + 1
    let qmin : Int := 1 - (f.bias : Int) - (f.mb : Int)
    let q : Int := max (e + ((Nat.log2 m + 1 : Nat) : Int) - p) qmin
    let mant : Nat :=
      if q ≤ e then m * 2 ^ (e - q).toNat
      else
        let sh := (q - e).toNat
        let k := m / 2 ^ sh
        if r.up k (m % 2 ^ sh) sh then k + 1 else k
    let mag := mant + (q - qmin).toNat * 2 ^ f.mb
    if f.top < mag then f.overflowed neg r else signBits f neg + mag

/-- The bits of a value in the format (07 R160). -/
def Fmt.enc (f : Fmt) (r : Rnd) (v : FV) : Nat :=
  match v with
  | .nan => f.nan
  | .inf n => match f.inf with
    | some i => signBits f n + i
    | none => signBits f n + f.top
  | .fin n m e => f.round r n m e

/-- An exact sum in the making: signed mantissa and exponent, with what specials it met. -/
structure Acc where
  m : Int := 0
  e : Int := 0
  nan : Bool := false
  pinf : Bool := false
  ninf : Bool := false
  deriving DecidableEq, Repr

def Acc.addFin (a : Acc) (m e : Int) : Acc :=
  if m = 0 then a
  else if a.m = 0 then { a with m := m, e := e }
  else if a.e ≤ e then { a with m := a.m + m * 2 ^ (e - a.e).toNat }
  else { a with m := m + a.m * 2 ^ (a.e - e).toNat, e := e }

def sgn (neg : Bool) (m : Nat) : Int := if neg then -(m : Int) else m

def Acc.add (a : Acc) (v : FV) : Acc :=
  match v with
  | .nan => { a with nan := true }
  | .inf false => { a with pinf := true }
  | .inf true => { a with ninf := true }
  | .fin n m e => a.addFin (sgn n m) e

/-- The value of an exact sum; an exact zero is +0 (07 R159). -/
def Acc.val (a : Acc) : FV :=
  if a.nan || (a.pinf && a.ninf) then .nan
  else if a.pinf then .inf false
  else if a.ninf then .inf true
  else .fin (decide (a.m < 0)) a.m.natAbs a.e

/-- The exact product of two values. -/
def FV.mul (a b : FV) : FV :=
  match a, b with
  | .nan, _ => .nan
  | _, .nan => .nan
  | .inf x, .inf y => .inf (x != y)
  | .inf x, .fin y m _ => if m = 0 then .nan else .inf (x != y)
  | .fin y m _, .inf x => if m = 0 then .nan else .inf (x != y)
  | .fin x m e, .fin y k d => .fin (x != y) (m * k) (e + d)

/-- The exact sum of two values as IEEE 754 signs it: zeros of one sign keep it, an exact cancellation is +0. -/
def FV.add (a b : FV) : FV :=
  match a, b with
  | .fin x 0 e, .fin y 0 _ => .fin (x && y) 0 e
  | _, _ => ((({} : Acc).add a).add b).val

def FV.neg : FV → FV
  | .nan => .nan
  | .inf n => .inf (!n)
  | .fin n m e => .fin (!n) m e

/-- Scale by a power of two. -/
def FV.scale (v : FV) (k : Int) : FV :=
  match v with
  | .fin n m e => .fin n m (e + k)
  | w => w

/-- a < b, NaN aside (02 R39). -/
def FV.lt (a b : FV) : Bool :=
  match a, b with
  | .nan, _ => false
  | _, .nan => false
  | .inf x, .inf y => x && !y
  | .inf x, .fin .. => x
  | .fin .., .inf y => !y
  | .fin x m e, .fin y k d => decide (((({} : Acc).addFin (sgn x m) e).addFin (-(sgn y k)) d).m < 0)

def FV.eq (a b : FV) : Bool :=
  match a, b with
  | .nan, _ => false
  | _, .nan => false
  | .inf x, .inf y => x == y
  | .inf _, .fin .. => false
  | .fin .., .inf _ => false
  | .fin x m e, .fin y k d => decide (((({} : Acc).addFin (sgn x m) e).addFin (-(sgn y k)) d).m = 0)

def FV.isNan : FV → Bool
  | .nan => true
  | _ => false

/-- The CMP codes of 02 R34 on an ordering: EQ NE LT LE GT GE. -/
def cmpCode (c : Nat) (lt eq gt : Bool) : Bool :=
  match c with
  | 0 => eq
  | 1 => !eq
  | 2 => lt
  | 3 => lt || eq
  | 4 => gt
  | _ => gt || eq

def cmpFp (c : Nat) (a b : FV) : Bool := cmpCode c (a.lt b) (a.eq b) (b.lt a)

def cmpInt (c : Nat) (a b : Int) : Bool := cmpCode c (decide (a < b)) (decide (a = b)) (decide (b < a))

/-- fp32 addition, rounded to nearest even. -/
def add32 (a b : W32) : W32 :=
  BitVec.ofNat 32 (Fmt.fp32.enc .even (FV.add (Fmt.fp32.dec a.toNat) (Fmt.fp32.dec b.toNat)))

/-- A sum's fp32 rounding as bits. -/
def Acc.fp32 (a : Acc) : W32 := BitVec.ofNat 32 (Fmt.fp32.enc .even a.val)

/-! Functions the spec bounds in units in the last place (07 R175). -/

/-- A positive real q ≈ num / den × 2^e, in fixed point: floor of the value over 2^u as an integer, and whether exact. -/
structure Fix where
  num : Nat
  den : Nat
  e : Int
  deriving DecidableEq, Repr

/-- ⌊x / 2^u⌋ for x = num/den × 2^e. -/
def Fix.floorAt (x : Fix) (u : Int) : Nat :=
  if u ≤ x.e then x.num * 2 ^ (x.e - u).toNat / x.den else x.num / (x.den * 2 ^ (u - x.e).toNat)

def Fix.exactAt (x : Fix) (u : Int) : Bool :=
  if u ≤ x.e then x.num * 2 ^ (x.e - u).toNat % x.den = 0 else x.num % (x.den * 2 ^ (u - x.e).toNat) = 0

/-- Exponent of the leading bit of x, for x > 0. -/
def Fix.lead (x : Fix) : Int :=
  let f := x.floorAt (x.e - 64)
  let g := if x.num = 0 then 0 else
    let l : Int := (Nat.log2 x.num : Int) - Nat.log2 x.den
    if f = 0 then l + x.e else (Nat.log2 f : Int) + x.e - 64
  g

/-- The magnitudes of the format within `k` units in the last place of x > 0, lowest first, beyond range clipped to what
overflow gives. -/
def Fix.within (f : Fmt) (x : Fix) (k : Nat) : List Nat :=
  let u : Int := max (x.lead - (f.mb : Int)) (1 - (f.bias : Int) - (f.mb : Int))
  let c := x.floorAt u
  let lo := if x.exactAt u then c - k else c + 1 - k
  (List.range (c + k - lo + 1)).map (fun i => f.round .even false (lo + i) u)

/-- ln 2 × 2^160. -/
def ln2Fix : Nat := 1013035739299659071135698605846798551586536899366

/-- Taylor: Σ r^i / i! for i ≤ n with r = t / 2^160, × 2^160. -/
def expSeries (t : Nat) : Nat → Nat → Nat → Nat
  | 0, _, term => term
  | n + 1, i, term => term + expSeries t n (i + 1) (term * t / 2 ^ 160 / (i + 1))

/-- e^(t / 2^160) × 2^160 for 0 ≤ t < 2^160. -/
def expFix (t : Nat) : Nat := expSeries t 40 0 (2 ^ 160)

/-- e^x for x = ± m × 2^e, |x| < 2^8: as mantissa over 2^160 with a power of two. -/
def expVal (neg : Bool) (m : Nat) (e : Int) : Fix :=
  let t := if 0 ≤ e + 160 then m * 2 ^ (e + 160).toNat else m / 2 ^ (-(e + 160)).toNat
  let k : Int := if neg then -((t / ln2Fix + 1 : Nat) : Int) else (t / ln2Fix : Nat)
  let r : Nat := if neg then (t / ln2Fix + 1) * ln2Fix - t else t % ln2Fix
  ⟨expFix r, 1, k - 160⟩

/-- 2^x for x = ± m × 2^e. -/
def exp2Val (neg : Bool) (m : Nat) (e : Int) : Fix :=
  let t : Int := if 0 ≤ e + 160 then sgn neg (m * 2 ^ (e + 160).toNat)
    else if neg then -((m / 2 ^ (-(e + 160)).toNat : Nat) : Int) else ((m / 2 ^ (-(e + 160)).toNat : Nat) : Int)
  let k := t / 2 ^ 160
  let r := (t % 2 ^ 160).toNat
  ⟨expFix (r * ln2Fix / 2 ^ 160), 1, k - 160⟩

/-- 1 / (m × 2^e). -/
def rcpVal (m : Nat) (e : Int) : Fix := ⟨1, m, -e⟩

/-- 1 / sqrt(m × 2^e): the square root to 80 bits beyond the mantissa. -/
def rsqVal (m : Nat) (e : Int) : Fix :=
  let odd := e % 2 = 1
  let m' := if odd then 2 * m else m
  let h := if odd then (e - 1) / 2 else e / 2
  ⟨2 ^ 80, Nat.sqrt (m' * 2 ^ 160), -h⟩

end Sys2Proof.Machine
end

