-- ==== Sys2Proof/Config.lean ====
section
/-!
DEFINITION. What the spec fixes per part and leaves to the part (22 R504), and the free values: constants with no body, so no
proof can see them and every claim holds whatever they are. `free` is applied to State.freeCtr, which each use advances.
-/
namespace Sys2Proof.Config

/-- The free value number `n`: what the spec leaves open, reduced by its user to the range the spec allows (log entry 5). -/
opaque free : Nat → Nat

/-- Where capability structure i lies in configuration space: 0 PCI Express, 1 MSI-X, 2 AER, 3 PTM, 4 the CXL DVSEC (02 R15). -/
opaque capBase : Nat → Nat

/-- IDENT (22). -/
opaque ident : BitVec 64

/-- GREV (22). -/
opaque grev : BitVec 8

/-- HREV of hall h (22). -/
opaque hrev : Nat → BitVec 8

/-- VBASE of stall s in mV (15 R332). -/
opaque vbase : Nat → Nat

/-- THMPARAM of hall h (16 R345): its four coefficients as the register lays them out. -/
opaque thmparam : Nat → BitVec 512

/-- The rated values of R413 (18): rated bond current-hours, refresh and temperature of hall h. -/
opaque rated : Nat → Nat

/-- The syndrome of a SEC-DED word with the wrong bits given: the matrices are internal (12 R254). -/
opaque secSynd : List Nat → BitVec 8

/-- SHA-384 of a byte string, and whether an ECDSA P-384 signature over a digest verifies against the fused root key of a
component (19 R418). -/
opaque sha384 : List Byte → List Byte
opaque sigOk : Nat → List Byte → List Byte → Bool

/-- VEXP at an fp32 operand as Jisan samples with it: which value within the accuracy of 07 R175 a part gives (13 R294). -/
opaque vexp : Nat → Nat

/-- The MAC address of Ethernet port k, and the hash of a convoy by 8 × peer + port (14 R304, R314). -/
opaque mac : Nat → BitVec 48
opaque cvhash : Nat → Nat

/-- The compatibility table fused into hall h (19 R426): 8 entries of 16 bytes and the 4 bytes of its default. -/
opaque hallcompat : Nat → List Byte

/-- Whether the revocation fuse of signing key k is blown (19 R418). -/
opaque revoked : Nat → Bool

end Sys2Proof.Config
end

