-- ==== Sys2Proof/Machine/Ecc.lean ====
section
/-!
DEFINITION. The symbol code of slices, far memory and the far cache (12 R255 to R258), and what a SEC-DED word reports for a
number of wrong bits (R254, R258).
-/
namespace Sys2Proof.Machine

/-- A symbol of GF(2^16). -/
abbrev Sym := BitVec 16

/-- Multiply by α = 0x0002 modulo x^16 + x^12 + x^3 + x + 1 (R256). -/
def mulAlpha (a : Sym) : Sym := if a.getLsbD 15 then (a <<< 1) ^^^ 0x100B else a <<< 1

/-- α^n × a. -/
def mulAlphaPow (a : Sym) : Nat → Sym
  | 0 => a
  | n + 1 => mulAlpha (mulAlphaPow a n)

/-- Product in the field: sum over the bits of b from bit n − 1 down. -/
def gfMulN (a b : Sym) : Nat → Sym
  | 0 => 0
  | n + 1 => (if b.getLsbD n then mulAlphaPow a n else 0) ^^^ gfMulN a b n

def gfMul (a b : Sym) : Sym := gfMulN a b 16

/-- a^n by squaring the exponent's bits, n given in `k` bits. -/
def gfPow (a : Sym) (n : Nat) : Nat → Sym
  | 0 => 1
  | k + 1 => let h := gfPow a (n / 2) k; let q := gfMul h h; if n % 2 = 1 then gfMul q a else q

/-- The inverse: a^(2^16 − 2). -/
def gfInv (a : Sym) : Sym := gfPow a 65534 16

/-- S0: the sum of the symbols. -/
def synd0 (c : List Sym) : Sym := c.foldl (· ^^^ ·) 0

/-- S1: the sum of c_i × α^i. -/
def synd1 (c : List Sym) : Sym := (c.zipIdx).foldl (fun a x => a ^^^ mulAlphaPow x.1 x.2) 0

/-- The encoder of R256: data symbols d0 to d15 to the 18 symbols. -/
def symEncode (d : List Sym) : List Sym :=
  let a := synd0 d
  let b := synd1 d
  let c17 := gfMul (b ^^^ mulAlphaPow a 16) (gfInv (mulAlphaPow (1 ^^^ 2) 16))
  d ++ [a ^^^ c17, c17]

/-- The poisoned word of R258: data symbols 0, check symbols with S0 = 0 and S1 = 0x5A5A. -/
def poisonWord : List Sym :=
  let x := gfMul 0x5A5A (gfInv (mulAlphaPow (1 ^^^ 2) 16))
  List.replicate 16 0 ++ [x, x]

/-- What a decoder reports. -/
inductive Dec where
  | clean
  | corrected (sym : Nat)
  | poisoned
  | uncorrectable
  deriving DecidableEq, Repr

/-- The position i ≤ 17 with S1 = α^i × S0, if any. -/
def locate (s0 s1 : Sym) : Nat → Option Nat
  | 0 => none
  | n + 1 => if mulAlphaPow s0 n = s1 then some n else locate s0 s1 n

/-- Decode by syndromes (R256); `f` is the erased position of the port, if any (R257). -/
def decodeSynd (f : Option Nat) (s0 s1 : Sym) : Dec :=
  if s0 = 0 ∧ s1 = 0x5A5A then .poisoned
  else
    match f with
    | none =>
      if s0 = 0 ∧ s1 = 0 then .clean
      else if s0 = 0 ∨ s1 = 0 then .uncorrectable
      else match locate s0 s1 18 with
        | some i => .corrected i
        | none => .uncorrectable
    | some f => if s1 ^^^ mulAlphaPow s0 f = 0 then (if s0 = 0 then .clean else .corrected f) else .uncorrectable

/-- The word that errors (position, value) reach. -/
def addErr (c : List Sym) (e : List (Nat × BitVec 16)) : List Sym := e.foldl (fun c x => c.set x.1 (c.getD x.1 0 ^^^ x.2)) c

/-- Decode a received word: the report, and the word with the symbol that it names corrected (R256, R257). -/
def decodeWord (f : Option Nat) (c : List Sym) : Dec × List Sym :=
  match decodeSynd f (synd0 c) (synd1 c) with
  | .corrected i => (.corrected i, c.set i (c.getD i 0 ^^^ synd0 c))
  | d => (d, c)

/-- The 16 data symbols of 32 bytes (R255), and the bytes of a word's data symbols. -/
def symsOf (b : List Byte) : List Sym := (List.range 16).map (fun i => BitVec.ofNat 16 ((b.getD (2 * i) 0).toNat + 256 * (b.getD (2 * i + 1) 0).toNat))

def symBytes (c : List Sym) : List Byte := (c.take 16).flatMap (fun x : Sym => [BitVec.setWidth 8 x, BitVec.setWidth 8 (x >>> 8)])

/-- What a SEC-DED word reports for `n` wrong bits (R254, R258); `none` where the outcome is open. -/
def decodeBits (pois : Bool) (n : Nat) : Option Dec :=
  match pois, n with
  | false, 0 => some .clean
  | false, 1 => some (.corrected 0)
  | false, 2 => some .uncorrectable
  | true, 0 => some .poisoned
  | true, 1 => some .uncorrectable
  | _, _ => none

def Dec.bad : Dec → Bool
  | .poisoned => true
  | .uncorrectable => true
  | _ => false

end Sys2Proof.Machine
end

