-- ==== Sys2Proof/Machine/Tab.lean ====
section
/-!
DEFINITION. Sparse plain-data tables: a list of (key, value) pairs with strictly rising keys, a set of keys of the same
form, and byte memory in its canonical form (no entry equal to what an unlisted address reads as, 12 R259).
-/
namespace Sys2Proof.Machine

/-- A table by key. What is not listed holds the default its reader names. -/
abbrev Tab (α : Type) := List (Nat × α)

def Tab.find {α : Type} : Tab α → Nat → Option α
  | [], _ => none
  | (k, v) :: t, a => if k = a then some v else Tab.find t a

def Tab.get {α : Type} (d : α) (t : Tab α) (a : Nat) : α := (Tab.find t a).getD d

def Tab.set {α : Type} : Tab α → Nat → α → Tab α
  | [], a, v => [(a, v)]
  | (k, w) :: t, a, v =>
    if a = k then (a, v) :: t else if a < k then (a, v) :: (k, w) :: t else (k, w) :: Tab.set t a v

def Tab.del {α : Type} (t : Tab α) (a : Nat) : Tab α := t.filter (fun e => e.1 ≠ a)

def Tab.upd {α : Type} (d : α) (t : Tab α) (a : Nat) (f : α → α) : Tab α := Tab.set t a (f (Tab.get d t a))

/-- Keys strictly rising: the one form of a table. -/
def Tab.sorted {α : Type} : Tab α → Bool
  | [] => true
  | [_] => true
  | (a, _) :: (b, v) :: t => decide (a < b) && Tab.sorted ((b, v) :: t)

/-- A finite set of numbers, strictly rising. -/
abbrev NSet := List Nat

def NSet.has (t : NSet) (a : Nat) : Bool := t.any (fun x => x == a)

def NSet.add : NSet → Nat → NSet
  | [], a => [a]
  | k :: t, a => if a = k then k :: t else if a < k then a :: k :: t else k :: NSet.add t a

def NSet.del (t : NSet) (a : Nat) : NSet := t.filter (fun x => x ≠ a)

/-- Add the `n` members `a, a + 1, …`. -/
def NSet.addRange (t : NSet) (a : Nat) : Nat → NSet
  | 0 => t
  | n + 1 => NSet.add (NSet.addRange t a n) (a + n)

def NSet.delRange (t : NSet) (a n : Nat) : NSet := t.filter (fun x => x < a || a + n ≤ x)

/-- Byte memory: addresses strictly rising and no entry equal to 0, which is what an unlisted address reads as. -/
abbrev Mem := List (Nat × BitVec 8)

def Mem.rd : Mem → Nat → BitVec 8
  | [], _ => 0
  | (k, v) :: t, a => if k = a then v else Mem.rd t a

/-- Put a byte, listed whatever its value is. -/
def Mem.put (m : Mem) (a : Nat) (b : BitVec 8) : Mem :=
  match m with
  | [] => [(a, b)]
  | (k, v) :: t => if a = k then (a, b) :: t else if a < k then (a, b) :: (k, v) :: t else (k, v) :: Mem.put t a b

/-- Write a byte, keeping the canonical form: writing 0 removes the entry. -/
def Mem.wr (m : Mem) (a : Nat) (b : BitVec 8) : Mem :=
  if b = 0 then m.filter (fun e => e.1 ≠ a) else Mem.put m a b

def Mem.rdBytes (m : Mem) (a : Nat) : Nat → List (BitVec 8)
  | 0 => []
  | n + 1 => Mem.rd m a :: Mem.rdBytes m (a + 1) n

def Mem.wrBytes (m : Mem) (a : Nat) : List (BitVec 8) → Mem
  | [] => m
  | b :: bs => Mem.wrBytes (Mem.wr m a b) (a + 1) bs

/-- Remove every byte of `n` addresses from `a` on (they read 0). -/
def Mem.clear (m : Mem) (a n : Nat) : Mem := m.filter (fun e => e.1 < a || a + n ≤ e.1)

/-- The canonical form. -/
def Mem.wf (m : Mem) : Bool := Tab.sorted m && m.all (fun e => e.2 ≠ 0)

end Sys2Proof.Machine
end

