-- ==== Sys2Proof/Machine/State.lean ====
section
/-!
DEFINITION. The state of the device: plain data, one structure for each block of the spec, every field with the rule that
names it and its value right after reset as its default.
-/
namespace Sys2Proof.Machine

/-! ## Memory (05, 06, 11, 12) -/

/-- The memories. `slice` is keyed by stack address (R106), `far` by far offset (R235), `shelf` by (s << 21) + offset (R136),
`host` by host bus address. Valid bits are sets of 256-byte lines (R259), poison of slices and far memory sets of 32-byte words
(R258), of shelves sets of 8-byte words, of host memory sets of 64-byte granules written with EP set (R264). `lost` names the
stalls whose valid-bit blocks are all marked lost: R262 marks and unmarks every block of a slice together. `ue` names words
whose last read was uncorrectable, or which were bad when they were written whole (R265). `sliceBack` and
`farBack` are the valid bits as the backing copies hold them (R261): a block of 512 lines is dirty where they differ. -/
structure MemSt where
  slice : Mem := []
  far : Mem := []
  shelf : Mem := []
  host : Mem := []
  sliceValid : NSet := []
  farValid : NSet := []
  lost : NSet := []
  slicePois : NSet := []
  farPois : NSet := []
  shelfPois : NSet := []
  hostPois : NSet := []
  sliceUe : NSet := []
  farUe : NSet := []
  shelfUe : NSet := []
  sliceBack : NSet := []
  farBack : NSet := []
  deriving DecidableEq, Repr

/-! ## Slices and refresh (05) -/

/-- An entry of the retirement map (R121 and the text after it): a physical row as layer << 14 | bank << 10 | ROW, its spare
(none: held, R119), the time, and whether its copy still runs (R118). -/
structure RetEnt where
  row : Nat
  spare : Option Nat
  time : Nat
  copying : Bool
  deriving DecidableEq, Repr

/-- A line request at a port of a slice (R107): its number, near or foreign, its offset and kind, whether its line was never written, the cycle it
came, whether a queue has taken it. -/
structure PortReq where
  no : Nat
  near : Bool
  off : Nat
  kind : AccKind
  fresh : Bool
  arr : Nat
  taken : Bool := false
  deriving DecidableEq, Repr

/-- A line access under way (R109): the number of its request, its port, its bank and the end of the bank-busy time, its first cycle on the
port bus, its completion; none where it occupies neither. -/
structure LineUse where
  no : Nat
  port : Nat
  bank : Option (Nat × Nat)
  bus : Option Nat
  done : Nat
  deriving DecidableEq, Repr

/-- One slice: U and D (R120), rows retired since manufacture, the retirement map, erased symbol by port (R121), whether the
slice is unavailable, the port cycle up to which requests have been issued, requests waiting at the ports with the next number, line accesses
under way, scrub position by port (R275). -/
structure SliceSt where
  u : Nat := 0
  d : Nat := 0
  retired : Nat := 0
  map : List RetEnt := []
  erased : Tab Nat := []
  unavail : Bool := false
  now : Nat := 0
  wait : List PortReq := []
  nextReq : Nat := 0
  live : List LineUse := []
  scrub : Tab Nat := []
  deriving DecidableEq, Repr

/-! ## The stall (06, 07, 10, 15, 20) -/

/-- Why a thread is or is not issuing (06, Threads and issue; R133, R135, R198). -/
inductive ThSt where
  | off
  | run
  | tally
  | group
  | syncg
  | pwait
  deriving DecidableEq, Repr

/-- The three resumable group operations (R163, R164, R172) and the weight load (R162). -/
inductive GOp where
  | mwld
  | mstrm
  | mfill
  | hmv
  deriving DecidableEq, Repr

/-- What comes back to a waiting thread (R125, R205, R206). -/
inductive Resp where
  | val (v : W32)
  | fail (cause : Nat) (addr : Word)
  deriving DecidableEq, Repr

/-- One hardware thread (R127 to R130). `half` is true while the scalar half of the pair at `pc` has taken effect and its wide
half is still to come; `npc` is then the next PC. `ending` marks a pair whose scalar half was KEND,
`skip` that the next pair begins at its wide half (SKIPS of 06 R143; ERET with HALF 1). `rd` is the destination of
an outstanding tally instruction, `resp` its result. `due` is an exception due at the next pair (R134, R205). `flow`: what the scalar half of the pair in progress was to the tracer
(20 R442): 1 a branch not taken, 2 taken, 3 JALR, 4 ERET. `stop`: the
thread has reached its stop point (R143). `kept`: of a pair whose wide half raised, its address and what its scalar half left: the next PC
and whether it was KEND (R130). `gts`: the time of the sample its last read of GTIME returned (10 R229). -/
structure Thread where
  st : ThSt := .off
  ending : Bool := false
  kended : Bool := false
  half : Bool := false
  pc : Word := 0
  npc : Word := 0
  skip : Bool := false
  g : Tab Word := []
  evec : Word := 0
  epc : Word := 0
  ecause : Word := 0
  eaddr : Word := 0
  estat : Word := 0
  escratch : Word := 0
  tstart : Word := 0
  batchcnt : Word := 0
  batchstr : Word := 0
  plist : Word := 0
  waited : Bool := false
  tsig : Nat := 0
  rd : Nat := 0
  resp : Option Resp := none
  due : Option (Nat × Word) := none
  gop : Option (GOp × WF) := none
  pport : Nat := 0
  flow : Nat := 0
  stop : Bool := false
  kept : Option (Word × Word × Bool) := none
  gts : Nat := 0
  deriving DecidableEq, Repr

/-- The matrix array (07): weight image by row, weight format, scale tile, stochastic generator (R161), cold flag and the
cycle of the last pass and of the ramp's first (R166), whether its power domain is on (R328). -/
structure ArraySt where
  loaded : Bool := false
  wfmt : Nat := 0
  scale : Nat := 0
  img : Tab Row := []
  gen : W32 := 1
  cold : Bool := true
  last : Option Nat := none
  ramp : Option Nat := none
  on : Bool := false
  deriving DecidableEq, Repr

/-- A wide operation in progress on the array or the hawker path (R163 to R173): its fields, participants, operand registers,
loop registers, next iteration and row, next block of the weight row and partial sums by vector, cycle of issue, the base of the
iteration in progress once it is read (R182), and the weight scale bytes by row as read at its start (R162). -/
structure WOp where
  op : GOp
  f : WF
  parts : List Nat
  ga : Word
  gs : Word
  cnt : Word
  str : Word
  plist : Word
  iter : Nat
  row : Nat
  blk : Nat
  acc : List W32
  issue : Nat
  done : Bool
  base : Option Word := none
  scales : List (List Nat) := []
  deriving DecidableEq, Repr

/-- A porter (R134, R145): next source and destination, bytes left, tally word, whether it signals, its thread and hint. -/
structure Porter where
  busy : Bool := false
  src : Word := 0
  dst : Word := 0
  len : Nat := 0
  tally : Word := 0
  th : Nat := 0
  hint : Nat := 0
  deriving DecidableEq, Repr

/-- A line of the instruction buffer (R140): its address and whether a pair of it executed. -/
structure IbLine where
  line : Word
  used : Bool
  deriving DecidableEq, Repr

/-- An open or last emitted BR packet: number of branches, their outcomes, bit i the i-th, and CYCLE of the last. -/
structure BrPkt where
  n : Nat := 0
  bits : Nat := 0
  cyc : Nat := 0
  deriving DecidableEq, Repr

/-- The Selog tracer (20 R439 to R446): STATE, ERR, settings of the last ARM (SELCFG, SELTRIG, SELEND, SELSINK, SELHOFF), the base and space
of its sink, the bytes in the buffer, SELWPTR, SELRPTR, packets lost since the last OVF, CYCLE of the last packet and of
the last SYNC, pairs of traced threads counted, and by thread the open BR, the last BR emitted, and the pending REP with CYCLE of its last branch. -/
structure Tracer where
  st : Nat := 0
  err : Bool := false
  cfg : Word := 0
  trig : Word := 0
  stopAt : Word := 0
  sink : Word := 0
  hoff : Word := 0
  base : Nat := 0
  buf : List Byte := []
  wptr : Word := 0
  rptr : Word := 0
  lost : Nat := 0
  cyc : Nat := 0
  sync : Nat := 0
  pairs : Nat := 0
  open_ : Tab BrPkt := []
  last : Tab BrPkt := []
  rep : Tab (Nat × Nat) := []
  deriving DecidableEq, Repr

/-- The work item a stall runs: a KERNEL descriptor or a Jisan step of a pitch. -/
inductive Work where
  | item (p r : Nat) (seq : W32)
  | jisan (p : Nat)
  deriving DecidableEq, Repr

/-- The stall's clock island (10 R213; 15 R333, R338): CURSTEP, SLEWING and the step slewed to, STRETCH, and the cycle count at
the time of the last change of rate. -/
structure ClkSt where
  cur : Nat := 48
  slewing : Bool := false
  target : Nat := 48
  stretch : Bool := false
  base : Nat := 0
  at_ : Nat := 0
  deriving DecidableEq, Repr

/-- A stall. `rows` lists the valid tile rows by tile*32 + row (R151), `rowPois` the poisoned 8-byte words of tile rows by 8 * row key + word,
`ibPois` the poisoned or unfetched words of the instruction buffer by address / 8 (12 R258; R140). `gen` is STALLGEN. `slicecfg`,
`arraycfg`, `arrayseed` are the values in effect (R122, R177), `armSlice` a SLICECFG that waits for its frame boundary and the
three pend flags written values not yet taken over (R478). `cnt` holds the 48-bit counters by their CNTOVF bit: IFETCH, IDISCARD,
PAIRS, ARRAYPASS, HAWKSTEP, NEARRD, NEARWR, FORRD, FORWR, SELLOST (20 R431). `parked` is the work item whose context this stall saved, `gated` the state of R327, `served` the pitch it served
last (R93), `halting` a HALT that waits for the pairs in progress (R144), `sel` the tracer. -/
structure Stall where
  th : Tab Thread := []
  rows : Tab Row := []
  rowPois : NSet := []
  ibPois : NSet := []
  arr : ArraySt := {}
  wop : Option WOp := none
  hawkOn : Bool := false
  hawkEnd : Nat := 0
  port : Tab Porter := []
  ibuf : List IbLine := []
  cnt : Tab (BitVec 48) := []
  cntovf : W32 := 0
  saving : Bool := false
  halting : Bool := false
  saved : Bool := false
  restoreErr : Bool := false
  lastCause : Nat := 0
  work : Option Work := none
  parked : Option Work := none
  gen : W32 := 0
  slicecfg : W32 := 0
  arraycfg : W32 := 4
  arrayseed : W32 := 1
  pendSlice : Bool := false
  armSlice : Option W32 := none
  pendArr : Bool := false
  pendSeed : Bool := false
  gated : Bool := false
  served : Nat := 0
  clk : ClkSt := {}
  sel : Tracer := {}
  deriving DecidableEq, Repr

/-! ## Tallies (09) -/

/-- A registered watch (R201). -/
structure Watch where
  id : Nat
  cond : Nat
  x : W32
  owner : TOwner
  deriving DecidableEq, Repr

/-- A tally operation on its way to its unit (R195): op 0 TAKE, 1 SET, 2 SIGNAL, 3 WAIT_UNTIL; `dev` names another
device (R205); a dead one has lost its owner and still takes effect (R207). -/
structure TOp where
  dev : Option Nat := none
  op : Nat
  id : Nat
  x : W32
  cond : Nat
  owner : TOwner
  dead : Bool := false
  deriving DecidableEq, Repr

/-- The four tally units: values by identifier, poisoned identifiers, watches in order of registration, TALLYOPS by hall,
operations in flight, entries that watches from outside a cut-off hall still hold there (R209). -/
structure TallySt where
  val : Tab W32 := []
  pois : NSet := []
  watches : List Watch := []
  ops : Tab (BitVec 48) := []
  flight : List TOp := []
  stale : List Watch := []
  deriving DecidableEq, Repr

/-! ## Rings and items (03) -/

/-- One ring (03): RINGCTL, RINGSTAT, RINGCQ, RINGSEQ fields, records not yet signalled and the time of the oldest, failed
descriptors counted for the next FENCE: (by scope, R62). -/
structure Ring where
  enable : Bool := false
  cfgerr : Bool := false
  hosterr : Bool := false
  phase : Bool := false
  fetch : Nat := 0
  dbtail : Nat := 0
  cqtail : Nat := 0
  cqhead : Nat := 0
  seqnext : W32 := 0
  unsig : Nat := 0
  oldest : Nat := 0
  written : Nat := 0
  deriving DecidableEq, Repr

/-- Pitch-level ring registers: PRINGSTAT.DBERR, DBCOUNT, and the window error counter (02 R36). -/
structure PRing where
  dberr : Nat := 0
  dbcount : W32 := 0
  winErr : W32 := 0
  deriving DecidableEq, Repr

/-- Journal stages (03, Failover). -/
inductive Stage where
  | fetched
  | intent
  | dispatched
  | ended
  deriving DecidableEq, Repr

/-- A buffer table entry as copied by the checks (R54, R55). -/
structure Buf where
  idx : Nat
  base : Nat
  len : Nat
  kind : Nat
  rd : Bool
  wr : Bool
  deriving DecidableEq, Repr

/-- One granule a running item or window operation has written: space (0 slice, 1 far, 2 host, 3 shelf), address, former bytes,
former validity, former poison, and the bytes it left there. What an early end makes indeterminate (R42) is chosen between this and the present. -/
structure Undo where
  space : Nat
  addr : Nat
  old : List Byte
  valid : Bool
  pois : List Nat
  new : List Byte := []
  deriving DecidableEq, Repr

/-- A descriptor in flight (03): where it came from, fetch order, its 64 bytes, journal stage, whether its checks passed,
time of start, the last start before a takeover (R68), RETRIED, the buffer entries and the parameter block as the checks read them (R55), destination granules written so far, and the outcome so far: status (0 while
good), FAULTADDR, RESULT, DONEBYTES; `stalls` a KERNEL runs on; `ce` corrected errors met; `lim` leading granules of `undo` before
the first failure. -/
structure Item where
  p : Nat
  r : Nat
  seq : W32
  fno : Nat
  desc : List Byte
  stage : Stage := .fetched
  checked : Bool := false
  start : Option Nat := none
  began : Option Nat := none
  retried : Bool := false
  bufs : List Buf := []
  par : List Byte := []
  undo : List Undo := []
  stat : Nat := 0
  fault : Nat := 0
  result : Nat := 0
  done : Nat := 0
  stalls : List Nat := []
  ce : Nat := 0
  indet : Bool := false
  lim : Nat := 0
  deriving DecidableEq, Repr

/-- What is held while Bus Master Enable is 0 (R83): the function; an ended item whose record is due, with its RUNTIME; or the address and
bytes of a progress word; or a vector to raise. -/
structure Held where
  fn : Nat
  item : Option (Item × Nat)
  addr : Nat
  data : List Byte
  vec : Option Nat
  deriving DecidableEq, Repr

/-- A descriptor that ended with a status of 0x10 or above: its ring, fetch number and the count of ends before it (R62). -/
structure FailRec where
  p : Nat
  r : Nat
  fno : Nat
  no : Nat
  deriving DecidableEq, Repr

/-- The ring engine: rings by 64p + r, pitch-level registers, items in flight in fetch order, next fetch number, count of
ends, failed ends and the count at each ring's last FENCE (R62), round-robin positions (R75), held writes (R83). -/
structure RingSt where
  ring : Tab Ring := []
  pr : Tab PRing := []
  items : List Item := []
  nextFno : Nat := 0
  ends : Nat := 0
  fails : List FailRec := []
  fenceAt : Tab Nat := []
  rrPitch : Nat := 0
  rrRing : Tab Nat := []
  held : List Held := []
  deriving DecidableEq, Repr

/-! ## Pitches (04, 21) -/

/-- A pitch table: the three 64-bit registers of each PENTRY and the STALLMAP words. A stall not listed has its reset value. -/
structure PTab where
  cfg : Tab Word := []
  far : Tab Word := []
  tally : Tab Word := []
  smap : Tab W32 := []
  deriving DecidableEq, Repr

/-- The pitch control block of one pitch (04; PRESETGEN of 21 R456). -/
structure PCtl where
  quiesce : Bool := false
  resetting : Bool := false
  fencecnt : W32 := 0
  fenceaddr : Word := 0
  fencesrc : W32 := 0
  presetgen : W32 := 0
  deriving DecidableEq, Repr

/-- The pitch table unit: shadow, active and the active table before the last commit, PTGEN, PTSTAT fields. -/
structure PitchSt where
  shadow : PTab := { cfg := [(0, 0x4029)], tally := [(0, 0x4000000000000)] }
  active : PTab := { cfg := [(0, 0x4029)], tally := [(0, 0x4000000000000)] }
  prev : PTab := { cfg := [(0, 0x4029)], tally := [(0, 0x4000000000000)] }
  gen : W32 := 0
  status : Nat := 0
  check : Nat := 0
  who : Nat := 0
  ctl : Tab PCtl := []
  deriving DecidableEq, Repr

/-! ## Near-bank window (02) -/

/-- A window slot (R34): its registers, WDATA by byte, BUSY and the outcome of the last operation, and, while busy, the
latched command, the granules written, and the outcome so far. -/
structure Slot where
  target : Word := 0
  len : Word := 0
  value : Word := 0
  table : Word := 0
  cmdHi : W32 := 0
  data : Mem := []
  busy : Bool := false
  status : Nat := 0
  cecnt : Nat := 0
  seq : W32 := 0
  result : Word := 0
  lcmd : Word := 0
  ltarget : Word := 0
  llen : Word := 0
  lvalue : Word := 0
  ltable : Word := 0
  pstat : Nat := 0
  pcount : Word := 0
  pce : Nat := 0
  undo : List Undo := []
  odata : Mem := []
  deriving DecidableEq, Repr

/-! ## Integrity (12) -/

/-- An event log entry, its fields as R277 lays them out. -/
structure LogEnt where
  time : Nat
  type : Nat
  unit : Nat
  req : Nat
  pitch : Option Nat
  pois : Bool
  lostb : Bool
  loc : Nat
  addr : Nat
  synd : Nat
  count : Nat
  deriving DecidableEq, Repr

/-- What R268 and R269 count by: a physical row of a slice, a symbol position of a port, a far row, a far channel, a far cache
way, the words of a stall, an arcade lane group, an aisle router. -/
inductive TUnit where
  | row (s row : Nat)
  | bond (s port sym : Nat)
  | farRow (ch row : Nat)
  | farCh (ch : Nat)
  | way (set way : Nat)
  | words (s : Nat)
  | lane (l dir g : Nat)
  | router (h r : Nat)
  deriving DecidableEq, Repr

/-- One counted event: its unit, time, whether a hard uncorrectable, and what makes it distinct (row, word) with the port and
symbol of a slice hit. -/
structure Hit where
  u : TUnit
  t : Nat
  ue : Bool
  tag : Nat
  port : Nat
  sym : Nat
  deriving DecidableEq, Repr

/-- The event log (R277, R278), the counting windows (R268), scrub positions of the far channels (R275), and packets with
bad codes as (source, destination, identifier, failed resends so far) (R270), the poisoned words of gatehouse SRAM, and the granules that
READ_RETRY has reported and their requester's own access has still to meet, as (REQ, space, granule) (R264). -/
structure IntegSt where
  log : Tab LogEnt := []
  next : Nat := 0
  overrun : Nat := 0
  read : NSet := []
  hits : List Hit := []
  farScrub : Tab Nat := []
  resend : List (Nat × Nat × Nat × Nat) := []
  gsPois : NSet := []
  reported : List (Nat × Nat × Nat) := []
  deriving DecidableEq, Repr

/-! ## Far memory (11) -/

/-- A CAMM2 module: MODSTAT, MODTEMP and MODMOVE fields, what training found (R232, R233), ranks' refresh rates (R246), the
lines a move has left and in all, the lines that were home again when a restore failed, whether its channels are lost (R248), CAMM_PWREN, and a power change under way (1 down). -/
structure Module where
  state : Nat := 0
  present : Bool := false
  rate : Nat := 0
  lasterr : Nat := 0
  retch : Nat := 0
  temp : Int := 0
  throttle : Nat := 0
  raw : Nat := 0
  ranks : Nat := 1
  serial : W32 := 0
  supported : Bool := true
  trained : Bool := false
  mr4 : Tab Nat := []
  left : Nat := 0
  total : Nat := 0
  back : Nat := 0
  lost : Bool := false
  power : Bool := false
  busy : Nat := 0
  deriving DecidableEq, Repr

/-- A way of a far cache set in age order, most recent first (R243). -/
structure CWay where
  way : Nat
  line : Nat
  dirty : Bool
  deriving DecidableEq, Repr

/-- The far path: FARLAYOUT fields, the usable units at the start (R251), modules, far cache sets, disabled ways (set*12 + way), channel queues (line offset and
whether a write), far rows remapped (channel, row), and whether the cache failed its checker (R276). -/
structure FarSt where
  used : Nat := 0
  atStart : Nat := 0
  ml : Nat := 0
  disp : Nat := 0
  chcap : Nat := 0
  usable : Nat := 0
  mod : Tab Module := []
  cache : Tab (List CWay) := []
  dis : NSet := []
  q : Tab (List (Nat × Bool)) := []
  repairs : List (Nat × Nat) := []
  cacheOff : Bool := false
  refn : Tab Nat := []
  deriving DecidableEq, Repr

/-! ## Aisles and arcade links (10) -/

/-- A flit in the network (R216): source and destination endpoint (a stall, 256 for the gatehouse, 257 + h for the tally unit of hall h) and
class, RSP or REQ; what its packet is for (0 a read, 1 a write, 2 a tally operation), the column it entered in, whether it is its packet's
first and last, and the data flits that the response to it has. -/
structure Flit where
  src : Nat
  dst : Nat
  rsp : Bool
  kind : Nat := 0
  col : Nat := 0
  head : Bool := true
  last : Bool := true
  len : Nat := 0
  deriving DecidableEq, Repr

/-- One direction of a link (R221, R222): flits not acknowledged, oldest first, whether the first of the oldest's two beats has come (narrow
mode), and the sequence number of the oldest beat; a requested replay with the groups that mismatched, whether they count toward no threshold
(20 R449), and the consecutive replays of its beat; lane groups that wait for their test; LANEMAP bytes by group. -/
structure LinkDir where
  buf : List Flit := []
  half : Bool := false
  seq : Nat := 0
  stop : Bool := false
  bad : List Nat := []
  quiet : Bool := false
  tries : Nat := 0
  faulty : NSet := []
  lanes : Tab Nat := []
  deriving DecidableEq, Repr

/-- An arcade link: ARCSTAT.STATE, what it was before a retraining (R224), ARCREPLAY, ARCCTL.RETRAIN, its directions (0 downstream, 1
upstream). -/
structure ArcLink where
  state : Nat := 0
  was : Nat := 0
  replays : W32 := 0
  retrain : Bool := false
  dir : Tab LinkDir := []
  deriving DecidableEq, Repr

/-- The network: links, router input buffers by ((64h + 8y + x)·5 + input)·2 + class in the order of `Dir`, the input each output and
class served last, by the same key over outputs. `wait` holds the flits that have not entered yet: at stall n under 2n + class, in the
gatehouse toward column x of hall h under 2(256 + 8h + x) + class. `open_` counts the far reads and writes of stalls that have not been
answered (05 R107), under (2n + kind)·5 + the hall of the destination, 4 for the gatehouse. -/
structure NetSt where
  link : Tab ArcLink := []
  inq : Tab (List Flit) := []
  wait : Tab (List Flit) := []
  open_ : Tab Nat := []
  rr : Tab Nat := []
  deriving DecidableEq, Repr

/-! ## Requesters, port, MSI-X (00, 02, 22) -/

/-- What each requester has of its own (R468, R470): ACCERRCNT, ACCERRINFO, WINPAGE. -/
structure ReqSt where
  cnt : W32 := 0
  info : Word := 0
  page : Bool := false
  deriving DecidableEq, Repr

/-- A CXL event record (02 R29; 12 R278): the log it stands in, 2 (failure) for General Media, 1 (warning) for DRAM (log entry 11); handle, and the event log entry it repeats. -/
structure CxlRec where
  ld : Nat
  log : Nat
  handle : Nat
  ent : LogEnt
  deriving DecidableEq, Repr

/-- The host port: LINKSTAT fields, functions whose Bus Master Enable is 0, configuration space as written by function and dword, HDM decoders by 2*ld + dec with their committed
setting (R22), Memory_Active, poison list as (ld, DPA) pairs, event records and policies, the next handle. -/
structure PortSt where
  width : Nat := 0
  speed : Nat := 0
  cxl : Bool := false
  pcieOnly : Bool := false
  mld : Bool := false
  bmeOff : NSet := []
  cfg : Tab W32 := []
  hdm : Tab HdmSet := []
  memActive : Bool := false
  poison : List (Nat × Nat) := []
  recs : List CxlRec := []
  nextHandle : Nat := 1
  policy : Tab W32 := []
  msix : Tab W32 := []
  pba : NSet := []
  deriving DecidableEq, Repr

/-- What a command answers its sender. -/
inductive Out where
  | none
  | reg (v : Word)
  | ur
  | crs
  | line (d : Row) (poison : Bool) (devload : Nat)
  | mbox (rc : Nat) (data : List Byte)
  | resp (status : Nat) (data : List Byte)
  deriving DecidableEq, Repr

/-- Messages the device sends. `board` goes to S2/S3 for the board controller: an entry of the event log by its index (12 R278), or a bit of
CNTOVFG (20 R431). -/
inductive Msg where
  | msix (fn vec : Nat) (addr : Word) (data : W32)
  | mctp (cmd : Nat) (data : List Byte)
  | eth (port : Nat) (dev : Nat) (op : Nat) (data : List Byte)
  | raw (port : Nat) (data : List Byte)
  | avs (rail mv : Nat)
  | board (counter : Bool) (i : Nat)
  | pldm (data : List Byte)
  deriving DecidableEq, Repr

/-! ## Halls (05, 10, 12, 16) -/

/-- A hall: rails and links (R361), trip latches (R359, R360), refresh multipliers in force and commanded (HALLREFRESH.MULT
layout), THROTTLE, FAILSAFE, REFGEN, refresh numbers by layer (R114), time of the last refresh command and whether one has come (R117),
lowest multiplier by layer that the hysteresis allows (R115), ends of refreshes by 16*layer + bank, start of frame 0, frames and
refresh slots of the frame that have passed, cut off (R223), ARCVER and ARCREMAP fields (10 R225, R223), error of the timebase copy
(R228); DIODE in 0.01 °C, the model's nodes in 10^-9 °C, CLAMP, REARMED, THERMCAP, times of the trips of 24 h, TRIPTIME (16); a return in progress (R361), a router or tally unit fault (R371),
an automatic return withheld (R362), since when the hall is cool enough for THERMCAP to rise (R357), the last DRAM
power estimates in µW. -/
structure HallSt where
  rails : Bool := false
  up : Bool := false
  cutoff : Bool := false
  tripped : Bool := false
  mult : BitVec 16 := 0xAAAA
  cmd : BitVec 16 := 0xAAAA
  throttle : BitVec 8 := 0
  failsafe : Bool := false
  refgen : W32 := 0
  refn : Tab Nat := []
  lastCmd : Nat := 0
  cmdSeen : Bool := false
  lowerOk : Tab Nat := []
  refEnd : Tab Nat := []
  frame0 : Nat := 0
  frames : Nat := 0
  quarter : Nat := 0
  gcap : CapRec := ⟨0, 0, 0, 0⟩
  hcap : CapRec := ⟨0, 0, 0, 0⟩
  agreed : Nat := 0
  afeat : Nat := 0
  nocommon : Bool := false
  remap : BitVec 16 := 0xFA50
  skew : Int := 0
  diode : Int := 0
  temp : Tab Int := []
  clamp : Bool := false
  rearmed : Bool := false
  cap : Nat := 60
  trips : List Nat := []
  tripTime : Nat := 0
  returning : Bool := false
  broken : Bool := false
  withheld : Bool := false
  cool : Option Nat := none
  dram : List Nat := []
  deriving DecidableEq, Repr

/-- The floor plan of a stall (17 R385): STATE (0 good, 1 retired at test, 2 retired in service, 3 fenced) and CAUSE. -/
structure FpStall where
  state : Nat := 0
  cause : Nat := 0
  deriving DecidableEq, Repr

/-! ## Caravan (14) -/

/-- A Caravan packet (R314): kind, flags, target and source pitch, message, PSN, KEY, ADDR and payload. -/
structure CvPkt where
  kind : Nat
  flags : Nat := 0
  tp : Nat := 0
  sp : Nat := 0
  msg : Nat := 0
  psn : W32 := 0
  key : W32 := 0
  addr : Nat := 0
  data : List Byte := []
  deriving DecidableEq, Repr

/-- A received packet that waits for its turn in PSN order (R312). -/
structure CvHeld where
  f : Frame
  kind : Nat
  addr : Nat
  data : List Byte
  deriving DecidableEq, Repr

/-- An operation of this device in flight on a convoy: op 0 a remote write, 1 to 4 a tally operation TAKE, SET, SIGNAL, WAIT_UNTIL;
its owner, source pitch, message, the PSN of its first and last packet, its length, the RA of a thread's, and the
status with which its wait is being withdrawn (`last` is then the PSN of the ABORT, R316). -/
structure CvOp where
  op : Nat
  owner : TOwner
  sp : Nat
  msg : Nat
  first : W32
  last : W32
  len : Nat
  ra : Word
  dead : Bool := false
  abort : Option Nat := none
  deriving DecidableEq, Repr

/-- An operation of the peer in progress here: a remote write with its declared range, bytes written and signal word, or a watch. -/
structure CvRx where
  watch : Bool
  msg : Nat
  tp : Nat
  sp : Nat
  addr : Nat
  len : Nat
  got : Nat
  sig : W32
  deriving DecidableEq, Repr

/-- A convoy (R311 to R313, R320), by 8 × peer + port: 0 closed, 1 opening, 2 open. `tx` holds the packets not acknowledged, oldest
first, of which the first `sent` have left. `ackTo`: an acknowledgement whose operations wait until every packet before a PSN has come. `gen` and `epoch` outlive a close. Rates are in Mb/s, RTO in µs, alpha in 1/65536. -/
structure Convoy where
  st : Nat := 0
  gen : Nat := 0
  epoch : W32 := 0
  psn : W32 := 0
  tx : List CvPkt := []
  sent : Nat := 0
  expect : W32 := 0
  ahead : List CvHeld := []
  due : Nat := 0
  ece : Bool := false
  ackTo : Option (W32 × W32) := none
  msg : Nat := 0
  ops : List CvOp := []
  rx : List CvRx := []
  use_ : Nat := 0
  rto : Nat := 64
  rate : Nat := 400000
  alpha : Nat := 0
  acks : Nat := 0
  echoes : Nat := 0
  rises : Nat := 0
  cut : Option Nat := none
  deriving DecidableEq, Repr

structure Peer where
  own : BitVec 128 := 0
  ports : Nat := 0
  valid : Bool := false
  deriving DecidableEq, Repr

/-- A landing report (R323): time, SRCDEV, source pitch, status, range start and length. -/
structure Landing where
  time : Nat
  src : Nat
  sp : Nat
  status : Nat
  addr : Nat
  len : Nat
  deriving DecidableEq, Repr

/-- The landing ring of a pitch: reports by index, next index, overruns, reports read. -/
structure LandSt where
  rep : Tab Landing := []
  next : Nat := 0
  overrun : Nat := 0
  read : NSet := []
  deriving DecidableEq, Repr

/-- An instance of a collective here (R317, R318): its descriptor, handle and number, the handle's ring, what it reads, and how far it is:
0 waits for its turn, 1 exchanges, 2 moves data. `okN`, `okP`: the exchange came and agrees. `step` counts steps received, `rx` is
what has come of the current one, `cur` what the next step sends; port and message toward NEXT and PREV, and the messages the
neighbours use; `hfail` the host granule of its input that the host fails to read (03 R83). -/
structure Coll where
  p : Nat
  r : Nat
  seq : W32
  h : Nat
  inst : W32
  st : Nat := 0
  op : Nat
  ety : Nat
  m : Nat
  rank : Nat
  next : Nat
  prev : Nat
  len : Nat
  inp : List Byte
  out : Buf
  off : Nat
  okN : Bool := false
  okP : Bool := false
  step : Nat := 0
  rx : List Byte := []
  cur : List Byte := []
  pn : Nat := 0
  mn : Nat := 0
  pp : Nat := 0
  mp : Nat := 0
  rn : Option Nat := none
  rp : Option Nat := none
  hfail : Option Nat := none
  deriving DecidableEq, Repr

/-- A COLL packet that came before its instance ran (R317), or was followed by the ABORT of its sender. -/
structure CvEarly where
  src : Nat
  p : Nat
  h : Nat
  step : Nat
  inst : W32
  msg : Nat
  data : List Byte
  gone : Bool := false
  deriving DecidableEq, Repr

/-- The Caravan engine: EPOCH, port states (CVPORT.STATE), peers, convoys, instance counts and instances by 64p + h, collective
packets that came before their instance ran, landing rings, packets dropped (R305), neighbours by port and address with their MAC. -/
structure CvSt where
  epoch : W32 := 0
  port : Tab Nat := []
  peer : Tab Peer := []
  conv : Tab Convoy := []
  inst : Tab W32 := []
  coll : List Coll := []
  early : List CvEarly := []
  land : Tab LandSt := []
  drops : Nat := 0
  nbr : List (Nat × BitVec 128 × BitVec 48) := []
  deriving DecidableEq, Repr

/-! ## Jisan (13) -/

/-- A model slot (R281 to R285): 0 EMPTY, 1 LOADING, 2 READY, 3 STALE; logical stalls in order, the fields of the package header, its
default parameter block, the STEP kernel's TMASK and CODESLICE, the slice and far regions it uses as (offset, bytes), the step number,
and, while LOADING, where the package lies (KIND, address) with its table of copies: PLACE, package offset, bytes, destination. -/
structure JSlot where
  st : Nat := 0
  stalls : List Nat := []
  vocab : Nat := 0
  ctxmax : Nat := 0
  kvtok : Nat := 0
  kvbase : Nat := 0
  stepoff : Nat := 0
  logitoff : Nat := 0
  fartop : Nat := 0
  defpar : List Byte := []
  tmask : Nat := 0
  code : Nat := 0
  regions : List (Nat × Nat) := []
  farRegions : List (Nat × Nat) := []
  step : Word := 0
  src : Nat × Nat := (0, 0)
  copies : List (Nat × Nat × Nat × Nat) := []
  deriving DecidableEq, Repr

/-- A request (R286 to R298): its descriptor, slot, SESSION, parameter block, buffers (INBUF, OUTBUF, STREAMBUF as KIND and address of
its range), INCOUNT, MAXNEW; 0 queued, 1 running, 2 parked; its admission number, context tokens (continued and own), output
tokens, tokens in its KV, KV blocks in token order by slice offset, or far-share offset while parked, the words of the progress written. -/
structure JReq where
  r : Nat
  seq : W32
  fno : Nat
  slot : Nat
  session : W32
  par : List Byte
  outb : Nat × Nat
  strm : Nat × Nat
  inp : List W32
  maxnew : Nat
  st : Nat := 0
  adm : Nat := 0
  cont : List W32 := []
  seed : Word := 0
  out : List W32 := []
  kv : Nat := 0
  blocks : List Nat := []
  deriving DecidableEq, Repr

/-- A session (R297): its token list and the KV of it still held, in slice or far blocks of a slot. -/
structure JSess where
  id : W32
  toks : List W32
  slot : Nat
  kv : Nat
  blocks : List Nat
  far : Bool
  used : Nat
  deriving DecidableEq, Repr

/-- A sequence of the step in progress (R290): its request, NNEW and whether its logits are wanted. -/
structure JPart where
  r : Nat
  seq : W32
  nnew : Nat
  logits : Bool
  deriving DecidableEq, Repr

/-- The step in progress: its slot, start, sequences, and whether a word of its step block was dropped. -/
structure JRun where
  slot : Nat
  start : Nat
  parts : List JPart
  bad : Bool := false
  deriving DecidableEq, Repr

/-- What Jisan keeps for a pitch; `rel` names blocks released only after the next checkpoint (21 R457) as (slot, far, offset);
`mig` the migrations in progress (18 R403): slot, logical index, spare;
`load` a LOAD (slot, buffer) that waits for Bus Master Enable (03 R83). -/
structure JPitch where
  slot : Tab JSlot := []
  lastStatus : Nat := 0
  lastSlot : Nat := 0
  reqs : List JReq := []
  sess : List JSess := []
  nextAdm : Nat := 0
  tokens : BitVec 48 := 0
  err : W32 := 0
  fails : W32 := 0
  run : Option JRun := none
  cfg : W32 := 0x100
  batch : Nat := 256
  rel : List (Nat × Bool × Nat) := []
  mig : List (Nat × Nat × Nat) := []
  load : Option (Nat × Nat) := none
  deriving DecidableEq, Repr

/-! ## Power (15) -/

/-- A rail: the VSET that steps are covered by (R334), VREAD, IREAD, RAILCAP, RAILLIM, ALERT, hold time in s, time of the last rise and of
the last limiting. -/
structure Rail where
  cov : Nat := 830
  vread : Nat := 0
  iread : Nat := 0
  cap : Nat := 60
  lim : Bool := false
  alert : Bool := false
  hold : Nat := 1
  rose : Option Nat := none
  limited : Option Nat := none
  deriving DecidableEq, Repr

/-- A power domain: 1 ms average in mW, energy in µJ, the fraction of a µJ in pJ, and the estimates of the
millisecond in progress: their sum in µW and number. -/
structure Domain where
  mw : Nat := 0
  uj : BitVec 48 := 0
  frac : Nat := 0
  sum : Nat := 0
  n : Nat := 0
  deriving DecidableEq, Repr

/-- A power log entry. -/
structure PwrEnt where
  time : Nat
  cause : Nat
  rail : Nat
  cap : Nat
  amps : Nat
  deriving DecidableEq, Repr

/-- Power: averages in 0.01 W, the excursion in progress with its start and whether L has fallen to PLIMIT for the rest of it, the governor's
cap (60: none), since when P1MS has been below 0.95 L, the time of its last rise, rails, domains, log. -/
structure PwrSt where
  p1 : Nat := 0
  p10 : Nat := 0
  p1s : Nat := 0
  exc : Option Nat := none
  capped : Bool := false
  excEnd : Option Nat := none
  cap : Nat := 60
  quiet : Option Nat := none
  rose : Nat := 0
  rail : Tab Rail := []
  dom : Tab Domain := []
  log : Tab PwrEnt := []
  next : Nat := 0
  overrun : Nat := 0
  deriving DecidableEq, Repr

/-! ## Coolant and thermal control (16) -/

/-- A thermal log entry. -/
structure ThEnt where
  time : Nat
  cause : Nat
  hall : Nat
  reading : Int
  deriving DecidableEq, Repr

/-- The coolant loop, the forecaster and grants: TIN and TOUT in 0.01 °C, COOLSTAT's flags, no forecaster update yet or for 1 s, DUTY, what COOLANT_STATUS reported, the duties driven with their
times, newest first, the demand as 17k and the last requirement (R352), FCAST and its power by hall and bin, GRANTSTAT with the sequence number of the pending request, the end of the grant in force and whether its excursion has begun, sequence number
of the next message, thermal log, gatehouse trip. -/
structure CoolSt where
  tin : Int := 0
  tout : Int := 0
  duty : Nat := 255
  failsafe : Bool := true
  stale : Bool := true
  sensfault : Bool := false
  lowflow : Bool := false
  ctrlseen : Bool := false
  reactive : Bool := false
  flows : List Nat := []
  fault : Bool := false
  hist : List (Nat × Nat) := []
  k : Nat := 15
  want : Nat := 15
  fcast : Word := 0
  fmw : List (List Nat) := []
  pending : Option Nat := none
  grant : Option Nat := none
  grantExc : Bool := false
  count : Nat := 0
  seq : Nat := 0
  log : Tab ThEnt := []
  next : Nat := 0
  overrun : Nat := 0
  gtrip : Bool := false
  deriving DecidableEq, Repr

/-! ## Starts, the defect list (17) and pins (23) -/

/-- One copy of the defect list: whether its header is valid, DLGEN, its records. -/
structure DlCopy where
  valid : Bool := false
  gen : W32 := 0
  recs : List Word := []
  deriving DecidableEq, Repr

/-- The defect list: copies A and B, records held in gatehouse SRAM, DLFAULT. -/
structure DlSt where
  a : DlCopy := {}
  b : DlCopy := {}
  held : List Word := []
  fault : Bool := false
  deriving DecidableEq, Repr

/-- Starts and pins: BOOTSTAT fields, FPGEN, FPSTAT.CHANGED, time of the last change, SYS_PWRGD, stored training of this power-on (R365),
whether a start has been interrupted before publication and its kind, time of publication, straps, the GREV-side capability record. -/
structure BootSt where
  phase : Nat := 0
  kind : Nat := 0
  marchRun : Bool := false
  fallback : Bool := false
  startMs : Nat := 0
  fpgen : W32 := 0
  changed : Bool := false
  changedAt : Nat := 0
  pwrgd : Bool := false
  trained : Bool := false
  pubAt : Nat := 0
  smb : Nat := 0
  ssc : Bool := false
  deriving DecidableEq, Repr

/-! ## The ledger (18) -/

/-- A committed snapshot: SNAPSEQ, calendar, timebase, counters by snapshot offset / 8. -/
structure Snap where
  seq : Nat
  cal : Int
  time : Nat
  cnt : Tab Word
  flags : Tab W32
  deriving DecidableEq, Repr

/-- The ledger: live counters and stuck flags by record, snapshots by slot, the next SNAPSEQ, LEDGERFAULT, UNSYNCED, NEWLEDGER, the calendar's
offset, last FLUSH, fractions of BONDQ, extremes (low, high) of thermal cycles by region and hall, LIFE by hall. -/
structure LedgerSt where
  cnt : Tab Word := []
  flags : Tab W32 := []
  snap : Tab Snap := []
  seq : Nat := 0
  fault : Bool := false
  unsynced : Bool := false
  newLedger : Bool := false
  offset : Int := 0
  flushed : Option Nat := none
  frac : Tab Nat := []
  cyc : Tab (Int × Int) := []
  life : Tab Word := []
  due : Bool := false
  deriving DecidableEq, Repr

/-! ## Service processors (18) -/

/-- A service processor: ROLE (0 off, 1 starting, 2 standby, 3 active, 4 failed, 5 retired), times of its failures, last HB, the Jisan slot it
loaded. -/
structure SpSt where
  role : Nat := 0
  fails : List Nat := []
  hb : Nat := 0
  img : Option Nat := none
  deriving DecidableEq, Repr

/-- A journal entry (R395): JSEQ, descriptor, STAGE, time. -/
structure JEnt where
  jseq : W32
  seq : W32
  stage : Nat
  type : Nat
  ring : Nat
  pitch : Nat
  idem : Bool
  time : Nat
  deriving DecidableEq, Repr

/-- A committed checkpoint (R393): CGEN, JPOS, PRESETGEN by pitch and Jisan's state by pitch. -/
structure CkPt where
  gen : W32
  jpos : W32
  preset : Tab W32
  jis : Tab JPitch
  deriving DecidableEq, Repr

/-- A pair (R391, R393): OWNER, NONE, SIMPLEX, BLANK, CGEN, the checkpoints of buffers A and B and the buffer last committed. -/
structure PairSt where
  owner : Nat := 0
  none_ : Bool := false
  simplex : Bool := false
  blank : Bool := false
  cgen : W32 := 0
  a : Option CkPt := none
  b : Option CkPt := none
  last : Nat := 1
  deriving DecidableEq, Repr

/-- The service processors, their pairs, the descriptor journal (entries that are not free, and the next JSEQ), BUSY and STATUS of SALVAGE,
STATUS of RETIRECMD, stalls commanded to retire at the end of a Jisan step (R404), the member that restarts for an online activation
(19 R425). -/
structure SvcSt where
  sp : Tab SpSt := []
  pair : Tab PairSt := []
  jr : List JEnt := []
  jnext : W32 := 0
  salvBusy : Bool := false
  salvStat : Nat := 0
  retStat : Nat := 0
  retire : List Nat := []
  online : Option Nat := none
  deriving DecidableEq, Repr

/-! ## Firmware (19) -/

/-- The boot record (R416): BRGEN, and of both components RUN, PENDING (0xFF none) and TRIES, and SLOTSTATE of the four slots. -/
structure BootRec where
  gen : W32 := 0
  run : List Nat := [0xFF, 0xFF]
  pend : List Nat := [0xFF, 0xFF]
  tries : List Nat := [0, 0]
  slots : List Nat := [0, 0, 0, 0]
  deriving DecidableEq, Repr

/-- What the running start took of its images, DISABLE of R427 and whether a Jisan image runs (R280); the boot record in force; the images
in the four slots; running slots; outcomes; RECOVERY, REVERTED; the update in progress (UPD 0 idle, 1 download, 2 verification, 3 verified, 4 trial)
with its slot, length announced and bytes received, and whether it came by the mailbox; LASTERR, SVNMIN; the PLDM state (0 idle, 1 learn
components, 2 ready transfer, 3 download, 4 verify, 5 apply); the slots verified in its session; whether a Jisan failover came since publication. -/
structure FwSt where
  disable : Nat := 0
  jisan : Bool := false
  rec_ : BootRec := {}
  slot : Tab (List Byte) := []
  gslot : Option Nat := none
  jslot : Option Nat := none
  hwout : Nat := 0
  pairout : Nat := 0
  recovery : Bool := false
  reverted : Bool := false
  upd : Nat := 0
  upSlot : Nat := 0
  upLen : Nat := 0
  upGot : Nat := 0
  upMbox : Bool := false
  lasterr : Nat := 0
  svnmin : Nat := 0
  pldm : Nat := 0
  ready : List Nat := []
  jfailed : Bool := false
  deriving DecidableEq, Repr

/-! ## Observation (20) -/

/-- Accumulators of a monitor over a window (R433 to R438): COUNT, SUM, MIN, MAX, UNDER, OVER, bins, SAT, WSTART, SHORT and the
configuration generation. -/
structure MonAcc where
  count : Nat := 0
  sum : Nat := 0
  min : W32 := 0
  max : W32 := 0
  under : W32 := 0
  overBin : W32 := 0
  bin : Tab W32 := []
  sat : Bool := false
  start : Nat := 0
  short : Bool := false
  gen : Nat := 0
  deriving DecidableEq, Repr

/-- A monitor: MCFG and MWIN in effect and staged, CFGGEN, PENDING, ERR, live accumulators, result bank, RSEQ, and the count of replays at the
last sample (SRC 0x06). -/
structure Monitor where
  cfg : Word := 0
  win : Word := 0
  newCfg : Word := 0
  newWin : Word := 0
  gen : Nat := 0
  pending : Bool := false
  err : Bool := false
  live : MonAcc := {}
  res : MonAcc := {}
  rseq : W32 := 0
  prev : W32 := 0
  deriving DecidableEq, Repr

/-- CNTOVFG and the domains whose WBENERGY wrapped (R431), the monitors, injections left and made (R449), UNLOCK. -/
structure ObsSt where
  cntovfg : W32 := 0
  wbovf : NSet := []
  mon : Tab Monitor := []
  inj : Tab W32 := []
  deriving DecidableEq, Repr

/-! ## The device -/

/-- The whole device. `setup` holds the set-up registers as last written, by dword (22 R478), `shadow` the high-half shadows (00 R8), `kept`
the block of each stall that retired since the start, by dword (22 R476), `jfail` and the rest the blocks' own state. -/
structure State where
  pending : List Instr := []
  freeCtr : Nat := 0
  time : Nat := 0
  out : Out := .none
  outbox : List Msg := []
  setup : Tab W32 := []
  shadow : Tab W32 := []
  kept : Tab (Tab W32) := []
  req : Tab ReqSt := []
  port : PortSt := {}
  mem : MemSt := {}
  slices : Tab SliceSt := []
  stalls : Tab Stall := []
  tally : TallySt := {}
  rings : RingSt := {}
  pt : PitchSt := {}
  slots : Tab Slot := []
  integ : IntegSt := {}
  far : FarSt := {}
  net : NetSt := {}
  pwr : PwrSt := {}
  cool : CoolSt := {}
  boot : BootSt := {}
  dl : DlSt := {}
  ledger : LedgerSt := {}
  halls : Tab HallSt := []
  fp : Tab FpStall := []
  fpValid : Bool := false
  jfail : Tab (Nat × Nat) := []
  jis : Tab JPitch := []
  svc : SvcSt := {}
  cv : CvSt := {}
  fw : FwSt := {}
  obs : ObsSt := {}
  deriving DecidableEq, Repr

/-- Why the machine stops. -/
inductive Fault where
  /-- Raised by every meaning when its command names a unit the device does not have (WellFormed); safe: nothing happens. -/
  | noSuchUnit
  deriving DecidableEq, Repr

/-- Why a command has no meaning here. -/
inductive Refusal where
  /-- Raised by an arm of Dispatch.lean whose command has no meaning in the model; safe: nothing happens. -/
  | notModelled (mnemonic : String)
  deriving DecidableEq, Repr

/-- The device before main power is good: every register at its reset value, every memory unwritten, pins low (17 R365, 23 R487). -/
def State.reset : State := {}

/-- The answer of a meaning. -/
abbrev Ans := Host.Outcome State Fault Refusal

end Sys2Proof.Machine
end

