-- ==== Sys2Proof/WellFormed.lean ====
section
/-!
DEFINITION. Which commands name units the device has: 256 stalls of four threads, 16 pitches of 64 rings and slots, four halls,
16 arcade links, 32 far channels, 1,096 power domains and so on (00, 01 R11). A command that names none is ill-formed: every
meaning answers it with the fault noSuchUnit.
-/
namespace Sys2Proof

def inStall (n : Nat) : Bool := decide (n < 256)
def inThread (n : Nat) : Bool := decide (n < 4)
def inPitch (n : Nat) : Bool := decide (n < 16)
def inRing (n : Nat) : Bool := decide (n < 64)
def inHall (n : Nat) : Bool := decide (n < 4)
def inLink (n : Nat) : Bool := decide (n < 16)
def inTwo (n : Nat) : Bool := decide (n < 2)
def inGroup (n : Nat) : Bool := decide (n < 16)
def inChan (n : Nat) : Bool := decide (n < 32)
def inRail (n : Nat) : Bool := decide (n < 5)
def inDomain (n : Nat) : Bool := decide (n < 1096)
def inDev (n : Nat) : Bool := decide (n < 65536)
def inMonitor (n : Nat) : Bool := decide (n < 576)
def inLog (n : Nat) : Bool := decide (n < 1024)
def inPort (n : Nat) : Bool := decide (n < 8)

/-- An offset within BAR0, BAR2 or BAR4 (02 R30). -/
def inBar (bar off : Nat) : Bool :=
  (bar = 0 && decide (off < 0x4000000)) || (bar = 2 && decide (off < 0x10000)) || (bar = 4 && decide (off < 0x400000))

/-- An offset of the crier ranges (22 R473). -/
def inCrier (off : Nat) : Bool := decide (0x2000000 ≤ off ∧ off < 0x4000000)

def inReq : Req → Bool
  | .host => true
  | .ld p => inPitch p
  | .sp i => inHall i

def inOwner : TOwner → Bool
  | .thread s k => inStall s && inThread k
  | .desc p r _ => inPitch p && inRing r
  | .porter s i k => inStall s && inTwo i && inThread k
  | .parked s k => inStall s && inThread k
  | .remote peer port _ => inDev peer && inPort port

def inUnit : EUnit → Bool
  | .slice s off => inStall s && decide (off < 0x10000000)
  | .far off => decide (off < 0x8000000000)
  | .shelf s off => inStall s && decide (off < 0x200000)
  | .tile s t r w => inStall s && decide (t < 32) && decide (r < 32) && decide (w < 8)
  | .ibuf s _ => inStall s
  | .tally id => decide (id < 0x40000)
  | .fcache set way w => decide (set < 32768) && decide (way < 12) && decide (w < 8)
  | .vstore s blk => inStall s && decide (blk < 2048)
  | .fvstore blk => decide (blk < 4194304)
  | .gsram _ => true

def inWho : EReq → Bool
  | .thread s k => inStall s && inThread k
  | .porter s i => inStall s && inTwo i
  | .cxl ld => inPitch ld
  | .window p n => inPitch p && inRing n
  | .item p r _ => inPitch p && inRing r
  | .scrub => true
  | .firmware => true
  | .caravan p => inPitch p

def inPkt : PktUse → Bool
  | .tally id o _ => decide (id < 0x40000) && inOwner o
  | .data u who => inUnit u && inWho who
  | .other => true

def inFrame (f : Frame) : Bool := inPort f.port && inDev f.src && inDev f.dst && inPitch f.tp && inPitch f.sp

/-- Every unit the command names exists. -/
def WellFormed (i : Instr) : Bool :=
  match i with
  | .readClear q bar off _ => inReq q && inBar bar off
  | .lowHalfRead q bar off => inReq q && inBar bar off
  | .setupRegisterWrite q bar off _ _ _ => inReq q && inBar bar off
  | .barAccessBadSize q bar off _ _ => inReq q && inBar bar off
  | .linkTraining _ _ _ _ => true
  | .hdmDecoderCommit ld dec _ => inPitch ld && inTwo dec
  | .cxlMemRead ld _ => inPitch ld
  | .cxlMemWrite ld _ _ => inPitch ld
  | .memWrPtl ld _ _ _ => inPitch ld
  | .getEventRecords ld _ => inPitch ld
  | .clearEventRecords ld _ _ => inPitch ld
  | .getEventInterruptPolicy ld => inPitch ld
  | .setEventInterruptPolicy ld _ => inPitch ld
  | .getFwInfo ld => inPitch ld
  | .transferFw ld _ _ _ _ => inPitch ld
  | .activateFw ld _ _ => inPitch ld
  | .getTimestamp ld => inPitch ld
  | .setTimestamp ld _ => inPitch ld
  | .getSupportedLogs ld => inPitch ld
  | .getLog ld _ _ _ => inPitch ld
  | .identifyMemoryDevice ld => inPitch ld
  | .getHealthInfo ld => inPitch ld
  | .getPoisonList ld _ _ => inPitch ld
  | .injectPoison ld _ => inPitch ld
  | .clearPoison ld _ _ => inPitch ld
  | .unsupportedMailboxCommand ld _ => inPitch ld
  | .getLdInfo => true
  | .getLdAllocations => true
  | .getQosControl => true
  | .setLdAllocations => true
  | .setQosControl => true
  | .fillOp q p n _ _ => inReq q && inPitch p && inRing n
  | .addReduce q p n _ _ => inReq q && inPitch p && inRing n
  | .gatherSum q p n _ _ => inReq q && inPitch p && inRing n
  | .compareCount q p n _ _ => inReq q && inPitch p && inRing n
  | .windowOpEnd p n _ => inPitch p && inRing n
  | .wabort q p n _ => inReq q && inPitch p && inRing n
  | .ringEnable q p r => inReq q && inPitch p && inRing r
  | .ringDisable q p r => inReq q && inPitch p && inRing r
  | .ringAbort q p r => inReq q && inPitch p && inRing r
  | .tailDoorbell q p r _ _ => inReq q && inPitch p && inRing r
  | .headDoorbell q p r _ => inReq q && inPitch p && inRing r
  | .descriptorFetch p r => inPitch p && inRing r
  | .submissionFetchFailed p r => inPitch p && inRing r.ring
  | .kernel p r _ => inPitch p && inRing r
  | .kernelEnd p r _ _ => inPitch p && inRing r
  | .porterCopy p r _ _ => inPitch p && inRing r
  | .porterCopyEnd p r _ _ _ => inPitch p && inRing r
  | .nearBatch p r _ _ _ => inPitch p && inRing r
  | .nearBatchEnd p r _ _ => inPitch p && inRing r
  | .fenceDescriptor p r _ => inPitch p && inRing r
  | .nopDescriptor p r _ => inPitch p && inRing r
  | .itemTimeout p r _ => inPitch p && inRing r
  | .moderationTimer p r => inPitch p && inRing r
  | .busMasterEnableSet fn => inPitch fn
  | .flr fn => inPitch fn
  | .ptCommit q _ => inReq q
  | .ptRevert q _ => inReq q
  | .stallApplyGeneration s => inStall s
  | .quiesce q p _ => inReq q && inPitch p
  | .pitchReset q p _ => inReq q && inPitch p
  | .nearRequest s _ _ _ => inStall s
  | .foreignRequest s _ _ _ => inStall s
  | .farEgress s k _ _ _ => inStall s && inThread k
  | .readResponse s k => inStall s && inThread k
  | .refreshSlot h => inHall h
  | .frameBoundary h => inHall h
  | .hallRefCmd q h _ => inReq q && inHall h
  | .multiplierLowering h _ => inHall h
  | .refreshFailsafe h => inHall h
  | .rowCopyDone s _ => inStall s
  | .snop s k => inStall s && inThread k
  | .addG s k _ _ _ => inStall s && inThread k
  | .subG s k _ _ _ => inStall s && inThread k
  | .andG s k _ _ _ => inStall s && inThread k
  | .orG s k _ _ _ => inStall s && inThread k
  | .xorG s k _ _ _ => inStall s && inThread k
  | .sllG s k _ _ _ => inStall s && inThread k
  | .srlG s k _ _ _ => inStall s && inThread k
  | .sraG s k _ _ _ => inStall s && inThread k
  | .sltG s k _ _ _ => inStall s && inThread k
  | .sltuG s k _ _ _ => inStall s && inThread k
  | .mulG s k _ _ _ => inStall s && inThread k
  | .mulhG s k _ _ _ => inStall s && inThread k
  | .mulhuG s k _ _ _ => inStall s && inThread k
  | .divG s k _ _ _ => inStall s && inThread k
  | .divuG s k _ _ _ => inStall s && inThread k
  | .remG s k _ _ _ => inStall s && inThread k
  | .remuG s k _ _ _ => inStall s && inThread k
  | .minG s k _ _ _ => inStall s && inThread k
  | .maxG s k _ _ _ => inStall s && inThread k
  | .minuG s k _ _ _ => inStall s && inThread k
  | .maxuG s k _ _ _ => inStall s && inThread k
  | .clzG s k _ _ _ => inStall s && inThread k
  | .ctzG s k _ _ _ => inStall s && inThread k
  | .popcG s k _ _ _ => inStall s && inThread k
  | .addi s k _ _ _ => inStall s && inThread k
  | .andi s k _ _ _ => inStall s && inThread k
  | .ori s k _ _ _ => inStall s && inThread k
  | .xori s k _ _ _ => inStall s && inThread k
  | .slli s k _ _ _ => inStall s && inThread k
  | .srli s k _ _ _ => inStall s && inThread k
  | .srai s k _ _ _ => inStall s && inThread k
  | .slti s k _ _ _ => inStall s && inThread k
  | .sltiu s k _ _ _ => inStall s && inThread k
  | .lui s k _ _ => inStall s && inThread k
  | .auipc s k _ _ => inStall s && inThread k
  | .lb s k _ _ _ => inStall s && inThread k
  | .lh s k _ _ _ => inStall s && inThread k
  | .lw s k _ _ _ => inStall s && inThread k
  | .ld s k _ _ _ => inStall s && inThread k
  | .lbu s k _ _ _ => inStall s && inThread k
  | .lhu s k _ _ _ => inStall s && inThread k
  | .lwu s k _ _ _ => inStall s && inThread k
  | .sb s k _ _ _ => inStall s && inThread k
  | .sh s k _ _ _ => inStall s && inThread k
  | .sw s k _ _ _ => inStall s && inThread k
  | .sd s k _ _ _ => inStall s && inThread k
  | .beq s k _ _ _ => inStall s && inThread k
  | .bne s k _ _ _ => inStall s && inThread k
  | .blt s k _ _ _ => inStall s && inThread k
  | .bge s k _ _ _ => inStall s && inThread k
  | .bltu s k _ _ _ => inStall s && inThread k
  | .bgeu s k _ _ _ => inStall s && inThread k
  | .jal s k _ _ => inStall s && inThread k
  | .jalr s k _ _ _ => inStall s && inThread k
  | .mfs s k _ _ _ => inStall s && inThread k
  | .mts s k _ _ _ => inStall s && inThread k
  | .fence s k _ => inStall s && inThread k
  | .syncg s k => inStall s && inThread k
  | .ttake s k _ _ _ _ => inStall s && inThread k
  | .tsetv s k _ _ _ _ => inStall s && inThread k
  | .tsig s k _ _ _ _ => inStall s && inThread k
  | .twait s k _ _ _ _ => inStall s && inThread k
  | .kend s k => inStall s && inThread k
  | .trap s k _ => inStall s && inThread k
  | .eret s k => inStall s && inThread k
  | .wnop s k _ => inStall s && inThread k
  | .tld s k _ => inStall s && inThread k
  | .tst s k _ => inStall s && inThread k
  | .trel s k _ => inStall s && inThread k
  | .mwld s k _ => inStall s && inThread k
  | .mstrm s k _ => inStall s && inThread k
  | .mfill s k _ => inStall s && inThread k
  | .hmv s k _ => inStall s && inThread k
  | .vop s k _ => inStall s && inThread k
  | .vfma s k _ => inStall s && inThread k
  | .vcvt s k _ => inStall s && inThread k
  | .vexp s k _ => inStall s && inThread k
  | .vrcp s k _ => inStall s && inThread k
  | .vrsq s k _ => inStall s && inThread k
  | .vred s k _ => inStall s && inThread k
  | .vscl s k _ => inStall s && inThread k
  | .vcmp s k _ => inStall s && inThread k
  | .pcopy s k _ => inStall s && inThread k
  | .pwait s k _ => inStall s && inThread k
  | .porterTransferEnd s i => inStall s && inTwo i
  | .instructionFetch s k _ => inStall s && inThread k
  | .arrayPass s _ => inStall s
  | .hawkerStep s => inStall s
  | .wideOpFinish s => inStall s
  | .arrayCold s => inStall s
  | .hawkerPowerDown s => inStall s
  | .preempt q s slot => inReq q && inStall s && inTwo slot
  | .contextSaveDone s => inStall s
  | .haltStall q s => inReq q && inStall s
  | .restore q s slot => inReq q && inStall s && inTwo slot
  | .takeTally o => inOwner o
  | .setTally o => inOwner o
  | .signalTally o => inOwner o
  | .waitUntil o => inOwner o
  | .islandclkWrite q s _ => inReq q && inStall s
  | .fllSlewDone s => inStall s
  | .flitTransfer h r _ => inHall h && inRing r
  | .arcadeBeat l dir _ _ => inLink l && inTwo dir
  | .replay l dir => inLink l && inTwo dir
  | .laneTest l dir g _ _ => inLink l && inTwo dir && inGroup g
  | .remapDrainDone h => inHall h
  | .retrain q l => inReq q && inLink l
  | .retrainDone l _ _ _ => inLink l
  | .capabilityRecord h _ _ => inHall h
  | .timebaseSyncBeat h => inHall h
  | .farCacheAccess _ _ _ _ => true
  | .farChannelAccess ch _ => inChan ch
  | .mr4Poll m ch rank _ => inHall m && inChan ch && inTwo rank
  | .spdTempPoll m _ => inHall m
  | .displace q m => inReq q && inHall m
  | .powerdown q m => inReq q && inHall m
  | .powerdownDone m => inHall m
  | .powerup q m => inReq q && inHall m
  | .powerupDone m _ => inHall m
  | .moduleRestore q m => inReq q && inHall m
  | .lineMove m _ => inHall m
  | .correctedRewrite u who _ _ => inUnit u && inWho who
  | .readRetry u who _ _ _ _ => inUnit u && inWho who
  | .poisonReadback u who _ => inUnit u && inWho who
  | .packetResend _ _ _ pkt => inPkt pkt.use
  | .sliceScrub s port _ => inStall s && inHall port
  | .farScrub ch _ => inChan ch
  | .validBitWriteback _ s => inStall s
  | .loadModel q p _ => inReq q && inPitch p
  | .loadCopyDone p slot _ => inPitch p && inPitch slot
  | .unloadModel q p _ => inReq q && inPitch p
  | .jisanRequest p r _ _ => inPitch p && inRing r
  | .admission i => inPitch i.pitch
  | .jisanStep p slot => inPitch p && inPitch slot
  | .stepEnd p _ _ => inPitch p
  | .resumeParked i => inPitch i.pitch
  | .jcancel q p _ => inReq q && inPitch p
  | .steplimExpiry p => inPitch p
  | .policyTick _ _ _ _ => true
  | .remoteWrite p r _ _ => inPitch p && inRing r
  | .remoteTally p r _ => inPitch p && inRing r
  | .collective p r _ _ => inPitch p && inRing r
  | .openFrame f _ => inFrame f
  | .openAckFrame f _ => inFrame f
  | .startFrame f _ _ _ => inFrame f
  | .dataFrame f _ _ => inFrame f
  | .tallyFrame f _ _ _ _ => inFrame f
  | .tallyResultFrame f _ _ => inFrame f
  | .ackFrame f => inFrame f
  | .refuseFrame f _ => inFrame f
  | .collFrame f _ _ _ _ => inFrame f
  | .caravanAbort f _ => inFrame f
  | .probeFrame f => inFrame f
  | .ackTimer peer port => inDev peer && inPort port
  | .rtoExpiry peer port => inDev peer && inPort port
  | .probeTimer peer port => inDev peer && inPort port
  | .losttimeExpiry peer port => inDev peer && inPort port
  | .rateUpdate peer port => inDev peer && inPort port
  | .ethernetPortDown port => inPort port
  | .neighborDiscovery port _ _ _ _ => inPort port
  | .icmpv6EchoRequest port _ _ _ _ _ => inPort port
  | .peerctlWrite q _ => inReq q
  | .peeridxWrite q _ => inReq q
  | .handleWrite q p h _ _ _ => inReq q && inPitch p && inRing h
  | .stallGate s => inStall s
  | .stallWake s => inStall s
  | .vsetWrite q rail _ => inReq q && inRail rail
  | .railRead rail _ _ => inRail rail
  | .domainEstimate d _ => inDomain d
  | .governorTick _ _ _ => true
  | .droopDetect s _ => inStall s
  | .stretchRelease s _ => inStall s
  | .railLimited rail => inRail rail
  | .railCapRise rail => inRail rail
  | .diodeConversion h _ => inHall h
  | .thermistorConversion _ _ => true
  | .sensfaultTimer => true
  | .lowflowTimer => true
  | .layerModelTick h _ => inHall h
  | .forecastTick _ _ => true
  | .flowDemandLower => true
  | .forecastUpdateTimeout => true
  | .heatForecast => true
  | .grantMsg _ _ _ => true
  | .grantRequestTimeout => true
  | .grantExpiry => true
  | .coolantStatus _ _ _ _ _ => true
  | .ctrlseenExpiry => true
  | .thermcapTick => true
  | .clampHall h => inHall h
  | .clampRelease h => inHall h
  | .tripHall h => inHall h
  | .rearm h => inHall h
  | .restart q h => inReq q && inHall h
  | .hallReturn h _ => inHall h
  | .gatehouseTrip => true
  | .gatehouseCoolRestart _ => true
  | .sysPwrgdAssert _ => true
  | .perstN _ => true
  | .hotReset _ => true
  | .warmReset q _ => inReq q
  | .defectListRetry _ => true
  | .defectListCompact => true
  | .bootcfgWrite q _ => inReq q
  | .heartbeat i => inHall i
  | .heartbeatTimeout i => inHall i
  | .watchdogExpiry i => inHall i
  | .fatalFault i => inHall i
  | .checkpoint pair => inTwo pair
  | .spRestartDone i _ => inHall i
  | .retireCmd q _ => inReq q
  | .salvage q _ => inReq q
  | .ledgerSnapshot _ => true
  | .ledgerFlush q => inReq q
  | .ledgerRetry _ => true
  | .ledgerSample => true
  | .bondqAccumulate _ => true
  | .lifeUpdate => true
  | .queryDeviceIdentifiers => true
  | .getFirmwareParameters => true
  | .requestUpdate => true
  | .passComponentTable _ => true
  | .updateComponent _ _ => true
  | .requestFirmwareData _ _ => true
  | .transferComplete => true
  | .verifyComplete => true
  | .applyComplete => true
  | .activateFirmware => true
  | .getStatus => true
  | .cancelUpdate => true
  | .fwCancel q => inReq q
  | .updateAgentTimeout => true
  | .fwConfirm q => inReq q
  | .autoconfirmExpiry => true
  | .mcommit q m _ => inReq q && inMonitor m
  | .windowBoundary m => inMonitor m
  | .scalesSample m _ => inMonitor m
  | .selArm q s => inReq q && inStall s
  | .selStop q s => inReq q && inStall s
  | .selDisarm q s => inReq q && inStall s
  | .traceStart s => inStall s
  | .traceStop s => inStall s
  | .selogSync s => inStall s
  | .selogFlush s => inStall s
  | .selrptrWrite q s _ => inReq q && inStall s
  | .jostleUnlock q _ => inReq q
  | .jostleExpiry => true
  | .jinjcfgWrite q i _ => inReq q && inHall i
  | .crierWrite q off _ _ => inReq q && inCrier off
  | .crierRead q off _ => inReq q && inCrier off
  | .regRead _ _ _ _ => true
  | .regWriteMsg _ _ _ _ _ _ => true
  | .sysPwrgdDrop _ => true
  | .hallPgDrop h _ => inHall h
  | .hallPgTimeout h => inHall h
  | .cammPresenceChange m _ => inHall m
  | .cammPgDrop m _ => inHall m
  | .tallyDescriptor p r _ => inPitch p && inRing r
  | .busMasterEnableClear fn => inPitch fn
  | .configurationRequest fn _ _ => inPitch fn
  | .ethernetLinkUp port => inPort port
  | .regulatorStatusAlert rail _ => inRail rail
  | .eventLogEntryRead q i => inReq q && inLog i
  | .salvageDone _ _ => true
  | .migrationDone p => inPitch p
  | .farRefresh ch rank => inChan ch && inTwo rank
  | .reservedOpcode s k => inStall s && inThread k

end Sys2Proof
end

