-- ==== Sys2Proof/Machine/Ops.lean ====
section
/-!
DEFINITION. The named operations over State: one home for every part, free values, the pitch table, the placement of device
addresses, and reading and writing memory with its valid bits and poison (02, 04, 05, 06, 11, 12).
-/
namespace Sys2Proof.Machine

/-- The effect of a command whose units the device has (`ok`, the check WellFormed makes of it); any other stops with
noSuchUnit. -/
def run (ok : Bool) (s : State) : Ans := if ok then .next s else .fault .noSuchUnit

/-! ## Parts of the state -/

def State.stall (s : State) (n : Nat) : Stall := Tab.get {} s.stalls n

def State.setStall (s : State) (n : Nat) (st : Stall) : State := { s with stalls := Tab.set s.stalls n st }

def State.updStall (s : State) (n : Nat) (f : Stall → Stall) : State := s.setStall n (f (s.stall n))

def Stall.thread (st : Stall) (k : Nat) : Thread := Tab.get {} st.th k

def State.thread (s : State) (n k : Nat) : Thread := (s.stall n).thread k

def State.setThread (s : State) (n k : Nat) (t : Thread) : State :=
  s.updStall n (fun st => { st with th := Tab.set st.th k t })

def State.updThread (s : State) (n k : Nat) (f : Thread → Thread) : State := s.setThread n k (f (s.thread n k))

def Stall.porter (st : Stall) (i : Nat) : Porter := Tab.get {} st.port i

def rowKey (t r : Nat) : Nat := 32 * t + r

/-- A tile row as read: 64 zero bytes where its row-valid bit is clear (07 R151). -/
def Stall.row (st : Stall) (t r : Nat) : Row := Tab.get 0 st.rows (rowKey t r)

def State.hall (s : State) (h : Nat) : HallSt := Tab.get {} s.halls h

def State.updHall (s : State) (h : Nat) (f : HallSt → HallSt) : State := { s with halls := Tab.set s.halls h (f (s.hall h)) }

def State.sliceOf (s : State) (n : Nat) : SliceSt := Tab.get {} s.slices n

def State.updSlice (s : State) (n : Nat) (f : SliceSt → SliceSt) : State :=
  { s with slices := Tab.set s.slices n (f (s.sliceOf n)) }

def State.ring (s : State) (p r : Nat) : Ring := Tab.get {} s.rings.ring (64 * p + r)

def State.updRing (s : State) (p r : Nat) (f : Ring → Ring) : State :=
  { s with rings := { s.rings with ring := Tab.set s.rings.ring (64 * p + r) (f (s.ring p r)) } }

def State.pring (s : State) (p : Nat) : PRing := Tab.get {} s.rings.pr p

def State.updPring (s : State) (p : Nat) (f : PRing → PRing) : State :=
  { s with rings := { s.rings with pr := Tab.set s.rings.pr p (f (s.pring p)) } }

def State.slot (s : State) (p n : Nat) : Slot := Tab.get {} s.slots (64 * p + n)

def State.updSlot (s : State) (p n : Nat) (f : Slot → Slot) : State :=
  { s with slots := Tab.set s.slots (64 * p + n) (f (s.slot p n)) }

def State.pctl (s : State) (p : Nat) : PCtl := Tab.get {} s.pt.ctl p

def State.updPctl (s : State) (p : Nat) (f : PCtl → PCtl) : State :=
  { s with pt := { s.pt with ctl := Tab.set s.pt.ctl p (f (s.pctl p)) } }

def State.module (s : State) (m : Nat) : Module := Tab.get {} s.far.mod m

def State.updModule (s : State) (m : Nat) (f : Module → Module) : State :=
  { s with far := { s.far with mod := Tab.set s.far.mod m (f (s.module m)) } }

def State.fpOf (s : State) (n : Nat) : FpStall := Tab.get {} s.fp n

/-- Requester number: the host 0, logical device p 1 + p, service processor i 17 + i. -/
def reqNum : Req → Nat
  | .host => 0
  | .ld p => 1 + p
  | .sp i => 17 + i

def reqIsSp : Req → Bool
  | .sp _ => true
  | _ => false

/-- The logical device of a host requester under MLD. -/
def reqLd : Req → Option Nat
  | .ld p => some p
  | _ => none

def State.reqSt (s : State) (q : Req) : ReqSt := Tab.get {} s.req (reqNum q)

def State.updReq (s : State) (q : Req) (f : ReqSt → ReqSt) : State := { s with req := Tab.set s.req (reqNum q) (f (s.reqSt q)) }

/-- Threads of the group in ascending order. -/
def threads4 : List Nat := [0, 1, 2, 3]

def allStalls : List Nat := List.range 256

def allPitches : List Nat := List.range 16

def hallOf (n : Nat) : Nat := n / 64

/-- What hall h's copy of the timebase shows when the timebase is at `t` (10 R228). -/
def State.copyTime (s : State) (h t : Nat) : Nat := ((t : Int) + (s.hall h).skew).toNat

/-! ## Set-up registers as last written (22 R478, R481) -/

/-- First byte of stall n's set-up block (22 R473). -/
def stallBase (n : Nat) : Nat := 0x1000000 + n / 64 * 0x400000 + n % 64 * 0x10000

/-- Reset values of the RW fields that do not reset to 0, by BAR0 offset of the dword. -/
def rwReset (off : Nat) : W32 :=
  if 0xA100 ≤ off ∧ off < 0xA300 then (if off % 0x40 = 0 then 8 else 0) else
  if 0x1000000 ≤ off ∧ off < 0x2000000 then
    match off % 0x10000 with
    | 0x100 => 4
    | 0x104 => 1
    | 0x300 => 48
    | 0x310 => 0x0A00
    | _ => 0
  else if 0x180000 ≤ off ∧ off < 0x200000 then (if off % 0x8000 = 0x4100 then 0x100 else 0)
  else
    match off with
    | 0x202000 => 0x01001000
    | 0x202100 => 0x028BE258
    | 0x202110 => 830
    | 0x202118 => 830
    | 0x202120 => 830
    | 0x202128 => 830
    | 0x202130 => 750
    | 0x20C020 => 2
    | 0x20C060 => 2
    | 0x20C0A0 => 2
    | 0x20C0E0 => 2
    | 0x20C408 => 0x32553000
    | 0x380000 => 0x3C00
    | 0x1008 => 2
    | 0x20A0 => 0x50A
    | 0x2100 => 6
    | 0xA004 => 0x00E81E35
    | 0xA008 => 10
    | _ => 0

/-- The dword at a BAR0 offset as last written. -/
def State.rw32 (s : State) (off : Nat) : W32 := Tab.get (rwReset off) s.setup (off / 4)

def State.setRw32 (s : State) (off : Nat) (v : W32) : State := { s with setup := Tab.set s.setup (off / 4) v }

/-- Bits written 1 of a W1S field set (00 R7). -/
def State.orRw32 (s : State) (off : Nat) (v : W32) : State := s.setRw32 off (s.rw32 off ||| v)

def State.rw64 (s : State) (off : Nat) : Word := BitVec.ofNat 64 ((s.rw32 off).toNat + (s.rw32 (off + 4)).toNat * 2 ^ 32)

def State.setRw64 (s : State) (off : Nat) (v : Word) : State :=
  (s.setRw32 off (v.setWidth 32)).setRw32 (off + 4) ((v >>> 32).setWidth 32)

/-- Registers of `n` bytes from `off` on take their reset values. -/
def State.resetRw (s : State) (off n : Nat) : State :=
  { s with setup := s.setup.filter (fun e => decide (e.1 < off / 4) || decide ((off + n) / 4 ≤ e.1)) }

/-! ## Free values (log entry 5) -/

/-- The free value the next use sees, below `n`. -/
def State.freeBelow (s : State) (n : Nat) : Nat := Config.free s.freeCtr % n

def State.freeBool (s : State) : Bool := Config.free s.freeCtr % 2 = 1

def State.freeWord (s : State) : Word := BitVec.ofNat 64 (Config.free s.freeCtr)

/-- Advance past the free value just used. -/
def State.used (s : State) : State := { s with freeCtr := s.freeCtr + 1 }

/-- Element of a list that a free value chooses. -/
def State.choose {α : Type} (s : State) (d : α) (l : List α) : α := l.getD (s.freeBelow l.length) d

/-! ## The pitch table (04) -/

def PTab.cfgOf (t : PTab) (p : Nat) : Word := Tab.get 0 t.cfg p
def PTab.farOf (t : PTab) (p : Nat) : Word := Tab.get 0 t.far p
def PTab.tallyOf (t : PTab) (p : Nat) : Word := Tab.get 0 t.tally p

/-- STALLMAP of stall n; reset ASSIGNED 1, PITCH 0, WINDOW n. -/
def PTab.mapOf (t : PTab) (n : Nat) : W32 := Tab.get (BitVec.ofNat 32 (1 + n * 256)) t.smap n

def PTab.enabled (t : PTab) (p : Nat) : Bool := bit (t.cfgOf p) 0
def PTab.jisan (t : PTab) (p : Nat) : Bool := bit (t.cfgOf p) 1
def PTab.window (t : PTab) (p : Nat) : Bool := bit (t.cfgOf p) 2
def PTab.farmode (t : PTab) (p : Nat) : Bool := bit (t.cfgOf p) 3
def PTab.defhint (t : PTab) (p : Nat) : Nat := fld (t.cfgOf p) 4 2
def PTab.ringcount (t : PTab) (p : Nat) : Nat := fld (t.cfgOf p) 8 7
def PTab.farbase (t : PTab) (p : Nat) : Nat := fld (t.farOf p) 0 12
def PTab.farsize (t : PTab) (p : Nat) : Nat := fld (t.farOf p) 16 12
def PTab.tbase (t : PTab) (p : Nat) : Nat := fld (t.tallyOf p) 0 18
def PTab.tcount (t : PTab) (p : Nat) : Nat := fld (t.tallyOf p) 32 19
def PTab.assigned (t : PTab) (n : Nat) : Bool := bit32 (t.mapOf n) 0
def PTab.winOf (t : PTab) (n : Nat) : Nat := fld32 (t.mapOf n) 8 8

/-- The pitch that owns stall n. -/
def PTab.owner (t : PTab) (n : Nat) : Option Nat := if t.assigned n then some (fld32 (t.mapOf n) 4 4) else none

/-- The stall with window index w in pitch p. -/
def PTab.stallAt (t : PTab) (p w : Nat) : Option Nat := allStalls.find? (fun n => t.owner n = some p && t.winOf n = w)

def PTab.stallsOf (t : PTab) (p : Nat) : List Nat := allStalls.filter (fun n => t.owner n = some p)

def PTab.ownsTally (t : PTab) (p id : Nat) : Bool := decide (t.tbase p ≤ id ∧ id < t.tbase p + t.tcount p)

def unit256 : Nat := 0x10000000

def PTab.ownsFar (t : PTab) (p o : Nat) : Bool :=
  decide (unit256 * t.farbase p ≤ o ∧ o < unit256 * (t.farbase p + t.farsize p))

/-- The table at every start (R84), for usable far memory of `u` units. -/
def PTab.start (u : Nat) : PTab :=
  { cfg := [(0, BitVec.ofNat 64 (1 + 8 + 2 * 16 + 64 * 256))], far := [(0, BitVec.ofNat 64 (65536 * u))],
    tally := [(0, BitVec.ofNat 64 (262144 * 2 ^ 32))], smap := [] }

/-- The table a stall has applied (R90, R91): the active one once its STALLGEN is PTGEN, else the one before the commit. -/
def State.applied (s : State) (n : Nat) : PTab := if (s.stall n).gen = s.pt.gen then s.pt.active else s.pt.prev

def State.pitchOf (s : State) (n : Nat) : Option Nat := (s.applied n).owner n

/-- APPLYING (PTSTAT): some stall has not applied the last commit. -/
def State.applying (s : State) : Bool := allStalls.any (fun n => (s.stall n).gen ≠ s.pt.gen)

/-! ## Service of stalls and backing (02 R21, 04 R88, 05) -/

def State.stallOut (s : State) (n : Nat) : Bool := (s.fpOf n).state ≠ 0

/-- Retired or fenced: what check 6 of R64 and check 4 of R35 look for (R88). -/
def State.stallGone (s : State) (n : Nat) : Bool := s.stallOut n

/-- U of a slice that may be used now (R21, R88): 0 where the stall is not good or the slice unavailable. -/
def State.usableOf (s : State) (n : Nat) : Nat :=
  if s.stallOut n || (s.sliceOf n).unavail then 0 else (s.sliceOf n).u

/-- Backed for range checks of items and window operations: the window of a retired or fenced stall counts whole (R88). -/
def State.backedTop (s : State) (n : Nat) : Nat := if s.stallGone n then 0x10000000 else s.usableOf n

def State.usableFar (s : State) : Nat := unit256 * s.far.usable

/-- Where a device address lies: a byte of a slice, of far memory, or nowhere backed by a stall. -/
inductive Place where
  | slice (n off : Nat)
  | far (off : Nat)
  | none
  deriving DecidableEq, Repr

def dpaFar : Nat := 0x1000000000

/-- DPA `d` of logical device `ld` (R20, R235): under SLD window i is stall i; under MLD the stall with that window index. -/
def State.placeDpa (s : State) (ld d : Nat) : Place :=
  if d < dpaFar then
    if s.port.mld then
      match s.pt.active.stallAt ld (d / unit256) with
      | some n => .slice n (d % unit256)
      | none => .none
    else .slice (d / unit256) (d % unit256)
  else if s.port.mld then
    let o := d - dpaFar
    if o < unit256 * s.pt.active.farsize ld then .far (o + unit256 * s.pt.active.farbase ld) else .none
  else .far (d - dpaFar)

/-- Whether the byte at a place is backed for CXL.mem and stalls (R21, R238). -/
def State.backed (s : State) : Place → Bool
  | .slice n off => decide (off < s.usableOf n)
  | .far o => decide (o < s.usableFar)
  | .none => false

/-- Whether it is backed for the range checks of items (R88). -/
def State.backedChk (s : State) : Place → Bool
  | .slice n off => decide (off < s.backedTop n)
  | .far o => decide (o < s.usableFar)
  | .none => false

/-! ## Far placement (11 R236) -/

def log2C (ml : Nat) : Nat := if ml = 3 then 5 else if ml = 2 then 4 else 3

/-- ML of FARLAYOUT as a number of positions. -/
def mlCount (ml : Nat) : Nat := if ml = 3 then 4 else ml

/-- N, lines per channel, of CHCAP. -/
def linesN (chcap : Nat) : Nat := 2 ^ (30 + chcap) / 256

/-- Fold every k-bit field of `a` into `c`. -/
def foldXor (k : Nat) : Nat → Nat → Nat → Nat
  | 0, _, c => c
  | n + 1, x, c => if x = 0 then c else foldXor k n (x / 2 ^ k) (c ^^^ (x % 2 ^ k))

/-- Members of a 4-bit set in ascending order. -/
def members4 (v : Nat) : List Nat := threads4.filter (fun m => bitsOf v m 1 = 1)

/-- Channel and channel-local line of far offset o, with `disp` the displaced modules. -/
def placeFar (used ml disp chcap o : Nat) : Nat × Nat :=
  let k := log2C ml
  let l := o / 256
  let a := l / 2 ^ k
  let c := foldXor k 64 a (l % 2 ^ k)
  let p := c / 8
  let j := c % 8
  let mods := members4 used
  let m := mods.getD p 0
  let n := mlCount ml
  if bitsOf disp m 1 = 1 then
    let live := mods.filter (fun x => bitsOf disp x 1 = 0)
    (8 * live.getD (a % (n - 1)) 0 + j, (n - 1) * linesN chcap / n + a / (n - 1))
  else (8 * m + j, a)

/-- The far line that lies on position p, channel j, line a when nothing is displaced: the inverse of `placeFar`. -/
def farLineOf (ml p j a : Nat) : Nat :=
  let k := log2C ml
  a * 2 ^ k + foldXor k 64 a (8 * p + j) % 2 ^ k

/-- A module whose lines are in use: LIVE, DISPLACING, RESTORING or FAILED (R248, R252). -/
def Module.inUse (x : Module) : Bool := x.state = 3 || x.state = 4 || x.state = 6 || x.state = 7

/-- The modules displaced as an access sees them: those of DISP, and for a module that moves or failed in a move, the lines already switched
(R250): its line index is below the moved count. Of a module that failed while it was being restored, the first `back` lines are home. -/
def State.chanOf (s : State) (o : Nat) : Nat × Nat :=
  let f := s.far
  let home := placeFar f.used f.ml 0 f.chcap o
  let away := placeFar f.used f.ml f.disp f.chcap o
  let md := s.module (home.1 / 8)
  let idx := home.2 * 8 + home.1 % 8
  let moved := decide (idx < md.total - md.left)
  if md.state = 6 then (if moved then home else away)
  else if md.state = 4 ∨ md.state = 7 then
    (if bitsOf f.disp (home.1 / 8) 1 = 1 then (if idx < md.back ∧ !moved then home else away)
     else if moved then placeFar f.used f.ml (2 ^ (home.1 / 8)) f.chcap o else home)
  else away

/-- A line of a lost channel (R248). -/
def State.stranded (s : State) (o : Nat) : Bool :=
  let c := (s.chanOf o).1
  let md := s.module (c / 8)
  md.lost || bitsOf md.retch (c % 8) 1 = 1

/-! ## Aisle segments (10 R215) -/

/-- A flit is in hall h's aisle, or about to enter it. -/
def State.aisleBusy (s : State) (h : Nat) : Bool :=
  s.net.inq.any (fun e => e.1 / 640 = h && e.2 ≠ []) || s.net.wait.any (fun e => e.1 / 128 = h && e.2 ≠ [])

/-- The floor plan marks the slice of stall n unavailable: by itself (05 R120; 12 R271), or with its hall cut off or tripped (10 R223;
16 R359). -/
def State.planUnavail (s : State) (n : Nat) : Bool := (s.sliceOf n).unavail || !(s.hall (hallOf n)).up

/-- The eight segments of hall h have power: while its rails are on, but for a hall cut off whose slices are all unavailable once its aisle is
empty. -/
def State.segsOn (s : State) (h : Nat) : Bool :=
  (s.hall h).rails && !((s.hall h).cutoff && !s.aisleBusy h && (List.range 64).all (fun i => s.planUnavail (64 * h + i)))

/-! ## Words of memory: valid bits, poison, held rows (12) -/

def physRow (off : Nat) : Nat :=
  (2 * bitsOf off 8 2 + bitsOf off 14 1) * 2 ^ 14 + bitsOf off 10 4 * 2 ^ 10 + bitsOf off 18 10

/-- The first slice offset of a physical row (05 R104). -/
def rowOff (row : Nat) : Nat := row % 1024 * 2 ^ 18 + row / 16384 % 2 * 2 ^ 14 + row / 1024 % 16 * 2 ^ 10 + row / 32768 * 2 ^ 8

/-- A held row (05 R119). -/
def State.heldRow (s : State) (n off : Nat) : Bool :=
  (s.sliceOf n).map.any (fun e => e.row = physRow off && e.spare = none)

/-- The 32-byte word at stack address a reads as uncorrectable: held, poisoned, or in an unwritten line of a lost block. -/
def State.sliceBad (s : State) (a : Nat) : Bool :=
  let m := s.mem
  let n := a / unit256
  s.heldRow n (a % unit256) || NSet.has m.slicePois (a / 32) ||
    (NSet.has m.lost n && !NSet.has m.sliceValid (a / 256))

def State.farBad (s : State) (o : Nat) : Bool := s.stranded o || NSet.has s.mem.farPois (o / 32)

/-- A word of a device space that cannot be stored to: its store is dropped (R119, R248). -/
def State.dropsSlice (s : State) (a : Nat) : Bool := s.heldRow (a / unit256) (a % unit256)

/-- The words of 32 bytes touched by n bytes from a. -/
def wordsOf (sz a n : Nat) : List Nat := if n = 0 then [] else (List.range ((a + n - 1) / sz - a / sz + 1)).map (· + a / sz)

/-- First bad 64-byte granule of n bytes of a slice from stack address a. -/
def State.sliceFault (s : State) (a n : Nat) : Option Nat :=
  ((wordsOf 32 a n).find? (fun w => s.sliceBad (w * 32))).map (fun w => w * 32 / 64 * 64)

def State.farFault (s : State) (o n : Nat) : Option Nat :=
  ((wordsOf 32 o n).find? (fun w => s.farBad (w * 32))).map (fun w => w * 32 / 64 * 64)

/-- What one write of bytes to slice or far memory did: the state and the first word dropped (R265, R119, R248), if any. -/
structure WrRes where
  s : State
  drop : Option Nat

def MemSt.sliceByte (m : MemSt) (a : Nat) (b : Byte) : MemSt := { m with slice := Mem.wr m.slice a b }

/-- Store the bytes of one 32-byte word of a slice: `b` lies within the word at a. A word covered in part and bad is dropped; a
held row drops every word; otherwise the line becomes valid and a word covered in full is no longer poisoned. In a lost,
unwritten line the words not covered are poisoned (R262). A bad word written whole is one whose last read was, or would have been,
uncorrectable: it is read back by POISON_READBACK (R265, 02 R28; log entry 91). -/
def State.wrSliceWord (s : State) (a : Nat) (b : List Byte) : WrRes :=
  let n := a / unit256
  let m := s.mem
  let w := a / 32
  let line := a / 256
  let full := a % 32 = 0 && b.length = 32
  let lostLine := NSet.has m.lost n && !NSet.has m.sliceValid line
  let m1 : MemSt := if lostLine then { m with slicePois := NSet.addRange m.slicePois (line * 8) 8 } else m
  let m2 : MemSt := { m1 with sliceValid := NSet.add m1.sliceValid line }
  if s.dropsSlice a then ⟨s, some a⟩
  else if full then
    ⟨{ s with mem := { m2 with
        slice := Mem.wrBytes m2.slice a b, slicePois := NSet.del m2.slicePois w,
        sliceUe := if s.sliceBad a then NSet.add m2.sliceUe w else m2.sliceUe } }, none⟩
  else if s.sliceBad a then ⟨{ s with mem := m2 }, some a⟩
  else ⟨{ s with mem := { m2 with slice := Mem.wrBytes m2.slice a b } }, none⟩

/-- The same for far memory: a stranded line drops every word (R248). -/
def State.wrFarWord (s : State) (o : Nat) (b : List Byte) : WrRes :=
  let m := s.mem
  let w := o / 32
  let full := o % 32 = 0 && b.length = 32
  let m2 : MemSt :=
    { m with farValid := NSet.add m.farValid (o / 256) }
  if s.stranded o then ⟨s, some o⟩
  else if full then
    ⟨{ s with mem := { m2 with
        far := Mem.wrBytes m2.far o b, farPois := NSet.del m2.farPois w,
        farUe := if s.farBad o then NSet.add m2.farUe w else m2.farUe } }, none⟩
  else if s.farBad o then ⟨{ s with mem := m2 }, some o⟩
  else ⟨{ s with mem := { m2 with far := Mem.wrBytes m2.far o b } }, none⟩

/-- Split bytes at the word boundaries of size sz: (address, bytes) pieces. `fuel` is at least the number of pieces. -/
def pieces (sz : Nat) : Nat → Nat → List Byte → List (Nat × List Byte)
  | 0, _, _ => []
  | _ + 1, _, [] => []
  | n + 1, a, b => let k := sz - a % sz; (a, b.take k) :: pieces sz n (a + k) (b.drop k)

def State.wrPieces (f : State → Nat → List Byte → WrRes) (s : State) (l : List (Nat × List Byte)) : WrRes :=
  l.foldl (fun r x => let r' := f r.s x.1 x.2; ⟨r'.s, r.drop <|> r'.drop⟩) ⟨s, none⟩

/-- Store bytes to slices by stack address. -/
def State.wrSlice (s : State) (a : Nat) (b : List Byte) : WrRes :=
  s.wrPieces State.wrSliceWord (pieces 32 (b.length + 1) a b)

/-- Store bytes to far memory by far offset. -/
def State.wrFar (s : State) (o : Nat) (b : List Byte) : WrRes := s.wrPieces State.wrFarWord (pieces 32 (b.length + 1) o b)

/-- Poison the 32-byte words of a granule of 64 bytes in a slice (R264): a held row drops the write (05 R119), and in an unwritten line of a
lost block the other words are stored poisoned too (R262). -/
def State.poisSlice (s : State) (a : Nat) : State :=
  let m := s.mem
  let line := a / 256
  let lostLine := NSet.has m.lost (a / unit256) && !NSet.has m.sliceValid line
  if s.dropsSlice a then s
  else
    { s with mem := { m with
        sliceValid := NSet.add m.sliceValid line, slice := Mem.clear m.slice (a / 64 * 64) 64,
        slicePois := if lostLine then NSet.addRange m.slicePois (line * 8) 8 else NSet.addRange m.slicePois (a / 64 * 2) 2 } }

/-- The same in far memory; a stranded line drops it (11 R248). -/
def State.poisFar (s : State) (o : Nat) : State :=
  let m := s.mem
  if s.stranded o then s
  else
    { s with mem := { m with
        farValid := NSet.add m.farValid (o / 256),
        far := Mem.clear m.far (o / 64 * 64) 64, farPois := NSet.addRange m.farPois (o / 64 * 2) 2 } }

/-- Clear the valid bits of n lines of a slice from line l (R260): they read 0. -/
def State.clearSliceLines (s : State) (l n : Nat) : State :=
  { s with mem := { s.mem with
      sliceValid := NSet.delRange s.mem.sliceValid l n, slice := Mem.clear s.mem.slice (l * 256) (n * 256),
      slicePois := NSet.delRange s.mem.slicePois (l * 8) (n * 8), sliceUe := NSet.delRange s.mem.sliceUe (l * 8) (n * 8) } }

def State.clearFarLines (s : State) (l n : Nat) : State :=
  { s with mem := { s.mem with
      farValid := NSet.delRange s.mem.farValid l n, far := Mem.clear s.mem.far (l * 256) (n * 256),
      farPois := NSet.delRange s.mem.farPois (l * 8) (n * 8), farUe := NSet.delRange s.mem.farUe (l * 8) (n * 8) } }

/-- Clear a whole slice and its lost mark (R93; step 6 of R99). -/
def State.clearSlice (s : State) (n : Nat) : State :=
  let s := s.clearSliceLines (1048576 * n) 1048576
  { s with mem := { s.mem with lost := NSet.del s.mem.lost n } }

/-- Every line of a valid-bit block is valid and poisoned (R263); slice blocks are numbered 2,048 a stall. -/
def MemSt.poisonBlock (m : MemSt) (far : Bool) (blk : Nat) : MemSt :=
  if far then
    { m with
      far := Mem.clear m.far (131072 * blk) 131072, farPois := NSet.addRange m.farPois (4096 * blk) 4096,
      farValid := NSet.addRange m.farValid (512 * blk) 512 }
  else
    { m with
      slice := Mem.clear m.slice (131072 * blk) 131072, slicePois := NSet.addRange m.slicePois (4096 * blk) 4096,
      sliceValid := NSet.addRange m.sliceValid (512 * blk) 512 }

/-- Memory over a warm start (R261, R263): every dirty block has been written back and the stores are loaded from the backing copies; `bad`
names blocks whose copy is uncorrectable, those of far memory from 1 << 20 on. -/
def MemSt.warm (m : MemSt) (bad : List Nat) : MemSt :=
  bad.foldl (fun m b => if b < 1048576 then m.poisonBlock false b else m.poisonBlock true (b - 1048576))
    { m with sliceBack := m.sliceValid, farBack := m.farValid }

/-! Shelves: byte i of an access reaches offset (off + i) mod 2^21 of one stall's shelf (06 R137). -/

def shelfAddr (n off : Nat) : Nat := 2097152 * n + off % 2097152

def State.rdShelf (s : State) (n off : Nat) : Nat → List Byte
  | 0 => []
  | k + 1 => Mem.rd s.mem.shelf (shelfAddr n off) :: State.rdShelf s n (off + 1) k

def State.shelfFault (s : State) (n off len : Nat) : Option Nat :=
  ((List.range len).find? (fun i => NSet.has s.mem.shelfPois (shelfAddr n (off + i) / 8))).map (fun i => (off + i) / 64 * 64)

def Mem.wrShelf (m : Mem) (n off : Nat) : List Byte → Mem
  | [] => m
  | b :: bs => Mem.wrShelf (Mem.wr m (shelfAddr n off) b) n (off + 1) bs

/-- The words of 8 bytes that a store to a shelf drops: bad ones covered in part (R265). -/
def State.shelfDrops (s : State) (n off : Nat) (b : List Byte) : List Nat :=
  ((pieces 8 (b.length + 1) off b).map (fun x => (shelfAddr n x.1 / 8, x.2.length))).filterMap (fun x =>
    if NSet.has s.mem.shelfPois x.1 && x.2 ≠ 8 then some (x.1 * 8) else none)

/-- Words of 8 bytes covered in full are no longer poisoned, and are read back where they were bad; a bad word covered in part is not
written (R265). -/
def State.wrShelf (s : State) (n off : Nat) (b : List Byte) : State :=
  { s with mem := { s.mem with
      shelfUe := ((pieces 8 (b.length + 1) off b).foldl (fun m x =>
        if NSet.has s.mem.shelfPois (shelfAddr n x.1 / 8) && x.2.length = 8 then NSet.add m (shelfAddr n x.1 / 8) else m) s.mem.shelfUe),
      shelf := ((pieces 8 (b.length + 1) off b).foldl (fun m x =>
        if NSet.has s.mem.shelfPois (shelfAddr n x.1 / 8) && x.2.length ≠ 8 then m else Mem.wrShelf m n x.1 x.2) s.mem.shelf),
      shelfPois := ((pieces 8 (b.length + 1) off b).foldl (fun m x =>
        if x.2.length = 8 then NSet.del m (shelfAddr n x.1 / 8) else m) s.mem.shelfPois) } }

/-- Clear a shelf to zero (R93; step 5 of R99). -/
def State.clearShelf (s : State) (n : Nat) : State :=
  { s with mem := { s.mem with
      shelf := Mem.clear s.mem.shelf (2097152 * n) 2097152,
      shelfPois := NSet.delRange s.mem.shelfPois (262144 * n) 262144 } }

/-- Store bytes to host memory. -/
def State.wrHost (s : State) (a : Nat) (b : List Byte) : State :=
  { s with mem := { s.mem with
      host := Mem.wrBytes s.mem.host a b,
      hostPois := (wordsOf 64 a b.length).foldl (fun m g => NSet.del m g) s.mem.hostPois } }

def State.rdHost (s : State) (a n : Nat) : List Byte := Mem.rdBytes s.mem.host a n

end Sys2Proof.Machine
end

