-- ==== Sys2Proof/Machine/Flags.lean ====
section
/-!
DEFINITION. What the device raises and records: MSI-X vectors with masking and pending bits (02 R32, 03 R78, R79), event
vectors of pitches, access errors (22 R468, R469), the event log (12 R277, R278), and sticky counters.
-/
namespace Sys2Proof.Machine

/-- Function that carries pitch p's vectors, and the vector numbers within it (03 R78). -/
def State.fnOf (s : State) (p : Nat) : Nat := if s.port.mld then p else 0

def State.ringVec (s : State) (p r : Nat) : Nat := if s.port.mld then r else 128 * p + r

def State.eventVec (s : State) (p : Nat) : Nat := if s.port.mld then 64 else 128 * p + 64

/-- A dword of an MSI-X table entry: 0 and 1 address, 2 data, 3 control with the mask in bit 0, set at reset (log entry 8). -/
def State.msixDw (s : State) (fn v i : Nat) : W32 := Tab.get (if i = 3 then 1 else 0) s.port.msix ((fn * 2048 + v) * 4 + i)

def State.bme (s : State) (fn : Nat) : Bool := !NSet.has s.port.bmeOff fn

/-- Put a message in the outbox. -/
def State.send (s : State) (m : Msg) : State := { s with outbox := s.outbox ++ [m] }

/-- Send or pend vector v of function fn: a masked vector sets its pending bit (R79). -/
def State.signalVec (s : State) (fn v : Nat) : State :=
  if bit32 (s.msixDw fn v 3) 0 then { s with port := { s.port with pba := NSet.add s.port.pba (fn * 2048 + v) } }
  else s.send (.msix fn v (BitVec.ofNat 64 ((s.msixDw fn v 0).toNat + (s.msixDw fn v 1).toNat * 2 ^ 32)) (s.msixDw fn v 2))

/-- Raise vector v of function fn; while Bus Master Enable is 0 it is held (R83). -/
def State.fire (s : State) (fn v : Nat) : State :=
  if s.bme fn then s.signalVec fn v
  else { s with rings := { s.rings with held := s.rings.held ++ [⟨fn, none, 0, [], some v⟩] } }

/-- Raise pitch p's event vector (R78). -/
def State.raiseEvent (s : State) (p : Nat) : State := s.fire (s.fnOf p) (s.eventVec p)

/-- Raise the event vector of every enabled pitch (17 R386). -/
def State.raiseAll (s : State) : State :=
  (allPitches.filter (fun p => s.pt.active.enabled p)).foldl State.raiseEvent s

/-- The floor plan has changed in place: FPGEN passes two values and the event is raised (R381, R386). -/
def State.fpEvent (s : State) : State :=
  if s.fpValid then
    { s with boot := { s.boot with fpgen := s.boot.fpgen + 2, changed := true, changedAt := s.time } }.raiseAll
  else s

/-- A stall counter, by its CNTOVF bit, goes up by `k`; at its wrap the bit is set and the event vector of the stall's pitch is
raised (20 R431). -/
def State.count (s : State) (n b k : Nat) : State :=
  let v := Tab.get (0 : BitVec 48) (s.stall n).cnt b
  let s := s.updStall n (fun st => { st with
    cnt := if k = 0 then st.cnt else Tab.set st.cnt b (v + BitVec.ofNat 48 k),
    cntovf := if wraps48 v k then st.cntovf ||| (1 <<< b) else st.cntovf })
  if wraps48 v k then
    match s.pitchOf n with
    | some p => s.raiseEvent p
    | none => s
  else s

/-- A global counter wrapped: bit `b` of CNTOVFG; under SLD every enabled pitch's event vector is raised (20 R431). -/
def State.globalOvf (s : State) (b : Nat) : State :=
  let s := { s with obs := { s.obs with cntovfg := s.obs.cntovfg ||| (1 <<< b) } }
  if s.port.mld then s.send (.board true b) else s.raiseAll

/-- The SIZE code of ACCERRINFO: 2 for 32 bits, 3 for 64, otherwise the log2 of the byte count. -/
def sizeCode (bytes : Nat) : Nat := Nat.log2 bytes

def barCode (bar : Nat) : Nat := if bar = 2 then 1 else if bar = 4 then 2 else 0

/-- Record an access error of requester q (R468, R469). -/
def State.accessError (s : State) (q : Req) (bar off bytes : Nat) (wr : Bool) : State :=
  let r := s.reqSt q
  let first := r.cnt = 0
  let info := if first then pack [(off, 0, 26), (ofBool wr, 26, 1), (sizeCode bytes, 27, 3), (barCode bar, 30, 2)] else r.info
  let s := s.updReq q (fun r => { r with cnt := if r.cnt = BitVec.allOnes 32 then r.cnt else r.cnt + 1, info := info })
  if first then
    match q with
    | .host => s.raiseEvent 0
    | .ld p => s.raiseEvent p
    | .sp _ => s
  else s

/-- Whether a requester exists now: once a start has run its phase 2 (17 R369), the host under SLD, a logical device under MLD; a service
processor that may act (18 R391). -/
def State.isReq (s : State) : Req → Bool
  | .host => !s.port.mld && s.boot.phase ≠ 0
  | .ld _ => s.port.mld && s.boot.phase ≠ 0
  | .sp i => (Tab.get {} s.svc.sp i : SpSt).role = 3

/-- The active member of pair q (18 R390). -/
def State.pairActive (s : State) (q : Nat) : Bool :=
  [2 * q, 2 * q + 1].any (fun i => (Tab.get {} s.svc.sp i : SpSt).role = 3)

/-- A Jisan image runs (13 R280, 18 R400, R401). -/
def State.jisanRuns (s : State) : Bool := s.fw.jisan && s.pairActive 0

def reqIsHost : Req → Bool
  | .sp _ => false
  | _ => true

/-- Requester q reaches pitch p's parts (22 R466). -/
def reqOwns (q : Req) (p : Nat) : Bool :=
  match q with
  | .ld i => i = p
  | _ => true

/-- Append a CXL event record for logical device `ld` (02 R27, R29; 12 R278) and raise what its interrupt policy asks: one byte
a log, mode 1 is MSI-X with the vector in [7:4] (log entry 11). -/
def State.cxlRecord (s : State) (ld log : Nat) (e : LogEnt) : State :=
  let s := { s with port := { s.port with
      recs := s.port.recs ++ [⟨ld, log, s.port.nextHandle, e⟩], nextHandle := s.port.nextHandle + 1 } }
  let pol := fld32 (Tab.get 0 s.port.policy ld) (8 * log) 8
  if pol % 4 = 1 then s.fire (if s.port.mld then ld else 0) (pol / 16) else s

/-- What FLAGS and SYND of a TYPE 3 entry say of the granule it names: poisoned, or of an unwritten line of a lost block, which reads as
poisoned (12 R258, R262, R277). An entry with a syndrome of its own keeps it. -/
def State.markBad (s : State) (e : LogEnt) : LogEnt :=
  let m := s.mem
  let w := e.addr / 64 * 2
  let lost := e.unit = 0 && NSet.has m.lost (e.addr / unit256) && !NSet.has m.sliceValid (e.addr / 256)
  let pois := lost || match e.unit with
    | 0 => NSet.has m.slicePois w || NSet.has m.slicePois (w + 1)
    | 1 => NSet.has m.farPois w || NSet.has m.farPois (w + 1)
    | 2 => (List.range 8).any (fun i => NSet.has m.shelfPois (e.addr / 64 * 8 + i))
    | _ => e.pois
  if e.type ≠ 3 ∨ e.synd ≠ 0 ∨ 3 < e.unit then e
  else { e with pois := pois, lostb := lost, synd := if !pois then 0 else if e.unit ≤ 1 then 0x5A5A else 0x7F }

/-- Write an event log entry (R277, R278). `lds` are the logical devices whose CXL event log it also enters. -/
def State.logEvent (s : State) (e : LogEnt) (lds : List Nat) : State :=
  let i := s.integ
  let e := s.markBad { e with time := s.time }
  let overrun := (Tab.find i.log i.next).isSome && !NSet.has i.read i.next
  let s := { s with integ := { i with
      log := Tab.set i.log i.next e, next := (i.next + 1) % 1024, read := NSet.del i.read i.next,
      overrun := if overrun then stick i.overrun 0xFFFF else i.overrun } }
  let s := if 3 ≤ e.type then
      match e.pitch with
      | some p => s.raiseEvent p
      | none => if s.port.mld then s.send (.board false i.next) else s.raiseEvent 0
    else s
  if e.type = 3 ∧ e.req = 2 then lds.foldl (fun s l => s.cxlRecord l 2 e) s
  else if 4 ≤ e.type ∧ e.type ≤ 9 then lds.foldl (fun s l => s.cxlRecord l 1 e) s
  else s

/-- An entry with the fields given and the rest 0. -/
def mkEnt (type unit req : Nat) (pitch : Option Nat) (loc addr : Nat) : LogEnt :=
  { time := 0, type := type, unit := unit, req := req, pitch := pitch, pois := false, lostb := false, loc := loc, addr := addr,
    synd := 0, count := 0 }

/-- An event log entry for which the spec names no TYPE: a free value (log entry 26). -/
def State.logFree (s : State) : State := s.used.logEvent (mkEnt (s.freeBelow 17) 9 5 none 0 0) []

/-- A write by the member of a pair that does not own it is dropped and logged (18 R391); every other absent requester writes nothing. -/
def State.foreignWrite (s : State) : Req → State
  | .sp i => if (Tab.get {} s.svc.sp i : SpSt).role = 2 then s.logFree else s
  | _ => s

/-- A write to a set-up register of `bytes` bytes at a BAR0 offset: `ok` says whether it is accepted, `f` what it does; a refused one is
recorded as an access error (22 R466, R468). In recovery only FWCTL answers (19 R429). -/
def State.setupTry (s : State) (q : Req) (off bytes : Nat) (ok : Bool) (f : State → State) : State :=
  if !s.isReq q then s.foreignWrite q
  else if s.fw.recovery ∧ off ≠ 0x1108 then s
  else if ok then f s else s.accessError q 0 off bytes true

/-- A write to stall n's block (22 R466, R476): a logical device reaches the stalls whose applied pitch is its own; a retired stall refuses, the
block of any other stall of a hall that is down, tripped or cut off ignores; a GATED stall wakes (15 R327). -/
def State.stallTry (s : State) (q : Req) (n off bytes : Nat) (ok : Bool) (f : State → State) : State :=
  let o := stallBase n + off
  let own := match q with
    | .ld p => s.pitchOf n = some p
    | _ => true
  if !s.isReq q then s.foreignWrite q
  else if !own ∨ (s.fpOf n).state = 1 ∨ (s.fpOf n).state = 2 then s.accessError q 0 o bytes true
  else if !(s.hall (n / 64)).up ∨ (s.hall (n / 64)).cutoff then s
  else if ok then f (s.updStall n (fun st => { st with gated := false }))
  else s.accessError q 0 o bytes true

/-- The logical device that sees pitch p's memory. -/
def State.ldFor (s : State) (p : Option Nat) : List Nat :=
  if s.port.mld then (match p with | some p => [p] | none => []) else [0]

/-- An engine's or the host's read met an uncorrectable granule: logged, unless READ_RETRY has reported this read (R264; 02 R27). -/
def State.logUe (s : State) (e : LogEnt) (lds : List Nat) : State :=
  let m := (e.req, e.unit, e.addr / 64)
  if e.type = 3 ∧ s.integ.reported.contains m then { s with integ := { s.integ with reported := s.integ.reported.erase m } }
  else s.logEvent e lds

/-- REQ codes (R277). -/
def reqCode : EReq → Nat
  | .thread .. => 0
  | .porter .. => 1
  | .cxl _ => 2
  | .window .. => 3
  | .item .. => 3
  | .scrub => 4
  | .firmware => 5
  | .caravan _ => 6

/-- Count an ignored doorbell (03 R51, R53) and raise the pitch's event vector (R78). -/
def State.dbErr (s : State) (p : Nat) : State :=
  (s.updPring p (fun r => { r with dberr := stick r.dberr 0xFFFF })).raiseEvent p

/-! ## The injectors (20 R449, R450) -/

def injOff (i : Nat) : Nat := 0x380800 + 0x40 * i

/-- The armed injector of a KIND whose JINJADDR `f` takes. -/
def State.injectorFor (s : State) (kind : Nat) (f : Nat → Bool) : Option Nat :=
  [0, 1, 2, 3].find? (fun i => fld (s.rw64 (injOff i)) 0 4 = kind && f (s.rw64 (injOff i + 8)).toNat)

/-- An injector has made an injection: JINJSTAT, COUNT; the last one disarms it unless it is persistent. -/
def State.injected (s : State) (i : Nat) : State :=
  let c := s.rw64 (injOff i)
  let n := fld c 48 16
  let v := Tab.get (0 : W32) s.obs.inj i
  let s := { s with obs := { s.obs with inj := Tab.set s.obs.inj i (if v = BitVec.allOnes 32 then v else v + 1) } }
  if n = 0 then (if fld c 4 2 = 1 then s else s.setRw64 (injOff i) (BitVec.ofNat 64 (c.toNat / 16 * 16)))
  else s.setRw64 (injOff i) (BitVec.ofNat 64 ((c.toNat - 2 ^ 48) / (if n = 1 then 16 else 1) * (if n = 1 then 16 else 1)))

/-- The injector an event met, if any, has injected once. -/
def State.injectedBy (s : State) (i : Option Nat) : State :=
  match i with
  | some i => s.injected i
  | none => s

/-- The errors a setting injects: VALUE at symbol POS, and at POS2 with TWO; of a SEC-DED word bit POS, and POS + 1 with VALUE[0]. -/
def injErrs (sym : Bool) (c : Word) : List (Nat × BitVec 16) :=
  let v := if sym then (c >>> 16).setWidth 16 else 1
  [(fld c 8 8, v)] ++ (if !sym && bit c 16 then [(fld c 8 8 + 1, v)] else []) ++ (if bit c 40 then [(fld c 32 8, v)] else [])

/-! ## The ledger's counters (18 R406, R407, R410), by their offset in the snapshot -/

def hallRec (h i : Nat) : Nat := 0x100 + 64 * h + 8 * i
def spRec (p i : Nat) : Nat := 0x200 + 64 * p + 8 * i
def linkRec (l i : Nat) : Nat := 0x300 + 64 * l + 8 * i
def stallRec (n i : Nat) : Nat := 0x700 + 64 * n + 8 * i
def regionRec (r i : Nat) : Nat := 0x4700 + 64 * r + 8 * i

def State.ledgerAt (s : State) (off : Nat) : Nat := (Tab.get (0 : Word) s.ledger.cnt (off / 8)).toNat

/-- Set a counter; the largest value sticks and marks its bit of FLAGS. -/
def State.ledgerSet (s : State) (off v : Nat) : State :=
  let l := s.ledger
  if 2 ^ 64 - 1 ≤ v then
    { s with ledger := { l with
        cnt := Tab.set l.cnt (off / 8) (BitVec.allOnes 64),
        flags := Tab.set l.flags (off / 64) (Tab.get (0 : W32) l.flags (off / 64) ||| (1 <<< (off % 64 / 8))) } }
  else { s with ledger := { l with cnt := Tab.set l.cnt (off / 8) (BitVec.ofNat 64 v) } }

def State.ledgerAdd (s : State) (off n : Nat) : State := if n = 0 then s else s.ledgerSet off (s.ledgerAt off + n)

end Sys2Proof.Machine
end

