-- ==== Sys2Proof/Machine/Selog.lean ====
section
/-!
DEFINITION. The Selog tracer's packets: what each stall's tracer emits into its buffer (20 R439 to R443, R446).
-/
namespace Sys2Proof.Machine

/-- Stall cycles since power-on (CYCLE, 06 R128; 10 R213): 25 MHz × CURSTEP since the last change of rate, half of it while stretched
(15 R338). -/
def State.cycle (s : State) (n : Nat) : Nat :=
  let c := (s.stall n).clk
  c.base + (s.time - c.at_) * c.cur / (if c.stretch then 80 else 40)

def State.sel (s : State) (n : Nat) : Tracer := (s.stall n).sel

def State.updSel (s : State) (n : Nat) (f : Tracer → Tracer) : State := s.updStall n (fun st => { st with sel := f st.sel })

def Tracer.tracing (t : Tracer) : Bool := t.st = 2

/-- Thread k is selected: TMASK. -/
def Tracer.selects (t : Tracer) (k : Nat) : Bool := fld t.cfg k 1 = 1

/-- Position of the next byte in the stream. -/
def Tracer.pos (t : Tracer) : Nat := t.wptr.toNat + t.buf.length

def Tracer.room (t : Tracer) : Nat := 4096 - t.buf.length

/-- The smallest DLEN that holds a delta, and its bytes (R441). -/
def deltaOf (d : Nat) : Nat × List Byte :=
  if d = 0 then (0, []) else if d < 0x100 then (1, toLE 1 d) else if d < 0x10000 then (2, toLE 2 d) else (3, toLE 4 d)

/-- A packet for which the buffer has no room is lost (R446). -/
def State.selPut (s : State) (n : Nat) (b : List Byte) (cyc : Nat) : State :=
  if b.length ≤ (s.sel n).room then s.updSel n (fun t => { t with buf := t.buf ++ b, cyc := cyc })
  else (s.count n 9 1).updSel n (fun t => { t with lost := stick t.lost 0xFFFFFFFF })

/-- The bytes of a SYNC, with the PAD before it. -/
def State.syncBytes (s : State) (n : Nat) : List Byte :=
  let t := s.sel n
  let run := threads4.foldl (fun a k => if (s.thread n k).st = .off then a else a + 2 ^ k) 0
  let gt := s.copyTime (hallOf n) s.time
  zeros ((64 - t.pos % 64) % 64) ++ toLE 1 0x01 ++ toLE 2 0x4C53 ++ toLE 1 (s.stall n).clk.cur ++ toLE 1 (run + 16 * fld t.cfg 0 4) ++
    toLE 8 (s.cycle n) ++ toLE 8 gt ++ zeros 4

def State.selSync (s : State) (n : Nat) : State :=
  (s.selPut n (s.syncBytes n) (s.cycle n)).updSel n (fun t => { t with sync := s.cycle n })

/-- Room has returned after losses: OVF and SYNC (R446). -/
def State.selOvf (s : State) (n : Nat) : State :=
  let t := s.sel n
  if t.lost ≠ 0 ∧ 128 ≤ t.room then
    let c := max (s.cycle n) t.cyc
    let d := deltaOf (min (c - t.cyc) 0xFFFFFFFF)
    ((s.selPut n (toLE 1 (8 + 64 * d.1) ++ d.2 ++ toLE 4 t.lost) c).updSel n (fun t => { t with lost := 0 })).selSync n
  else s

/-- Emit a packet of TYPE `ty` and THREAD `th` whose event was at CYCLE `c`, never before the packet before it (log entry 33). -/
def State.selEmit (s : State) (n th ty : Nat) (body : List Byte) (c : Nat) : State :=
  let s := s.selOvf n
  let s := if 2 ^ 32 ≤ c - (s.sel n).cyc then s.selSync n else s
  let c := max c (s.sel n).cyc
  let d := deltaOf (c - (s.sel n).cyc)
  s.selPut n (toLE 1 (ty + 16 * th + 64 * d.1) ++ d.2 ++ body) c

/-! ## Branches (R442) -/

/-- The pending REP of thread k goes out. -/
def State.selRep (s : State) (n k : Nat) : State :=
  match Tab.find (s.sel n).rep k with
  | none => s
  | some (m, c) => (s.selEmit n k 4 (toLE 2 m) c).updSel n (fun t => { t with rep := Tab.del t.rep k })

/-- The open BR of thread k goes out, or adds to its REP. -/
def State.selBr (s : State) (n k : Nat) : State :=
  match Tab.find (s.sel n).open_ k with
  | none => s
  | some b =>
    let s := s.updSel n (fun t => { t with open_ := Tab.del t.open_ k })
    let last : BrPkt := Tab.get {} (s.sel n).last k
    if last.n = b.n ∧ last.bits = b.bits then
      let m := (Tab.get (0, 0) (s.sel n).rep k).1 + 1
      let s := s.updSel n (fun t => { t with rep := Tab.set t.rep k (m, b.cyc) })
      if m = 65535 then s.selRep n k else s
    else
      ((s.selRep n k).selEmit n k 3 (toLE 1 b.n ++ toLE (cdiv b.n 8) b.bits) b.cyc).updSel n (fun t => { t with last := Tab.set t.last k b })

/-- A conditional branch of thread k retires. -/
def State.selBranch (s : State) (n k : Nat) (taken : Bool) : State :=
  let b : BrPkt := Tab.get {} (s.sel n).open_ k
  let b : BrPkt := { n := b.n + 1, bits := b.bits + 2 ^ b.n * ofBool taken, cyc := s.cycle n }
  let s := s.updSel n (fun t => { t with open_ := Tab.set t.open_ k b })
  if b.n = 32 then s.selBr n k else s

/-- Any other packet of thread k. -/
def State.selThread (s : State) (n k ty : Nat) (body : List Byte) : State :=
  (((s.selBr n k).selRep n k).selEmit n k ty body (s.cycle n)).updSel n (fun t => { t with last := Tab.del t.last k })

/-- A packet of a selected thread while the tracer traces. -/
def State.selPacket (s : State) (n k ty : Nat) (body : List Byte) : State :=
  if (s.sel n).tracing && (s.sel n).selects k then s.selThread n k ty body else s

/-- PC: the next pair of thread k and why it is told. -/
def State.selPc (s : State) (n k reason : Nat) (pc : Word) : State := s.selPacket n k 2 (toLE 1 reason ++ toLE 8 pc.toNat)

/-- EVT of the stall. -/
def State.selEvent (s : State) (n code : Nat) : State :=
  if (s.sel n).tracing then s.selEmit n 0 7 (toLE 2 code) (s.cycle n) else s

/-- FREQ and its SYNC, where CURSTEP is no longer `old`. -/
def State.selFreq (s : State) (n old : Nat) : State :=
  if (s.sel n).tracing && decide ((s.stall n).clk.cur ≠ old) then
    (s.selEmit n 0 9 (toLE 1 (s.stall n).clk.cur) (s.cycle n)).selSync n
  else s

def State.selSyncOn (s : State) (n : Nat) : State := if (s.sel n).tracing then s.selSync n else s

/-- The pair of thread k retires; `t` is the thread before (R442). -/
def State.selRetire (s : State) (n k : Nat) (t : Thread) : State :=
  if (s.sel n).tracing && (s.sel n).selects k then
    let s := s.updSel n (fun x => { x with pairs := x.pairs + 1 })
    let s := if t.flow = 1 ∨ t.flow = 2 then s.selBranch n k (t.flow = 2)
      else if t.flow = 3 then s.selPc n k 2 t.npc
      else if t.flow = 4 then s.selPc n k 4 t.npc
      else s
    if t.ending then s.selThread n k 7 (toLE 2 2) else s
  else s

/-! ## Wide operations -/

/-- WIDE: outcome 0 finished, 1 stopped, 2 exception; the participants' pairs do not retire before the end, so no pair follows the issue. -/
def State.selWide (s : State) (n k wop : Nat) (w : WF) (outcome iters cycles : Nat) : State :=
  s.selPacket n k 5 (toLE 1 wop ++ toLE 1 w.td.toNat ++ toLE 1 w.ta.toNat ++ toLE 1 (outcome + 4 * ofBool w.acc + 8 * w.loop.toNat) ++
    toLE 2 w.rows.toNat ++ toLE 2 0 ++ toLE 4 iters ++ toLE 4 cycles)

def gopCode : GOp → Nat
  | .mwld => 0x20
  | .mstrm => 0x21
  | .mfill => 0x22
  | .hmv => 0x30

/-- WIDE of the group operation o. -/
def State.selOp (s : State) (n : Nat) (o : WOp) (outcome : Nat) : State :=
  s.selWide n (o.parts.foldl min 3) (gopCode o.op) o.f outcome o.iter (s.cycle n - o.issue)

/-- One thread's wide operation `f` with its WIDE: finished where its pair retired, an exception where its wide half no longer comes next
(NOWIDE drops those of TLD, TST and the vector operations). -/
def State.traced (s : State) (n k wop : Nat) (w : WF) (f : State → State) : State :=
  let t := s.thread n k
  let s' := f s
  let pairs := fun (s : State) => Tab.get (0 : BitVec 48) (s.stall n).cnt 2
  if t.st ≠ .run ∨ !t.half ∨ t.stop ∨ (fld (s.sel n).cfg 7 1 = 1 ∧ (wop = 0x10 ∨ wop = 0x11 ∨ 0x40 ≤ wop)) then s'
  else if pairs s' ≠ pairs s then
    let n' := if w.loop = 1 then fld t.batchcnt 0 32 else if w.loop = 2 then fld t.plist 24 32 else 1
    s'.selWide n k wop w 0 n' 0
  else if (s'.thread n k).half then s'
  else s'.selWide n k wop w 2 (fld (s'.thread n k).tstart 16 32) 0

/-! ## Ends -/

/-- The tracer is OFF, its buffer discarded, its registers reset (R440). -/
def State.selReset (s : State) (n : Nat) : State := (s.updSel n (fun _ => {})).resetRw (stallBase n + 0x400) 0x48

/-- A pitch reset: DONE, its packets discarded (R440). -/
def State.selDrop (s : State) (n : Nat) : State :=
  if (s.sel n).st = 0 then s
  else s.updSel n (fun t => { t with st := 3, buf := [], lost := 0, open_ := [], last := [], rep := [] })

end Sys2Proof.Machine
end

