-- ==== Sys2Proof/Machine/FarPath.lean ====
section
/-!
DEFINITION. The path of an access to far memory: the far cache, the reorder queues of the channels, the poison list (11 R239 to R244, R248).
-/
namespace Sys2Proof.Machine

/-! ## The cache and the queues (R239 to R244) -/

/-- The pitch whose cached share holds a far offset (R242), while the far cache works (12 R276; 19 R428). -/
def State.cachePitch (s : State) (o : Nat) : Option Nat :=
  if s.far.cacheOff ∨ bitsOf s.fw.disable 4 1 = 1 then none
  else allPitches.find? (fun p => s.pt.active.enabled p && s.pt.active.farmode p && s.pt.active.ownsFar p o)

def setOf (l : Nat) : Nat := (l ^^^ (l / 2 ^ 15) ^^^ (l / 2 ^ 30)) % 32768

/-- Depth of a channel's reorder queue (R239): what stands beyond it is held at its requester. -/
def farDepth (wr : Bool) : Nat := if wr then 32 else 64

/-- A request of a line for its channel. A read of a line whose valid bit is clear takes none; a stranded line has no channel. -/
def State.enqueue (s : State) (l : Nat) (wr : Bool) : State :=
  let ch := (s.chanOf (l * 256)).1
  if (!wr && !NSet.has s.mem.farValid l) || s.stranded (l * 256) then s
  else { s with far := { s.far with q := Tab.upd [] s.far.q ch (fun q => q ++ [(l * 256, wr)]) } }

/-- The logical devices whose far part holds an offset, with its DPA (R235). -/
def State.farDpas (s : State) (o : Nat) : List (Nat × Nat) :=
  if s.port.mld then
    (allPitches.filter (fun p => s.pt.active.ownsFar p o)).map (fun p => (p, dpaFar + o - unit256 * s.pt.active.farbase p))
  else [(0, dpaFar + o)]

def State.addPoison (s : State) (l : List (Nat × Nat)) : State :=
  { s with port := { s.port with poison := s.port.poison ++ l.filter (fun x => !s.port.poison.contains x) } }

/-- A dirty line leaves the cache: to memory, or dropped onto the poison list where its place is stranded (R248). -/
def State.writeBack (s : State) (l : Nat) : State :=
  if s.stranded (l * 256) then s.addPoison ((s.farDpas (l * 256)).map (fun x => (x.1, x.2 / 64 * 64))) else s.enqueue l true

def State.setCache (s : State) (set : Nat) (l : List CWay) : State := { s with far := { s.far with cache := Tab.set s.far.cache set l } }

/-- Allocate a line in a set: the lowest-numbered invalid way, or else the least recent, written back if dirty (R243). -/
def State.allocate (s : State) (set line : Nat) (dirty : Bool) : State :=
  let ways := Tab.get [] s.far.cache set
  match (List.range 12).find? (fun w => !NSet.has s.far.dis (set * 12 + w) && ways.all (fun x => x.way ≠ w)) with
  | some w => s.setCache set (⟨w, line, dirty⟩ :: ways)
  | none =>
    match ways.getLast? with
    | none => s
    | some v => (if v.dirty then s.writeBack v.line else s).setCache set (⟨v.way, line, dirty⟩ :: ways.dropLast)

/-- A far access in cache mode (R244). -/
def State.cacheAccess (s : State) (l hint : Nat) (wr whole : Bool) : State :=
  let set := setOf l
  let ways := Tab.get [] s.far.cache set
  let rest := ways.filter (fun w => w.line ≠ l)
  let valid := NSet.has s.mem.farValid l
  match ways.find? (fun w => w.line = l), wr with
  | some w, false =>
    if hint = 2 then s.setCache set (w :: rest)
    else if hint = 3 then (if w.dirty then s.setCache set (rest ++ [w]) else s.setCache set rest)
    else s
  | some w, true =>
    if hint = 2 then s.setCache set ({ w with dirty := true } :: rest)
    else if hint = 3 then (s.writeBack l).setCache set rest
    else (s.writeBack l).setCache set (ways.map (fun x => if x.line = l then { x with dirty := false } else x))
  | none, false => if hint = 2 then (s.enqueue l false).allocate set l false else s.enqueue l false
  | none, true =>
    if hint = 2 then (if whole || !valid then s else s.enqueue l false).allocate set l true else s.enqueue l true

/-- Every way of a set is disabled (12 R274). -/
def State.setDead (s : State) (set : Nat) : Bool := (List.range 12).all (fun w => NSet.has s.far.dis (set * 12 + w))

/-- The line of a far offset is read or written (R239 to R244): in cache mode by its hint, 0 meaning DEFHINT of table `t`; in queue mode to its
channel. `whole` tells that the line is written whole. -/
def State.farAccess (s : State) (t : PTab) (o hint : Nat) (wr whole : Bool) : State :=
  let l := o / 256
  if s.usableFar ≤ o then s
  else
    match s.cachePitch o with
    | some p =>
      if s.setDead (setOf l) then s.enqueue l wr
      else s.cacheAccess l (if hint % 4 = 0 then t.defhint p else hint % 4) wr whole
    | none => s.enqueue l wr

/-- Every line that `n` bytes from far offset `o` touch is accessed in turn. -/
def State.farTouch (s : State) (t : PTab) (o n hint : Nat) (wr : Bool) : State :=
  (wordsOf 256 o n).foldl (fun s l => s.farAccess t (256 * l) hint wr (decide (o ≤ 256 * l ∧ 256 * l + 256 ≤ o + n))) s

end Sys2Proof.Machine
end

