-- ==== Sys2Proof/Machine/Convoy.lean ====
section
/-!
DEFINITION. The sending side of Caravan (14): identifiers, the peer table, ports, opening a convoy, putting packets on it and
the frames that leave (R304 to R314).
-/
namespace Sys2Proof.Machine

def State.cvDev (s : State) : Nat := fld32 (s.rw32 0xA000) 0 16
def State.cvValid (s : State) : Bool := bit32 (s.rw32 0xA000) 16
def State.cvPayload (s : State) : Nat := 1024 * 2 ^ fld32 (s.rw32 0xA004) 22 2
def State.lostTime (s : State) : Nat := fld32 (s.rw32 0xA008) 0 10

/-- CVPITCH of pitch p (R309). -/
def State.cvPitch (s : State) (p : Nat) : Word := s.rw64 (0x184200 + 0x8000 * p)
def State.cvEnable (s : State) (p : Nat) : Bool := bit (s.cvPitch p) 0
def State.cvRpitch (s : State) (p : Nat) : Nat := fld (s.cvPitch p) 4 4
def State.cvKey (s : State) (p : Nat) : W32 := ((s.cvPitch p) >>> 32).setWidth 32

def State.peer (s : State) (d : Nat) : Peer := Tab.get {} s.cv.peer d

def convKey (peer port : Nat) : Nat := 8 * peer + port

def State.conv (s : State) (peer port : Nat) : Convoy := Tab.get {} s.cv.conv (convKey peer port)

def State.updConv (s : State) (peer port : Nat) (f : Convoy → Convoy) : State :=
  { s with cv := { s.cv with conv := Tab.set s.cv.conv (convKey peer port) (f (s.conv peer port)) } }

/-- Live ports the device shares with a peer (R308): up, and in its PORTS mask. -/
def State.livePorts (s : State) (d : Nat) : List Nat :=
  (List.range 8).filter (fun k => bitsOf (s.peer d).ports k 1 = 1 && Tab.get 0 s.cv.port k = 2)

/-- Whether pitch p may send to device d (R307 to R309); the device's own identifier needs no peer entry (R205, R315). -/
def State.cvAllowed (s : State) (p d : Nat) : Bool :=
  s.cvValid && s.cvEnable p && (d = s.cvDev || (s.peer d).valid && s.livePorts d ≠ [])

/-! ## Frames (R305, R306, R314). A message names everything from the 802.1Q tag on; the MAC addresses before it are left out (log
entry 37). -/

/-- The checksum of RFC 1071 over bytes: the ones' complement of their 16-bit sum. -/
def inetSum (b : List Byte) : Nat :=
  let rec go : List Byte → Nat
    | [] => 0
    | [x] => x.toNat * 256
    | x :: y :: l => x.toNat * 256 + y.toNat + go l
  let t := go b
  65535 - (if t = 0 then 0 else if t % 65535 = 0 then 65535 else t % 65535)

def State.ownAddr (s : State) : Nat := (s.rw64 0xA020).toNat + 2 ^ 64 * (s.rw64 0xA028).toNat

/-- An IPv6 packet and what carries it: next header, source, destination, Traffic Class, flow label, payload. -/
def ipv6 (nh src dst tc flow : Nat) (b : List Byte) : List Byte :=
  toBE 4 (6 * 2 ^ 28 + tc * 2 ^ 20 + flow % 2 ^ 20) ++ toBE 2 b.length ++ toLE 1 nh ++ toLE 1 64 ++ toBE 16 src ++ toBE 16 dst ++ b

/-- What the checksums of UDP and ICMPv6 cover before their own header. -/
def pseudo (nh src dst n : Nat) : List Byte := toBE 16 src ++ toBE 16 dst ++ toBE 4 n ++ toBE 4 nh

/-- VID of CVPORT, as a tag, and the EtherType. -/
def State.etherHead (s : State) (port : Nat) : List Byte :=
  let v := fld32 (s.rw32 (0xA100 + 0x40 * port)) 16 12
  (if v = 0 then [] else toBE 2 0x8100 ++ toBE 2 v) ++ toBE 2 0x86DD

/-- The Caravan part: header, payload and CRC-32C. -/
def State.cvPart (s : State) (peer : Nat) (c : Convoy) (q : CvPkt) : List Byte :=
  let b := toLE 1 1 ++ toLE 1 q.kind ++ toLE 1 q.flags ++ toLE 1 (q.tp + 16 * q.sp) ++ toLE 2 s.cvDev ++ toLE 2 peer ++
    toLE 2 c.gen ++ toLE 2 q.msg ++ toLE 4 q.psn.toNat ++ toLE 4 (c.expect - 1).toNat ++ toLE 4 q.key.toNat ++ toLE 8 q.addr ++ q.data
  b ++ toLE 4 (crc32c b).toNat

/-- A frame: port k of this device to port k of the peer, ECT(0), DSCP of CVCFG, UDP. -/
def State.cvFrame (s : State) (peer port : Nat) (c : Convoy) (q : CvPkt) : List Byte :=
  let b := s.cvPart peer c q
  let h := Config.cvhash (convKey peer port)
  let src := s.ownAddr + port
  let dst := (s.peer peer).own.toNat + port
  let n := 8 + b.length
  let head := toBE 2 (0xC000 + h % 2 ^ 14) ++ toBE 2 (fld32 (s.rw32 0xA004) 0 16) ++ toBE 2 n
  let sum := inetSum (pseudo 17 src dst n ++ head ++ toLE 2 0 ++ b)
  s.etherHead port ++ ipv6 17 src dst (4 * fld32 (s.rw32 0xA004) 16 6 + 2) h (head ++ toBE 2 (if sum = 0 then 65535 else sum) ++ b)

/-- A frame leaves on the convoy of `peer` and `port`; none does while the device has no identifier (R307). -/
def State.cvEmit (s : State) (peer port : Nat) (q : CvPkt) : State :=
  if s.cvValid then s.send (.eth port peer q.kind (s.cvFrame peer port (s.conv peer port) q)) else s

/-- OPEN and OPEN_ACK carry both epochs: the sender's in [31:0], the one recorded of the peer above it (R311). -/
def State.cvHello (s : State) (peer port kind : Nat) : State :=
  s.cvEmit peer port { kind := kind, addr := s.cv.epoch.toNat + 2 ^ 32 * (s.conv peer port).epoch.toNat }

/-- ACK and PROBE take no PSN of their own (log entry 14). -/
def State.cvBare (s : State) (peer port kind flags : Nat) : State :=
  s.cvEmit peer port { kind := kind, flags := flags, psn := (s.conv peer port).psn }

/-- Nothing is in flight on a convoy: no packet, operation or running collective. -/
def State.cvQuiet (s : State) (peer port : Nat) : Bool :=
  let c := s.conv peer port
  c.tx = [] && c.ops = [] && c.rx = [] &&
    !s.cv.coll.any (fun x => x.st ≠ 0 && ((x.next = peer && x.pn = port) || (x.prev = peer && x.pp = port)))

/-- A closed convoy keeps its generation and the epoch it recorded. -/
def Convoy.closed (c : Convoy) : Convoy := { gen := c.gen, epoch := c.epoch }

def State.openConvoys (s : State) : List (Nat × Convoy) := s.cv.conv.filter (fun e => e.2.st ≠ 0)

/-- Make room for one more open convoy (R311): the least recently used of those with nothing in flight closes. -/
def State.cvRoom (s : State) : Option State :=
  if s.openConvoys.length < 4096 then some s
  else
    match (s.openConvoys.filter (fun e => s.cvQuiet (e.1 / 8) (e.1 % 8))) with
    | [] => none
    | e :: l =>
      let v := l.foldl (fun a b => if b.2.use_ < a.2.use_ then b else a) e
      some (s.updConv (v.1 / 8) (v.1 % 8) Convoy.closed)

/-- Transmit up to the window of 256 unacknowledged packets (R312), opening the convoy first if it is closed (R311). -/
def State.cvPump (s : State) (peer port : Nat) : State :=
  let c := s.conv peer port
  if c.tx = [] then s
  else if c.st = 0 then
    match s.cvRoom with
    | none => s
    | some s => (s.updConv peer port (fun c => { c with st := 1, gen := (c.gen + 1) % 65536, use_ := s.time })).cvHello peer port 1
  else if c.st = 1 then s
  else
    let l := (c.tx.take 256).drop c.sent
    let s := l.foldl (fun s q => s.cvEmit peer port q) s
    s.updConv peer port (fun c => { c with sent := min 256 c.tx.length, use_ := s.time, due := if l = [] then c.due else 0 })

/-- Convoys that wait for one of the 4,096 to close are opened as far as there is room (R311). -/
def State.cvWake (s : State) : State :=
  (s.cv.conv.filter (fun e => e.2.st = 0 && e.2.tx ≠ [])).foldl (fun s e => s.cvPump (e.1 / 8) (e.1 % 8)) s

/-- Number packets: consecutive PSN. -/
def psnFrom (b : W32) : List CvPkt → List CvPkt
  | [] => []
  | q :: l => { q with psn := b } :: psnFrom (b + 1) l

/-- Put the packets of one message on a convoy, FIRST and LAST marked, and pump it. -/
def State.cvPut (s : State) (peer port msg : Nat) (l : List CvPkt) : State :=
  let n := l.length
  let l := l.zipIdx.map (fun e => { e.1 with msg := msg, flags := ofBool (e.2 = 0) + 2 * ofBool (e.2 + 1 = n) })
  (s.updConv peer port (fun c =>
    { c with tx := c.tx ++ psnFrom c.psn l, psn := c.psn + BitVec.ofNat 32 n, use_ := s.time })).cvPump peer port

/-- The port of an operation toward device d: that of an operation of the same owner in flight, so that their order holds (09 R205), else
one of the live ones that the hash (a free value) names. -/
def State.cvPortFor (s : State) (d : Nat) (owner : TOwner) : Nat :=
  ((List.range 8).find? (fun k => (s.conv d k).ops.any (fun x => x.owner = owner))).getD (s.choose 0 (s.livePorts d))

/-- Start an operation toward device d: its port, a message number, its packets. -/
def State.cvSubmit (s : State) (d : Nat) (op : CvOp) (l : List CvPkt) : State :=
  let port := s.cvPortFor d op.owner
  let s := s.used
  let c := s.conv d port
  let op := { op with msg := c.msg, first := c.psn, last := c.psn + BitVec.ofNat 32 (l.length - 1) }
  (s.updConv d port (fun c => { c with msg := (c.msg + 1) % 65536, ops := c.ops ++ [op] })).cvPut d port op.msg l

/-- A packet of a message that the peer numbered, or of no message of ours (TALLY_RESULT, REFUSE, ABORT). -/
def State.cvReply (s : State) (peer port : Nat) (q : CvPkt) : State := s.cvPut peer port q.msg [q]

/-- A remote wait is withdrawn with an ABORT packet (R316); it ends when the packet is acknowledged, unless its result comes first (09
R203). -/
def State.opWithdraw (s : State) (peer port : Nat) (o : CvOp) (st : Nat) : State :=
  let psn := (s.conv peer port).psn
  (s.updConv peer port (fun c => { c with ops := c.ops.map (fun x => if x = o then { x with abort := some st, last := psn } else x) })).cvReply
    peer port { kind := 10, msg := o.msg, data := toLE 1 st }

/-- Every remote wait of the owners that `f` names is withdrawn. -/
def State.waitsWithdraw (s : State) (f : TOwner → Bool) (st : Nat) : State :=
  s.cv.conv.foldl (fun s e =>
    (e.2.ops.filter (fun o => f o.owner && o.op = 4 && o.abort.isNone && !o.dead)).foldl (fun s o => s.opWithdraw (e.1 / 8) (e.1 % 8) o st) s) s

/-- A status byte, three zero bytes and a 4-byte value (R314). -/
def statusPayload (st : Nat) (v : W32) : List Byte := toLE 1 st ++ toLE 3 0 ++ toLE 4 v.toNat

/-- The TALLY packet of a remote tally operation: operation, tally, condition, operand (R314, R316). -/
def tallyPkt (rp sp : Nat) (key : W32) (id top cmp : Nat) (x : W32) : CvPkt :=
  { kind := 5, tp := rp, sp := sp, key := key, addr := id + 2 ^ 24 * top + 2 ^ 26 * cmp, data := toLE 4 x.toNat }

/-- Send a remote tally operation of pitch p to device d. -/
def State.cvTally (s : State) (p d : Nat) (owner : TOwner) (id top cmp : Nat) (x : W32) (ra : Word) : State :=
  s.cvSubmit d { op := 1 + top, owner := owner, sp := p, msg := 0, first := 0, last := 0, len := 0, ra := ra }
    [tallyPkt (s.cvRpitch p) p (s.cvKey p) id top cmp x]

end Sys2Proof.Machine
end

