-- ==== Sys2Proof/Machine/Operands.lean ====
section
/-!
DEFINITION. Stall space and what a stall's accesses meet (06 R136 to R139; 04 R95 to R97; 08 R186, R187), the issue of a half of
a pair, exceptions (06 R141, R142), the group barriers (R133, R135), and work-item boundaries.
-/
namespace Sys2Proof.Machine

/-! ## Addresses -/

/-- A target of stall space (R136). -/
inductive Tgt where
  | slice (a : Nat)
  | shelf (n off : Nat)
  | far (o : Nat)
  | none
  deriving DecidableEq, Repr

def tgtOf (n a : Nat) : Tgt :=
  if a < 0x10000000 then .slice (unit256 * n + a)
  else if 0x100000000 ≤ a ∧ a < 0x200000000 then .shelf n (a % 2097152)
  else if 0x200000000 ≤ a ∧ a < 0x220000000 then .shelf (bitsOf a 21 8) (a % 2097152)
  else if 0x1000000000 ≤ a ∧ a < 0x2000000000 then .slice (a - 0x1000000000)
  else if 0x2000000000 ≤ a ∧ a < 0xA000000000 then .far (a - 0x2000000000)
  else .none

/-- The other stall a target lies in. -/
def Tgt.stall : Tgt → Option Nat
  | .slice a => some (a / unit256)
  | .shelf n _ => some n
  | _ => Option.none

/-- Whether a target leaves the stall through its far channel. -/
def Tgt.leaves (n : Nat) : Tgt → Bool
  | .slice a => a / unit256 ≠ n
  | .shelf m _ => m ≠ n
  | .far _ => true
  | .none => false

/-- Whether the partition fence refuses (R95). -/
def State.fenceRefuses (s : State) (n : Nat) (t : Tgt) : Bool :=
  if !t.leaves n then false
  else
    let tab := s.applied n
    match tab.owner n with
    | none => true
    | some p =>
      match t with
      | .slice a => tab.owner (a / unit256) ≠ some p
      | .shelf m _ => tab.owner m ≠ some p
      | .far o => !tab.ownsFar p o
      | .none => false

/-- The pitch a target belongs to, for FENCESRC: by the active table, whichever table the stall applies (DESIGN CHOICE, log entry 103). -/
def State.targetPitch (s : State) (t : Tgt) : Option Nat :=
  match t with
  | .slice a => s.pt.active.owner (a / unit256)
  | .shelf m _ => s.pt.active.owner m
  | .far o => allPitches.find? (fun p => s.pt.active.enabled p && s.pt.active.ownsFar p o)
  | .none => none

/-- Enter a refused request in the fence log of the stall's pitch (R95 to R97): agent 0 thread, 1 porter, 2 tally operation. -/
def State.fenceLog (s : State) (n agent th : Nat) (wr : Bool) (addr : Word) (target : Option Nat) : State :=
  match s.pitchOf n with
  | none => s
  | some p =>
    let c := s.pctl p
    let first := c.fencecnt = 0
    let src := n + agent * 2 ^ 8 + th * 2 ^ 10 + ofBool wr * 2 ^ 12 + (target.getD 0) * 2 ^ 16 + ofBool target.isNone * 2 ^ 20
    let s := s.updPctl p (fun c => { c with
      fencecnt := if c.fencecnt = BitVec.allOnes 32 then c.fencecnt else c.fencecnt + 1,
      fenceaddr := if first then addr else c.fenceaddr,
      fencesrc := if first then BitVec.ofNat 32 src else c.fencesrc })
    if first then s.raiseEvent p else s

/-- Exception causes (06). -/
def cILLEGAL : Nat := 1
def cALIGN : Nat := 2
def cUNMAPPED : Nat := 3
def cDATA : Nat := 4
def cGROUP : Nat := 5
def cTRAP : Nat := 6

/-- Whether a target exists now (R138, R187, R238). -/
def State.mapped (s : State) (n : Nat) (t : Tgt) : Bool :=
  match t with
  | .slice a => decide (a % unit256 < s.usableOf (a / unit256))
  | .shelf m _ => m = n || !s.stallOut m
  | .far o => decide (o < s.usableFar)
  | .none => false

/-- What an access of a stall gave: the state, the bytes read, and the exception it raises. -/
structure Acs where
  s : State
  d : List Byte
  exc : Option (Nat × Nat)

/-- Where a stall's access meets uncorrectable data: the granule within its target. -/
def State.tgtFault (s : State) (t : Tgt) (len : Nat) : Option Nat :=
  match t with
  | .slice a => s.sliceFault a len
  | .shelf m off => s.shelfFault m off len
  | .far o => s.farFault o len
  | .none => none

def State.tgtRead (s : State) (t : Tgt) (len : Nat) : List Byte :=
  match t with
  | .slice a => Mem.rdBytes s.mem.slice a len
  | .shelf m off => s.rdShelf m off len
  | .far o => Mem.rdBytes s.mem.far o len
  | .none => zeros len

def tgtUnit : Tgt → Nat
  | .far _ => 1
  | .shelf .. => 2
  | _ => 0

def tgtAddr : Tgt → Nat
  | .slice a => a
  | .shelf n off => shelfAddr n off
  | .far o => o
  | .none => 0

/-- On its way, an access of stall n to far memory passes the far path with its hint, 0 the DEFHINT of the table the stall has applied (04
R90; 11 R240, R242); one through an aisle window to the shelf of a gated stall wakes it (15 R327). -/
def State.tgtPath (s : State) (n hint : Nat) (t : Tgt) (len : Nat) (wr : Bool) : State :=
  match t with
  | .far o => s.farTouch (s.applied n) o len hint wr
  | .shelf m _ => if (s.stall m).gated then s.updStall m (fun st => { st with gated := false }) else s
  | _ => s

/-- Read `len` bytes at stall-space address `a` for stall n (R136 to R138). agent 0 thread th, 1 porter. -/
def State.stallRead (s : State) (n agent th a len : Nat) (hint : Nat := 0) : Acs :=
  let t := tgtOf n a
  if s.fenceRefuses n t then ⟨s.fenceLog n agent th false (BitVec.ofNat 64 a) (s.targetPitch t), zeros len, none⟩
  else if !s.mapped n t then ⟨s, zeros len, some (cUNMAPPED, a)⟩
  else
    let s := s.tgtPath n hint t len false
    match s.tgtFault t len with
    | some _ =>
      ⟨s.logUe (mkEnt 3 (tgtUnit t) agent (s.pitchOf n) n (tgtAddr t)) (s.ldFor (s.pitchOf n)),
        zeros len, some (cDATA, a / 64 * 64)⟩
    | none => ⟨s, s.tgtRead t len, none⟩

/-- Store to a target that passed its checks: a word dropped under R265 is logged and raises nothing. -/
def State.tgtWrite (s : State) (n agent : Nat) (t : Tgt) (b : List Byte) : WrRes :=
  let r : WrRes := match t with
    | .slice a => s.wrSlice a b
    | .shelf m off => ⟨s.wrShelf m off b, (s.shelfDrops m off b).head?⟩
    | .far o => s.wrFar o b
    | .none => ⟨s, none⟩
  match r.drop with
  | none => r
  | some a => ⟨r.s.logEvent (mkEnt 15 (tgtUnit t) agent (s.pitchOf n) n a) (s.ldFor (s.pitchOf n)), r.drop⟩

/-- A target whose writes are dropped and reported on the requester's path (R119, R248). -/
def State.tgtHeld (s : State) (t : Tgt) : Bool :=
  match t with
  | .slice a => s.dropsSlice a
  | .far o => s.stranded o
  | _ => false

/-- Store bytes at stall-space address `a` for stall n. `d` of the answer is empty. -/
def State.stallWrite (s : State) (n agent th a : Nat) (b : List Byte) (hint : Nat := 0) : Acs :=
  let t := tgtOf n a
  if s.fenceRefuses n t then ⟨s.fenceLog n agent th true (BitVec.ofNat 64 a) (s.targetPitch t), [], none⟩
  else if !s.mapped n t then ⟨s, [], some (cUNMAPPED, a)⟩
  else if s.tgtHeld t then
    ⟨s.logEvent (mkEnt 3 (tgtUnit t) agent (s.pitchOf n) n (tgtAddr t)) (s.ldFor (s.pitchOf n)), [], some (cDATA, a / 64 * 64)⟩
  else
    let r := (s.tgtPath n hint t b.length true).tgtWrite n agent t b
    ⟨r.s, if r.drop.isSome then [1] else [], none⟩

/-! ## Registers of a thread -/

/-- g_i: g0 reads as 0 (R127). -/
def Thread.gr (t : Thread) (i : Nat) : Word := if i = 0 then 0 else Tab.get 0 t.g i

/-- Write g_i: a write to g0 is discarded (R127). -/
def Thread.setG (t : Thread) (i : Nat) (v : Word) : Thread := if i = 0 then t else { t with g := Tab.set t.g i v }

/-! ## Porters (R134) -/

/-- The granule of 64 bytes of a target is written poisoned (R264). -/
def State.poisTgt (s : State) (t : Tgt) : State :=
  match t with
  | .slice a => s.poisSlice a
  | .far o => s.poisFar o
  | .shelf n off =>
    let a := shelfAddr n (off / 64 * 64)
    { s with mem := { s.mem with shelf := Mem.clear s.mem.shelf a 64, shelfPois := NSet.addRange s.mem.shelfPois (a / 8) 8 } }
  | .none => s

/-- A porter in motion: the state, what is left, and the exception that ended it. -/
structure Move where
  s : State
  src : Nat
  dst : Nat
  len : Nat
  exc : Option (Nat × Nat)

/-- Copy one granule for thread `th` of stall n under the rules of a load and a store (R134, R264). Each granule is decoded by itself, so a
copy past the top of a remote shelf goes on in the next stall's (DESIGN CHOICE, log entry 105). -/
def Move.granule (m : Move) (n th hint : Nat) : Move :=
  if m.len = 0 ∨ m.exc.isSome then m
  else
    let r := m.s.stallRead n 1 th m.src 64 hint
    match r.exc with
    | some (c, e) =>
      let t := tgtOf n m.dst
      { m with s := if c = cDATA ∧ !r.s.fenceRefuses n t ∧ r.s.mapped n t then r.s.poisTgt t else r.s, exc := some (c, e) }
    | none =>
      let w := r.s.stallWrite n 1 th m.dst r.d hint
      match w.exc with
      | some x => { m with s := w.s, exc := some x }
      | none => ⟨w.s, (m.src + 64) % 2 ^ 64, (m.dst + 64) % 2 ^ 64, m.len - 64, none⟩

/-- Move up to `g` granules of porter i. -/
def State.porterRun (s : State) (n i g : Nat) : Move :=
  let p : Porter := Tab.get {} (s.stall n).port i
  (List.range g).foldl (fun m _ => m.granule n p.th p.hint) ⟨s, p.src.toNat, p.dst.toNat, p.len, none⟩

/-- What a porter leaves when it stops at a 256-byte line boundary of its source (R143; log entry 95): how far it had come is free. -/
def State.porterStop (s : State) (n i : Nat) : State :=
  let p : Porter := Tab.get {} (s.stall n).port i
  if p.busy then
    let m := s.used.porterRun n i ((256 - p.src.toNat % 256) % 256 / 64 + 4 * s.freeBelow (p.len / 256 + 1))
    m.s.updStall n (fun st => { st with
      port := Tab.set st.port i { p with src := BitVec.ofNat 64 m.src, dst := BitVec.ofNat 64 m.dst, len := m.len } })
  else s

/-! ## Watches, halting, work-item boundaries -/

def ownedBy (n : Nat) : TOwner → Bool
  | .thread m _ => m = n
  | .porter m _ _ => m = n
  | _ => false

/-- The owners named by `f` are gone: their watches are withdrawn, those on other devices with an ABORT (R203), and their operations still
take effect (R207). -/
def State.orphan (s : State) (f : TOwner → Bool) : State :=
  let s := s.waitsWithdraw f 0x12
  { s with
    tally := { s.tally with
      watches := s.tally.watches.filter (fun w => !f w.owner),
      flight := s.tally.flight.map (fun o => if f o.owner then { o with dead := true } else o) },
    cv := { s.cv with conv := s.cv.conv.map (fun e =>
      (e.1, { e.2 with ops := e.2.ops.map (fun o => if f o.owner then { o with dead := true } else o) })) } }

/-- The operations in flight of owners that `f` names pass to other owners. -/
def State.reown (s : State) (f : TOwner → TOwner) : State :=
  { s with
    tally := { s.tally with flight := s.tally.flight.map (fun o => { o with owner := f o.owner }) },
    cv := { s.cv with conv := s.cv.conv.map (fun e =>
      (e.1, { e.2 with ops := e.2.ops.map (fun o => { o with owner := f o.owner }) })) } }

/-- Posted signals of an owner that have not taken effect (09 R198), here and on convoys. -/
def State.posted (s : State) (o : TOwner) : Nat :=
  (s.tally.flight.filter (fun x => x.owner = o && x.op = 2 && !x.dead)).length +
    ((s.cv.conv.map (fun e => (e.2.ops.filter (fun x => x.owner = o && x.op = 3 && !x.dead)).length)).foldl (· + ·) 0)

/-- The end of a stall's work item or idle moment (R122, R177): the array settings take effect, SLICECFG waits for its frame
boundary; array and hawker domains power down (15 R328). -/
def State.boundary (s : State) (n : Nat) : State :=
  let b := stallBase n
  s.updStall n (fun st => { st with
    work := none, hawkOn := false,
    arraycfg := if st.pendArr then s.rw32 (b + 0x100) else st.arraycfg,
    arrayseed := if st.pendSeed then s.rw32 (b + 0x104) else st.arrayseed,
    arr := { st.arr with
      on := false, cold := true,
      gen := if st.pendSeed then (if s.rw32 (b + 0x104) = 0 then 1 else s.rw32 (b + 0x104)) else st.arr.gen },
    pendArr := false, pendSeed := false,
    armSlice := if st.pendSlice then some (s.rw32 (b + 0x200)) else st.armSlice, pendSlice := false })

/-- A preemption or a halt waits for the stop points (R143, R144). -/
def Stall.stopping (st : Stall) : Bool := st.saving || st.halting

/-- The stall stops at once: every thread, tile and porter state is discarded, watches are withdrawn (R203), the stall is idle. -/
def State.halt (s : State) (n : Nat) : State :=
  let s := (s.porterStop n 0).porterStop n 1
  let s := if threads4.any (fun k => (s.thread n k).st ≠ .off) then s.selEvent n 5 else s
  let s := s.updStall n (fun st => { st with
    th := [], rows := [], rowPois := [], wop := none, port := [], saving := false, halting := false,
    arr := { st.arr with loaded := false, img := [] } })
  (s.orphan (ownedBy n)).boundary n

/-- The stalls that run a work item. -/
def State.stallsAt (s : State) (w : Work) : List Nat := allStalls.filter (fun n => (s.stall n).work = some w)

def State.haltWork (s : State) (w : Work) : State := (s.stallsAt w).foldl State.halt s

/-- No thread runs and no porter moves. -/
def Stall.idle (st : Stall) : Bool :=
  st.work = none && threads4.all (fun k => (st.thread k).st = .off) && !st.stopping

/-! ## Items by name -/

def Item.is (i : Item) (p r : Nat) (seq : W32) : Bool := i.p = p && i.r = r && i.seq = seq

def State.item (s : State) (p r : Nat) (seq : W32) : Option Item := s.rings.items.find? (fun i => i.is p r seq)

def State.updItem (s : State) (p r : Nat) (seq : W32) (f : Item → Item) : State :=
  { s with rings := { s.rings with items := s.rings.items.map (fun i => if i.is p r seq then f i else i) } }

/-- Settle an item once: the first event that ends it keeps its status (21 R451, R452). -/
def Item.settle (i : Item) (st : Nat) : Item := if i.stat = 0 then { i with stat := st, indet := true } else i

/-! ## Exceptions (R141, R142) -/

/-- An unhandled exception: LASTCAUSE, and the work item it belongs to fails as R58 says; every stall of it stops. -/
def State.unhandled (s : State) (n cause : Nat) : State :=
  let w := (s.stall n).work
  let s := s.updStall n (fun st => { st with lastCause := cause })
  match w with
  | some (.item p r seq) =>
    let s := s.updItem p r seq (fun i => if i.stat = 0 then { i with stat := 0x10, indet := true, result := cause + n * 256 } else i)
    s.haltWork (.item p r seq)
  | some (.jisan p) =>
    let s := { s with jfail := if (Tab.find s.jfail p).isSome then s.jfail else Tab.set s.jfail p (cause, n) }
    s.haltWork (.jisan p)
  | none => s.halt n

/-- Every thread stands at its stop point. -/
def Stall.stopped (st : Stall) : Bool := threads4.all (fun k => (st.thread k).st = .off || (st.thread k).stop)

/-- A halt takes effect once every thread has stopped (R144). -/
def State.haltCheck (s : State) (n : Nat) : State := if (s.stall n).halting ∧ (s.stall n).stopped then s.halt n else s

/-- An exception of thread k of stall n with its cause and address: the handler is entered, or it is unhandled. What the scalar half of a
pair whose wide half raises left is kept for ERET (R130). -/
def State.raiseExc (s : State) (n k cause : Nat) (addr : Word) (half fetch group : Bool) : State :=
  let t := s.thread n k
  let es := ofBool half + 2 + 4 * ofBool fetch + 8 * ofBool group
  let s := s.selPacket n k 6 (toLE 1 cause ++ toLE 1 es ++ toLE 8 t.pc.toNat)
  if t.evec ≠ 0 ∧ bit t.estat 1 = false then
    ((s.selPc n k 3 t.evec).setThread n k { t with
      st := .run, half := false, skip := false, ending := false, gop := none, resp := none, flow := 0,
      kept := if half then some (t.pc, t.npc, t.ending) else none,
      pc := t.evec, npc := t.evec,
      stop := (s.stall n).stopping,
      epc := t.pc, ecause := BitVec.ofNat 64 cause, eaddr := addr,
      estat := BitVec.ofNat 64 es }).haltCheck n
  else s.unhandled n cause

/-! ## Issue of a half of a pair (R130) -/

/-- The pair at `pc` came into the instruction buffer unreadable (R140). -/
def Stall.fetchBad (st : Stall) (pc : Word) : Bool := [0, 1].any (fun i => NSet.has st.ibPois (pc.toNat / 8 + i))

/-- Do the scalar half of the pair at thread k's PC: only while the thread runs and its scalar half comes next; an exception due
at the next pair (R134, R205), or that of a pair fetched unreadable (R140), is delivered instead. A command that finds neither has no
effect (log entry 12). -/
def State.scalar (s : State) (n k : Nat) (f : Thread → State) : State :=
  let t := s.thread n k
  if t.st = .run ∧ t.half = false ∧ t.stop = false then
    match t.due with
    | some (c, a) => (s.setThread n k { t with due := none }).raiseExc n k c a false false false
    | none =>
      if (s.stall n).fetchBad t.pc then s.raiseExc n k cDATA (BitVec.ofNat 64 (t.pc.toNat / 64 * 64)) false true false else f t
  else s

/-- The scalar half has taken effect with thread `t`: its wide half comes next, then `next`. -/
def State.scalarDone (s : State) (n k : Nat) (t : Thread) (next : Word) : State :=
  s.setThread n k { t with half := true, npc := next }

/-- An exception of the scalar half: the pair has no effect. -/
def State.scalarExc (s : State) (n k cause : Nat) (addr : Word) : State := s.raiseExc n k cause addr false false false

/-- A thread at its stop point, or between pairs, of a stall that is being preempted or halted: an exception due is taken first, then it
stops (R143, R144). -/
def State.atStop (s : State) (n k : Nat) : State :=
  let t := s.thread n k
  if (s.stall n).stopping then
    (if t.st ≠ .run then s
     else
       match t.due with
       | some (c, a) => (s.setThread n k { t with due := none }).raiseExc n k c a t.half false false
       | none => s.setThread n k { t with stop := true }).haltCheck n
  else s

/-- What follows the wide half of the pair at `pc` that ERET re-executes: what its scalar half left (R130, R141), else the next pair. -/
def Thread.afterSkip (t : Thread) (pc : Word) : Word × Bool :=
  match t.kept with
  | some (a, nx, e) => if a = pc then (nx, e) else (pc + 16, false)
  | none => (pc + 16, false)

/-- A pair has retired (PAIRS): the thread goes on, or goes off after KEND. -/
def State.retirePair (s : State) (n k : Nat) : State :=
  let t0 := s.thread n k
  let again := t0.skip && !t0.ending
  let x := t0.afterSkip t0.npc
  let t := { t0 with
    pc := t0.npc, half := again, npc := if again then x.1 else t0.npc, skip := false, gop := none,
    waited := false, flow := 0, kept := if again then none else t0.kept,
    st := if t0.ending then .off else .run, kended := t0.kended || t0.ending, ending := again && x.2 }
  let s := (s.selRetire n k t0).setThread n k t
  ((s.updStall n (fun st =>
    { st with ibuf := st.ibuf.map (fun l => if l.line = t0.pc / 256 then { l with used := true } else l) })).count n 2 1).atStop n k

/-- Running threads of the group: those not off. -/
def Stall.running (st : Stall) : List Nat := threads4.filter (fun k => (st.thread k).st ≠ .off)

/-- Release a SYNCG that every running thread has reached (R133). -/
def State.syncRelease (s : State) (n : Nat) : State :=
  let st := s.stall n
  if st.running ≠ [] ∧ st.running.all (fun k => (st.thread k).st = .syncg) then
    st.running.foldl (fun s k => s.updThread n k (fun t => { t with st := .run, half := true })) s
  else s

/-- Whether every running thread waits at a group-synchronous pair (R135). -/
def Stall.allAtGroup (st : Stall) : Bool := st.running ≠ [] && st.running.all (fun k => (st.thread k).st = .group)

def Stall.samePair (st : Stall) : Bool :=
  match st.running with
  | [] => true
  | k :: l => l.all (fun j => (st.thread j).pc = (st.thread k).pc)

/-- GROUP to every waiting thread (R135). -/
def State.raiseGroup (s : State) (n : Nat) : State :=
  (s.stall n).running.foldl (fun s k => if (s.thread n k).st = .group then s.raiseExc n k cGROUP 0 true false true else s) s

/-- An exception of a group operation goes to every participant (R135). -/
def State.groupExc (s : State) (n : Nat) (parts : List Nat) (cause : Nat) (addr : Word) : State :=
  parts.foldl (fun s k => if (s.thread n k).st = .group then s.raiseExc n k cause addr true false true else s) s

end Sys2Proof.Machine
end

