-- ==== Sys2Proof/Machine/Records.lean ====
section
/-!
DEFINITION. The end of an item (03): its completion record, moderation, what an early end leaves of its destination, and the
descriptor's fields.
-/
namespace Sys2Proof.Machine

/-! ## Descriptor fields (R56) -/

def Item.f (i : Item) (off n : Nat) : Nat := leAt i.desc off n

def Item.type (i : Item) : Nat := i.f 0 1
def Item.idem (i : Item) : Bool := bitsOf (i.f 2 2) 0 1 = 1
def Item.order (i : Item) : Bool := bitsOf (i.f 2 2) 1 1 = 1
def Item.noint (i : Item) : Bool := bitsOf (i.f 2 2) 2 1 = 1
def Item.timeout (i : Item) : Nat := i.f 12 2

/-! ## Ring registers -/

def ringBase (p r : Nat) : Nat := 0x180000 + 0x8000 * p + 0x100 * r

def State.sqbase (s : State) (p r : Nat) : Nat := (s.rw64 (ringBase p r)).toNat
def State.cqbase (s : State) (p r : Nat) : Nat := (s.rw64 (ringBase p r + 8)).toNat
def State.ringLog2 (s : State) (p r : Nat) : Nat := fld32 (s.rw32 (ringBase p r + 0x10)) 0 5
def State.ringN (s : State) (p r : Nat) : Nat := 2 ^ s.ringLog2 p r
def State.modCount (s : State) (p r : Nat) : Nat := fld32 (s.rw32 (ringBase p r + 0x10)) 8 8
def State.modTime (s : State) (p r : Nat) : Nat := fld32 (s.rw32 (ringBase p r + 0x10)) 16 16

def State.ringItems (s : State) (p r : Nat) : List Item := s.rings.items.filter (fun i => i.p = p && i.r = r)

/-- Whether a held write is a record that `f` takes the item of. -/
def Held.isRec (h : Held) (f : Item → Bool) : Bool := (h.item.map (fun x => f x.1)).getD false

/-- Records held (R83) of items that `f` takes. -/
def State.heldRecs (s : State) (f : Item → Bool) : Nat := (s.rings.held.filter (fun h => h.isRec f)).length

/-- Descriptors of a ring in flight: fetched and without their record (R74). -/
def State.inflight (s : State) (p r : Nat) : Nat := (s.ringItems p r).length + s.heldRecs (fun i => i.p = p && i.r = r)

def State.pinflight (s : State) (p : Nat) : Nat :=
  (s.rings.items.filter (fun i => i.p = p)).length + s.heldRecs (fun i => i.p = p)

def State.dinflight (s : State) : Nat := s.rings.items.length + s.heldRecs (fun _ => true)

/-- ACTIVE: ENABLE, or a fetched descriptor without its record. -/
def State.ringActive (s : State) (p r : Nat) : Bool := (s.ring p r).enable || s.inflight p r ≠ 0

/-! ## Completion records (R68 to R71, R79) -/

/-- µs from start to end, rounded up: 0 only if the item never started (R68; log entry 13). -/
def runtime (now : Nat) (start : Option Nat) : Nat :=
  match start with
  | none => 0
  | some t => min (max (cdiv (now - t) 1000) 1) 0xFFFFFFFF

/-- The final status: DONE becomes DONE_CORRECTED with corrected errors (R70). -/
def Item.final (i : Item) : Nat := if i.stat = 0 ∧ i.ce ≠ 0 then 1 else i.stat

/-- RUNTIME of an item that ends now: from its last start, also where a takeover has set it back (R68). -/
def State.runtimeOf (s : State) (i : Item) : Nat := runtime s.time (i.start <|> i.began)

/-- The 64 bytes of the record of an item that ended with RUNTIME `rt` (R68). -/
def State.recordBytes (s : State) (i : Item) (rt : Nat) (phase : Bool) : List Byte :=
  toLE 4 i.seq.toNat ++ toLE 1 i.final ++ toLE 1 i.type ++ toLE 1 (ofBool i.retried + 2 * ofBool i.indet) ++ toLE 1 i.r ++
    (i.desc.drop 8).take 4 ++ toLE 2 (s.ring i.p i.r).fetch ++ toLE 2 (min i.ce 0xFFFF) ++ toLE 8 s.time ++
    toLE 4 rt ++ toLE 4 0 ++ toLE 8 i.result ++ toLE 8 i.done ++ toLE 8 i.fault ++ toLE 7 0 ++
    toLE 1 (ofBool phase)

/-- Signal a ring's vector: its records count as signalled (R79). -/
def State.fireRing (s : State) (p r : Nat) : State :=
  (s.updRing p r (fun g => { g with unsig := 0 })).fire (s.fnOf p) (s.ringVec p r)

/-- Moderation after a record (R79): a failed one fires at once, NOINT does not count, MODCOUNT 0 acts as 1, MODTIME 0 fires at
once. -/
def State.moderate (s : State) (i : Item) : State :=
  let g := s.ring i.p i.r
  if 0x10 ≤ i.final then s.fireRing i.p i.r
  else if i.noint then s
  else
    let s := s.updRing i.p i.r (fun g => { g with unsig := g.unsig + 1, oldest := if g.unsig = 0 then s.time else g.oldest })
    if max (s.modCount i.p i.r) 1 ≤ g.unsig + 1 ∨ s.modTime i.p i.r = 0 then s.fireRing i.p i.r else s

/-- Write an item's record at CQTAIL, which advances with PHASE (R69). -/
def State.putRecord (s : State) (i : Item) (rt : Nat) : State :=
  let g := s.ring i.p i.r
  let tail := (g.cqtail + 1) % s.ringN i.p i.r
  (s.wrHost (s.cqbase i.p i.r + 64 * g.cqtail) (s.recordBytes i rt g.phase)).updRing i.p i.r (fun g => { g with
    cqtail := tail, phase := if tail = 0 then !g.phase else g.phase, written := g.written + 1 })

/-- The record of an item that ends, with its moderation: written now, or held while Bus Master Enable is 0 (R83). -/
def State.writeRecord (s : State) (i : Item) : State :=
  if s.bme (s.fnOf i.p) then (s.putRecord i (s.runtimeOf i)).moderate i
  else { s with rings := { s.rings with held := s.rings.held ++ [{ fn := s.fnOf i.p, item := some (i, s.runtimeOf i), addr := 0, data := [], vec := none }] } }

/-! ## The descriptor journal (18 R395) -/

/-- An item that the service processors dispatch: KERNEL, JISAN_REQUEST, CARAVAN. -/
def Item.firm (i : Item) : Bool := i.type = 1 || i.type = 6 || i.type = 7

def stageCode : Stage → Nat
  | .fetched => 1
  | .intent => 2
  | .dispatched => 3
  | .ended => 4

/-- An entry of the journal for an item. -/
def State.journal (s : State) (i : Item) (stage : Stage) : State :=
  { s with svc := { s.svc with
      jr := s.svc.jr ++ [JEnt.mk s.svc.jnext i.seq (stageCode stage) i.type i.r i.p i.idem s.time], jnext := s.svc.jnext + 1 } }

/-- Move an item to a stage and journal it. -/
def State.toStage (s : State) (p r : Nat) (seq : W32) (g : Stage) : State :=
  match s.item p r seq with
  | none => s
  | some i => (s.updItem p r seq (fun i => { i with stage := g })).journal i g

/-- Entries that items in flight may still need. -/
def State.jreserved (s : State) : Nat :=
  s.rings.items.foldl (fun n i => n + (if i.firm then 4 - stageCode i.stage else 1)) 0

/-- End an item: its record is written, moderation runs, it leaves the items in flight; a failed one counts for FENCE (R62). -/
def State.finish (s : State) (p r : Nat) (seq : W32) : State :=
  match s.item p r seq with
  | none => s
  | some i =>
    let s := { s with rings := { s.rings with
      items := s.rings.items.filter (fun j => !j.is p r seq), ends := s.rings.ends + 1,
      fails := if 0x10 ≤ i.final then s.rings.fails ++ [FailRec.mk p r i.fno s.rings.ends] else s.rings.fails } }
    let s := s.journal i .ended
    (s.orphan (fun o => o = TOwner.desc p r seq)).writeRecord i

/-- A check settles the descriptor: its record at once, destination untouched (R64). -/
def State.reject (s : State) (p r : Nat) (seq : W32) (st result : Nat) : State :=
  (s.updItem p r seq (fun i => { i with stat := st, result := result })).finish p r seq

/-! ## Indeterminate destinations (02 R42, 03 R73) -/

/-- The bytes of the granule at `a` of a space. -/
def State.granNow (s : State) (space a : Nat) : List Byte :=
  match space with
  | 0 => Mem.rdBytes s.mem.slice a 64
  | 1 => Mem.rdBytes s.mem.far a 64
  | 2 => s.rdHost a 64
  | _ => Mem.rdBytes s.mem.shelf a 64

/-- Put a granule back as it was before the operation, unless another writer has changed it since: overlapping work leaves each granule with
the value of one of its writers, and add-reduces of different slots all take effect (02 R40, R41). -/
def State.revertOne (s : State) (u : Undo) : State :=
  let m := s.mem
  if s.granNow u.space u.addr ≠ u.new then s
  else if u.space = 0 then
    { s with mem := { m with
        slice := Mem.wrBytes m.slice u.addr u.old,
        sliceValid := if u.valid then NSet.add m.sliceValid (u.addr / 256) else m.sliceValid,
        slicePois := u.pois.foldl NSet.add (NSet.delRange m.slicePois (u.addr / 32) 2) } }
  else if u.space = 1 then
    { s with mem := { m with
        far := Mem.wrBytes m.far u.addr u.old,
        farPois := u.pois.foldl NSet.add (NSet.delRange m.farPois (u.addr / 32) 2) } }
  else if u.space = 2 then s.wrHost u.addr u.old
  else { s with mem := { m with shelf := Mem.wrBytes m.shelf u.addr u.old } }

/-- Each destination granule keeps its value after the operation or takes the one before it, as a free value says (R42). -/
def State.indeterminate (s : State) (l : List Undo) : State :=
  l.foldl (fun s u => (if s.freeBool then s.revertOne u else s).used) s

/-- The granule of 64 bytes at `addr` of a space, as it is now; an unwritten line of a lost block reads as poisoned (12 R262). -/
def State.snap (s : State) (space addr : Nat) : Undo :=
  let a := addr / 64 * 64
  let unwritten := NSet.has s.mem.lost (a / unit256) && !NSet.has s.mem.sliceValid (a / 256)
  let u : Undo := { space := min space 3, addr := a, old := s.granNow space a, valid := true, pois := [] }
  match space with
  | 0 => { u with
      valid := NSet.has s.mem.sliceValid (a / 256), pois := [a / 32, a / 32 + 1].filter (fun w => unwritten || NSet.has s.mem.slicePois w) }
  | 1 => { u with valid := NSet.has s.mem.farValid (a / 256), pois := [a / 32, a / 32 + 1].filter (NSet.has s.mem.farPois) }
  | _ => u

/-- The record of a granule once it has been written. -/
def State.sealed (s : State) (u : Undo) : Undo := { u with new := s.granNow u.space u.addr }

/-- A granule written once more keeps the value it had before the operation. -/
def addUndo (l : List Undo) (u : Undo) : List Undo :=
  if l.any (fun v => v.space = u.space && v.addr = u.addr) then
    l.map (fun v => if v.space = u.space ∧ v.addr = u.addr then { v with new := u.new } else v)
  else l ++ [u]

end Sys2Proof.Machine
end

