-- ==== Sys2Proof/Machine/Near.lean ====
section
/-!
DEFINITION. The near-bank operations as the slots of the window and NEAR_BATCH descriptors perform them (02 R35 to R42, 03 R60).
-/
namespace Sys2Proof.Machine

/-- An operation: the WCMD, WTARGET, WLEN, WVALUE and WTABLE words. -/
structure Near where
  cmd : Word
  target : Word
  len : Word
  value : Word
  table : Word
  deriving DecidableEq, Repr

def Near.op (w : Near) : Nat := fld w.cmd 0 4
def Near.ety (w : Near) : Nat := fld w.cmd 4 4
def Near.cmp (w : Near) : Nat := fld w.cmd 8 3
def Near.nidx (w : Near) : Nat := fld w.cmd 12 10
def Near.n (w : Near) : Nat := fld w.len 0 40
def Near.rowBytes (w : Near) : Nat := fld w.table 0 12
def Near.rowCount (w : Near) : Nat := fld w.table 16 32

/-- Element bytes of an ETYPE; 0 for a reserved one (R34). -/
def etyBytes (e : Nat) : Nat :=
  match e with
  | 0 => 1
  | 1 => 2
  | 2 => 4
  | 3 => 8
  | 5 => 2
  | 6 => 4
  | _ => 0

/-- Check 1 of R35 with the types of R37. -/
def Near.fmtOk (w : Near) : Bool :=
  decide (1 ≤ w.op ∧ w.op ≤ 4 ∧ etyBytes w.ety ≠ 0 ∧ w.cmp ≤ 5 ∧ w.nidx ≤ 512) &&
  decide (bitsOf w.cmd.toNat 11 1 = 0 ∧ fld w.cmd 22 42 = 0 ∧ fld w.len 40 24 = 0 ∧ fld w.table 12 4 = 0 ∧ fld w.table 48 16 = 0) &&
  decide (w.op ≠ 4 → w.cmp = 0) && decide (w.op ≠ 3 → w.nidx = 0) &&
  (match w.op with
   | 1 => w.ety = 0
   | 2 => w.ety = 2 || w.ety = 3 || w.ety = 5 || w.ety = 6
   | 3 => w.ety = 5 || w.ety = 6
   | _ => true)

/-- Check 2 of R35: the alignment and size rules of R37. -/
def Near.alignOk (w : Near) : Bool :=
  let t := w.target.toNat
  let e := etyBytes w.ety
  match w.op with
  | 1 => t % 8 = 0 && w.n % 8 = 0
  | 2 => t % e = 0 && w.n % e = 0 && decide (w.n ≤ 2048)
  | 3 => t % 64 = 0 && w.rowBytes % 64 = 0 && decide (64 ≤ w.rowBytes ∧ w.rowBytes ≤ 2048 ∧ 1 ≤ w.rowCount)
  | _ => t % e = 0 && w.n % e = 0

/-- The length of an operation (R35). -/
def Near.length (w : Near) : Nat := if w.op = 3 then w.nidx else w.n

/-! ## Ranges (checks 3 and 4 of R35) -/

/-- The windows a range of DPA touches. -/
def windowsOf (a n : Nat) : List Nat := wordsOf unit256 a n

/-- Every byte of a range of DPA is backed, in a stall window, as the range checks count it (R88). -/
def State.nearBacked (s : State) (ld a n : Nat) : Bool :=
  decide (a + n ≤ dpaFar) &&
  (windowsOf a n).all (fun w =>
    match s.placeDpa ld (unit256 * w) with
    | .slice m _ => decide (min (a + n) (unit256 * (w + 1)) - unit256 * w ≤ s.backedTop m)
    | _ => false)

/-- Some stall whose window is touched is retired in service or fenced. -/
def State.nearGone (s : State) (ld a n : Nat) : Bool :=
  (windowsOf a n).any (fun w =>
    match s.placeDpa ld (unit256 * w) with
    | .slice m _ => s.stallGone m
    | _ => false)

/-- Indices of GATHER_SUM. -/
def Near.indices (w : Near) (data : List Byte) : List Nat := (List.range w.nidx).map (fun j => leAt data (4 * j) 4)

/-- The ranges an operation reads or writes. -/
def Near.ranges (w : Near) (data : List Byte) : List (Nat × Nat) :=
  if w.op = 3 then (w.indices data).map (fun r => (w.target.toNat + r * w.rowBytes, w.rowBytes)) else [(w.target.toNat, w.n)]

/-- An index names a row beyond the table, or a named row leaves its stall window (R38). -/
def Near.rowsBad (w : Near) (data : List Byte) : Bool :=
  w.op = 3 && (w.indices data).any (fun r =>
    decide (w.rowCount ≤ r) || (windowsOf (w.target.toNat + r * w.rowBytes) w.rowBytes).length ≠ 1)

/-- Checks 3 and 4 of R35, or the effects may begin. -/
def State.nearCheck (s : State) (ld : Nat) (w : Near) (data : List Byte) : Option Nat :=
  let l := w.ranges data
  if w.rowsBad data || l.any (fun r => !s.nearBacked ld r.1 r.2) then some 0x21
  else if l.any (fun r => s.nearGone ld r.1 r.2) then some 0x11
  else none

/-! ## Elements (R39) -/

def etyFmt (e : Nat) : Option Fmt := if e = 5 then some .bf16 else if e = 6 then some .fp32 else none

/-- The signed integer of `n` bytes. -/
def signedOf (n v : Nat) : Int := if 2 ^ (8 * n - 1) ≤ v then (v : Int) - 2 ^ (8 * n) else v

/-- ADD_REDUCE of one element. -/
def nearAdd (ety a b : Nat) : Nat :=
  match etyFmt ety with
  | some f => f.enc .even ((f.dec a).add (f.dec b))
  | none => (a + b) % 2 ^ (8 * etyBytes ety)

def nearCmp (ety c a b : Nat) : Bool :=
  match etyFmt ety with
  | some f => cmpFp c (f.dec a) (f.dec b)
  | none => cmpInt c (signedOf (etyBytes ety) a) (signedOf (etyBytes ety) b)

/-- Elements of `e` bytes. -/
def elemsOf (e : Nat) (l : List Byte) : List Nat := (List.range (l.length / e)).map (fun i => leAt l (e * i) e)

def fp32Of (ety x : Nat) : W32 :=
  if ety = 6 then BitVec.ofNat 32 x else BitVec.ofNat 32 (Fmt.fp32.enc .even (Fmt.bf16.dec x))

def fp32To (ety : Nat) (x : W32) : Nat := if ety = 6 then x.toNat else Fmt.bf16.enc .even (Fmt.fp32.dec x.toNat)

/-! ## Effects (R38) -/

/-- What an operation did: the state, the first DPA that failed, the count, the sums by granule, the granules written as they were. -/
structure NearRes where
  s : State
  fail : Option Nat
  count : Nat
  sums : List (Option (List Byte))
  undo : List Undo

/-- The stack address of a DPA of a stall window. -/
def State.nearAddr (s : State) (ld d : Nat) : Nat :=
  match s.placeDpa ld d with
  | .slice m off => unit256 * m + off
  | _ => 0

/-- A failing granule is reported (R264, R277). -/
def State.nearReport (s : State) (p ty a : Nat) : State :=
  s.logUe (mkEnt ty 0 3 (some p) (a / unit256) a) (s.ldFor (some p))

/-- Write bytes within one granule; a dropped word fails the operation (R42). -/
def NearRes.write (r : NearRes) (p ld d : Nat) (b : List Byte) : NearRes :=
  let a := r.s.nearAddr ld d
  let u := r.s.snap 0 a
  let w := r.s.wrSlice a b
  match w.drop with
  | none => { r with s := w.s, undo := addUndo r.undo (w.s.sealed u) }
  | some x => { r with s := w.s.nearReport p (if w.s.dropsSlice x then 3 else 15) x, fail := r.fail <|> some d, undo := addUndo r.undo (w.s.sealed u) }

/-- Read bytes of a stall window; uncorrectable data fail the operation. -/
def State.nearRead (s : State) (p ld d n : Nat) : State × Option (List Byte) :=
  let a := s.nearAddr ld d
  match s.sliceFault a n with
  | some _ => (s.nearReport p 3 a, none)
  | none => (s, some (Mem.rdBytes s.mem.slice a n))

/-- FILL: whole lines of WVALUE 0 lose their valid bit, unless their block is lost or the row held (R38, R119, R260, R262). -/
def State.nearFill (s : State) (p ld : Nat) (w : Near) : NearRes :=
  let pat := toLE 8 w.value.toNat
  (pieces 256 (w.n + 1) w.target.toNat (List.replicate (w.n / 8) pat).flatten).foldl (fun r x =>
    let a := r.s.nearAddr ld x.1
    if w.value = 0 ∧ x.2.length = 256 ∧ !r.s.dropsSlice a ∧ !NSet.has r.s.mem.lost (a / unit256) then
      let u := (List.range 4).map (fun g => r.s.snap 0 (a + 64 * g))
      let t := r.s.clearSliceLines (a / 256) 1
      { r with s := t, undo := r.undo ++ u.map t.sealed }
    else (pieces 64 8 x.1 x.2).foldl (fun r y => r.write p ld y.1 y.2) r) ⟨s, none, 0, [], []⟩

/-- ADD_REDUCE, a granule at a time (R40). -/
def State.nearAddReduce (s : State) (p ld : Nat) (w : Near) (data : List Byte) : NearRes :=
  let e := etyBytes w.ety
  (pieces 64 (w.n + 1) w.target.toNat (data.take w.n)).foldl (fun r x =>
    let q := r.s.nearRead p ld x.1 x.2.length
    match q.2 with
    | none => { r with s := q.1, fail := r.fail <|> some x.1 }
    | some old =>
      let sum := List.flatten (List.zipWith (fun a b => toLE e (nearAdd w.ety a b)) (elemsOf e old) (elemsOf e x.2))
      let r' : NearRes := { r with s := q.1 }
      r'.write p ld x.1 sum)
    ⟨s, none, 0, [], []⟩

/-- Add one granule of a row to its fp32 sums; a failing granule leaves its sums without a value. -/
def gatherGran (ety : Nat) (acc : Option (List W32)) (b : Option (List Byte)) : Option (List W32) :=
  match acc, b with
  | some a, some b => some (List.zipWith (fun x y => add32 x (fp32Of ety y)) a (elemsOf (etyBytes ety) b))
  | _, _ => none

/-- GATHER_SUM: fp32 accumulation in index order, one rounding to ETYPE at the end (R39), kept by granule of the row. -/
def State.nearGather (s : State) (p ld : Nat) (w : Near) (data : List Byte) : NearRes :=
  let e := etyBytes w.ety
  let r := (w.indices data).foldl (fun (r : State × Option Nat × List (Option (List W32))) i =>
    (List.range (w.rowBytes / 64)).foldl (fun r k =>
      let d := w.target.toNat + i * w.rowBytes + 64 * k
      let q := r.1.nearRead p ld d 64
      (q.1, (if q.2.isNone then r.2.1 <|> some d else r.2.1), r.2.2.set k (gatherGran w.ety (r.2.2.getD k none) q.2))) r)
    (s, none, List.replicate (w.rowBytes / 64) (some (List.replicate (64 / e) (0 : W32))))
  ⟨r.1, r.2.1, 0, r.2.2.map (fun g => g.map (fun l => l.flatMap (fun x => toLE e (fp32To w.ety x)))), []⟩

/-- COMPARE_COUNT over the range, a granule at a time. -/
def State.nearCompare (s : State) (p ld : Nat) (w : Near) : NearRes :=
  let e := etyBytes w.ety
  let v := w.value.toNat % 2 ^ (8 * e)
  (pieces 64 (w.n + 1) w.target.toNat (List.replicate w.n (0 : Byte))).foldl (fun r x =>
    let q := r.s.nearRead p ld x.1 x.2.length
    match q.2 with
    | none => { r with s := q.1, fail := r.fail <|> some x.1 }
    | some b => { r with s := q.1, count := r.count + ((elemsOf e b).filter (fun y => nearCmp w.ety w.cmp y v)).length })
    ⟨s, none, 0, [], []⟩

/-- The effects of R38 on operands `data`. -/
def State.nearRun (s : State) (p ld : Nat) (w : Near) (data : List Byte) : NearRes :=
  match w.op with
  | 1 => s.nearFill p ld w
  | 2 => s.nearAddReduce p ld w data
  | 3 => s.nearGather p ld w data
  | _ => s.nearCompare p ld w

end Sys2Proof.Machine
end

