-- ==== Sys2Proof/Machine/Buffers.lean ====
section
/-!
DEFINITION. The buffer table (03 R54, R55), ranges of buffers and of device addresses, and reading and writing them for an item
(03 R64 to R66, R73; 12 R264, R265).
-/
namespace Sys2Proof.Machine

/-! ## Buffer table entries -/

def State.buftCount (s : State) (p : Nat) : Nat := fld32 (s.rw32 (0x184008 + 0x8000 * p)) 0 16
def State.buftBase (s : State) (p : Nat) : Nat := (s.rw64 (0x184000 + 0x8000 * p)).toNat

/-- An entry of 16 bytes. -/
def bufOf (idx : Nat) (b : List Byte) : Buf :=
  { idx := idx, base := leAt b 0 8, len := leAt b 8 5, kind := bitsOf (leAt b 13 1) 0 2, rd := bitsOf (leAt b 13 1) 2 1 = 1,
    wr := bitsOf (leAt b 13 1) 3 1 = 1 }

/-- R54: the reserved bits of an entry are 0. -/
def bufWf (b : List Byte) : Bool := bitsOf (leAt b 13 1) 4 4 = 0 && leAt b 14 2 = 0

/-- The entries a descriptor names, each with whether it is written, as check 3 of R64 reads them; or the RESULT of its failure: bit 0
a failed read (R83), bit 1 a malformed entry (R54). The entries are tested one by one after the rest of check 3, which the spec does not order
(DESIGN CHOICE, log entry 99). -/
def State.readBufs (s : State) (p : Nat) (rdFail : Bool) : List (Nat × Bool) → Except Nat (List Buf)
  | [] => .ok []
  | (i, w) :: l =>
    let a := s.buftBase p + 16 * i
    let b := s.rdHost a 16
    let e := bufOf i b
    if s.buftCount p ≤ i ∨ i = 0xFFFF then .error 0
    else if rdFail ∨ NSet.has s.mem.hostPois (a / 64) then .error 1
    else if !bufWf b then .error 2
    else if !(e.kind = 1 ∨ e.kind = 2) ∨ !(if w then e.wr else e.rd) then .error 0
    else
      match s.readBufs p rdFail l with
      | .ok t => .ok (e :: t)
      | .error x => .error x

/-! ## Ranges of device addresses -/

/-- Every byte of a DPA range of logical device `ld` is backed, as the range checks count it (R88, R238). -/
def State.dpaBacked (s : State) (ld a n : Nat) : Bool :=
  let n1 := min n (dpaFar - a)
  let o := a - dpaFar
  (windowsOf a n1).all (fun w =>
    match s.placeDpa ld (unit256 * w) with
    | .slice m _ => decide (min (a + n1) (unit256 * (w + 1)) - unit256 * w ≤ s.backedTop m)
    | _ => false) &&
  (n = n1 || (s.backedChk (s.placeDpa ld (dpaFar + o)) && s.backedChk (s.placeDpa ld (a + n - 1))))

/-- The stalls whose windows a DPA range touches. -/
def State.dpaStalls (s : State) (ld a n : Nat) : List Nat :=
  (windowsOf a (min n (dpaFar - a))).filterMap (fun w =>
    match s.placeDpa ld (unit256 * w) with
    | .slice m _ => some m
    | _ => none)

/-- Whether `n` bytes from `off` lie within a buffer and within backed memory (check 5). -/
def State.bufFits (s : State) (ld : Nat) (b : Buf) (off n : Nat) : Bool :=
  decide (off + n ≤ b.len) && (b.kind = 1 || s.dpaBacked ld (b.base + off) n)

def State.bufStalls (s : State) (ld : Nat) (b : Buf) (off n : Nat) : List Nat :=
  if b.kind = 1 then [] else s.dpaStalls ld (b.base + off) n

/-! ## Access. An address in a buffer's KIND space is a host bus address or a DPA. -/

/-- The word at a DPA reads as uncorrectable. -/
def State.dpaBad (s : State) (ld d : Nat) : Bool :=
  match s.placeDpa ld d with
  | .slice m off => s.sliceBad (unit256 * m + off)
  | .far o => s.farBad o
  | .none => true

/-- The first uncorrectable granule of a range in KIND space. -/
def State.spaceFault (s : State) (ld kind a n : Nat) : Option Nat :=
  if kind = 1 then ((wordsOf 64 a n).find? (NSet.has s.mem.hostPois)).map (· * 64)
  else ((wordsOf 32 a n).find? (fun w => s.dpaBad ld (w * 32))).map (fun w => w * 32 / 64 * 64)

/-- The granule of host memory that the host fails to read, where the range (KIND, address) reaches it (R83). -/
def hostFailIn (at_ : Nat × Nat) (n : Nat) (hostFail : Option Nat) : Option Nat :=
  match hostFail with
  | some g => if at_.1 = 1 ∧ at_.2 < g / 64 * 64 + 64 ∧ g / 64 * 64 < at_.2 + n then some (g / 64 * 64) else none
  | none => none

/-- The bytes of a range within one granule. -/
def State.granRead (s : State) (ld kind a n : Nat) : List Byte :=
  if kind = 1 then s.rdHost a n
  else
    match s.placeDpa ld a with
    | .slice m off => Mem.rdBytes s.mem.slice (unit256 * m + off) n
    | .far o => Mem.rdBytes s.mem.far o n
    | .none => zeros n

/-- The bytes of a range in KIND space. -/
def State.spaceRead (s : State) (ld kind a n : Nat) : List Byte :=
  ((pieces 64 (n / 64 + 2) a (zeros n)).map (fun x => s.granRead ld kind x.1 x.2.length)).flatten

/-- Where an address of KIND space lies, for undo: the space of `Undo` and the address there. -/
def State.spaceAt (s : State) (ld kind a : Nat) : Nat × Nat :=
  if kind = 1 then (2, a)
  else
    match s.placeDpa ld a with
    | .slice m off => (0, unit256 * m + off)
    | .far o => (1, o)
    | .none => (3, 0)

/-- The accesses to far memory of a read or write of `n` bytes in KIND space, with a hint (11 R239 to R242). -/
def State.spaceTouch (s : State) (ld kind a n hint : Nat) (wr : Bool) : State :=
  if kind = 1 then s
  else
    match s.placeDpa ld a with
    | .far o => s.farTouch s.pt.active o n hint wr
    | _ => s

/-- Write bytes within one granule; the first word dropped under R119, R248 or R265 comes back as an address of KIND space. -/
def State.granWrite (s : State) (ld kind a : Nat) (b : List Byte) (hint : Nat := 0) : WrRes :=
  if kind = 1 then ⟨s.wrHost a b, none⟩
  else
    match s.placeDpa ld a with
    | .slice m off => let r := s.wrSlice (unit256 * m + off) b; ⟨r.s, r.drop.map (fun _ => a / 64 * 64)⟩
    | .far o => let r := (s.farTouch s.pt.active o b.length hint true).wrFar o b; ⟨r.s, r.drop.map (fun _ => a / 64 * 64)⟩
    | .none => ⟨s, some (a / 64 * 64)⟩

/-- Write a granule poisoned (R264): in host memory zero data with EP set. -/
def State.granPoison (s : State) (ld kind a : Nat) : State :=
  if kind = 1 then
    let s := s.wrHost (a / 64 * 64) (zeros 64)
    { s with mem := { s.mem with hostPois := NSet.add s.mem.hostPois (a / 64) } }
  else
    match s.placeDpa ld a with
    | .slice m off => s.poisSlice (unit256 * m + off)
    | .far o => s.poisFar o
    | .none => s

/-- A failure of an item's access: event of R277 with type `ty` (3 uncorrectable, 15 partial write dropped) and requester `req`. -/
def State.spaceReport (s : State) (p ty req kind a : Nat) : State :=
  if kind = 1 then s
  else
    match s.placeDpa p a with
    | .slice m off => s.logUe (mkEnt ty 0 req (some p) m (unit256 * m + off)) (s.ldFor (some p))
    | .far o => s.logUe (mkEnt ty 1 req (some p) (placeFar s.far.used s.far.ml s.far.disp s.far.chcap o).1 o) (s.ldFor (some p))
    | .none => s

/-! ## An item's writes -/

/-- An item fails at an address: FAILED_DATA unless it has failed before (R264, R265). -/
def Item.failAt (i : Item) (a : Nat) : Item := if i.stat = 0 then { i with stat := 0x10, indet := true, fault := a } else i

/-- Write bytes of an item at an address of KIND space, a granule at a time, keeping what was there. -/
def State.itemWrite (s : State) (p r : Nat) (seq : W32) (req kind a : Nat) (b : List Byte) (hint : Nat := 0) : State :=
  (pieces 64 (b.length / 64 + 2) a b).foldl (fun s x =>
    let at_ := s.spaceAt p kind x.1
    let u := s.snap at_.1 at_.2
    let w := s.granWrite p kind x.1 x.2 hint
    let u := w.s.sealed u
    let s := w.s.updItem p r seq (fun i =>
      let l := addUndo i.undo u
      { i with undo := l, lim := if i.stat = 0 then l.length else i.lim })
    match w.drop with
    | none => s
    | some f => (s.spaceReport p 15 req kind f).updItem p r seq (fun i =>
        { i.failAt f with lim := min i.lim (i.undo.findIdx (fun v => v.space = u.space && v.addr = u.addr)) })) s

/-- Copy bytes between buffers for an item, a destination granule at a time; a granule whose source is uncorrectable is written
poisoned (R264). `hostFail` names the granule of host data that the host failed to read (R83); far accesses carry `hint` (R59). -/
def State.itemCopy (s0 : State) (p r : Nat) (seq : W32) (req : Nat) (ks sa kd da n : Nat) (hostFail : Option Nat) (hint : Nat) : State :=
  let s := s0.spaceTouch p ks sa n hint false
  (pieces 64 (n / 64 + 2) da (zeros n)).foldl (fun s x =>
    let src := sa + (x.1 - da)
    let k := x.2.length
    match hostFailIn (ks, src) k hostFail <|> s.spaceFault p ks src k with
    | some f => ((s.spaceReport p 3 req ks f).granPoison p kd x.1).updItem p r seq (fun i => i.failAt f)
    | none => s.itemWrite p r seq req kd x.1 (s.spaceRead p ks src k) hint) s

end Sys2Proof.Machine
end

