-- ==== Sys2Proof/Machine/Collect.lean ====
section
/-!
DEFINITION. Collectives (14 R317 to R319): the exchange before an instance, the ring of steps, what each member sends, adds and writes,
and ABORT to the neighbours (R321, 21 R460). COLL packets carry handle, step and instance; step 0 is the exchange (log entry 24).
-/
namespace Sys2Proof.Machine

/-- Elements of a collective and of one of its parts (R318, R319). -/
def Coll.n (c : Coll) : Nat := c.len / etyBytes c.ety
def Coll.part (c : Coll) : Nat := cdiv c.n c.m

/-- First element and number of elements of part q. -/
def Coll.partAt (c : Coll) (q : Nat) : Nat × Nat := (q * c.part, min c.part (c.n - q * c.part))

/-- This member's input of part q. -/
def Coll.own (c : Coll) (q : Nat) : List Byte :=
  let e := etyBytes c.ety
  ((c.inp.drop ((c.partAt q).1 * e)).take ((c.partAt q).2 * e))

/-- A partial sum travels as int32 or fp32 (R319). -/
def Coll.widen (c : Coll) (b : List Byte) : List Byte :=
  if c.ety = 5 then (elemsOf 2 b).flatMap (fun x => toLE 4 (fp32Of 5 x).toNat) else b

/-- A complete sum is rounded once to its type (R319). -/
def Coll.narrow (c : Coll) (b : List Byte) : List Byte :=
  if c.ety = 5 then (elemsOf 4 b).flatMap (fun x => toLE 2 (fp32To 5 (BitVec.ofNat 32 x))) else b

/-- Received partial sum plus this member's elements (R319). -/
def Coll.add (c : Coll) (b own : List Byte) : List Byte :=
  (List.zipWith (fun x y => if c.ety = 2 then toLE 4 ((x + y) % 2 ^ 32) else toLE 4 (add32 (BitVec.ofNat 32 x) (BitVec.ofNat 32 y)).toNat)
    (elemsOf 4 b) (elemsOf 4 (c.widen own))).flatten

/-- Steps that move data through this member: received ones. -/
def Coll.steps (c : Coll) : Nat :=
  match c.op with
  | 1 => 2 * (c.m - 1)
  | 4 => if c.rank = 0 then 0 else 1
  | _ => c.m - 1

/-- Whether step s reduces, and the part it brings (R318, R319). -/
def Coll.stepPart (c : Coll) (s : Nat) : Bool × Nat :=
  if c.op = 3 ∨ (c.op = 1 ∧ s < c.m - 1) then (true, (c.rank + 2 * c.m - 2 - s) % c.m)
  else
    let t := if c.op = 1 then s - (c.m - 1) else s
    (false, (c.rank + 2 * c.m - 1 - t) % c.m)

/-- Bytes that step s brings. -/
def Coll.stepLen (c : Coll) (s : Nat) : Nat :=
  let x := c.stepPart s
  match c.op with
  | 2 => c.len
  | 4 => c.len
  | _ => (c.partAt x.2).2 * (if x.1 && c.ety = 5 then 4 else etyBytes c.ety)

/-- What the first step sends. -/
def Coll.first (c : Coll) : List Byte :=
  if c.op = 1 ∨ c.op = 3 then c.widen (c.own ((c.rank + c.m - 1) % c.m)) else c.inp

/-- Offset in the output of a complete part. -/
def Coll.outAt (c : Coll) (q : Nat) : Nat :=
  match c.op with
  | 1 => (c.partAt q).1 * etyBytes c.ety
  | 2 => q * c.len
  | _ => 0

/-- Whether this member sends at step number s of the ring (R318): BROADCAST goes once round from rank 0. -/
def Coll.sends (c : Coll) (s : Nat) : Bool := if c.op = 4 then decide (c.rank + 1 < c.m) else decide (s < c.steps)

/-! ## Packets -/

def State.updColl (s : State) (p r : Nat) (seq : W32) (f : Coll → Coll) : State :=
  { s with cv := { s.cv with coll := s.cv.coll.map (fun c => if c.p = p ∧ c.r = r ∧ c.seq = seq then f c else c) } }

def State.coll (s : State) (p r : Nat) (seq : W32) : Option Coll :=
  s.cv.coll.find? (fun c => c.p = p && c.r = r && c.seq = seq)

/-- Cut bytes into payloads of `k`. -/
def chunks (k : Nat) : Nat → List Byte → List (List Byte)
  | 0, _ => []
  | _ + 1, [] => []
  | n + 1, b => b.take k :: chunks k n (b.drop k)

/-- A port and a message number toward device d. -/
def State.cvMsg (s : State) (d : Nat) : State × Nat × Nat :=
  let port := s.choose 0 (s.livePorts d)
  let m := (s.conv d port).msg
  (s.used.updConv d port (fun c => { c with msg := (c.msg + 1) % 65536 }), port, m)

/-- Send the packets of one step of instance `c` to a neighbour. -/
def State.collSend (s : State) (c : Coll) (peer port msg step : Nat) (b : List Byte) : State :=
  s.cvPut peer port msg ((chunks s.cvPayload (b.length + 1) b).map (fun d =>
    { kind := 9, tp := s.cvRpitch c.p, sp := c.p, key := s.cvKey c.p, addr := c.h + 2 ^ 16 * step + 2 ^ 32 * c.inst.toNat, data := d }))

/-- The exchange: OP, ETYPE, M and LENGTH (R317). -/
def Coll.hello (c : Coll) : List Byte := toLE 1 c.op ++ toLE 1 c.ety ++ toLE 2 0 ++ toLE 4 c.m ++ toLE 8 c.len

/-- The input of a collective, from its buffer. -/
def State.collInput (s : State) (c : Coll) : Option (Nat × Nat × Nat) :=
  match s.item c.p c.r c.seq with
  | some i =>
    match i.bufs with
    | b :: _ => some (b.kind, b.base + i.f 24 8, c.len)
    | [] => none
  | none => none

/-- An instance's turn comes: it reads its input and exchanges with NEXT and PREV (R317). -/
def State.collBegin (s : State) (c : Coll) : State :=
  let x := (s.collInput c).getD (1, 0, 0)
  let s := s.spaceTouch c.p x.1 x.2.1 x.2.2 0 false
  let s := match hostFailIn (x.1, x.2.1) x.2.2 c.hfail <|> s.spaceFault c.p x.1 x.2.1 x.2.2 with
    | some f => (s.spaceReport c.p 3 6 x.1 f).updItem c.p c.r c.seq (fun i => i.failAt f)
    | none => s
  let c := { c with inp := s.spaceRead c.p x.1 x.2.1 x.2.2 }
  let a := s.cvMsg c.next
  let b := if c.prev = c.next then a else a.1.cvMsg c.prev
  let c := { c with st := 1, pn := a.2.1, mn := a.2.2, pp := b.2.1, mp := b.2.2 }
  let s := b.1.updColl c.p c.r c.seq (fun _ => c)
  let s := s.collSend c c.next c.pn c.mn 0 c.hello
  if c.prev = c.next then s else s.collSend c c.prev c.pp c.mp 0 c.hello

/-- An instance leaves, with the packets held for it. -/
def State.collTake (s : State) (x : Coll) : State :=
  { s with cv := { s.cv with
      coll := s.cv.coll.filter (fun c => !(c.p = x.p && c.r = x.r && c.seq = x.seq)),
      early := s.cv.early.filter (fun e => !(e.p = x.p && e.h = x.h && e.inst = x.inst)) } }

/-- An instance may go on: it needs no host memory, or Bus Master Enable lets it reach it (03 R83). -/
def State.collLive (s : State) (c : Coll) : Bool :=
  s.bme (s.fnOf c.p) || (c.out.kind ≠ 1 && ((s.collInput c).map (fun x => x.1)).getD 1 ≠ 1)

/-- The next waiting instance of a handle begins once none runs (R317). -/
def State.collNext (s : State) (p h : Nat) : State :=
  let l := s.cv.coll.filter (fun c => c.p = p && c.h = h)
  if l.any (fun c => c.st ≠ 0) then s
  else
    match l with
    | [] => s
    | c :: _ => if s.collLive c then s.collBegin c else s

/-- The instance ends at this member: it leaves, and the next one of its handle begins. -/
def State.collLeave (s : State) (c : Coll) : State := (s.collTake c).collNext c.p c.h

/-- ABORT with a status to a neighbour (R321; 21 R460). -/
def State.cvAbort (s : State) (peer port msg st : Nat) : State := s.cvReply peer port { kind := 10, msg := msg, data := toLE 1 st }

/-- A member drops its instance: ABORT to both neighbours. -/
def State.collAbort (s : State) (c : Coll) (st : Nat) : State :=
  let s := s.collTake c
  let s := if c.st = 0 then s else
    let s := s.cvAbort c.next c.pn c.mn st
    if c.prev = c.next then s else s.cvAbort c.prev c.pp c.mp st
  s.collNext c.p c.h

/-- Write a complete part to the output. -/
def State.collWrite (s : State) (c : Coll) (q : Nat) (b : List Byte) : State :=
  s.itemWrite c.p c.r c.seq 6 c.out.kind (c.out.base + c.off + c.outAt q) b

/-- A member that has everything ends its item (R317, R318); an output write that was dropped ends it as FAILED_DATA, with ABORT. -/
def State.collDone (s : State) (c : Coll) : State :=
  match s.item c.p c.r c.seq with
  | none => s.collLeave c
  | some i =>
    if i.stat ≠ 0 then
      ((s.collAbort c i.stat).indeterminate i.undo).finish c.p c.r c.seq
    else ((s.updItem c.p c.r c.seq (fun i => { i with done := if c.op = 2 then c.m * c.len else if c.op = 3 then c.len / c.m else c.len })).collLeave c).finish c.p c.r c.seq

/-- Data of step `c.step` have all come: combine, write what is complete, send the next step. -/
def State.collStep (s : State) (c : Coll) : State :=
  let x := c.stepPart c.step
  let last := if c.op = 1 then c.m - 2 else c.steps - 1
  let got := if x.1 then c.add c.rx (c.own x.2) else c.rx
  let whole := !x.1 || c.step = last
  let fin := if x.1 && whole then c.narrow got else got
  let s := if whole then s.collWrite c x.2 fin else s
  let c := { c with step := c.step + 1, rx := [], cur := if whole then fin else got }
  let s := s.updColl c.p c.r c.seq (fun _ => c)
  let s := if c.sends c.step then s.collSend c c.next c.pn c.mn (1 + (if c.op = 4 then c.rank else c.step)) c.cur else s
  if c.steps ≤ c.step then s.collDone c else s

/-- Steps that bring no bytes pass at once (R319, empty parts). -/
def State.collRun (s : State) (p r : Nat) (seq : W32) : Nat → State
  | 0 => s
  | n + 1 =>
    match s.coll p r seq with
    | none => s
    | some c => if c.st = 2 ∧ c.step < c.steps ∧ c.stepLen c.step ≤ c.rx.length then (s.collStep c).collRun p r seq n else s

/-- An instance ends here for a cause it learned from a neighbour or a lost convoy (R321; 21 R460): 0x20 leaves the output untouched,
another status leaves it indeterminate; ABORT goes to the neighbours of `tell` (device, port, message). -/
def State.collStop (s : State) (c : Coll) (st : Nat) (tell : List (Nat × Nat × Nat)) : State :=
  let s := tell.foldl (fun s x => s.cvAbort x.1 x.2.1 x.2.2 st) (s.collTake c)
  let s := match s.item c.p c.r c.seq with
    | none => s
    | some i =>
      if st = 0x20 then
        ((i.undo.reverse.foldl State.revertOne s).updItem c.p c.r c.seq (fun i => { i with stat := 0x20, undo := [] })).finish c.p c.r c.seq
      else ((s.updItem c.p c.r c.seq (fun i => { i.settle st with undo := [] })).indeterminate i.undo).finish c.p c.r c.seq
  s.collNext c.p c.h

/-- The neighbour that is not device d, to whom an ABORT goes on. -/
def Coll.others (c : Coll) (d : Nat) : List (Nat × Nat × Nat) :=
  if c.st = 0 then []
  else if c.next = c.prev then (if c.next = d then [] else [(c.next, c.pn, c.mn)])
  else (if c.next = d then [] else [(c.next, c.pn, c.mn)]) ++ (if c.prev = d then [] else [(c.prev, c.pp, c.mp)])

/-- Both neighbours agree: data move (R317, R318). A member's own part of an ALLGATHER and rank 0's BROADCAST are written at once. One whose
input could not be read ends here. -/
def State.collStart (s : State) (c : Coll) : State :=
  let failed := ((s.item c.p c.r c.seq).map (fun i => i.stat)).getD 0
  if failed ≠ 0 then s.collStop c failed [(c.next, c.pn, c.mn), (c.prev, c.pp, c.mp)].eraseDups
  else
  let c := { c with st := 2, cur := c.first }
  let s := s.updColl c.p c.r c.seq (fun _ => c)
  let s := if c.op = 2 then s.collWrite c c.rank c.inp else if c.op = 4 ∧ c.rank = 0 then s.collWrite c 0 c.inp else s
  let s := if c.op = 4 ∧ c.rank ≠ 0 then s else s.collSend c c.next c.pn c.mn 1 c.cur
  if c.steps = 0 then s.collDone c else s.collRun c.p c.r c.seq (2 * c.m)

/-- A mismatch ends the instance at every member as REJECTED_FORMAT, outputs untouched (R317): ABORT carries it round the ring. -/
def State.collReject (s : State) (c : Coll) : State :=
  match s.item c.p c.r c.seq with
  | none => s.collAbort c 0x20
  | some i =>
    let s := (i.undo.reverse.foldl State.revertOne s).updItem c.p c.r c.seq (fun i => { i with stat := 0x20, undo := [] })
    (s.collAbort c 0x20).finish c.p c.r c.seq

/-- Whether the running instance of its handle can take a held packet now: the exchange of a neighbour that has not made it, or data of
this instance from PREV. -/
def Coll.takes (c : Coll) (e : CvEarly) : Bool :=
  e.p = c.p && e.h = c.h && c.st ≠ 0 &&
    (if e.step = 0 then (e.src = c.next && !c.okN) || (e.src = c.prev && !c.okP) else c.st = 2 && e.inst = c.inst && e.src = c.prev)

/-- A COLL packet that the running instance takes. -/
def State.collPacket (s : State) (c : Coll) (e : CvEarly) : State :=
  if e.gone then s.collStop c 0x14 (c.others e.src)
  else if e.step = 0 then
    if e.inst ≠ c.inst ∨ e.data ≠ c.hello then s.collReject c
    else
      let c := { c with
        okN := c.okN || e.src = c.next, okP := c.okP || e.src = c.prev,
        rn := if e.src = c.next then some e.msg else c.rn, rp := if e.src = c.prev then some e.msg else c.rp }
      let s := s.updColl c.p c.r c.seq (fun _ => c)
      if c.okN ∧ c.okP then s.collStart c else s
  else (s.updColl c.p c.r c.seq (fun c => { c with rx := c.rx ++ e.data })).collRun c.p c.r c.seq (2 * c.m)

/-- Take the held packets that the running instance of a handle can take, oldest first; one that waits for host memory takes none. -/
def State.collDrain (s : State) (p h : Nat) : Nat → State
  | 0 => s
  | n + 1 =>
    match s.cv.coll.find? (fun c => c.p = p && c.h = h && c.st ≠ 0 && s.collLive c) with
    | none => s
    | some c =>
      match s.cv.early.find? c.takes with
      | none => s
      | some e =>
        let s := { s with cv := { s.cv with early := s.cv.early.erase e } }
        (s.collPacket c e).collDrain p h n

/-- A COLL packet arrives for pitch p: it is held until an instance of its handle takes it; data of an instance that has ended are
dropped (R317). -/
def State.collArrive (s : State) (e : CvEarly) : State :=
  let ended := e.step ≠ 0 && e.inst.toNat ≤ (Tab.get (0 : W32) s.cv.inst (64 * e.p + e.h)).toNat &&
    !s.cv.coll.any (fun c => c.p = e.p && c.h = e.h && c.inst = e.inst)
  if ended then s
  else
    let s := { s with cv := { s.cv with early := s.cv.early ++ [e] } }
    s.collDrain e.p e.h (s.cv.early.length + 1)

end Sys2Proof.Machine
end

