-- ==== Sys2Proof/Machine/Tallies.lean ====
section
/-!
DEFINITION. Tallies (09): the tally instructions, the operations as they take effect at their tally unit, watches and how their
results reach their owners (R191 to R210).
-/
namespace Sys2Proof.Machine

def State.tallyVal (s : State) (id : Nat) : W32 := Tab.get 0 s.tally.val id

def State.setTallyVal (s : State) (id : Nat) (v : W32) : State :=
  { s with tally := { s.tally with val := Tab.set s.tally.val id v } }

/-- The conditions of R196. -/
def tallyCond (c : Nat) (v x : W32) : Bool :=
  match c with
  | 0 => v == x
  | 1 => v != x
  | 2 => !v.ult x
  | 3 => v.ult x
  | 4 => decide ((v - x).toNat < 2 ^ 31)
  | _ => decide (2 ^ 31 ≤ (v - x).toNat)

/-- EADDR of a tally's DATA and UNMAPPED (R206). -/
def tallyEaddr (id : Nat) : Word := BitVec.ofNat 64 (0x8000000000000000 + id)

/-- Why an operation or watch cannot take effect: the hall has no rails (R208), or is cut off from its issuer (R209). -/
def State.tallyLost (s : State) (from_ : Option Nat) (id : Nat) : Option Nat :=
  let h := id / 65536
  if !(s.hall h).rails then some 0x16
  else if (s.hall h).cutoff ∧ from_ ≠ some h then some 0x11
  else none

/-- The hall an owner issues from; descriptors and remote senders reach the unit from the gatehouse. -/
def ownerHall : TOwner → Option Nat
  | .thread n _ => some (hallOf n)
  | .porter n _ _ => some (hallOf n)
  | .parked n _ => some (hallOf n)
  | _ => none

/-! ## Results -/

/-- A posted signal of a thread has taken effect or failed; a failure is due at the next pair (R198, R205, R206). -/
def State.sigDone (s : State) (n k : Nat) (fail : Option (Nat × Word)) : State :=
  s.updThread n k (fun t => { t with tsig := t.tsig - 1, due := t.due <|> fail })

/-- A remote watch leaves the convoy it came on. -/
def State.rxWatchDone (s : State) (peer port msg : Nat) : State :=
  s.updConv peer port (fun c => { c with rx := c.rx.filter (fun x => !(x.watch && x.msg = msg)) })

/-- The result of an operation of `op` kind reaches its owner. -/
def State.tallyGive (s : State) (o : TOwner) (op : Nat) (v : W32) : State :=
  match o with
  | .thread n k =>
    if op = 2 then s.sigDone n k none
    else if (s.thread n k).st = .tally then s.updThread n k (fun t => { t with resp := some (.val v) }) else s
  | .desc p r seq => (s.updItem p r seq (fun i => { i with result := if op = 2 then 0 else v.toNat })).finish p r seq
  | .porter .. => s
  | .parked .. => s
  | .remote peer port msg => if op = 2 then s else (s.rxWatchDone peer port msg).cvReply peer port { kind := 6, msg := msg, data := statusPayload 0 v }

/-- A failed operation: `st` is 0x10 poisoned, 0x11 cut off, 0x16 tripped (R206, R208, R209). -/
def State.tallyFail (s : State) (o : TOwner) (op id st : Nat) : State :=
  let cause := if st = 0x10 then cDATA else cUNMAPPED
  match o with
  | .thread n k =>
    if op = 2 then s.sigDone n k (some (cause, tallyEaddr id))
    else if (s.thread n k).st = .tally then s.updThread n k (fun t => { t with resp := some (.fail cause (tallyEaddr id)) }) else s
  | .desc p r seq => (s.updItem p r seq (fun i => i.settle st)).finish p r seq
  | .porter n _ k => s.updThread n k (fun t => { t with due := t.due <|> some (cause, tallyEaddr id) })
  | .parked .. => s
  | .remote peer port msg => (s.rxWatchDone peer port msg).cvReply peer port { kind := 8, msg := msg, data := statusPayload st 0 }

/-- Every watch on a tally fails (R206, R208, R209), those of `keep` apart. -/
def State.failWatches (s : State) (id st : Nat) (keep : TOwner → Bool) : State :=
  let l := s.tally.watches.filter (fun w => w.id = id && !keep w.owner)
  let s := { s with tally := { s.tally with watches := s.tally.watches.filter (fun w => !(w.id = id && !keep w.owner)) } }
  l.foldl (fun s w => s.tallyFail w.owner 3 w.id st) s

/-- A tally has become poisoned (R206). -/
def State.poisonTally (s : State) (id : Nat) : State :=
  { s with tally := { s.tally with pois := NSet.add s.tally.pois id } }.failWatches id 0x10 (fun _ => false)

/-- Evaluate a tally's watches against its new value, in order of registration; a satisfied one is freed (R201). -/
def State.wake (s : State) (id : Nat) (v : W32) : State :=
  let hit := fun (w : Watch) => w.id = id && tallyCond w.cond v w.x
  let l := s.tally.watches.filter hit
  let s := { s with tally := { s.tally with watches := s.tally.watches.filter (fun w => !hit w) } }
  l.foldl (fun s w => s.tallyGive w.owner 3 v) s

/-- TALLYOPS of hall h counts an operation that took effect (R431). -/
def State.countTally (s : State) (h : Nat) : State :=
  let c := Tab.get (0 : BitVec 48) s.tally.ops h
  let s := { s with tally := { s.tally with ops := Tab.set s.tally.ops h (c + 1) } }
  if wraps48 c 1 then s.globalOvf h else s

/-- Remote watches of a hall (R202). -/
def State.remoteWatches (s : State) (h : Nat) : Nat :=
  (s.tally.watches.filter (fun w => w.id / 65536 = h && (match w.owner with | .remote .. => true | _ => false))).length

/-- A thread of a stall that is being preempted does not begin to wait (R143, R198). -/
def State.waitStops (s : State) : TOwner → Bool
  | .thread n _ => (s.stall n).stopping
  | _ => false

/-- A wait is withdrawn by a preemption: the pair will be executed again in full (R143, R203). -/
def State.withdrawWait (s : State) : TOwner → State
  | .thread n k =>
    if (s.thread n k).st = .tally then (s.updThread n k (fun t => { t with st := .run, half := false, waited := true })).atStop n k
    else s
  | _ => s

/-- An operation takes effect at its tally unit: the value, TALLYOPS, the watches, the result (R194, R195, R201, R206). A dead one
gives its result to nobody (R207). -/
def State.tallyApply (s : State) (o : TOp) : State :=
  let give := fun (s : State) v => if o.dead then s else s.tallyGive o.owner o.op v
  let fail := fun (s : State) st => if o.dead then s else s.tallyFail o.owner o.op o.id st
  match s.tallyLost (ownerHall o.owner) o.id with
  | some st => fail s st
  | none =>
    let pois := NSet.has s.tally.pois o.id
    let v := s.tallyVal o.id
    if pois ∧ o.op ≠ 1 then fail s 0x10
    else if o.op = 3 then
      let s := s.countTally (o.id / 65536)
      if tallyCond o.cond v o.x then give s v
      else if o.dead then s
      else if s.waitStops o.owner then s.withdrawWait o.owner
      else { s with tally := { s.tally with watches := s.tally.watches ++ [{ id := o.id, cond := o.cond, x := o.x, owner := o.owner }] } }
    else
      let v' := if o.op = 1 then o.x else v + o.x
      let s := (s.setTallyVal o.id v').countTally (o.id / 65536)
      let s := { s with tally := { s.tally with pois := NSet.del s.tally.pois o.id } }
      (give s (if pois then 0 else v)).wake o.id v'

/-- The first operation on its way of an owner and a kind, with no older one of the owner on the same tally (R199). -/
def firstOp (l : List TOp) (o : TOwner) (op : Nat) : Option TOp :=
  match l with
  | [] => none
  | a :: t =>
    if a.owner = o ∧ a.op = op then some a
    else match firstOp t o op with
      | some b => if a.owner = o ∧ a.id = b.id then none else some b
      | none => none

def removeOp (l : List TOp) (a : TOp) : List TOp :=
  match l with
  | [] => []
  | b :: t => if b = a then t else b :: removeOp t a

/-- An operation of kind `op` and owner `o` reaches its tally unit. -/
def State.tallyArrive (s : State) (o : TOwner) (op : Nat) : State :=
  match firstOp s.tally.flight o op with
  | none => s
  | some a => { s with tally := { s.tally with flight := removeOp s.tally.flight a } }.tallyApply a

/-! ## Instructions (R197, R198) -/

/-- An operation leaves for its tally unit. -/
def State.tallySend (s : State) (o : TOp) : State := { s with tally := { s.tally with flight := s.tally.flight ++ [o] } }

/-- The pitch whose range holds a tally. -/
def State.tallyPitch (s : State) (id : Nat) : Option Nat :=
  allPitches.find? (fun p => s.pt.active.enabled p && s.pt.active.ownsTally p id)

/-- Whether the partition fence lets stall n act on a tally (R95). -/
def State.tallyFenced (s : State) (n id : Nat) : Bool :=
  match s.pitchOf n with
  | some p => !(s.applied n).ownsTally p id
  | none => true

/-- A fenced tally operation in FENCESRC; every one but WAIT_UNTIL shows as a write (DESIGN CHOICE, log entry 104). -/
def State.tallyFence (s : State) (n k op id : Nat) : State :=
  s.fenceLog n 2 k (op ≠ 3) (BitVec.ofNat 64 id) (s.tallyPitch id)

/-- A tally instruction (R197, R198, R205, R95): the operation is issued; TAKE, SET and WAIT_UNTIL hold the thread, SIGNAL is posted
with at most 8 outstanding. -/
def State.tallyInstr (s : State) (n k : Nat) (rd ra rb : BitVec 5) (fn : BitVec 10) (op : Nat) : State :=
  s.scalar n k (fun t =>
    let a := t.gr ra.toNat
    let x : W32 := (t.gr rb.toNat).setWidth 32
    let id := fld a 0 18
    let dev := fld a 32 16
    let o : TOp := { op := op, id := id, x := x, cond := fn.toNat, owner := .thread n k }
    let remote := bit a 63 && !(s.cvValid && dev = s.cvDev)
    let held : Thread := { t with st := .tally, rd := rd.toNat, resp := none, npc := t.pc + 16 }
    if fld a 18 14 ≠ 0 ∨ fld a 48 15 ≠ 0 ∨ (if op = 3 then 6 ≤ fn.toNat else fn ≠ 0) ∨ (op = 2 ∧ rd ≠ 0) then
      s.scalarExc n k cILLEGAL 0
    else if op = 2 ∧ 8 ≤ t.tsig then s
    else if remote then
      let p := (s.pitchOf n).getD 0
      if bitsOf s.fw.disable 2 1 = 1 ∨ (s.pitchOf n).isNone ∨ !s.cvAllowed p dev then
        if op = 2 then s.scalarDone n k { t with due := t.due <|> some (cUNMAPPED, a) } (t.pc + 16)
        else s.scalarExc n k cUNMAPPED a
      else
        let s := s.cvTally p dev (.thread n k) id op (if op = 3 then fn.toNat else 0) x a
        if op = 2 then s.scalarDone n k { t with tsig := t.tsig + 1 } (t.pc + 16) else s.setThread n k held
    else if s.tallyFenced n id then
      let s := s.tallyFence n k op id
      if op = 2 then s.scalarDone n k t (t.pc + 16) else s.setThread n k { held with resp := some (.val 0) }
    else if op = 2 then (s.tallySend o).scalarDone n k { t with tsig := t.tsig + 1 } (t.pc + 16)
    else (s.tallySend o).setThread n k held)

/-- TTAKE (R197). -/
def execTtake (s k : Nat) (rd ra rb : BitVec 5) (fn : BitVec 10) (st : State) : Ans :=
  run (inStall s && inThread k) (st.tallyInstr s k rd ra rb fn 0)

/-- TSETV (R197). -/
def execTsetv (s k : Nat) (rd ra rb : BitVec 5) (fn : BitVec 10) (st : State) : Ans :=
  run (inStall s && inThread k) (st.tallyInstr s k rd ra rb fn 1)

/-- TSIG (R198). -/
def execTsig (s k : Nat) (rd ra rb : BitVec 5) (fn : BitVec 10) (st : State) : Ans :=
  run (inStall s && inThread k) (st.tallyInstr s k rd ra rb fn 2)

/-- TWAIT (R197). -/
def execTwait (s k : Nat) (rd ra rb : BitVec 5) (fn : BitVec 10) (st : State) : Ans :=
  run (inStall s && inThread k) (st.tallyInstr s k rd ra rb fn 3)

/-- A result returns to its waiting thread, which becomes ready: RD takes it, zero-extended, or its exception is raised (R125,
R197, R205, R206). -/
def State.respond (s : State) (n k : Nat) : State :=
  let t := s.thread n k
  if t.st = .tally then
    match t.resp with
    | some (.val v) => s.setThread n k { (t.setG t.rd (v.setWidth 64)) with st := .run, half := true, resp := none }
    | some (.fail c a) => s.scalarExc n k c a
    | none => s
  else s

/-- READ_RESPONSE (R125). -/
def execReadResponse (s k : Nat) (st : State) : Ans := run (inStall s && inThread k) (st.respond s k)

/-! ## The operations at the tally unit (R194, R195, R201) -/

/-- TAKE (R194). -/
def execTakeTally (o : TOwner) (st : State) : Ans := run (inOwner o) (st.tallyArrive o 0)

/-- SET (R194). -/
def execSetTally (o : TOwner) (st : State) : Ans := run (inOwner o) (st.tallyArrive o 1)

/-- SIGNAL (R194). -/
def execSignalTally (o : TOwner) (st : State) : Ans := run (inOwner o) (st.tallyArrive o 2)

/-- WAIT_UNTIL (R201). -/
def execWaitUntil (o : TOwner) (st : State) : Ans := run (inOwner o) (st.tallyArrive o 3)

end Sys2Proof.Machine
end

