-- ==== Sys2Proof/Machine/Ends.lean ====
section
/-!
DEFINITION. An event ends an item before it ends by itself (03 R73, R76; 21 R451, R452, R460, R461): what it leaves of its destination,
and what its Caravan operation or Jisan request leaves.
-/
namespace Sys2Proof.Machine

/-! ## Jisan requests -/

def State.jis1 (s : State) (p : Nat) : JPitch := Tab.get {} s.jis p

def State.updJis (s : State) (p : Nat) (f : JPitch → JPitch) : State := { s with jis := Tab.set s.jis p (f (s.jis1 p)) }

def JReq.is (q : JReq) (r : Nat) (seq : W32) : Bool := q.r = r && q.seq = seq

def JPitch.req (j : JPitch) (r : Nat) (seq : W32) : Option JReq := j.reqs.find? (fun q => q.is r seq)

def JPitch.slotOf (j : JPitch) (k : Nat) : JSlot := Tab.get {} j.slot k

/-- FLAGS of a parameter block: STREAM and CONTINUE (R287). -/
def JReq.stream (q : JReq) : Bool := bitsOf (leAt q.par 12 4) 0 1 = 1
def JReq.continue_ (q : JReq) : Bool := bitsOf (leAt q.par 12 4) 1 1 = 1
def JReq.every (q : JReq) : Nat := max (leAt q.par 26 2) 1

/-- A progress word or other write of a service to host or device memory of pitch p: held while Bus Master Enable is 0 (R83). -/
def State.serviceWrite (s : State) (p kind a : Nat) (b : List Byte) : State :=
  if kind = 1 ∧ !s.bme (s.fnOf p) then
    { s with rings := { s.rings with held := s.rings.held ++ [{ fn := s.fnOf p, item := none, addr := a, data := b, vec := none }] } }
  else (pieces 64 (b.length / 64 + 2) a b).foldl (fun s x => (s.granWrite p kind x.1 x.2).s) s

/-- The progress word (R296). -/
def State.progress (s : State) (p : Nat) (q : JReq) (final : Bool) : State :=
  if q.stream then s.serviceWrite p q.strm.1 q.strm.2 (toLE 8 (q.out.length + 2 ^ 32 * ofBool final)) else s

/-- A request leaves its pitch: its KV blocks are free again. -/
def State.jDrop (s : State) (p r : Nat) (seq : W32) : State :=
  s.updJis p (fun j => { j with reqs := j.reqs.filter (fun q => !q.is r seq) })

/-- What ends with a Jisan request: the last progress word of an admitted one, unless Jisan no longer runs it (failover, pitch reset),
RESULT from the tokens written (R296). -/
def State.jEnd (s : State) (p r : Nat) (seq : W32) (st reason : Nat) : State :=
  match (s.jis1 p).req r seq with
  | none => s
  | some q =>
    let s := if q.st ≠ 0 ∧ st ≠ 0x12 ∧ st ≠ 0x13 then s.progress p q true else s
    (s.updItem p r seq (fun i => { i with result := i.done / 4 + reason * 2 ^ 32 })).jDrop p r seq

/-! ## Caravan operations of an item -/

/-- The operations of a descriptor leave their convoys: a remote write and a wait send ABORT with the status (R316; 21 R461), the
others still take effect (R195). -/
def State.cvOpsEnd (s : State) (p r : Nat) (seq : W32) (st : Nat) : State :=
  s.cv.conv.foldl (fun s e =>
    (e.2.ops.filter (fun o => o.owner = TOwner.desc p r seq)).foldl (fun s o =>
      if o.op = 0 ∨ o.op = 4 then
        let s := s.updConv (e.1 / 8) (e.1 % 8) (fun c => { c with ops := c.ops.filter (fun x => x ≠ o) })
        if o.abort.isSome then s else s.cvAbort (e.1 / 8) (e.1 % 8) o.msg st
      else s) s) s

/-- A collective instance of the item is dropped (R460). -/
def State.collEnd (s : State) (p r : Nat) (seq : W32) (st : Nat) : State :=
  match s.coll p r seq with
  | none => s
  | some c => let s := s.collAbort c st; s.collDrain p c.h (s.cv.early.length + 1)

/-- A landing report enters the ring of its pitch and raises its event vector (R323). -/
def State.landReport (s : State) (p : Nat) (l : Landing) : State :=
  let g : LandSt := Tab.get {} s.cv.land p
  let overrun := (Tab.find g.rep g.next).isSome && !NSet.has g.read g.next
  let l : Landing := { l with time := s.time }
  let g' : LandSt := {
    rep := Tab.set g.rep g.next l, next := (g.next + 1) % 16,
    overrun := if overrun then stick g.overrun 0xFFFF else g.overrun, read := NSet.del g.read g.next }
  { s with cv := { s.cv with land := Tab.set s.cv.land p g' } }.raiseEvent p

/-- An incoming operation ends here (R321, R323): a write with a landing report, a watch withdrawn. -/
def State.rxEnd (s : State) (peer port : Nat) (x : CvRx) (st : Nat) : State :=
  let s := s.updConv peer port (fun c => { c with rx := c.rx.filter (fun y => y ≠ x) })
  if x.watch then
    { s with tally := { s.tally with watches := s.tally.watches.filter (fun w => w.owner ≠ TOwner.remote peer port x.msg) } }
  else s.landReport x.tp { time := 0, src := peer, sp := x.sp, status := st, addr := x.addr, len := x.len }

/-- REFUSE with a status for a message of the peer (R310; 21 R461). -/
def State.cvRefuse (s : State) (peer port msg st : Nat) : State := s.cvReply peer port { kind := 8, msg := msg, data := statusPayload st 0 }

/-! ## Destinations -/

def Item.bufAt (i : Item) (off : Nat) : Nat :=
  match i.bufs.find? (fun b => b.idx = i.f off 2) with
  | some b => b.base
  | none => 0

/-- First address and bytes of the destination of a PORTER_COPY or NEAR_BATCH. -/
def Item.dest (i : Item) : Nat × Nat :=
  if i.type = 2 then (i.bufAt 18 + i.f 32 8, i.f 40 5)
  else
    let op := bitsOf (i.f 16 8) 0 4
    if op = 3 then (i.bufAt 56 + i.f 58 6, bitsOf (i.f 48 8) 0 12)
    else if op = 4 then (0, 0) else (i.f 24 8, i.f 32 5)

/-- What a failed item leaves (R42, R73): a prefix that a free value chooses is complete, each later granule as a free value says. -/
def State.settleDest (s : State) (p r : Nat) (seq : W32) : State :=
  match s.item p r seq with
  | none => s
  | some i =>
    if i.type = 2 ∨ i.type = 3 then
      let d := s.freeBelow (i.lim + 1)
      (s.used.indeterminate (i.undo.drop d)).updItem p r seq (fun i => { i with
        undo := [], done := if d = 0 then 0 else min i.dest.2 (d * 64 - i.dest.1 % 64) })
    else (s.indeterminate i.undo).updItem p r seq (fun i => { i with undo := [] })

/-- Every thread of `mask` on stall n has executed KEND. -/
def State.allKended (s : State) (mask n : Nat) : Bool :=
  threads4.all (fun k => bitsOf mask k 1 = 0 || ((s.thread n k).st = .off && (s.thread n k).kended))

/-- A KERNEL whose every started thread has executed KEND: it has ended by itself (R58; 21 R451). -/
def State.kernelOver (s : State) (i : Item) : Bool :=
  i.type = 1 && i.start.isSome && i.stat = 0 && i.stalls ≠ [] && i.stalls.all (s.allKended (i.f 25 1))

/-- The stalls of an ended kernel reach their work-item boundary. -/
def State.freeStalls (s : State) (i : Item) : State :=
  (i.stalls.filter (fun n => (s.stall n).work = some (.item i.p i.r i.seq))).foldl State.boundary s

/-- An event ends an item, unless it has ended by itself or failed before, whose status it keeps (21 R451, R452): stalls stopped,
destination indeterminate, record, in which the RESULT of a NEAR_BATCH is 0 (R60). `reason` is Jisan's stop reason. -/
def State.endItemAs (s : State) (p r : Nat) (seq : W32) (st reason : Nat) : State :=
  match s.item p r seq with
  | none => s
  | some i0 =>
    let i := i0.settle st
    if s.kernelOver i0 then (s.freeStalls i0).finish p r seq
    else
    let s := (s.updItem p r seq (fun i => { i.settle st with result := if i.type = 3 then 0 else i.result })).haltWork (.item p r seq)
    let s := ((s.cvOpsEnd p r seq i.stat).collEnd p r seq i.stat).jEnd p r seq i.stat reason
    (s.settleDest p r seq).finish p r seq

def State.endItem (s : State) (p r : Nat) (seq : W32) (st : Nat) : State := s.endItemAs p r seq st 0

/-- A wait of the item at another device that is still to end. -/
def State.remoteWait (s : State) (p r : Nat) (seq : W32) : Bool :=
  s.cv.conv.any (fun e => e.2.ops.any (fun o => o.owner = TOwner.desc p r seq && o.op = 4 && !o.dead))

/-- ABORT or TIMEOUT ends an item; a remote wait is withdrawn by an ABORT packet, and a value that satisfied it before that came wins
(R76, R77; 09 R203; 14 R316). -/
def State.endItemSoft (s : State) (p r : Nat) (seq : W32) (st : Nat) : State :=
  if s.remoteWait p r seq then s.waitsWithdraw (fun o => o = TOwner.desc p r seq) st else s.endItem p r seq st

/-- Every item a predicate names ends, in fetch order. -/
def State.endItems (s : State) (f : Item → Bool) (st : Nat) : State :=
  (s.rings.items.filter f).foldl (fun s i => s.endItem i.p i.r i.seq st) s

end Sys2Proof.Machine
end

