-- ==== Sys2Proof/Machine/Window.lean ====
section
/-!
DEFINITION. The slots of the near-bank command window (02 R33 to R44).
-/
namespace Sys2Proof.Machine

/-- Window mode (R33). -/
def State.windowMode (s : State) (p : Nat) : Bool := s.pt.active.enabled p && s.pt.active.window p

/-- A requester reaches the region or the doorbell page of pitch p: the host under SLD, logical device p under MLD (R17, R30, R32). -/
def State.reqPitch (s : State) (q : Req) (p : Nat) : Bool := s.isReq q && reqIsHost q && reqOwns q p

def Slot.bytes (d : Slot) : List Byte := Mem.rdBytes d.data 0 2048

def State.winErr (s : State) (p : Nat) : State := s.updPring p (fun r => { r with winErr := r.winErr + 1 })

/-- An operation that its checks end: the status, and nothing else changes (R35). -/
def State.slotEnd (s : State) (p n st : Nat) : State :=
  s.updSlot p n (fun d => { d with busy := false, status := st, cecnt := 0 })

/-- A write to WCMD that includes its low half: the latch, SEQ, the checks of R35, then the effects, which WINDOW_OP_END makes
known (R35, R36). -/
def State.wcmd (s : State) (p n : Nat) (v : Word) (wide : Bool) : State :=
  let d := s.slot p n
  if !s.windowMode p then s
  else if d.busy ∨ (s.pctl p).quiesce then s.winErr p
  else
    let hi := if wide then (v >>> 32).setWidth 32 else d.cmdHi
    let cmd : Word := BitVec.ofNat 64 (fld v 0 32 + 2 ^ 32 * hi.toNat)
    let w : Near := { cmd := cmd, target := d.target, len := d.len, value := d.value, table := d.table }
    let s := s.updSlot p n (fun d => { d with
      cmdHi := hi, seq := d.seq + 1, busy := true, lcmd := cmd, ltarget := d.target, llen := d.len, lvalue := d.value, ltable := d.table,
      pstat := 0, pcount := 0, pce := 0, undo := [], odata := d.data })
    if !w.fmtOk then s.slotEnd p n 0x20
    else if !w.alignOk then s.slotEnd p n 0x20
    else if w.length = 0 then s.slotEnd p n 0
    else
      match s.nearCheck p w d.bytes with
      | some st => s.slotEnd p n st
      | none =>
        let r := s.nearRun p p w d.bytes
        r.s.updSlot p n (fun d => { d with
          pstat := if r.fail.isSome then 0x10 else 0, pcount := BitVec.ofNat 64 r.count, undo := r.undo,
          odata := if w.op = 3 then r.sums.zipIdx.foldl (fun m g => match g.1 with | some b => Mem.wrBytes m (64 * g.2) b | none => m) d.data
            else d.data })

/-- The command word with an OP. -/
def withOp (v : Word) (op : Nat) : Word := BitVec.ofNat 64 (v.toNat / 16 * 16 + op)

/-- FILL. -/
def execFillOp (q : Req) (p n : Nat) (v : Word) (wide : Bool) (st : State) : Ans :=
  run (inReq q && inPitch p && inRing n) (if st.reqPitch q p then st.wcmd p n (withOp v 1) wide else st)

/-- ADD_REDUCE. -/
def execAddReduce (q : Req) (p n : Nat) (v : Word) (wide : Bool) (st : State) : Ans :=
  run (inReq q && inPitch p && inRing n) (if st.reqPitch q p then st.wcmd p n (withOp v 2) wide else st)

/-- GATHER_SUM. -/
def execGatherSum (q : Req) (p n : Nat) (v : Word) (wide : Bool) (st : State) : Ans :=
  run (inReq q && inPitch p && inRing n) (if st.reqPitch q p then st.wcmd p n (withOp v 3) wide else st)

/-- COMPARE_COUNT. -/
def execCompareCount (q : Req) (p n : Nat) (v : Word) (wide : Bool) (st : State) : Ans :=
  run (inReq q && inPitch p && inRing n) (if st.reqPitch q p then st.wcmd p n (withOp v 4) wide else st)

/-- WDATA of a GATHER_SUM that failed: each granule before or after, as a free value says (R42). -/
def State.mixData (s : State) (old new : Mem) : Nat → Mem
  | 0 => []
  | g + 1 =>
    let src := if Config.free (s.freeCtr + g) % 2 = 1 then old else new
    Mem.wrBytes (s.mixData old new g) (64 * g) (Mem.rdBytes src (64 * g) 64)

/-- A window operation ends with a status; an early or failing end leaves its destination indeterminate (R42). -/
def State.slotFinish (s : State) (p n st ce : Nat) : State :=
  let d := s.slot p n
  if !d.busy then s
  else
    let tot := min (d.pce + ce) 0xFFFF
    let st := if st = 0 then (if d.pstat ≠ 0 then d.pstat else if tot ≠ 0 then 1 else 0) else st
    let good := st ≤ 1
    let gather := fld d.lcmd 0 4 = 3
    let data := if good then d.odata else if gather then s.mixData d.data d.odata 32 else d.data
    let s := if good then s else ({ s with freeCtr := s.freeCtr + 32 }).indeterminate d.undo
    s.updSlot p n (fun d => { d with
      busy := false, status := st, cecnt := tot, data := data, undo := [], odata := [],
      result := if good ∧ fld d.lcmd 0 4 = 4 then d.pcount else d.result })

/-- WINDOW_OP_END (R42). -/
def execWindowOpEnd (p n ce : Nat) (st : State) : Ans := run (inPitch p && inRing n) (st.slotFinish p n 0 ce)

/-- WABORT (R43): ABORT 1 while BUSY ends the operation as ABORTED_BY_HOST. -/
def execWabort (q : Req) (p n : Nat) (v : W32) (st : State) : Ans :=
  run (inReq q && inPitch p && inRing n) (if st.reqPitch q p ∧ st.windowMode p ∧ bit32 v 0 then st.slotFinish p n 0x30 0 else st)

/-- The busy slots that touch a DPA place a predicate names end with a status (R42). -/
def State.slotsEnd (s : State) (st : Nat) (f : Nat → Bool) : State :=
  allPitches.foldl (fun s p => (List.range 64).foldl (fun s n =>
    let d := s.slot p n
    let w : Near := { cmd := d.lcmd, target := d.ltarget, len := d.llen, value := d.lvalue, table := d.ltable }
    let touched := (w.ranges d.bytes).any (fun r => (windowsOf r.1 r.2).any (fun x =>
      match s.placeDpa p (unit256 * x) with
      | .slice m _ => f m
      | _ => false))
    if d.busy ∧ touched then s.slotFinish p n st 0 else s) s) s

end Sys2Proof.Machine
end

