-- ==== Sys2Proof/Machine/Rings.lean ====
section
/-!
DEFINITION. Rings and doorbells (03 R45 to R53, R74 to R76, R78, R79, R83).
-/
namespace Sys2Proof.Machine

def ringCtl (p r : Nat) : Nat := ringBase p r + 0x14

/-- A write of RINGCTL by a requester that reaches pitch p's ring block (22 R466). -/
def State.ringWrite (s : State) (q : Req) (p r : Nat) (f : State → State) : State := s.setupTry q (ringCtl p r) 4 (reqOwns q p) f

/-- An enable refused (R47, R87): CFGERR, and the pitch's event vector (R78). -/
def State.cfgErr (s : State) (p r : Nat) : State := (s.updRing p r (fun g => { g with cfgerr := true })).raiseEvent p

/-- ENABLE from 0 to 1 (R47, R87). -/
def State.enableRing (s : State) (p r : Nat) : State :=
  if (s.ring p r).enable then s
  else if s.ringLog2 p r < 4 ∨ 16 < s.ringLog2 p r ∨ s.sqbase p r = 0 ∨ s.cqbase p r = 0 ∨ s.ringActive p r ∨
      s.pt.active.ringcount p ≤ r ∨ !s.pt.active.enabled p then s.cfgErr p r
  else s.updRing p r (fun g => { g with
    enable := true, cfgerr := false, hosterr := false, phase := true, fetch := 0, dbtail := 0, cqtail := 0, cqhead := 0, seqnext := 0,
    unsig := 0, written := 0 })

/-- RING_ENABLE (R47). -/
def execRingEnable (q : Req) (p r : Nat) (st : State) : Ans :=
  run (inReq q && inPitch p && inRing r) (st.ringWrite q p r (fun s => s.enableRing p r))

/-- RING_DISABLE (R48): fetching stops at once. -/
def execRingDisable (q : Req) (p r : Nat) (st : State) : Ans :=
  run (inReq q && inPitch p && inRing r) (st.ringWrite q p r (fun s => s.updRing p r (fun g => { g with enable := false })))

/-- ABORT (R76): ENABLE clears and every item of the ring in flight ends as ABORTED_BY_HOST. -/
def execRingAbort (q : Req) (p r : Nat) (st : State) : Ans :=
  run (inReq q && inPitch p && inRing r) (st.ringWrite q p r (fun s =>
    (s.ringItems p r).foldl (fun s i => s.endItemSoft i.p i.r i.seq 0x30) (s.updRing p r (fun g => { g with enable := false }))))

/-- A tail doorbell (R51): the index becomes DBTAIL, or the write is ignored and counted in DBERR. -/
def State.tailWrite (s : State) (p r : Nat) (v : W32) : State :=
  if !(s.ring p r).enable ∨ s.ringN p r ≤ fld32 v 0 16 ∨ fld32 v 16 16 ≠ 0 then s.dbErr p
  else (s.updRing p r (fun g => { g with dbtail := fld32 v 0 16 })).updPring p (fun g => { g with dbcount := g.dbcount + 1 })

/-- TAIL_DOORBELL; `stores` are the host's own writes of descriptors and tables before it (R50). -/
def execTailDoorbell (q : Req) (p r : Nat) (v : W32) (stores : List Host.Cell) (st : State) : Ans :=
  let s := stores.foldl (fun s c => s.wrHost c.1 [c.2]) st
  run (inReq q && inPitch p && inRing r) (if st.reqPitch q p then s.tailWrite p r v else s)

/-- A head doorbell (R53). -/
def State.headWrite (s : State) (p r : Nat) (v : W32) : State :=
  let g := s.ring p r
  let n := s.ringN p r
  let i := fld32 v 0 16
  let d := (i + n - g.cqhead) % n
  if n ≤ i ∨ fld32 v 16 16 ≠ 0 ∨ g.written < d then s.dbErr p
  else s.updRing p r (fun g => { g with cqhead := i, written := g.written - d })

/-- HEAD_DOORBELL. -/
def execHeadDoorbell (q : Req) (p r : Nat) (v : W32) (st : State) : Ans :=
  run (inReq q && inPitch p && inRing r) (if st.reqPitch q p then st.headWrite p r v else st)

/-! ## Fetch (R45, R52, R74, R75, R83; 04 R94, R99; 18 R395) -/

/-- Room of the journal for a descriptor of a type (18 R395). -/
def State.journalRoom (s : State) (type : Nat) : Bool :=
  decide ((if type = 1 ∨ type = 6 ∨ type = 7 then 4 else 2) + s.jreserved + s.svc.jr.length ≤ 131072)

/-- The 64 bytes of the entry a ring fetches next, and its address. -/
def State.nextEntry (s : State) (p r : Nat) : Nat := s.sqbase p r + 64 * (s.ring p r).fetch

/-- Bounds of R74 for one more descriptor of ring r of pitch p. -/
def State.fetchRoom (s : State) (p r : Nat) : Bool :=
  decide (s.pinflight p < 4096 ∧ s.dinflight < 32768 ∧ s.inflight p r + (s.ring p r).written < s.ringN p r)

/-- A ring with an entry that may be fetched now. -/
def State.eligible (s : State) (p r : Nat) : Bool :=
  let g := s.ring p r
  g.enable && g.fetch ≠ g.dbtail && s.pt.active.enabled p && !(s.pctl p).quiesce && !(s.pctl p).resetting && s.bme (s.fnOf p) &&
    s.fetchRoom p r

/-- The first index from `start` on, modulo n, that a predicate takes. -/
def roundRobin (n start : Nat) (f : Nat → Bool) : Option Nat := ((List.range n).map (fun i => (start + i) % n)).find? f

/-- The ring whose turn it is (R75). -/
def State.turn (s : State) : Option (Nat × Nat) :=
  match roundRobin 16 s.rings.rrPitch (fun p => (List.range 64).any (fun r => s.eligible p r)) with
  | none => none
  | some p => (roundRobin 64 (Tab.get 0 s.rings.rrRing p) (fun r => s.eligible p r)).map (fun r => (p, r))

/-- The turn passes on. -/
def State.turnDone (s : State) (p r : Nat) : State :=
  { s with rings := { s.rings with rrPitch := (p + 1) % 16, rrRing := Tab.set s.rings.rrRing p ((r + 1) % 64) } }

/-- Fetch one descriptor and journal it (R45, R80). -/
def State.fetchOne (s : State) (p r : Nat) : State :=
  let g := s.ring p r
  let i : Item := { p := p, r := r, seq := g.seqnext, fno := s.rings.nextFno, desc := s.rdHost (s.nextEntry p r) 64 }
  let s := s.updRing p r (fun g => { g with fetch := (g.fetch + 1) % s.ringN p r, seqnext := g.seqnext + 1 })
  { s with rings := { s.rings with items := s.rings.items ++ [i], nextFno := s.rings.nextFno + 1 } }.journal i .fetched

/-- Up to n entries of a ring, as far as the bounds of R74 and the journal leave room. -/
def State.fetchSome (s : State) (p r : Nat) : Nat → State
  | 0 => s
  | n + 1 =>
    if (s.ring p r).fetch ≠ (s.ring p r).dbtail ∧ s.fetchRoom p r ∧ s.journalRoom (leAt (s.rdHost (s.nextEntry p r) 1) 0 1) then
      (s.fetchOne p r).fetchSome p r n
    else s

/-- A submission fetch that fails (R83). -/
def State.fetchFailed (s : State) (p r : Nat) : State :=
  ((s.updRing p r (fun g => { g with enable := false, hosterr := true })).raiseEvent p).turnDone p r

/-- One read of submission entries: at most n, and none past the end of the ring. It covers the entries there is room to fetch (DESIGN
CHOICE, log entry 97); if one of them is poisoned in host memory it fetches none (R83). The state, and whether the read was good. -/
def State.fetchRead (s : State) (p r n : Nat) : State × Bool :=
  let g := s.ring p r
  let t := s.fetchSome p r (min n (s.ringN p r - g.fetch))
  let k := ((t.ring p r).fetch + s.ringN p r - g.fetch) % s.ringN p r
  if (List.range k).any (fun j => NSet.has s.mem.hostPois ((s.nextEntry p r + 64 * j) / 64)) then (s, false) else (t, true)

/-- A turn: up to 8 entries, in a second read those past the end of the ring; `fail` says that the host fails the second one (R75, R83). -/
def State.fetchTurn (s : State) (p r : Nat) (fail : Bool) : State :=
  let n := min 8 (s.ringN p r - (s.ring p r).fetch)
  let x := s.fetchRead p r n
  let y := x.1.fetchRead p r (8 - n)
  if !x.2 then s.fetchFailed p r
  else if n = 8 ∨ (x.1.ring p r).fetch ≠ 0 then x.1.turnDone p r
  else if !y.2 ∨ (fail ∧ (y.1.ring p r).fetch ≠ 0) then x.1.fetchFailed p r
  else y.1.turnDone p r

/-- DESCRIPTOR_FETCH: a turn of the round robin takes up to 8 entries (R75). -/
def execDescriptorFetch (p r : Nat) (st : State) : Ans :=
  run (inPitch p && inRing r) (if st.turn = some (p, r) then st.fetchTurn p r false else st)

/-- SUBMISSION_FETCH_FAILED (R83): the host fails the read at FETCH, or the turn's second read, past the end of the ring. -/
def execSubmissionFetchFailed (p : Nat) (r : FailedRead) (st : State) : Ans :=
  run (inPitch p && inRing r.ring)
    (if st.turn = some (p, r.ring) then (if r.second then st.fetchTurn p r.ring true else st.fetchFailed p r.ring) else st)

/-- MODERATION_TIMER: the oldest record not signalled is MODTIME old (R79). -/
def execModerationTimer (p r : Nat) (st : State) : Ans :=
  run (inPitch p && inRing r) (if (st.ring p r).unsig ≠ 0 then st.fireRing p r else st)

/-! ## Bus Master Enable (R83) -/

/-- A function the device presents: 0 under SLD, 0 to 15 under MLD (02 R17). -/
def State.isFn (s : State) (fn : Nat) : Bool := s.port.mld || fn = 0

/-- A held record or progress word is written. -/
def State.releaseWrite (s : State) (h : Held) : State :=
  match h.item, h.vec with
  | some (i, rt), _ => s.putRecord i rt
  | none, none => s.wrHost h.addr h.data
  | none, some _ => s

/-- A held interrupt is raised: a vector, or what the moderation of a record asks for. -/
def State.releaseRaise (s : State) (h : Held) : State :=
  match h.item, h.vec with
  | some (i, _), _ => s.moderate i
  | none, some v => s.signalVec h.fn v
  | none, none => s

/-- Held writes in the order they fell due, then the held interrupts. -/
def State.release (s : State) (fn : Nat) : State :=
  let l := s.rings.held.filter (fun h => h.fn = fn)
  let s := { s with
    port := { s.port with bmeOff := NSet.del s.port.bmeOff fn },
    rings := { s.rings with held := s.rings.held.filter (fun h => h.fn ≠ fn) } }
  l.foldl State.releaseRaise (l.foldl State.releaseWrite s)

/-- Collectives that waited for host memory go on. -/
def State.collsResume (s : State) : State :=
  s.cv.coll.foldl (fun s c => (s.collNext c.p c.h).collDrain c.p c.h (s.cv.early.length + 1)) s

/-- BUS_MASTER_ENABLE_CLEAR (R83). -/
def execBusMasterEnableClear (fn : Nat) (st : State) : Ans :=
  run (inPitch fn)
    (if st.isFn fn then { st with port := { st.port with bmeOff := NSet.add st.port.bmeOff fn } } else st)

end Sys2Proof.Machine
end

