-- ==== Sys2Proof/Machine/Items.lean ====
section
/-!
DEFINITION. Descriptors: the checks of R64, the start and the end of KERNEL, PORTER_COPY, NEAR_BATCH, TALLY, FENCE and NOP (03).
-/
namespace Sys2Proof.Machine

/-! ## Checks -/

/-- Bytes of the descriptor that must be 0 (R10). -/
def Item.zero (i : Item) (off n : Nat) : Bool := ((i.desc.drop off).take n).all (fun b => b = 0)

/-- Check 1 of R64, with R280, R400 and the features that R428 disables. -/
def State.typeOff (s : State) (t : Nat) : Bool :=
  let d := fun k => bitsOf s.fw.disable k 1 = 1
  match t with
  | 1 => d 0 || !s.pairActive 0
  | 3 => d 3
  | 6 => d 1 || !s.jisanRuns
  | 7 => d 2 || !s.pairActive 0
  | _ => false

/-- Checks 1 and 2 of R64 as far as they do not depend on the body. -/
def State.check12 (s : State) (i : Item) : Option Nat :=
  if i.f 1 1 ≠ 1 ∨ s.typeOff i.type then some 0x23
  else if i.type = 0 ∨ 8 < i.type ∨ 8 ≤ i.f 2 2 ∨ !i.zero 14 2 ∨ i.f 4 4 ≠ i.seq.toNat then some 0x20
  else none

/-- The types allowed on a pitch (R57). -/
def State.typeAllowed (s : State) (p t : Nat) : Bool :=
  if t = 1 ∨ t = 3 ∨ t = 7 then !s.pt.active.jisan p else if t = 6 then s.pt.active.jisan p else true

/-- A descriptor whose turn has come: not started, every earlier one of its ring started and no FENCE among them, and with ORDER all
of them completed (R62, R67). Checks are made when the turn comes (log entry 21). -/
def State.ready (s : State) (p r : Nat) (seq : W32) (type : Nat → Bool) : Option Item :=
  match s.item p r seq with
  | none => none
  | some i =>
    let before := (s.ringItems p r).filter (fun j => j.fno < i.fno)
    if i.start.isNone && i.stat = 0 && type i.type && before.all (fun j => j.start.isSome && j.type ≠ 5) && (!i.order || before = []) then
      some i
    else none

/-- What the checks of a descriptor found: a status with RESULT, or it may start. -/
inductive Chk (α : Type) where
  | stop (st result : Nat)
  | pass (a : α)

/-- Do the checks of a descriptor whose turn has come, once; then go on with what passed. -/
def State.checked {α : Type} (s : State) (i : Item) (c : Chk α) (f : α → State) : State :=
  match c with
  | .stop st res => if st < 0x10 then (s.updItem i.p i.r i.seq (fun i => { i with result := res })).finish i.p i.r i.seq
      else s.reject i.p i.r i.seq st res
  | .pass a => f a

/-- Mark an item started now (R67). -/
def State.startItem (s : State) (i : Item) : State :=
  s.updItem i.p i.r i.seq (fun i => { i with start := some s.time, checked := true })

/-! ## KERNEL (R58; 06 R129) -/

def Item.wfirst (i : Item) : Nat := i.f 24 1
def Item.wcount (i : Item) : Nat := bitsOf (i.f 26 2) 0 9

/-- The checks of a KERNEL; check 5 also asks that the entry pair lies in backed memory (log entry 22). -/
def State.kernelCheck (s : State) (i : Item) : Chk (List Nat) :=
  let ws := (List.range i.wcount).map (fun k => i.wfirst + k)
  let st := (ws.filter (fun w => w < 256)).map (fun w => s.pt.active.stallAt i.p w)
  match s.check12 i with
  | some e => .stop e 0
  | none =>
    if i.f 16 1 % 16 ≠ 0 ∨ i.f 25 1 = 0 ∨ 16 ≤ i.f 25 1 ∨ 512 ≤ i.f 26 2 ∨ !i.zero 28 4 then .stop 0x20 0
    else if !s.typeAllowed i.p 1 ∨ st.any (fun x => x.isNone) then .stop 0x22 0
    else if i.wcount = 0 then .stop 0 0
    else if 256 < i.wfirst + i.wcount ∨ !s.dpaBacked i.p (i.f 16 8) 16 then .stop 0x21 0
    else
      let l := st.filterMap id
      if (l ++ s.dpaStalls i.p (i.f 16 8) 16).any s.stallGone then .stop 0x11 0 else .pass l

/-- The stall-space address of a DPA as stall n sees it: the own slice through its near range (06 R136). -/
def State.codePc (s : State) (ld d n : Nat) : Word :=
  match s.placeDpa ld d with
  | .slice m off => if m = n then BitVec.ofNat 64 off else BitVec.ofNat 64 (0x1000000000 + unit256 * m + off)
  | .far o => BitVec.ofNat 64 (0x2000000000 + o)
  | .none => 0

/-- The state of a stall at a kernel start (R129, R177): the threads of `mask` run at `pc` with g1 to g4 as given. -/
def State.kernelStall (s : State) (n : Nat) (w : Work) (mask : Nat) (pc : Word) (args : List Word) : State :=
  let t : Thread := { st := .run, pc := pc, npc := pc, g := (args.zipIdx.map (fun a => (a.2 + 1, a.1))) }
  (s.selEvent n 1).updStall n (fun st => { st with
    work := some w, gated := false, th := (threads4.filter (fun k => bitsOf mask k 1 = 1)).map (fun k => (k, t)), rows := [], rowPois := [],
    wop := none, port := [], hawkOn := false, arr := { st.arr with loaded := false, img := [], cold := true, on := false } })

/-- A stall may start a work item: idle, and every committed generation applied (R58; 04 R91). -/
def State.stallReady (s : State) (n : Nat) : Bool := (s.stall n).idle && (s.stall n).gen = s.pt.gen

/-- Start a KERNEL on its stalls, with intent and dispatched journaled (R58, R81), or leave it waiting. -/
def State.kernelStart (s : State) (i : Item) (l : List Nat) : State :=
  if l.all s.stallReady then
    let s := (s.startItem i).toStage i.p i.r i.seq .intent
    let args := [32, 40, 48, 56].map (fun o => BitVec.ofNat 64 (i.f o 8))
    let s := l.foldl (fun s n => s.kernelStall n (.item i.p i.r i.seq) (i.f 25 1) (s.codePc i.p (i.f 16 8) n) args) s
    (s.updItem i.p i.r i.seq (fun i => { i with stalls := l })).toStage i.p i.r i.seq .dispatched
  else s.updItem i.p i.r i.seq (fun i => { i with checked := true, stalls := l })

/-- KERNEL. -/
def execKernel (p r : Nat) (seq : W32) (st : State) : Ans :=
  run (inPitch p && inRing r) (match st.ready p r seq (· = 1) with
    | none => st
    | some i =>
      if i.checked then (if st.pairActive 0 then st.kernelStart i i.stalls else st)
      else st.checked i (st.kernelCheck i) (fun l => st.kernelStart i l))

/-- KERNEL_END: every started thread has executed KEND, or an exception went unhandled (R58). -/
def execKernelEnd (p r : Nat) (seq : W32) (ce : Nat) (st : State) : Ans :=
  run (inPitch p && inRing r) (match st.item p r seq with
    | none => st
    | some i =>
      if i.type = 1 ∧ i.start.isSome ∧ (i.stat ≠ 0 ∨ st.kernelOver i) then
        (((st.updItem p r seq (fun i => { i with ce := i.ce + ce })).haltWork (.item p r seq)).freeStalls i).finish p r seq
      else st)

/-! ## PORTER_COPY (R59) -/

/-- The checks of a PORTER_COPY; a pass gives the source and destination buffers. -/
def State.copyCheck (s : State) (i : Item) (rdFail : Bool) : Chk (Buf × Buf) :=
  let n := i.f 40 5
  match s.check12 i with
  | some e => .stop e 0
  | none =>
    if 4 ≤ i.f 20 1 ∨ !i.zero 21 3 ∨ !i.zero 45 3 ∨ !i.zero 52 12 ∨ bitsOf (i.f 48 4) 18 13 ≠ 0 then .stop 0x20 0
    else
      match s.readBufs i.p rdFail [(i.f 16 2, false), (i.f 18 2, true)] with
      | .error e => .stop 0x22 e
      | .ok (a :: b :: _) =>
        let sa := a.base + i.f 24 8
        let da := b.base + i.f 32 8
        if bitsOf (i.f 48 4) 31 1 = 1 ∧ !s.pt.active.ownsTally i.p (bitsOf (i.f 48 4) 0 18) then .stop 0x22 0
        else if a.kind = 1 ∧ b.kind = 1 then .stop 0x20 0
        else if a.kind = 2 ∧ b.kind = 2 ∧ n ≠ 0 ∧ sa < da + n ∧ da < sa + n then .stop 0x20 0
        else if n = 0 then .stop 0 0
        else if !s.bufFits i.p a (i.f 24 8) n ∨ !s.bufFits i.p b (i.f 32 8) n then .stop 0x21 0
        else if (s.bufStalls i.p a (i.f 24 8) n ++ s.bufStalls i.p b (i.f 32 8) n).any s.stallGone then .stop 0x11 0
        else .pass (a, b)
      | .ok _ => .stop 0x22 0

/-- PORTER_COPY: the copy begins (R59); its effects end with PORTER_COPY_END. An item that needs host memory waits for Bus Master
Enable (R83). -/
def execPorterCopy (p r : Nat) (seq : W32) (rdFail : Bool) (st : State) : Ans :=
  run (inPitch p && inRing r) (match st.ready p r seq (· = 2) with
    | none => st
    | some i =>
      if !st.bme (st.fnOf p) then st
      else st.checked i (st.copyCheck i rdFail) (fun b =>
        let s := (st.startItem i).updItem p r seq (fun i => { i with bufs := [b.1, b.2] })
        s.itemCopy p r seq 1 b.1.kind (b.1.base + i.f 24 8) b.2.kind (b.2.base + i.f 32 8) (i.f 40 5) none (i.f 20 1)))

/-- Perform SIGNAL with x = 1 on a tally for a descriptor (09 R194): the state, and the status of a failure (R206, R208, R209). -/
def State.signalNow (s : State) (p r : Nat) (seq : W32) (id : Nat) : State × Nat :=
  match s.tallyLost none id with
  | some e => (s, e)
  | none =>
    if NSet.has s.tally.pois id then (s, 0x10)
    else (s.tallyApply { op := 2, id := id, x := 1, cond := 0, owner := .desc p r seq, dead := true }, 0)

/-- A granule of host memory that the copy failed to read: what was written from it is poisoned (R83, R264). -/
def State.copyHostFail (s : State) (i : Item) (g : Nat) : State :=
  match i.bufs with
  | a :: b :: _ =>
    let sa := a.base + i.f 24 8
    let da := b.base + i.f 32 8
    let lo := max (g / 64 * 64) sa
    let hi := min (g / 64 * 64 + 64) (sa + i.f 40 5)
    if a.kind ≠ 1 ∨ hi ≤ lo then s
    else
      let gs := (wordsOf 64 (da + (lo - sa)) (hi - lo)).map (fun w => s.spaceAt i.p b.kind (w * 64))
      let s := (wordsOf 64 (da + (lo - sa)) (hi - lo)).foldl (fun s w => s.granPoison i.p b.kind (w * 64)) s
      s.updItem i.p i.r i.seq (fun i => { i.failAt (g / 64 * 64) with
        undo := i.undo.filter (fun u => !gs.any (fun x => x.1 = u.space && x.2 = u.addr)),
        lim := min i.lim ((da + (lo - sa)) / 64 - da / 64) })
  | _ => s

/-- An item that has done its writes ends: with its failure and an indeterminate destination, or as `ok` makes of it. -/
def State.endOwn (s : State) (p r : Nat) (seq : W32) (ok : State → Item → State) : State :=
  match s.item p r seq with
  | none => s
  | some i => if i.stat ≠ 0 then (s.settleDest p r seq).finish p r seq else (ok s i).finish p r seq

/-- PORTER_COPY_END: every write is visible; SIGNAL comes before the record (R59). -/
def execPorterCopyEnd (p r : Nat) (seq : W32) (ce : Nat) (hostFail : Option Nat) (st : State) : Ans :=
  run (inPitch p && inRing r) (match st.item p r seq with
    | none => st
    | some i =>
      if i.type ≠ 2 ∨ i.start.isNone then st
      else
        let s := st.updItem p r seq (fun i => { i with ce := i.ce + ce })
        let s := match hostFail with
          | some g => s.copyHostFail i g
          | none => s
        s.endOwn p r seq (fun s i =>
          let s := s.updItem p r seq (fun i => { i with done := i.f 40 5, undo := [] })
          if bitsOf (i.f 48 4) 31 1 = 1 then
            let x := s.signalNow p r seq (bitsOf (i.f 48 4) 0 18)
            if x.2 = 0 then x.1 else x.1.updItem p r seq (fun i => i.settle x.2)
          else s))

/-! ## NEAR_BATCH (R60) -/

def Item.near (i : Item) : Near :=
  { cmd := BitVec.ofNat 64 (i.f 16 8), target := BitVec.ofNat 64 (i.f 24 8), len := BitVec.ofNat 64 (i.f 32 8),
    value := BitVec.ofNat 64 (i.f 40 8), table := BitVec.ofNat 64 (i.f 48 8) }

/-- Bytes of the data buffer an operation reads and, for GATHER_SUM, writes. -/
def Near.dataLen (w : Near) : Nat × Nat :=
  match w.op with
  | 2 => (w.n, 0)
  | 3 => (4 * w.nidx, w.rowBytes)
  | _ => (0, 0)

/-- The checks of a NEAR_BATCH up to check 5 on its data buffer. -/
def State.batchCheck (s : State) (i : Item) (rdFail : Bool) : Chk (List Buf) :=
  let w := i.near
  let d := i.f 56 2
  match s.check12 i with
  | some e => .stop e 0
  | none =>
    if !w.fmtOk ∨ !w.alignOk ∨ ((w.op = 1 ∨ w.op = 4) ∧ d ≠ 0xFFFF) then .stop 0x20 0
    else if !s.typeAllowed i.p 3 then .stop 0x22 0
    else
      match s.readBufs i.p rdFail (if w.op = 2 then [(d, false)] else if w.op = 3 then [(d, false), (d, true)] else []) with
      | .error e => .stop 0x22 e
      | .ok l =>
        if w.length = 0 then .stop 0 0
        else if l.any (fun b => !s.bufFits i.p b (i.f 58 6) (max w.dataLen.1 w.dataLen.2)) then .stop 0x21 0
        else .pass l

/-- Poison the target granules that operands of a failing data granule would have reached (R264). -/
def State.batchPoison (s : State) (i : Item) (w : Near) (b : Buf) (g : Nat) : State :=
  let da := b.base + i.f 58 6
  let lo := max g da
  let hi := min (g + 64) (da + w.n)
  if hi ≤ lo then s
  else
    let ws := wordsOf 64 (w.target.toNat + (lo - da)) (hi - lo)
    let gs := ws.map (fun x => s.spaceAt i.p 2 (x * 64))
    let s := ws.foldl (fun s x => s.granPoison i.p 2 (x * 64)) s
    s.updItem i.p i.r i.seq (fun i => { i with
      undo := i.undo.filter (fun u => !gs.any (fun x => x.1 = u.space && x.2 = u.addr)),
      lim := min i.lim ((w.target.toNat + (lo - da)) / 64 - w.target.toNat / 64) })

/-- The sums of a GATHER_SUM go to the data buffer, a failing granule poisoned (R60, R264). -/
def State.batchSums (s : State) (i : Item) (b : Buf) (sums : List (Option (List Byte))) : State :=
  sums.zipIdx.foldl (fun s g =>
    let a := b.base + i.f 58 6 + 64 * g.2
    match g.1 with
    | some x => s.itemWrite i.p i.r i.seq 3 b.kind a x
    | none => s.granPoison i.p b.kind a) s

/-- Check 6 of a NEAR_BATCH after what checks 5 and 6 found on its target ranges: its data buffer may lie in a retired or fenced stall
(04 R88). -/
def State.batchGone (s : State) (i : Item) (l : List Buf) (w : Near) (e : Option Nat) : Option Nat :=
  if e = some 0x21 then e
  else if l.any (fun b => (s.bufStalls i.p b (i.f 58 6) (max w.dataLen.1 w.dataLen.2)).any s.stallGone) then some 0x11
  else e

/-- The operation of a NEAR_BATCH that passed its checks on the data buffers `l`. -/
def State.batchRun (s : State) (i : Item) (l : List Buf) (hostFail : Option Nat) : State :=
  let w := i.near
  let b := l.headD ⟨0, 0, 0, 0, false, false⟩
  let da := b.base + i.f 58 6
  let data := if l = [] then [] else s.spaceRead i.p b.kind da w.dataLen.1
  let bad := if l = [] then none else hostFailIn (b.kind, da) w.dataLen.1 hostFail <|> s.spaceFault i.p b.kind da w.dataLen.1
  let s0 := ((s.spaceTouch i.p b.kind da w.dataLen.1 0 false).startItem i).updItem i.p i.r i.seq (fun i => { i with bufs := l })
  if w.op = 3 ∧ bad.isSome ∧ (s.batchGone i l w none).isNone then s0.updItem i.p i.r i.seq (fun i => i.failAt (bad.getD 0))
  else
    match s.batchGone i l w (s.nearCheck i.p w data) with
    | some e => s.reject i.p i.r i.seq e 0
    | none =>
      let r := s0.nearRun i.p i.p w data
      let s := r.s.updItem i.p i.r i.seq (fun i => { i with
        undo := r.undo, lim := match r.fail with | some d => min r.undo.length (d / 64 - w.target.toNat / 64) | none => r.undo.length,
        result := r.count })
      let s := match r.fail with | some d => s.updItem i.p i.r i.seq (fun i => i.failAt (d / 64 * 64)) | none => s
      if w.op = 3 then s.batchSums i b r.sums
      else match bad with
        | some g => (s.updItem i.p i.r i.seq (fun i => i.failAt g)).batchPoison i w b g
        | none => s

/-- NEAR_BATCH. -/
def execNearBatch (p r : Nat) (seq : W32) (rdFail : Bool) (hostFail : Option Nat) (st : State) : Ans :=
  run (inPitch p && inRing r) (match st.ready p r seq (· = 3) with
    | none => st
    | some i =>
      if !st.bme (st.fnOf p) ∧ i.f 56 2 ≠ 0xFFFF then st
      else st.checked i (st.batchCheck i rdFail) (fun l => st.batchRun i l hostFail))

/-- NEAR_BATCH_END: RESULT is the count of a good COMPARE_COUNT, else 0 (R60). -/
def execNearBatchEnd (p r : Nat) (seq : W32) (ce : Nat) (st : State) : Ans :=
  run (inPitch p && inRing r) (match st.item p r seq with
    | none => st
    | some i =>
      if i.type ≠ 3 ∨ i.start.isNone then st
      else (st.updItem p r seq (fun i => { i with ce := i.ce + ce, result := if i.stat = 0 ∧ i.near.op = 4 then i.result else 0 })).endOwn p r seq
        (fun s i => s.updItem p r seq (fun i => { i with done := i.dest.2, undo := [] })))

/-! ## TALLY, FENCE, NOP (R61, R62) -/

/-- WAIT_UNTIL descriptors of a pitch that wait (R61). -/
def State.tallyWaits (s : State) (p : Nat) : Nat :=
  let f := fun (o : TOwner) => match o with
    | .desc q _ _ => q = p
    | _ => false
  (s.tally.watches.filter (fun w => f w.owner)).length + (s.tally.flight.filter (fun o => o.op = 3 && !o.dead && f o.owner)).length

/-- The checks of a TALLY. -/
def State.tallyCheck (s : State) (i : Item) : Chk Unit :=
  match s.check12 i with
  | some e => .stop e 0
  | none =>
    let op := i.f 20 1
    if 2 ^ 18 ≤ i.f 16 4 ∨ 4 ≤ op ∨ (if op = 3 then 6 ≤ i.f 21 1 else i.f 21 1 ≠ 0) ∨ !i.zero 22 2 ∨ !i.zero 28 36 then .stop 0x20 0
    else if !s.pt.active.ownsTally i.p (i.f 16 4) then .stop 0x22 0
    else if op = 3 ∧ 256 ≤ s.tallyWaits i.p then .stop 0x24 0
    else .pass ()

/-- TALLY_DESCRIPTOR: the operation leaves for its tally unit (R61). -/
def execTallyDescriptor (p r : Nat) (seq : W32) (st : State) : Ans :=
  run (inPitch p && inRing r) (match st.ready p r seq (· = 4) with
    | none => st
    | some i => st.checked i (st.tallyCheck i) (fun _ =>
        (st.startItem i).tallySend
          { op := i.f 20 1, id := i.f 16 4, x := BitVec.ofNat 32 (i.f 24 4), cond := i.f 21 1, owner := .desc p r seq }))

/-- The checks of a FENCE. -/
def State.fenceCheck (s : State) (i : Item) : Chk Unit :=
  match s.check12 i with
  | some e => .stop e 0
  | none => if 2 ≤ i.f 16 1 ∨ !i.zero 17 47 then .stop 0x20 0 else .pass ()

/-- In the scope of a FENCE (R62). -/
def Item.scope (i : Item) (p r : Nat) : Bool := p = i.p && (i.f 16 1 = 1 || r = i.r)

/-- FENCE_DESCRIPTOR: it completes once everything in its scope fetched before it has completed (R62), and waits until then. RESULT counts
what failed in its scope since the previous FENCE of its ring, whenever it was fetched. -/
def execFenceDescriptor (p r : Nat) (seq : W32) (st : State) : Ans :=
  run (inPitch p && inRing r) (match st.ready p r seq (· = 5) with
    | none => st
    | some i => st.checked i (st.fenceCheck i) (fun _ =>
        if st.rings.items.any (fun j => i.scope j.p j.r && j.fno < i.fno) then st
        else
          let k := 64 * p + r
          let n := (st.rings.fails.filter (fun f => i.scope f.p f.r && Tab.get 0 st.rings.fenceAt k ≤ f.no)).length
          let s := (st.startItem i).updItem p r seq (fun i => { i with result := n })
          let s := { s with rings := { s.rings with fenceAt := Tab.set s.rings.fenceAt k s.rings.ends } }
          s.finish p r seq))

/-- The checks of a NOP. -/
def State.nopCheck (s : State) (i : Item) : Chk Unit :=
  match s.check12 i with
  | some e => .stop e 0
  | none => if !i.zero 16 48 then .stop 0x20 0 else .pass ()

/-- NOP; a descriptor of a TYPE that no other row takes is rejected here (check 2 of R64). -/
def execNopDescriptor (p r : Nat) (seq : W32) (st : State) : Ans :=
  run (inPitch p && inRing r) (match st.ready p r seq (fun t => t = 0 || decide (8 ≤ t)) with
    | none => st
    | some i => st.checked i (st.nopCheck i) (fun _ => (st.startItem i).finish p r seq))

/-- ITEM_TIMEOUT: TIMEOUT ms have passed since the start (R77). -/
def execItemTimeout (p r : Nat) (seq : W32) (st : State) : Ans :=
  run (inPitch p && inRing r) (match st.item p r seq with
    | none => st
    | some i => if i.start.isSome ∧ i.timeout ≠ 0 then st.endItemSoft p r seq 0x15 else st)

end Sys2Proof.Machine
end

