-- ==== Sys2Proof/Machine/Pitches.lean ====
section
/-!
DEFINITION. The pitch table, quiescing, stall generations, pitch reset and Function level reset (04; 21 R455, R456, R461, R462).
-/
namespace Sys2Proof.Machine

/-! ## What an item or slot reaches -/

/-- The DPA ranges an item in progress reads or writes. -/
def State.itemRanges (s : State) (i : Item) : List (Nat × Nat) :=
  let dev := fun (b : Buf) off n => if b.kind = 2 then [(b.base + off, n)] else []
  if i.start.isNone then []
  else
    match i.type, i.bufs with
    | 2, a :: b :: _ => dev a (i.f 24 8) (i.f 40 5) ++ dev b (i.f 32 8) (i.f 40 5)
    | 3, l => i.near.ranges (match l with | b :: _ => s.spaceRead i.p b.kind (b.base + i.f 58 6) i.near.dataLen.1 | [] => []) ++
        (match l with | b :: _ => dev b (i.f 58 6) (max i.near.dataLen.1 i.near.dataLen.2) | [] => [])
    | 7, a :: l => dev a (i.f 24 8) (i.f 40 5) ++ (match l with | b :: _ => dev b (i.f 34 6) b.len | [] => [])
    | _, _ => []

/-- The stalls an item names or uses (R452): a KERNEL's, those whose windows its ranges touch, a Jisan request's logical stalls. -/
def State.itemStalls (s : State) (i : Item) : List Nat :=
  i.stalls ++ (s.itemRanges i).flatMap (fun r => s.dpaStalls i.p r.1 r.2) ++
    (match (s.jis1 i.p).req i.r i.seq with
     | some q => if i.type = 6 then ((s.jis1 i.p).slotOf q.slot).stalls else []
     | none => [])

/-- The far offsets a DPA range of logical device `ld` reaches: first and number. -/
def State.farOf (s : State) (ld a n : Nat) : Option (Nat × Nat) :=
  let lo := max a dpaFar
  if a + n ≤ lo then none
  else
    match s.placeDpa ld lo with
    | .far o => some (o, a + n - lo)
    | _ => none

/-- A DPA range reaches memory of pitch p. -/
def State.rangeOfPitch (s : State) (ld p a n : Nat) : Bool :=
  (s.dpaStalls ld a n).any (fun m => s.pt.active.owner m = some p) ||
    (match s.farOf ld a n with
     | some (o, k) => decide (o < unit256 * (s.pt.active.farbase p + s.pt.active.farsize p) ∧ unit256 * s.pt.active.farbase p < o + k)
     | none => false)

/-! ## Displacing a module (11 R248 to R250) -/

/-- Lines of one position that a move takes: those below the displacement area (R236). -/
def FarSt.moveLines (f : FarSt) : Nat := 8 * ((mlCount f.ml - 1) * linesN f.chcap / mlCount f.ml)

/-- Usable units of `k` live positions. -/
def FarSt.units (f : FarSt) (k : Nat) : Nat := 8 * k * linesN f.chcap / 1048576

/-- The first check of DISPLACE that fails (R249). -/
def State.displaceCheck (s : State) (m : Nat) : Option Nat :=
  let f := s.far
  let others := (members4 f.used).filter (fun x => x ≠ m)
  let top := f.units (mlCount f.ml - 1)
  if (s.module m).state ≠ 3 ∧ (s.module m).state ≠ 7 then some 0x24
  else if f.ml = 1 then some 0x20
  else if bitsOf f.used m 1 = 0 ∨ !(f.ml = 2 ∨ f.ml = 3) then some 0x24
  else if others.any (fun x => [1, 2, 4, 5, 6].contains (s.module x).state || bitsOf f.disp x 1 = 1) then some 0x24
  else if s.applying then some 0x24
  else if allPitches.any (fun p => s.pt.active.enabled p && s.pt.active.farsize p ≠ 0 &&
      decide (top < s.pt.active.farbase p + s.pt.active.farsize p)) then some 0x24
  else none

/-- A displacement starts: usable far memory drops at once. Of a module that failed in a move, the lines not yet displaced are left. -/
def State.displace (s : State) (m : Nat) : State :=
  let n := s.far.moveLines
  let s := { s with far := { s.far with usable := s.far.units (mlCount s.far.ml - 1) } }
  (s.updModule m (fun x =>
    if x.state = 7 ∧ x.left ≠ 0 then { x with state := 4 } else { x with state := 4, left := n, total := n, back := 0 })).fpEvent

/-- A FAILED module is displaced at once when the checks pass (R248). -/
def State.autoDisplace (s : State) : State :=
  match threads4.find? (fun m => (s.module m).state = 7 && (s.displaceCheck m).isNone && bitsOf s.fw.disable 5 1 = 0) with
  | some m => s.displace m
  | none => s

/-- The far line that is line `idx` of module m's position. -/
def State.moveLine (s : State) (m idx : Nat) : Nat := farLineOf s.far.ml ((members4 s.far.used).findIdx (· = m)) (idx % 8) (idx / 8)

/-- All words of a far line are stored poisoned. -/
def State.poisonFarLine (s : State) (l : Nat) : State :=
  { s with mem := { s.mem with
      far := Mem.clear s.mem.far (l * 256) 256, farPois := NSet.addRange s.mem.farPois (l * 8) 8,
      farValid := NSet.add s.mem.farValid l } }

/-! ## Applying a generation (R90, R91, R93) -/

/-- Tiles emptied, shelf and slice cleared (R93). -/
def State.emptyStall (s : State) (n : Nat) : State :=
  (((s.clearShelf n).clearSlice n).selReset n).updStall n (fun st => { st with rows := [], rowPois := [], arr := { st.arr with loaded := false, img := [] } })

/-- A stall that comes to serve another pitch is emptied first (R93): from the commit on, CXL.mem reaches it under its new pitch. -/
def State.emptyMoved (s : State) (n : Nat) : State :=
  match s.pt.active.owner n with
  | none => s
  | some q => if (s.stall n).served = q then s else (s.emptyStall n).updStall n (fun st => { st with served := q })

/-- Stall n applies the committed generation (R91, R93). -/
def State.applyGen (s : State) (n : Nat) : State := (s.emptyMoved n).updStall n (fun st => { st with gen := s.pt.gen })

/-- STALL_APPLY_GENERATION: at the stall's work-item boundary (R90). -/
def execStallApplyGeneration (s : Nat) (st : State) : Ans :=
  run (inStall s) (if (st.stall s).gen ≠ st.pt.gen ∧ (st.stall s).idle then (st.applyGen s).autoDisplace else st)

/-! ## Quiescing (R94) -/

/-- The three conditions of R94. -/
def State.pitchIdle (s : State) (p : Nat) : Bool :=
  s.pinflight p = 0 && (List.range 64).all (fun n => !(s.slot p n).busy) &&
    allStalls.all (fun n => s.pitchOf n ≠ some p || (s.stall n).idle)

/-- QUIESCED (R94). -/
def State.quiesced (s : State) (p : Nat) : Bool := s.pitchIdle p && ((s.pctl p).quiesce || !s.pt.active.enabled p)

def pctlOff (p : Nat) : Nat := 0x104000 + 0x40 * p

/-- The floor plan has been published: before, writes to PCTL and some others are refused (21 R463). -/
def State.published (s : State) : Bool := s.fpValid

/-- QUIESCE (R94). -/
def execQuiesce (q : Req) (p : Nat) (on : Bool) (st : State) : Ans :=
  run (inReq q && inPitch p) (st.setupTry q (pctlOff p) 4 (reqOwns q p && st.published)
    (fun s => s.updPctl p (fun c => { c with quiesce := on })))

/-! ## Commit (R89) -/

/-- Two ranges of non-zero size overlap. -/
def overlaps (a n b m : Nat) : Bool := decide (a < b + m ∧ b < a + n ∧ n ≠ 0 ∧ m ≠ 0)

/-- Check 3: the first pitch with an undefined field value. -/
def PTab.badFormat (t : PTab) (windowOff : Bool) (old : PTab) : Option Nat :=
  allPitches.find? (fun p =>
    (t.enabled p && t.defhint p = 0) || decide (64 < t.ringcount p ∨ 2048 < t.farsize p ∨ 262144 < t.tcount p) ||
      t.tbase p % 256 ≠ 0 || t.tcount p % 256 ≠ 0 || (t.jisan p && t.window p) || (windowOff && t.window p && !old.window p))

/-- Check 4: the first pitch whose far share or tallies overlap those of a lower one, then the first stall whose window index a lower one
of its pitch has. -/
def PTab.badOverlap (t : PTab) : Option Nat :=
  (allPitches.find? (fun p => t.enabled p && (List.range p).any (fun q => t.enabled q && overlaps (t.farbase q) (t.farsize q) (t.farbase p) (t.farsize p))))
    <|> (allPitches.find? (fun p => (List.range p).any (fun q => overlaps (t.tbase q) (t.tcount q) (t.tbase p) (t.tcount p))))
    <|> (allStalls.find? (fun n => (t.owner n).isSome && (List.range n).any (fun m => t.owner m = t.owner n && t.winOf m = t.winOf n)))

/-- Check 5. -/
def PTab.badBounds (t : PTab) (usable : Nat) : Option Nat :=
  (allPitches.find? (fun p => t.farsize p ≠ 0 && decide (usable < t.farbase p + t.farsize p)))
    <|> (allPitches.find? (fun p => decide (262144 < t.tbase p + t.tcount p)))

/-- A share or range of non-zero size is shrunk or moved (R90). -/
def shrunk (ob on nb nn : Nat) : Bool := on ≠ 0 && (nb ≠ ob || decide (nn < on))

/-- The change needs pitch p quiesced (R90). -/
def PTab.needsQuiet (o t : PTab) (p : Nat) : Bool :=
  (o.enabled p && !t.enabled p) || o.jisan p ≠ t.jisan p || o.farmode p ≠ t.farmode p ||
    shrunk (o.farbase p) (o.farsize p) (t.farbase p) (t.farsize p) || shrunk (o.tbase p) (o.tcount p) (t.tbase p) (t.tcount p)

/-- A stall leaves its pitch or changes its window index. -/
def PTab.loses (o t : PTab) (n : Nat) : Bool := (o.owner n).isSome && (t.owner n ≠ o.owner n || t.winOf n ≠ o.winOf n)

/-- Check 6. Where several fail, WHO names a pitch that is not quiesced first, then a stall, a ring and a slot (DESIGN CHOICE, log entry 101). -/
def State.badQuiet (s : State) (t : PTab) : Option Nat :=
  let o := s.pt.active
  (allPitches.find? (fun p => o.needsQuiet t p && !s.quiesced p))
    <|> (allStalls.find? (fun n => o.loses t n && (match o.owner n with | some p => !s.quiesced p | none => false)))
    <|> (allPitches.find? (fun p => (List.range 64).any (fun r => decide (t.ringcount p ≤ r ∧ r < o.ringcount p) && s.ringActive p r)))
    <|> (allPitches.find? (fun p => o.window p && !t.window p && (List.range 64).any (fun n => (s.slot p n).busy)))

/-- The first check that fails: STATUS, CHECK and WHO (R89). -/
def State.commitCheck (s : State) (v : W32) : Option (Nat × Nat × Nat) :=
  let t := s.pt.shadow
  if v ≠ s.pt.gen + 1 then some (0x24, 1, 0)
  else if s.applying ∨ allPitches.any (fun p => (s.pctl p).resetting) then some (0x24, 2, 0)
  else ((t.badFormat (bitsOf s.fw.disable 3 1 = 1) s.pt.active).map (fun w => (0x20, 3, w)))
    <|> (t.badOverlap.map (fun w => (0x20, 4, w)))
    <|> ((t.badBounds s.far.usable).map (fun w => (0x21, 5, w)))
    <|> ((s.badQuiet t).map (fun w => (0x24, 6, w)))

/-- A stall that a commit affects: its pitch, its window or a setting of its pitch that it applies (R90). -/
def PTab.affects (o t : PTab) (n : Nat) : Bool :=
  t.owner n ≠ o.owner n || ((t.owner n).isSome && t.winOf n ≠ o.winOf n) ||
    (match t.owner n with
     | none => false
     | some p => t.farOf p ≠ o.farOf p || t.tallyOf p ≠ o.tallyOf p || t.defhint p ≠ o.defhint p || o.needsQuiet t p)

/-- Before a change of FARMODE takes effect, every dirty line of the share is written back (11 R245). -/
def State.cacheFlush (s : State) (o n : Nat) : State :=
  ((s.far.cache.flatMap (fun e => e.2)).filter (fun w => w.dirty && decide (o ≤ w.line * 256 ∧ w.line * 256 < o + n))).foldl
    (fun s w => s.writeBack w.line) s

/-- The lines of a range of far offsets leave the far cache (11 R245). -/
def State.cacheDrop (s : State) (o n : Nat) : State :=
  { s with far := { s.far with cache := s.far.cache.map (fun e =>
      (e.1, e.2.filter (fun w => w.line * 256 < o || decide (o + n ≤ w.line * 256)))) } }

/-- Units of far memory that a pitch loses, one 256 MiB unit at a time, are cleared (R93): those of a disabled pitch's share too, when that
share loses them (DESIGN CHOICE, log entry 102). -/
def State.clearFarLost (s : State) (o t : PTab) (p : Nat) : State :=
  ((List.range (o.farsize p)).map (fun k => o.farbase p + k)).foldl (fun s u =>
    if t.farbase p ≤ u ∧ u < t.farbase p + t.farsize p then s
    else (s.cacheDrop (unit256 * u) unit256).clearFarLines (1048576 * u) 1048576) s

/-- Tallies a pitch loses become 0 (09 R193). -/
def State.clearTalliesLost (s : State) (o t : PTab) (p : Nat) : State :=
  let gone := fun id => o.ownsTally p id && !t.ownsTally p id
  { s with tally := { s.tally with val := s.tally.val.filter (fun e => !gone e.1), pois := s.tally.pois.filter (fun x => !gone x) } }

/-- What a commit does to one pitch: memory and tallies it loses, its far cache lines at a change of FARMODE (11 R245), its model slots
(13 R285). -/
def State.commitPitch (s : State) (o t : PTab) (p : Nat) : State :=
  let s := (s.clearFarLost o t p).clearTalliesLost o t p
  let b := unit256 * o.farbase p
  let n := unit256 * o.farsize p
  let s := if o.farmode p ≠ t.farmode p then (s.cacheFlush b n).cacheDrop b n else s
  if o.jisan p ≠ t.jisan p ∨ o.farOf p ≠ t.farOf p ∨ allStalls.any (fun n => o.owner n ≠ t.owner n && (o.owner n = some p || t.owner n = some p)) then
    s.updJis p (fun j => { j with
      slot := [], mig := [], rel := [], sess := j.sess.map (fun x => { x with kv := 0, blocks := [], far := false }) })
  else s

/-- A commit that passed (R89, R91). -/
def State.commit (s : State) : State :=
  let o := s.pt.active
  let t := s.pt.shadow
  let s := allPitches.foldl (fun s p => s.commitPitch o t p) s
  let s := { s with pt := { s.pt with active := t, prev := o, gen := s.pt.gen + 1, status := 0, check := 0, who := 0 } }
  allStalls.foldl (fun s n => if o.affects t n then s.emptyMoved n else s.updStall n (fun st => { st with gen := s.pt.gen })) s

/-- Who writes the shadow table and commits it: under MLD the platform pair alone (R86). -/
def State.ptWriter (s : State) (q : Req) : Bool :=
  match q with
  | .ld _ => false
  | .host => true
  | .sp i => !s.port.mld || decide (2 ≤ i)

/-- PTCOMMIT (R86, R89). -/
def execPtCommit (q : Req) (v : W32) (st : State) : Ans :=
  run (inReq q) (st.setupTry q 0x100004 4 (st.ptWriter q) (fun s =>
    match s.commitCheck v with
    | some (a, b, c) => { s with pt := { s.pt with status := a, check := b, who := c } }
    | none => s.commit.autoDisplace))

/-- PTREVERT (R89). -/
def execPtRevert (q : Req) (v : W32) (st : State) : Ans :=
  run (inReq q) (st.setupTry q 0x10000C 4 (st.ptWriter q)
    (fun s => { s with pt := { s.pt with shadow := s.pt.active } }))

/-! ## Pitch reset (R99 to R102) -/

/-- Step 2: what reaches pitch p from outside ends with FAILED_PITCH_RESET (R99; 21 R461). -/
def State.resetOutside (s : State) (p : Nat) : State :=
  let s := s.cv.conv.foldl (fun s e => (e.2.rx.filter (fun x => x.tp = p)).foldl (fun s x =>
    (s.rxEnd (e.1 / 8) (e.1 % 8) x 0x13).cvRefuse (e.1 / 8) (e.1 % 8) x.msg 0x13) s) s
  let s := s.endItems (fun i => i.p ≠ p && (s.itemRanges i).any (fun r => s.rangeOfPitch i.p p r.1 r.2)) 0x13
  allPitches.foldl (fun s q => if q = p then s else (List.range 64).foldl (fun s n =>
    let d := s.slot q n
    let w : Near := { cmd := d.lcmd, target := d.ltarget, len := d.llen, value := d.lvalue, table := d.ltable }
    if d.busy && (w.ranges d.bytes).any (fun r => s.rangeOfPitch q p r.1 r.2) then s.slotFinish q n 0x13 0 else s) s) s

/-- The stalls of pitch p, by the active table or the one they apply. -/
def State.stallsFor (s : State) (p : Nat) : List Nat :=
  allStalls.filter (fun n => s.pitchOf n = some p || s.pt.active.owner n = some p)

/-- Steps 3 and 4: threads halt, busy slots end, every item in flight gets its record, Jisan's sessions are dropped; affected stalls apply
the committed generation (21 R462). -/
def State.resetWork (s : State) (p : Nat) : State :=
  let s := (s.stallsFor p).foldl State.selDrop s
  let s := (List.range 64).foldl (fun s n => s.slotFinish p n 0x13 0) s
  let s := (s.stallsFor p).foldl State.halt (s.endItems (fun i => i.p = p) 0x13)
  let s := (s.stallsFor p).foldl (fun s n => if (s.stall n).gen ≠ s.pt.gen then s.applyGen n else s) s
  s.updJis p (fun j => { j with slot := [], reqs := [], sess := [], run := none, rel := [], mig := [], load := none })

/-- Step 5: tiles, shelves, tallies with the operations on their way to them (09 R210), ring enables, slots, QUIESCE. -/
def State.resetState (s : State) (p : Nat) : State :=
  let s := (s.stallsFor p).foldl (fun s n => (s.clearShelf n).updStall n (fun st => { st with rows := [], rowPois := [] })) s
  let own := fun id => s.pt.active.ownsTally p id
  let s := { s with
    tally := { s.tally with
      val := s.tally.val.filter (fun e => !own e.1), pois := s.tally.pois.filter (fun x => !own x),
      flight := s.tally.flight.filter (fun x => x.dev.isSome || !own x.id) },
    slots := s.slots.filter (fun e => e.1 / 64 ≠ p) }
  let s := (List.range 64).foldl (fun s r => if (s.ring p r).enable then s.updRing p r (fun g => { g with enable := false }) else s) s
  s.updPctl p (fun c => { c with quiesce := false })

/-- Step 6 with SCRUB: valid bits of the slices and the far share. -/
def State.resetScrub (s : State) (p : Nat) : State :=
  let t := s.pt.active
  let s := (t.stallsOf p).foldl State.clearSlice s
  (s.cacheDrop (unit256 * t.farbase p) (unit256 * t.farsize p)).clearFarLines (1048576 * t.farbase p) (1048576 * t.farsize p)

/-- A pitch reset, its steps in order; PRESETGEN counts it (21 R456). -/
def State.pitchReset (s : State) (p : Nat) (scrub : Bool) : State :=
  let s := s.updPctl p (fun c => { c with presetgen := c.presetgen + 1 })
  let s := ((s.resetOutside p).resetWork p).resetState p
  ((if scrub then s.resetScrub p else s).raiseEvent p).autoDisplace

/-- PITCH_RESET: RESET written with or without SCRUB (R99; 21 R463). -/
def execPitchReset (q : Req) (p : Nat) (scrub : Bool) (st : State) : Ans :=
  run (inReq q && inPitch p) (st.setupTry q (pctlOff p) 4 (reqOwns q p && st.published) (fun s => s.pitchReset p scrub))

/-! ## Function level reset (21 R455) -/

/-- Registers of pitch p that an FLR resets: ring block, buffer table, Jisan block, Caravan pitch registers, MSI-X table. -/
def State.flrRegs (s : State) (p : Nat) : State :=
  let s := s.resetRw (0x180000 + 0x8000 * p) 0x8000
  { s with
    shadow := s.shadow.filter (fun e => !decide (0x180000 + 0x8000 * p ≤ e.1 ∧ e.1 < 0x188000 + 0x8000 * p)),
    rings := { s.rings with
      ring := s.rings.ring.filter (fun e => e.1 / 64 ≠ p), pr := Tab.del s.rings.pr p,
      fenceAt := s.rings.fenceAt.filter (fun e => e.1 / 64 ≠ p) },
    jis := Tab.del s.jis p,
    cv := { s.cv with land := Tab.del s.cv.land p, inst := s.cv.inst.filter (fun e => e.1 / 64 ≠ p) },
    port := { s.port with
      msix := s.port.msix.filter (fun e => if s.port.mld then e.1 / 4 / 2048 ≠ p else e.1 / 4 / 128 ≠ p),
      pba := s.port.pba.filter (fun v => if s.port.mld then v / 2048 ≠ p else v / 128 ≠ p) } }

/-- FLR: bus mastering off, a pitch reset without SCRUB of the function's pitches, no record written, registers reset. -/
def State.functionReset (s : State) (fn : Nat) : State :=
  let ps := if s.port.mld then [fn] else allPitches.filter (fun p => s.pt.active.enabled p)
  let s := { s with port := { s.port with bmeOff := NSet.add s.port.bmeOff fn } }
  let s := ps.foldl (fun s p => s.pitchReset p false) s
  let s := { s with rings := { s.rings with held := s.rings.held.filter (fun h => h.fn ≠ fn) } }
  ps.foldl State.flrRegs s

/-- FLR (R455). -/
def execFlr (fn : Nat) (st : State) : Ans := run (inPitch fn) (if st.isFn fn then st.functionReset fn else st)

end Sys2Proof.Machine
end

