-- ==== Sys2Proof/Machine/Slices.lean ====
section
/-!
DEFINITION. Slices: access timing and the timetable, refresh and its multipliers, retirement of rows, and the fence at a stall's egress
(04 R95; 05).
-/
namespace Sys2Proof.Machine

/-! ## Temperatures of layers (16 R345, R346) -/

def nano : Int := 1000000000

/-- GUARD of COOLCFG in degrees. -/
def State.guard (s : State) : Nat := fld32 (s.rw32 0x20C408) 12 4

/-- The estimate of layer L in 10^-9 °C (R346). -/
def State.layerEst (s : State) (h l : Nat) : Int := Tab.get 0 (s.hall h).temp (l + 1) + s.guard * nano

/-- The band of R113 for an estimate: multiplier code 0, 1 or 2. -/
def bandOf (e : Int) : Nat := if e ≤ 85 * nano then 0 else if e ≤ 95 * nano then 1 else 2

/-- The lowest multiplier that the hysteresis of R115 lets an estimate return to. -/
def lowerBand (e : Int) : Nat := if e ≤ 82 * nano then 0 else if e ≤ 92 * nano then 1 else 2

/-! ## Refresh (R113 to R117) -/

def multOf (m : BitVec 16) (l : Nat) : Nat := m.toNat / 4 ^ l % 4

def packMult (f : Nat → Nat) : BitVec 16 := BitVec.ofNat 16 ((List.range 8).foldl (fun n l => n + f l * 4 ^ l) 0)

/-- A layer with multiplier code m has a refresh slot at quarter q of each frame (R113). -/
def slotAt (m q : Nat) : Bool := if m = 0 then q % 4 = 0 else if m = 1 then q % 2 = 0 else true

/-- Start of quarter k of a hall's frames, in port cycles. -/
def HallSt.quarterAt (x : HallSt) (k : Nat) : Nat := x.frame0 + 256 * k

/-- The next quarter whose slot has not passed. -/
def HallSt.nextQ (x : HallSt) : Nat := 4 * x.frames + x.quarter

/-- Refresh number n refreshes bank n mod 16 (R114). -/
def HallSt.refresh (x : HallSt) : HallSt :=
  let t := x.quarterAt x.nextQ
  let due := (List.range 8).filter (fun l => slotAt (multOf x.mult l) x.quarter)
  { x with
    quarter := x.quarter + 1,
    refEnd := due.foldl (fun e l => Tab.set e (16 * l + Tab.get 0 x.refn l % 16) (t + 90)) x.refEnd,
    refn := due.foldl (fun r l => Tab.set r l ((Tab.get 0 x.refn l + 1) % 16384)) x.refn }

/-- REFRESH_SLOT: the next slot of the hall's frame (R114). -/
def execRefreshSlot (h : Nat) (st : State) : Ans :=
  run (inHall h) (if (st.hall h).rails ∧ (st.hall h).quarter < 4 then st.updHall h HallSt.refresh else st)

/-- The multiplier of a layer at a frame boundary (R113, R115, R117, R123). -/
def State.nextMult (s : State) (h l : Nat) : Nat :=
  let x := s.hall h
  let cur := multOf x.mult l
  let up := max (multOf x.cmd l) (bandOf (s.layerEst h l))
  if !x.cmdSeen ∨ x.failsafe then 2
  else if cur ≤ up then up
  else
    match Tab.find x.lowerOk l with
    | some f => if lowerBand (s.layerEst h l) ≤ f then min cur (max up f) else cur
    | none => cur

/-- FRAME_BOUNDARY: slots still due pass, changes of multiplier and of SLICECFG take effect (R115, R122). -/
def State.frameBoundary (s : State) (h : Nat) : State :=
  let s := s.updHall h (fun x => (List.range 4).foldl (fun x _ => if x.quarter < 4 then x.refresh else x) x)
  let m := packMult (s.nextMult h)
  let s := s.updHall h (fun x => { x with
    frames := x.frames + 1, quarter := 0, mult := m, refgen := if m = x.mult then x.refgen else x.refgen + 1,
    lowerOk := x.lowerOk.filter (fun e => multOf m e.1 = multOf x.mult e.1) })
  ((List.range 64).map (fun i => 64 * h + i)).foldl (fun s n =>
    match (s.stall n).armSlice with
    | some v => s.updStall n (fun st => { st with slicecfg := v, armSlice := none })
    | none => s) s

/-- FRAME_BOUNDARY. -/
def execFrameBoundary (h : Nat) (st : State) : Ans :=
  run (inHall h) (if (st.hall h).rails then st.frameBoundary h else st)

/-- HALLREFCMD: accepted from service processors, no layer coded 3 (R117, R123). -/
def execHallRefCmd (q : Req) (h : Nat) (v : W32) (st : State) : Ans :=
  run (inReq q && inHall h)
    (st.setupTry q (0x201008 + 0x40 * h) 4 (reqIsSp q && (List.range 8).all (fun l => multOf (v.setWidth 16) l ≠ 3)) (fun s =>
      s.updHall h (fun x => { x with cmd := v.setWidth 16, lastCmd := s.time, cmdSeen := true, failsafe := false })))

/-- MULTIPLIER_LOWERING: the estimate has stayed low enough for 1 s (R115). -/
def execMultiplierLowering (h layer : Nat) (st : State) : Ans :=
  run (inHall h)
    (if lowerBand (st.layerEst h layer) < multOf (st.hall h).mult layer then
      st.updHall h (fun x => { x with lowerOk := Tab.set x.lowerOk layer (lowerBand (st.layerEst h layer)) }) else st)

/-- REFRESH_FAILSAFE: no refresh command has come for 100 ms (R117). -/
def execRefreshFailsafe (h : Nat) (st : State) : Ans :=
  run (inHall h)
    (if (st.hall h).rails then st.updHall h (fun x => { x with failsafe := true, cmd := 0xAAAA }) else st)

/-! ## Access timing (R104, R107 to R112, R114, R116, R118) -/

def portOf (off : Nat) : Nat := bitsOf off 8 2

/-- Window W by FWIN. -/
def winCycles (f : Nat) : Nat := if f = 0 then 96 else if f = 1 then 128 else if f = 2 then 256 else 512

/-- A write of part of an ECC word of a written line. -/
def PortReq.part (a : PortReq) : Bool := a.kind = AccKind.partialWrite && !a.fresh
def PortReq.rd (a : PortReq) : Bool := a.kind = AccKind.read
def PortReq.busy (a : PortReq) : Nat := if a.part then 66 else 40
def PortReq.latency (a : PortReq) : Nat := if a.rd then 30 else if a.part then 56 else 26

/-- The first cycle of the line on the port bus. -/
def PortReq.bus (a : PortReq) (c : Nat) : Nat := if a.rd then c + 26 else c

/-- The slice runs isolated: by SLICECFG, and only while the stall runs (R112). -/
def State.isolated (s : State) (n : Nat) : Bool := !bit32 (s.stall n).slicecfg 0 && (s.stall n).work.isSome

/-- Refresh numbers of a layer from the next slot to quarter k. -/
def HallSt.slotsTo (x : HallSt) (l k : Nat) : Nat :=
  let a := x.nextQ
  let per := fun d => cdiv k d - cdiv a d
  if multOf x.mult l = 0 then per 4 else if multOf x.mult l = 1 then per 2 else k - a

/-- Quarter k refreshes the bank of layer l. -/
def HallSt.refreshes (x : HallSt) (l bank k : Nat) : Bool :=
  decide (x.nextQ ≤ k) && slotAt (multOf x.mult l) k && (Tab.get 0 x.refn l + x.slotsTo l k) % 16 = bank

/-- Cycle c meets a refresh of the bank: in progress, or a slot within the access's own bank-busy time (R114). -/
def HallSt.refBusy (x : HallSt) (l bank busy c : Nat) : Bool :=
  let k := (c - x.frame0) / 256
  decide (c < Tab.get 0 x.refEnd (16 * l + bank)) ||
    (x.refreshes l bank k && decide (c < x.quarterAt k + 90)) ||
    (x.refreshes l bank (k + 1) && decide (x.quarterAt (k + 1) < c + busy))

/-- The physical row an access reaches: the spare of a retired row, none while its copy runs (R118). -/
def SliceSt.rowAt (d : SliceSt) (off : Nat) : Option Nat :=
  match d.map.find? (fun e => e.row = physRow off) with
  | some e => if e.copying then none else some (e.spare.getD e.row)
  | none => some (physRow off)

/-- Requests of one agent to one line keep their order (R108): an older one of the same class waits for the line. -/
def SliceSt.older (d : SliceSt) (r : PortReq) : Bool :=
  d.wait.any (fun x => decide (x.no < r.no) && x.near = r.near && x.off / 256 = r.off / 256)

/-- The timetable allows a request of a layer at cycle c (R110 to R112, R116). -/
def State.timeOk (s : State) (n : Nat) (r : PortReq) (layer c : Nat) : Bool :=
  let x := s.hall (hallOf n)
  let w := winCycles (fld32 (s.stall n).slicecfg 1 2)
  let o := (c - x.frame0) % 1024
  (if !s.isolated n then true
    else if r.near then decide (o ≤ 1023 - w) else decide (1024 - w ≤ o ∧ o ≤ if r.part then 958 else 984)) &&
  (r.rd || bitsOf x.throttle.toNat layer 1 = 0 || o % 32 = 0)

/-- A request that a queue holds may issue at cycle c: its time, its bank, refresh and the port bus allow it. A read of a line never written
needs neither bank nor bus (R109). -/
def State.mayIssue (s : State) (n : Nat) (d : SliceSt) (r : PortReq) (c : Nat) : Bool :=
  match d.rowAt r.off with
  | none => false
  | some row =>
    let layer := row / 16384
    let bankFree := d.live.all (fun u => u.bank.all (fun b => b.1 ≠ row / 1024 || decide (b.2 ≤ c))) &&
      !(s.hall (hallOf n)).refBusy layer (row / 1024 % 16) r.busy c
    let busFree := d.live.all (fun u => u.port ≠ portOf r.off || u.bus.all (fun b => decide (b + 4 ≤ r.bus c ∨ r.bus c + 4 ≤ b)))
    s.timeOk n r layer c && !d.older r && (r.fresh && r.rd || bankFree && busFree)

/-- A request issues: it holds its bank and the bus, and completes after its fixed time. -/
def SliceSt.issue (d : SliceSt) (r : PortReq) (c : Nat) : SliceSt :=
  let free := r.fresh && r.rd
  { d with
    wait := d.wait.filter (fun x => x.no ≠ r.no),
    live := { no := r.no, port := portOf r.off,
              bank := if free then none else some ((d.rowAt r.off).getD 0 / 1024, c + r.busy),
              bus := if free then none else some (r.bus c), done := c + r.latency } :: d.live }

/-- The queue of a request: near reads, near writes or foreign requests of its port, 16 lines each (R107). -/
def PortReq.sameQueue (a b : PortReq) : Bool := a.near = b.near && portOf a.off = portOf b.off && (!a.near || a.rd = b.rd)

/-- Lines that the queue of a request holds. -/
def SliceSt.held (d : SliceSt) (r : PortReq) : Nat := (d.wait.filter (fun x => x.taken && x.sameQueue r)).length

/-- Back-pressure of the jostle registers: a point accepts nothing in the first N of every M cycles (20 R448). -/
def State.accepts (s : State) (point unit c : Nat) : Bool :=
  (List.range 8).all (fun i =>
    let v := s.rw32 (0x380400 + 0x10 * i)
    fld32 v 0 8 ≠ point || fld32 v 8 8 ≠ unit || decide (fld32 v 16 8 ≤ c % fld32 v 24 8))

/-- One port cycle: requests that have come enter their queues while these have room, in order of age; then those that may issue do so, near
ones first and the oldest first (R107, R111, R112). -/
def State.portCycle (s : State) (n : Nat) (d : SliceSt) : SliceSt :=
  let c := d.now
  let enter := fun (d : SliceSt) (r : PortReq) =>
    if r.arr ≤ c ∧ !r.taken ∧ d.held r < 16 ∧ s.accepts (if r.near then 1 else 2) n c then
      { d with wait := d.wait.map (fun x => if x.no = r.no then { x with taken := true } else x) } else d
  let d := d.wait.foldl enter d
  let go := fun (d : SliceSt) (r : PortReq) => if r.taken ∧ s.mayIssue n d r c then d.issue r c else d
  let d := (d.wait.filter (fun r => r.near) ++ d.wait.filter (fun r => !r.near)).foldl go d
  { d with now := c + 1, live := d.live.filter (fun u => decide (c < u.done) || u.bank.any (fun b => decide (c < b.2))) }

/-- The ports run for k cycles, or until no request waits. -/
def State.portRun (s : State) (n : Nat) : Nat → SliceSt → SliceSt
  | 0, d => d
  | k + 1, d => if d.wait = [] then d else s.portRun n k (s.portCycle n d)

/-- The completion of request `no` within k cycles, as things stand: a request that comes later may still pass it. -/
def State.doneAt (s : State) (n no : Nat) : Nat → SliceSt → Option Nat
  | 0, _ => none
  | k + 1, d =>
    let e := s.portCycle n d
    match e.live.find? (fun u => u.no = no) with
    | some u => some u.done
    | none => s.doneAt n no k e

/-- A request of a line reaches its port at cycle `cyc`: all that came before have issued by then as the rules let them, and it waits in its
turn. The answer is the cycle of completion if no later request passes it; none comes while a row copy holds it. A line never written
is read without bank or bus, and its first partial write takes the whole-word time (R109). -/
def State.lineRequest (s : State) (n off cyc : Nat) (k : AccKind) (near : Bool) : State :=
  let d0 := s.sliceOf n
  let d1 := s.portRun n (cyc - d0.now) d0
  let now := max d0.now cyc
  let r : PortReq := { no := d1.nextReq, near := near, off := off, kind := k, arr := now,
                       fresh := !NSet.has s.mem.sliceValid (1048576 * n + off / 256) }
  let d := { d1 with now := now, wait := d1.wait ++ [r], nextReq := d1.nextReq + 1 }
  let s := (s.updSlice n (fun _ => d)).count n ((if near then 5 else 7) + (if r.rd then 0 else 1)) 1
  { s with out := match s.doneAt n r.no (1024 * (4 * d.wait.length + 8)) d with
                  | some c => .reg (BitVec.ofNat 64 c)
                  | none => .none }

/-- NEAR_REQUEST (R111). -/
def execNearRequest (s off cyc : Nat) (k : AccKind) (st : State) : Ans :=
  run (inStall s) (st.lineRequest s (off % unit256) cyc k true)

/-- FOREIGN_REQUEST (R110). -/
def execForeignRequest (s off cyc : Nat) (k : AccKind) (st : State) : Ans :=
  run (inStall s) (st.lineRequest s (off % unit256) cyc k false)

/-! ## Spare rows (R118 to R120) -/

/-- Spare rows of a port in the order they are taken: rows 1,016 to 1,019, then donor rows from the highest ROW down. -/
def spareOrder (port d : Nat) : List Nat :=
  let rows := [1016, 1017, 1018, 1019] ++ (List.range d).map (fun i => 1015 - i)
  rows.flatMap (fun r => [0, 1].flatMap (fun ls => (List.range 16).map (fun b => (2 * port + ls) * 16384 + b * 1024 + r)))

/-- A row takes part in the map as a retired row or as a spare in use. -/
def SliceSt.taken (d : SliceSt) (row : Nat) : Bool := d.map.any (fun e => e.row = row || e.spare = some row)

def SliceSt.freeSpares (d : SliceSt) (port : Nat) : List Nat := (spareOrder port d.d).filter (fun r => !d.taken r)

end Sys2Proof.Machine
end

