-- ==== Sys2Proof/Machine/StallRegs.lean ====
section
/-!
DEFINITION. What the registers of a stall's set-up block read (22 R481; 05, 06, 07, 10, 15, 20), and what a retired stall keeps of them
(22 R476).
-/
namespace Sys2Proof.Machine

/-! ## Stall states (15 R327) -/

def stallPwrOff (n : Nat) : Nat := stallBase n + 0x310

/-- STALLPWR.STATE: 0 ACTIVE, 1 IDLE, 2 GATED, 3 OFF. -/
def State.pwrState (s : State) (n : Nat) : Nat :=
  let st := s.stall n
  if (s.pt.active.owner n).isNone ∨ s.stallOut n then 3
  else if threads4.any (fun k => (st.thread k).st ≠ .off) ∨ [0, 1].any (fun i => (Tab.get {} st.port i : Porter).busy) then 0
  else if st.gated then 2
  else 1

/-! ## The registers -/

/-- The half of a 64-bit value at an offset. -/
def halfAt (w : Word) (off : Nat) : W32 := if off % 8 = 4 then (w >>> 32).setWidth 32 else w.setWidth 32

/-- A bit list as a number, bit i from the i-th. -/
def bitsFrom (l : List Bool) : Nat := l.foldr (fun b n => ofBool b + 2 * n) 0

/-- STALLSTAT (06). -/
def Stall.statWord (st : Stall) : W32 :=
  BitVec.ofNat 32 (
    bitsFrom (threads4.map (fun k => (st.thread k).st = .run)) +
      16 * bitsFrom (threads4.map (fun k => (st.thread k).st ≠ .run && (st.thread k).st ≠ .off)) +
      256 * bitsFrom [st.saving, st.saved, st.restoreErr] + 65536 * (st.lastCause % 256))

/-- ARRAYSTAT (07). -/
def ArraySt.statWord (a : ArraySt) : W32 :=
  BitVec.ofNat 32 (ofBool a.loaded + 2 * (a.wfmt % 16) + 32 * (a.scale % 32) + 1024 * ofBool a.cold)

/-- SLICESTAT (05). -/
def SliceSt.statWord (d : SliceSt) : Word :=
  pack [((d.freeSpares 0).length, 0, 12), ((d.freeSpares 1).length, 12, 12), ((d.freeSpares 2).length, 24, 12),
    ((d.freeSpares 3).length, 36, 12), (bitsFrom (threads4.map (fun k => (Tab.find d.erased k).isSome)), 48, 4),
    (ofBool (d.map.any (fun e => e.spare = none)), 52, 1), (ofBool d.unavail, 53, 1)]

/-- A 48-bit counter of stall n by its CNTOVF bit. -/
def Stall.counter (st : Stall) (b : Nat) : Word := (Tab.get (0 : BitVec 48) st.cnt b).setWidth 64

/-- A 64-bit register of the block, with its value. -/
def State.stallWide (s : State) (n r : Nat) : Option Word :=
  let st := s.stall n
  match r with
  | 0x20 => some (st.counter 0)
  | 0x28 => some (st.counter 1)
  | 0x30 => some (st.counter 2)
  | 0x110 => some (st.counter 3)
  | 0x118 => some (st.counter 4)
  | 0x208 => some (s.sliceOf n).statWord
  | 0x210 => some (pack [((s.sliceOf n).u, 0, 28), (min (s.sliceOf n).retired 0xFFFFFFFF, 32, 32)])
  | 0x400 => some (s.rw64 (stallBase n + r))
  | 0x408 => some (s.rw64 (stallBase n + r))
  | 0x410 => some (s.rw64 (stallBase n + r))
  | 0x418 => some (s.rw64 (stallBase n + r))
  | 0x420 => some (s.rw64 (stallBase n + r))
  | 0x438 => some st.sel.wptr
  | 0x440 => some st.sel.rptr
  | 0x448 => some (st.counter 9)
  | 0x500 => some (st.counter 5)
  | 0x508 => some (st.counter 6)
  | 0x510 => some (st.counter 7)
  | 0x518 => some (st.counter 8)
  | _ => none

/-- A 32-bit register of the block, with its value. -/
def State.stallNarrow (s : State) (n r : Nat) : Option W32 :=
  let st := s.stall n
  let b := stallBase n + r
  match r with
  | 0x0 => some (BitVec.ofNat 32 (n + 256))
  | 0x8 => some (BitVec.ofNat 32 (ofBool st.saving + 4 * ofBool st.halting) ||| (s.rw32 b &&& 8))
  | 0x10 => some st.statWord
  | 0x18 => some (BitVec.ofNat 32 (ofBool (st.pendSlice || st.armSlice.isSome || st.pendArr || st.pendSeed)))
  | 0x100 => some (s.rw32 b)
  | 0x104 => some (s.rw32 b)
  | 0x108 => some st.arr.statWord
  | 0x200 => some (s.rw32 b)
  | 0x300 => some (BitVec.ofNat 32 (fld32 (s.rw32 b) 0 6 + 256 * (st.clk.cur % 64) + 16384 * ofBool st.clk.slewing))
  | 0x310 => some (BitVec.ofNat 32 (s.pwrState n + (Config.vbase n - 500) % 256 * 65536) ||| (s.rw32 b &&& 0xFF04))
  | 0x428 => some (s.rw32 b &&& 7)
  | 0x430 => some (BitVec.ofNat 32 (st.sel.st % 4 + 4 * ofBool st.sel.err))
  | 0x580 => some st.cntovf
  | _ => none

/-- The register dword at offset r of stall n's block: none where no register lies. -/
def State.stallLive (s : State) (n r : Nat) : Option W32 :=
  match s.stallWide n (r / 8 * 8) with
  | some w => some (halfAt w r)
  | none => s.stallNarrow n r

/-- The offsets of the block's registers, by dword. -/
def stallOffs : List Nat :=
  [0x0, 0x8, 0x10, 0x18, 0x20, 0x24, 0x28, 0x2C, 0x30, 0x34, 0x100, 0x104, 0x108, 0x110, 0x114, 0x118, 0x11C, 0x200, 0x208, 0x20C, 0x210,
    0x214, 0x300, 0x310, 0x400, 0x404, 0x408, 0x40C, 0x410, 0x414, 0x418, 0x41C, 0x420, 0x424, 0x428, 0x430, 0x438, 0x43C, 0x440, 0x444,
    0x448, 0x44C, 0x500, 0x504, 0x508, 0x50C, 0x510, 0x514, 0x518, 0x51C, 0x580]

/-- What a stall that retires keeps (22 R476). -/
def State.keepBlock (s : State) (n : Nat) : State :=
  { s with kept := Tab.set s.kept n (stallOffs.map (fun r => (r, (s.stallLive n r).getD 0))) }

/-- What a stall that was retired before the start reads: reset values, and STATE OFF. -/
def resetDword (n r : Nat) : W32 :=
  let v := (State.reset.stallLive n r).getD 0
  if r = 0x310 then v ||| 3 else if r = 0x208 ∨ r = 0x20C then 0 else v

/-- Stall n is retired (17 R385). -/
def State.retired (s : State) (n : Nat) : Bool := (s.fpOf n).state = 1 || (s.fpOf n).state = 2

/-- What the dword at offset r of stall n's block reads (22 R476). -/
def State.stallDword (s : State) (n r : Nat) : W32 :=
  if s.retired n then
    match Tab.find s.kept n with
    | some t => Tab.get 0 t r
    | none => resetDword n r
  else if !(s.hall (hallOf n)).up || (s.hall (hallOf n)).cutoff then 0
  else (s.stallLive n r).getD 0

end Sys2Proof.Machine
end

