-- ==== Sys2Proof/Machine/Floor.lean ====
section
/-!
DEFINITION. What every block's events share: the floor-plan event (17 R386), the defect list (17 R374 to R379), the thermal and power logs
(15, 16), the lifetime ledger's counters (18 R406), a stall's effective step (15 R333), and stalls that retire or are fenced (12 R273, 13 R285,
18 R403).
-/
namespace Sys2Proof.Machine

/-! ## Logs -/

/-- Send a message to the coolant controller (16 R354): command, sequence number, payload from byte 2 on. -/
def State.coolMsg (s : State) (cmd : Nat) (data : List Byte) : State :=
  if bit32 (s.rw32 0x20C40C) 8 then
    { s with cool := { s.cool with seq := (s.cool.seq + 1) % 256 } }.send (.mctp cmd (toLE 1 cmd ++ toLE 1 s.cool.seq ++ data))
  else s

/-- A thermal log entry and its THERMAL_EVENT (16 R354, R364). -/
def State.thLog (s : State) (cause hall : Nat) (reading : Int) : State :=
  let c := s.cool
  let overrun := (Tab.find c.log c.next).isSome
  let c' : CoolSt := { c with
    log := Tab.set c.log c.next ⟨s.time, cause, hall, reading⟩, next := (c.next + 1) % 64,
    overrun := if overrun then stick c.overrun 0xFFFF else c.overrun }
  let s := { s with cool := c' }.coolMsg 5 (toLE 2 0 ++ toLE 1 cause ++ toLE 1 hall)
  if [3, 6, 7, 8, 10, 11].contains cause then s.raiseAll else s

def State.rail (s : State) (r : Nat) : Rail := Tab.get {} s.pwr.rail r

def State.updRail (s : State) (r : Nat) (f : Rail → Rail) : State :=
  { s with pwr := { s.pwr with rail := Tab.set s.pwr.rail r (f (s.rail r)) } }

/-- A power log entry (15). -/
def State.pwrLog (s : State) (cause rail cap : Nat) : State :=
  let w := s.pwr
  let overrun := (Tab.find w.log w.next).isSome
  let s := { s with pwr := { w with
      log := Tab.set w.log w.next ⟨s.time, cause, rail, cap, min ((s.rail rail).iread / 10) 255⟩, next := (w.next + 1) % 64,
      overrun := if overrun then stick w.overrun 0xFFFF else w.overrun } }
  if [1, 2, 4].contains cause then s.raiseAll else s

/-! ## The calendar (18 R411) -/

/-- The calendar in ns (18 R411). -/
def State.calendar (s : State) : Int := s.time + s.ledger.offset

/-- Calendar seconds of a retirement; bit 63 marks an unsynchronised calendar. -/
def State.retireTime (s : State) : Nat := (s.calendar / 1000000000).toNat % 2 ^ 63 + 2 ^ 63 * ofBool s.ledger.unsynced

/-! ## The defect list (17 R374 to R379) -/

/-- CRC-7 over a byte, most significant bit first. -/
def crc7Byte (c : Nat) (b : Byte) : Nat :=
  (List.range 8).foldl (fun c i =>
    let top := bitsOf c 6 1 ^^^ bitsOf b.toNat (7 - i) 1
    (c * 2 % 128) ^^^ (if top = 1 then 9 else 0)) c

/-- A record (R375). -/
def dlRec (kind source payload : Nat) : Word :=
  let low := kind + source * 16 + payload
  BitVec.ofNat 64 (low + ((toLE 7 low).foldl crc7Byte 0) * 2 ^ 56)

def recKind (r : Word) : Nat := fld r 0 4

/-- An earlier slot with COMMIT 1 or a failing CRC-7 is ignored (R376), a reserved KIND too (R375). -/
def recOk (r : Word) : Bool :=
  !bit r 63 && fld r 56 7 = (toLE 7 r.toNat).foldl crc7Byte 0 && decide (1 ≤ recKind r ∧ recKind r ≤ 10)

/-- The current copy is B (R374). -/
def DlSt.inB (d : DlSt) : Bool := d.b.valid && (!d.a.valid || serialLt d.a.gen d.b.gen)

def DlSt.cur (d : DlSt) : DlCopy := if d.inB then d.b else d.a

/-- Program records into the current copy; without a valid copy, copy A with DLGEN 1 comes first (R374). -/
def DlSt.write (d : DlSt) (l : List Word) : DlSt :=
  if d.inB then { d with b := { d.b with recs := d.b.recs ++ l } }
  else { d with a := { valid := true, gen := if d.a.valid then d.a.gen else 1, recs := (if d.a.valid then d.a.recs else []) ++ l } }

/-- Append a record, held in gatehouse SRAM while the flash fails or no member of the platform pair is active (R379, 18 R400). -/
def State.dlAppend (s : State) (r : Word) : State :=
  let d := s.dl
  if d.fault ∨ d.held ≠ [] ∨ !s.pairActive 1 then { s with dl := { d with held := d.held ++ [r] } }
  else { s with dl := d.write [r] }

/-- A physical row as a record gives it: ROW, BANK, layer. -/
def rowField (row : Nat) : Nat := row % 1024 + row / 1024 % 16 * 1024 + row / 16384 * 16384

def srowRec (source n row spare : Nat) : Word := dlRec 1 source (n * 2 ^ 8 + rowField row * 2 ^ 16 + rowField spare * 2 ^ 33)
def bondRec (source n port sym : Nat) : Word := dlRec 2 source (n * 2 ^ 8 + port * 2 ^ 16 + sym * 2 ^ 18)
def stallRecord (source n cause : Nat) : Word := dlRec 3 source (n * 2 ^ 8 + cause * 2 ^ 16)
def frowRec (source ch row spare : Nat) : Word := dlRec 4 source (ch * 2 ^ 8 + row * 2 ^ 13 + spare * 2 ^ 33)
def fchanRec (source ch : Nat) : Word := dlRec 5 source (ch * 2 ^ 8)
def fwayRec (source set way : Nat) : Word := dlRec 6 source (set * 2 ^ 8 + way * 2 ^ 23)
def laneRec (source l g dir lane : Nat) (lost : Bool) : Word :=
  dlRec 7 source (l * 2 ^ 8 + g * 2 ^ 12 + dir * 2 ^ 16 + lane * 2 ^ 17 + ofBool lost * 2 ^ 23)
def modidRec (source m : Nat) (serial : W32) : Word := dlRec 8 source (m * 2 ^ 8 + serial.toNat * 2 ^ 10)
def routerRec (source h r : Nat) : Word := dlRec 9 source (h * 2 ^ 8 + r * 2 ^ 10)
def bootoptRec (source cfg : Nat) : Word := dlRec 10 source (cfg % 8 * 2 ^ 8)

/-! ## Frequency steps (15 R332 to R334; 10 R213) -/

/-- The highest step that `mv` covers for stall n (R332). -/
def coverCap (n mv : Nat) : Nat := if mv < Config.vbase n + 30 then 7 else 8 + (mv - 30 - Config.vbase n) / 5

/-- The thermal cap of a hall (16 R357, R358). -/
def HallSt.thermal (x : HallSt) : Nat := if x.clamp then 8 else x.cap

/-- The effective step of stall n (R333), no lower than 8. -/
def State.effStep (s : State) (n : Nat) : Nat :=
  let h := hallOf n
  let f := fld32 (s.rw32 (stallBase n + 0x300)) 0 6
  max 8 (min (min (min f (coverCap n (s.rail h).cov)) (min (s.rail h).cap s.pwr.cap)) (s.hall h).thermal)

/-- The clock of stall n heads for its effective step. -/
def State.reslew (s : State) (n : Nat) : State :=
  let c := (s.stall n).clk
  let e := s.effStep n
  if e = (if c.slewing then c.target else c.cur) then s
  else s.updStall n (fun st => { st with clk := { c with slewing := e ≠ c.cur, target := e } })

def State.reslewHall (s : State) (h : Nat) : State := ((List.range 64).map (fun i => 64 * h + i)).foldl State.reslew s

def State.reslewAll (s : State) : State := allStalls.foldl State.reslew s

/-- The rate of stall n's clock changes: CYCLE goes on from where it is. -/
def State.setClk (s : State) (n : Nat) (f : ClkSt → ClkSt) : State :=
  let b := s.cycle n
  (s.updStall n (fun st => { st with clk := { f st.clk with base := b, at_ := s.time } })).selFreq n (s.stall n).clk.cur

/-! ## Jisan's slots (13 R285; 18 R403) -/

/-- The items of a pitch that are requests of slot k. -/
def State.slotItems (s : State) (p k : Nat) : Item → Bool := fun i =>
  i.p = p && i.type = 6 && (match (s.jis1 p).req i.r i.seq with | some q => q.slot = k | none => false)

/-- The requests of a slot end, its step stops, and it becomes STALE. -/
def State.slotStale (s : State) (p k st : Nat) : State :=
  let s := if (s.jis1 p).run.any (fun x => x.slot = k) then
      (s.haltWork (.jisan p)).updJis p (fun j => { j with run := none }) else s
  let s := s.endItems (s.slotItems p k) st
  s.updJis p (fun j => { j with
    slot := Tab.set j.slot k { j.slotOf k with st := 3 },
    sess := j.sess.map (fun x => if x.slot = k then { x with kv := 0, blocks := [] } else x),
    mig := j.mig.filter (fun x => x.1 ≠ k) })

/-- A LOAD in progress ends with a status, the slot EMPTY (13 R283; 21 R465). -/
def State.loadEnds (s : State) (p k st : Nat) : State :=
  s.updJis p (fun j => { j with slot := Tab.del j.slot k, lastStatus := st, lastSlot := k })

/-- The READY slots of pitch p with stall n as a logical stall, with its index. -/
def State.slotsWith (s : State) (p n : Nat) : List (Nat × Nat) :=
  (s.jis1 p).slot.filterMap (fun e =>
    if e.2.st = 2 then (e.2.stalls.findIdx? (· = n)).map (fun j => (e.1, j)) else none)

/-- A stall good for work: floor plan STATE 0 and its slice available. -/
def State.goodStall (s : State) (n : Nat) : Bool := (s.fpOf n).state = 0 && !(s.sliceOf n).unavail

/-- The spare for logical stall n of a slot (R403): the lowest window index in the same hall, failing that the lowest window index. -/
def State.spareFor (s : State) (p k n : Nat) : Option Nat :=
  let sl := (s.jis1 p).slotOf k
  let u := (sl.stalls.map (fun m => (s.sliceOf m).u)).foldl min 0x10000000
  let used := (s.jis1 p).slot.flatMap (fun e => if e.2.st = 2 then e.2.stalls else []) ++ (s.jis1 p).mig.map (fun x => x.2.2)
  let l := (List.range 256).filterMap (fun w => s.pt.active.stallAt p w)
  let ok := fun m => s.goodStall m && !used.contains m && decide (u ≤ (s.sliceOf m).u)
  (l.find? (fun m => ok m && hallOf m = hallOf n)) <|> (l.find? ok)

/-- Logical index i of slot k, whose stall n has retired, migrates to a spare, or the slot becomes STALE (R285). The step in progress
stops, its sequences keep their state from before it. -/
def State.migrate (s : State) (p k i n : Nat) : State :=
  match s.spareFor p k n with
  | some m =>
    if (s.sliceOf n).unavail ∨ bitsOf s.fw.disable 11 1 = 1 ∨ !s.jisanRuns then s.slotStale p k 0x11
    else (s.haltWork (.jisan p)).updJis p (fun j => { j with run := none, mig := j.mig ++ [(k, i, m)] })
  | none => s.slotStale p k 0x11

/-- A stall retires: each READY slot that has it as a logical stall migrates or becomes STALE, and a migration that it was the spare of
starts again with another. -/
def State.jisStallGone (s : State) (n : Nat) : State :=
  allPitches.foldl (fun s p =>
    let l := (s.jis1 p).mig.filter (fun x => x.2.2 = n)
    let s := s.updJis p (fun j => { j with mig := j.mig.filter (fun x => x.2.2 ≠ n) })
    let s := l.foldl (fun s x => s.migrate p x.1 x.2.1 (((s.jis1 p).slotOf x.1).stalls.getD x.2.1 0)) s
    (s.slotsWith p n).foldl (fun s x => s.migrate p x.1 x.2 n) s) s

/-! ## Stalls that leave service -/

/-- The items that an event at stall n ends: those that name it or use its window (21 R452). -/
def State.usesStall (s : State) (n : Nat) : Item → Bool := fun i => i.type ≠ 6 && (s.itemStalls i).contains n

/-- What ends when stall n leaves service with a status, Jisan's slots apart. -/
def State.stallEnds (s : State) (n st : Nat) : State :=
  (s.slotsEnd st (fun m => m = n)).endItems (s.usesStall n) st

/-- A stall retires in service (12 R273): halted, its items end, the floor plan, log, defect list and ledger record it. -/
def State.retireStall (s : State) (n cause : Nat) : State :=
  if (s.fpOf n).state = 1 ∨ (s.fpOf n).state = 2 then s
  else
    let s := (s.stallEnds n 0x11).halt n
    let s := { s with fp := Tab.set s.fp n { state := 2, cause := cause } }.keepBlock n
    let s := (s.jisStallGone n).logEvent (mkEnt 11 0 5 (s.pt.active.owner n) n (unit256 * n)) (s.ldFor (s.pt.active.owner n))
    let s := (s.ledgerSet (stallRec n 5) s.retireTime).ledgerSet (stallRec n 6) cause
    (s.dlAppend (stallRecord 4 n cause)).fpEvent

/-- Stalls of a hall are fenced with a cause: good ones become fenced and stop (17 R385); `st` is the status of what ends. -/
def State.fenceHall (s : State) (h cause st : Nat) : State :=
  let l := ((List.range 64).map (fun i => 64 * h + i)).filter (fun n => (s.fpOf n).state = 0)
  let s := s.slotsEnd st (fun m => hallOf m = h)
  let s := s.endItems (fun i => i.type ≠ 6 && (s.itemStalls i).any (fun n => hallOf n = h)) st
  let s := allPitches.foldl (fun s p =>
    let moving := fun k => (s.jis1 p).mig.any (fun x => x.1 = k && hallOf x.2.2 = h)
    let hit := fun (e : Nat × JSlot) => moving e.1 || e.2.stalls.any (fun n => hallOf n = h)
    let s := ((s.jis1 p).slot.filter (fun e => e.2.st = 2 && hit e)).foldl (fun s e => s.slotStale p e.1 st) s
    ((s.jis1 p).slot.filter (fun e => e.2.st = 1 && hit e)).foldl (fun s e => s.loadEnds p e.1 st) s) s
  l.foldl (fun s n => { s.halt n with fp := Tab.set s.fp n { state := 3, cause := cause } }) s

/-! ## A hall with no live link (10 R223) -/

/-- Every watch on a tally of hall h fails with a status, and every operation on its way there, which then never reaches its tally; those
of the owners `keep` apart (09 R195, R208, R209). -/
def State.hallWatches (s : State) (h st : Nat) (keep : TOwner → Bool) : State :=
  let gone := fun (o : TOp) => o.dev.isNone && o.id / 65536 = h && !keep o.owner
  let l := s.tally.flight.filter (fun o => gone o && !o.dead)
  let s := { s with tally := { s.tally with flight := s.tally.flight.filter (fun o => !gone o) } }
  let s := ((s.tally.watches.filter (fun w => w.id / 65536 = h)).map (·.id)).foldl (fun s id => s.failWatches id st keep) s
  l.foldl (fun s o => s.tallyFail o.owner o.op o.id st) s

/-- A hall is cut off: fenced, its slices unavailable, its tallies unreachable from outside (09 R209). -/
def State.cutOff (s : State) (h : Nat) : State :=
  if (s.hall h).cutoff then s
  else
    let s := (s.updHall h (fun x => { x with cutoff := true, up := false })).fenceHall h 8 0x11
    let out := s.tally.watches.filter (fun w => w.id / 65536 = h && ownerHall w.owner ≠ some h)
    let s := { s with tally := { s.tally with stale := s.tally.stale ++ out } }
    (s.hallWatches h 0x11 (fun o => ownerHall o = some h)).fpEvent

/-! ## Checkpoints (18 R393, R395; 21 R457) -/

def State.pair (s : State) (q : Nat) : PairSt := Tab.get {} s.svc.pair q

def State.updPair (s : State) (q : Nat) (f : PairSt → PairSt) : State :=
  { s with svc := { s.svc with pair := Tab.set s.svc.pair q (f (s.pair q)) } }

/-- An entry is free once its item has ended and its JSEQ precedes JPOS. -/
def State.freeJournal (s : State) (jpos : W32) : State :=
  { s with svc := { s.svc with
      jr := s.svc.jr.filter (fun e => (s.item e.pitch e.ring e.seq).isSome || !serialLt e.jseq jpos) } }

/-- The active member of pair q commits a checkpoint into the buffer that the last marker does not name; blocks of moved sequences are
released. -/
def State.commitCkpt (s : State) (q : Nat) : State :=
  if !s.pairActive q then s
  else
    let x := s.pair q
    let jpos := s.svc.jnext - 1
    let c : CkPt := {
      gen := x.cgen + 1, jpos := jpos, preset := allPitches.map (fun p => (p, (s.pctl p).presetgen)),
      jis := if q = 0 then s.jis else [] }
    let s := s.updPair q (fun x => { x with
      cgen := x.cgen + 1, last := 1 - x.last,
      a := if x.last = 0 then x.a else some c, b := if x.last = 0 then some c else x.b })
    if q = 0 then { s.freeJournal jpos with jis := s.jis.map (fun e => (e.1, { e.2 with rel := [] })) } else s

end Sys2Proof.Machine
end

