-- ==== Sys2Proof/Machine/Integrity.lean ====
section
/-!
DEFINITION. Data integrity (12): the classification of errors, counting windows and thresholds, retirement of rows, erasure of bonds, far
rows and channels, read-backs, packets, patrol scrubbing, valid-bit stores, the event log's read marks.
-/
namespace Sys2Proof.Machine

/-! ## The word an event lies in -/

/-- UNIT of the event log. -/
def unitCode : EUnit → Nat
  | .slice .. => 0
  | .far _ => 1
  | .shelf .. => 2
  | .tile .. => 3
  | .tally _ => 4
  | .fcache .. => 5
  | .vstore .. => 6
  | .fvstore _ => 6
  | .ibuf .. => 10
  | .gsram _ => 9

/-- The physical row that a slice offset reaches: the row itself or its spare (05 R118). -/
def State.rowAt (s : State) (n off : Nat) : Nat :=
  match (s.sliceOf n).map.find? (fun e => e.row = physRow off) with
  | some e => if e.copying then e.row else e.spare.getD e.row
  | none => physRow off

/-- LOC and ADDR of an entry, with `sym` the symbol or bit. -/
def State.unitLoc (s : State) (u : EUnit) (sym : Nat) : Nat × Nat :=
  match u with
  | .slice n off => (n + portOf off * 2 ^ 8 + sym * 2 ^ 16, unit256 * n + off)
  | .far o => ((s.chanOf o).1 + sym * 2 ^ 16, o)
  | .shelf n off => (n + sym * 2 ^ 16, 2097152 * n + off)
  | .tile n t r _ => (n + sym * 2 ^ 16, n * 2 ^ 8 + t * 2 ^ 3 + r / 4)
  | .ibuf n w => (n + sym * 2 ^ 16, w)
  | .tally id => (id / 65536 + sym * 2 ^ 16, id)
  | .fcache set way _ => (sym * 2 ^ 16, set * 16 + way)
  | .vstore n blk => (n + sym * 2 ^ 16, unit256 * n + 131072 * blk)
  | .fvstore blk => (sym * 2 ^ 16, 131072 * blk)
  | .gsram a => (sym * 2 ^ 16, a)

def symbolUnit : EUnit → Bool
  | .slice .. => true
  | .far _ => true
  | .fcache .. => true
  | _ => false

/-- The line a far cache way holds. -/
def State.wayLine (s : State) (set way : Nat) : Option Nat := ((Tab.get [] s.far.cache set).find? (fun w => w.way = way)).map (fun w => w.line)

/-- The stored word is poisoned (R258). -/
def State.unitPois (s : State) : EUnit → Bool
  | .slice n off => NSet.has s.mem.slicePois ((unit256 * n + off) / 32)
  | .far o => NSet.has s.mem.farPois (o / 32)
  | .shelf n off => NSet.has s.mem.shelfPois (shelfAddr n off / 8)
  | .tile n t r w => NSet.has (s.stall n).rowPois (8 * rowKey t r + w)
  | .ibuf n w => NSet.has (s.stall n).ibPois w
  | .tally id => NSet.has s.tally.pois id
  | .fcache set way w => (s.wayLine set way).any (fun l => NSet.has s.mem.farPois (8 * l + w))
  | .gsram a => NSet.has s.integ.gsPois (a / 8)
  | _ => false

/-- The 32 data bytes of a symbol word as they are stored; a far cache line's are those of its far line. -/
def State.unitBytes (s : State) : EUnit → List Byte
  | .slice n off => Mem.rdBytes s.mem.slice ((unit256 * n + off) / 32 * 32) 32
  | .far o => Mem.rdBytes s.mem.far (o / 32 * 32) 32
  | .fcache set way w => (match s.wayLine set way with | some l => Mem.rdBytes s.mem.far (256 * l + 32 * w) 32 | none => zeros 32)
  | _ => zeros 32

/-- A symbol word with its check symbols (R255): every stored word is one that the encoder of R256 made, or the poisoned word of R258. Where
they lie in a far channel is checkPlace's to say. -/
def State.codeword (s : State) (u : EUnit) : List Sym := if s.unitPois u then poisonWord else symEncode (symsOf (s.unitBytes u))

/-- Channel, check line and first byte of the four check bytes of the far word at offset o (R255). -/
def State.checkPlace (s : State) (o : Nat) : Nat × Nat × Nat :=
  let c := s.chanOf o
  (c.1, linesN s.far.chcap + c.2 / 8, 32 * (c.2 % 8) + 4 * (o / 32 % 8))

/-- Store a corrected symbol word. -/
def State.storeUnit (s : State) (u : EUnit) (b : List Byte) : State :=
  let far := fun (a : Nat) => { s with mem := { s.mem with far := Mem.wrBytes s.mem.far a b, farPois := NSet.del s.mem.farPois (a / 32) } }
  match u with
  | .slice n off =>
    let a := (unit256 * n + off) / 32 * 32
    { s with mem := { s.mem with slice := Mem.wrBytes s.mem.slice a b, slicePois := NSet.del s.mem.slicePois (a / 32) } }
  | .far o => far (o / 32 * 32)
  | .fcache set way w => (match s.wayLine set way with | some l => far (256 * l + 32 * w) | none => s)
  | _ => s

/-- A word whose DRAM is never read: a line never written (R259). -/
def State.unitFresh (s : State) : EUnit → Bool
  | .slice n off => !NSet.has s.mem.sliceValid ((unit256 * n + off) / 256)
  | .far o => !NSet.has s.mem.farValid (o / 256)
  | _ => false

def State.erasedAt (s : State) (u : EUnit) : Option Nat :=
  match u with
  | .slice n off => Tab.find (s.sliceOf n).erased (portOf off)
  | _ => none

/-- What reading the word with errors `e` reports: symbols of a symbol word, or the wrong bits of a SEC-DED word, where the outcome of three
or more, and of two on a poisoned word, is a free value (R254). -/
def State.readWord (s : State) (u : EUnit) (e : List (Nat × BitVec 16)) : Dec :=
  if symbolUnit u then (decodeWord (s.erasedAt u) (addErr (s.codeword u) e)).1
  else
    match decodeBits (s.unitPois u) e.length with
    | some (.corrected _) => .corrected ((e.map (·.1)).headD 0)
    | some d => d
    | none => match s.freeBelow 4 with
      | 0 => .clean
      | 1 => .corrected ((e.map (·.1)).headD 0)
      | 2 => .uncorrectable
      | _ => .poisoned

/-- The word that a corrected read with errors `e` returns is what is stored again (R256, R267): of an error in two symbols that the decoder
takes for one, data that is wrong. -/
def State.rewritten (s : State) (u : EUnit) (e : List (Nat × BitVec 16)) : State :=
  let d := decodeWord (s.erasedAt u) (addErr (s.codeword u) e)
  if !symbolUnit u ∨ symBytes d.2 = s.unitBytes u ∧ !s.unitPois u then s else s.storeUnit u (symBytes d.2)

def State.poisonBlock (s : State) (far : Bool) (blk : Nat) : State := { s with mem := s.mem.poisonBlock far blk }

/-- The backing copy of a valid-bit block is clean: it holds what the store does. -/
def State.blockClean (s : State) (far : Bool) (blk : Nat) : Bool :=
  let inBlk := fun (l : NSet) => l.filter (fun x => x / 512 = blk)
  if far then inBlk s.mem.farValid = inBlk s.mem.farBack else inBlk s.mem.sliceValid = inBlk s.mem.sliceBack

/-- The word is stored poisoned (R258). A valid-bit block is loaded again from a clean backing copy, or its lines are poisoned (R263). -/
def State.poisonUnit (s : State) (u : EUnit) : State :=
  let m := s.mem
  match u with
  | .slice n off =>
    let a := (unit256 * n + off) / 32
    { s with mem := { m with slice := Mem.clear m.slice (a * 32) 32, slicePois := NSet.add m.slicePois a, sliceUe := NSet.add m.sliceUe a } }
  | .far o => { s with mem := { m with
      far := Mem.clear m.far (o / 32 * 32) 32, farPois := NSet.add m.farPois (o / 32), farUe := NSet.add m.farUe (o / 32) } }
  | .shelf n off =>
    let a := shelfAddr n off / 8
    { s with mem := { m with shelf := Mem.clear m.shelf (a * 8) 8, shelfPois := NSet.add m.shelfPois a, shelfUe := NSet.add m.shelfUe a } }
  | .tile n t r w => s.updStall n (fun st =>
      let v := (st.row t r).toNat
      let old := bitsOf v (64 * w) 64
      { st with rows := Tab.set st.rows (rowKey t r) (BitVec.ofNat 512 (v - old * 2 ^ (64 * w))), rowPois := NSet.add st.rowPois (8 * rowKey t r + w) })
  | .ibuf n w => s.updStall n (fun st => { st with ibPois := NSet.add st.ibPois w })
  | .tally id => s.poisonTally id
  | .fcache set way w =>
    match s.wayLine set way with
    | some l =>
      let a := 8 * l + w
      { s with mem := { m with far := Mem.clear m.far (a * 32) 32, farPois := NSet.add m.farPois a, farUe := NSet.add m.farUe a } }
    | none => s
  | .vstore n blk => if s.blockClean false (2048 * n + blk) then s else s.poisonBlock false (2048 * n + blk)
  | .fvstore blk => if s.blockClean true blk then s else s.poisonBlock true blk
  | .gsram a => { s with integ := { s.integ with gsPois := NSet.add s.integ.gsPois (a / 8) } }

/-! ## The injectors (20 R449, R450) -/

/-- KIND and target of an injector that a unit is hit by. -/
def injMatch (kind addr : Nat) : EUnit → Bool
  | .slice n off => kind = 1 && addr / 32 = (unit256 * n + off) / 32
  | .far o => kind = 2 && addr / 32 = o / 32
  | .shelf n off => kind = 3 && addr / 8 = (2097152 * n + off) / 8
  | .tile n t r _ => kind = 4 && addr = n * 2 ^ 8 + t * 2 ^ 3 + r / 4
  | .tally id => kind = 5 && addr = id
  | .gsram a => kind = 8 && addr / 8 = a / 8
  | _ => false

/-- A unit of a retired or fenced stall, an unavailable slice or a stranded line: no injection is made there. -/
def State.noInject (s : State) : EUnit → Bool
  | .slice n _ => (s.sliceOf n).unavail || !(s.hall (hallOf n)).up || (s.fpOf n).state ≠ 0
  | .far o => s.stranded o
  | .shelf n _ => (s.fpOf n).state ≠ 0
  | .tile n .. => (s.fpOf n).state ≠ 0
  | .tally id => !(s.hall (id / 65536)).up
  | _ => false

/-- The armed injector whose target a unit is. -/
def State.injector (s : State) (u : EUnit) : Option Nat :=
  if s.noInject u then none
  else [0, 1, 2, 3].find? (fun i => injMatch (fld (s.rw64 (injOff i)) 0 4) (s.rw64 (injOff i + 8)).toNat u)

/-- A read of a word with errors, and whether they count toward thresholds (NOCOUNT). -/
structure InjRead where
  s : State
  e : List (Nat × BitVec 16)
  counts : Bool

/-- A read of unit u whose own errors are `e`: an injector that is due adds its errors. MODE 2 has changed the stored word, so the errors read
are the word's own, and the injection is counted where they are the ones set (log entry 119). -/
def State.injRead (s : State) (u : EUnit) (e : List (Nat × BitVec 16)) : InjRead :=
  match s.injector u with
  | none => ⟨s, e, true⟩
  | some i =>
    let c := s.rw64 (injOff i)
    let x := injErrs (symbolUnit u) c
    if fld c 4 2 ≠ 2 then ⟨s.injected i, x ++ e, !bit c 6⟩
    else if e = x then ⟨s.injected i, e, !bit c 6⟩
    else ⟨s, e, true⟩

/-! ## Counting windows (R268) -/

/-- Where a unit's tracking entry is: its hall, or the gatehouse. -/
def trackScope : TUnit → Nat
  | .row n _ => n / 64
  | .bond n _ _ => n / 64
  | .words n => n / 64
  | .router h _ => h
  | _ => 4

def hourNs : Nat := 3600000000000

/-- The window of a unit's rule (R269). -/
def trackWindow : TUnit → Nat
  | .row .. => 24 * hourNs
  | .farRow .. => 24 * hourNs
  | .way .. => 24 * hourNs
  | .words _ => 24 * hourNs
  | .router .. => 1000000000
  | _ => hourNs

/-- The unit of a scope whose newest event is oldest. -/
def oldestUnit (l : List Hit) : Option TUnit :=
  let newest := fun u => ((l.filter (fun h => h.u = u)).map (·.t)).foldl max 0
  (l.map (·.u)).foldl (fun (b : Option TUnit) u => match b with
    | some x => if newest u < newest x then some u else b
    | none => some u) none

/-- Count an event: entries whose events have left their windows are free; a new unit without a free entry displaces the one whose newest
event is oldest, which is logged. -/
def State.countHit (s : State) (h : Hit) : State :=
  let l := s.integ.hits.filter (fun x => decide (s.time < x.t + trackWindow x.u))
  let sc := l.filter (fun x => trackScope x.u = trackScope h.u)
  let units := (sc.map (·.u)).eraseDups
  let cap := if trackScope h.u = 4 then 1024 else 4096
  let full := !units.contains h.u && decide (cap ≤ units.length)
  let l := if full then (match oldestUnit sc with | some u => l.filter (fun x => x.u ≠ u) | none => l) else l
  let s := { s with integ := { s.integ with hits := l ++ [h] } }
  if full then s.logEvent (mkEnt 14 (if trackScope h.u = 4 then 1 else 0) 5 none 0 0) [] else s

/-- The counted events of a unit within `w` ns. -/
def State.hitsOf (s : State) (u : TUnit) (w : Nat) : List Hit := s.integ.hits.filter (fun h => h.u = u && decide (s.time < h.t + w))

def State.dropHits (s : State) (f : Hit → Bool) : State := { s with integ := { s.integ with hits := s.integ.hits.filter (fun h => !f h) } }

/-! ## Retirement (R271 to R274; 05 R118 to R121) -/

def State.owners (s : State) (n : Nat) : List Nat := s.ldFor (s.pt.active.owner n)

/-- A permanent-faulty row of a slice takes a spare, and its copy starts, or is held (R118, R119; 21 R458). A spare in use that fails is
replaced and never used again; a row that is retired already stays as it is. -/
def State.retireRow (s : State) (n row : Nat) : State :=
  let d := s.sliceOf n
  let port := row / 32768
  let s := s.dropHits (fun h => h.u = .row n row)
  let ent : RetEnt := { row := row, spare := none, time := s.time, copying := false }
  if d.map.any (fun e => e.row = row) then s else
  match d.freeSpares port with
  | sp :: _ =>
    let moved := d.map.map (fun e => if e.spare = some row ∧ e.row ≠ row then { e with spare := some sp, copying := true, time := s.time } else e)
    let isSpare := d.map.any (fun e => e.spare = some row && e.row ≠ row)
    let map := if isSpare then moved ++ [{ ent with spare := some row }] else d.map ++ [{ ent with spare := some sp, copying := true }]
    (s.updSlice n (fun d => { d with map := map })).dlAppend (srowRec 4 n row sp)
  | [] =>
    let held := d.map.map (fun e => if e.spare = some row ∧ e.row ≠ row then { e with spare := none } else e)
    let s := s.updSlice n (fun d => { d with map := held ++ [ent] })
    let s := s.logEvent (mkEnt 5 0 5 (s.pt.active.owner n) (n + port * 2 ^ 8) (unit256 * n + rowOff row)) (s.owners n)
    (s.dlAppend (srowRec 4 n row row)).fpEvent

/-- A bond is erased (R121); the second of a port takes the slice out and retires the stall (R271). -/
def State.eraseBond (s : State) (n port sym : Nat) : State :=
  let second := (Tab.find (s.sliceOf n).erased port).isSome
  let s := s.dropHits (fun h => h.u = .bond n port sym || (match h.u with | .row m _ => m = n && h.port = port && h.sym = sym | _ => false))
  let s := s.logEvent (mkEnt 6 0 5 (s.pt.active.owner n) (n + port * 2 ^ 8 + sym * 2 ^ 16) (unit256 * n + 256 * port)) (s.owners n)
  let s := s.dlAppend (bondRec 4 n port sym)
  if second then
    let s := (s.updSlice n (fun d => { d with unavail := true })).logEvent
      (mkEnt 7 0 5 (s.pt.active.owner n) (n + port * 2 ^ 8) (unit256 * n + 256 * port)) (s.owners n)
    s.retireStall n 5
  else (s.updSlice n (fun d => { d with erased := Tab.set d.erased port sym })).fpEvent

/-- A module in use becomes FAILED and is displaced at once where the checks pass (11 R248, R252). A displacement in progress goes on with the
lines it has left; of a restore in progress, the lines already home have to move again. -/
def State.failModule (s : State) (m : Nat) : State :=
  let x := s.module m
  if x.inUse then
    let n := x.total - x.left
    ((s.updModule m (fun x =>
      if x.state = 6 then { x with state := 7, trained := false, back := n, total := n, left := n }
      else if x.state = 3 then { x with state := 7, left := 0, total := 0, back := 0 } else { x with state := 7 })).fpEvent).autoDisplace
  else s

/-- A far channel retires (R272): recorded, its module FAILED, its lines stranded. -/
def State.retireChannel (s : State) (ch : Nat) : State :=
  let m := ch / 8
  let j := ch % 8
  if bitsOf (s.module m).retch j 1 = 1 then s
  else
    let s := (s.updModule m (fun x => { x with retch := x.retch + 2 ^ j })).logEvent (mkEnt 9 1 5 none ch 0)
      (if s.port.mld then allPitches.filter (fun p => (s.pt.active.farsize p) ≠ 0) else [0])
    (s.dlAppend (fchanRec 4 ch)).failModule m

/-- The 2 KiB row of a channel-local line (11 R237): ROW with RANK, and the bank. -/
def farRowOf (a : Nat) : Nat := a / 128 * 16 + a % 16

/-- A far row is remapped to a spare row of its channel; a channel that needs a 257th retires (R272). -/
def State.remapFarRow (s : State) (ch row off : Nat) : State :=
  let used := (s.far.repairs.filter (fun x => x.1 = ch)).length
  let s := s.dropHits (fun h => h.u = .farRow ch row)
  if 256 ≤ used then s.retireChannel ch
  else
    let s := { s with far := { s.far with repairs := s.far.repairs ++ [(ch, row)] } }
    let s := s.logEvent (mkEnt 8 1 5 none ch off) (if s.port.mld then allPitches.filter (fun p => s.pt.active.ownsFar p off) else [0])
    (s.dlAppend (frowRec 4 ch (row / 16) used)).fpEvent

/-- A far cache way is disabled, its dirty line written back first (R274). -/
def State.disableWay (s : State) (set way : Nat) : State :=
  let s := s.dropHits (fun h => h.u = .way set way)
  let s := match (Tab.get [] s.far.cache set).find? (fun w => w.way = way && w.dirty) with
    | some w => s.writeBack w.line
    | none => s
  let s := { s with far := { s.far with
      dis := NSet.add s.far.dis (set * 12 + way), cache := Tab.upd [] s.far.cache set (fun l => l.filter (fun w => w.way ≠ way)) } }
  ((s.logEvent (mkEnt 12 5 5 none 0 (set * 16 + way)) []).dlAppend (fwayRec 4 set way)).fpEvent

/-! ## Thresholds (R269) -/

/-- A hard hit or hard uncorrectable of a unit is counted, and what a threshold calls for is done. -/
def State.hardEvent (s : State) (u : EUnit) (ue : Bool) (sym : Nat) : State :=
  let mk := fun (t : TUnit) tag port => ({ u := t, t := s.time, ue := ue, tag := tag, port := port, sym := sym } : Hit)
  match u with
  | .slice n off =>
    let row := s.rowAt n off
    let port := portOf off
    let s := s.countHit (mk (.row n row) off port)
    let s := if ue then s else s.countHit (mk (.bond n port sym) row port)
    if !ue ∧ 3 ≤ ((s.hitsOf (.bond n port sym) hourNs).map (·.tag)).eraseDups.length then s.eraseBond n port sym
    else
      let l := s.hitsOf (.row n row) (24 * hourNs)
      if ue ∨ 2 ≤ l.length then s.retireRow n row else s
  | .far o =>
    let c := s.chanOf o
    let row := farRowOf c.2
    let s := s.countHit (mk (.farRow c.1 row) o 0)
    let s := s.countHit (mk (.farCh c.1) row 0)
    let l := s.hitsOf (.farCh c.1) hourNs
    let rows := fun b => ((l.filter (fun h => h.ue = b)).map (·.tag)).eraseDups.length
    if 32 ≤ rows false ∨ 8 ≤ rows true then s.retireChannel c.1
    else if ue ∨ 2 ≤ (s.hitsOf (.farRow c.1 row) (24 * hourNs)).length then s.remapFarRow c.1 row o
    else s
  | .fcache set way _ =>
    if ue then s
    else
      let s := s.countHit (mk (.way set way) 0 0)
      if 2 ≤ (s.hitsOf (.way set way) (24 * hourNs)).length then s.disableWay set way else s
  | .shelf n off =>
    let s := s.countHit (mk (.words n) (off / 8) 0)
    if ue ∨ 4 ≤ ((s.hitsOf (.words n) (24 * hourNs)).map (·.tag)).eraseDups.length then s.retireStall n 7 else s
  | .tile n t r w =>
    let s := s.countHit (mk (.words n) (2 ^ 20 + 8 * rowKey t r + w) 0)
    if ue ∨ 4 ≤ ((s.hitsOf (.words n) (24 * hourNs)).map (·.tag)).eraseDups.length then s.retireStall n 7 else s
  | .ibuf n w =>
    let s := s.countHit (mk (.words n) (2 ^ 64 + w) 0)
    if ue ∨ 4 ≤ ((s.hitsOf (.words n) (24 * hourNs)).map (·.tag)).eraseDups.length then s.retireStall n 7 else s
  | _ => s

/-- How many counted events a unit has, for COUNT of an entry. -/
def State.unitCount (s : State) (u : EUnit) : Nat :=
  match u with
  | .slice n off => (s.hitsOf (.row n (s.rowAt n off)) (24 * hourNs)).length
  | .far o => let c := s.chanOf o; (s.hitsOf (.farRow c.1 (farRowOf c.2)) (24 * hourNs)).length
  | .fcache set way _ => (s.hitsOf (.way set way) (24 * hourNs)).length
  | .shelf n _ => (s.hitsOf (.words n) (24 * hourNs)).length
  | .tile n .. => (s.hitsOf (.words n) (24 * hourNs)).length
  | .ibuf n _ => (s.hitsOf (.words n) (24 * hourNs)).length
  | _ => 0

/-! ## Who met it -/

def State.whoPitch (s : State) : EReq → Option Nat
  | .thread n _ => s.pitchOf n
  | .porter n _ => s.pitchOf n
  | .cxl ld => if s.port.mld then some ld else none
  | .window p _ => some p
  | .item p _ _ => some p
  | .caravan p => some p
  | _ => none

def State.unitLds (s : State) (u : EUnit) : List Nat :=
  if s.port.mld then
    match u with
    | .slice n _ => (match s.pt.active.owner n with | some p => [p] | none => [])
    | .far o => allPitches.filter (fun p => s.pt.active.ownsFar p o)
    | _ => []
  else [0]

/-- A unit in an unwritten line of a lost block (R262). -/
def State.unitLost (s : State) : EUnit → Bool
  | .slice n off => NSet.has s.mem.lost n && !NSet.has s.mem.sliceValid ((unit256 * n + off) / 256)
  | _ => false

/-- Write an entry about a unit. -/
def State.logUnit (s : State) (ty : Nat) (u : EUnit) (who : EReq) (sym : Nat) (synd count : Nat) (pois : Bool) : State :=
  let l := s.unitLoc u sym
  s.logEvent { mkEnt ty (unitCode u) (reqCode who) (s.whoPitch who) l.1 l.2 with
    synd := synd, count := count, pois := pois, lostb := s.unitLost u } (s.unitLds u)

/-- SYND (R277): S1 in the low half and S0 in the high half of a symbol word; of a SEC-DED word its syndrome, the poison syndrome 0x7F where
the word is poisoned and no bit wrong, and otherwise what its internal matrix gives (R254). -/
def State.syndOf (s : State) (u : EUnit) (e : List (Nat × BitVec 16)) : Nat :=
  if symbolUnit u then
    let c := addErr (s.codeword u) e
    (synd1 c).toNat + (synd0 c).toNat * 65536
  else ((if e = [] then 0 else Config.secSynd (e.map (·.1))) ^^^ (if s.unitPois u then 0x7F else 0)).toNat

/-- The item of a stall's work. -/
def State.workItem (s : State) (n : Nat) : Option (Nat × Nat × W32) :=
  match (s.stall n).work with
  | some (.item p r seq) => some (p, r, seq)
  | _ => none

/-- One corrected error that an item or window operation met itself (R266). -/
def State.countCe (s : State) (who : EReq) : State :=
  let item := fun (s : State) x => match x with
    | some (p, r, seq) => s.updItem p r seq (fun i => { i with ce := i.ce + 1 })
    | none => s
  match who with
  | .thread n _ => item s (s.workItem n)
  | .porter n _ => item s (s.workItem n)
  | .item p r seq => item s (some (p, r, seq))
  | .window p n => s.updSlot p n (fun d => if d.busy then { d with pce := d.pce + 1 } else d)
  | _ => s

/-- The address by which a unit's requester names its granule. -/
def State.granuleOf (s : State) (u : EUnit) (who : EReq) : Nat :=
  match u with
  | .slice n off =>
    (match who with
     | .thread m _ => if m = n then off else 0x1000000000 + unit256 * n + off
     | .porter m _ => if m = n then off else 0x1000000000 + unit256 * n + off
     | _ => if s.port.mld then unit256 * s.pt.active.winOf n + off else unit256 * n + off) / 64 * 64
  | .far o => (match who with | .thread .. => 0x2000000000 + o | .porter .. => 0x2000000000 + o | _ => dpaFar + o) / 64 * 64
  | .shelf n off => (match who with | .thread m _ => if m = n then 0x100000000 + off else 0x200000000 + 2097152 * n + off
                                     | _ => 0x100000000 + off) / 64 * 64
  | _ => 0

/-- Uncorrectable data reaches its requester (R264): DATA to a thread, the item or window operation fails; a porter's and a CXL.mem read's
own access, which comes after, meets the poison that is stored and is not logged twice (State.markReported). -/
def State.reportUe (s : State) (u : EUnit) (who : EReq) : State :=
  let a := s.granuleOf u who
  match who with
  | .thread n k =>
    if (s.thread n k).st = .run then s.raiseExc n k cDATA (BitVec.ofNat 64 a) (s.thread n k).half false false
    else if (s.thread n k).st = .group then s.groupExc n (s.stall n).running cDATA (BitVec.ofNat 64 a)
    else s
  | .porter n i =>
    let t := (s.stall n).porter i
    if t.busy then s.updThread n t.th (fun x => { x with due := some (cDATA, BitVec.ofNat 64 a) }) else s
  | .item p r seq => s.updItem p r seq (fun i => i.failAt a)
  | .window p n => s.updSlot p n (fun d => if d.busy ∧ d.pstat = 0 then { d with pstat := 0x10 } else d)
  | _ => s

/-- The granule of a unit, as the marks of granules already reported name it. -/
def granMark (u : EUnit) (req : Nat) : Option (Nat × Nat × Nat) :=
  match u with
  | .slice n off => some (req, 0, (unit256 * n + off) / 64)
  | .far o => some (req, 1, o / 64)
  | .shelf n off => some (req, 2, shelfAddr n off / 64)
  | _ => none

/-- READ_RETRY's report of the granule is the report of the engine's or the host's read that meets it next (R264, 02 R27). -/
def State.markReported (s : State) (u : EUnit) (who : EReq) : State :=
  match who with
  | .thread .. => s
  | .scrub => s
  | .firmware => s
  | _ => match granMark u (reqCode who) with
    | some m => { s with integ := { s.integ with reported := m :: s.integ.reported } }
    | none => s

/-! ## The commands -/

/-- A read with errors `x`, up to two retries (`e2`, `e3`), the report, the store of poison and its read-back `rb` (R267). Reading a poisoned
word is reported and counts toward nothing (R258). -/
def State.retryFrom (u : EUnit) (who : EReq) (x : InjRead) (e2 e3 rb : List (Nat × BitVec 16)) : State :=
  let pois := x.s.readWord u x.e = .poisoned
  let soft := fun (t : State) => (t.countCe who).logUnit 1 u who 0 (x.s.syndOf u x.e) 0 false
  let r2 := x.s.injRead u e2
  let r3 := r2.s.injRead u e3
  if !(r2.s.readWord u r2.e).bad then soft r2.s
  else if !(r3.s.readWord u r3.e).bad then soft r3.s
  else
    let t := ((r3.s.logUnit 3 u who 0 (x.s.syndOf u x.e) (x.s.unitCount u) pois).reportUe u who).markReported u who
    if pois then t
    else
      let t := t.poisonUnit u
      let r := t.injRead u rb
      if r.s.readWord u r.e = .poisoned ∨ !x.counts then r.s else r.s.hardEvent u true 0

/-- An uncorrectable read with errors `e1` of its own. -/
def State.retried (s : State) (u : EUnit) (who : EReq) (e1 e2 e3 rb : List (Nat × BitVec 16)) : State :=
  let x := s.injRead u e1
  if s.unitFresh u ∨ !(x.s.readWord u x.e).bad then s else State.retryFrom u who x e2 e3 rb

/-- READ_RETRY: comes before the access of the engine or the host whose read it is (log entry 92). -/
def execReadRetry (u : EUnit) (who : EReq) (e1 e2 e3 rb : List (Nat × BitVec 16)) (st : State) : Ans :=
  run (inUnit u && inWho who) (st.retried u who e1 e2 e3 rb).used

/-- The rewrite of a corrected word, unless the correction is an erased position's: the symbol and the state. -/
def State.rewrite (s : State) (u : EUnit) (e : List (Nat × BitVec 16)) : Option (Nat × State) :=
  match s.readWord u e with
  | .corrected i => if s.erasedAt u = some i then none else some (i, s.rewritten u e)
  | _ => none

def State.softCe (s : State) (u : EUnit) (who : EReq) (i synd : Nat) : State := s.logUnit 1 u who i synd 0 false

def State.hardCe (s : State) (u : EUnit) (who : EReq) (i synd : Nat) (counts : Bool) : State :=
  let t := s.logUnit 2 u who i synd (s.unitCount u + 1) false
  if counts then t.hardEvent u false i else t

/-- A corrected read: the corrected word is stored again and re-read, as the list says in turn (R267). A clean re-read is soft, the same symbol
a hard hit; another symbol makes the event soft and starts a new one there; an uncorrectable re-read is a hard hit and is handled as an
uncorrectable read. A correction at an erased position is the erasure at work. -/
def State.reread (u : EUnit) (who : EReq) (x : InjRead) : List (List (Nat × BitVec 16)) → State
  | [] =>
    match x.s.rewrite u x.e with
    | some (i, t) => t.softCe u who i (x.s.syndOf u x.e)
    | none => x.s
  | e2 :: rest =>
    match x.s.rewrite u x.e with
    | some (i, t) =>
      let r := t.injRead u e2
      match r.s.readWord u r.e with
      | .clean => r.s.softCe u who i (x.s.syndOf u x.e)
      | .corrected j =>
        if i = j then r.s.hardCe u who i (x.s.syndOf u x.e) x.counts
        else State.reread u who { r with s := r.s.softCe u who i (x.s.syndOf u x.e) } rest
      | _ =>
        let t := r.s.hardCe u who i (x.s.syndOf u x.e) x.counts
        State.retryFrom u who { r with s := t } (rest.getD 0 []) (rest.getD 1 []) (rest.getD 2 [])
    | none => x.s

/-- CORRECTED_REWRITE: a corrected read, counted once toward its item (R266), its rewrite and re-reads (R267). -/
def State.corrected (s : State) (u : EUnit) (who : EReq) (e1 : List (Nat × BitVec 16)) (es : List (List (Nat × BitVec 16))) : State :=
  if s.unitFresh u then s
  else
    let x := s.injRead u e1
    match x.s.readWord u x.e with
    | .corrected _ => State.reread u who { x with s := x.s.countCe who } es
    | _ => s

/-- CORRECTED_REWRITE. -/
def execCorrectedRewrite (u : EUnit) (who : EReq) (e1 : List (Nat × BitVec 16)) (es : List (List (Nat × BitVec 16))) (st : State) : Ans :=
  run (inUnit u && inWho who) (st.corrected u who e1 es)

/-- The word's last read was uncorrectable, or it was bad when it was written whole (R265; 02 R28). -/
def State.wasUe (s : State) : EUnit → Bool
  | .slice n off => NSet.has s.mem.sliceUe ((unit256 * n + off) / 32)
  | .far o => NSet.has s.mem.farUe (o / 32)
  | .shelf n off => NSet.has s.mem.shelfUe (shelfAddr n off / 8)
  | _ => false

def State.clearUe (s : State) (u : EUnit) : State :=
  match u with
  | .slice n off => { s with mem := { s.mem with sliceUe := NSet.del s.mem.sliceUe ((unit256 * n + off) / 32) } }
  | .far o => { s with mem := { s.mem with farUe := NSet.del s.mem.farUe (o / 32) } }
  | .shelf n off => { s with mem := { s.mem with shelfUe := NSet.del s.mem.shelfUe (shelfAddr n off / 8) } }
  | _ => s

/-- The DPA at which a logical device, or the host under SLD, sees a unit's granule. -/
def State.unitDpa (s : State) (u : EUnit) (ld : Nat) : Nat :=
  match u with
  | .far o => (dpaFar + (if s.port.mld then o - unit256 * s.pt.active.farbase ld else o)) / 64 * 64
  | _ => s.granuleOf u (.cxl ld)

/-- POISON_READBACK: the write-back check of a whole-word write to a word whose last read was uncorrectable (R265, 02 R28). A corrected
read-back clears the poison and is handled as a corrected read, with re-reads `es`; any other leaves the word poisoned, fails the operation
that wrote it, and a CXL.mem write is reported, its granule staying listed. -/
def State.readBack (s : State) (u : EUnit) (who : EReq) (rb : List (Nat × BitVec 16)) (es : List (List (Nat × BitVec 16))) : State :=
  if !s.wasUe u ∨ s.unitPois u then s
  else
    let x := s.injRead u rb
    match x.s.readWord u x.e with
    | .clean => x.s.clearUe u
    | .corrected _ => State.reread u who { x with s := (x.s.clearUe u).countCe who } es
    | _ =>
      let s := (x.s.poisonUnit u).logUnit 3 u who 0 (s.syndOf u x.e) (s.unitCount u + 1) false
      let s := match who with
        | .item p r seq => s.updItem p r seq (fun i => i.failAt (s.granuleOf u who))
        | .window .. => s.reportUe u who
        | .porter .. => s.reportUe u who
        | .cxl ld => s.addPoison [(ld, s.unitDpa u ld)]
        | _ => s
      if x.counts then s.hardEvent u true 0 else s

/-- POISON_READBACK. -/
def execPoisonReadback (u : EUnit) (who : EReq) (rb : Readback) (st : State) : Ans :=
  run (inUnit u && inWho who) (st.readBack u who rb.word rb.later)

/-- ROW_COPY_DONE: the map is written, accesses go to the spare (05 R118; 21 R458). -/
def State.rowCopyDone (s : State) (n row : Nat) : State :=
  match (s.sliceOf n).map.find? (fun e => e.row = row && e.copying) with
  | none => s
  | some _ =>
    let s := s.updSlice n (fun d => { d with
      retired := d.retired + 1, map := d.map.map (fun e => if e.row = row then { e with copying := false, time := s.time } else e) })
    let s := s.logEvent (mkEnt 4 0 5 (s.pt.active.owner n) (n + row / 32768 * 2 ^ 8) (unit256 * n + rowOff row)) (s.owners n)
    (s.ledgerAdd (regionRec (4 * n + row / 32768) 6) 1).fpEvent

/-- ROW_COPY_DONE. -/
def execRowCopyDone (s row : Nat) (st : State) : Ans := run (inStall s) (st.rowCopyDone s row)

/-! ## Packets (R270) -/

/-- The routers a packet passes: along x then y within a hall, along y to row 0 and out otherwise (10 R217). -/
def pathRouters (src dst : Nat) : List (Nat × Nat) :=
  let col := fun h x lo hi => (List.range (hi + 1 - lo)).map (fun i => (h, 8 * (lo + i) + x))
  let row := fun h y a b => (List.range (max a b + 1 - min a b)).map (fun i => (h, 8 * y + min a b + i))
  let out := fun n => col (hallOf n) (n % 8) 0 (n % 64 / 8)
  if src < 256 ∧ dst < 256 ∧ hallOf src = hallOf dst then
    let sy := src % 64 / 8
    let dy := dst % 64 / 8
    row (hallOf src) sy (src % 8) (dst % 8) ++ (col (hallOf src) (dst % 8) (min sy dy) (max sy dy)).filter (fun x => x.2 / 8 ≠ sy)
  else (if src < 256 then out src else []) ++ (if dst < 256 then out dst else [])

/-- A lost packet reaches the requester of its access as uncorrectable (R264, R270): a tally instruction, whose operation never took effect
where the request was lost and has taken effect where the response was, gives DATA (09 R206); a load, copy or window access as `reportUe` says. -/
def State.packetTold (s : State) (k : PktUse) : State :=
  match k with
  | .tally id owner false =>
    match s.tally.flight.find? (fun o => o.owner = owner && o.id = id) with
    | some o => { s with tally := { s.tally with flight := removeOp s.tally.flight o } }.tallyFail o.owner o.op o.id 0x10
    | none => s
  | .tally id (.thread n k) true =>
    if (s.thread n k).st = .tally then s.updThread n k (fun t => { t with resp := some (.fail cDATA (tallyEaddr id)) }) else s
  | .tally .. => s
  | .data u who => (s.reportUe u who).markReported u who
  | .other => s

/-- A lost packet: logged, told to its requester, counted at each router of its path, whose eighth in 1 s cuts the hall off (R269, R270). -/
def State.packetLost (s : State) (src dst : Nat) (k : PktUse) (counts : Bool) : State :=
  let s := (s.logEvent (mkEnt 3 8 0 (if src < 256 then s.pitchOf src else none) (src % 256) 0) []).packetTold k
  if !counts then s else
  (pathRouters src dst).foldl (fun s x =>
    let s := s.countHit { u := .router x.1 x.2, t := s.time, ue := true, tag := 0, port := 0, sym := 0 }
    if 8 ≤ (s.hitsOf (.router x.1 x.2) 1000000000).length ∧ !(s.hall x.1).broken then
      ((s.updHall x.1 (fun h => { h with broken := true })).dlAppend (routerRec 4 x.1 x.2)).cutOff x.1
    else s) s

/-- The code of a packet is good: the CRC-32C of every byte but the code, which bytes 60 to 63 of its header flit hold (R270). -/
def packetOk (b : List Byte) : Bool := crc32c (b.take 60 ++ b.drop 64) = BitVec.ofNat 32 (leAt b 60 4)

/-- PACKET_RESEND: a packet whose code was bad is sent again, as the bytes `b` arrive; it is lost when the third resend, its fourth code, is
bad too. An armed injector of KIND 7 makes the code bad (20 R449; log entry 119). -/
def State.packetResend (s : State) (src dst id : Nat) (k : PktUse) (b : List Byte) : State :=
  let key := fun (x : Nat × Nat × Nat × Nat) => x.1 = src && x.2.1 = dst && x.2.2.1 = id
  let n := match s.integ.resend.find? key with | some x => x.2.2.2 | none => 0
  let rest := s.integ.resend.filter (fun x => !key x)
  let soft := fun (s : State) => s.logEvent (mkEnt 1 8 0 none (src % 256) 0) []
  let i := s.injectorFor 7 (fun _ => true)
  let counts := i.all (fun i => !bit (s.rw64 (injOff i)) 6)
  let s := s.injectedBy i
  if packetOk b && i.isNone then soft { s with integ := { s.integ with resend := rest } }
  else if n + 1 < 3 then { s with integ := { s.integ with resend := rest ++ [(src, dst, id, n + 1)] } }
  else { s with integ := { s.integ with resend := rest } }.packetLost src dst k counts

/-- PACKET_RESEND. -/
def execPacketResend (src dst id : Nat) (pkt : Arrival) (st : State) : Ans :=
  run (inPkt pkt.use) (st.packetResend src dst id pkt.use pkt.bytes)

/-! ## Patrol scrubbing (R275) -/

def State.sint (s : State) : Nat := fld32 (s.rw32 0x202000) 0 16
def State.fint (s : State) : Nat := fld32 (s.rw32 0x202000) 16 16

/-- The words of a line that a scrub read found in error, each as R267 has it: a corrected word is rewritten and re-read, an uncorrectable one
retried, reported and poisoned. `w` names the words with what their reads, re-reads and retries met in order. -/
def State.scrubbed (s : State) (u : Nat → EUnit) (w : List (Nat × List (List (Nat × BitVec 16)))) : State :=
  w.foldl (fun s x =>
    let e := fun i => x.2.getD i []
    let r := s.injRead (u (x.1 % 8)) (e 0)
    match r.s.readWord (u (x.1 % 8)) r.e with
    | .corrected _ => State.reread (u (x.1 % 8)) .scrub r x.2.tail
    | _ => s.retried (u (x.1 % 8)) .scrub (e 0) (e 1) (e 2) (e 3)) s

/-- SLICE_SCRUB: a port reads the eight words of its next valid line. Lines of a port are those whose number is the port modulo 4
(05 R104). -/
def State.sliceScrub (s : State) (n port : Nat) (w : List (Nat × List (List (Nat × BitVec 16)))) : State :=
  let pos := Tab.get 0 (s.sliceOf n).scrub port
  if s.sint = 0 ∨ !(s.hall (hallOf n)).rails then s
  else
    let valid := s.mem.sliceValid.filter (fun l => decide (1048576 * n ≤ l ∧ l < 1048576 * (n + 1)) && l % 4 = port)
    let ks := valid.map (fun l => (l - 1048576 * n) / 4)
    match (ks.filter (fun k => decide (pos ≤ k))).head? <|> ks.head? with
    | none => s
    | some k =>
      ((s.updSlice n (fun d => { d with scrub := Tab.set d.scrub port ((k + 1) % 262144) })).count n 7 1).scrubbed
        (fun i => .slice n (256 * (4 * k + port) + 32 * i)) w

/-- SLICE_SCRUB. -/
def execSliceScrub (s port : Nat) (w : List (Nat × List (List (Nat × BitVec 16)))) (st : State) : Ans :=
  run (inStall s && inHall port) (st.sliceScrub s port w)

/-- FAR_SCRUB: a channel of a LIVE module reads its next valid line (R275; 21 R459). -/
def State.farScrub (s : State) (ch : Nat) (w : List (Nat × List (List (Nat × BitVec 16)))) : State :=
  let pos := Tab.get 0 s.integ.farScrub ch
  if s.fint = 0 ∨ (s.module (ch / 8)).state ≠ 3 then s
  else
    let ls := (s.mem.farValid.filter (fun l => (s.chanOf (l * 256)).1 = ch && !s.stranded (l * 256))).map (fun l => ((s.chanOf (l * 256)).2, l))
    let best := fun (l : List (Nat × Nat)) => l.foldl (fun (b : Option (Nat × Nat)) x => match b with
      | some y => if x.1 < y.1 then some x else b
      | none => some x) none
    match best (ls.filter (fun x => decide (pos ≤ x.1))) <|> best ls with
    | none => s
    | some (a, l) =>
      { s with integ := { s.integ with farScrub := Tab.set s.integ.farScrub ch (a + 1) } }.scrubbed (fun i => .far (l * 256 + 32 * i)) w

/-- FAR_SCRUB. -/
def execFarScrub (ch : Nat) (w : List (Nat × List (List (Nat × BitVec 16)))) (st : State) : Ans := run (inChan ch) (st.farScrub ch w)

/-- The dirty blocks of a stall's valid-bit store, or of the far valid-bit cache, reach their backing copies (R261). -/
def State.backUp (s : State) (far : Bool) (n : Nat) : State :=
  let mine := fun (l : Nat) => decide (l / 1048576 = n)
  { s with mem := if far then { s.mem with farBack := s.mem.farValid }
    else { s.mem with sliceBack := s.mem.sliceBack.filter (fun l => decide (l / 1048576 < n)) ++ s.mem.sliceValid.filter mine ++
      s.mem.sliceBack.filter (fun l => decide (n < l / 1048576)) } }

/-- VALID_BIT_WRITEBACK. -/
def execValidBitWriteback (far : Bool) (s : Nat) (st : State) : Ans := run (inStall s) (st.backUp far s)

/-! ## The event log as it is read (R277, R278; 22 R470, R471) -/

/-- The 32 bytes of an entry. -/
def LogEnt.bytes (e : LogEnt) : List Byte :=
  toLE 8 e.time ++ toLE 1 e.type ++ toLE 1 e.unit ++ toLE 1 e.req ++
    toLE 1 (e.pitch.getD 0 + 16 * ofBool e.pois + 32 * ofBool e.lostb) ++ toLE 4 e.loc ++ toLE 8 e.addr ++ toLE 4 e.synd ++ toLE 4 e.count

/-- Requester q sees entry i: under MLD a logical device only those that raise its own pitch's vector (22 R471). -/
def State.seesEntry (s : State) (q : Req) (e : LogEnt) : Bool :=
  match q with
  | .ld p => !s.port.mld || (e.pitch = some p && decide (3 ≤ e.type))
  | _ => true

/-- A requester reads an entry of the event log. -/
def State.entryRead (s : State) (q : Req) (i : Nat) : State :=
  match Tab.find s.integ.log i with
  | none => { s with out := .resp 0 (zeros 32) }
  | some e =>
    if s.seesEntry q e then { s with integ := { s.integ with read := NSet.add s.integ.read i }, out := .resp 0 e.bytes }
    else { s with out := .resp 0 (zeros 32) }

/-- EVENT_LOG_ENTRY_READ. -/
def execEventLogEntryRead (q : Req) (i : Nat) (st : State) : Ans :=
  run (inReq q && inLog i) (if st.isReq q && !(st.reqSt q).page then st.entryRead q i else st)

end Sys2Proof.Machine
end

