-- ==== Sys2Proof/Machine/Clocks.lean ====
section
/-!
DEFINITION. Clock islands and the timebase (10 R211 to R214, R227 to R231).
-/
namespace Sys2Proof.Machine

/-- ISLANDCLK_WRITE: only service processors, FSTEP from 8 to 60 (R213, R231). -/
def execIslandclkWrite (q : Req) (s : Nat) (v : W32) (st : State) : Ans :=
  run (inReq q && inStall s)
    (st.stallTry q s 0x300 4 (reqIsSp q && decide (8 ≤ fld32 v 0 6 ∧ fld32 v 0 6 ≤ 60)) (fun t =>
      (t.setRw32 (stallBase s + 0x300) (BitVec.ofNat 32 (fld32 v 0 6))).reslew s))

/-- FLL_SLEW_DONE: the step slewed to is in effect (R213, 15 R333). -/
def execFllSlewDone (s : Nat) (st : State) : Ans :=
  run (inStall s)
    (if (st.stall s).clk.slewing then (st.setClk s (fun c => { c with cur := c.target, slewing := false })) else st)

/-- E of a hall: 2 ns with FINESYNC, 8 ns without (R226, R228). -/
def HallSt.syncErr (x : HallSt) : Nat := if bitsOf x.afeat 2 1 = 1 then 2 else 8

/-- The hall's copy of the timebase is corrected; where within ±E it stands is a free value (R228). -/
def State.align (s : State) (h : Nat) : State :=
  (s.updHall h (fun x => { x with skew := (s.freeBelow (2 * x.syncErr + 1) : Int) - x.syncErr })).used

/-- TIMEBASE_SYNC_BEAT. -/
def execTimebaseSyncBeat (h : Nat) (st : State) : Ans :=
  run (inHall h) (if (st.hall h).up then st.align h else st)

end Sys2Proof.Machine
end

