-- ==== Sys2Proof/Machine/Aisle.lean ====
section
/-!
DEFINITION. The aisle mesh and the arcade links (10 R215 to R226).
-/
namespace Sys2Proof.Machine

/-! ## Links -/

def State.link (s : State) (l : Nat) : ArcLink := Tab.get {} s.net.link l

def State.updLink (s : State) (l : Nat) (f : ArcLink → ArcLink) : State :=
  { s with net := { s.net with link := Tab.set s.net.link l (f (s.link l)) } }

def ArcLink.side (x : ArcLink) (d : Nat) : LinkDir := Tab.get {} x.dir d

def ArcLink.updSide (x : ArcLink) (d : Nat) (f : LinkDir → LinkDir) : ArcLink := { x with dir := Tab.set x.dir d (f (x.side d)) }

/-- A link that carries traffic: full or narrow. -/
def ArcLink.carries (x : ArcLink) : Bool := decide (2 ≤ x.state ∧ x.state ≤ 4)

/-- One that new traffic may use: not in training (R224). -/
def ArcLink.live (x : ArcLink) : Bool := x.carries && !x.retrain

/-- A link that keeps its hall from being cut off: one that carries traffic, or a narrow one in training (R224). -/
def ArcLink.kept (x : ArcLink) : Bool := x.carries || (x.state = 1 && decide (3 ≤ x.was ∧ x.was ≤ 4))

/-- The link of a hall that column x uses by R223, if any is live: its own, the other of the pair, or the nearest, whose column is x XOR 4 or
x XOR 6. -/
def State.columnLink (s : State) (h x : Nat) : Option Nat :=
  let ok := fun a => (s.link (4 * h + a)).live
  let a := x / 2
  let near := if 2 ≤ x ∧ x ≤ 5 then [a ^^^ 3, a ^^^ 2] else [a ^^^ 2, a ^^^ 3]
  ([a, a ^^^ 1] ++ near).find? ok

/-- The link that ARCREMAP gives column x. -/
def HallSt.linkOf (x : HallSt) (col : Nat) : Nat := bitsOf x.remap.toNat (2 * col) 2

/-- ARCREMAP as R223 wants it; a column that no live link serves keeps its entry. -/
def State.wantedRemap (s : State) (h : Nat) : BitVec 16 :=
  BitVec.ofNat 16 ((List.range 8).foldl (fun v x => v + ((s.columnLink h x).getD ((s.hall h).linkOf x)) * 4 ^ x) 0)

/-- A hall that a cut left comes back: its copy of the timebase is aligned (R228), its fenced stalls are good again (17 R385). -/
def State.uncut (s : State) (h : Nat) : State :=
  let all := (List.range 64).map (fun i => 64 * h + i)
  let s := s.updHall h (fun x => { x with cutoff := false, up := true })
  let s := { s with tally := { s.tally with stale := s.tally.stale.filter (fun w => w.id / 65536 ≠ h) } }
  let back := all.filter (fun n => (s.fpOf n).state = 3)
  back.foldl (fun s n => { s with fp := Tab.set s.fp n {} }) (s.align h)

/-- A link of hall h has changed: the floor plan shows it; a hall with no link left is cut off, and one that has a link again comes back. -/
def State.linkChanged (s : State) (h : Nat) : State :=
  let some_ := [0, 1, 2, 3].any (fun a => (s.link (4 * h + a)).kept)
  let x := s.hall h
  if !some_ ∧ x.up then s.cutOff h
  else if some_ ∧ x.cutoff ∧ x.rails ∧ !x.broken ∧ !x.nocommon then (s.uncut h).fpEvent
  else s.fpEvent

/-! ## Routing (R217, R223) -/

/-- The hall an endpoint lies in, 4 for the gatehouse. -/
def endHall (e : Nat) : Nat := if e < 256 then e / 64 else if e = 256 then 4 else e - 257

/-- The column of its hall that a flit goes to: of a tally unit the one it came from, since every router of the hall reaches the unit (log
entry 98). -/
def Flit.dcol (f : Flit) : Nat := if f.dst < 256 then f.dst % 8 else f.col

/-- The router of hall h at which column c meets the link that ARCREMAP gives it. -/
def HallSt.exitOf (x : HallSt) (c : Nat) : Nat := 2 * x.linkOf c + c % 2

/-- The output a flit takes at router (x, y) of hall h: within the hall along x, then y; out of the hall down its own column and along row 0
to its column's exit. -/
def State.routeOf (s : State) (h r : Nat) (f : Flit) : Dir :=
  let x := r % 8
  let y := r / 8
  let toward := fun dx => if x < dx then Dir.east else Dir.west
  if f.dst < 256 ∧ hallOf f.dst = h then
    let dx := f.dst % 8
    let dy := f.dst % 64 / 8
    if x ≠ dx then toward dx else if y < dy then .north else if dy < y then .south else .here
  else if endHall f.dst = h then .here
  else if y ≠ 0 then .south
  else if x = (s.hall h).exitOf f.col then .south
  else toward ((s.hall h).exitOf f.col)

def dirIdx : Dir → Nat
  | .here => 0
  | .east => 1
  | .west => 2
  | .north => 3
  | .south => 4

/-- The router behind a mesh output and the input it arrives at. -/
def neighbour (r : Nat) : Dir → Option (Nat × Nat)
  | .here => none
  | .east => if r % 8 < 7 then some (r + 1, 2) else none
  | .west => if 0 < r % 8 then some (r - 1, 1) else none
  | .north => if r / 8 < 7 then some (r + 8, 4) else none
  | .south => if 0 < r / 8 then some (r - 8, 3) else none

/-! ## Buffers and credits (R216, R221) -/

/-- Key of a router's input buffer: router r of hall h, input by Dir's order, class. -/
def inqKey (h r input : Nat) (rsp : Bool) : Nat := ((64 * h + r) * 5 + input) * 2 + ofBool rsp

def State.inq (s : State) (k : Nat) : List Flit := Tab.get [] s.net.inq k

def State.setInq (s : State) (k : Nat) (l : List Flit) : State := { s with net := { s.net with inq := Tab.set s.net.inq k l } }

/-- Credits of a router input of hall h: 8, or what JCREDIT leaves (20 R448). -/
def State.credits (s : State) (h : Nat) (rsp : Bool) : Nat :=
  let v := fld32 (s.rw32 (0x380200 + 0x10 * h)) (if rsp then 4 else 0) 4
  if v = 0 then 8 else v

/-- Unacknowledged beats a transmitter of hall h may have: 128, or what JCREDIT leaves (R221; 20 R448). -/
def State.beatLimit (s : State) (h : Nat) : Nat :=
  let v := fld32 (s.rw32 (0x380200 + 0x10 * h)) 8 8
  if v = 0 then 128 else v

/-- Beats that a flit takes on a link (R222). -/
def ArcLink.beats (x : ArcLink) : Nat := if x.state = 3 ∨ x.state = 4 then 2 else 1

/-- The router input that a flit coming down link l enters. -/
def downKey (l : Nat) (f : Flit) : Nat := inqKey (l / 4) (2 * (l % 4) + f.dcol % 2) 4 f.rsp

/-- A link direction takes one more flit: it is not held for a test, its replay buffer has room, and downstream the transmitter holds a credit
for the router beyond. A link that retires still carries what was sent to it before (R223). -/
def State.linkRoom (s : State) (l d : Nat) (f : Flit) : Bool :=
  let x := s.link l
  let y := x.side d
  (x.carries || x.state = 5) && y.faulty = [] && decide ((y.buf.length + 1) * x.beats ≤ s.beatLimit (l / 4)) &&
    (d = 1 || decide ((s.inq (downKey l f)).length + (y.buf.filter (fun g => downKey l g = downKey l f)).length < s.credits (l / 4) f.rsp))

def State.linkPush (s : State) (l d : Nat) (f : Flit) : State := s.updLink l (fun x => x.updSide d (fun y => { y with buf := y.buf ++ [f] }))

/-! ## Packets enter and are answered (R216; 05 R107) -/

/-- The entry of column c of hall h is to change, or no live link serves it: no packet is sent to it (R223). -/
def State.exitHeld (s : State) (h c : Nat) : Bool := s.columnLink h c ≠ some ((s.hall h).linkOf c)

/-- Key under which stall `n`'s far reads or writes to an endpoint count. -/
def openKey (n kind dst : Nat) : Nat := (2 * n + kind) * 5 + endHall dst

/-- Far reads or writes of stall n that have not been answered. -/
def State.outstanding (s : State) (n kind : Nat) : Nat := ((List.range 5).map (fun h => Tab.get 0 s.net.open_ ((2 * n + kind) * 5 + h))).foldl (· + ·) 0

/-- A stall has 64 lines of far reads and 32 of far writes outstanding at most. -/
def State.mayOpen (s : State) (f : Flit) : Bool :=
  f.rsp || decide (2 ≤ f.kind ∨ s.outstanding f.src f.kind < if f.kind = 0 then 64 else 32)

def State.bumpOpen (s : State) (k : Nat) (f : Nat → Nat) : State := { s with net := { s.net with open_ := Tab.upd 0 s.net.open_ k f } }

/-- A flit that waits at endpoint e (256 + 8h + x: in the gatehouse toward column x of hall h) enters the network: the state, or none where it
is held back. -/
def State.enter (s : State) (e : Nat) (f : Flit) : Option State :=
  if e < 256 then
    let k := inqKey (hallOf e) (e % 64) 0 f.rsp
    if f.head ∧ (!s.mayOpen f ∨ endHall f.dst ≠ hallOf e ∧ s.exitHeld (hallOf e) (e % 8)) then none
    else if s.credits (hallOf e) f.rsp ≤ (s.inq k).length then none
    else
      let t := s.setInq k (s.inq k ++ [f])
      some (if f.head && !f.rsp && decide (f.kind < 2) then t.bumpOpen (openKey f.src f.kind f.dst) (· + 1) else t)
  else
    let h := (e - 256) / 8
    let l := 4 * h + (s.hall h).linkOf (e % 8)
    if (f.head ∧ s.exitHeld h (e % 8)) ∨ !s.linkRoom l 0 f then none else some (s.linkPush l 0 f)

/-- What waits at an endpoint enters as far as there is room. -/
def State.fill (s : State) (e : Nat) (rsp : Bool) : Nat → State
  | 0 => s
  | n + 1 =>
    let k := 2 * e + ofBool rsp
    match Tab.get [] s.net.wait k with
    | [] => s
    | f :: l =>
      match s.enter e f with
      | none => s
      | some t => ({ t with net := { t.net with wait := Tab.set t.net.wait k l } }).fill e rsp n

/-- A packet comes to endpoint e: it waits there behind those before it, and enters as far as there is room. -/
def State.netSend (s : State) (e : Nat) (f : Flit) (data : Nat) : State :=
  let k := 2 * e + ofBool f.rsp
  let l := (List.range (1 + data)).map (fun i => { f with head := i = 0, last := i = data })
  let w := Tab.get [] s.net.wait k ++ l
  { s with net := { s.net with wait := Tab.set s.net.wait k w } }.fill e f.rsp w.length

/-- Where a flit that the gatehouse passes on waits. -/
def gateEnd (f : Flit) : Nat := 256 + 8 * endHall f.dst + f.dcol

/-- A flit has reached its endpoint, at stall's router `at_` (or in the gatehouse): the last of a request is answered, that of a response
closes the request. -/
def State.consume (s : State) (at_ : Option Nat) (f : Flit) : State :=
  if !f.last then s
  else if f.rsp then (if f.kind < 2 then s.bumpOpen (openKey f.dst f.kind f.src) (· - 1) else s)
  else
    let g : Flit := { src := f.dst, dst := f.src, rsp := true, kind := f.kind, col := (at_.getD f.src) % 8 }
    s.netSend (match at_ with | some e => e | none => gateEnd g) g f.len

/-- Where a flit goes from an output: the state, or none where it is held back. -/
def State.forward (s : State) (h r : Nat) (out : Dir) (f : Flit) : Option State :=
  match out with
  | .here => some (s.consume (some (64 * h + r)) f)
  | d =>
    match neighbour r d with
    | some (r', i) =>
      let k := inqKey h r' i f.rsp
      if (s.inq k).length < s.credits h f.rsp then some (s.setInq k (s.inq k ++ [f])) else none
    | none =>
      let l := 4 * h + r % 8 / 2
      if d = .south ∧ s.linkRoom l 1 f then some (s.linkPush l 1 f) else none

/-- One class of an output: the first input from the round-robin position on whose head takes it moves that flit; what waits at the stall
may then enter. -/
def State.serve (s : State) (h r : Nat) (out : Dir) (rsp : Bool) : Option State :=
  let ok := inqKey h r (dirIdx out) rsp
  let last := Tab.get 0 s.net.rr ok
  let ins := (List.range 5).map (fun i => (last + 1 + i) % 5)
  match ins.find? (fun i => match s.inq (inqKey h r i rsp) with | f :: _ => s.routeOf h r f = out | [] => false) with
  | none => none
  | some i =>
    match s.inq (inqKey h r i rsp) with
    | [] => none
    | f :: l =>
      let s := s.setInq (inqKey h r i rsp) l
      (s.forward h r out f).map (fun t =>
        ({ t with net := { t.net with rr := Tab.set t.net.rr ok i } }).fill (64 * h + r) rsp 5)

/-- FLIT_TRANSFER: an output serves RSP before REQ (R216, R217). -/
def execFlitTransfer (h r : Nat) (out : Dir) (st : State) : Ans :=
  run (inHall h && inRing r)
    (if st.segsOn h then ((st.serve h r out true) <|> (st.serve h r out false)).getD st else st)

/-! ## Far egress (04 R95 to R97; 10 R216) -/

/-- The endpoint a target lies at: a stall, or 256 for the gatehouse. -/
def Tgt.endpoint : Tgt → Nat
  | .slice a => a / unit256
  | .shelf n _ => n
  | _ => 256

/-- A request of stall n goes to an endpoint with `data` data flits; the response has `back`. -/
def State.inject (s : State) (n dst kind data back : Nat) : State :=
  if s.segsOn (hallOf n) then s.netSend n { src := n, dst := dst, rsp := false, kind := kind, col := n % 8, len := back } data else s

/-- FAR_EGRESS: a request of an agent (0 thread, 1 porter, 2 tally operation) is checked; a refused one is logged, a read gets zeros and a
tally operation 0; an allowed one enters the aisle: a thread's access with one data flit, in the request of a write or the response to a
read, a porter's with four, a tally operation with none. -/
def State.farEgress (s : State) (n k agent : Nat) (wr : Bool) (addr : Word) : State :=
  if agent = 2 then
    let id := addr.toNat % 2 ^ 18
    if s.tallyFenced n id then { s.fenceLog n 2 k wr (BitVec.ofNat 64 id) (s.tallyPitch id) with out := .reg 0 }
    else s.inject n (257 + id / 65536) 2 0 0
  else
    let t := tgtOf n addr.toNat
    let data := if agent = 1 then 4 else 1
    if s.fenceRefuses n t then { s.fenceLog n agent k wr addr (s.targetPitch t) with out := if wr then .none else .reg 0 }
    else if t.leaves n then s.inject n t.endpoint (ofBool wr) (if wr then data else 0) (if wr then 0 else data)
    else s

/-- FAR_EGRESS. -/
def execFarEgress (s k : Nat) (agent : Nat) (wr : Bool) (addr : Word) (st : State) : Ans :=
  run (inStall s && inThread k) (st.farEgress s k agent wr addr)

/-! ## Beats and replays (R221) -/

/-- A flit accepted at the far end of a link goes on: upstream into the gatehouse, which answers it or passes it on to its hall while that
has power; downstream into router (x, 0), whose buffer it holds a credit for. -/
def State.deliver (s : State) (l d : Nat) (f : Flit) : State :=
  if d = 1 then
    (if f.dst = 256 then s.consume none f
     else if !(s.hall (endHall f.dst)).rails then s
     else
       let k := 2 * gateEnd f + ofBool f.rsp
       let w := Tab.get [] s.net.wait k ++ [f]
       { s with net := { s.net with wait := Tab.set s.net.wait k w } }.fill (gateEnd f) f.rsp w.length)
  else s.setInq (downKey l f) (s.inq (downKey l f) ++ [f])

/-- What waits in the gatehouse for a link may enter once it has room. -/
def State.refill (s : State) (l : Nat) : State :=
  let h := l / 4
  ((List.range 8).filter (fun c => (s.hall h).linkOf c = l % 4)).foldl (fun s c => (s.fill (256 + 8 * h + c) true 8).fill (256 + 8 * h + c) false 8) s

/-- 2^30 beats make one of GBEATS (18 R406). -/
def State.countBeat (s : State) (l : Nat) : State :=
  let n := Tab.get 0 s.ledger.frac (20000 + l) + 1
  let s := { s with ledger := { s.ledger with frac := Tab.set s.ledger.frac (20000 + l) (n % 2 ^ 30) } }
  if n = 2 ^ 30 then s.ledgerAdd (linkRec l 1) 1 else s

/-- ARCADE_BEAT: parity of every group and the sequence number are checked; in narrow mode a flit is whole with its second beat (R222). An
armed injector of KIND 6 adds its group's parity error, which counts toward no threshold with NOCOUNT (20 R449; log entry 119). -/
def State.arcadeBeat (s : State) (l d : Nat) (own : List Nat) (seq : Nat) : State :=
  let x := s.link l
  let y := x.side d
  let inj := s.injectorFor 6 (fun a => a % 16 = l)
  let cfg := fun i => s.rw64 (injOff i)
  let bad := own ++ (match inj with | some i => [(s.rw64 (injOff i + 8)).toNat / 16 % 16] | none => [])
  match y.buf with
  | [] => s
  | f :: _ =>
    if x.state = 0 ∨ x.state = 1 ∨ y.stop then s
    else if bad ≠ [] ∨ seq ≠ y.seq then
      (s.injectedBy inj).updLink l (fun x => x.updSide d (fun y => { y with
        stop := true, bad := bad.eraseDups, quiet := decide (own = []) && inj.any (fun i => bit (cfg i) 6) }))
    else
      let whole := x.beats = 1 || y.half
      let t := s.updLink l (fun x => x.updSide d (fun y => { y with
        buf := if whole then y.buf.drop 1 else y.buf, half := !whole, seq := (y.seq + 1) % 256, tries := 0 }))
      ((if whole then t.deliver l d f else t).countBeat l).refill l

/-- ARCADE_BEAT. -/
def execArcadeBeat (l dir : Nat) (bad : List Nat) (seq : Byte) (st : State) : Ans :=
  run (inLink l && inTwo dir) (st.arcadeBeat l dir bad seq.toNat)

/-- A lane group that has met a threshold of R269 waits for its test. -/
def State.laneFaulty (s : State) (l d g tries : Nat) : Bool :=
  let u := TUnit.lane l d g
  decide (16 ≤ (s.hitsOf u 1000000).length ∨ 256 ≤ (s.hitsOf u hourNs).length ∨ 3 ≤ tries)

/-- REPLAY: the transmitter resends; each mismatched group counts it (R269), ARCREPLAY too. -/
def State.replay (s : State) (l d : Nat) : State :=
  let y := (s.link l).side d
  if !y.stop then s
  else
    let s := (s.updLink l (fun x => { x.updSide d (fun y => { y with stop := false, bad := [], quiet := false, tries := y.tries + 1 }) with
      replays := if x.replays = BitVec.allOnes 32 then x.replays else x.replays + 1 })).ledgerAdd (linkRec l 2) (ofBool !y.quiet)
    (if y.quiet then [] else y.bad).foldl (fun s g =>
      let s := s.countHit { u := .lane l d g, t := s.time, ue := false, tag := 0, port := 0, sym := 0 }
      if s.laneFaulty l d g (y.tries + 1) then
        s.updLink l (fun x => x.updSide d (fun y => { y with faulty := NSet.add y.faulty g })) else s) s

/-- REPLAY. -/
def execReplay (l dir : Nat) (st : State) : Ans := run (inLink l && inTwo dir) (st.replay l dir)

/-! ## Lane sparing, narrowing, retirement (R222, R226) -/

/-- A half of a link holds a lost group in either direction. -/
def ArcLink.lostIn (x : ArcLink) (lo n : Nat) : Bool :=
  [0, 1].any (fun d => (List.range n).any (fun i => bitsOf (Tab.get 0 (x.side d).lanes (lo + i)) 7 1 = 1))

/-- STATE by the lost groups; without NARROW a lost group retires the link. -/
def ArcLink.stateBy (x : ArcLink) (narrow : Bool) : Nat :=
  let a := x.lostIn 0 8
  let b := x.lostIn 8 8
  if !a && !b then 2 else if !narrow || (a && b) then 5 else if a then 4 else 3

/-- A group is steered (lane) or lost: LANEMAP, log, defect list, ledger. -/
def State.laneMark (s : State) (source l d g lane : Nat) (lost : Bool) : State :=
  let s := s.updLink l (fun x => x.updSide d (fun y => { y with
    lanes := Tab.upd 0 y.lanes g (fun b => if lost then b % 128 + 128 else b / 128 * 128 + 64 + lane) }))
  let s := s.logEvent (mkEnt 10 7 5 none (l + g * 2 ^ 8 + lane * 2 ^ 16) 0) []
  (s.dlAppend (laneRec source l g d lane lost)).ledgerAdd (linkRec l 3) (ofBool (!lost))

/-- The link's width follows its lost groups; NARROWS and RETIRES count changes. -/
def State.linkWidth (s : State) (l : Nat) : State :=
  let x := s.link l
  let n := x.stateBy (bitsOf (s.hall (l / 4)).afeat 1 1 = 1)
  if n = x.state ∨ !x.carries then s.fpEvent
  else
    let s := s.updLink l (fun x => { x with state := n })
    let s := if n = 5 then s.ledgerAdd (linkRec l 5) 1 else s.ledgerAdd (linkRec l 4) 1
    s.linkChanged (l / 4)

/-- Traffic resumes with a replay from the first unacknowledged beat, which ARCREPLAY and the ledger count (R222). -/
def State.resumeLink (s : State) (l d : Nat) : State :=
  (s.updLink l (fun x => { x.updSide d (fun y => { y with stop := false, bad := [] }) with
    replays := if x.replays = BitVec.allOnes 32 then x.replays else x.replays + 1 })).ledgerAdd (linkRec l 2) 1

/-- LANE_TEST: steered onto the spare, or lost (R222); traffic resumes. -/
def State.laneTest (s : State) (l d g : Nat) (bad : List Nat) (strobe : Bool) : State :=
  let y := (s.link l).side d
  if !NSet.has y.faulty g then s
  else
    let spare := bitsOf (s.hall (l / 4)).afeat 0 1 = 1
    let inUse := bitsOf (Tab.get 0 y.lanes g) 6 1 = 1
    let s := ((s.updLink l (fun x => x.updSide d (fun y => { y with faulty := NSet.del y.faulty g, tries := 0 }))).dropHits
      (fun h => h.u = .lane l d g)).resumeLink l d
    match bad, strobe with
    | [], false => if spare then s else (s.laneMark 4 l d g 0 true).linkWidth l
    | [b], false => if spare && !inUse then (s.laneMark 4 l d g (b % 33) false).fpEvent else (s.laneMark 4 l d g (b % 33) true).linkWidth l
    | b, _ => (s.laneMark 4 l d g (b.headD 0 % 33) true).linkWidth l

/-- LANE_TEST. -/
def execLaneTest (l dir g : Nat) (bad : List Nat) (strobe : Bool) (st : State) : Ans :=
  run (inLink l && inTwo dir && inGroup g) (st.laneTest l dir g bad strobe)

/-- A flit in hall h or at its links belongs to one of the columns `m`: it leaves by one, or came in for one. -/
def Flit.ofCols (f : Flit) (h : Nat) (m : List Nat) : Bool :=
  if endHall f.dst = h then (endHall f.src ≠ h && m.contains f.dcol) else m.contains f.col

/-- What was sent to the old exits of columns `m` of hall h is delivered: nothing of theirs is in a router, on a link, or half sent. -/
def State.drained (s : State) (h : Nat) (m : List Nat) : Bool :=
  s.net.inq.all (fun e => e.1 / 640 ≠ h || e.2.all (fun f => !f.ofCols h m)) &&
    [0, 1, 2, 3].all (fun a => [0, 1].all (fun d => ((s.link (4 * h + a)).side d).buf.all (fun f => !f.ofCols h m))) &&
    s.net.wait.all (fun e => match e.2 with | f :: _ => f.head || !f.ofCols h m | [] => true)

/-- A link that waits for its training, and no longer carries anything, trains (R224). -/
def ArcLink.train (x : ArcLink) : ArcLink := if x.retrain ∧ x.state ≠ 1 then { x with was := x.state, state := 1 } else x

/-- REMAP_DRAIN_DONE: what was sent to the old exits is delivered, and ARCREMAP takes its new value (R223); what was held back may enter, and
links that were to be trained are. -/
def State.remapDone (s : State) (h : Nat) : State :=
  let x := s.hall h
  let w := s.wantedRemap h
  let moved := (List.range 8).filter (fun c => bitsOf w.toNat (2 * c) 2 ≠ x.linkOf c)
  if s.drained h moved then
    let s := s.updHall h (fun x => { x with remap := w })
    let s := [0, 1, 2, 3].foldl (fun s a => s.updLink (4 * h + a) ArcLink.train) s
    let s := [0, 1, 2, 3].foldl (fun s a => s.refill (4 * h + a)) s
    ((List.range 64).map (fun i => 64 * h + i)).foldl (fun s n => (s.fill n true 8).fill n false 8) s
  else s

/-- REMAP_DRAIN_DONE. -/
def execRemapDrainDone (h : Nat) (st : State) : Ans := run (inHall h) (st.remapDone h)

/-! ## Retraining and versions (R224, R225) -/

/-- RETRAIN of a narrow or retired link: its columns leave it first, at once where the remap does not change. -/
def State.retrainLink (s : State) (l : Nat) : State :=
  let s := s.updLink l (fun x => { x with retrain := true })
  if s.wantedRemap (l / 4) = (s.hall (l / 4)).remap then s.updLink l ArcLink.train else s

/-- RETRAIN, by a service processor. -/
def execRetrain (q : Req) (l : Nat) (st : State) : Ans :=
  run (inReq q && inLink l)
    (st.setupTry q (0x4010 + 0x40 * l) 4 (reqIsSp q && decide (3 ≤ (st.link l).state ∧ (st.link l).state ≤ 5)) (fun s => s.retrainLink l))

/-- LANEMAP after a training that found the groups `lost` (16·direction + group) lost: they are marked, and groups found whole lose their
marks, each with a record that replaces the old one (17 R378). -/
def State.remark (s : State) (l : Nat) (lost : List Nat) : State :=
  (List.range 32).foldl (fun s k =>
    let d := k / 16
    let g := k % 16
    let b := Tab.get 0 ((s.link l).side d).lanes g
    if lost.contains k then (if bitsOf b 7 1 = 1 then s else s.laneMark 4 l d g (b % 64) true)
    else if b ≠ 0 then
      (s.updLink l (fun x => x.updSide d (fun y => { y with lanes := Tab.del y.lanes g }))).dlAppend (laneRec 4 l g d 0 false)
    else s) s

/-- RETRAIN_DONE: full width, or narrow with only its lost groups left out; on failure the link stays as it was, one that a lost group
retires without NARROW retires (R226). The hall's copy of the timebase is aligned (R228). -/
def State.retrainDone (s : State) (l : Nat) (ok : Bool) (lost : List Nat) : State :=
  let x := s.link l
  if !x.retrain ∨ x.state ≠ 1 then s
  else
    let h := l / 4
    let narrow := bitsOf (s.hall h).afeat 1 1 = 1
    let lo := lost.any (fun k => k % 16 < 8)
    let hi := lost.any (fun k => 8 ≤ k % 16)
    let s := ((s.updLink l (fun x => { x with retrain := false, state := x.was })).ledgerAdd (linkRec l 6) 1)
    let s := if !ok ∨ (lo ∧ hi) then s
      else
        let t := s.remark l lost
        let n := if lost = [] then 2 else if !narrow then 5 else if lo then 4 else 3
        let t := t.updLink l (fun x => { x with
          state := n, dir := x.dir.map (fun e => (e.1, { e.2 with stop := false, bad := [], tries := 0, faulty := [], half := false })) })
        (if n = 5 ∧ x.was ≠ 5 then t.ledgerAdd (linkRec l 5) 1 else t).align h
    s.linkChanged h

/-- The groups lost in either direction, as 16·direction + group. -/
def lostGroups (down up : List Nat) : List Nat := (List.range 32).filter (fun k => (if k < 16 then down else up).contains (k % 16))

/-- RETRAIN_DONE, with the groups of 0 to 15 found lost downstream and upstream. -/
def execRetrainDone (l : Nat) (ok : Bool) (lostDown lostUp : List Nat) (st : State) : Ans :=
  run (inLink l) (st.retrainDone l ok (lostGroups lostDown lostUp))

/-- The highest version in both ranges. -/
def agreeOn (g r : CapRec) : Option Nat :=
  if max g.vmin r.vmin ≤ min g.vmax r.vmax then some (min g.vmax r.vmax) else none

/-- A capability record as its fields hold it: 4-bit versions and features, feature bit 3 ignored (R226), 8-bit revision. -/
def capOf (c : CapRec) : CapRec := ⟨c.vmin % 16, c.vmax % 16, c.feat % 8, c.rev % 256⟩

/-- The records are exchanged: agreed version and features, or NOCOMMON with the hall's links down and the hall cut off (R225). -/
def State.capability (s : State) (h : Nat) (g r : CapRec) : State :=
  let g := capOf g
  let r := capOf r
  let s := s.updHall h (fun x => { x with gcap := g, hcap := r })
  match agreeOn g r with
  | some v => s.updHall h (fun x => { x with agreed := v, afeat := g.feat &&& r.feat, nocommon := false })
  | none =>
    let s := s.updHall h (fun x => { x with agreed := 0, afeat := 0, nocommon := true })
    ([0, 1, 2, 3].foldl (fun s a => s.updLink (4 * h + a) (fun x => { x with state := 0, retrain := false })) s).cutOff h

/-- CAPABILITY_RECORD. -/
def execCapabilityRecord (h : Nat) (g r : CapRec) (st : State) : Ans :=
  run (inHall h) (if (st.hall h).rails then st.capability h g r else st)

end Sys2Proof.Machine
end

