-- ==== Sys2Proof/Machine/Far.lean ====
section
/-!
DEFINITION. Far memory: the far cache, the reorder queues, refresh and heat of the modules, module service (11; 23 R494).
-/
namespace Sys2Proof.Machine

/-! ## Cache accesses and channel accesses as commands (R239 to R244) -/

/-- FAR_CACHE_ACCESS. -/
def execFarCacheAccess (off hint : Nat) (wr whole : Bool) (st : State) : Ans :=
  run true (st.farAccess st.pt.active off hint wr whole)

/-- The first request of a kind in its queue with no older one on its line (R239, R240). -/
def nextOf (q : List (Nat × Bool)) (wr : Bool) : Option (Nat × Bool) :=
  (q.zipIdx.find? (fun e => e.1.2 = wr && (q.take e.2).all (fun x => x.1 ≠ e.1.1) &&
    decide (((q.take e.2).filter (fun x => x.2 = wr)).length < farDepth wr))).map (·.1)

/-- FAR_CHANNEL_ACCESS: a request leaves the reorder queue; the answer is its far offset. -/
def State.channelAccess (s : State) (ch : Nat) (wr : Bool) : State :=
  let q := Tab.get [] s.far.q ch
  match nextOf q wr with
  | none => s
  | some e => { s with far := { s.far with q := Tab.set s.far.q ch (q.erase e) }, out := .reg (BitVec.ofNat 64 e.1) }

/-- What a channel access comes to: served; the channel loses its training in service and retires (12 R269, R272); the module stops answering
and becomes FAILED, its lines stranded (R248). -/
def State.channelEnd (s : State) (ch : Nat) (wr : Bool) (r : ChanRes) : State :=
  match r with
  | .served => s.channelAccess ch wr
  | .lostTraining => s.retireChannel ch
  | .noAnswer => if (s.module (ch / 8)).inUse then (s.updModule (ch / 8) (fun x => { x with lost := true })).failModule (ch / 8) else s

/-- FAR_CHANNEL_ACCESS. -/
def execFarChannelAccess (ch : Nat) (use : ChanUse) (st : State) : Ans := run (inChan ch) (st.channelEnd ch use.wr use.res)

/-! ## Refresh and heat (R246, R247) -/

/-- MR4_POLL: a rank is refreshed at the rate MR4 gives, never below 1×. -/
def execMr4Poll (m ch rank rate : Nat) (st : State) : Ans :=
  run (inHall m && inChan ch && inTwo rank)
    (if (st.module m).power then st.updModule m (fun x => { x with mr4 := Tab.set x.mr4 (2 * (ch % 8) + rank) (max rate 1) }) else st)

/-- FAR_REFRESH: the next bank of a rank is refreshed. -/
def execFarRefresh (ch rank : Nat) (st : State) : Ans :=
  run (inChan ch && inTwo rank)
    (if (st.module (ch / 8)).power then
      { st with far := { st.far with refn := Tab.upd 0 st.far.refn (2 * ch + rank) (fun n => (n + 1) % 16) } } else st)

/-- An entry of the thermal log whose CAUSE the spec does not give: a free value, and no vector (log entry 30). -/
def State.thLogFree (s : State) (hall : Nat) (reading : Int) : State :=
  let c := s.cool
  { s with cool := { c with
      log := Tab.set c.log c.next { time := s.time, cause := s.freeBelow 256, hall := hall, reading := reading }, next := (c.next + 1) % 64,
      overrun := if (Tab.find c.log c.next).isSome then stick c.overrun 0xFFFF else c.overrun } }.used

/-- SPD_TEMP_POLL: TEMP and the throttle band; above 105 °C a thermal event is logged. -/
def State.spdTemp (s : State) (m : Nat) (t : Int) : State :=
  let band := if t ≤ 95 then 0 else if t ≤ 105 then 1 else 2
  let was := (s.module m).throttle
  let s := s.updModule m (fun x => { x with temp := t, throttle := band })
  if band = 2 ∧ was ≠ 2 then s.thLogFree 0xFF (t * 100) else s

/-- SPD_TEMP_POLL. -/
def execSpdTempPoll (m : Nat) (temp : Int) (st : State) : Ans :=
  run (inHall m) (if (st.module m).power then st.spdTemp m temp else st)

/-! ## Module service (R249 to R253) -/

def modCmdOff (m : Nat) : Nat := 0x200108 + 0x40 * m

/-- A MODCMD write: from the service processors, or the host under SLD, once the floor plan is published (R253; 21 R463); `check` the first
check that fails, DISABLE bit 5 before it. -/
def State.modCmd (s : State) (q : Req) (m : Nat) (check : Option Nat) (f : State → State) : State :=
  s.setupTry q (modCmdOff m) 4 ((match q with | .ld _ => false | _ => true) && s.published) (fun s =>
    match (if bitsOf s.fw.disable 5 1 = 1 then some 0x23 else check) with
    | some e => s.updModule m (fun x => { x with lasterr := e })
    | none => f s)

/-- DISPLACE. -/
def execDisplace (q : Req) (m : Nat) (st : State) : Ans :=
  run (inReq q && inHall m) (st.modCmd q m (st.displaceCheck m) (fun s => s.displace m))

def busyUnless (b : Bool) : Option Nat := if b then none else some 0x24

/-- POWERDOWN. -/
def execPowerdown (q : Req) (m : Nat) (st : State) : Ans :=
  run (inReq q && inHall m)
    (st.modCmd q m (busyUnless ((st.module m).state = 5 && (st.module m).busy = 0)) (fun s => s.updModule m (fun x => { x with busy := 1 })))

/-- POWERDOWN_DONE: module power removed. -/
def execPowerdownDone (m : Nat) (st : State) : Ans :=
  run (inHall m)
    (if (st.module m).busy = 1 then
      (st.updModule m (fun x => { x with busy := 0, state := 1, power := false, trained := false, rate := 0, mr4 := [] })).fpEvent else st)

/-- POWERUP. -/
def execPowerup (q : Req) (m : Nat) (st : State) : Ans :=
  run (inReq q && inHall m)
    (st.modCmd q m (busyUnless ((st.module m).state = 1 && (st.module m).present)) (fun s =>
      (s.updModule m (fun x => { x with state := 2, power := true })).fpEvent))

/-- N_ch of a raw capacity, as CHCAP codes it (R233). -/
def chcapOf (raw : Nat) : Option Nat := [4, 3, 2, 1, 0].find? (fun k => decide (2 ^ (30 + k) * 577 ≤ raw * 512))

/-- The rate that training chooses: the highest that passes and the SPD allows (R232); 0 where none does. -/
def modRate (f : ModFind) : Nat := ([5, 4, 3, 2, 1].find? (fun r => f.passes.contains r && decide (r ≤ f.spdMax))).getD 0

/-- The options of R232: an SPD that the device supports, 1 or 2 ranks. -/
def modFits (f : ModFind) : Bool := f.supported && (f.ranks = 1 || f.ranks = 2)

/-- A module as found: raw capacity, ranks, serial, rate. -/
def Module.found (x : Module) (f : ModFind) : Module :=
  { x with raw := f.rawBytes, ranks := f.ranks, serial := f.serial, supported := modFits f, rate := modRate f }

/-- POWERUP_DONE: SPD, training and self-test have ended (R249). Another module than before starts clean (17 R378). -/
def State.powerupDone (s : State) (m : Nat) (f : ModFind) : State :=
  let x := s.module m
  if x.state ≠ 2 then s
  else
    let off := fun (s : State) e => (s.updModule m (fun x => { x with state := 1, power := false, lasterr := e, rate := 0 })).fpEvent
    let fits := match chcapOf f.rawBytes with
      | some k => decide (s.far.chcap ≤ k)
      | none => false
    if !modFits f ∨ !fits then off s 0x23
    else if modRate f = 0 ∨ !f.tested then off s 0x10
    else
      let s := if f.serial = x.serial then s else
        (s.updModule m (fun x => { x with retch := 0 })).dlAppend (modidRec 3 m f.serial)
      (s.updModule m (fun x => { x.found f with state := 5, trained := true, lost := false })).fpEvent

/-- POWERUP_DONE. -/
def execPowerupDone (m : Nat) (f : ModFind) (st : State) : Ans := run (inHall m) (st.powerupDone m f)

/-- RESTORE starts: every displaced line moves home. A module outside the layout has none, and is LIVE at once. -/
def State.restore (s : State) (m : Nat) : State :=
  let n := s.far.moveLines
  (if bitsOf s.far.used m 1 = 0 then s.updModule m (fun x => { x with state := 3 })
   else s.updModule m (fun x => { x with state := 6, left := n, total := n, back := 0 })).fpEvent

/-- MODULE_RESTORE: RESTORE of MODCMD. -/
def execModuleRestore (q : Req) (m : Nat) (st : State) : Ans :=
  run (inReq q && inHall m)
    (st.modCmd q m (busyUnless ((st.module m).state = 5 && (st.module m).trained && (st.module m).busy = 0)) (fun s => s.restore m))

/-- A move has ended: DISPLACED, or LIVE with the displacement area cleared and usable far memory whole again (R249, R260). -/
def State.moveEnd (s : State) (m : Nat) : State :=
  let f := s.far
  if (s.module m).state = 4 then
    ({ s with far := { f with disp := f.disp ||| 2 ^ m } }.updModule m (fun x => { x with state := 5, trained := x.trained && !x.lost })).fpEvent
  else
    let lo := f.units (mlCount f.ml - 1)
    let hi := f.units (mlCount f.ml)
    let s := (s.cacheDrop (unit256 * lo) (unit256 * (hi - lo))).clearFarLines (1048576 * lo) (1048576 * (hi - lo))
    ({ s with far := { s.far with disp := f.disp ^^^ 2 ^ m, usable := hi } }.updModule m (fun x => { x with state := 3 })).fpEvent.autoDisplace

/-- LINE_MOVE: one line switches; an uncorrectable or stranded one arrives poisoned (R250). -/
def State.lineMove (s : State) (m : Nat) (bad : Bool) : State :=
  let x := s.module m
  if (x.state ≠ 4 ∧ x.state ≠ 6) ∨ x.left = 0 then s
  else
    let l := s.moveLine m (x.total - x.left)
    let poison := (bad && NSet.has s.mem.farValid l) || s.stranded (l * 256)
    let s := s.updModule m (fun x => { x with left := x.left - 1 })
    let s := if poison then s.poisonFarLine l else s
    if x.left = 1 then s.moveEnd m else s

/-- LINE_MOVE. -/
def execLineMove (m : Nat) (bad : Bool) (st : State) : Ans := run (inHall m) (st.lineMove m bad)

/-! ## Module pins (23 R494) -/

/-- A module whose power or presence goes: lost channels if in use, nothing if it holds no data (R248, R252). -/
def State.moduleGone (s : State) (m : Nat) : State :=
  let x := s.module m
  if x.inUse then (s.updModule m (fun x => { x with lost := true })).failModule m
  else if x.state = 5 then s.updModule m (fun x => { x with trained := false })
  else if x.state = 2 then (s.updModule m (fun x => { x with state := 1, power := false, lasterr := 0x10 })).fpEvent
  else s

/-- CAMM_PRESENCE_CHANGE: the debounced presence. -/
def State.presence (s : State) (m : Nat) (present : Bool) : State :=
  let x := s.module m
  if x.present = present then s
  else
    let s := s.updModule m (fun x => { x with
      present := present,
      state := if present then max x.state 1 else if bitsOf s.far.used m 1 = 0 ∧ x.state = 1 then 0 else x.state })
    if present then s.fpEvent else (s.moduleGone m).fpEvent

/-- CAMM_PRESENCE_CHANGE. -/
def execCammPresenceChange (m : Nat) (present : Bool) (st : State) : Ans := run (inHall m) (st.presence m present)

/-- CAMM_PG_DROP: for 2 µs or more while the module is powered. -/
def execCammPgDrop (m ns : Nat) (st : State) : Ans :=
  run (inHall m)
    (if 2000 ≤ ns ∧ (st.module m).power then (st.moduleGone m).updModule m (fun x => { x with power := false }) else st)

end Sys2Proof.Machine
end

