-- ==== Sys2Proof/Machine/Power.lean ====
section
/-!
DEFINITION. Power: stall states, rails, the weighbridge, the governor, droop and rail limits (15).
-/
namespace Sys2Proof.Machine

/-! ## Stall states (R327) -/

/-- STALL_GATE: a stall idle for GATEDELAY, unless NOGATE keeps it. -/
def execStallGate (s : Nat) (st : State) : Ans :=
  run (inStall s)
    (if st.pwrState s = 1 ∧ !bit32 (st.rw32 (stallPwrOff s)) 2 then st.updStall s (fun x => { x with gated := true }) else st)

/-- STALL_WAKE. -/
def execStallWake (s : Nat) (st : State) : Ans :=
  run (inStall s) (if (st.stall s).gated then st.updStall s (fun x => { x with gated := false }) else st)

/-! ## Rails (R331 to R335, R339, R340) -/

def railOff (r : Nat) : Nat := 0x202110 + 8 * r

def State.vset (s : State) (r : Nat) : Nat := fld32 (s.rw32 (railOff r)) 0 16

def vsetOk (r v : Nat) : Bool := if r < 4 then decide (600 ≤ v ∧ v ≤ 880) else decide (700 ≤ v ∧ v ≤ 850)

def State.railSlew (s : State) (r : Nat) : State := if r < 4 then s.reslewHall r else s

/-- VSET_WRITE (R334): uncovered steps fall first, then the rail is written; a rise covers once it is read back. -/
def execVsetWrite (q : Req) (rail : Nat) (v : W32) (st : State) : Ans :=
  run (inReq q && inRail rail)
    (st.setupTry q (railOff rail) 4 (reqIsSp q && vsetOk rail (fld32 v 0 16)) (fun s =>
      let mv := fld32 v 0 16
      let s := s.setRw32 (railOff rail) (BitVec.ofNat 32 mv)
      ((s.updRail rail (fun r => { r with cov := min r.cov mv })).railSlew rail).send (.avs rail mv)))

/-- RAIL_READ: voltage in mV and current in 0.1 A (R335). -/
def execRailRead (rail mv da : Nat) (st : State) : Ans :=
  run (inRail rail)
    ((st.updRail rail (fun r => { r with
      vread := min mv 0xFFFF, iread := min da 0xFFFF, cov := if st.vset rail ≤ mv then st.vset rail else r.cov })).railSlew rail)

/-- The hold time restarts at 1 s after 10 minutes without limiting (R340). -/
def Rail.holdNow (r : Rail) (now : Nat) : Nat :=
  match r.limited with
  | some t => if t + 600000000000 ≤ now then 1 else r.hold
  | none => r.hold

/-- RAIL_LIMITED: the cap falls to 4 steps below the highest effective step, by 4 more where the rail is limited already, no lower than 8; at
8 only "floor" is logged (R339). The hold time doubles when a rise came within the last second (R340). VGC has no step cap. -/
def State.railLimited (s : State) (r : Nat) : State :=
  let x := s.rail r
  let again := match x.rose with
    | some t => decide (s.time < t + 1000000000)
    | none => false
  let hold := x.holdNow s.time
  let s := s.updRail r (fun x => { x with lim := true, limited := some s.time, hold := if again then min (2 * hold) 64 else hold, rose := none })
  if 4 ≤ r then s.pwrLog 1 r 60
  else
    let top := ((List.range 64).map (fun i => s.effStep (64 * r + i))).foldl max 0
    if x.cap ≤ 8 then s.pwrLog 2 r x.cap
    else
      let cap := max 8 ((if x.lim then x.cap else top) - 4)
      ((s.updRail r (fun x => { x with cap := cap })).reslewHall r).pwrLog 1 r cap

/-- RAIL_LIMITED. -/
def execRailLimited (rail : Nat) (st : State) : Ans := run (inRail rail) (st.railLimited rail)

/-- The hold time at the present cap has passed: since the last limiting and the last rise (R340). -/
def Rail.held (r : Rail) (now : Nat) : Bool := decide (max (r.limited.getD 0) (r.rose.getD 0) + r.holdNow now * 1000000000 ≤ now)

/-- RAIL_CAP_RISE, once the condition has been absent for the hold time: 4 steps up; RAILLIM clears at step 60 (R340). -/
def execRailCapRise (rail : Nat) (st : State) : Ans :=
  run (inRail rail)
    (if (st.rail rail).lim ∧ (st.rail rail).held st.time then
      let cap := if rail < 4 then min 60 ((st.rail rail).cap + 4) else 60
      (((st.updRail rail (fun r => { r with cap := cap, lim := decide (cap < 60), rose := some st.time })).railSlew rail).pwrLog 3 rail cap)
     else st)

/-- REGULATOR_STATUS_ALERT: the current-limit warning (R331, R339). -/
def execRegulatorStatusAlert (rail : Nat) (on : Bool) (st : State) : Ans :=
  run (inRail rail) (st.updRail rail (fun r => { r with alert := on }))

/-! ## The weighbridge (R335) -/

def State.domain (s : State) (d : Nat) : Domain := Tab.get {} s.pwr.dom d

/-- A counter of J from parts in µJ (18 R406 ENERGY). -/
def State.energy (s : State) (n uj : Nat) : State :=
  let f := Tab.get 0 s.ledger.frac (10000 + n) + uj
  { s with ledger := { s.ledger with frac := Tab.set s.ledger.frac (10000 + n) (f % 1000000) } }.ledgerAdd (stallRec n 2) (f / 1000000)

/-- DOMAIN_ESTIMATE: `uw` µW over 1 µs, which is as many pJ; the 1 ms average takes 1,000 estimates. The energy counter wraps with the overflow
event (20 R431). -/
def State.domainEstimate (s : State) (d uw : Nat) : State :=
  let x := s.domain d
  let e := x.frac + uw
  let full := x.n + 1 = 1000
  let y : Domain := {
    mw := if full then min ((x.sum + uw) / 1000000) 0xFFFF else x.mw
    uj := x.uj + BitVec.ofNat 48 (e / 1000000)
    frac := e % 1000000
    sum := if full then 0 else x.sum + uw
    n := if full then 0 else x.n + 1 }
  let s := { s with pwr := { s.pwr with dom := Tab.set s.pwr.dom d y } }
  let s := if d < 1024 then s.energy (d / 4) (e / 1000000) else s
  if wraps48 x.uj (e / 1000000) then { s with obs := { s.obs with wbovf := NSet.add s.obs.wbovf d } }.globalOvf 4 else s

/-- DOMAIN_ESTIMATE. -/
def execDomainEstimate (d uw : Nat) (st : State) : Ans := run (inDomain d) (st.domainEstimate d uw)

/-! ## The governor (R336, R337) -/

def State.plimit (s : State) : Nat := 25 * fld32 (s.rw32 0x202100) 0 10
def State.pexc (s : State) : Nat := 25 * fld32 (s.rw32 0x202100) 10 10
def State.droopTh (s : State) : Nat := fld32 (s.rw32 0x202100) 20 7

/-- The excursion as P1MS moves: it begins above PLIMIT, is capped at 10 ms, and ends at or below PLIMIT; a grant covers the one excursion that
begins while it is in force (16 R356). -/
def State.excursion (s : State) : State :=
  let w := s.pwr
  match w.exc, decide (s.plimit < w.p1) with
  | none, true =>
    { s with pwr := { w with exc := some s.time, capped := false }, cool := { s.cool with grantExc := s.cool.grant.isSome } }
  | none, false => s
  | some t, true => { s with pwr := { w with capped := w.capped || decide (t + 10000000 ≤ s.time) } }
  | some _, false =>
    { s with
      pwr := { w with exc := none, capped := false, excEnd := some s.time },
      cool := { s.cool with grant := if s.cool.grantExc then none else s.cool.grant, grantExc := false } }

/-- L in 0.01 W. -/
def State.limit (s : State) : Nat :=
  if s.cool.grant.isSome ∧ !s.pwr.capped ∧ s.pwr.p1s < s.plimit then s.pexc else s.plimit

/-- GOVERNOR_TICK. -/
def State.governor (s : State) (p1 p10 p1s : Nat) : State :=
  let s := { s with pwr := { s.pwr with p1 := min p1 0xFFFF, p10 := min p10 0xFFFF, p1s := min p1s 0xFFFF } }.excursion
  let w := s.pwr
  let l := s.limit
  if l < w.p1 then
    let s := { s with pwr := { w with cap := max 8 (w.cap - 2), quiet := none } }.reslewAll
    if w.cap = 60 then s.used.pwrLog 5 (s.freeBelow 5) 58 else s
  else if 100 * w.p1 < 95 * l then
    let t := w.quiet.getD s.time
    let s := { s with pwr := { w with quiet := some t } }
    if w.cap < 60 ∧ t + 1000000 ≤ s.time ∧ w.rose + 1000000 ≤ s.time then
      { s with pwr := { s.pwr with cap := w.cap + 1, rose := s.time } }.reslewAll
    else s
  else { s with pwr := { w with quiet := none } }

/-- GOVERNOR_TICK: the averages in 0.01 W. -/
def execGovernorTick (p1 p10 p1s : Nat) (st : State) : Ans := run true (st.governor p1 p10 p1s)

/-! ## Droop (R338) -/

/-- The droop level of stall n in mV. -/
def State.droopLevel (s : State) (n : Nat) : Nat := Config.vbase n + 5 * ((s.stall n).clk.cur - 8) - s.droopTh

/-- DROOP_DETECT: every cycle is stretched. -/
def execDroopDetect (s mv : Nat) (st : State) : Ans :=
  run (inStall s) (if mv < st.droopLevel s then st.setClk s (fun c => { c with stretch := true }) else st)

/-- STRETCH_RELEASE. -/
def execStretchRelease (s mv : Nat) (st : State) : Ans :=
  run (inStall s)
    (if (st.stall s).clk.stretch ∧ st.droopLevel s + 10 ≤ mv then st.setClk s (fun c => { c with stretch := false }) else st)

end Sys2Proof.Machine
end

