-- ==== Sys2Proof/Machine/Images.lean ====
section
/-!
DEFINITION. Firmware images: slots, the header, verification and the compatibility tables (19 R415 to R418, R426, R427).
-/
namespace Sys2Proof.Machine

/-- Bytes of slot i (R415). -/
def slotBytes (i : Nat) : Nat := if i < 2 then 0x400000 else 0xA00000

/-- The bytes a slot holds. -/
def State.imageOf (s : State) (i : Nat) : List Byte := Tab.get [] s.fw.slot i

/-- `n` bytes of flash: what was never programmed reads 0xFF. -/
def flashAt (l : List Byte) (off n : Nat) : List Byte :=
  let b := (l.drop off).take n
  b ++ List.replicate (n - b.length) 0xFF

def imgVersion (l : List Byte) : Nat := leAt l 8 4
def imgSecver (l : List Byte) : Nat := leAt l 12 4
def imgLen (l : List Byte) : Nat := leAt l 16 4
def imgCompat (l : List Byte) : Nat := leAt l 20 2
def imgCkptfmt (l : List Byte) : Nat := leAt l 22 2

/-! ## Compatibility: a lookup gives OUTCOME and DISABLE (R426) -/

def lookupIn (entries : List (List Byte)) (kind v : Nat) (dflt : Nat × Nat) : Nat × Nat :=
  match entries.find? (fun e => leAt e 0 1 = kind && decide (leAt e 4 4 ≤ v ∧ v ≤ leAt e 8 4)) with
  | some e => (leAt e 1 1, leAt e 2 2)
  | none => dflt

def entriesAt (l : List Byte) (off n : Nat) : List (List Byte) := (List.range n).map (fun i => (l.drop (off + 16 * i)).take 16)

def imgLook (l : List Byte) (kind v : Nat) : Nat × Nat :=
  lookupIn (entriesAt l 512 (imgCompat l)) kind v (leAt l (20 + 4 * kind) 1, leAt l (22 + 4 * kind) 2)

/-- The fused lookup of hall h for a gatehouse version. -/
def fusedLook (h v : Nat) : Nat × Nat :=
  let c := Config.hallcompat h
  lookupIn (entriesAt c 0 8) 5 v (leAt c 129 1, leAt c 130 2)

/-- The halls whose tables count: rails up and reached, or without a common version (R427). -/
def State.hallsUp (s : State) : List Nat := threads4.filter (fun h => (s.hall h).rails && ((s.hall h).up || (s.hall h).nocommon))

/-- The lookups of an image for hall h: its revision, its agreed version, 0xFF without one. -/
def State.hallLooks (s : State) (l : List Byte) (h : Nat) : List (Nat × Nat) :=
  [imgLook l 1 (Config.hrev h).toNat, imgLook l 3 (if (s.hall h).nocommon then 0xFF else (s.hall h).agreed)]

/-- The lookups of the hardware outcome of gatehouse image g. -/
def State.hwLooks (s : State) (g : List Byte) : List (Nat × Nat) :=
  imgLook g 2 Config.grev.toNat :: s.hallsUp.flatMap (fun h => s.hallLooks g h ++ [fusedLook h (imgVersion g)])

/-- The lookups of the pairwise outcome of gatehouse image g and Jisan image j. -/
def State.pairLooks (s : State) (g j : List Byte) : List (Nat × Nat) :=
  [imgLook g 4 (imgVersion j), imgLook j 4 (imgVersion g), imgLook j 2 Config.grev.toNat] ++ s.hallsUp.flatMap (s.hallLooks j)

/-- The most severe outcome; 2 is refuse. -/
def worst (l : List (Nat × Nat)) : Nat := (l.map (fun x => min x.1 2)).foldl max 0

/-- DISABLE: the masks of the lookups that are degraded, reserved bits ignored (R427, R428). -/
def maskOf (l : List (Nat × Nat)) : Nat := (l.foldl (fun m x => if x.1 = 1 then m ||| x.2 else m) 0) % 4096

/-- The running images. -/
def State.gImage (s : State) : Option (List Byte) := s.fw.gslot.map s.imageOf
def State.jImage (s : State) : Option (List Byte) := s.fw.jslot.map (fun k => s.imageOf (2 + k))

/-- The lookups that decide whether the image in slot i may run beside what runs now. -/
def State.looksFor (s : State) (i : Nat) (l : List Byte) : List (Nat × Nat) :=
  if i < 2 then s.hwLooks l ++ (match s.jImage with | some j => s.pairLooks l j | none => [])
  else match s.gImage with
    | some g => s.pairLooks g l
    | none => imgLook l 2 Config.grev.toNat :: s.hallsUp.flatMap (s.hallLooks l)

/-! ## Verification (R417, R418, R421) -/

def allZero (l : List Byte) (off n : Nat) : Bool := ((l.drop off).take n).all (fun b => b = 0)

/-- The header is malformed or for another component. -/
def headerBad (h : List Byte) (i : Nat) : Bool :=
  leAt h 0 4 ≠ 0x4D495343 || leAt h 4 2 ≠ 1 || leAt h 6 1 ≠ (if i < 2 then 1 else 2) || decide (3 < leAt h 7 1) ||
    decide (32 < imgSecver h) || decide (64 < imgCompat h) || decide (imgLen h < 16 * imgCompat h) ||
    (i < 2 && imgCkptfmt h ≠ 0) || [25, 29, 33, 37].any (fun k => leAt h k 1 ≠ 0) ||
    !allZero h 40 24 || !allZero h 208 48 || !allZero h 256 256

/-- What R418 finds wrong with the image in slot i, as LASTERR; `refuse` says whether the compatibility outcome is. -/
def State.imageBad (s : State) (i : Nat) (refuse : Bool) : Option Nat :=
  let l := s.imageOf i
  let h := flashAt l 0 512
  if headerBad h i then some 0x20
  else if slotBytes i < 512 + imgLen h then some 0x21
  else if Config.sha384 (flashAt l 512 (imgLen h)) ≠ (h.drop 64).take 48 ∨
      !Config.sigOk (leAt h 7 1) (h.take 112) ((h.drop 112).take 96) then some 0x10
  else if imgSecver h < s.fw.svnmin ∨ Config.revoked (leAt h 7 1) ∨ refuse then some 0x23
  else none

/-- R418 at verification time. -/
def State.verifyImage (s : State) (i : Nat) : Option Nat := s.imageBad i (worst (s.looksFor i (s.imageOf i)) = 2)

end Sys2Proof.Machine
end

