-- ==== Sys2Proof/Machine/Thermal.lean ====
section
/-!
DEFINITION. Temperatures, the layer model, the coolant loop, the forecaster, throttling, the hardware trip and a hall's return (16; 23 R491).
-/
namespace Sys2Proof.Machine

/-! ## The layer model (R345), in 10^-9 °C and µW; the fused values lie within ±25 % of the typical ones -/

def near25 (typ v : Nat) : Nat := max (typ * 3 / 4) (min (typ * 5 / 4) v)

def thmField (h off : Nat) : Nat := bitsOf (Config.thmparam h).toNat (8 * off) 16

/-- R[i] in 0.001 K/W. -/
def thmR (h i : Nat) : Nat := near25 (if i = 0 then 120 else 80) (thmField h (2 * i))

/-- C[i] in 0.1 mJ/K. -/
def thmC (h i : Nat) : Nat := near25 (if i = 0 then 200 else if i = 9 then 300 else 80) (thmField h (24 + 2 * i))

/-- RCV0 in 0.001 K/W. -/
def thmRcv (h : Nat) : Nat := near25 500 (thmField h 20)

/-- The largest r with r^5 ≤ v, r below 2^n + lo. -/
def root5 (v : Nat) : Nat → Nat → Nat
  | 0, lo => lo
  | n + 1, lo => if (lo + 2 ^ n) ^ 5 ≤ v then root5 v n (lo + 2 ^ n) else root5 v n lo

/-- 10^6 × (1 / F)^0.8 for a flow of f / 100 L/min. -/
def flowFactor (f : Nat) : Nat := root5 (100 ^ 4 * 10 ^ 30 / f ^ 4) 26 0

/-- Heat from the cap into the coolant at temperature tc; none without flow. -/
def capHeat (h f : Nat) (t tc : Int) : Int := if f = 0 then 0 else 1000000 * (t - tc) / (thmRcv h * flowFactor f : Nat)

/-- Nodes after 1 ms, with power p into each node. -/
def thermalStep (h f : Nat) (tc : Int) (p t : List Int) : List Int :=
  (List.range 10).map (fun n =>
    let at_ := fun i => t.getD i 0
    let qin := if n = 0 then 0 else (at_ (n - 1) - at_ n) / (thmR h (n - 1) : Nat)
    let qout := if n < 9 then (at_ n - at_ (n + 1)) / (thmR h n : Nat) else capHeat h f (at_ 9) tc
    at_ n + (p.getD n 0 + qin - qout) * 10000 / (thmC h n : Nat))

/-- The anchor to the measured base. -/
def anchor (d : Int) (t : List Int) : List Int :=
  let e := d - t.getD 0 0
  t.zipIdx.map (fun x => x.1 + e * ((9 : Int) - (x.2 : Nat)) / 9)

def centi : Int := 10000000

def HallSt.nodes (x : HallSt) : List Int := (List.range 10).map (fun n => Tab.get 0 x.temp n)

def tempTab (l : List Int) : Tab Int := l.zipIdx.map (fun x => (x.2, x.1))

/-- Tc (R344, R345). -/
def State.coolantTemp (s : State) : Int := if s.cool.sensfault then 45 * nano else (s.cool.tin + s.cool.tout) * centi / 2

/-- The flow a duty demands, in 0.01 L/min (R353). -/
def dutyFlow (d : Nat) : Nat := 50 + 150 * d / 255

/-- The flow of hall h's channel (R355). -/
def State.flowOf (s : State) (h : Nat) : Nat :=
  if s.cool.ctrlseen then s.cool.flows.getD h 0
  else dutyFlow (((s.cool.hist.find? (fun x => decide (x.1 + 300000000 ≤ s.time))).map (·.2)).getD 255)

/-- 1 ms power of a hall's stall domains and aisle segments, in mW. -/
def State.hallPower (s : State) (h : Nat) : Nat :=
  ((List.range 256).map (fun i => (s.domain (256 * h + i)).mw)).foldl (· + ·) 0 +
    ((List.range 8).map (fun i => (s.domain (1024 + 8 * h + i)).mw)).foldl (· + ·) 0

/-- The nodes when a hall's rails come up. -/
def State.tempStart (s : State) (h : Nat) : State :=
  let d := (s.hall h).diode * centi
  let tc := s.coolantTemp
  s.updHall h (fun x => { x with temp := tempTab ((List.range 10).map (fun n => d + (tc - d) * (n : Nat) / 9)) })

/-- LAYER_MODEL_TICK: every 1 ms while the hall's rails are up; a layer above 105 °C is throttled (05 R116). -/
def execLayerModelTick (h : Nat) (dramUw : List Nat) (st : State) : Ans :=
  run (inHall h)
    (if (st.hall h).rails then
      let p := ((1000 * st.hallPower h : Nat) : Int) :: (dramUw.take 8).map (fun (x : Nat) => (x : Int))
      let t := thermalStep h (st.flowOf h) st.coolantTemp p (st.hall h).nodes
      let s := st.updHall h (fun x => { x with temp := tempTab (anchor (x.diode * centi) t), dram := dramUw.take 8 })
      s.updHall h (fun x => { x with
        lowerOk := x.lowerOk.filter (fun e => decide (lowerBand (s.layerEst h e.1) ≤ e.2)),
        throttle := BitVec.ofNat 8 (((List.range 8).filter (fun l => decide (105 * nano < s.layerEst h l))).foldl (fun a l => a + 2 ^ l) 0) })
     else st)

/-! ## Flow demand and its failsafe (R352, R353) -/

/-- A thermal log entry whose governing reading the spec does not name: a free value (log entry 23). -/
def State.thLogRead (s : State) (cause hall : Nat) : State :=
  s.used.thLog cause hall ((s.freeBelow 65536 : Nat) - 32768)

/-- FAILSAFE and the duty driven follow the conditions of R353; entering it is logged. -/
def State.flowUpdate (s : State) : State :=
  let c := s.cool
  let forced := c.stale || c.sensfault || c.lowflow || c.gtrip || threads4.any (fun h => (s.hall h).clamp || (s.hall h).tripped)
  let duty := if forced then 255 else 17 * c.k
  let keep := match c.hist.findIdx? (fun x => decide (x.1 + 300000000 ≤ s.time)) with
    | some i => c.hist.take (i + 1)
    | none => c.hist
  let s' := { s with cool := { c with
    failsafe := forced, duty := duty,
    hist := if duty = c.duty then keep else (s.time, duty) :: keep } }
  if forced && !c.failsafe then s'.thLogRead 9 0xFF else s'

/-- Any grant in force ends (R356). -/
def State.endGrant (s : State) : State := { s with cool := { s.cool with grant := none, grantExc := false } }

/-- The caps while SENSFAULT or LOWFLOW is set, as the platform pair keeps them (R344, R348, R357). -/
def State.cap40 (s : State) : State :=
  if s.pairActive 1 ∧ (s.cool.sensfault ∨ s.cool.lowflow) then
    threads4.foldl (fun s h => (s.updHall h (fun x => { x with cap := min x.cap 40 })).reslewHall h) s
  else s

/-- SENSFAULT sets. -/
def State.sensFault (s : State) : State :=
  if s.cool.sensfault then s
  else (({ s with cool := { s.cool with sensfault := true } }.endGrant.cap40).thLogRead 7 0xFF).flowUpdate

/-- The conditions of R348. -/
def State.lowFlowNow (s : State) : Bool :=
  let g := fld32 (s.rw32 0x20C408) 0 5
  let c := s.cool
  (decide (6000 ≤ s.pwr.p1s) && decide ((c.tout - c.tin) * ((1000 + g) * (4180 - 11 * g) * 2 : Nat) > (3 * s.pwr.p1s * 30000 : Nat))) ||
    c.fault || c.flows.any (fun f => decide (f < 50))

def State.lowFlow (s : State) : State :=
  if s.cool.lowflow ∨ !s.lowFlowNow then s
  else (({ s with cool := { s.cool with lowflow := true } }.endGrant.cap40).thLogRead 8 0xFF).flowUpdate

def thermistorOk (t : Int) : Bool := decide (-1000 ≤ t ∧ t ≤ 10000)

/-- Both readings are valid (R344). -/
def CoolSt.valid (c : CoolSt) : Bool := thermistorOk c.tin && thermistorOk c.tout && decide (c.tin ≤ c.tout + 200)

/-- DIODE_CONVERSION: junction B in 0.01 °C, and the highest ever (18 R406). -/
def execDiodeConversion (h : Nat) (t : Int) (st : State) : Ans :=
  run (inHall h)
    (let s := st.updHall h (fun x => { x with diode := t })
     if (s.ledgerAt (hallRec h 5) : Int) < t then s.ledgerSet (hallRec h 5) t.toNat else s)

/-- THERMISTOR_CONVERSION: TIN and TOUT in 0.01 °C (R342, R344, R348). -/
def execThermistorConversion (tin tout : Int) (st : State) : Ans :=
  run true
    (let s := { st with cool := { st.cool with tin := tin, tout := tout } }
     (if thermistorOk tin && thermistorOk tout then s else s.sensFault).lowFlow)

/-- SENSFAULT_TIMER: 10 s of TIN above TOUT by more than 2 °C set it, 10 s of valid readings clear it (R344). -/
def execSensfaultTimer (st : State) : Ans :=
  run true
    (if st.cool.sensfault then
      (if st.cool.valid then { st with cool := { st.cool with sensfault := false } }.flowUpdate else st)
     else if st.cool.tout + 200 < st.cool.tin then st.sensFault else st)

/-- LOWFLOW_TIMER: 10 s without either condition (R348). -/
def execLowflowTimer (st : State) : Ans :=
  run true
    (if st.cool.lowflow ∧ !st.lowFlowNow then { st with cool := { st.cool with lowflow := false } }.flowUpdate else st)

/-- COOLANT_STATUS from the coolant controller (R348, R354, R355). -/
def execCoolantStatus (flows : List Nat) (inlet : Int) (pump leak lowpress : Bool) (st : State) : Ans :=
  run true
    (if bit32 (st.rw32 0x20C40C) 8 then
      { st with cool := { st.cool with ctrlseen := true, flows := flows.take 4, fault := pump || leak } }.lowFlow
     else st)

/-- CTRLSEEN_EXPIRY: no COOLANT_STATUS for 1 s (R355). -/
def execCtrlseenExpiry (st : State) : Ans := run true { st with cool := { st.cool with ctrlseen := false } }

/-! ## The forecaster (R349 to R352) -/

/-- Power of hall h in bin b, in mW. -/
def binPower (items : List FItem) (idle : List Nat) (h b : Nat) : Nat :=
  items.foldl (fun a w => a + w.mw.getD h 0 * (min w.t1 (10 * b + 10) - max w.t0 (10 * b)) / 10) (idle.getD h 0)

/-- One bin of 10 ms from nodes t: the nodes after it and the highest of each within it. -/
def forecastBin (h f : Nat) (tc : Int) (p t : List Int) : List Int × List Int :=
  (List.range 10).foldl (fun x _ =>
    let u := thermalStep h f tc p x.1
    (u, x.2.zipWith max u)) (t, t)

/-- The model run forward: the highest of each node by bin. Flow `f0` before bin 30, `f1` from it on. -/
def State.forecastRun (s : State) (h f0 f1 : Nat) (mw : List Nat) : List (List Int) :=
  ((List.range 50).foldl (fun (x : List Int × List (List Int)) b =>
    let p := ((1000 * mw.getD b 0 : Nat) : Int) :: (s.hall h).dram.map (fun (v : Nat) => (v : Int))
    let r := forecastBin h (if b < 30 then f0 else f1) s.coolantTemp p x.1
    (r.1, x.2 ++ [r.2])) ((s.hall h).nodes, [])).2

/-- The predicted estimate of a layer. -/
def State.estOf (s : State) (t : List Int) (l : Nat) : Int := t.getD (l + 1) 0 + s.guard * nano

/-- The requirement of hall h as k (R352). -/
def State.requirement (s : State) (h : Nat) (mw : List Nat) : Nat :=
  let tgt : Int := (fld32 (s.rw32 0x20C408) 16 8 : Nat) * nano
  let meets := fun k => ((s.forecastRun h (s.flowOf h) (50 + 10 * k) mw).drop 30).all (fun t =>
    (List.range 8).all (fun l => decide (s.estOf t l ≤ tgt)) && decide (t.getD 0 0 ≤ 95 * nano))
  ((List.range 16).find? meets).getD 15

/-- Refresh raised ahead of heat in hall h, by a command of the forecaster (R351). -/
def State.raiseAhead (s : State) (h : Nat) (bins : List (List Int)) : State :=
  let lead := fld32 (s.rw32 0x20C408) 24 8
  let ahead := bins.take (cdiv lead 10)
  let band := fun l => (ahead.map (fun t => bandOf (s.estOf t l))).foldl max 0
  let x := s.hall h
  if (List.range 8).any (fun l => decide (multOf x.mult l < band l ∧ multOf x.cmd l < band l)) then
    s.updHall h (fun x => { x with
      cmd := packMult (fun l => if multOf x.mult l < band l then max (multOf x.cmd l) (band l) else multOf x.cmd l)
      lastCmd := s.time, cmdSeen := true, failsafe := false })
  else s

/-- Predicted package power by bin in mW: the halls as forecast, the rest as now. -/
def State.packageBins (s : State) (p : List (List Nat)) : List Nat :=
  let rest := 10 * s.pwr.p1 - ((threads4.map s.hallPower).foldl (· + ·) 0)
  (List.range 50).map (fun b => p.foldl (fun a l => a + l.getD b 0) rest)

/-- Position and value of the highest element. -/
def topOf (l : List Int) : Nat × Int :=
  l.zipIdx.foldl (fun b x => if b.2 < x.1 then (x.2, x.1) else b) (0, l.headD 0)

/-- FCAST. -/
def State.fcastWord (s : State) (pk : List Nat) (runs : List (List (List Int))) : Word :=
  let top := topOf (pk.map (fun (x : Nat) => (x : Int)))
  let layers := runs.map (fun r => (List.range 8).map (fun l => (r.map (fun t => s.estOf t l)).foldl max (-273 * nano)))
  let flat := layers.flatMap id
  let hot := topOf flat
  pack [(min (top.2.toNat / 100) 0xFFFF, 0, 16), (10 * top.1, 16, 16), (((hot.2 / centi) % 65536).toNat, 32, 16), (hot.1 / 8, 48, 3), (hot.1 % 8, 51, 3)]

/-- The forecaster seeks a grant for bin b (R356). -/
def State.seekGrant (s : State) (pk : List Nat) : State :=
  let bad := fun b => decide (10 * s.plimit < pk.getD b 0)
  match (List.range 6).find? (fun b => bad b && !bad (b + 1) && (b = 0 || !bad (b - 1))) with
  | none => s
  | some b =>
    let c := s.cool
    let mode := fld32 (s.rw32 0x20C408) 8 2
    if c.sensfault ∨ c.lowflow ∨ c.grant.isSome ∨ c.pending.isSome then s
    else if mode = 1 ∧ bit32 (s.rw32 0x20C40C) 8 then
      { s with cool := { c with pending := some c.seq } }.coolMsg 2
        (toLE 2 0 ++ toLE 2 (min (pk.getD b 0 / 100) 0xFFFF) ++ toLE 2 (10 * b) ++ toLE 1 10)
    else if mode = 2 ∧ c.tin ≤ 3500 ∧ !c.failsafe ∧
        threads4.all (fun h => decide ((s.hall h).diode ≤ 9500) && (List.range 8).all (fun l => decide (s.layerEst h l ≤ 90 * nano))) ∧
        !s.pwr.excEnd.any (fun t => decide (s.time < t + 1000000000)) then
      { s with cool := { c with grant := some (s.time + 100000000), grantExc := false } }
    else s

/-- FORECAST_TICK: by Jisan's processor, or in reactive mode by the platform pair. -/
def State.forecast (s : State) (items : List FItem) (idle : List Nat) : State :=
  let reactive := !s.jisanRuns
  if reactive ∧ !s.pairActive 1 then s
  else
    let p := threads4.map (fun h => (List.range 50).map (fun b => if reactive then s.hallPower h else binPower items idle h b))
    let halls := threads4.filter (fun h => (s.hall h).rails)
    let want := (halls.map (fun h => s.requirement h (p.getD h []))).foldl max 0
    let s := { s with cool := { s.cool with reactive := reactive, stale := false, want := want, k := max s.cool.k want, fmw := p } }.flowUpdate
    let run1 := fun h => s.forecastRun h (s.flowOf h) (dutyFlow s.cool.duty) (p.getD h [])
    let runs := threads4.map (fun h => if (s.hall h).rails then run1 h else [])
    let pk := s.packageBins p
    let s := { s with cool := { s.cool with fcast := s.fcastWord pk runs } }
    if reactive then s else (halls.foldl (fun s h => s.raiseAhead h (runs.getD h [])) s).seekGrant pk

/-- FORECAST_TICK. -/
def execForecastTick (items : List FItem) (idle : List Nat) (st : State) : Ans := run true (st.forecast items idle)

/-- FLOW_DEMAND_LOWER: the requirement has stayed lower for 5 s (R352). -/
def execFlowDemandLower (st : State) : Ans :=
  run true (if st.cool.want < st.cool.k then { st with cool := { st.cool with k := st.cool.want } }.flowUpdate else st)

/-- FORECAST_UPDATE_TIMEOUT: no update for 1 s (R353). -/
def execForecastUpdateTimeout (st : State) : Ans := run true { st with cool := { st.cool with stale := true } }.flowUpdate

/-- HEAT_FORECAST: the message of R354. -/
def State.heatMessage (s : State) : State :=
  let c := s.cool
  let part := fun h =>
    let p := fun b => toLE 2 (min ((c.fmw.getD h []).getD b 0 / 100) 0xFFFF)
    p 10 ++ p 25 ++ p 49 ++ toLE 2 (dutyFlow c.duty)
  s.coolMsg 1 (toLE 2 0 ++ threads4.flatMap part ++ toLE 2 (c.tin % 65536).toNat ++ toLE 2 (c.tout % 65536).toNat)

/-- HEAT_FORECAST. -/
def execHeatForecast (st : State) : Ans := run true st.heatMessage

/-! ## Grants (R356) -/

/-- GRANT: an answer to a pending request; VALID outside 1 to 1,000 is ignored. -/
def State.takeGrant (s : State) (accept : Bool) (valid : Nat) : State :=
  let c := s.cool
  if c.pending.isNone ∨ valid = 0 ∨ 1000 < valid ∨ !bit32 (s.rw32 0x20C40C) 8 then s
  else if accept then
    { s with cool := { c with
        pending := none, count := (c.count + 1) % 65536,
        grant := if c.sensfault ∨ c.lowflow then none else some (s.time + 1000000 * valid) } }
  else { s with cool := { c with pending := none } }

/-- GRANT. -/
def execGrantMsg (seq : Byte) (accept : Bool) (valid : Nat) (st : State) : Ans := run true (st.takeGrant accept valid)

/-- GRANT_REQUEST_TIMEOUT: no answer within 20 ms. -/
def execGrantRequestTimeout (st : State) : Ans := run true { st with cool := { st.cool with pending := none } }

/-- GRANT_EXPIRY: VALID ms have passed. -/
def execGrantExpiry (st : State) : Ans := run true st.endGrant

/-! ## Throttling (R357, R358) -/

/-- THERMCAP of hall h every 10 ms. -/
def State.thermcap (s : State) (h : Nat) : State :=
  let x := s.hall h
  let ests := (List.range 8).map (s.layerEst h)
  let hot := decide (10000 < x.diode) || ests.any (fun e => decide (100 * nano < e))
  let cool := decide (x.diode ≤ 9500) && ests.all (fun e => decide (e ≤ 95 * nano))
  let since := x.cool.getD s.time
  let x' : HallSt :=
    if hot then { x with cap := max 8 (x.cap - 2), cool := none }
    else if !cool then { x with cool := none }
    else if x.cool.isSome ∧ since + 100000000 ≤ s.time then { x with cap := min 60 (x.cap + 1), cool := some s.time }
    else { x with cool := some since }
  let top := if s.cool.sensfault ∨ s.cool.lowflow then 40 else 60
  (s.updHall h (fun _ => { x' with cap := min x'.cap top })).reslewHall h

/-- THERMCAP_TICK: without the platform pair THERMCAP keeps its value. -/
def execThermcapTick (st : State) : Ans :=
  run true (if st.pairActive 1 then (threads4.filter (fun h => (st.hall h).rails)).foldl State.thermcap st else st)

/-- CLAMP: junction B has reached 110 °C. -/
def State.clampOn (s : State) (h : Nat) : State :=
  if (s.hall h).clamp then s
  else ((((s.updHall h (fun x => { x with clamp := true })).endGrant.reslewHall h).ledgerAdd (hallRec h 3) 1).thLog 1 h (s.hall h).diode).flowUpdate

/-- CLAMP. -/
def execClampHall (h : Nat) (st : State) : Ans := run (inHall h) (st.clampOn h)

/-- CLAMP_RELEASE: junction B has stayed below 105 °C for 100 ms. -/
def execClampRelease (h : Nat) (st : State) : Ans :=
  run (inHall h)
    (if (st.hall h).clamp then
      (((st.updHall h (fun x => { x with clamp := false })).reslewHall h).thLog 2 h (st.hall h).diode).flowUpdate else st)

/-! ## The trip (R359) -/

/-- What a hall holds is lost with its rails: slices with their valid bits, shelves, tallies, flits in its routers and links
(R359; 09 R208; 12 R262; 15 R330). -/
def State.hallLost (s : State) (h : Nat) : State :=
  let s := ((List.range 64).map (fun i => 64 * h + i)).foldl (fun s n =>
    (((s.clearSliceLines (1048576 * n) 1048576).clearShelf n).selReset n).updStall n (fun st => { st with
      rows := [], rowPois := [], ibuf := [], ibPois := [], arr := {} })) s
  { s with
    tally := { s.tally with
      val := s.tally.val.filter (fun e => e.1 / 65536 ≠ h), pois := s.tally.pois.filter (fun x => x / 65536 ≠ h) },
    net := { s.net with
      inq := s.net.inq.filter (fun e => e.1 / 640 ≠ h), rr := s.net.rr.filter (fun e => e.1 / 640 ≠ h),
      wait := s.net.wait.filter (fun e => if e.1 < 512 then e.1 / 128 ≠ h else (e.1 - 512) / 16 ≠ h),
      open_ := s.net.open_.filter (fun e => e.1 / 640 ≠ h && e.1 % 5 ≠ h),
      link := s.net.link.map (fun e => if e.1 / 4 = h then (e.1, { e.2 with state := 0, retrain := false, dir := [] }) else e) } }

/-- A hall trips, or loses power-good (R359, R341): latched, isolated, fenced, logged. A return in progress ends. -/
def State.trip (s : State) (h : Nat) : State :=
  let x := s.hall h
  if x.tripped ∧ !x.returning then s
  else
    let s := s.updHall h (fun x => { x with
      tripped := true, rearmed := false, returning := false, rails := false, up := false, cutoff := false,
      trips := s.time :: x.trips.filter (fun t => decide (s.time < t + 24 * hourNs)), tripTime := s.time, cool := none })
    let s := (s.fenceHall h 9 0x16).hallWatches h 0x16 (fun _ => false)
    let s := (((s.hallLost h).endGrant).ledgerAdd (hallRec h 2) 1).flowUpdate
    (s.fpEvent).thLog 3 h x.diode

/-- TRIP: junction B has reached 120 °C. -/
def execTripHall (h : Nat) (st : State) : Ans := run (inHall h) (st.trip h)

/-- HALL_PG_DROP: power-good away for 2 µs or more while the hall is enabled (15 R341; 23 R491). -/
def execHallPgDrop (h ns : Nat) (st : State) : Ans :=
  run (inHall h) (if 2000 ≤ ns ∧ (st.hall h).rails then (st.pwrLog 4 h (st.rail h).cap).trip h else st)

/-- TRIPS24 (R362). -/
def State.trips24 (s : State) (h : Nat) : Nat :=
  min 255 ((s.hall h).trips.filter (fun t => decide (s.time < t + 24 * hourNs))).length

def thctl (h : Nat) : Nat := 0x20C020 + 0x40 * h

/-- REARM: 30 s below 80 °C (R360); the automatic return starts or is withheld (R361, R362). -/
def State.rearm1 (s : State) (h : Nat) : State :=
  let x := s.hall h
  if !x.tripped ∨ x.rearmed ∨ 8000 ≤ x.diode then s
  else
    let s := (s.updHall h (fun x => { x with rearmed := true })).thLog 4 h x.diode
    if !bit32 (s.rw32 (thctl h)) 1 ∨ s.cool.gtrip then s
    else if s.trips24 h < 3 then (s.updHall h (fun x => { x with returning := true })).fpEvent
    else (s.updHall h (fun x => { x with withheld := true })).thLog 11 h x.diode

/-- REARM. -/
def execRearm (h : Nat) (st : State) : Ans := run (inHall h) (st.rearm1 h)

/-- RESTART of THCTL (R360, R361, R364; 21 R463). -/
def execRestart (q : Req) (h : Nat) (st : State) : Ans :=
  run (inReq q && inHall h)
    (st.setupTry q (thctl h) 4 (reqIsSp q && st.published && (st.hall h).rearmed) (fun s =>
      if (s.hall h).returning then s else (s.updHall h (fun x => { x with returning := true, withheld := false })).fpEvent))

/-! ## What the hall tests find (17 R370, R371; 12 R276), at a start and at a return -/

def State.stallRetired (s : State) (n : Nat) : Bool := (s.fpOf n).state = 1 || (s.fpOf n).state = 2

/-- A stall fails a test, at a unit by its code of R277: retired with its records. -/
def State.failTest (s : State) (n cause unit : Nat) : State :=
  if (s.fpOf n).state = 1 ∨ (s.fpOf n).state = 2 then s
  else
    let s := s.logEvent (mkEnt 13 (if [0, 2, 3, 6, 8, 10].contains unit then unit else 0) 5 (s.pt.active.owner n) n (unit256 * n)) []
    let s := s.logEvent (mkEnt 11 0 5 (s.pt.active.owner n) n (unit256 * n)) (s.owners n)
    let s := { s with fp := Tab.set s.fp n { state := 1, cause := cause } }.keepBlock n
    let s := (s.ledgerSet (stallRec n 5) s.retireTime).ledgerSet (stallRec n 6) cause
    s.dlAppend (stallRecord (if cause = 1 then 0 else 1) n cause)

/-- A bond fails the loopback test: erased, or the second of its port. -/
def State.failBond (s : State) (source n port sym : Nat) : State :=
  let d := s.sliceOf n
  if Tab.find d.erased port = some sym then s
  else
    let s := s.logEvent (mkEnt 6 0 5 (s.pt.active.owner n) (n + port * 2 ^ 8 + sym * 2 ^ 16) (unit256 * n + 256 * port)) (s.owners n)
    let s := s.dlAppend (bondRec source n port sym)
    if (Tab.find d.erased port).isSome then
      let s := (s.updSlice n (fun d => { d with unavail := true })).logEvent
        (mkEnt 7 0 5 (s.pt.active.owner n) (n + port * 2 ^ 8) (unit256 * n + 256 * port)) (s.owners n)
      s.failTest n 5 0
    else s.updSlice n (fun d => { d with erased := Tab.set d.erased port sym })

/-- The hall self-test and the checkers of hall h. A router or tally unit at fault leaves the hall broken. -/
def State.testHall (s : State) (h : Nat) (f : HallFind) : State :=
  let s := (f.fail.filter (fun x => hallOf x.1 = h)).foldl (fun s x => s.failTest x.1 (if x.2.1 = 1 ∨ x.2.1 = 2 ∨ x.2.1 = 3 then x.2.1 else 2) x.2.2) s
  let s := (f.bonds.filter (fun x => hallOf x.1 = h ∧ x.2.1 < 4 ∧ x.2.2 < 18 && !s.stallRetired x.1)).foldl (fun s x => s.failBond 1 x.1 x.2.1 x.2.2) s
  let s := match f.router with
    | some r => (s.logEvent (mkEnt 13 7 5 none h 0) []).dlAppend (routerRec 1 h (r % 64))
    | none => s
  let s := if f.tallyBad then s.logEvent (mkEnt 13 4 5 none h 0) [] else s
  s.updHall h (fun x => { x with broken := f.router.isSome || f.tallyBad })

/-- Lane faults that full training finds on the links of hall h: steered while a spare is free, else the group is lost (10 R222, R226). -/
def State.laneFinds (s : State) (h : Nat) (l : List (Nat × Nat × Nat × Nat)) : State :=
  (l.filter (fun x => x.1 / 4 = h ∧ x.2.1 < 2 ∧ x.2.2.1 < 16)).foldl (fun s x =>
    let b := Tab.get 0 ((s.link x.1).side x.2.1).lanes x.2.2.1
    let lost := 33 ≤ x.2.2.2 || bitsOf b 6 1 = 1 || bitsOf (s.hall h).afeat 0 1 = 0
    s.laneMark 0 x.1 x.2.1 x.2.2.1 (x.2.2.2 % 64) lost) s

/-- A group whose parity checker fails its self-test is lost (12 R276). -/
def State.parityFinds (s : State) (h : Nat) (l : List (Nat × Nat × Nat)) : State :=
  (l.filter (fun x => x.1 / 4 = h ∧ x.2.1 < 2 ∧ x.2.2 < 16)).foldl (fun s x =>
    (s.logEvent (mkEnt 13 7 5 none (x.1 + x.2.2 * 2 ^ 8) 0) []).laneMark 0 x.1 x.2.1 x.2.2 0 true) s

/-- A link in service is as wide as its lost groups leave it (10 R222, R226). -/
def State.fitLinks (s : State) (h : Nat) : State :=
  threads4.foldl (fun s a => s.updLink (4 * h + a) (fun x =>
    if x.carries then { x with state := x.stateBy (bitsOf (s.hall h).afeat 1 1 = 1) } else x)) s

/-- Full arcade training of hall h: groups found whole lose their marks, those found faulty get theirs; a link that fails is retired, the
others are as wide as their lost groups leave them (10 R222, R226). -/
def State.trainLinks (s : State) (h : Nat) (f : HallFind) : State :=
  let s := threads4.foldl (fun s a =>
    (s.remark (4 * h + a) []).updLink (4 * h + a) (fun x => { x with
      state := if f.links.getD a false then 2 else 5, retrain := false, dir := [] })) s
  ((s.laneFinds h f.lanes).parityFinds h f.parity).fitLinks h

/-- Refresh from the moment the rails are up (05 R117). -/
def State.refreshStart (s : State) (h : Nat) : State :=
  s.updHall h (fun x => { x with
    mult := 0xAAAA, cmd := 0xAAAA, cmdSeen := false, failsafe := false, lastCmd := s.time, refn := [], refEnd := [], lowerOk := [],
    frame0 := s.time, frames := 0, quarter := 0 })

/-- Row copies that the defect list has recorded are in the map once it is rebuilt (21 R458). -/
def SliceSt.settle (d : SliceSt) : SliceSt :=
  { d with
    retired := d.retired + (d.map.filter (fun e => e.copying)).length,
    map := d.map.map (fun e => { e with copying := false }), now := 0, wait := [], live := [] }

/-! ## The return (R361) -/

/-- A return fails: HALLEN deasserted again, TRIPPED as it was. -/
def State.returnFails (s : State) (h : Nat) : State :=
  if (s.hall h).returning then
    ((s.updHall h (fun x => { x with returning := false, rails := false, up := false })).thLog 6 h (s.hall h).diode).fpEvent
  else s

/-- Version negotiation of a return: none without a common version. -/
def State.negotiate (s : State) (h : Nat) (r : CapRec) : Option State :=
  let g := (s.hall h).gcap
  let r := capOf r
  (agreeOn g r).map (fun v => s.updHall h (fun x => { x with
    hcap := r, agreed := v, afeat := g.feat &&& r.feat, nocommon := false }))

/-- The compatibility of a returning hall (19 R427): not refused, nothing disabled that is not already. -/
def State.returnFits (s : State) (h : Nat) : Bool :=
  let g := (s.gImage.map (fun g => s.hallLooks g h ++ [fusedLook h (imgVersion g)])).getD []
  let j := if s.fw.jisan then (s.jImage.map (fun j => s.hallLooks j h)).getD [] else []
  worst (g ++ j) ≠ 2 && maskOf (g ++ j) &&& s.fw.disable = maskOf (g ++ j)

/-- Step 6: the hall serves again, or stays cut off where a router or its tally unit failed. -/
def State.hallBack (s : State) (h : Nat) : State :=
  let all := (List.range 64).map (fun i => 64 * h + i)
  let ok := !(s.hall h).broken
  let s := s.updHall h (fun x => { x with up := ok, cutoff := !ok, tripped := false, rearmed := false, returning := false, withheld := false })
  let s := all.foldl (fun s n =>
    if (s.fpOf n).state = 3 then { s with fp := Tab.set s.fp n (if ok then {} else { state := 3, cause := 8 }) } else s) s
  let s := ((s.thLog 5 h (s.hall h).diode).ledgerAdd (hallRec h 6) 1).flowUpdate
  s.fpEvent

/-- A link of hall h carries traffic. -/
def State.linked (s : State) (h : Nat) : Bool := threads4.any (fun a => (s.link (4 * h + a)).carries)

/-- HALL_RETURN: its steps in order, or a failure at one of them. -/
def State.hallReturn (s : State) (h : Nat) (f : HallFind) : State :=
  if !(s.hall h).returning then s
  else if !f.pg ∨ f.links.all (fun b => !b) then s.returnFails h
  else
    match s.negotiate h f.cap with
    | none => s.returnFails h
    | some t =>
      if !t.returnFits h then s.returnFails h
      else
        let t := ((t.updHall h (fun x => { x with rails := true })).align h).trainLinks h f
        if !t.linked h then t.returnFails h
        else
        let t := ((t.refreshStart h).tempStart h).updHall h (fun x => { x with remap := t.wantedRemap h })
        let t := t.testHall h f
        let t := ((List.range 64).map (fun i => 64 * h + i)).foldl (fun s n =>
          let s := (s.clearShelf n).updSlice n SliceSt.settle
          { s with mem := { s.mem with lost := NSet.add s.mem.lost n } }) t
        t.hallBack h

/-- HALL_RETURN. -/
def execHallReturn (h : Nat) (f : HallFind) (st : State) : Ans := run (inHall h) (st.hallReturn h f)

/-- HALL_PG_TIMEOUT: no power-good within 20 ms of HALLEN (23 R491). -/
def execHallPgTimeout (h : Nat) (st : State) : Ans := run (inHall h) (st.returnFails h)

/-! ## The gatehouse trip (R363) -/

/-- GATEHOUSE_TRIP: every hall trips, and every gatehouse domain but 1,072 stops. -/
def State.gatehouseTrip (s : State) : State :=
  if s.cool.gtrip then s
  else
    let s := threads4.foldl State.trip (s.thLogRead 10 0xFF)
    let s := { s with cool := { s.cool with gtrip := true, pending := none } }.flowUpdate
    let s := s.ledgerAdd 0x58 1
    { s with
      boot := { s.boot with phase := 0 }, fpValid := false, port := { s.port with memActive := false, width := 0, speed := 0 },
      svc := { s.svc with sp := s.svc.sp.map (fun e => (e.1, if e.2.role = 5 then e.2 else { e.2 with role := 0 })) } }

/-- GATEHOUSE_TRIP. -/
def execGatehouseTrip (st : State) : Ans := run true st.gatehouseTrip

end Sys2Proof.Machine
end

