-- ==== Sys2Proof/Machine/Start.lean ====
section
/-!
DEFINITION. Starts: what each kind keeps, its phases, what the tests find, publication; the defect list's upkeep; main power
(17; 05 R120; 11 R234; 19 R423; 21 R454, R459; 23 R487, R490 to R492).
-/
namespace Sys2Proof.Machine

/-! ## What the defect list says (17 R374 to R378) -/

/-- The records that are whole, those held in gatehouse SRAM after them. -/
def DlSt.records (d : DlSt) : List Word := (d.cur.recs ++ d.held).filter recOk

/-- Serial number of the latest MODID record of module m. -/
def modidOf (l : List Word) (m : Nat) : Option Nat :=
  ((l.filter (fun r => recKind r = 8 && fld r 8 2 = m)).getLast?).map (fun r => fld r 10 32)

/-- The FROW and FCHAN records of module m that still apply: those after the last change of its serial number (R378). -/
def boundRecs (l : List Word) (m : Nat) : List Word :=
  (l.foldl (fun (x : Option Nat × List Word) r =>
    if recKind r = 8 ∧ fld r 8 2 = m then
      (if x.1 = some (fld r 10 32) then x else (some (fld r 10 32), []))
    else if (recKind r = 4 ∨ recKind r = 5) ∧ fld r 8 5 / 8 = m then (x.1, x.2 ++ [r])
    else x) (none, [])).2

/-- RETCH of module m. -/
def retchOf (l : List Word) (m : Nat) : Nat :=
  ((List.range 8).filter (fun j => (boundRecs l m).any (fun r => recKind r = 5 && fld r 8 5 = 8 * m + j))).foldl (fun a j => a + 2 ^ j) 0

/-- A slice as its records leave it: retired rows with their spares, erased bonds. -/
def sliceFrom (l : List Word) (n now : Nat) : SliceSt :=
  let own := l.filter (fun r => fld r 8 8 = n)
  let rows := (own.filter (fun r => recKind r = 1)).foldl (fun (m : List RetEnt) r =>
    let e : RetEnt := { row := fld r 16 17, spare := some (fld r 33 17), time := now, copying := false }
    if m.any (fun x => x.row = e.row) then m.map (fun x => if x.row = e.row then e else x) else m ++ [e]) []
  (own.filter (fun r => recKind r = 2)).foldl (fun (d : SliceSt) r =>
    let port := fld r 16 2
    match Tab.find d.erased port with
    | none => { d with erased := Tab.set d.erased port (fld r 18 5) }
    | some sym => if sym = fld r 18 5 then d else { d with unavail := true }) { map := rows, retired := rows.length }

/-! ## U and D (05 R120) -/

/-- A retired row needs a spare with D donor row indices. -/
def needsSpare (d row : Nat) : Bool := decide (row % 1024 < 1016 - d ∨ 1020 ≤ row % 1024)

def portRow (row : Nat) : Nat := row / 32768

/-- Free spare rows of a port with D donor row indices: a retired row uses one, or is one that gives none. -/
def SliceSt.freeWith (s : SliceSt) (d port : Nat) : Int :=
  128 + 32 * (d : Int) - ((s.map.filter (fun e => portRow e.row = port)).length : Nat)

/-- D and U are set, and every retired row that needs a spare has one; a slice beyond the limits is unavailable. -/
def SliceSt.rebuild (s : SliceSt) (now : Nat) : SliceSt :=
  let fits := fun d => threads4.all (fun k => decide (32 ≤ s.freeWith d k))
  match (List.range 30).find? fits with
  | none => { s with unavail := true, u := 0, d := 29 }
  | some d =>
    let many := threads4.any (fun k => decide (1024 < (s.map.filter (fun e => portRow e.row = k && needsSpare d e.row)).length))
    let gone := fun r => s.map.any (fun e => e.row = r)
    let kept := fun (e : RetEnt) => e.spare.any (fun sp => sp ≠ e.row && !gone sp && (spareOrder (portRow e.row) d).contains sp)
    let fixed := s.map.filter (fun e => !needsSpare d e.row || kept e)
    let map := s.map.foldl (fun (m : List RetEnt) e =>
      if !needsSpare d e.row then m.map (fun x => if x.row = e.row then { x with spare := some e.row } else x)
      else if kept e then m
      else
        let sp := (spareOrder (portRow e.row) d).find? (fun r => !gone r && m.all (fun x => x.spare ≠ some r))
        m ++ [{ e with spare := sp, time := now }]) fixed
    { s with map := map, d := d, unavail := s.unavail || many, u := if s.unavail || many then 0 else 0x0FE00000 - d * 0x40000 }

/-! ## Far layout (11 R234) -/

/-- USED, ML code, DISP, CHCAP and usable units for healthy modules with their channel capacities. -/
def layoutOf (l : List (Nat × Nat)) : Nat × Nat × Nat × Nat × Nat :=
  let caps := (l.map (·.2)).foldl min 4
  let set := (l.map (fun x => 2 ^ x.1)).foldl (· + ·) 0
  let units := 8 * l.length * 4 * 2 ^ caps
  match l.length with
  | 0 => (0, 0, 0, 0, 0)
  | 1 => (set, 1, 0, caps, units)
  | 2 => (set, 2, 0, caps, units)
  | 3 => (15, 3, 15 - set, caps, units)
  | _ => (15, 3, 0, caps, units)

/-! ## What stays (17 R366; 21 R454; 23 R492) -/

/-- What main power takes: flash, fuses, host memory, the trip latches and the modules' presence stay. -/
def State.powerOff (s : State) : State :=
  { State.reset with
    pending := s.pending, freeCtr := s.freeCtr, outbox := s.outbox,
    mem := { host := s.mem.host, hostPois := s.mem.hostPois },
    far := { mod := s.far.mod.map (fun e => (e.1, { present := e.2.present, state := if e.2.present then 1 else 0 })) },
    dl := { s.dl with held := [], fault := false },
    ledger := { snap := s.ledger.snap },
    halls := s.halls.map (fun e => (e.1, { tripped := e.2.tripped, rearmed := e.2.rearmed, diode := e.2.diode })),
    fw := { rec_ := s.fw.rec_, slot := s.fw.slot, svnmin := s.fw.svnmin } }

/-- The ledger as the snapshot with the highest SNAPSEQ leaves it, or new (18 R409, R411). -/
def LedgerSt.load (l : LedgerSt) : LedgerSt :=
  let best := l.snap.foldl (fun (b : Option Snap) e => match b with
    | some x => if x.seq < e.2.seq then some e.2 else b
    | none => some e.2) none
  match best with
  | some x => { snap := l.snap, seq := x.seq + 1, cnt := x.cnt, flags := x.flags, offset := x.cal, unsynced := true }
  | none => { snap := [], newLedger := true, unsynced := true }

def hallFound (f : Find) (h : Nat) : HallFind := f.halls.getD h {}
def modFound (f : Find) (m : Nat) : ModFind := f.mods.getD m {}

/-- The state in which a cold start begins its phases: halls below 80 °C and not held by their latch have power (R360). -/
def State.coldBase (s : State) (f : Find) : State :=
  let s := s.powerOff
  let hall := fun h =>
    let x := s.hall h
    let d := f.diode.getD h 3000
    let down := decide (8000 ≤ d) || (x.tripped && !x.rearmed) || !(hallFound f h).pg
    (h, ({ diode := d, tripped := down, rails := !down } : HallSt))
  { s with
    halls := threads4.map hall, ledger := s.ledger.load,
    boot := { pwrgd := true, smb := f.smb, ssc := f.ssc, kind := 0 } }

/-- What a warm start keeps before its phases run. Stalls that served another pitch than P0 and far shares of other pitches are emptied
(04 R93), and so are retired stalls (18 R402). -/
def State.warmBase (s : State) (f : Find) (kind : Nat) : State :=
  let t := s.pt.active
  let c := allStalls.foldl (fun s n => if (s.stall n).served ≠ 0 ∨ s.stallOut n ∧ (s.fpOf n).state ≠ 3 then s.emptyStall n else s) s
  let c := (allPitches.filter (fun p => p ≠ 0)).foldl (fun s p => s.clearFarLines (1048576 * t.farbase p) (1048576 * t.farsize p)) c
  { State.reset with
    pending := s.pending, freeCtr := s.freeCtr, outbox := s.outbox, time := s.time, mem := c.mem.warm f.badBack,
    slices := s.slices.map (fun e => (e.1, e.2.settle)),
    stalls := s.stalls.map (fun e => (e.1, { clk := { base := s.cycle e.1, at_ := s.time } })),
    pt := { ctl := s.pt.ctl.map (fun e => (e.1, { presetgen := e.2.presetgen })) },
    far := { s.far with cache := [], q := [], refn := [] },
    port := { poison := s.port.poison.filter (fun x => x.1 = 0) },
    net := { link := s.net.link.map (fun e => (e.1, { e.2 with
      retrain := false, dir := e.2.dir.map (fun d => (d.1, { lanes := d.2.lanes })) })) },
    boot := { pwrgd := true, smb := s.boot.smb, ssc := s.boot.ssc, trained := s.boot.trained, kind := kind },
    dl := s.dl, ledger := s.ledger, setup := s.setup.filter (fun e => e.1 = 0x1008 / 4),
    halls := threads4.map (fun h => (h, { s.hall h with
      returning := false, withheld := false, cool := none, cap := 60, diode := f.diode.getD h (s.hall h).diode, throttle := 0 })),
    fp := s.fp.filter (fun e => e.2.state = 1 || e.2.state = 2),
    svc := { sp := s.svc.sp.map (fun e => (e.1, { fails := e.2.fails, role := if e.2.role = 5 then 5 else 0 })) },
    fw := { rec_ := s.fw.rec_, slot := s.fw.slot, svnmin := s.fw.svnmin } }

/-! ## Phase 2: images (19 R423, R427) -/

/-- The boot record is written: BRGEN rises. -/
def State.bootWrite (s : State) (f : BootRec → BootRec) : State :=
  { s with fw := { s.fw with rec_ := { f s.fw.rec_ with gen := s.fw.rec_.gen + 1 } } }

/-- The slot that a start loads for component c: `bad` says what R418 finds wrong with slot i. -/
def State.chooseSlot (s : State) (c : Nat) (bad : State → Nat → Bool) : State × Option Nat :=
  let r := s.fw.rec_
  let pend := r.pend.getD c 0xFF
  let drop := fun (s : State) (clear : Bool) =>
    let s := s.bootWrite (fun r => { r with
      pend := r.pend.set c 0xFF, slots := if clear then r.slots.set (2 * c + pend) 0 else r.slots })
    { s with fw := { s.fw with reverted := true } }
  let x : State × Nat :=
    if pend = 0xFF then (s, r.run.getD c 0xFF)
    else if r.tries.getD c 0 = 0 then (drop s false, r.run.getD c 0xFF)
    else
      let s := s.bootWrite (fun r => { r with tries := r.tries.set c (r.tries.getD c 0 - 1) })
      if bad s (2 * c + pend) then (drop s true, r.run.getD c 0xFF) else (s, pend)
  let s := x.1
  if 2 ≤ x.2 then (s, none)
  else if !bad s (2 * c + x.2) then (s, some x.2)
  else
    let o := 1 - x.2
    if s.fw.rec_.slots.getD (2 * c + o) 0 = 2 ∧ !bad s (2 * c + o) then (s, some o) else (s, none)

/-- Both components are chosen, the outcomes and DISABLE set. -/
def State.loadImages (s : State) : State :=
  let g := s.chooseSlot 0 (fun s i => (s.imageBad i (worst (s.hwLooks (s.imageOf i)) = 2)).isSome)
  match g.2 with
  | none => { g.1 with fw := { g.1.fw with recovery := true } }
  | some a =>
    let gi := g.1.imageOf a
    let j := g.1.chooseSlot 1 (fun s i => (s.imageBad i (worst (s.pairLooks gi (s.imageOf i)) = 2)).isSome)
    let s := j.1
    let hw := s.hwLooks gi
    let pw := (j.2.map (fun b => s.pairLooks gi (s.imageOf (2 + b)))).getD []
    { s with fw := { s.fw with
        gslot := some a, jslot := j.2, jisan := j.2.isSome, hwout := worst hw, pairout := worst pw, disable := maskOf (hw ++ pw),
        upd := if s.fw.rec_.pend.getD 0 0xFF = a ∨ j.2.any (fun b => s.fw.rec_.pend.getD 1 0xFF = b) then 4 else 0 } }

/-! ## Phases 3 to 7 -/

/-- A hall on the fast path: stored records and replayed delays hold (R373). -/
def State.fastHall (s : State) (f : Find) (h : Nat) : Bool :=
  (hallFound f h).replay && capOf (hallFound f h).cap = (s.hall h).hcap && capOf f.gcap = (s.hall h).gcap

/-- Phase 3 for one hall with power. -/
def State.startLinks (s : State) (f : Find) (fast : Bool) (h : Nat) : State :=
  let s :=
    if fast ∧ s.fastHall f h then (s.parityFinds h (hallFound f h).parity).fitLinks h
    else
      let s := (s.updHall h (fun x => { x with gcap := capOf f.gcap, hcap := capOf (hallFound f h).cap }))
      match s.negotiate h (hallFound f h).cap with
      | some t =>
        t.trainLinks h (hallFound f h)
      | none =>
        let s := s.updHall h (fun x => { x with agreed := 0, afeat := 0, nocommon := true })
        threads4.foldl (fun s a => s.updLink (4 * h + a) (fun x => { x with state := 0, retrain := false, dir := [] })) s
  let up := s.linked h
  (s.updHall h (fun x => { x with up := up, cutoff := !up, remap := s.wantedRemap h })).align h

/-- Phases 4 and 5 for one hall that is up. -/
def State.startTests (s : State) (f : Find) (full : Bool) (h : Nat) : State :=
  if !(s.hall h).up then s
  else
    let g := hallFound f h
    let s := if full then s.testHall h g else
      let s := (g.fail.filter (fun x => hallOf x.1 = h ∧ x.2.1 = 1)).foldl (fun s x => s.failTest x.1 1 x.2.2) s
      let s := if g.tallyBad then s.logEvent (mkEnt 13 4 5 none h 0) [] else s
      s.updHall h (fun x => { x with broken := x.broken || g.tallyBad })
    let s := if full then ((List.range 64).map (fun i => 64 * h + i)).foldl State.clearShelf s else s
    if (s.hall h).broken then s.updHall h (fun x => { x with up := false, cutoff := true }) else s

/-- Failing rows that a march test finds (R372). -/
def State.marchRows (s : State) (f : Find) : List (Nat × Nat × Nat) :=
  f.march.filter (fun x => x.1 < 256 ∧ x.2.1 < 131072 && !(s.sliceOf x.1).unavail)

/-- Phase 6: failing rows, which phase 8 retires, and the bonds that three of them share (R372). -/
def State.marchTest (s : State) (f : Find) : State :=
  let rows := s.marchRows f
  let s := rows.foldl (fun s x =>
    s.logEvent (mkEnt 13 0 5 (s.pt.active.owner x.1) (x.1 + portRow x.2.1 * 2 ^ 8) (unit256 * x.1 + rowOff x.2.1)) []) s
  let bonds := ((rows.map (fun x => (x.1, portRow x.2.1, x.2.2))).eraseDups).filter (fun k => decide (k.2.2 < 18) &&
    decide (3 ≤ ((rows.filter (fun x => (x.1, portRow x.2.1, x.2.2) = k)).map (·.2.1)).eraseDups.length))
  bonds.foldl (fun s k => s.failBond 2 k.1 k.2.1 k.2.2) s

/-- A module's identity is compared with the list; another one starts clean (R378). -/
def State.startModid (s : State) (f : Find) (m : Nat) : State :=
  let g := modFound f m
  if g.present ∧ modidOf s.dl.records m ≠ some g.serial.toNat then s.dlAppend (modidRec 3 m g.serial) else s

/-- Channels that fail their checker or training: P0 holds all of far memory at a start (04 R84). -/
def State.badChannels (s : State) (l : List Nat) : State :=
  (l.filter (fun c => c < 32)).foldl (fun s c =>
    if bitsOf (retchOf s.dl.records (c / 8)) (c % 8) 1 = 1 then s
    else ((s.logEvent (mkEnt 13 1 5 none c 0) []).logEvent (mkEnt 9 1 5 none c 0) [0]).dlAppend (fchanRec 3 c)) s

/-- A healthy module with its channel capacity. -/
def State.healthy (s : State) (f : Find) (cold : Bool) (m : Nat) : Option (Nat × Nat) :=
  let g := modFound f m
  if g.present ∧ modRate g ≠ 0 ∧ (g.tested ∨ !cold) ∧ modFits g ∧ retchOf s.dl.records m = 0 then (chcapOf g.rawBytes).map (fun k => (m, k)) else none

/-- The module of a position as the start leaves it. -/
def State.startModule (s : State) (f : Find) (live : List Nat) (m : Nat) : State :=
  let g := modFound f m
  let on := live.contains m
  let l := s.dl.records
  let s := if g.present && !on && !(modRate g ≠ 0 && g.tested && modFits g) then s.logEvent (mkEnt 13 1 5 none (8 * m) 0) [] else s
  s.updModule m (fun x => { ({ present := g.present, lasterr := 0 } : Module).found g with
    rate := if on then modRate g else 0,
    state := if on then 3 else if g.present then 1 else 0, trained := on, power := on, retch := retchOf l m, temp := x.temp })

/-- The repair records that apply, by channel in order. -/
def State.startRepairs (s : State) : List (Nat × Nat) :=
  threads4.flatMap (fun m => ((boundRecs s.dl.records m).filter (fun r => recKind r = 4)).map (fun r => (fld r 8 5, 16 * fld r 13 20)))

/-- The layout is chosen anew; contents stay only under the same layout. -/
def State.chooseLayout (s : State) (f : Find) (cold : Bool) : State :=
  let l := threads4.filterMap (s.healthy f cold)
  let y := layoutOf l
  let old := s.far
  let same := !cold && old.used = y.1 && old.ml = y.2.1 && old.disp = y.2.2.1 && old.chcap = y.2.2.2.1
  let s := threads4.foldl (fun s m => s.startModule f (l.map (·.1)) m) s
  let dis := (s.dl.records.filter (fun r => recKind r = 6)).foldl (fun d r => NSet.add d (fld r 8 15 * 12 + fld r 23 4)) []
  let s := { s with far := { s.far with
      used := y.1, ml := y.2.1, disp := y.2.2.1, chcap := y.2.2.2.1, usable := y.2.2.2.2, repairs := s.startRepairs, dis := dis } }
  if same then s else { s with mem := { s.mem with far := [], farValid := [], farPois := [], farUe := [] } }

/-- Phase 7: modules that move, are displaced or off in the layout keep the layout on a warm start while its live modules are healthy
(21 R459). -/
def State.startFar (s : State) (f : Find) (cold : Bool) : State :=
  let s := threads4.foldl (fun s m => s.startModid f m) s
  let s := s.badChannels f.badCh
  let inLayout := members4 s.far.used
  let apart := fun m => let x := s.module m; x.state = 1 || x.state = 2 || x.state = 4 || x.state = 5 || x.state = 6
  let liveOk := inLayout.all (fun m => (s.module m).state = 1 || (s.module m).state = 2 || (s.module m).state = 5 || (s.healthy f cold m).isSome)
  if !cold ∧ inLayout.any apart ∧ liveOk then
    inLayout.foldl (fun s m =>
      let x := s.module m
      if x.busy = 1 then s.updModule m (fun x => { x with busy := 0, state := 1, power := false, trained := false, rate := 0 })
      else if x.state = 2 then
        (if (s.healthy f true m).isSome then s.updModule m (fun x => { x.found (modFound f m) with state := 5, trained := true, lost := false })
         else s.updModule m (fun x => { x with state := 1, power := false }))
      else s) s
  else s.chooseLayout f cold

/-- Phase 7, and the usable far memory of this start, which DVSEC Range 2 reports until the next (R251). -/
def State.startFarAll (s : State) (f : Find) (cold : Bool) : State :=
  let s := s.startFar f cold
  { s with far := { s.far with atStart := s.far.usable } }

/-! ## Phases 8 and 9 -/

/-- The retirement maps, U and what retired stalls keep (05 R118, R120; 17 R370); `rows` (stall, row) failed the march test. Every pair that is
new is recorded. -/
def State.startSlices (s : State) (cold : Bool) (rows : List (Nat × Nat)) : State :=
  let l := s.dl.records
  allStalls.foldl (fun s n =>
    let old := s.sliceOf n
    let x : SliceSt := if cold then sliceFrom l n s.time else
      let fresh := (sliceFrom l n s.time).map.filter (fun e => old.map.all (fun x => x.row ≠ e.row))
      { old with map := old.map ++ fresh, retired := old.retired + fresh.length }
    let own := (((rows.filter (fun y => y.1 = n)).map (·.2)).eraseDups).filter (fun r => x.map.all (fun e => e.row ≠ r))
    let d : SliceSt := { x with
      map := x.map ++ own.map (fun r => (⟨r, none, s.time, false⟩ : RetEnt)),
      retired := x.retired + own.length }.rebuild s.time
    let d := { d with retired := d.retired + (if cold then 0 else
      (d.map.filter (fun e => e.spare.isSome && old.map.any (fun x => x.row = e.row && x.spare.isNone && !x.copying))).length) }
    let s : State := { s with slices := Tab.set s.slices n d }
    let s := (d.map.filter (fun e => x.map.all (fun y => y.row ≠ e.row || y.spare ≠ e.spare))).foldl (fun s e =>
      s.dlAppend (srowRec (if own.contains e.row then 2 else 4) n e.row (e.spare.getD e.row))) s
    let s := if d.u < old.u then s.clearSliceLines (1048576 * n + d.u / 256) ((old.u - d.u) / 256) else s
    if d.unavail ∧ (s.fpOf n).state = 0 ∧ !old.unavail then s.failTest n 6 0 else s) s

/-- Stalls that the list retires (R375, R385). -/
def State.startStalls (s : State) : State :=
  (s.dl.records.filter (fun r => recKind r = 3)).foldl (fun s r =>
    { s with fp := Tab.set s.fp (fld r 8 8) { state := if fld r 4 3 = 4 then 2 else 1, cause := fld r 16 8 } }) s

/-- Stalls of halls that are down or cut off are fenced. -/
def State.startFences (s : State) : State :=
  allStalls.foldl (fun s n =>
    let x := s.hall (hallOf n)
    if (s.fpOf n).state = 1 ∨ (s.fpOf n).state = 2 ∨ x.up then s
    else { s with fp := Tab.set s.fp n { state := 3, cause := if x.rails then 8 else 9 } }) s

/-- The records found are written, or held with DLFAULT; a list with no valid copy begins copy A (R374, R379, R388). -/
def State.startList (s : State) (ok : Bool) : State :=
  if !ok then { s with dl := { s.dl with fault := true } }
  else { s with dl := { s.dl.write s.dl.held with held := [], fault := false } }

/-- The service processors take their roles (18 R390, R399). -/
def State.startRoles (s : State) (l : List Bool) : State :=
  let ok := fun i => l.getD i false && (Tab.get {} s.svc.sp i : SpSt).role ≠ 5
  let sp := threads4.map (fun i =>
    let x : SpSt := Tab.get {} s.svc.sp i
    let first := i % 2 = 0 || !ok (i - 1)
    (i, { x with role := if !ok i then 5 else if first then 3 else 2, hb := s.time, img := if i < 2 then s.fw.jslot else none }))
  let pr := [0, 1].map (fun q =>
    let a := ok (2 * q)
    let b := ok (2 * q + 1)
    (q, ({ owner := if a then 0 else if b then 1 else 0, none_ := !a && !b, simplex := a != b } : PairSt)))
  { s with svc := { sp := sp, pair := pr } }

/-- Phase 9: the floor plan is published and CXL.mem served (R367, R381, R386). -/
def State.publish (s : State) (f : Find) : State :=
  { s with
    fpValid := true, port := { s.port with memActive := true },
    boot := { s.boot with
      phase := 9, fpgen := 2, changed := true, changedAt := s.time, pubAt := s.time, trained := true, startMs := min f.ms 0xFFFF } }.raiseAll

/-- A start that ends in recovery (19 R429). -/
def State.recover (s : State) (f : Find) : State :=
  { s with
    halls := s.halls.map (fun e => (e.1, { e.2 with up := false })),
    fw := { s.fw with recovery := true, gslot := none, jslot := none, jisan := false, disable := 0 },
    boot := { s.boot with phase := 15, startMs := min f.ms 0xFFFF } }

/-- BOOTCFG of a cold start: the latest BOOTOPT record (R389). -/
def State.startBootcfg (s : State) : State :=
  match (s.dl.records.filter (fun r => recKind r = 10)).getLast? with
  | some r => s.setRw32 0x1008 (BitVec.ofNat 32 (fld r 8 3))
  | none => s

/-- The hall returns that the latches allow begin again after publication (16 R361). -/
def State.startReturns (s : State) : State :=
  threads4.foldl (fun s h =>
    let x := s.hall h
    if x.tripped ∧ x.rearmed ∧ s.trips24 h < 3 then s.updHall h (fun x => { x with returning := true }) else s) s

/-- The phases, from the state of `coldBase` or `warmBase`: kind 0 cold, 1 warm fast, 2 warm full. -/
def State.phases (s : State) (f : Find) (kind : Nat) : State :=
  let cold := kind = 0
  let fast := kind = 1
  let powered := threads4.filter (fun h => (s.hall h).rails)
  let s := if cold then (s.startBootcfg).startStalls else s
  let back := fast && (f.replayBad || powered.any (fun h => !s.fastHall f h))
  let s := powered.foldl (fun s h =>
    let s := if cold then (s.refreshStart h).tempStart h else s
    s.startLinks f fast h) s
  let s := s.loadImages
  let s := if f.gsramBad then s.logEvent (mkEnt 13 9 5 none 0 0) [] else s
  if s.fw.recovery ∨ f.gsramBad then s.recover f
  else
    let s := powered.foldl (fun s h => s.startTests f (!fast) h) s
    let cfg := (s.rw32 0x1008).toNat
    let march := decide cold && (bitsOf cfg 0 1 = 1 || bitsOf cfg 2 1 = 1)
    let rows := if march then (s.marchRows f).map (fun x => (x.1, x.2.1)) else []
    let s := if march then
        (let s := s.marchTest f
         if bitsOf cfg 2 1 = 1 then
           (s.setRw32 0x1008 (BitVec.ofNat 32 (cfg % 4))).dlAppend (bootoptRec 4 (cfg % 4)) else s)
      else s
    let s := s.startFarAll f cold
    let s := { s with far := { s.far with cacheOff := f.fcacheBad } }
    let s := if f.fcacheBad then s.logEvent (mkEnt 13 5 5 none 0 0) [] else s
    let s := ((s.startSlices cold rows).startFences).startList f.dlOk
    let s := { s with
      pt := { s.pt with shadow := PTab.start s.far.usable, active := PTab.start s.far.usable, prev := PTab.start s.far.usable },
      cv := { s.cv with epoch := BitVec.ofNat 32 (1 + s.freeBelow (2 ^ 32 - 1)), port := (List.range 8).map (fun k => (k, 1)) },
      boot := { s.boot with marchRun := march, fallback := back } }.used
    let s := (s.startRoles f.sps).ledgerAdd (if cold then 0x40 else 0x48) 1
    (s.publish f).startReturns

/-- A cold start. -/
def State.coldStart (s : State) (f : Find) : State := (s.coldBase f).phases f 0

/-- The kind of a start on a reset with power kept (R365; 19 R428). -/
def State.warmKind (s : State) : Nat :=
  if !s.fpValid then (if s.boot.kind = 0 then 0 else 2)
  else if bit32 (s.rw32 0x1008) 1 ∧ s.boot.trained ∧ bitsOf s.fw.disable 9 1 = 0 then 1
  else 2

def State.resetStart (s : State) (f : Find) : State :=
  if !s.boot.pwrgd ∨ s.cool.gtrip then s
  else if s.warmKind = 0 then s.coldStart f
  else (s.warmBase f s.warmKind).phases f s.warmKind

/-- SYS_PWRGD_ASSERT: straps sampled, cold start (R365; 23 R487, R490). -/
def execSysPwrgdAssert (f : Find) (st : State) : Ans := run true (if st.boot.pwrgd then st else st.coldStart f)

/-- SYS_PWRGD_DROP: 2 µs or more stop the device (23 R492). -/
def execSysPwrgdDrop (ns : Nat) (st : State) : Ans := run true (if 2000 ≤ ns ∧ st.boot.pwrgd then st.powerOff else st)

/-- GATEHOUSE_COOL_RESTART: every sensor has read below 80 °C for 30 s (16 R363). -/
def execGatehouseCoolRestart (f : Find) (st : State) : Ans :=
  run true
    (if st.cool.gtrip then
      (threads4.foldl (fun s h => s.updHall h (fun x => { x with rearmed := true })) st).coldStart f
     else st)

/-- PERST_N asserted with power kept. -/
def execPerstN (f : Find) (st : State) : Ans := run true (st.resetStart f)

/-- HOT_RESET of the PCIe link. -/
def execHotReset (f : Find) (st : State) : Ans := run true (if st.boot.phase = 0 then st else st.resetStart f)

/-- WARM of RESETCTL (R389). -/
def execWarmReset (q : Req) (f : Find) (st : State) : Ans :=
  run (inReq q) (st.setupTry q 0x1018 4 (reqIsSp q) (fun s => s.resetStart f))

/-! ## Upkeep of the list (R376, R377, R379) -/

/-- Bytes of the floor plan change without the floor-plan event (R381). -/
def State.fpTouch (s : State) : State :=
  if s.fpValid then { s with boot := { s.boot with fpgen := s.boot.fpgen + 2, changedAt := s.time } } else s

/-- DEFECT_LIST_RETRY: every 10 s while records wait. -/
def execDefectListRetry (ok : Bool) (st : State) : Ans :=
  run true
    (if st.dl.held = [] ∨ !st.pairActive 1 then st
     else if ok then { st with dl := { st.dl.write st.dl.held with held := [], fault := false } }.fpTouch
     else { st with dl := { st.dl with fault := true } }.fpTouch)

/-- Whether compaction leaves record r out, with `later` the records after it and `l` all of them. -/
def superseded (l later : List Word) (r : Word) : Bool :=
  match recKind r with
  | 1 => l.any (fun x => recKind x = 3 && fld x 8 8 = fld r 8 8)
  | 2 => l.any (fun x => recKind x = 3 && fld x 8 8 = fld r 8 8)
  | 4 => !(boundRecs l (fld r 8 5 / 8)).contains r
  | 5 => !(boundRecs l (fld r 8 5 / 8)).contains r
  | 7 => later.any (fun x => recKind x = 7 && fld x 8 9 = fld r 8 9)
  | 8 => later.any (fun x => recKind x = 8 && fld x 8 2 = fld r 8 2)
  | 9 => later.any (fun x => recKind x = 9 && fld x 8 2 = fld r 8 2)
  | 10 => later.any (fun x => recKind x = 10)
  | _ => false

def keptRecs (l : List Word) : List Word :=
  (l.zipIdx.filter (fun x => !superseded l (l.drop (x.2 + 1)) x.1)).map (·.1)

/-- DEFECT_LIST_COMPACT: the kept records into the other copy, DLGEN + 1, the old copy erased. -/
def State.compact (s : State) : State :=
  let d := s.dl
  if !s.pairActive 1 ∨ d.fault ∨ 65536 ≤ 2097144 - d.cur.recs.length then s
  else
    let c : DlCopy := { valid := true, gen := d.cur.gen + 1, recs := keptRecs (d.cur.recs.filter recOk) }
    { s with dl := if d.inB then { d with a := c, b := {} } else { d with b := c, a := {} } }.fpTouch

/-- DEFECT_LIST_COMPACT. -/
def execDefectListCompact (st : State) : Ans := run true st.compact

/-- BOOTCFG_WRITE (R389): a BOOTOPT record keeps it. -/
def execBootcfgWrite (q : Req) (v : W32) (st : State) : Ans :=
  run (inReq q)
    (st.setupTry q 0x1008 4 (match q with | .ld _ => false | _ => true) (fun s =>
      (s.setRw32 0x1008 (BitVec.ofNat 32 (fld32 v 0 3))).dlAppend (bootoptRec 4 (fld32 v 0 3))))

end Sys2Proof.Machine
end

