-- ==== Sys2Proof/Machine/Service.lean ====
section
/-!
DEFINITION. Service processors: heartbeat, failure and takeover, checkpoints, restart; commanded retirement and salvage; the lifetime ledger
(18; 03 R81; 19 R425; 21 R456, R457).
-/
namespace Sys2Proof.Machine

def State.sp (s : State) (i : Nat) : SpSt := Tab.get {} s.svc.sp i

def State.updSp (s : State) (i : Nat) (f : SpSt → SpSt) : State := { s with svc := { s.svc with sp := Tab.set s.svc.sp i (f (s.sp i)) } }

def otherSp (i : Nat) : Nat := if i % 2 = 0 then i + 1 else i - 1

/-- HBTIMEOUT in ns. -/
def State.hbTimeout (s : State) : Nat := 1000000 * fld32 (s.rw32 0x20A0) 0 8

/-- HB: written by the member itself (R392); the bit, once set, reads 1 until a start (00 R7; log entry 40). -/
def execHeartbeat (i : Nat) (st : State) : Ans :=
  run (inHall i)
    (if (st.sp i).role = 2 ∨ (st.sp i).role = 3 then
      (st.updSp i (fun x => { x with hb := st.time })).setRw32 (0x2000 + 0x20 * i) 0x10000 else st)

/-! ## Checkpoints (R393, R395; 21 R457) -/

/-- CHECKPOINT. -/
def execCheckpoint (pair : Nat) (st : State) : Ans := run (inTwo pair) (st.commitCkpt pair)

/-- The checkpoint with the later CGEN (R394). -/
def PairSt.latest (x : PairSt) : Option CkPt :=
  match x.a, x.b with
  | some a, some b => some (if serialLt a.gen b.gen then b else a)
  | some a, none => some a
  | none, b => b

/-! ## Takeover (R396 to R398) -/

/-- An item starts anew with RETRIED (03 R81). -/
def State.retryItem (s : State) (i : Item) : State :=
  let s := s.haltWork (.item i.p i.r i.seq)
  let s := s.updJis i.p (fun j => { j with reqs := j.reqs.filter (fun q => !q.is i.r i.seq) })
  s.updItem i.p i.r i.seq (fun i => { i with
    stage := .fetched, start := none, began := i.start <|> i.began, retried := true, stat := 0, done := 0, result := 0, undo := [], stalls := if i.type = 1 then i.stalls else [] })

/-- Tokens of a request that a checkpoint proves written. -/
def ckptTokens (c : Option CkPt) (p r : Nat) (seq : W32) : Nat :=
  match c with
  | none => 0
  | some c => (((Tab.get {} c.jis p : JPitch).req r seq).map (fun q => q.out.length)).getD 0

/-- A firmware-dispatched item in flight is settled by its last stage; in a blank takeover as if IDEM were 0 (03 R81; R397). -/
def State.settleFirm (s : State) (c : Option CkPt) (blank : Bool) (i : Item) : State :=
  let again := i.idem && !blank
  match i.stage with
  | .intent => if again then s.retryItem i else s.endItem i.p i.r i.seq 0x12
  | .dispatched =>
    if i.type ≠ 6 then s
    else if again then s.retryItem i
    else (s.updItem i.p i.r i.seq (fun x => { x with done := 4 * ckptTokens c i.p i.r i.seq })).endItem i.p i.r i.seq 0x12
  | _ => s

/-- Jisan's state as the checkpoint has it: nothing for a pitch that was reset since (21 R456), no request, no step. -/
def State.loadJis (s : State) (c : CkPt) : State :=
  { s with jis := allPitches.filterMap (fun p =>
      let j := s.jis1 p
      let k : JPitch := Tab.get {} c.jis p
      let k : JPitch := if Tab.get 0 c.preset p = (s.pctl p).presetgen then k else {}
      if (Tab.find s.jis p).isNone ∧ (Tab.find c.jis p).isNone then none
      else some (p, { j with slot := k.slot, sess := k.sess, nextAdm := k.nextAdm, reqs := [], run := none, mig := [], load := none, rel := [] })) }

/-- Jisan's state in a blank takeover (R397). -/
def State.blankJis (s : State) : State :=
  let s := { s with jis := s.jis.map (fun e => (e.1, { e.2 with slot := [], sess := [], reqs := [], run := none, mig := [], load := none, rel := [] })) }
  (allPitches.filter (fun p => s.pt.active.enabled p && s.pt.active.jisan p)).foldl State.raiseEvent s

/-- Slots of a loaded checkpoint that name a stall lost since. -/
def State.jisCatchUp (s : State) : State :=
  allStalls.foldl (fun s n =>
    if !s.stallOut n then s
    else if (s.fpOf n).state = 3 then allPitches.foldl (fun s p => (s.slotsWith p n).foldl (fun s x => s.slotStale p x.1 0x11) s) s
    else s.jisStallGone n) s

/-- Steps stop, items are settled, Jisan's state is loaded or dropped. -/
def State.settleAll (s : State) (c : Option CkPt) (blank : Bool) : State :=
  let s := allPitches.foldl (fun s p => s.haltWork (.jisan p)) s
  let s := (s.rings.items.filter Item.firm).foldl (fun s i => s.settleFirm c blank i) s
  match c, blank with
  | some k, false => (s.loadJis k).jisCatchUp
  | _, _ => s.blankJis

/-- SIMPLEX and NONE of pair q (R399, R400). -/
def State.pairFlags (s : State) (q : Nat) : State :=
  let gone := fun i => (s.sp i).role = 5
  s.updPair q (fun x => { x with none_ := !s.pairActive q, simplex := (gone (2 * q)) != (gone (2 * q + 1)) && s.pairActive q })

/-- The Jisan image of the member that becomes active runs; DISABLE grows by what its lookups disable (19 R423, R425, R427). -/
def State.runImage (s : State) (i : Nat) : State :=
  let k := (s.sp i).img
  let looks := match s.gImage, k with
    | some g, some k => s.pairLooks g (s.imageOf (2 + k))
    | _, _ => []
  { s with fw := { s.fw with
      jslot := k, jisan := k.isSome, pairout := worst looks, disable := s.fw.disable ||| maskOf looks } }

/-- Member i of its pair takes over. The service pair's takeover is blank without a checkpoint, or when CKPTFMT differs. -/
def State.takeOver (s : State) (i : Nat) : State :=
  let q := i / 2
  let s := ((s.updSp i (fun x => { x with role := 3, hb := s.time })).updPair q (fun x => { x with owner := i % 2 })).logFree
  let s := s.ledgerAdd (spRec i 3) 1
  if q = 1 then
    let s := if s.fw.upd = 1 ∨ s.fw.upd = 2 then { s with fw := { s.fw with upd := 0, pldm := 0 } } else s
    (s.pairFlags 1).commitCkpt 1
  else
    let fmt := fun (k : Option Nat) => k.map (fun k => imgCkptfmt (s.imageOf (2 + k)))
    let c := (s.pair 0).latest
    let blank := c.isNone || fmt s.fw.jslot ≠ fmt (s.sp i).img
    let s := (s.runImage i).settleAll c blank
    let s := s.updPair 0 (fun x => { x with blank := blank })
    (s.pairFlags 0).commitCkpt 0

/-- Failures of a member in the last 24 h. -/
def State.fails24 (s : State) (i : Nat) : Nat := ((s.sp i).fails.filter (fun t => decide (s.time < t + 24 * hourNs))).length

/-- A member is retired (R399). -/
def State.retireSp (s : State) (i : Nat) : State :=
  (s.updSp i (fun x => { x with role := 5 })).ledgerSet (spRec i 5) s.retireTime

/-- A member is declared failed (R392, R399, R400). -/
def State.declareFailed (s : State) (i : Nat) : State :=
  let was := (s.sp i).role
  if was ≠ 2 ∧ was ≠ 3 then s
  else
    let s := (s.updSp i (fun x => { x with
      role := 4, fails := s.time :: x.fails.filter (fun t => decide (s.time < t + 24 * hourNs)) })).ledgerAdd (spRec i 2) 1
    let s := if 3 ≤ s.fails24 i then s.retireSp i else s
    if was = 2 then s.pairFlags (i / 2)
    else
      let o := otherSp i
      let s := if i < 2 ∧ s.fw.jisan then { s with fw := { s.fw with jfailed := true } } else s
      if (s.sp o).role = 2 then s.takeOver o
      else
        let s := (s.logFree).pairFlags (i / 2)
        if i < 2 ∧ s.pairActive 1 then s.settleAll none true else s

/-- HEARTBEAT_TIMEOUT: no HB for HBTIMEOUT. -/
def execHeartbeatTimeout (i : Nat) (st : State) : Ans :=
  run (inHall i) (if (st.sp i).hb + st.hbTimeout ≤ st.time then st.declareFailed i else st)

/-- WATCHDOG_EXPIRY. -/
def execWatchdogExpiry (i : Nat) (st : State) : Ans := run (inHall i) (st.declareFailed i)

/-- FATAL_FAULT: a fatal fault, or an uncorrectable error of its private memory. -/
def execFatalFault (i : Nat) (st : State) : Ans := run (inHall i) (st.declareFailed i)

/-- The Jisan slot that a restarted member of the service pair loads (19 R423). -/
def State.restartImage (s : State) (i : Nat) : State :=
  match s.gImage with
  | none => s
  | some g =>
    let x := s.chooseSlot 1 (fun s k => (s.imageBad k (worst (s.pairLooks g (s.imageOf k)) = 2)).isSome)
    x.1.updSp i (fun y => { y with img := x.2 })

/-- SP_RESTART_DONE: the member becomes standby, takes over in an online activation or where no member is active, or is retired. The member
that an online activation replaces restarts with the same image (19 R425). -/
def State.restarted (s : State) (i : Nat) (ok : Bool) : State :=
  let x := s.sp i
  let o := otherSp i
  if (x.role ≠ 4 ∧ x.role ≠ 1) ∨ !s.pairActive (1 - i / 2) then s
  else
    let online := decide (s.svc.online = some i)
    let s := { s with svc := { s.svc with online := if online then none else s.svc.online } }.ledgerAdd (spRec i 4) 1
    if !ok then ((s.retireSp i).pairFlags (i / 2))
    else
      let s := if 2 ≤ i then s else if x.role = 1 ∧ !online then s.updSp i (fun y => { y with img := (s.sp o).img }) else s.restartImage i
      if online then (s.updSp o (fun y => { y with role := 1 })).takeOver i
      else if s.pairActive (i / 2) then (s.updSp i (fun y => { y with role := 2, hb := s.time })).pairFlags (i / 2)
      else s.takeOver i

/-- SP_RESTART_DONE. -/
def execSpRestartDone (i : Nat) (ok : Bool) (st : State) : Ans := run (inHall i) (st.restarted i ok)

/-! ## Commanded retirement and salvage (R404, R405; 21 R463) -/

/-- Writers of RETIRECMD, SALVAGE and FLUSH (R414). -/
def svcWriter (q : Req) : Bool :=
  match q with
  | .ld _ => false
  | _ => true

def State.hostKernel (s : State) (n : Nat) : Bool :=
  match (s.stall n).work with
  | some (.item ..) => true
  | _ => false

/-- A stall that runs a step of Jisan. -/
def State.inStep (s : State) (n : Nat) : Bool :=
  allPitches.any (fun p => (s.jis1 p).run.any (fun r => ((s.jis1 p).slotOf r.slot).stalls.contains n))

def State.retireCmd (s : State) (v : W32) : State :=
  let n := fld32 v 0 8
  let s := s.setRw32 0x2118 (BitVec.ofNat 32 n ||| ((s.rw32 0x2118 ||| v) &&& 0x100))
  if !bit32 v 8 then s
  else if s.hostKernel n ∨ (s.fpOf n).state = 1 ∨ (s.fpOf n).state = 2 ∨ s.svc.retire.contains n then { s with svc := { s.svc with retStat := 0x24 } }
  else
    let s := { s with svc := { s.svc with retStat := 0 } }
    if s.inStep n then { s with svc := { s.svc with retire := s.svc.retire ++ [n] } } else s.retireStall n 11

/-- RETIRECMD: a stall of a step in progress retires when the step ends. -/
def execRetireCmd (q : Req) (v : W32) (st : State) : Ans :=
  run (inReq q) (st.setupTry q 0x2118 4 (svcWriter q && st.published) (fun s => s.retireCmd v))

/-- The conditions of R405. -/
def State.salvageOk (s : State) (src dst : Nat) : Bool :=
  src ≠ dst && (s.fpOf src).state = 2 && !(s.sliceOf src).unavail && (s.hall (hallOf src)).up &&
    s.goodStall dst && (s.stall dst).idle &&
    (match s.pt.active.owner dst with
     | none => true
     | some p => s.pt.active.owner src = some p && s.quiesced p)

/-- A write of SALVAGE that is taken; GO, once set, reads 1 until a start (00 R7; log entry 40). -/
def State.salvageCmd (s : State) (v : W32) : State :=
  if s.svc.salvBusy then s
  else
    let s := s.setRw32 0x2110 (BitVec.ofNat 32 (fld32 v 0 16) ||| ((s.rw32 0x2110 ||| v) &&& 0x10000))
    if !bit32 v 16 then s
    else if s.salvageOk (fld32 v 0 8) (fld32 v 8 8) then { s with svc := { s.svc with salvBusy := true } }
    else { s with svc := { s.svc with salvStat := 0x24 } }

/-- SALVAGE: GO starts the copy, or STATUS says REJECTED_BUSY; a write while BUSY changes nothing. -/
def execSalvage (q : Req) (v : W32) (st : State) : Ans :=
  run (inReq q) (st.setupTry q 0x2110 4 (svcWriter q && st.published) (fun s => s.salvageCmd v))

/-- One valid line of SRC goes to DST, poisoned where it cannot be corrected. -/
def State.salvageLine (s : State) (src dst l : Nat) (bad : Bool) : State :=
  let a := unit256 * src + l * 256
  let b := unit256 * dst + l * 256
  if bad ∨ (s.sliceFault a 256).isSome then [0, 64, 128, 192].foldl (fun s k => s.poisSlice (b + k)) s
  else (s.wrSlice b (Mem.rdBytes s.mem.slice a 256)).s

/-- SALVAGE_DONE: the lines below both U are copied; `bad` names lines of SRC that were uncorrectable. -/
def State.salvaged (s : State) (ce : Nat) (bad : List Nat) : State :=
  let v := s.rw32 0x2110
  let src := fld32 v 0 8
  let dst := fld32 v 8 8
  if !s.svc.salvBusy then s
  else if !s.salvageOk src dst then { s with svc := { s.svc with salvBusy := false, salvStat := 0x10 } }
  else
    let top := min 1048576 (min (s.sliceOf src).u (s.sliceOf dst).u / 256)
    let lines := (s.mem.sliceValid.filter (fun l => decide (1048576 * src ≤ l ∧ l < 1048576 * src + top))).map (· - 1048576 * src)
    let poor := lines.any (fun l => bad.contains l || (s.sliceFault (unit256 * src + l * 256) 256).isSome)
    let s := lines.foldl (fun s l => s.salvageLine src dst l (bad.contains l)) s
    { s with svc := { s.svc with salvBusy := false, salvStat := if poor then 0x10 else if ce = 0 then 0 else 1 } }

/-- SALVAGE_DONE. -/
def execSalvageDone (ce : Nat) (bad : List Nat) (st : State) : Ans := run true (st.salvaged ce bad)

/-! ## The ledger (R406 to R413) -/

/-- A snapshot goes to its slot; a failed write loses what the slot held. -/
def State.snapshot (s : State) (ok : Bool) : State :=
  let l := s.ledger
  let k := l.seq % 128
  if ok then
    { s with ledger := { l with
        snap := Tab.set l.snap k { seq := l.seq, cal := s.calendar, time := s.time, cnt := l.cnt, flags := l.flags },
        seq := l.seq + 1, fault := false, due := false } }
  else { s with ledger := { l with snap := Tab.del l.snap k, fault := true } }

/-- LEDGER_SNAPSHOT: every LEDGERINT and on a FLUSH, by the active platform member. -/
def execLedgerSnapshot (ok : Bool) (st : State) : Ans := run true (if st.pairActive 1 then st.snapshot ok else st)

/-- LEDGER_RETRY: every 10 s while LEDGERFAULT is set. -/
def execLedgerRetry (ok : Bool) (st : State) : Ans :=
  run true (if st.pairActive 1 ∧ st.ledger.fault then st.snapshot ok else st)

/-- FLUSH of LEDGERCFG: at most one a minute. -/
def execLedgerFlush (q : Req) (st : State) : Ans :=
  run (inReq q)
    (st.setupTry q 0x2100 4 (svcWriter q) (fun s =>
      if s.ledger.flushed.any (fun t => decide (s.time < t + 60000000000)) then s
      else { s with ledger := { s.ledger with due := true, flushed := some s.time } }))

/-- A reading enters the count of thermal cycles with counter `off`; readings in 0.01 °C (R408). -/
def State.thermalCycle (s : State) (off : Nat) (r : Int) : State :=
  let set := fun (x : Int × Int) => { s with ledger := { s.ledger with cyc := Tab.set s.ledger.cyc off x } }
  match Tab.find s.ledger.cyc off with
  | none => set (r, r)
  | some (lo, hi) =>
    if lo + 2000 ≤ hi ∧ r + 2000 ≤ hi then (set (r, r)).ledgerAdd off 1
    else if r < lo then set (r, r)
    else set (lo, max hi r)

/-- One second of stall n and its regions. -/
def State.sampleStall (s : State) (n : Nat) : State :=
  let x := s.hall (hallOf n)
  let w := s.pwrState n
  let s := s.ledgerAdd (stallRec n 0) (if x.rails && w < 2 then 1 else 0)
  let s := s.ledgerAdd (stallRec n 1) (if x.rails && w = 0 then 1 else 0)
  let s := s.ledgerAdd (stallRec n 3) (if 9500 < x.diode then 1 else 0)
  if !x.rails then s
  else threads4.foldl (fun s k =>
    let r := 4 * n + k
    let m := max (multOf x.mult (2 * k)) (multOf x.mult (2 * k + 1))
    let s := (s.ledgerAdd (regionRec r 0) 1).thermalCycle (regionRec r 1) (Tab.get 0 x.temp (2 * k + 1) / centi)
    let s := s.ledgerAdd (regionRec r 3) (if m = 1 then 1 else 0)
    let s := s.ledgerAdd (regionRec r 4) (if m = 2 then 1 else 0)
    s.ledgerAdd (regionRec r 5) (if bitsOf x.throttle.toNat (2 * k) 2 = 0 then 0 else 1)) s

/-- LEDGER_SAMPLE: one second of every unit. -/
def State.ledgerSample (s : State) : State :=
  let s := s.ledgerAdd 0x50 1
  let s := allStalls.foldl State.sampleStall s
  let s := threads4.foldl (fun s h =>
    let x := s.hall h
    let s := (s.ledgerAdd (hallRec h 0) (ofBool x.rails)).thermalCycle (hallRec h 1) x.diode
    s.ledgerAdd (hallRec h 4) (if 10000 < x.diode then 1 else 0)) s
  let s := (List.range 16).foldl (fun s l => s.ledgerAdd (linkRec l 0) (if (s.link l).state = 0 ∨ (s.link l).state = 5 then 0 else 1)) s
  threads4.foldl (fun s i =>
    let r := (s.sp i).role
    (s.ledgerAdd (spRec i 0) (if 1 ≤ r ∧ r ≤ 3 then 1 else 0)).ledgerAdd (spRec i 1) (if r = 3 then 1 else 0)) s

/-- LEDGER_SAMPLE. -/
def execLedgerSample (st : State) : Ans := run true (if st.boot.pwrgd then st.ledgerSample else st)

/-- Bond current of region k of stall n over 1 ms in nA·ms: a quarter of the stall domains' power over V(E), and the DRAM power of its two
layers over 1.05 V. -/
def State.bondCharge (s : State) (n k : Nat) (layerUw : List Nat) : Nat :=
  let mw := (threads4.map (fun i => (s.domain (4 * n + i)).mw)).foldl (· + ·) 0
  let mv := Config.vbase n + 5 * (s.effStep n - 8)
  let uw := layerUw.getD (8 * n + 2 * k) 0 + layerUw.getD (8 * n + 2 * k + 1) 0
  1000000000 * mw / (4 * mv) + 1000000 * uw / 1050

/-- BONDQ_ACCUMULATE: 10^9 nA·ms are 1 mA·s, the fraction carried; `layerUw` gives layer L of the slice of stall n at 8n + L. -/
def State.bondq (s : State) (layerUw : List Nat) : State :=
  allStalls.foldl (fun s n => if !(s.hall (hallOf n)).rails then s else threads4.foldl (fun s k =>
    let r := 4 * n + k
    let f := Tab.get 0 s.ledger.frac r + s.bondCharge n k layerUw
    { s with ledger := { s.ledger with frac := Tab.set s.ledger.frac r (f % 1000000000) } }.ledgerAdd (regionRec r 2) (f / 1000000000)) s) s

/-- BONDQ_ACCUMULATE. -/
def execBondqAccumulate (layerUw : List Nat) (st : State) : Ans := run true (st.bondq layerUw)

/-- The rated values of hall h (R413): BONDRATED and TCRATED. -/
def bondRated (h : Nat) : Nat := max 1 (Config.rated (2 * h))
def tcRated (h : Nat) : Nat := max 1 (Config.rated (2 * h + 1))

/-- Days until an indicator v reaches 1,000 at its rate over `days` powered days (as seconds). -/
def remainOf (secs : Nat) (l : List Nat) : Nat :=
  let l := l.filter (fun v => v ≠ 0)
  if l = [] then 0xFFFF
  else if l.any (fun v => 1000 ≤ v) then 0
  else min 0xFFFF ((l.map (fun v => (1000 - v) * secs / (86400 * v))).foldl min 0xFFFF)

/-- LIFE of hall h. -/
def State.lifeWord (s : State) (h : Nat) : Word :=
  let regs := (List.range 256).map (fun i => 256 * h + i)
  let top := fun (f : Nat → Nat) => (regs.map f).foldl max 0
  let em := min 0xFFFF (top (fun r => s.ledgerAt (regionRec r 2)) * 1000 / bondRated h)
  let tc := min 0xFFFF (max (top (fun r => s.ledgerAt (regionRec r 1))) (s.ledgerAt (hallRec h 1)) * 1000 / tcRated h)
  let sp := min 0xFFFF (top (fun r => ((s.sliceOf (r / 4)).map.filter (fun e => portRow e.row = r % 4)).length) * 1000 / 1024)
  pack [(em, 0, 16), (tc, 16, 16), (sp, 32, 16), (remainOf (s.ledgerAt (hallRec h 0)) [em, tc, sp], 48, 16)]

/-- LIFE_UPDATE. -/
def execLifeUpdate (st : State) : Ans :=
  run true { st with ledger := { st.ledger with life := threads4.map (fun h => (h, st.lifeWord h)) } }

end Sys2Proof.Machine
end

