-- ==== Sys2Proof/Machine/Firmware.lean ====
section
/-!
DEFINITION. Firmware updates: the mailbox and PLDM transfer, activation, confirmation and cancel (19 R419 to R425, R429, R430; 21 R464). The
completion codes of the two protocols are the standards' (log entry 28).
-/
namespace Sys2Proof.Machine

/-! ## Slots and trials -/

/-- The slot of component c that runs. -/
def State.running (s : State) (c : Nat) : Option Nat := if c = 0 then s.fw.gslot else s.fw.jslot

/-- Component c runs on its pending slot: a trial. -/
def State.trial (s : State) (c : Nat) : Bool := s.running c = some (s.fw.rec_.pend.getD c 0xFF)

/-- FWSTAT.UPD. -/
def State.updCode (s : State) : Nat :=
  if s.fw.upd = 1 ∨ s.fw.upd = 2 then s.fw.upd else if s.trial 0 ∨ s.trial 1 then 4 else s.fw.upd

/-- A transfer, a verification or an unconfirmed trial is in progress (R421). -/
def State.updBusy (s : State) : Bool := s.updCode ≠ 0 && s.updCode ≠ 3

/-- The slot of component c that an update writes: the one that does not run, and where none runs not the confirmed one. -/
def State.inactive (s : State) (c : Nat) : Nat :=
  match s.running c with
  | some k => 1 - k
  | none => if s.fw.rec_.run.getD c 0xFF = 0 then 1 else 0

/-- SLOTSTATE of slot i is written in the boot record. -/
def State.slotState (s : State) (i v : Nat) : State := s.bootWrite (fun r => { r with slots := r.slots.set i v })

/-- A failure ends the update: LASTERR, the slot it was writing invalid (R421). -/
def State.failUpdate (s : State) (code : Nat) : State :=
  let s := if s.fw.upd = 1 ∨ s.fw.upd = 2 then s.slotState s.fw.upSlot 0 else s
  { s with fw := { s.fw with upd := 0, upLen := 0, upGot := 0, pldm := 0, ready := [], lasterr := code } }

/-- Download begins: the boot record, then the erase of the slot (R422). -/
def State.beginDownload (s : State) (i len : Nat) (mbox : Bool) : State :=
  let s := s.slotState i 1
  { s with fw := { s.fw with upd := 1, upSlot := i, upLen := len, upGot := 0, upMbox := mbox, slot := Tab.set s.fw.slot i [] } }

/-- Bytes are programmed after those received. -/
def State.program (s : State) (data : List Byte) : State :=
  let i := s.fw.upSlot
  { s with fw := { s.fw with slot := Tab.set s.fw.slot i (s.imageOf i ++ data), upGot := s.fw.upGot + data.length } }

/-- Verification (R418, R422): SLOTSTATE 2, or 0 with LASTERR. -/
def State.verify (s : State) : State :=
  match s.verifyImage s.fw.upSlot with
  | none =>
    let s := s.slotState s.fw.upSlot 2
    { s with fw := { s.fw with upd := 3 } }
  | some e =>
    let s := s.slotState s.fw.upSlot 0
    { s with fw := { s.fw with upd := 0, lasterr := e } }

/-- Activation: PENDING and TRIES 3. -/
def State.activate (s : State) (i : Nat) : State :=
  s.bootWrite (fun r => { r with pend := r.pend.set (i / 2) (i % 2), tries := r.tries.set (i / 2) 3 })

/-- Step 1 of R425: the standby of the service pair restarts with the pending image. -/
def State.onlineStart (s : State) : Option State :=
  ([0, 1].find? (fun i => (s.sp i).role = 2)).map (fun i =>
    let s := s.updSp i (fun x => { x with role := 1 })
    { s with svc := { s.svc with online := some i } })

def State.onlineOff (s : State) : Bool := bitsOf s.fw.disable 10 1 = 1

/-! ## The mailbox (R420) -/

/-- A mailbox answers: return code and payload. -/
def State.mbox (s : State) (rc : Nat) (data : List Byte) : State := { s with out := .mbox rc data }

/-- Logical device ld has a mailbox that answers. -/
def State.hasMbox (s : State) (ld : Nat) : Bool := decide (s.boot.phase ≠ 0) && (s.port.mld || ld = 0)

/-- The firmware commands are supported: under SLD, and in recovery also under MLD on logical device 0 (R429). -/
def State.fwMbox (s : State) (ld : Nat) : Bool := !s.port.mld || (s.fw.recovery && ld = 0)

/-- The bytes of a Transfer FW go to the slot of the transfer, in order; `last` ends it and verifies. -/
def State.transferPart (s : State) (off : Nat) (data : List Byte) (last : Bool) : State :=
  let i := s.fw.upSlot
  if off ≠ s.fw.upGot then s.mbox 9 []
  else if slotBytes i < s.fw.upGot + data.length then (s.failUpdate 0x21).mbox 2 []
  else
    let s := s.program data
    if !last then s.mbox 0 []
    else
      let t := s.verify
      t.mbox (if t.fw.upd = 3 then 0 else 0xA) []

/-- Transfer FW: `slot` is the CXL FW slot number 1 to 4, `off` the byte offset. -/
def State.transferFw (s : State) (slot : Nat) (act : XferAct) (off : Nat) (data : List Byte) : State :=
  let i := slot - 1
  let mine := s.fw.upd = 1 && s.fw.upMbox && decide (s.fw.upSlot = i)
  match act with
  | .abort => if mine then (s.failUpdate 0x30).mbox 0 [] else s.mbox 2 []
  | .next => if mine then s.transferPart off data false else if s.updBusy then ({ s with fw := { s.fw with lasterr := 0x24 } }).mbox 6 [] else s.mbox 9 []
  | .last => if mine then s.transferPart off data true else if s.updBusy then ({ s with fw := { s.fw with lasterr := 0x24 } }).mbox 6 [] else s.mbox 9 []
  | .full => start i true
  | .first => start i false
where
  /-- A new transfer. -/
  start (i : Nat) (last : Bool) : State :=
    if s.updBusy ∨ s.fw.pldm ≠ 0 then ({ s with fw := { s.fw with lasterr := 0x24 } }).mbox 6 []
    else if slot = 0 ∨ 4 < slot ∨ s.inactive (i / 2) ≠ i % 2 then s.mbox 0xB []
    else (s.beginDownload i 0 true).transferPart off data last

/-- TRANSFER_FW. -/
def execTransferFw (ld slot : Nat) (act : XferAct) (off : Nat) (data : List Byte) (st : State) : Ans :=
  run (inPitch ld)
    (if !st.hasMbox ld then st else if !st.fwMbox ld then st.mbox 3 [] else st.transferFw slot act off data)

/-- Activate FW of slot 1 to 4. -/
def State.activateFw (s : State) (slot : Nat) (online : Bool) : State :=
  let i := slot - 1
  if slot = 0 ∨ 4 < slot ∨ s.fw.rec_.slots.getD i 0 ≠ 2 then s.mbox 0xB []
  else if online ∧ i < 2 then s.mbox 2 []
  else if online ∧ s.onlineOff then s.mbox 3 []
  else
    let s := s.activate i
    if !online then s.mbox 0 []
    else match s.onlineStart with
      | some s => s.mbox 0 []
      | none => s.mbox 0xD []

/-- ACTIVATE_FW. -/
def execActivateFw (ld slot : Nat) (online : Bool) (st : State) : Ans :=
  run (inPitch ld)
    (if !st.hasMbox ld then st else if !st.fwMbox ld then st.mbox 3 [] else st.activateFw slot online)

/-! ## PLDM Type 5 (R419, R421) -/

/-- The MCTP endpoint answers: an active platform member, or the boot ROM in recovery. -/
def State.mctpUp (s : State) : Bool := s.pairActive 1 || s.fw.recovery

/-- A PLDM answer: completion code and payload. -/
def State.pldm (s : State) (cc : Nat) (data : List Byte) : State := { s with out := .resp cc data }

/-- A PLDM command: nothing where no endpoint answers. -/
def State.pldmTry (s : State) (f : State → State) : State := if s.mctpUp then f s else s

/-- A PLDM command accepted in update mode at stage `n` only. -/
def State.pldmAt (s : State) (n : Nat) (f : State → State) : State :=
  s.pldmTry (fun s => if s.fw.pldm = 0 then s.pldm 0x80 [] else if s.fw.pldm ≠ n then s.pldm 0x84 [] else f s)

/-- QUERY_DEVICE_IDENTIFIERS: the identifiers of IDENT. -/
def execQueryDeviceIdentifiers (st : State) : Ans := run true (st.pldmTry (fun s => s.pldm 0 (toLE 8 Config.ident.toNat)))

/-- The version of the image in a slot of component c, 0 without one. -/
def State.versionIn (s : State) (c : Nat) (k : Option Nat) : Nat :=
  match k with
  | some k => if k < 2 then imgVersion (flashAt (s.imageOf (2 * c + k)) 0 512) else 0
  | none => 0

/-- GET_FIRMWARE_PARAMETERS: of both components the identifier, the running and the pending version. -/
def execGetFirmwareParameters (st : State) : Ans :=
  run true (st.pldmTry (fun s => s.pldm 0 ([0, 1].flatMap (fun c =>
    toLE 2 (c + 1) ++ toLE 4 (s.versionIn c (s.running c)) ++ toLE 4 (s.versionIn c (some (s.fw.rec_.pend.getD c 0xFF)))))))

/-- REQUEST_UPDATE. -/
def execRequestUpdate (st : State) : Ans :=
  run true (st.pldmTry (fun s =>
    if s.updBusy ∨ s.fw.pldm ≠ 0 then ({ s with fw := { s.fw with lasterr := 0x24 } }).pldm 0x81 []
    else ({ s with fw := { s.fw with pldm := 1, ready := [], upMbox := false } }).pldm 0 []))

/-- PASS_COMPONENT_TABLE: the answer says of each component whether the device has it. -/
def execPassComponentTable (comps : List Nat) (st : State) : Ans :=
  run true (st.pldmAt 1 (fun s =>
    ({ s with fw := { s.fw with pldm := 2 } }).pldm 0 (comps.map (fun c => if c = 1 ∨ c = 2 then 0 else 1))))

/-- The request for the next block of 4,096 bytes. -/
def State.askBlock (s : State) : State :=
  if s.fw.upGot < s.fw.upLen then
    s.send (.pldm (toLE 1 0x15 ++ toLE 4 s.fw.upGot ++ toLE 4 (min 4096 (s.fw.upLen - s.fw.upGot))))
  else s

/-- UPDATE_COMPONENT: a component's download into its inactive slot starts; one larger than the slot fails. -/
def execUpdateComponent (comp size : Nat) (st : State) : Ans :=
  run true (st.pldmAt 2 (fun s =>
    if comp ≠ 1 ∧ comp ≠ 2 then s.pldm 0 [1]
    else
      let i := 2 * (comp - 1) + s.inactive (comp - 1)
      if slotBytes i < size then
        (let s := s.slotState i 0
         ({ s with fw := { s.fw with pldm := 0, ready := [], lasterr := 0x21 } }).pldm 0 [1])
      else
        let s := s.beginDownload i size false
        (({ s with fw := { s.fw with pldm := 3, ready := s.fw.ready.filter (· ≠ i) } }).pldm 0 [0]).askBlock))

/-- REQUEST_FIRMWARE_DATA: the block asked for arrives and is programmed; another one is dropped. -/
def execRequestFirmwareData (off : Nat) (data : List Byte) (st : State) : Ans :=
  run true (st.pldmTry (fun s =>
    if s.fw.pldm = 3 ∧ s.fw.upd = 1 ∧ off = s.fw.upGot ∧ data.length = min 4096 (s.fw.upLen - s.fw.upGot) ∧ data ≠ [] then
      (s.program data).askBlock
    else s))

/-- TRANSFER_COMPLETE: the last block is in, the image is verified. -/
def execTransferComplete (st : State) : Ans :=
  run true (st.pldmTry (fun s =>
    if s.fw.pldm = 3 ∧ s.fw.upd = 1 ∧ s.fw.upLen ≤ s.fw.upGot then
      (let s := s.verify
       { s with fw := { s.fw with pldm := 4, ready := if s.fw.upd = 3 then s.fw.ready ++ [s.fw.upSlot] else s.fw.ready } }.send
         (.pldm [0x16, 0]))
    else s))

/-- VERIFY_COMPLETE: the result of the verification goes out; a failed one ends the update. -/
def execVerifyComplete (st : State) : Ans :=
  run true (st.pldmTry (fun s =>
    if s.fw.pldm ≠ 4 then s
    else if s.fw.upd = 3 then { s with fw := { s.fw with pldm := 5 } }.send (.pldm [0x17, 0])
    else { s with fw := { s.fw with pldm := 0, ready := [] } }.send (.pldm [0x17, 1])))

/-- APPLY_COMPLETE: nothing is left to apply; the next component or the activation may follow. -/
def execApplyComplete (st : State) : Ans :=
  run true (st.pldmTry (fun s =>
    if s.fw.pldm = 5 then { s with fw := { s.fw with pldm := 2 } }.send (.pldm [0x18, 0]) else s))

/-- ACTIVATE_FIRMWARE: the verified slots become pending, a Jisan slot online where the device offers it; the estimated time is 0. -/
def execActivateFirmware (st : State) : Ans :=
  run true (st.pldmAt 2 (fun s =>
    if s.fw.ready = [] then s.pldm 0x85 []
    else
      let jis := s.fw.ready.any (fun i => 2 ≤ i)
      let t := s.fw.ready.foldl State.activate s
      let t := if jis && !t.onlineOff then t.onlineStart.getD t else t
      ({ t with fw := { t.fw with pldm := 0, ready := [] } }).pldm 0 [0, 0]))

/-- GET_STATUS: the PLDM state, UPD and LASTERR. -/
def execGetStatus (st : State) : Ans :=
  run true (st.pldmTry (fun s => s.pldm 0 (toLE 1 s.fw.pldm ++ toLE 1 s.updCode ++ toLE 1 s.fw.lasterr)))

/-! ## Cancel, confirm (R421, R424) -/

/-- An update in progress is cancelled. -/
def State.cancelUpdate (s : State) : State :=
  if s.fw.upd = 1 ∨ s.fw.upd = 2 ∨ s.fw.pldm ≠ 0 then s.failUpdate 0x30 else s

/-- CANCEL_UPDATE. -/
def execCancelUpdate (st : State) : Ans :=
  run true (st.pldmTry (fun s => if s.fw.pldm = 0 then s.pldm 0x80 [] else s.cancelUpdate.pldm 0 []))

/-- Writers of FWCTL (R430). -/
def fwWriter : Req → Bool
  | .ld _ => false
  | _ => true

/-- CANCEL of FWCTL; the bit, once set, reads 1 until a start (00 R7; log entry 40). -/
def execFwCancel (q : Req) (st : State) : Ans :=
  run (inReq q) (st.setupTry q 0x1108 4 (fwWriter q) (fun s => (s.orRw32 0x1108 4).cancelUpdate))

/-- UPDATE_AGENT_TIMEOUT. -/
def execUpdateAgentTimeout (st : State) : Ans := run true st.cancelUpdate

/-- Component c is confirmed if it is on trial and `ok`: RUN, PENDING, then the security-version fuses. -/
def State.confirmOne (s : State) (c : Nat) (ok : Bool) : State :=
  let k := s.fw.rec_.pend.getD c 0xFF
  if !s.trial c ∨ !ok then s
  else
    let s := s.bootWrite (fun r => { r with run := r.run.set c k, pend := r.pend.set c 0xFF })
    { s with fw := { s.fw with
        upd := if s.fw.upd = 3 ∧ s.fw.upSlot = 2 * c + k then 0 else s.fw.upd, svnmin := max s.fw.svnmin (imgSecver (flashAt (s.imageOf (2 * c + k)) 0 512)) } }

/-- CONFIRM is ignored before the floor plan is published. -/
def State.confirm (s : State) : State := if s.published then (s.confirmOne 0 true).confirmOne 1 true else s

/-- CONFIRM of FWCTL. -/
def execFwConfirm (q : Req) (st : State) : Ans := run (inReq q) (st.setupTry q 0x1108 4 (fwWriter q) State.confirm)

/-- AUTOCONFIRM_EXPIRY: the 600 s have passed, which do not advance while a hall is tripped (21 R464). -/
def execAutoconfirmExpiry (st : State) : Ans :=
  run true
    (if bit32 (st.rw32 0x1108) 1 ∧ st.published ∧ threads4.all (fun h => !(st.hall h).tripped) then
      (st.confirmOne 0 true).confirmOne 1 (!st.fw.jfailed && st.jisanRuns)
     else st)

end Sys2Proof.Machine
end

