-- ==== Sys2Proof/Machine/Attach.lean ====
section
/-!
DEFINITION. The host port: link training, configuration requests, HDM decoders and CXL.mem accesses (02 R15 to R28; 17 R369).
-/
namespace Sys2Proof.Machine

/-! ## The link (R15 to R17) -/

/-- LINK_TRAINING: width in lanes, speed as LINKSTAT codes it. CXL needs alternate protocol negotiation and 8.0 GT/s; MLD a switch port
that enables it. Without CXL no HDM range exists. -/
def execLinkTraining (width speed : Nat) (apn mldSwitch : Bool) (st : State) : Ans :=
  run true
    (if st.boot.phase = 0 ∨ ! [1, 2, 4, 8, 16].contains width ∨ speed = 0 ∨ 5 < speed then st
     else
       let cxl := apn && decide (3 ≤ speed)
       { st with port := { st.port with
           width := width, speed := speed, cxl := cxl, pcieOnly := !cxl, mld := cxl && mldSwitch,
           hdm := if cxl then st.port.hdm else [] } })

/-! ## HDM decoders (R22) -/

/-- Logical device ld exists. -/
def State.isLd (s : State) (ld : Nat) : Bool := s.port.mld || ld = 0

/-- The end of DVSEC Range 1 of a logical device: that of its highest assigned window. -/
def State.range1 (s : State) (ld : Nat) : Nat :=
  (allStalls.map (fun n =>
    match s.pt.active.owner n with
    | none => 0
    | some p => if s.port.mld then (if p = ld then unit256 * (s.pt.active.winOf n + 1) else 0) else unit256 * (n + 1))).foldl max 0

/-- Bytes of Range 2: under SLD the far memory that was usable at the start (11 R251). -/
def State.range2 (s : State) (ld : Nat) : Nat := if s.port.mld then unit256 * s.pt.active.farsize ld else unit256 * s.far.atStart

/-- The end of a logical device's DPA space: of its far part, or of its stall windows where it has no far part. -/
def State.dpaEnd (s : State) (ld : Nat) : Nat := if s.range2 ld = 0 then s.range1 ld else dpaFar + s.range2 ld

/-- A setting that a decoder takes: any aligned DPA range of the logical device, with the interleave the device has. -/
def State.hdmOk (s : State) (ld : Nat) (d : HdmSet) : Bool :=
  decide (d.base % unit256 = 0 ∧ d.size % unit256 = 0) && [1, 2, 4, 8].contains d.ways &&
    [256, 512, 1024, 2048, 4096, 8192, 16384].contains d.gran && (d.size = 0 || decide (d.base + d.size ≤ s.dpaEnd ld))

/-- The DPA of a host physical address in a decoder's range: of each `ways` chunks of `gran` bytes the device holds one (R22). -/
def hdmDecode (d : HdmSet) (a : Nat) : Option Nat :=
  let o := a - d.hpa
  if d.hpa ≤ a ∧ o < d.size * d.ways then some (d.base + o / (d.gran * d.ways) * d.gran + o % d.gran) else none

/-- The DPA that the committed decoders of a logical device give a host physical address. -/
def State.hpaDpa (s : State) (ld a : Nat) : Option Nat :=
  [0, 1].findSome? (fun dec => (Tab.find s.port.hdm (2 * ld + dec)).bind (fun d => hdmDecode d a))

/-- HDM_DECODER_COMMIT: a locked decoder keeps its setting. The answer is 0, or 1 where the commit is refused. -/
def execHdmDecoderCommit (ld dec : Nat) (d : HdmSet) (st : State) : Ans :=
  run (inPitch ld && inTwo dec)
    (if !st.port.cxl ∨ !st.isLd ld then st
     else if (Tab.find st.port.hdm (2 * ld + dec)).any (fun x => x.lock) ∨ !st.hdmOk ld d then { st with out := .resp 1 [] }
     else { st with port := { st.port with hdm := Tab.set st.port.hdm (2 * ld + dec) d }, out := .resp 0 [] })

/-! ## CXL.mem (R21, R23, R27, R28) -/

/-- CXL.mem requests are accepted. -/
def State.cxlServed (s : State) (ld : Nat) : Bool := s.port.cxl && s.port.memActive && s.isLd ld

/-- DevLoad of an occupancy of `n` in a queue of `d`. -/
def devLoad (n d : Nat) : Nat := if 4 * n ≤ d then 0 else if 4 * n ≤ 3 * d then 1 else if 100 * n ≤ 95 * d then 2 else 3

/-- The DevLoad of an access: the occupancy of the queue of its far channel, or of the foreign queue of its slice port, as they stand before
it (R23; 05 R107; log entry 32). -/
def State.loadOf (s : State) (pl : Place) (wr : Bool) : Nat :=
  match pl with
  | .far o => devLoad (min (farDepth wr) ((Tab.get [] s.far.q (s.chanOf o).1).filter (fun e => e.2 = wr)).length) (farDepth wr)
  | .slice n off => devLoad ((s.sliceOf n).wait.filter (fun x => x.taken && !x.near && portOf x.off = portOf off)).length 16
  | .none => 0

/-- A CXL.mem access reaches far memory: it has no hint of its own (11 R239, R242). -/
def State.cxlTouch (s : State) (pl : Place) (wr : Bool) : State :=
  match pl with
  | .far o => s.farTouch s.pt.active o 64 0 wr
  | _ => s

/-- An entry of a CXL.mem access at a place. -/
def State.cxlEnt (s : State) (ty ld dpa : Nat) (pl : Place) (pois : Bool) : LogEnt :=
  let who := s.whoPitch (.cxl ld)
  match pl with
  | .slice n off => { mkEnt ty 0 2 who n (if ty = 16 then dpa else unit256 * n + off) with pois := pois }
  | .far o => { mkEnt ty 1 2 who (s.chanOf o).1 (if ty = 16 then dpa else o) with pois := pois }
  | .none => mkEnt ty 0 2 who 0 dpa

/-- The granule at `dpa` is unreadable: logged as a General Media Event, its DPA on the poison list (R27). -/
def State.cxlPoisoned (s : State) (ld dpa : Nat) (pl : Place) (pois : Bool) : State :=
  (s.logUe (s.cxlEnt 3 ld dpa pl pois) [ld]).addPoison [(ld, dpa)]

/-- The granule at a place. -/
def State.rdPlace (s : State) (pl : Place) (n : Nat) : List Byte :=
  match pl with
  | .slice m off => Mem.rdBytes s.mem.slice (unit256 * m + off) n
  | .far o => Mem.rdBytes s.mem.far o n
  | .none => zeros n

def State.placeFault (s : State) (pl : Place) (n : Nat) : Option Nat :=
  match pl with
  | .slice m off => s.sliceFault (unit256 * m + off) n
  | .far o => s.farFault o n
  | .none => none

/-- A poisoned word is stored there. -/
def State.placePois (s : State) (pl : Place) : Bool :=
  match pl with
  | .slice m off => (wordsOf 32 (unit256 * m + off) 64).any (NSet.has s.mem.slicePois)
  | .far o => (wordsOf 32 o 64).any (NSet.has s.mem.farPois)
  | .none => false

def State.placeValid (s : State) (pl : Place) : Bool :=
  match pl with
  | .slice m off => NSet.has s.mem.sliceValid ((unit256 * m + off) / 256)
  | .far o => NSet.has s.mem.farValid (o / 256)
  | .none => false

/-- A read of the granule that holds DPA `addr`. -/
def State.cxlRead (s : State) (ld addr : Nat) : State :=
  let a := addr / 64 * 64
  let pl := s.placeDpa ld a
  if !s.backed pl then { s.logEvent (s.cxlEnt 16 ld a pl false) [ld] with out := .line 0 true 0 }
  else
    let l := if s.placeValid pl then s.loadOf pl false else 0
    let t := s.cxlTouch pl false
    if (s.placeFault pl 64).isSome then { (t.cxlPoisoned ld a pl (s.placePois pl)) with out := .line 0 true l }
    else { t with out := .line (if s.placeValid pl then rowOf (s.rdPlace pl 64) else 0) false l }

/-- A CXL.mem request at a host physical address: one that no committed decoder of the logical device claims is none of its own (R22; log
entry 93). -/
def State.cxlAt (s : State) (ld hpa : Nat) (f : State → Nat → State) : State :=
  if s.cxlServed ld then
    match s.hpaDpa ld hpa with
    | some a => f s a
    | none => s
  else s

/-- CXL_MEM_READ. -/
def execCxlMemRead (ld hpa : Nat) (st : State) : Ans := run (inPitch ld) (st.cxlAt ld hpa (fun s a => s.cxlRead ld a))

def State.wrPlace (s : State) (pl : Place) (b : List Byte) : WrRes :=
  match pl with
  | .slice n off => s.wrSlice (unit256 * n + off) b
  | .far o => s.wrFar o b
  | .none => ⟨s, none⟩

/-- The place `k` bytes further on. -/
def Place.plus (pl : Place) (k : Nat) : Place :=
  match pl with
  | .slice n off => .slice n (off + k)
  | .far o => .far (o + k)
  | .none => .none

/-- A place whose writes are dropped and reported (R119, R248). -/
def State.placeHeld (s : State) (pl : Place) : Bool :=
  match pl with
  | .slice n off => s.dropsSlice (unit256 * n + off)
  | .far o => s.stranded o
  | .none => false

/-- A granule that is poisoned no more leaves the poison list. -/
def State.unlist (s : State) (ld dpa : Nat) (pl : Place) : State :=
  if s.placePois pl then s else { s with port := { s.port with poison := s.port.poison.filter (fun x => x ≠ (ld, dpa)) } }

/-- A write at a place that is backed: f does it; a held or stranded place drops it with a report. The completion carries DevLoad. -/
def State.cxlStore (s : State) (ld addr : Nat) (f : State → Place → State) : State :=
  let a := addr / 64 * 64
  let pl := s.placeDpa ld a
  if !s.backed pl then { s.logEvent (s.cxlEnt 16 ld a pl false) [ld] with out := .resp 0 [] }
  else
    let t := if s.placeHeld pl then s.logEvent (s.cxlEnt 3 ld a pl false) [ld] else (f (s.cxlTouch pl true) pl).unlist ld a pl
    { t with out := .resp (s.loadOf pl true) [] }

/-- CXL_MEM_WRITE: a full granule; a poisoned word is no longer poisoned, and a word whose last read was uncorrectable is read back by
WRITE_READBACK (R28, R265). -/
def execCxlMemWrite (ld hpa : Nat) (data : Row) (st : State) : Ans :=
  run (inPitch ld) (st.cxlAt ld hpa (fun s a => s.cxlStore ld a (fun s pl => (s.wrPlace pl (rowBytes data)).s)))

/-- One 32-byte word of a partial write: covered in full it is written, in part it is merged, or dropped with a General Media Event record
where its stored word is bad (R28). A write that drops both its words writes two records, one for each: the spec's words "for each such
write" leave it open (DESIGN CHOICE, log entry 94). -/
def State.partWord (s : State) (ld dpa : Nat) (pl : Place) (data : List Byte) (be : Word) (w : Nat) : State :=
  let q := pl.plus (32 * w)
  let en := (List.range 32).map (fun i => bit be (32 * w + i))
  let new := (data.drop (32 * w)).take 32
  if en.all (fun b => !b) then s
  else if en.all (fun b => b) then (s.wrPlace q new).s
  else if (s.placeFault q 32).isSome then
    let k := en.findIdx (fun b => b)
    let e := s.cxlEnt 15 ld dpa q true
    ((s.wrPlace (q.plus k) [new.getD k 0]).s.logEvent e [ld]).cxlRecord ld 2 { e with time := s.time }
  else (s.wrPlace q ((en.zip (new.zip (s.rdPlace q 32))).map (fun x => if x.1 then x.2.1 else x.2.2))).s

/-- MEMWRPTL: byte i of the granule is written where bit i of `be` is set. -/
def execMemWrPtl (ld hpa : Nat) (data : Row) (be : Word) (st : State) : Ans :=
  run (inPitch ld)
    (st.cxlAt ld hpa (fun s a =>
      s.cxlStore ld a (fun s pl => [0, 1].foldl (fun s w => s.partWord ld (a / 64 * 64) pl (rowBytes data) be w) s)))

end Sys2Proof.Machine
end

