-- ==== Sys2Proof/Machine/Mailbox.lean ====
section
/-!
DEFINITION. The CXL mailbox and the Fabric Manager commands (02 R19, R29; 18 R411). Return codes are those of CXL 2.0; a payload holds the
fields that the spec names (log entry 29).
-/
namespace Sys2Proof.Machine

/-- A mailbox command of logical device ld: in recovery only Transfer FW and Activate FW are there (19 R429). -/
def State.mboxTry (s : State) (ld : Nat) (f : State → State) : State :=
  if !s.hasMbox ld then s else if s.fw.recovery then s.mbox 3 [] else f s

/-- The records of an event log of a logical device, oldest first. -/
def State.recsOf (s : State) (ld log : Nat) : List CxlRec := s.port.recs.filter (fun r => r.ld = ld && r.log = log)

/-- GET_EVENT_RECORDS: handle and entry of each record. -/
def execGetEventRecords (ld log : Nat) (st : State) : Ans :=
  run (inPitch ld) (st.mboxTry ld (fun s =>
    if 3 < log then s.mbox 2 []
    else s.mbox 0 (toLE 2 (s.recsOf ld log).length ++ (s.recsOf ld log).flatMap (fun r => toLE 2 r.handle ++ r.ent.bytes))))

/-- CLEAR_EVENT_RECORDS: the n oldest records. -/
def execClearEventRecords (ld log n : Nat) (st : State) : Ans :=
  run (inPitch ld) (st.mboxTry ld (fun s =>
    if 3 < log then s.mbox 2 []
    else if (s.recsOf ld log).length < n then s.mbox 0xE []
    else
      let gone := (s.recsOf ld log).take n
      ({ s with port := { s.port with recs := s.port.recs.filter (fun r => !gone.contains r) } }).mbox 0 []))

/-- GET_EVENT_INTERRUPT_POLICY. -/
def execGetEventInterruptPolicy (ld : Nat) (st : State) : Ans :=
  run (inPitch ld) (st.mboxTry ld (fun s => s.mbox 0 (toLE 4 (Tab.get (0 : W32) s.port.policy ld).toNat)))

/-- SET_EVENT_INTERRUPT_POLICY: no interrupt, or MSI-X, for each of the four logs. -/
def execSetEventInterruptPolicy (ld : Nat) (pol : W32) (st : State) : Ans :=
  run (inPitch ld) (st.mboxTry ld (fun s =>
    if threads4.any (fun i => 2 ≤ fld32 pol (8 * i) 2) then s.mbox 2 []
    else ({ s with port := { s.port with policy := Tab.set s.port.policy ld pol } }).mbox 0 []))

/-- GET_FW_INFO: four slots, the running slot of the gatehouse and of Jisan (0xFF none), the versions by slot. -/
def execGetFwInfo (ld : Nat) (st : State) : Ans :=
  run (inPitch ld) (st.mboxTry ld (fun s =>
    s.mbox 0 (toLE 1 4 ++ toLE 1 (match s.fw.gslot with | some k => k + 1 | none => 0xFF) ++
      toLE 1 (match s.fw.jslot with | some k => k + 3 | none => 0xFF) ++
      threads4.flatMap (fun i => toLE 4 (imgVersion (flashAt (s.imageOf i) 0 512))))))

/-- GET_TIMESTAMP. -/
def execGetTimestamp (ld : Nat) (st : State) : Ans := run (inPitch ld) (st.mboxTry ld (fun s => s.mbox 0 (toLE 8 s.calendar.toNat)))

/-- SET_TIMESTAMP: the calendar equals the host's time, and is synchronised. -/
def execSetTimestamp (ld : Nat) (ns : Word) (st : State) : Ans :=
  run (inPitch ld) (st.mboxTry ld (fun s =>
    (({ s with ledger := { s.ledger with offset := (ns.toNat : Int) - (s.time : Int), unsynced := false } }).ledgerSet 0x60 ns.toNat).mbox 0 []))

/-- The commands of R29 with the effects that the standard gives them. Under MLD a logical device has no firmware transfer. -/
def State.celRows (s : State) : List (Nat × Nat) :=
  [(0x0100, 0), (0x0101, 0x10), (0x0102, 0), (0x0103, 0x02), (0x0200, 0)] ++
    (if s.port.mld then [] else [(0x0201, 0), (0x0202, 0x01)]) ++
    [(0x0300, 0), (0x0301, 0x08), (0x0400, 0), (0x0401, 0), (0x4000, 0), (0x4200, 0), (0x4300, 0), (0x4301, 0x04), (0x4302, 0x04)]

/-- The Command Effects Log. -/
def State.celBytes (s : State) : List Byte := s.celRows.flatMap (fun r => toLE 2 r.1 ++ toLE 2 r.2)

/-- The identifier of the Command Effects Log. -/
def celUuid : List Byte :=
  [0x0d, 0xa9, 0xc0, 0xb5, 0xbf, 0x41, 0x4b, 0x78, 0x8f, 0x79, 0x96, 0xb1, 0x62, 0x3b, 0x3f, 0x17]

/-- GET_SUPPORTED_LOGS. -/
def execGetSupportedLogs (ld : Nat) (st : State) : Ans :=
  run (inPitch ld) (st.mboxTry ld (fun s => s.mbox 0 (toLE 2 1 ++ celUuid ++ toLE 4 s.celBytes.length)))

/-- GET_LOG: bytes of the Command Effects Log; the device has no other. -/
def execGetLog (ld : Nat) (cel : Bool) (off len : Nat) (st : State) : Ans :=
  run (inPitch ld) (st.mboxTry ld (fun s =>
    if !cel ∨ s.celBytes.length < off + len then s.mbox 2 [] else s.mbox 0 ((s.celBytes.drop off).take len)))

/-- Backed stall bytes plus usable far bytes of a logical device. -/
def State.volatileBytes (s : State) (ld : Nat) : Nat :=
  (allStalls.map (fun n =>
    if s.port.mld && (s.pt.active.owner n ≠ some ld) then 0 else s.usableOf n)).foldl (· + ·) 0 +
    (if s.port.mld then unit256 * s.pt.active.farsize ld else s.usableFar)

/-- IDENTIFY_MEMORY_DEVICE: volatile and persistent capacity in bytes. -/
def execIdentifyMemoryDevice (ld : Nat) (st : State) : Ans :=
  run (inPitch ld) (st.mboxTry ld (fun s => s.mbox 0 (toLE 8 (s.volatileBytes ld) ++ toLE 8 0)))

/-- GET_HEALTH_INFO: the hottest hall diode in °C. -/
def execGetHealthInfo (ld : Nat) (st : State) : Ans :=
  run (inPitch ld) (st.mboxTry ld (fun s =>
    let t := (threads4.map (fun h => (s.hall h).diode)).foldl max (s.hall 0).diode
    s.mbox 0 (toLE 2 ((t / 100) % 65536).toNat)))

/-- GET_POISON_LIST: the granules of a range, as DPAs. -/
def execGetPoisonList (ld dpa len : Nat) (st : State) : Ans :=
  run (inPitch ld) (st.mboxTry ld (fun s =>
    let l := s.port.poison.filter (fun x => x.1 = ld && decide (dpa ≤ x.2 ∧ x.2 < dpa + len))
    s.mbox 0 (toLE 2 l.length ++ l.flatMap (fun x => toLE 8 x.2))))

/-- INJECT_POISON: a backed granule becomes poisoned and enters the list. -/
def execInjectPoison (ld dpa : Nat) (st : State) : Ans :=
  run (inPitch ld) (st.mboxTry ld (fun s =>
    let pl := s.placeDpa ld dpa
    if dpa % 64 ≠ 0 then s.mbox 2 []
    else if !s.backed pl then s.mbox 0xF []
    else
      let s := s.addPoison [(ld, dpa)]
      (if s.placeHeld pl then s else match pl with
        | .slice n off => s.poisSlice (unit256 * n + off)
        | .far o => s.poisFar o
        | .none => s).mbox 0 []))

/-- CLEAR_POISON: the data is written, and the granule leaves the list. -/
def execClearPoison (ld dpa : Nat) (data : Row) (st : State) : Ans :=
  run (inPitch ld) (st.mboxTry ld (fun s =>
    let pl := s.placeDpa ld dpa
    if dpa % 64 ≠ 0 then s.mbox 2 []
    else if !s.backed pl then s.mbox 0xF []
    else if s.placeHeld pl then s.mbox 0x11 []
    else (((s.wrPlace pl (rowBytes data)).s).unlist ld dpa pl).mbox 0 []))

/-- UNSUPPORTED_MAILBOX_COMMAND: any opcode that R29 does not list. -/
def execUnsupportedMailboxCommand (ld opcode : Nat) (st : State) : Ans :=
  run (inPitch ld)
    (if !st.hasMbox ld ∨ ([0x0201, 0x0202] ++ st.celRows.map Prod.fst).contains opcode then st else st.mbox 3 [])

/-! ## Fabric Manager (R19) -/

/-- A Fabric Manager command: once the device answers. -/
def State.fmTry (s : State) (f : State → State) : State := if s.boot.phase = 9 then f s else s

/-- Bytes of memory of logical device p: its slices' backed bytes and its far share. -/
def State.ldBytes (s : State) (p : Nat) : Nat :=
  ((s.pt.active.stallsOf p).map s.usableOf).foldl (· + ·) 0 + unit256 * s.pt.active.farsize p

/-- GET_LD_INFO: 16 logical devices and the memory size of each. -/
def execGetLdInfo (st : State) : Ans :=
  run true (st.fmTry (fun s => s.mbox 0 (toLE 2 16 ++ allPitches.flatMap (fun p => toLE 8 (s.ldBytes p)))))

/-- GET_LD_ALLOCATIONS: for each logical device its stalls and units of far memory, in multiples of 256 MiB. -/
def execGetLdAllocations (st : State) : Ans :=
  run true (st.fmTry (fun s => s.mbox 0 (toLE 1 16 ++ allPitches.flatMap (fun p =>
    toLE 8 (s.pt.active.stallsOf p).length ++ toLE 8 (s.pt.active.farsize p)))))

/-- GET_QOS_CONTROL: the standard's settings, whose values the spec does not give: a free value (log entry 31). -/
def execGetQosControl (st : State) : Ans := run true (st.fmTry (fun s => (s.mbox 0 (toLE 8 s.freeWord.toNat)).used))

/-- SET_LD_ALLOCATIONS: Unsupported. -/
def execSetLdAllocations (st : State) : Ans := run true (st.fmTry (fun s => s.mbox 3 []))

/-- SET_QOS_CONTROL: Unsupported. -/
def execSetQosControl (st : State) : Ans := run true (st.fmTry (fun s => s.mbox 3 []))

end Sys2Proof.Machine
end

