-- ==== Sys2Proof/Machine/Tiles.lean ====
section
/-!
DEFINITION. The wide half of a pair, tile rows (07 R148 to R153) and the outer loops (08 R179 to R184).
-/
namespace Sys2Proof.Machine

/-! ## The wide half -/

/-- Do the wide half of thread k's pair: only while the thread runs and its wide half comes next (log entry 12). -/
def State.wide (s : State) (n k : Nat) (f : Thread → State) : State :=
  let t := s.thread n k
  if t.st = .run ∧ t.half ∧ t.stop = false then f t else s

/-- An exception of the wide half: the scalar half stands (R141). -/
def State.wideExc (s : State) (n k cause : Nat) (addr : Word) : State := s.raiseExc n k cause addr true false false

/-- ILLEGAL unless the fields that the opcode does not use are 0 (06, wide half table). -/
def State.wideUse (s : State) (n k : Nat) (rest : WF) (f : Thread → State) : State :=
  s.wide n k (fun t => if rest = {} then f t else s.wideExc n k cILLEGAL 0)

/-! ## Tile rows -/

def Stall.setRow (st : Stall) (t r : Nat) (v : Row) : Stall :=
  { st with rows := Tab.set st.rows (rowKey t r) v, rowPois := NSet.delRange st.rowPois (8 * rowKey t r) 8 }

def State.setRow (s : State) (n t r : Nat) (v : Row) : State := s.updStall n (fun st => st.setRow t r v)

def Stall.rowBad (st : Stall) (t r : Nat) : Bool := (List.range 8).any (fun w => NSet.has st.rowPois (8 * rowKey t r + w))

/-- An uncorrectable tile row is reported (R264, R277). -/
def State.rowReport (s : State) (n : Nat) : State :=
  s.logEvent { mkEnt 3 3 0 (s.pitchOf n) n 0 with pois := true } (s.ldFor (s.pitchOf n))

/-- Rows 8k to 8k + 7 (R148). -/
def fragment (k : Nat) : List Nat := (List.range 8).map (· + 8 * k)

/-! ## Outer loops (08) -/

/-- What a step of an operation left: the state and the exception that stopped it. -/
structure Res where
  s : State
  exc : Option (Nat × Nat)

/-- Do `f` for each element in order until one raises. -/
def seqRes {α : Type} (f : State → α → Res) (s : State) (l : List α) : Res :=
  l.foldl (fun r x => match r.exc with | some _ => r | none => f r.s x) ⟨s, none⟩

/-- The registers an operation reads at issue: GA, GS and the loop registers. -/
structure LoopRegs where
  ga : Word
  gs : Word
  cnt : Word
  str : Word
  plist : Word

def Thread.loopRegs (t : Thread) (w : WF) : LoopRegs := ⟨t.gr w.ga.toNat, t.gr w.gs.toNat, t.batchcnt, t.batchstr, t.plist⟩

/-- C, or none where the operation raises ILLEGAL at issue (R180, R181; LOOP 3). -/
def LoopRegs.count (g : LoopRegs) (loop : BitVec 2) : Option Nat :=
  match loop.toNat with
  | 0 => some 1
  | 1 => if fld g.cnt 32 32 = 0 then some (fld g.cnt 0 32) else none
  | 2 => if fld g.plist 21 3 = 0 ∧ fld g.plist 56 8 = 0 ∧ fld g.plist 0 3 = 0 then some (fld g.plist 24 32) else none
  | _ => none

/-- The base of an iteration. -/
inductive Base where
  | at_ (b : Word)
  | skip
  | exc (c a : Nat)
  deriving DecidableEq, Repr

/-- OFF as a 64-bit value. -/
def wOff (w : WF) : Word := w.off.signExtend 64

/-- b_i (R179, R182); the pointer list is read from the own shelf by thread k. -/
def State.loopBase (s : State) (n k : Nat) (g : LoopRegs) (loop : BitVec 2) (i : Nat) : State × Base :=
  match loop.toNat with
  | 0 => (s, .at_ g.ga)
  | 1 => (s, .at_ (g.ga + BitVec.ofNat 64 i * g.str))
  | _ =>
    let r := s.stallRead n 0 k (0x100000000 + (fld g.plist 0 21 + 8 * i) % 2097152) 8
    match r.exc with
    | some (c, a) => (r.s, .exc c a)
    | none => (r.s, if leNat r.d = 2 ^ 64 - 1 then .skip else .at_ (g.ga + BitVec.ofNat 64 (leNat r.d)))

/-- ALIGN at issue (R139, R180): GA + OFF and GS, and the stride of two or more iterations. -/
def LoopRegs.misaligned (g : LoopRegs) (w : WF) (c : Nat) : Option Word :=
  let a := g.ga + wOff w
  if g.gs.toNat % 64 ≠ 0 ∨ (w.loop ≠ 2 ∧ a.toNat % 64 ≠ 0) then some a
  else if w.loop = 1 ∧ 2 ≤ c ∧ g.str.toNat % 64 ≠ 0 then some (g.ga + g.str + wOff w)
  else none

/-- TSTART (R168). -/
def tstartOf (iter row : Nat) : Word := BitVec.ofNat 64 (row + 65536 * iter)

/-- ITER and ROW, or none where the operation raises ILLEGAL (R169). -/
def Thread.tstartAt (t : Thread) (c rows : Nat) : Option (Nat × Nat) :=
  let i := fld t.tstart 16 32
  let r := fld t.tstart 0 16
  if fld t.tstart 48 16 = 0 ∧ i < c ∧ r < rows then some (i, r) else none

end Sys2Proof.Machine
end

