-- ==== Sys2Proof/Machine/Group.lean ====
section
/-!
DEFINITION. Group-synchronous wide halves (06 R135): the gathering of the group, the issue of MWLD, MSTRM, MFILL and HMV with
their checks (07 R158 to R164, R169, R172), and the retirement of a pair.
-/
namespace Sys2Proof.Machine

/-! ## Formats of the array (R158) -/

/-- A format of the array or hawker: bits, floating format (none: int8), and whether blocks of 32 carry E8M0 scales. -/
structure AFmt where
  w : Nat
  fp : Option Fmt
  scaled : Bool := false
  deriving DecidableEq, Repr

/-- Input format by FMT. -/
def aIn (c : Nat) : Option AFmt :=
  match c with
  | 0 => some { w := 8, fp := some .e4m3 }
  | 1 => some { w := 8, fp := some .e5m2 }
  | 2 => some { w := 8, fp := some .e4m3 }
  | 3 => some { w := 8, fp := some .e5m2 }
  | 4 => some { w := 4, fp := some .e2m1, scaled := true }
  | 5 => some { w := 16, fp := some .bf16 }
  | 6 => some { w := 8, fp := none }
  | _ => none

/-- Weight format by FMT. -/
def aWt (c : Nat) : Option AFmt :=
  match c with
  | 2 => some { w := 8, fp := some .e5m2 }
  | 3 => some { w := 8, fp := some .e4m3 }
  | _ => aIn c

/-- FMT 0x4 and RND 2 that the compatibility outcome withdraws (19 R428). -/
def State.fmtOff (s : State) (c : Nat) : Bool := c = 4 && bitsOf s.fw.disable 7 1 = 1
def State.rndOff (s : State) (r : BitVec 2) : Bool := r = 2 && bitsOf s.fw.disable 8 1 = 1

/-! ## The weight image (R162) -/

/-- Load rows 0 to 31 of a tile as the weight image; the array's domain powers up (R328), cold. -/
def Stall.loadWeights (st : Stall) (t fmt : Nat) : Stall :=
  { st with arr := { st.arr with
      loaded := true, wfmt := fmt, scale := if fmt = 4 then t + 1 else 0,
      img := (List.range 32).foldl (fun m r => if st.row t r = 0 then m else Tab.set m r (st.row t r)) [],
      cold := st.arr.cold || !st.arr.on, on := true } }

def Stall.tileBad (st : Stall) (t : Nat) : Bool := (List.range 32).any (fun r => st.rowBad t r)

/-- The array's domain powers up; it is cold after that (R166, R328). -/
def Stall.powerArray (st : Stall) : Stall := { st with arr := { st.arr with cold := st.arr.cold || !st.arr.on, on := true } }

/-! ## The end of an operation -/

/-- Every participant's pair retires. -/
def State.retireAll (s : State) (n : Nat) (parts : List Nat) : State :=
  parts.foldl (fun s k => (s.updThread n k (fun t => { t with st := .run })).retirePair n k) s

def State.tstartAll (s : State) (n : Nat) (parts : List Nat) (v : Word) : State :=
  parts.foldl (fun s k => s.updThread n k (fun t => { t with tstart := v })) s

/-- The operation in progress ends with an exception: TSTART names the first unstarted iteration and row (R170). -/
def State.wopExc (s : State) (n : Nat) (o : WOp) (cause addr : Nat) : State :=
  (((s.updStall n (fun st => { st with wop := none })).tstartAll n o.parts (tstartOf o.iter o.row)).selOp n o 2).groupExc n o.parts cause
    (BitVec.ofNat 64 addr)

/-! ## Issue -/

/-- The first four bytes of a scale tile's row (R158). -/
def scaleBytes (r : Nat) : List Nat := (List.range 4).map (fun j => bitsOf r (8 * j) 8)

/-- The weight scales that the scale tile holds (R162). -/
def Stall.scaleRows (st : Stall) : List (List Nat) :=
  if st.arr.wfmt = 4 then (List.range 32).map (fun r => scaleBytes (st.row st.arr.scale r).toNat) else []

/-- The operation begins, the weight scales read at its start (R162): its participants stay at the pair until it finishes (R126, R141; log
entry 96). -/
def State.wopStart (s : State) (n : Nat) (op : GOp) (w : WF) (t : Thread) (parts : List Nat) (at_ : Nat × Nat) : State :=
  let g := t.loopRegs w
  let o : WOp :=
    { op := op, f := w, parts := parts, ga := g.ga, gs := g.gs, cnt := g.cnt, str := g.str, plist := g.plist,
      iter := at_.1, row := at_.2, blk := 0, acc := [], issue := s.cycle n, done := false,
      scales := (s.stall n).scaleRows }
  s.updStall n (fun st => { st with wop := some o })

/-- MWLD (R162). -/
def State.issueMwld (s : State) (n : Nat) (w : WF) (parts : List Nat) : State :=
  let rest := { w with ta := 0, fmt := 0 }
  let c := w.fmt.toNat
  let t := w.ta.toNat
  if rest ≠ {} ∨ (aIn c).isNone ∨ s.fmtOff c ∨ (c = 4 ∧ t = 31) then s.groupExc n parts cILLEGAL 0
  else if (s.stall n).tileBad t then (s.rowReport n).groupExc n parts cDATA 0
  else ((s.updStall n (fun st => st.loadWeights t c)).selWide n (parts.headD 0) 0x20 w 0 1 0).retireAll n parts

/-- ILLEGAL of MSTRM's fields and of the array's state (R158, R160, R163; the GS of E2M1 rows, log entry 18). -/
def mstrmBad (a : ArraySt) (w : WF) (gs : Nat) : Bool :=
  let out := bitsOf w.sub.toNat 0 3
  let shelf := bitsOf w.sub.toNat 3 1 = 1
  let rows := w.rows.toNat
  !a.loaded || w.fmt.toNat ≠ a.wfmt || (w.fmt = 6 && out ≠ 0) || (w.rnd ≠ 0 && out = 0) || (w.acc && out ≠ 0) ||
    (w.fmt = 4 && gs < 128) ||
    (if shelf then w.td ≠ 0 else 32 < rows || 2 ≤ out || (out = 0 && w.td.toNat % 2 = 1) || w.imm8 ≠ 0)

/-- The weight image's scale rows (R162). -/
def State.weightBad (s : State) (n fmt : Nat) : Bool := fmt = 4 && (s.stall n).tileBad (s.stall n).arr.scale

/-- MSTRM (R163, R169, R179 to R184). -/
def State.issueMstrm (s : State) (n : Nat) (w : WF) (t : Thread) (parts : List Nat) : State :=
  let rest := { w with td := 0, ga := 0, gs := 0, fmt := 0, loop := 0, acc := false, rows := 0, off := 0, hint := 0, rnd := 0, sub := 0, imm8 := 0 }
  let g := t.loopRegs w
  let c := w.fmt.toNat
  if rest ≠ {} ∨ w.loop = 3 ∨ w.rnd = 3 ∨ s.rndOff w.rnd ∨ (aIn c).isNone ∨ s.fmtOff c ∨ 3 < bitsOf w.sub.toNat 0 3 then
    s.groupExc n parts cILLEGAL 0
  else if w.rows = 0 then s.retireAll n parts
  else if mstrmBad (s.stall n).arr w g.gs.toNat then s.groupExc n parts cILLEGAL 0
  else
    match g.count w.loop with
    | none => s.groupExc n parts cILLEGAL 0
    | some cnt =>
      match t.tstartAt cnt w.rows.toNat with
      | none => s.groupExc n parts cILLEGAL 0
      | some at_ =>
        match g.misaligned w cnt with
        | some a => s.groupExc n parts cALIGN a
        | none =>
          if s.weightBad n c then ((s.rowReport n).tstartAll n parts (tstartOf at_.1 at_.2)).groupExc n parts cDATA 0
          else (s.updStall n Stall.powerArray).wopStart n .mstrm w t parts at_

/-- MFILL (R164, R169, R170): TB becomes the weight image, again on every resume. -/
def State.issueMfill (s : State) (n : Nat) (w : WF) (t : Thread) (parts : List Nat) : State :=
  let rest := { w with td := 0, ta := 0, tb := 0, fmt := 0, acc := false, rows := 0 }
  let c := w.fmt.toNat
  let td := w.td.toNat
  let sc := if c = 4 then 1 else 0
  let clash := fun x => x = td || x = td + 1
  if rest ≠ {} ∨ (aIn c).isNone ∨ s.fmtOff c then s.groupExc n parts cILLEGAL 0
  else if w.rows = 0 then s.retireAll n parts
  else if 32 < w.rows.toNat ∨ td % 2 = 1 ∨ 31 < w.ta.toNat + sc ∨ 31 < w.tb.toNat + sc ∨ clash w.ta.toNat ∨ clash w.tb.toNat ∨
      clash (w.ta.toNat + sc) ∨ clash (w.tb.toNat + sc) then s.groupExc n parts cILLEGAL 0
  else
    match t.tstartAt 1 w.rows.toNat with
    | none => s.groupExc n parts cILLEGAL 0
    | some at_ =>
      if (s.stall n).tileBad w.tb.toNat || (c = 4 && (s.stall n).tileBad (w.tb.toNat + 1)) then ((s.rowReport n).tstartAll n parts (tstartOf 0 at_.2)).groupExc n parts cDATA 0
      else (s.updStall n (fun st => st.loadWeights w.tb.toNat c)).wopStart n .mfill w t parts at_

/-- HMV's ILLEGAL cases (R172, R184; GS of scaled rows, log entry 18). -/
def hmvBad (w : WF) (gs c : Nat) : Bool :=
  let v := w.sub.toNat + 1
  let ta := w.ta.toNat
  let td := w.td.toNat
  let k := 32 * w.imm8.toNat
  8 < v || w.imm8 = 0 || 32 < w.imm8.toNat || 512 < w.rows.toNat || 32 < ta + v || 32 < td + v ||
    (ta < td + v && td < ta + v) || 512 < c * w.rows.toNat || (w.fmt = 4 && gs < k / 2 + k / 32)

/-- HMV (R172, R169, R179 to R184): the vector tiles are read at its start. -/
def State.issueHmv (s : State) (n : Nat) (w : WF) (t : Thread) (parts : List Nat) : State :=
  let rest := { w with td := 0, ta := 0, ga := 0, gs := 0, fmt := 0, loop := 0, acc := false, rows := 0, off := 0, hint := 0, sub := 0, imm8 := 0 }
  let g := t.loopRegs w
  let c := w.fmt.toNat
  if bitsOf s.fw.disable 6 1 = 1 ∨ rest ≠ {} ∨ w.loop = 3 ∨ c = 2 ∨ c = 3 ∨ (aIn c).isNone ∨ s.fmtOff c then
    s.groupExc n parts cILLEGAL 0
  else if w.rows = 0 then s.retireAll n parts
  else
    match g.count w.loop with
    | none => s.groupExc n parts cILLEGAL 0
    | some cnt =>
      if hmvBad w g.gs.toNat cnt then s.groupExc n parts cILLEGAL 0
      else
        match t.tstartAt cnt w.rows.toNat with
        | none => s.groupExc n parts cILLEGAL 0
        | some at_ =>
          match g.misaligned w cnt with
          | some a => s.groupExc n parts cALIGN a
          | none =>
            if (List.range (w.sub.toNat + 1)).any (fun v => (List.range w.imm8.toNat).any (fun r => (s.stall n).rowBad (w.ta.toNat + v) r)) then
              ((s.rowReport n).tstartAll n parts (tstartOf at_.1 at_.2)).groupExc n parts cDATA 0
            else (s.updStall n (fun st => { st with hawkOn := true })).wopStart n .hmv w t parts at_

/-- Every running thread stands at a group-synchronous pair: one address, and the operation issues once with the registers of the
lowest-numbered; two addresses, and every waiting thread raises GROUP (R135). -/
def State.groupCheck (s : State) (n : Nat) : State :=
  let st := s.stall n
  if st.allAtGroup && st.wop.isNone then
    if st.samePair then
      match st.running with
      | [] => s
      | k :: l =>
        let t := st.thread k
        match t.gop with
        | some (.mwld, w) => s.issueMwld n w (k :: l)
        | some (.mstrm, w) => s.issueMstrm n w t (k :: l)
        | some (.mfill, w) => s.issueMfill n w t (k :: l)
        | some (.hmv, w) => s.issueHmv n w t (k :: l)
        | none => s
    else s.raiseGroup n
  else s

/-- A thread reaches a group-synchronous wide half and blocks (R135); under a preemption its wait is withdrawn (R143). -/
def State.groupOp (s : State) (n k : Nat) (op : GOp) (w : WF) : State :=
  s.wide n k (fun t =>
    if (s.stall n).stopping then (s.setThread n k { t with half := false, waited := true }).atStop n k
    else (s.setThread n k { t with st := .group, gop := some (op, w) }).groupCheck n)

/-- A pair of one thread retires; after KEND the group and a SYNCG no longer count the thread (R133, R135). -/
def State.retire (s : State) (n k : Nat) : State :=
  let e := (s.thread n k).ending
  let s := s.retirePair n k
  if e then (s.syncRelease n).groupCheck n else s

end Sys2Proof.Machine
end

