-- ==== Sys2Proof/Machine/Wide.lean ====
section
/-!
DEFINITION. Wide halves of one thread: WNOP, TLD, TST, TREL (07 R150 to R152) and the porter instructions (06 R134).
-/
namespace Sys2Proof.Machine

/-! ## TLD and TST -/

/-- Row r of the fragment at base a, with far-cache hint h (R150). -/
def State.ldRow (s : State) (n k t h : Nat) (a : Word) (gs : Word) (r : Nat) : Res :=
  let x := s.stallRead n 0 k (a + BitVec.ofNat 64 r * gs).toNat 64 h
  match x.exc with
  | some e => ⟨x.s, some e⟩
  | none => ⟨x.s.setRow n t r (rowOf x.d), none⟩

def State.stRow (s : State) (n k t h : Nat) (a : Word) (gs : Word) (r : Nat) : Res :=
  if (s.stall n).rowBad t r then ⟨s.rowReport n, some (cDATA, 0)⟩
  else
    let x := s.stallWrite n 0 k (a + BitVec.ofNat 64 r * gs).toNat (rowBytes ((s.stall n).row t r)) h
    ⟨x.s, x.exc⟩

/-- One iteration of TLD or TST; an exception leaves TSTART at the iteration where the operation loops (R170). -/
def State.ldStIter (s : State) (n k : Nat) (st : Bool) (w : WF) (g : LoopRegs) (i : Nat) : Res :=
  let stop := fun (s : State) (e : Nat × Nat) =>
    (⟨if w.loop = 0 then s else s.updThread n k (fun t => { t with tstart := tstartOf i 0 }), some e⟩ : Res)
  let b := s.loopBase n k g w.loop i
  match b.2 with
  | .skip => ⟨b.1, none⟩
  | .exc c a => stop b.1 (c, a)
  | .at_ v =>
    let a := v + wOff w
    if a.toNat % 64 ≠ 0 then stop b.1 (cALIGN, a.toNat)
    else
      let t := (if st then w.ta else w.td).toNat + i
      let r := seqRes (fun s r => if st then s.stRow n k t w.hint.toNat a g.gs r else s.ldRow n k t w.hint.toNat a g.gs r) b.1 (fragment k)
      match r.exc with
      | some e => stop r.s e
      | none => r

/-- TLD and TST (R150, R153, R169, R170, R179 to R184). -/
def State.ldSt (s : State) (n k : Nat) (st : Bool) (w : WF) : State :=
  let rest : WF := if st then { w with ta := 0, ga := 0, gs := 0, loop := 0, off := 0, hint := 0 }
    else { w with td := 0, ga := 0, gs := 0, loop := 0, off := 0, hint := 0 }
  s.wideUse n k rest (fun t =>
    let g := t.loopRegs w
    match g.count w.loop with
    | none => s.wideExc n k cILLEGAL 0
    | some c =>
      let start := if w.loop = 0 then some (0, 0) else t.tstartAt c 1
      match start with
      | none => s.wideExc n k cILLEGAL 0
      | some (i0, _) =>
        if w.loop ≠ 0 ∧ 32 < (if st then w.ta else w.td).toNat + c then s.wideExc n k cILLEGAL 0
        else
          match g.misaligned w c with
          | some a => s.wideExc n k cALIGN a
          | none =>
            let r := seqRes (fun s i => s.ldStIter n k st w g i) s ((List.range (c - i0)).map (· + i0))
            match r.exc with
            | some (e, a) => r.s.wideExc n k e (BitVec.ofNat 64 a)
            | none => (if w.loop = 0 then r.s else r.s.updThread n k (fun t => { t with tstart := 0 })).retire n k)

/-- WNOP (R133): nothing; every field must be 0. -/
def execWnop (s k : Nat) (w : WF) (st : State) : Ans :=
  run (inStall s && inThread k) (st.wideUse s k w (fun _ => st.retire s k))

/-- TLD (R150). -/
def execTld (s k : Nat) (w : WF) (st : State) : Ans :=
  run (inStall s && inThread k) (st.traced s k 0x10 w (fun s' => s'.ldSt s k false w))

/-- TST (R150). -/
def execTst (s k : Nat) (w : WF) (st : State) : Ans :=
  run (inStall s && inThread k) (st.traced s k 0x11 w (fun s' => s'.ldSt s k true w))

/-- The rows whose tile is not in a mask stay valid (R152). -/
def Stall.release (st : Stall) (mask : Nat) : Stall :=
  { st with rows := st.rows.filter (fun e => bitsOf mask (e.1 / 32) 1 = 0),
            rowPois := st.rowPois.filter (fun e => bitsOf mask (e / 256) 1 = 0) }

/-- TREL (R152). -/
def execTrel (s k : Nat) (w : WF) (st : State) : Ans :=
  run (inStall s && inThread k) (st.traced s k 0x13 w (fun st => st.wideUse s k { w with ga := 0 } (fun t =>
    (st.updStall s (fun x => x.release (fld (t.gr w.ga.toNat) 0 32))).retire s k)))

/-! ## Porters (R134) -/

/-- PCOPY (R134, R139): a length of 0 does nothing, one above 65,536 raises ILLEGAL, a busy porter holds the pair. -/
def execPcopy (s k : Nat) (w : WF) (st : State) : Ans :=
  run (inStall s && inThread k) (st.wideUse s k { w with td := 0, ta := 0, tb := 0, ga := 0, off := 0, hint := 0, sub := w.sub &&& 0xE }
    (fun t =>
      let len := (t.gr w.ta.toNat).toNat
      let src := t.gr w.ga.toNat + wOff w
      let dst := t.gr w.td.toNat
      let i := w.sub.toNat
      if 65536 < len then st.wideExc s k cILLEGAL 0
      else if len = 0 then st.retire s k
      else if src.toNat % 64 ≠ 0 then st.wideExc s k cALIGN src
      else if dst.toNat % 64 ≠ 0 then st.wideExc s k cALIGN dst
      else if len % 64 ≠ 0 then st.wideExc s k cALIGN 0
      else if ((st.stall s).porter i).busy then st.atStop s k
      else
        let q : Porter :=
          { busy := true, src := src, dst := dst, len := len, tally := t.gr w.tb.toNat, th := k, hint := w.hint.toNat }
        (st.updStall s (fun x => { x with port := Tab.set x.port i q })).retire s k))

/-- PWAIT (R133): the thread blocks until the porter is idle; under a preemption it stops at its wide half (log entry 19). -/
def execPwait (s k : Nat) (w : WF) (st : State) : Ans :=
  run (inStall s && inThread k) (st.wideUse s k { w with sub := w.sub &&& 0xE } (fun t =>
    if ((st.stall s).porter w.sub.toNat).busy then
      if (st.stall s).stopping then st.atStop s k
      else st.setThread s k { t with st := .pwait, pport := w.sub.toNat }
    else st.retire s k))

/-- Threads that wait for a porter go on (R133). -/
def State.porterFree (s : State) (n i : Nat) : State :=
  threads4.foldl (fun s k =>
    if (s.thread n k).st = .pwait ∧ (s.thread n k).pport = i then
      (s.updThread n k (fun t => { t with st := .run })).retire n k
    else s) s

/-- A porter transfer ends (R134, R200): its data move, DATA or UNMAPPED falls due where it fails, and it signals its
tally at its end. -/
def State.porterEnd (s : State) (n i : Nat) : State :=
  let p := (s.stall n).porter i
  if p.busy ∧ !(s.stall n).stopping then
    let m := s.porterRun n i (p.len / 64)
    let s := m.s
    let s := match m.exc with
      | some (c, a) => s.updThread n p.th (fun t => { t with due := t.due <|> some (c, BitVec.ofNat 64 a) })
      | none => s
    let id := fld p.tally 0 18
    let s :=
      if p.tally = 0 then s
      else if s.tallyFenced n id then s.tallyFence n p.th 2 id
      else s.tallySend { op := 2, id := id, x := 1, cond := 0, owner := .porter n i p.th }
    (s.updStall n (fun st => { st with port := Tab.set st.port i { p with busy := false, len := 0 } })).porterFree n i
  else s

/-- PORTER_TRANSFER_END (R134). -/
def execPorterTransferEnd (s i : Nat) (st : State) : Ans := run (inStall s && inTwo i) (st.porterEnd s i)

end Sys2Proof.Machine
end

