-- ==== Sys2Proof/Machine/Observe.lean ====
section
/-!
DEFINITION. Observation and jostle: scales monitors, the Selog event machine and its sinks, the jostle lock and the injectors (20).
-/
namespace Sys2Proof.Machine

/-! ## Scales (R433 to R438) -/

def State.monitor (s : State) (m : Nat) : Monitor := Tab.get {} s.obs.mon m

def State.updMonitor (s : State) (m : Nat) (f : Monitor → Monitor) : State :=
  { s with obs := { s.obs with mon := Tab.set s.obs.mon m (f (s.monitor m)) } }

def monBase (m : Nat) : Nat := 0x300000 + 0x200 * m

/-- SRC is one that monitor m accepts. -/
def srcOk (m src : Nat) : Bool := if m < 512 then decide (1 ≤ src ∧ src ≤ 6) else decide (0x20 ≤ src ∧ src ≤ 0x29)

/-- A level source. -/
def srcLevel (src : Nat) : Bool := [0x03, 0x05, 0x06, 0x21, 0x25, 0x26, 0x28].contains src

/-- What a commit is refused for (R436). -/
def commitBad (m : Nat) (cfg win : Word) : Bool :=
  let src := fld cfg 0 8
  let wlen := fld win 16 20
  !srcOk m src || (fld win 0 16 = 0 && !bit cfg 8) || wlen = 0 || decide (1000000 < wlen) || (srcLevel src && fld win 36 16 = 0)

/-- A commit of monitor m: its settings are staged under a new generation. -/
def State.monCommit (s : State) (m : Nat) : State :=
  let cfg := s.rw64 (monBase m)
  let win := s.rw64 (monBase m + 8)
  if commitBad m cfg win then s.updMonitor m (fun x => { x with err := true })
  else s.updMonitor m (fun x => { x with newCfg := cfg, newWin := win, gen := (x.gen + 1) % 65536, pending := true, err := false })

/-- MCOMMIT: the service processors, and the host under SLD. -/
def execMcommit (q : Req) (m : Nat) (v : W32) (st : State) : Ans :=
  run (inReq q && inMonitor m)
    (st.setupTry q (monBase m + 0x10) 4 (fwWriter q) (fun s => if bit32 v 0 then s.monCommit m else s))

/-- A sticking 32-bit counter. -/
def stick32 (v : W32) : W32 := if v = BitVec.allOnes 32 then v else v + 1

/-- The bin of a value, 64 for OVER (R434). -/
def binOf (log2 : Bool) (width d : Nat) : Nat :=
  if !log2 then min 64 (d / max width 1)
  else if d ≤ 1 then d
  else 2 * Nat.log2 d + bitsOf d (Nat.log2 d - 1) 1

/-- A value enters the window. -/
def Monitor.place (x : Monitor) (v : Nat) : Monitor :=
  let a := x.live
  let v := min v 0xFFFFFFFF
  let base := fld x.cfg 32 32
  let w := BitVec.ofNat 32 v
  let a := { a with
    count := a.count + 1, sum := a.sum + v, min := if a.count = 0 then w else if w.ult a.min then w else a.min,
    max := if a.max.ult w then w else a.max }
  let a :=
    if v < base then { a with under := stick32 a.under, sat := a.sat || a.under = BitVec.allOnes 32 - 1 }
    else
      let i := binOf (bit x.cfg 8) (fld x.win 0 16) (v - base)
      if i = 64 then { a with overBin := stick32 a.overBin, sat := a.sat || a.overBin = BitVec.allOnes 32 - 1 }
      else
        let b := Tab.get (0 : W32) a.bin i
        { a with bin := Tab.set a.bin i (stick32 b), sat := a.sat || b = BitVec.allOnes 32 - 1 }
  { x with live := a }

/-- What the level source of monitor m reads now (R433): its unit is the table's. -/
def State.level (s : State) (m : Nat) (x : Monitor) : Option Nat :=
  let h := m / 128
  let tg := fld x.cfg 16 16
  let bits := fun k n => bitsOf tg k n
  match fld x.cfg 0 8 with
  | 0x03 => some (((s.sliceOf (64 * h + bits 0 6)).wait.filter (fun r => r.taken && !r.near && portOf r.off = bits 6 2)).length)
  | 0x05 => some (((List.range 5).map (fun i => (s.inq (inqKey h (bits 0 6) i (bits 6 1 = 1))).length)).foldl (· + ·) 0)
  | 0x06 => some ((s.link (4 * h + bits 0 2)).replays - x.prev).toNat
  | 0x21 =>
    let q := Tab.get [] s.far.q (bits 0 5)
    some (min (farDepth false) (q.filter (fun e => !e.2)).length + min (farDepth true) (q.filter (fun e => e.2)).length)
  | 0x25 => some (s.domain (bits 0 11)).mw
  | 0x26 => some s.pwr.p1
  | 0x28 => some (s.layerEst (bits 0 2) (bits 2 3) / centi).toNat
  | _ => none

/-- SCALES_SAMPLE: one value of an event source, `v`, or a sample of a level source, which the machine's state gives. -/
def execScalesSample (m v : Nat) (st : State) : Ans :=
  run (inMonitor m)
    (let x := st.monitor m
     if bit x.cfg 9 then
       st.updMonitor m (fun x => { x.place ((st.level m x).getD v) with
         prev := if fld x.cfg 0 8 = 6 then (st.link (4 * (m / 128) + fld x.cfg 16 2)).replays else x.prev })
     else st)

/-- The accumulators go to the result bank with RSEQ odd in between; staged settings take effect. `t` is the timebase of the boundary. -/
def Monitor.close (x : Monitor) (t : Nat) : Monitor :=
  let res := { x.live with min := if x.live.count = 0 then BitVec.allOnes 32 else x.live.min }
  let w := fld (if x.pending then x.newWin else x.win) 16 20
  let changed := x.pending && decide (w ≠ fld x.win 16 20)
  { x with
    res := res, rseq := x.rseq + 2, cfg := if x.pending then x.newCfg else x.cfg, win := if x.pending then x.newWin else x.win,
    pending := false,
    live := { start := t, short := changed && decide (t % (w * 1000) ≠ 0), gen := if x.pending then x.gen else x.live.gen } }

/-- The timebase that monitor m uses: its hall's copy, or the gatehouse's (R435). -/
def State.monTime (s : State) (m : Nat) : Nat := if m < 512 then s.copyTime (m / 128) s.time else s.time

/-- WINDOW_BOUNDARY. -/
def execWindowBoundary (m : Nat) (st : State) : Ans :=
  run (inMonitor m) (st.updMonitor m (fun x => x.close (st.monTime m)))

/-! ## Selog sinks (R444) -/

def Tracer.log2 (t : Tracer) : Nat := fld t.sink 26 5
def Tracer.host (t : Tracer) : Bool := bit t.cfg 4
def Tracer.stopFull (t : Tracer) : Bool := bit t.cfg 5

/-- Bytes the sink takes now. -/
def Tracer.free (t : Tracer) : Nat :=
  if t.host ∨ t.stopFull then 2 ^ t.log2 - (t.wptr.toNat - t.rptr.toNat) else t.buf.length

/-- Write bytes at an offset of the sink. -/
def State.sinkWrite (s : State) (n off : Nat) (b : List Byte) : State :=
  if (s.sel n).host then s.wrHost ((s.sel n).base + off) b else s.wrShelf n ((s.sel n).base + off) b

/-- Porter 1 moves what the sink takes of the buffer; SELWPTR counts it. -/
def State.sinkMove (s : State) (n : Nat) : State :=
  let t := s.sel n
  let off := t.wptr.toNat % 2 ^ t.log2
  let b := t.buf.take t.free
  let first := 2 ^ t.log2 - off
  if t.host && !(s.bme (s.fnOf ((s.pitchOf n).getD 0))) then s
  else
    let s := (s.sinkWrite n off (b.take first)).sinkWrite n 0 (b.drop first)
    s.updSel n (fun t => { t with buf := t.buf.drop b.length, wptr := t.wptr + BitVec.ofNat 64 b.length })

/-- Entering TRACING (R439). -/
def State.selStart (s : State) (n : Nat) : State :=
  let s := s.updSel n (fun t => { t with st := 2, cyc := s.cycle n, pairs := 0, open_ := [], last := [], rep := [] })
  let s := (s.selEvent n 6).selSync n
  threads4.foldl (fun s k => if (s.thread n k).st = .off then s else s.selPc n k 1 (s.thread n k).pc) s

/-- ARMED; start code 0 traces at once. -/
def State.selArmed (s : State) (n : Nat) : State :=
  let s := s.updSel n (fun t => { t with st := 1 })
  if fld (s.sel n).cfg 8 2 = 0 then s.selStart n else s

/-- Entering DONE: open branches and "trace stop" go out, the buffer to the sink; REPEAT arms again (R439). -/
def State.selDone (s : State) (n : Nat) : State :=
  let s := threads4.foldl (fun s k => (s.selBr n k).selRep n k) s
  let s := ((s.selEmit n 0 7 (toLE 2 7) (s.cycle n)).sinkMove n).updSel n (fun t => { t with st := 3 })
  if bit (s.sel n).cfg 6 then s.selArmed n else s

/-- A flush: room in the buffer ends a loss; a sink full under STOPFULL ends the trace (R439, R446). -/
def State.selFlush (s : State) (n : Nat) : State :=
  let s := s.sinkMove n
  if (s.sel n).tracing && (s.sel n).stopFull && decide ((s.sel n).buf ≠ []) then s.selDone n
  else if (s.sel n).tracing then s.selOvf n
  else s

/-- SELOG_FLUSH: the buffer holds 2 KiB or more, or what a stop left; porter 1 is free and no preemption is under way. -/
def execSelogFlush (s : Nat) (st : State) : Ans :=
  run (inStall s)
    (if (2048 ≤ (st.sel s).buf.length ∨ (st.sel s).st = 3) ∧ !((st.stall s).porter 1).busy ∧ !(st.stall s).stopping then st.selFlush s else st)

/-- SELOG_SYNC: SYNCINT × 4,096 stall cycles have passed since the last SYNC (R443). -/
def execSelogSync (s : Nat) (st : State) : Ans :=
  run (inStall s)
    (if (st.sel s).sync + 4096 * max 1 (fld (st.sel s).cfg 16 16) ≤ st.cycle s then st.selSyncOn s else st)

/-! ## The event machine (R439, R445) -/

/-- What an ARM is refused for, or the base of the sink (R445; log entry 33). -/
def State.selSink (s : State) (n : Nat) : Option Nat :=
  let b := stallBase n
  let cfg := s.rw64 (b + 0x400)
  let sink := s.rw64 (b + 0x418)
  let hoff := (s.rw64 (b + 0x420)).toNat
  let l := fld sink 26 5
  if fld cfg 0 4 = 0 ∨ 4 < fld cfg 10 3 ∨ l < 12 then none
  else if !bit cfg 4 then (if 20 < l ∨ fld sink 0 21 % 2 ^ l ≠ 0 then none else some (fld sink 0 21))
  else if 30 < l ∨ hoff % 2 ^ l ≠ 0 then none
  else match s.readBufs ((s.pitchOf n).getD 0) false [(fld sink 32 16, true)] with
    | .ok [x] => if x.kind = 1 ∧ hoff + 2 ^ l ≤ x.len then some (x.base + hoff) else none
    | _ => none

/-- An ARM write in OFF or DONE. -/
def State.selArm (s : State) (n : Nat) : State :=
  let t := s.sel n
  let b := stallBase n
  if t.st = 1 ∨ t.st = 2 then s
  else match s.selSink n with
    | none => s.updSel n (fun t => { t with err := true })
    | some a =>
      (s.updSel n (fun t => { t with
        err := false, cfg := s.rw64 (b + 0x400), trig := s.rw64 (b + 0x408), stopAt := s.rw64 (b + 0x410), sink := s.rw64 (b + 0x418),
        hoff := s.rw64 (b + 0x420), base := a })).selArmed n

/-- A write to SELCTL of a stall: a bit, once set, reads 1 until a start (00 R7; log entry 40), and each write of 1 acts. -/
def State.selCtl (s : State) (q : Req) (n : Nat) (v : W32) (f : State → State) : State :=
  s.stallTry q n 0x428 4 true (fun t => f (t.orRw32 (stallBase n + 0x428) (v &&& 7)))

/-- ARM. -/
def execSelArm (q : Req) (s : Nat) (st : State) : Ans := run (inReq q && inStall s) (st.selCtl q s 1 (fun t => t.selArm s))

/-- A STOP write ends arming or tracing. -/
def State.selStop (s : State) (n : Nat) : State := if (s.sel n).st = 1 ∨ (s.sel n).st = 2 then s.selDone n else s

/-- STOP. -/
def execSelStop (q : Req) (s : Nat) (st : State) : Ans := run (inReq q && inStall s) (st.selCtl q s 2 (fun t => t.selStop s))

/-- A DISARM write. -/
def State.selDisarm (s : State) (n : Nat) : State := s.updSel n (fun t => { t with st := 0, buf := [], lost := 0, open_ := [], last := [], rep := [] })

/-- DISARM: OFF from any state; what the buffer held is gone. -/
def execSelDisarm (q : Req) (s : Nat) (st : State) : Ans := run (inReq q && inStall s) (st.selCtl q s 4 (fun t => t.selDisarm s))

/-- TRACE_START: the start event of SELCFG came, in ARMED; of code 3 once GTIME has reached SELTRIG. -/
def execTraceStart (s : Nat) (st : State) : Ans :=
  run (inStall s)
    (if (st.sel s).st = 1 ∧ (fld (st.sel s).cfg 8 2 = 3 → (st.sel s).trig.toNat ≤ st.copyTime (hallOf s) st.time) then st.selStart s else st)

/-- TRACE_STOP: the stop event of SELCFG came, in TRACING; of code 0 there is none, of code 3 the device counts the pairs, of code 4 GTIME has
reached SELEND. -/
def execTraceStop (s : Nat) (st : State) : Ans :=
  run (inStall s)
    (let t := st.sel s
     let c := fld t.cfg 10 3
     if t.tracing && c ≠ 0 && (c ≠ 3 || decide (t.stopAt.toNat ≤ t.pairs)) &&
         (c ≠ 4 || decide (t.stopAt.toNat ≤ st.copyTime (hallOf s) st.time)) then st.selDone s else st)

/-- A write of SELRPTR makes room in the sink (R446). -/
def State.selRptr (s : State) (n : Nat) (v : Word) : State :=
  let s := s.updSel n (fun t => { t with rptr := v })
  if 2048 ≤ (s.sel n).buf.length ∨ (s.sel n).st = 3 ∧ (s.sel n).buf ≠ [] then s.selFlush n else s

/-- SELRPTR_WRITE. -/
def execSelrptrWrite (q : Req) (s : Nat) (v : Word) (st : State) : Ans :=
  run (inReq q && inStall s) (st.stallTry q s 0x440 8 true (fun t => t.selRptr s v))

/-! ## Jostle (R447 to R450) -/

/-- UNLOCK of JCTL. -/
def State.unlocked (s : State) : Bool := bit32 (s.rw32 0x380000) 0

/-- A requester that may write jostle registers now. -/
def State.jostler (s : State) (q : Req) : Bool :=
  match q with
  | .sp _ => s.unlocked
  | .host => s.unlocked
  | .ld _ => false

/-- A write of JCTL: UNLOCK from a service processor alone; JTIME with it, or while UNLOCK is 1. -/
def State.jctl (s : State) (q : Req) (v : W32) : State :=
  let keep := ofBool (reqIsSp q && bit32 v 0 || !reqIsSp q && s.unlocked)
  s.setRw32 0x380000 (BitVec.ofNat 32 (keep + 256 * fld32 v 8 8))

/-- UNLOCK: a JCTL write. -/
def execJostleUnlock (q : Req) (v : W32) (st : State) : Ans :=
  run (inReq q)
    (st.setupTry q 0x380000 4 (st.jostler q || (reqIsSp q && bit32 v 0)) (fun s => s.jctl q v))

/-- Every jostle field takes its reset value. -/
def State.jostleClear (s : State) : State :=
  let s := s.resetRw 0x380000 0x1000
  { s with obs := { s.obs with inj := [] } }

/-- JOSTLE_EXPIRY. -/
def execJostleExpiry (st : State) : Ans := run true st.jostleClear

/-- A setting that an injector accepts: gatehouse SRAM takes single-bit errors only (R450). -/
def injOk (v : Word) : Bool := fld v 0 4 ≠ 8 || (!bit v 16 && !bit v 40)

/-- JINJCFG_WRITE. -/
def execJinjcfgWrite (q : Req) (i : Nat) (v : Word) (st : State) : Ans :=
  run (inReq q && inHall i)
    (st.setupTry q (injOff i) 8 (st.jostler q && injOk v) (fun s => s.setRw64 (injOff i) (v &&& 0xFFFF_01FF_FFFF_FF7F)))

end Sys2Proof.Machine
end

