-- ==== Sys2Proof/Machine/Models.lean ====
section
/-!
DEFINITION. Jisan's model slots: packages, LOAD and UNLOAD, migration of a logical stall (13 R280 to R285, R303; 18 R403).
-/
namespace Sys2Proof.Machine

/-- The Jisan block of pitch p (R303). -/
def jisBase (p : Nat) : Nat := 0x184100 + 0x8000 * p

/-! ## Packages (R282, R283) -/

/-- A kernel entry and a tensor entry of a package, as offsets from its start. -/
def kernAt (k : Nat) : Nat := 64 + 32 * k

def pkgStalls (b : List Byte) : Nat := leAt b 6 2
def pkgVocab (b : List Byte) : Nat := leAt b 8 4
def pkgCtx (b : List Byte) : Nat := leAt b 12 4
def pkgKvtok (b : List Byte) : Nat := leAt b 16 4
def pkgKvbase (b : List Byte) : Nat := leAt b 20 4
def pkgStep (b : List Byte) : Nat := leAt b 24 4
def pkgLogit (b : List Byte) : Nat := leAt b 28 4
def pkgFartop (b : List Byte) : Nat := leAt b 32 8
def pkgDefpar (b : List Byte) : Nat := leAt b 40 8
def pkgTotal (b : List Byte) : Nat := leAt b 48 8
def pkgNtens (b : List Byte) : Nat := leAt b 56 2
def pkgNkern (b : List Byte) : Nat := leAt b 58 2

/-- Bytes of the logit area in each logical stall. -/
def pkgLogitLen (b : List Byte) : Nat := cdiv 256 (max (pkgStalls b) 1) * pkgVocab b * 4

/-- The 32-byte entries of a table. -/
def rowsOf (b : List Byte) (off n : Nat) : List (List Byte) := (List.range n).map (fun i => (b.drop (off + 32 * i)).take 32)

def kernels (b : List Byte) : List (List Byte) := rowsOf b 64 (pkgNkern b)
def tensors (b : List Byte) : List (List Byte) := rowsOf b (64 + 32 * pkgNkern b) (pkgNtens b)

/-- A copy of the load: PLACE, package offset, bytes in each destination, destination (the code is copied as PLACE 0). -/
def pkgCopies (b : List Byte) : List (Nat × Nat × Nat × Nat) :=
  (kernels b).map (fun k => (0, leAt k 8 8, leAt k 16 8, leAt k 4 4)) ++
    (tensors b).map (fun t => (leAt t 24 1, leAt t 0 8, leAt t 8 8, leAt t 16 8))

/-- Package bytes that a copy reads. -/
def copySrc (n : Nat) (c : Nat × Nat × Nat × Nat) : Nat := if c.1 = 1 then n * c.2.2.1 else c.2.2.1

/-- Check 3: the field limits of R282 and R283 (reserved bytes and encodings checked, log entry 34). -/
def pkgFieldsOk (b : List Byte) : Bool :=
  let tables := 64 + 32 * pkgNkern b + 32 * pkgNtens b
  decide (1 ≤ pkgStalls b ∧ pkgStalls b ≤ 256 ∧ 2 ≤ pkgVocab b ∧ pkgVocab b ≤ 2 ^ 24 ∧ 16 ≤ pkgCtx b ∧ pkgCtx b ≤ 2 ^ 20) &&
    decide (pkgKvtok b ≠ 0 ∧ pkgKvtok b % 64 = 0 ∧ pkgKvbase b % 0x10000 = 0 ∧ pkgStep b % 64 = 0 ∧ pkgLogit b % 64 = 0) &&
    decide (1 ≤ pkgNkern b ∧ pkgNkern b ≤ 8 ∧ tables ≤ pkgTotal b ∧ pkgDefpar b + 96 ≤ pkgTotal b) &&
    (kernels b).all (fun k => leAt k 0 1 = 1 && leAt k 1 1 ≠ 0 && decide (leAt k 1 1 < 16) && leAt k 2 2 = 0 && leAt k 24 8 = 0 &&
      leAt k 4 4 % 16 = 0 && decide (leAt k 8 8 + leAt k 16 8 ≤ pkgTotal b)) &&
    (kernels b).length = 1 &&
    (tensors b).all (fun t => decide (leAt t 24 1 ≤ 2) && leAt t 25 7 = 0 &&
      decide (leAt t 0 8 + (if leAt t 24 1 = 1 then pkgStalls b else 1) * leAt t 8 8 ≤ pkgTotal b))

/-- Two regions (offset, bytes) overlap. -/
def overlap (a b : Nat × Nat) : Bool := decide (a.1 < b.1 + b.2 ∧ b.1 < a.1 + a.2)

/-- Slice regions of the copies, and far-share regions. -/
def pkgSlice (b : List Byte) : List (Nat × Nat) := ((pkgCopies b).filter (fun c => c.1 ≠ 2)).map (fun c => (c.2.2.2, c.2.2.1))
def pkgFar (b : List Byte) : List (Nat × Nat) := ((pkgCopies b).filter (fun c => c.1 = 2)).map (fun c => (c.2.2.2, c.2.2.1))

/-- The step and logit areas. -/
def pkgAreas (b : List Byte) : List (Nat × Nat) := [(pkgStep b, pkgLogit b - pkgStep b), (pkgLogit b, pkgLogitLen b)]

/-- The good stalls of a pitch by window index (R283). -/
def State.goodStalls (s : State) (p : Nat) : List Nat := ((List.range 256).filterMap (fun w => s.pt.active.stallAt p w)).filter s.goodStall

/-- Check 5 of R284 with logical stalls `l`. -/
def State.pkgFits (s : State) (p : Nat) (b : List Byte) (l : List Nat) : Bool :=
  let u := (l.map (fun n => (s.sliceOf n).u)).foldl min 0x10000000
  let share := unit256 * s.pt.active.farsize p
  let others := (s.jis1 p).slot.filter (fun e => e.2.st = 2)
  let sl := pkgSlice b ++ pkgAreas b
  l.length = pkgStalls b && decide (pkgStep b < pkgLogit b) &&
    decide (max 65536 (352 + 8 * cdiv (pkgCtx b) 16) ≤ pkgLogit b - pkgStep b) &&
    decide (pkgLogit b + pkgLogitLen b ≤ pkgKvbase b) &&
    (pkgSlice b).all (fun r => decide (r.1 + r.2 ≤ pkgKvbase b) && (pkgAreas b).all (fun a => !overlap r a)) &&
    decide (pkgKvbase b < u) && decide (pkgFartop b ≤ share) && (pkgFar b).all (fun r => decide (r.1 + r.2 ≤ share)) &&
    others.all (fun e =>
      (!e.2.stalls.any l.contains || sl.all (fun r => e.2.regions.all (fun x => !overlap r x))) &&
      (pkgFar b).all (fun r => e.2.farRegions.all (fun x => !overlap r x)))

/-! ## LOAD and UNLOAD (R284, R285) -/

/-- The outcome of a LOAD or UNLOAD. -/
def State.loadOutcome (s : State) (p k st : Nat) : State := s.updJis p (fun j => { j with lastStatus := st, lastSlot := k })

/-- A LOAD that fails a check. -/
def State.loadRefused (s : State) (p k st : Nat) : State := (s.loadOutcome p k st).raiseEvent p

/-- The slot as a package describes it, on logical stalls `l`; `src` is where the package lies. -/
def slotFrom (b : List Byte) (l : List Nat) (src : Nat × Nat) : JSlot :=
  let k := (kernels b).headD []
  { st := 1, stalls := l, vocab := pkgVocab b, ctxmax := pkgCtx b, kvtok := pkgKvtok b, kvbase := pkgKvbase b, stepoff := pkgStep b,
    logitoff := pkgLogit b, fartop := pkgFartop b, defpar := (b.drop (pkgDefpar b)).take 96, tmask := leAt k 1 1, code := leAt k 4 4,
    regions := pkgSlice b ++ pkgAreas b, farRegions := pkgFar b, src := src, copies := pkgCopies b }

/-- LOAD with its checks in order; while Bus Master Enable is 0 its buffer table entry cannot be read, and it waits (03 R83). -/
def State.loadCmd (s : State) (p k buf : Nat) : State :=
  let j := s.jis1 p
  let off := (s.rw64 (jisBase p + 0x10)).toNat
  if bitsOf s.fw.disable 1 1 = 1 ∨ !s.jisanRuns then s.loadRefused p k 0x23
  else if (j.slotOf k).st ≠ 0 ∨ j.slot.any (fun e => e.2.st = 1) ∨ j.load.isSome ∨ (s.pctl p).resetting then s.loadRefused p k 0x24
  else if !s.bme (s.fnOf p) then s.updJis p (fun j => { j with load := some (k, buf) })
  else
    match s.readBufs p false [(buf, false)] with
    | .ok [x] =>
      let a := x.base + off
      let head := s.spaceRead p x.kind a 64
      let n := pkgTotal head
      if x.len < off + 64 ∨ x.len < off + n ∨ (x.kind = 2 ∧ !s.dpaBacked p a (max n 64)) then s.loadRefused p k 0x21
      else if (s.spaceFault p x.kind a (max n 64)).isSome then s.loadRefused p k 0x10
      else
        let b := s.spaceRead p x.kind a n
        let l := (s.goodStalls p).take (pkgStalls b)
        if leAt head 4 2 ≠ 1 ∧ leAt head 0 4 = 0x4E53414A then s.loadRefused p k 0x23
        else if leAt head 0 4 ≠ 0x4E53414A ∨ !pkgFieldsOk b then s.loadRefused p k 0x20
        else if leAt b 60 4 ≠ (crc32 (b.drop 64)).toNat then s.loadRefused p k 0x20
        else if !s.pkgFits p b l then s.loadRefused p k 0x21
        else s.updJis p (fun j => { j with slot := Tab.set j.slot k (slotFrom b l (x.kind, a)) })
    | _ => s.loadRefused p k 0x22

/-- A LOAD that has waited is made. -/
def State.loadResume (s : State) (p : Nat) : State :=
  match (s.jis1 p).load with
  | some (k, buf) => (s.updJis p (fun j => { j with load := none })).loadCmd p k buf
  | none => s

/-- Bus Master Enable of a function returns to 1: held writes and interrupts leave, and what waited for host memory goes on (03 R83). -/
def State.busMasterOn (s : State) (fn : Nat) : State :=
  (allPitches.filter (fun p => s.fnOf p = fn)).foldl State.loadResume (s.release fn).collsResume

/-- BUS_MASTER_ENABLE_SET (03 R83). -/
def execBusMasterEnableSet (fn : Nat) (st : State) : Ans :=
  run (inPitch fn) (if st.isFn fn then st.busMasterOn fn else st)

/-- UNLOAD: READY or STALE with no request that names it. -/
def State.unloadCmd (s : State) (p k : Nat) : State :=
  let j := s.jis1 p
  let st := (j.slotOf k).st
  if (st = 2 ∨ st = 3) ∧ j.reqs.all (fun q => q.slot ≠ k) then
    ((s.updJis p (fun j => { j with
      slot := Tab.del j.slot k, sess := j.sess.map (fun x => if x.slot = k then { x with kv := 0, blocks := [] } else x),
      rel := j.rel.filter (fun x => x.1 ≠ k), mig := j.mig.filter (fun x => x.1 ≠ k) })).loadOutcome p k 0).commitCkpt 0
  else s.loadOutcome p k 0x24

/-- A write of JMODCMD: refused on a host-driven pitch and with a reserved OP (R303). -/
def State.jmodcmd (s : State) (q : Req) (p : Nat) (v : Word) : State :=
  let op := fld v 0 3
  s.setupTry q (jisBase p + 8) 8 (reqOwns q p && s.pt.active.jisan p && (op = 1 || op = 2)) (fun s =>
    if op = 1 then s.loadCmd p (fld v 8 4) (fld v 16 16) else s.unloadCmd p (fld v 8 4))

/-- LOAD: a JMODCMD write. -/
def execLoadModel (q : Req) (p : Nat) (v : Word) (st : State) : Ans := run (inReq q && inPitch p) (st.jmodcmd q p v)

/-- UNLOAD: a JMODCMD write. -/
def execUnloadModel (q : Req) (p : Nat) (v : Word) (st : State) : Ans := run (inReq q && inPitch p) (st.jmodcmd q p v)

/-! ## The copy -/

/-- Store bytes, or poison where they are uncorrectable; whether a write was dropped. -/
structure JWr where
  s : State
  bad : Bool

def JWr.slice (w : JWr) (a : Nat) (b : List Byte) : JWr :=
  let r := w.s.wrSlice a b
  ⟨r.s, w.bad || r.drop.isSome⟩

def JWr.far (w : JWr) (o : Nat) (b : List Byte) : JWr :=
  let r := (w.s.farTouch w.s.pt.active o b.length 0 true).wrFar o b
  ⟨r.s, w.bad || r.drop.isSome⟩

/-- One copy of a load. -/
def JWr.copy (w0 : JWr) (p : Nat) (x : JSlot) (c : Nat × Nat × Nat × Nat) : JWr :=
  let a := x.src.2 + c.2.1
  let w : JWr := { w0 with s := w0.s.spaceTouch p x.src.1 a (copySrc x.stalls.length c) 0 false }
  let rd := fun (s : State) (o : Nat) => s.spaceRead p x.src.1 (a + o) c.2.2.1
  if (w.s.spaceFault p x.src.1 a (copySrc x.stalls.length c)).isSome then ⟨w.s, true⟩
  else if c.1 = 2 then w.far (unit256 * w.s.pt.active.farbase p + c.2.2.2) (rd w.s 0)
  else x.stalls.zipIdx.foldl (fun w e => w.slice (unit256 * e.1 + c.2.2.2) (rd w.s (if c.1 = 1 then e.2 * c.2.2.1 else 0))) w

/-- The copies of a load are made: all of them, or where one failed as many as a free value says. -/
def State.loadDone (s : State) (p k : Nat) (bad : Bool) : State :=
  let x := (s.jis1 p).slotOf k
  if x.st ≠ 1 ∨ !s.jisanRuns ∨ (x.src.1 = 1 ∧ !s.bme (s.fnOf p)) then s
  else
    let n := if bad then s.freeBelow (x.copies.length + 1) else x.copies.length
    let w : JWr := (x.copies.take n).foldl (fun (w : JWr) c => w.copy p x c) (⟨s.used, bad⟩ : JWr)
    if w.bad then (w.s.loadEnds p k 0x10).raiseEvent p
    else ((w.s.updJis p (fun j => { j with
      slot := Tab.set j.slot k { x with st := 2, step := 0, copies := [], src := (0, 0) }, lastStatus := 0, lastSlot := k })).raiseEvent p).commitCkpt 0

/-- LOAD_COPY_DONE: `bad` says that a read of the package was uncorrectable. -/
def execLoadCopyDone (p slot : Nat) (bad : Bool) (st : State) : Ans := run (inPitch p && inGroup slot) (st.loadDone p slot bad)

/-! ## Migration (18 R403) -/

/-- Bytes of slice src go to the same offset of dst, poisoned where they cannot be corrected. -/
def State.moveBytes (s : State) (src dst off n : Nat) : State :=
  (pieces 64 (n / 64 + 2) off (zeros n)).foldl (fun s x =>
    let a := unit256 * src + x.1
    let b := unit256 * dst + x.1
    if (s.sliceFault a x.2.length).isSome then s.poisSlice b
    else if !NSet.has s.mem.sliceValid (a / 256) && !NSet.has s.mem.sliceValid (b / 256) then s
    else (s.wrSlice b (Mem.rdBytes s.mem.slice a x.2.length)).s) s

/-- Slice KV blocks of slot k in use: those of running requests and of sessions. -/
def JPitch.sliceBlocks (j : JPitch) (k : Nat) : List Nat :=
  (j.reqs.filter (fun q => q.slot = k && q.st = 1)).flatMap (fun q => q.blocks) ++
    (j.sess.filter (fun x => x.slot = k && !x.far)).flatMap (fun x => x.blocks)

/-- The spare of the migration that began first takes over its logical index. -/
def State.migrated (s : State) (p : Nat) : State :=
  match (s.jis1 p).mig with
  | [] => s
  | (k, i, m) :: l =>
    if !s.jisanRuns then s
    else
      let x := (s.jis1 p).slotOf k
      let src := x.stalls.getD i 0
      let s := x.regions.foldl (fun s r => s.moveBytes src m r.1 r.2) s
      let s := (((s.jis1 p).sliceBlocks k).eraseDups).foldl (fun s b => s.moveBytes src m b (16 * x.kvtok)) s
      let s := (s.ledgerAdd (stallRec src 4) 1).ledgerAdd (stallRec m 4) 1
      s.updJis p (fun j => { j with slot := Tab.set j.slot k { x with stalls := x.stalls.set i m }, mig := l })

/-- MIGRATION_DONE: the stopped step runs again with the next STEP. -/
def execMigrationDone (p : Nat) (st : State) : Ans := run (inPitch p) (st.migrated p)

end Sys2Proof.Machine
end

