-- ==== Sys2Proof/Machine/Kv.lean ====
section
/-!
DEFINITION. Jisan's KV blocks, sessions, parking and resuming (13 R292, R297; 21 R457).
-/
namespace Sys2Proof.Machine

/-! ## JCFG (R303) -/

/-- JCFG of pitch p in effect: what the step in progress runs under, between steps the register. -/
def State.jcfg (s : State) (p : Nat) : W32 := if (s.jis1 p).run.isSome then (s.jis1 p).cfg else s.rw32 (jisBase p)

/-- Running sequences allowed: BATCHMAX, lowered by the policy loop (R301). -/
def State.batchMax (s : State) (p : Nat) : Nat := min (min (max (fld32 (s.jcfg p) 0 9) 1) 256) (s.jis1 p).batch

/-- STEPLIM in ns. -/
def State.stepLim (s : State) (p : Nat) : Nat :=
  let v := fld32 (s.jcfg p) 9 7
  10000000 * (if v = 0 then 100 else v)

/-- A prefill chunk in tokens. -/
def State.chunkMax (s : State) (p : Nat) : Nat := 64 * max (fld32 (s.jcfg p) 16 8) 1

/-! ## Blocks -/

/-- Bytes of a KV block in each stall, and of a far KV block. -/
def JSlot.blk (x : JSlot) : Nat := 16 * x.kvtok
def JSlot.fblk (x : JSlot) : Nat := x.blk * x.stalls.length

/-- Slice blocks held for slot k: of running requests, of sessions, and those that wait for a checkpoint. -/
def JPitch.held (j : JPitch) (k : Nat) : List Nat :=
  j.sliceBlocks k ++ ((j.rel.filter (fun x => x.1 = k && !x.2.1)).map (fun x => x.2.2))

/-- Far blocks held for slot k. -/
def JPitch.heldFar (j : JPitch) (k : Nat) : List Nat :=
  (j.reqs.filter (fun q => q.slot = k && q.st = 2)).flatMap (fun q => q.blocks) ++
    (j.sess.filter (fun x => x.slot = k && x.far)).flatMap (fun x => x.blocks) ++
    ((j.rel.filter (fun x => x.1 = k && x.2.1)).map (fun x => x.2.2))

/-- What the slices of slot x's stalls hold already, as (offset, bytes). -/
def JPitch.sliceUse (j : JPitch) (x : JSlot) : List (Nat × Nat) :=
  j.slot.flatMap (fun e =>
    if e.2.stalls.any x.stalls.contains then e.2.regions ++ (j.held e.1).map (fun o => (o, e.2.blk)) else [])

def JPitch.farUse (j : JPitch) : List (Nat × Nat) :=
  j.slot.flatMap (fun e => e.2.farRegions ++ (j.heldFar e.1).map (fun o => (o, e.2.fblk)))

/-- Free slice blocks of slot x of a pitch with Jisan state j: from KVBASE up to the smallest U of its stalls. -/
def State.freeBlks (s : State) (j : JPitch) (x : JSlot) : List Nat :=
  let u := (x.stalls.map (fun n => (s.sliceOf n).u)).foldl min 0x10000000
  let use := j.sliceUse x
  ((List.range ((u - x.kvbase) / max x.blk 1)).map (fun i => x.kvbase + x.blk * i)).filter
    (fun o => use.all (fun r => !overlap r (o, x.blk)))

/-- Free far blocks: from FARTOP up in the far share. -/
def State.freeFarBlks (s : State) (p : Nat) (j : JPitch) (x : JSlot) : List Nat :=
  let use := j.farUse
  ((List.range ((unit256 * s.pt.active.farsize p - x.fartop) / max x.fblk 1)).map (fun i => x.fartop + x.fblk * i)).filter
    (fun o => use.all (fun r => !overlap r (o, x.fblk)))

/-- Take n blocks of a list; which ones is a free value. -/
def State.takeBlks (s : State) : Nat → List Nat → State × List Nat
  | 0, _ => (s, [])
  | n + 1, l =>
    let b := s.choose 0 l
    let r := s.used.takeBlks n (l.erase b)
    (r.1, b :: r.2)

/-! ## Moving blocks -/

/-- n bytes of a slice go to far memory with hint 3, poisoned where they cannot be corrected. -/
def State.sliceToFar (s : State) (a o n : Nat) : State :=
  (pieces 64 (n / 64 + 2) a (zeros n)).foldl (fun s x =>
    if (s.sliceFault x.1 x.2.length).isSome then s.poisFar (o + (x.1 - a))
    else (s.wrFar (o + (x.1 - a)) (Mem.rdBytes s.mem.slice x.1 x.2.length)).s) (s.farTouch s.pt.active o n 3 true)

/-- n bytes of far memory are read with hint 3 into a slice. -/
def State.farToSlice (s0 : State) (o a n : Nat) : State :=
  let s := s0.farTouch s0.pt.active o n 3 false
  (pieces 64 (n / 64 + 2) o (zeros n)).foldl (fun s x =>
    if (s.farFault x.1 x.2.length).isSome then s.poisSlice (a + (x.1 - o))
    else (s.wrSlice (a + (x.1 - o)) (Mem.rdBytes s.mem.far x.1 x.2.length)).s) s

/-- Blocks `l` of a slot, as (slice offset, far-share offset), move out: the part of logical stall j lies at j × the block's bytes. -/
def State.blocksOut (s : State) (p : Nat) (x : JSlot) (l : List (Nat × Nat)) : State :=
  l.foldl (fun s b => x.stalls.zipIdx.foldl (fun s n =>
    s.sliceToFar (unit256 * n.1 + b.1) (unit256 * s.pt.active.farbase p + b.2 + n.2 * x.blk) x.blk) s) s

def State.blocksIn (s : State) (p : Nat) (x : JSlot) (l : List (Nat × Nat)) : State :=
  l.foldl (fun s b => x.stalls.zipIdx.foldl (fun s n =>
    s.farToSlice (unit256 * s.pt.active.farbase p + b.2 + n.2 * x.blk) (unit256 * n.1 + b.1) x.blk) s) s

def JPitch.release (j : JPitch) (k : Nat) (far : Bool) (l : List Nat) : JPitch := { j with rel := j.rel ++ l.map (fun b => (k, far, b)) }

/-! ## Requests and sessions -/

/-- The tokens of a request: context, inputs, outputs. -/
def JReq.toks (q : JReq) : List W32 := q.cont ++ q.inp ++ q.out

def JPitch.setReq (j : JPitch) (q : JReq) : JPitch := { j with reqs := j.reqs.map (fun x => if x.is q.r q.seq then q else x) }

def JPitch.mapSess (j : JPitch) (f : JSess → JSess) : JPitch := { j with sess := j.sess.map f }

def JPitch.running (j : JPitch) : List JReq := j.reqs.filter (fun q => q.st = 1)
def JPitch.parked (j : JPitch) : List JReq := j.reqs.filter (fun q => q.st = 2)

/-- The member of a list that a number orders first. -/
def least {α : Type} (f : α → Nat) : List α → Option α
  | [] => none
  | a :: l =>
    match least f l with
    | none => some a
    | some b => if f b < f a then some b else some a

/-- A session that no admitted request uses. -/
def JPitch.idle (j : JPitch) (x : JSess) : Bool := !j.reqs.any (fun q => q.session = x.id && q.st ≠ 0)

def JPitch.sessOf (j : JPitch) (id : W32) : Option JSess := if id = 0 then none else j.sess.find? (fun x => x.id = id)

/-- Idle sessions drop their far KV, least recently used first, until `n` far blocks will be free (R297); the blocks wait for a
checkpoint (21 R457). -/
def State.farRoom (s : State) (p k n : Nat) (f : JSess → Bool) : Nat → State
  | 0 => s
  | fuel + 1 =>
    let j := s.jis1 p
    if n ≤ (s.freeFarBlks p { j with rel := [] } (j.slotOf k)).length then s
    else
      match least (fun y => y.used) (j.sess.filter (fun y => j.idle y && y.far && y.blocks ≠ [] && f y)) with
      | none => s
      | some y =>
        (s.updJis p (fun j => (j.mapSess (fun z => if z.id = y.id then { z with far := false, kv := 0, blocks := [] } else z)).release
          y.slot true y.blocks)).farRoom p k n f fuel

/-- A running request parks: its KV goes to far blocks, for which idle sessions give up theirs, or is dropped where the far share lacks
room; its slice blocks wait for a checkpoint (21 R457). A session that shared them keeps its token list only. Where far blocks wait for a
checkpoint the request runs on until then. -/
def State.parkReq (s : State) (p : Nat) (q : JReq) : State :=
  let s := s.farRoom p q.slot q.blocks.length (fun _ => true) ((s.jis1 p).sess.length)
  let j := s.jis1 p
  let x := j.slotOf q.slot
  let l := s.freeFarBlks p j x
  let room := decide (q.blocks.length ≤ l.length)
  if !room ∧ q.blocks.length ≤ (s.freeFarBlks p { j with rel := [] } x).length then s
  else
  let t := s.takeBlks (if room then q.blocks.length else 0) l
  let s := t.1.blocksOut p x (q.blocks.zip t.2)
  s.updJis p (fun j =>
    let j := j.mapSess (fun y => if y.id = q.session && y.slot = q.slot && !y.far then { y with kv := 0, blocks := [] } else y)
    (j.setReq { q with st := 2, kv := if room then q.kv else 0, blocks := t.2 }).release q.slot false q.blocks)

/-- An idle session parks, or its KV is dropped; sessions used less recently drop their far KV first. Where far blocks wait for a checkpoint
it keeps its blocks until then. -/
def State.parkSess (s : State) (p : Nat) (y : JSess) : State :=
  let s := s.farRoom p y.slot y.blocks.length (fun z => decide (z.used < y.used)) ((s.jis1 p).sess.length)
  let j := s.jis1 p
  let x := j.slotOf y.slot
  let l := s.freeFarBlks p j x
  let room := decide (y.blocks.length ≤ l.length)
  if !room ∧ y.blocks.length ≤ (s.freeFarBlks p { j with rel := [] } x).length then s
  else
  let t := s.takeBlks (if room then y.blocks.length else 0) l
  let s := t.1.blocksOut p x (y.blocks.zip t.2)
  s.updJis p (fun j =>
    (j.mapSess (fun z => if z.id = y.id then { z with far := room, kv := if room then z.kv else 0, blocks := t.2 } else z)).release
      y.slot false y.blocks)

/-- The running sequence admitted last, those of the step in progress apart. -/
def JPitch.youngest (j : JPitch) : Option JReq :=
  least (fun q => j.nextAdm - q.adm) (j.running.filter (fun q => !j.run.any (fun x => x.parts.any (fun y => q.is y.r y.seq))))

/-- The next idle session to give up slice blocks to slot x: the least recently used, apart from session `keep`. -/
def JPitch.victim (j : JPitch) (x : JSlot) (keep : W32) : Option JSess :=
  least (fun y => y.used) (j.sess.filter (fun y => j.idle y && y.id ≠ keep && !y.far && y.blocks ≠ [] &&
    (j.slotOf y.slot).stalls.any x.stalls.contains))

/-- Free blocks of slot x once the blocks that wait for a checkpoint are released. -/
def State.freeSoon (s : State) (p : Nat) (x : JSlot) : Nat := (s.freeBlks { s.jis1 p with rel := [] } x).length

/-- Idle sessions give up blocks until `n` will be free. -/
def State.sessRoom (s : State) (p k n : Nat) (keep : W32) : Nat → State
  | 0 => s
  | f + 1 =>
    let x := (s.jis1 p).slotOf k
    if n ≤ s.freeSoon p x then s
    else
      match (s.jis1 p).victim x keep with
      | none => s
      | some y => (s.parkSess p y).sessRoom p k n keep f

/-- Room for `n` more blocks of a running sequence: idle sessions first, then the youngest running sequence, once. -/
def State.kvRoom (s : State) (p k n : Nat) : State :=
  let s := s.sessRoom p k n 0 ((s.jis1 p).sess.length)
  if n ≤ s.freeSoon p ((s.jis1 p).slotOf k) ∨ ((s.jis1 p).victim ((s.jis1 p).slotOf k) 0).isSome then s
  else
    match (s.jis1 p).youngest with
    | none => s
    | some q => s.parkReq p q

/-! ## Inputs -/

/-- The 32-bit words of bytes. -/
def wordsAt (b : List Byte) : List W32 := (elemsOf 4 b).map (BitVec.ofNat 32)

/-- INBUF of an item: KIND and address of its range. -/
def Item.inAt (i : Item) : Nat × Nat :=
  match i.bufs with
  | b :: _ => (b.kind, b.base + i.f 24 8)
  | [] => (1, 0)

/-- A request whose inputs cannot be read ends as FAILED_DATA (03 R83). -/
def State.inputFails (s : State) (i : Item) (a : Nat) : State :=
  ((s.spaceReport i.p 3 5 i.inAt.1 a).updItem i.p i.r i.seq (fun i => i.failAt a)).endItem i.p i.r i.seq 0x10

/-! ## RESUME_PARKED -/

/-- The parked sequence admitted first takes slice blocks again, its far blocks read back; one whose KV was dropped recomputes it by
prefill over its inputs, read again from INBUF, and its outputs. It joins between two steps (log entry 35). -/
def State.resumeParked (s : State) (p : Nat) (hostFail : Option Nat) : State :=
  let j := s.jis1 p
  match least (fun q => q.adm) j.parked with
  | none => s
  | some q =>
    match s.item p q.r q.seq with
    | none => s
    | some i =>
      let x := j.slotOf q.slot
      let l := s.freeBlks j x
      let dropped := q.blocks = []
      let n := if dropped then cdiv q.toks.length 16 else q.blocks.length
      if !s.jisanRuns ∨ j.run.isSome ∨ l.length < n ∨ (dropped ∧ i.inAt.1 = 1 ∧ !s.bme (s.fnOf p)) then s
      else
        match if dropped then hostFailIn i.inAt (4 * q.inp.length) hostFail <|> s.spaceFault p i.inAt.1 i.inAt.2 (4 * q.inp.length) else none with
        | some a => s.inputFails i a
        | none =>
          let t := s.takeBlks n l
          let inp := if dropped then wordsAt (s.spaceRead p i.inAt.1 i.inAt.2 (4 * q.inp.length)) else q.inp
          let s := t.1.spaceTouch p i.inAt.1 i.inAt.2 (if dropped then 4 * q.inp.length else 0) 0 false
          let s := s.blocksIn p x (t.2.zip q.blocks)
          s.updJis p (fun j => (j.setReq { q with st := 1, inp := inp, blocks := t.2 }).release q.slot true q.blocks)

/-- RESUME_PARKED. -/
def execResumeParked (i : InputRead) (st : State) : Ans := run (inPitch i.pitch) (st.resumeParked i.pitch i.hostFail)

end Sys2Proof.Machine
end

