-- ==== Sys2Proof/Machine/Vector.lean ====
section
/-!
DEFINITION. The vector unit (07 R149, R174 to R176): VOP, VFMA, VCVT, VEXP, VRCP, VRSQ, VRED, VSCL and VCMP on the issuing
thread's fragment.
-/
namespace Sys2Proof.Machine

/-- The elements of a row, `w` bits each, lowest first (R149). -/
def rowEls (w : Nat) (r : Row) : List Nat := (List.range (512 / w)).map (fun i => bitsOf r.toNat (w * i) w)

def elsRow (w : Nat) (l : List Nat) : Row := BitVec.ofNat 512 (l.foldr (fun x a => x % 2 ^ w + 2 ^ w * a) 0)

/-- The formats of the vector unit by FMT code: bits, and the floating format where it is one (R158). -/
structure VFmt where
  w : Nat
  fp : Option Fmt
  deriving DecidableEq, Repr

def vfmtCvt (c : Nat) : Option VFmt :=
  match c with
  | 0 => some ⟨8, some .e4m3⟩
  | 1 => some ⟨8, some .e5m2⟩
  | 5 => some ⟨16, some .bf16⟩
  | 6 => some ⟨8, none⟩
  | 7 => some ⟨32, some .fp32⟩
  | 8 => some ⟨32, none⟩
  | _ => none

/-- The formats of every vector operation but VCVT. -/
def vfmt (c : Nat) : Option VFmt := if 5 ≤ c then vfmtCvt c else none

/-- RND as the vector unit takes it: bf16 rounds to nearest even or toward zero; the other formats have no rounding to select
(R174; log entry 16). -/
def vrnd (v : VFmt) (rnd : BitVec 2) : Option Rnd :=
  if rnd = 0 then some .even else if rnd = 1 ∧ v.fp = some .bf16 then some .zero else none

/-- The signed integer of `w` bits. -/
def sint (w v : Nat) : Int := if bitsOf v (w - 1) 1 = 1 then (v : Int) - 2 ^ w else v

/-- An integer reduced to `w` bits. -/
def wrapInt (w : Nat) (v : Int) : Nat := (v % 2 ^ w).toNat

/-- Row by row over the fragment of thread k (R153, R174): the source rows are read, an uncorrectable one raises DATA and leaves
its row of TD unchanged; `g` sees the number of the free value its element 0 may use. -/
def State.vecRow (s : State) (n : Nat) (srcs : List Nat) (td : Nat) (g : Nat → List Row → Row) (r : Nat) : Res :=
  let st := s.stall n
  if srcs.any (fun t => st.rowBad t r) then ⟨s.rowReport n, some (cDATA, 0)⟩
  else
    let v := g s.freeCtr (srcs.map (fun t => st.row t r))
    ⟨{ s with freeCtr := s.freeCtr + 64 }.setRow n td r v, none⟩

def State.vecRun (s : State) (n k : Nat) (srcs : List Nat) (td : Nat) (g : Nat → List Row → Row) : State :=
  let r := seqRes (fun s r => s.vecRow n srcs td g r) s (fragment k)
  match r.exc with
  | some (c, a) => r.s.wideExc n k c (BitVec.ofNat 64 a)
  | none => r.s.retire n k

/-- Element by element: `f free a b d` on the elements of up to three source rows. -/
def rowMap (w : Nat) (f : Nat → Nat → Nat → Nat → Nat) (c : Nat) (l : List Row) : Row :=
  let e := fun j i => bitsOf (l.getD j 0).toNat (w * i) w
  elsRow w ((List.range (512 / w)).map (fun i => f (Config.free (c + i)) (e 0 i) (e 1 i) (e 2 i)))

/-! ## Arithmetic -/

/-- Minimum or maximum of two floating values; between zeros of both signs the spec names none: a free one. -/
def fpMinMax (f : Fmt) (max : Bool) (fr a b : Nat) : Nat :=
  let x := f.dec a
  let y := f.dec b
  if x.isNan || y.isNan then f.nan
  else if x.eq y then (if fr % 2 = 1 then a else b)
  else if x.lt y = max then b else a

/-- One element of VOP: add, sub, mul, min, max, and, or, xor, move. -/
def vopEl (v : VFmt) (rn : Rnd) (sub fr a b : Nat) : Nat :=
  match sub with
  | 5 => Nat.land a b
  | 6 => Nat.lor a b
  | 7 => Nat.xor a b
  | 8 => a
  | _ =>
    match v.fp with
    | some f =>
      match sub with
      | 0 => f.enc rn ((f.dec a).add (f.dec b))
      | 1 => f.enc rn ((f.dec a).add (f.dec b).neg)
      | 2 => f.enc rn ((f.dec a).mul (f.dec b))
      | 3 => fpMinMax f false fr a b
      | _ => fpMinMax f true fr a b
    | none =>
      let x := sint v.w a
      let y := sint v.w b
      match sub with
      | 0 => wrapInt v.w (x + y)
      | 1 => wrapInt v.w (x - y)
      | 2 => wrapInt v.w (x * y)
      | 3 => wrapInt v.w (min x y)
      | _ => wrapInt v.w (max x y)

/-- VOP (R174). -/
def State.vop (s : State) (n k : Nat) (w : WF) : State :=
  s.wideUse n k { w with td := 0, ta := 0, tb := 0, fmt := 0, rnd := 0, sub := 0 } (fun _ =>
    match vfmt w.fmt.toNat with
    | none => s.wideExc n k cILLEGAL 0
    | some v =>
      match vrnd v w.rnd with
      | none => s.wideExc n k cILLEGAL 0
      | some rn =>
        if 8 < w.sub.toNat then s.wideExc n k cILLEGAL 0
        else
          s.vecRun n k (if w.sub = 8 then [w.ta.toNat] else [w.ta.toNat, w.tb.toNat]) w.td.toNat
            (rowMap v.w (fun fr a b _ => vopEl v rn w.sub.toNat fr a b)))

/-- TA × TB + TD with one rounding. -/
def vfmaEl (v : VFmt) (rn : Rnd) (a b d : Nat) : Nat :=
  match v.fp with
  | some f => f.enc rn (((f.dec a).mul (f.dec b)).add (f.dec d))
  | none => wrapInt v.w (sint v.w a * sint v.w b + sint v.w d)

/-- VFMA (R174). -/
def State.vfma (s : State) (n k : Nat) (w : WF) : State :=
  s.wideUse n k { w with td := 0, ta := 0, tb := 0, fmt := 0, rnd := 0 } (fun _ =>
    match vfmt w.fmt.toNat with
    | none => s.wideExc n k cILLEGAL 0
    | some v =>
      match vrnd v w.rnd with
      | none => s.wideExc n k cILLEGAL 0
      | some rn =>
        s.vecRun n k [w.ta.toNat, w.tb.toNat, w.td.toNat] w.td.toNat (rowMap v.w (fun _ a b d => vfmaEl v rn a b d)))

/-! ## Conversion -/

/-- ± m × 2^e rounded to an integer. -/
def roundInt (rn : Rnd) (neg : Bool) (m : Nat) (e : Int) : Int :=
  if 0 ≤ e then sgn neg (m * 2 ^ e.toNat)
  else
    let sh := (-e).toNat
    let q := m / 2 ^ sh
    sgn neg (if rn.up q (m % 2 ^ sh) sh then q + 1 else q)

/-- One element from format `a` to format `b` (R160): a floating value outside an integer format has no stated result: a free
one; integers narrow by wrapping (log entry 17). -/
def cvtEl (a b : VFmt) (rn : Rnd) (fr x : Nat) : Nat :=
  match a.fp, b.fp with
  | some f, some g => g.enc rn (f.dec x)
  | none, some g =>
    let v := sint a.w x
    g.enc rn (.fin (decide (v < 0)) v.natAbs 0)
  | none, none => wrapInt b.w (sint a.w x)
  | some f, none =>
    match f.dec x with
    | .fin n m e =>
      let v := roundInt rn n m e
      if -(2 ^ (b.w - 1)) ≤ v ∧ v < 2 ^ (b.w - 1) then wrapInt b.w v else fr % 2 ^ b.w
    | _ => fr % 2 ^ b.w

/-- A converted row: narrowing fills one part of the TD row, widening reads one part of the TA row (R174). -/
def cvtRow (a b : VFmt) (rn : Rnd) (part c : Nat) (ta td : Row) : Row :=
  let n := 512 / max a.w b.w
  let src := fun i => bitsOf ta.toNat (a.w * ((if a.w < b.w then part * n else 0) + i)) a.w
  let out := fun i => cvtEl a b rn (Config.free (c + i)) (src i)
  if a.w ≤ b.w then elsRow b.w ((List.range n).map out)
  else
    elsRow b.w ((List.range (512 / b.w)).map (fun i =>
      if part * n ≤ i ∧ i < part * n + n then out (i - part * n) else bitsOf td.toNat (b.w * i) b.w))

/-- VCVT (R174, R160): RND 0 or 1. -/
def State.vcvt (s : State) (n k : Nat) (w : WF) : State :=
  s.wideUse n k { w with td := 0, ta := 0, fmt := 0, rnd := 0, sub := 0, imm8 := 0 } (fun _ =>
    match vfmtCvt w.fmt.toNat, vfmtCvt w.sub.toNat with
    | some a, some b =>
      if 2 ≤ w.rnd.toNat ∨ max a.w b.w / min a.w b.w ≤ w.imm8.toNat then s.wideExc n k cILLEGAL 0
      else
        let rn := if w.rnd = 0 then Rnd.even else Rnd.zero
        s.vecRun n k (if b.w < a.w then [w.ta.toNat, w.td.toNat] else [w.ta.toNat]) w.td.toNat
          (fun c l => cvtRow a b rn w.imm8.toNat c (l.getD 0 0) (l.getD 1 0))
    | _, _ => s.wideExc n k cILLEGAL 0)

/-! ## Exponential, reciprocal, reciprocal square root (R175) -/

/-- A magnitude within `u` units in the last place of a positive value, a free one of those; beyond range +infinity or +0. -/
def nearVal (f : Fmt) (x : Fix) (u fr : Nat) : Nat :=
  if (f.bias : Int) < x.lead then f.enc .even (.inf false)
  else if x.lead < -(f.bias : Int) - f.mb then 0
  else
    let l := x.within f u
    l.getD (fr % l.length) 0

/-- Units in the last place allowed: VEXP 2 in fp32, else 1. -/
def ulps (f : Fmt) (exp : Bool) : Nat := if exp ∧ f = .fp32 then 2 else 1

/-- e^x or 2^x. -/
def vexpEl (f : Fmt) (two : Bool) (fr a : Nat) : Nat :=
  match f.dec a with
  | .nan => f.nan
  | .inf n => if n then 0 else f.enc .even (.inf false)
  | .fin n m e =>
    if m ≠ 0 ∧ 10 ≤ (Nat.log2 m : Int) + e then (if n then 0 else f.enc .even (.inf false))
    else nearVal f (if two then exp2Val n m e else expVal n m e) (ulps f true) fr

/-- 1 / x. -/
def vrcpEl (f : Fmt) (fr a : Nat) : Nat :=
  match f.dec a with
  | .nan => f.nan
  | .inf n => signBits f n
  | .fin n m e => if m = 0 then f.enc .even (.inf n) else signBits f n + nearVal f (rcpVal m e) (ulps f false) fr

/-- 1 / sqrt x: of −0 the spec states nothing: a free value. -/
def vrsqEl (f : Fmt) (fr a : Nat) : Nat :=
  match f.dec a with
  | .nan => f.nan
  | .inf n => if n then f.nan else 0
  | .fin n m e =>
    if m = 0 then (if n then fr % 2 ^ f.bits else f.enc .even (.inf false))
    else if n then f.nan
    else nearVal f (rsqVal m e) (ulps f false) fr

/-- An operation on one floating source. -/
def State.vfun (s : State) (n k : Nat) (w rest : WF) (bad : Bool) (f : Fmt → Nat → Nat → Nat) : State :=
  s.wideUse n k rest (fun _ =>
    match vfmt w.fmt.toNat with
    | some ⟨b, some fp⟩ =>
      if bad || (vrnd ⟨b, some fp⟩ w.rnd).isNone then s.wideExc n k cILLEGAL 0
      else s.vecRun n k [w.ta.toNat] w.td.toNat (rowMap b (fun fr a _ _ => f fp fr a))
    | _ => s.wideExc n k cILLEGAL 0)

/-! ## Reduction, scaling, comparison -/

/-- Sum of a row's elements in ascending order: bf16 accumulates in fp32 and rounds once at the end (R174; log entry 16). -/
def vredSum (v : VFmt) (rn : Rnd) (l : List Nat) : Nat :=
  match v.fp with
  | some f =>
    let add := fun (a b : W32) => add32 a b
    let up := fun x => BitVec.ofNat 32 (Fmt.fp32.enc .even (f.dec x))
    let t := (l.drop 1).foldl (fun a x => add a (up x)) (up (l.getD 0 0))
    f.enc rn (Fmt.fp32.dec t.toNat)
  | none => l.foldl (fun a x => (a + x) % 2 ^ v.w) 0

def vredRow (v : VFmt) (rn : Rnd) (sub c : Nat) (r : Row) : Row :=
  let l := rowEls v.w r
  let x := if sub = 0 then vredSum v rn l
    else (l.drop 1).zipIdx.foldl (fun a e => vopEl v rn (if sub = 1 then 4 else 3) (Config.free (c + e.2)) a e.1) (l.getD 0 0)
  BitVec.ofNat 512 (x % 2 ^ v.w)

/-- VRED (R174). -/
def State.vred (s : State) (n k : Nat) (w : WF) : State :=
  s.wideUse n k { w with td := 0, ta := 0, fmt := 0, rnd := 0, sub := 0 } (fun _ =>
    match vfmt w.fmt.toNat with
    | none => s.wideExc n k cILLEGAL 0
    | some v =>
      match vrnd v w.rnd with
      | none => s.wideExc n k cILLEGAL 0
      | some rn =>
        if 2 < w.sub.toNat then s.wideExc n k cILLEGAL 0
        else s.vecRun n k [w.ta.toNat] w.td.toNat (fun c l => vredRow v rn w.sub.toNat c (l.getD 0 0)))

/-- TA × c: c is fp32 for the floating formats and int32 for the integer ones. -/
def vsclEl (v : VFmt) (rn : Rnd) (c a : Nat) : Nat :=
  match v.fp with
  | some f => f.enc rn ((f.dec a).mul (Fmt.fp32.dec c))
  | none => wrapInt v.w (sint v.w a * sint 32 c)

/-- VSCL (R174). -/
def State.vscl (s : State) (n k : Nat) (w : WF) : State :=
  s.wideUse n k { w with td := 0, ta := 0, ga := 0, fmt := 0, rnd := 0 } (fun t =>
    match vfmt w.fmt.toNat with
    | none => s.wideExc n k cILLEGAL 0
    | some v =>
      match vrnd v w.rnd with
      | none => s.wideExc n k cILLEGAL 0
      | some rn =>
        let c := fld (t.gr w.ga.toNat) 0 32
        s.vecRun n k [w.ta.toNat] w.td.toNat (rowMap v.w (fun _ a _ _ => vsclEl v rn c a)))

/-- All ones where the comparison holds, else 0. -/
def vcmpEl (v : VFmt) (c a b : Nat) : Nat :=
  let holds := match v.fp with
    | some f => cmpFp c (f.dec a) (f.dec b)
    | none => cmpInt c (sint v.w a) (sint v.w b)
  if holds then 2 ^ v.w - 1 else 0

/-- VCMP (R174; CMP of 02 R34). -/
def State.vcmp (s : State) (n k : Nat) (w : WF) : State :=
  s.wideUse n k { w with td := 0, ta := 0, tb := 0, fmt := 0, sub := 0 } (fun _ =>
    match vfmt w.fmt.toNat with
    | none => s.wideExc n k cILLEGAL 0
    | some v =>
      if 5 < w.sub.toNat then s.wideExc n k cILLEGAL 0
      else s.vecRun n k [w.ta.toNat, w.tb.toNat] w.td.toNat (rowMap v.w (fun _ a b _ => vcmpEl v w.sub.toNat a b)))

/-- VOP. -/
def execVop (s k : Nat) (w : WF) (st : State) : Ans :=
  run (inStall s && inThread k) (st.traced s k 0x40 w (fun s' => s'.vop s k w))

/-- VFMA. -/
def execVfma (s k : Nat) (w : WF) (st : State) : Ans :=
  run (inStall s && inThread k) (st.traced s k 0x41 w (fun s' => s'.vfma s k w))

/-- VCVT. -/
def execVcvt (s k : Nat) (w : WF) (st : State) : Ans :=
  run (inStall s && inThread k) (st.traced s k 0x42 w (fun s' => s'.vcvt s k w))

/-- VEXP: e^x with SUB 0, 2^x with SUB 1 (R174, R175). -/
def execVexp (s k : Nat) (w : WF) (st : State) : Ans :=
  run (inStall s && inThread k) (st.traced s k 0x43 w (fun s' =>
    s'.vfun s k w { w with td := 0, ta := 0, fmt := 0, rnd := 0, sub := 0 } (decide (1 < w.sub.toNat)) (fun f fr a => vexpEl f (w.sub = 1) fr a)))

/-- VRCP (R174, R175). -/
def execVrcp (s k : Nat) (w : WF) (st : State) : Ans :=
  run (inStall s && inThread k) (st.traced s k 0x44 w (fun s' =>
    s'.vfun s k w { w with td := 0, ta := 0, fmt := 0, rnd := 0 } false vrcpEl))

/-- VRSQ (R174, R175). -/
def execVrsq (s k : Nat) (w : WF) (st : State) : Ans :=
  run (inStall s && inThread k) (st.traced s k 0x45 w (fun s' =>
    s'.vfun s k w { w with td := 0, ta := 0, fmt := 0, rnd := 0 } false vrsqEl))

/-- VRED. -/
def execVred (s k : Nat) (w : WF) (st : State) : Ans :=
  run (inStall s && inThread k) (st.traced s k 0x46 w (fun s' => s'.vred s k w))

/-- VSCL. -/
def execVscl (s k : Nat) (w : WF) (st : State) : Ans :=
  run (inStall s && inThread k) (st.traced s k 0x47 w (fun s' => s'.vscl s k w))

/-- VCMP. -/
def execVcmp (s k : Nat) (w : WF) (st : State) : Ans :=
  run (inStall s && inThread k) (st.traced s k 0x48 w (fun s' => s'.vcmp s k w))

end Sys2Proof.Machine
end

