-- ==== Sys2Proof/Machine/Sampling.lean ====
section
/-!
DEFINITION. Jisan's sampling rule and its generator (13 R294, R295).
-/
namespace Sys2Proof.Machine

/-- rand(SEED, n) × 2^53 (R295). -/
def jrand (seed : Word) (n : Nat) : Nat :=
  let z := seed + BitVec.ofNat 64 (n + 1) * 0x9E3779B97F4A7C15
  let z := (z ^^^ (z >>> 30)) * 0xBF58476D1CE4E5B9
  let z := (z ^^^ (z >>> 27)) * 0x94D049BB133111EB
  ((z ^^^ (z >>> 31)) >>> 11).toNat

def fp32Dec (v : Nat) : FV := Fmt.fp32.dec v

/-- An fp32 quotient by a finite positive divisor, rounded to nearest even: 80 quotient bits with what is left as a sticky bit. -/
def div32 (a b : Nat) : Nat :=
  match fp32Dec a, fp32Dec b with
  | .fin n m e, .fin _ k d =>
    let q := m * 2 ^ 80 / k
    Fmt.fp32.enc .even (.fin n (2 * q + ofBool (q * k ≠ m * 2 ^ 80)) (e - d - 81))
  | .inf n, .fin _ _ _ => Fmt.fp32.enc .even (.inf n)
  | _, _ => Fmt.fp32.nan

/-- A logit as sampling sees it: NaN counts as −infinity. -/
def logitOf (v : Nat) : Nat := if (fp32Dec v).isNan then 0xFF800000 else v

def finite32 (v : Nat) : Bool :=
  match fp32Dec v with
  | .fin .. => true
  | _ => false

/-- The lowest identifier of the largest value, from a list of (identifier, value). -/
def argmax : List (Nat × Nat) → Option (Nat × Nat)
  | [] => none
  | a :: l =>
    match argmax l with
    | none => some a
    | some b => if (fp32Dec a.2).lt (fp32Dec b.2) then some b else some a

/-- Put an identifier in its place by descending value, after equal values of lower identifiers. -/
def insertDesc (a : Nat × Nat) : List (Nat × Nat) → List (Nat × Nat)
  | [] => [a]
  | b :: l => if (fp32Dec a.2).lt (fp32Dec b.2) then b :: insertDesc a l else a :: b :: l

def sortDesc (l : List (Nat × Nat)) : List (Nat × Nat) := l.foldr insertDesc []

/-- x − y in fp32. -/
def sub32 (x y : Nat) : Nat := Fmt.fp32.enc .even ((fp32Dec x).add (fp32Dec y).neg)

/-- The running sums s[j] of VEXP(x[j] − m), each with its identifier. -/
def expSums (m : Nat) : Nat → List (Nat × Nat) → List (Nat × Nat)
  | _, [] => []
  | s, (i, x) :: l =>
    let d := sub32 x m
    let t := (add32 (BitVec.ofNat 32 s) (BitVec.ofNat 32 (vexpEl .fp32 false (Config.vexp d) d))).toNat
    (i, t) :: expSums m t l

/-- The list up to the first element a predicate takes; all of it where it takes none. -/
def upTo {α : Type} (f : α → Bool) : List α → List α
  | [] => []
  | a :: l => if f a then [a] else a :: upTo f l

def lastSum (l : List (Nat × Nat)) : FV := fp32Dec ((l.getLast?.map (fun x => x.2)).getD 0)

/-- What sampling finds: no finite logit, a token, or a case to which the rule gives none. -/
inductive Pick where
  | bad
  | tok (t : Nat)
  | open_
  deriving DecidableEq, Repr

/-- sample(z, n) with the parameters of the block and the generator's seed. -/
def pickToken (z : List Nat) (temp topp topk : Nat) (seed : Word) (n : Nat) : Pick :=
  let z := (z.map logitOf).zipIdx.map (fun x => (x.2, x.1))
  if !z.any (fun x => finite32 x.2) then .bad
  else if temp % 2 ^ 31 = 0 then
    match argmax z with
    | some x => .tok x.1
    | none => .bad
  else
    let x := sortDesc (z.map (fun x => (x.1, div32 x.2 temp)))
    let x := if topk = 0 then x else x.take topk
    let s := expSums ((x.head?.map (fun y => y.2)).getD 0) 0 x
    let cut := (fp32Dec topp).mul (lastSum s)
    let s := upTo (fun y => !(fp32Dec y.2).lt cut && !(fp32Dec y.2).isNan && !cut.isNan) s
    let u := (FV.fin false (jrand seed n) (-53)).mul (lastSum s)
    match s.find? (fun y => u.lt (fp32Dec y.2)) with
    | some y => .tok y.1
    | none => .open_

end Sys2Proof.Machine
end

