-- ==== Sys2Proof/Machine/Jisan.lean ====
section
/-!
DEFINITION. Jisan: requests, admission, steps, sampling and ends (13 R286 to R301).
-/
namespace Sys2Proof.Machine

/-! ## JISAN_REQUEST: the checks (R286, R287) -/

def Item.model (i : Item) : Nat := i.f 16 2
def Item.incount (i : Item) : Nat := i.f 40 4
def Item.maxnew (i : Item) : Nat := i.f 44 4
def Item.session (i : Item) : W32 := BitVec.ofNat 32 (i.f 56 4)

/-- FLAGS of a parameter block. -/
def parStream (b : List Byte) : Bool := bitsOf (leAt b 12 4) 0 1 = 1
def parContinue (b : List Byte) : Bool := bitsOf (leAt b 12 4) 1 1 = 1

/-- The legal values of a parameter block (R287), with those that depend on a vocabulary where there is one. −0 is a TEMP of 0. -/
def parOk (b : List Byte) (vocab : Option Nat) : Bool :=
  let temp := leAt b 0 4
  let topp := fp32Dec (leAt b 4 4)
  (temp % 2 ^ 31 = 0 || (finite32 temp && decide (temp < 2 ^ 31))) &&
    (FV.fin false 0 0).lt topp && !((FV.fin false 1 0).lt topp) && finite32 (leAt b 4 4) &&
    vocab.all (fun v => decide (leAt b 8 4 ≤ v)) && decide (leAt b 12 4 < 4) && leAt b 28 4 = 0 && aligned (leAt b 32 8) 8 &&
    ((b.drop 40).take 24).all (fun x => x = 0) &&
    (List.range 8).all (fun k => leAt b (64 + 4 * k) 4 = 0xFFFFFFFF || vocab.all (fun v => decide (leAt b (64 + 4 * k) 4 < v)))

/-- The buffer entries that a request names: as they are read once, or the copy of checks made before (R55). -/
def State.reqBufs (s : State) (i : Item) (rdFail : Bool) (names : List (Nat × Bool)) : Except Nat (List Buf) :=
  if i.checked then .ok i.bufs else s.readBufs i.p rdFail names

/-- The parameter block as far as it can be read: the copy of checks made before, the default block of a loaded slot, or 96 bytes at
PAROFF. -/
def State.readPar (s : State) (i : Item) (x : JSlot) (rdFail : Bool) : Option (List Byte) :=
  if i.checked then some i.par
  else if i.f 22 2 = 0xFFFF then (if x.st = 2 ∨ x.st = 3 then some x.defpar else none)
  else
    match s.readBufs i.p rdFail [(i.f 22 2, false)] with
    | .ok [b] =>
      let a := b.base + i.f 48 8
      if s.bufFits i.p b (i.f 48 8) 96 ∧ (s.spaceFault i.p b.kind a 96).isNone then some (s.spaceRead i.p b.kind a 96) else none
    | _ => none

/-- The context a request continues: its session's tokens (R297). -/
def JPitch.contOf (j : JPitch) (par : List Byte) (id : W32) : List W32 :=
  if parContinue par then ((j.sessOf id).map (fun x => x.toks)).getD [] else []

/-- The checks of a JISAN_REQUEST; a pass gives the buffers INBUF, OUTBUF, PARBUF, STREAMBUF and the block. A failed host read of the
block fails check 3 (03 R83). -/
def State.jisanCheck (s : State) (i : Item) (rdFail : Bool) : Chk (List Buf × List Byte) :=
  let j := s.jis1 i.p
  let x := j.slotOf i.model
  let par := s.readPar i x rdFail
  let b := par.getD (zeros 96)
  let own := i.f 22 2 ≠ 0xFFFF
  let strm := parStream b
  let names := [(i.f 18 2, false), (i.f 20 2, true)] ++ (if own then [(i.f 22 2, false)] else []) ++ (if strm then [(leAt b 24 2, true)] else [])
  match s.check12 i with
  | some e => .stop e 0
  | none =>
    if !i.zero 60 4 ∨ 16 ≤ i.model ∨ (par.isSome ∧ !parOk b (if x.st = 2 ∨ x.st = 3 then some x.vocab else none)) then .stop 0x20 0
    else if !s.typeAllowed i.p 6 ∨ !(x.st = 2 ∨ x.st = 3) then .stop 0x22 0
    else
      match s.reqBufs i rdFail names with
      | .error e => .stop 0x22 e
      | .ok l =>
        let inb := l.getD 0 ⟨0, 0, 0, 0, false, false⟩
        let outb := l.getD 1 ⟨0, 0, 0, 0, false, false⟩
        let parb := l.getD 2 ⟨0, 0, 0, 0, false, false⟩
        let strb := l.getLastD ⟨0, 0, 0, 0, false, false⟩
        let ranges := [(inb, i.f 24 8, 4 * i.incount), (outb, i.f 32 8, 4 * i.maxnew)] ++
          (if own then [(parb, i.f 48 8, 96)] else []) ++ (if strm then [(strb, leAt b 32 8, 8)] else [])
        let fault := if own ∧ !i.checked then s.spaceFault i.p parb.kind (parb.base + i.f 48 8) 96 else none
        if fault.isSome ∧ parb.kind = 1 then .stop 0x22 1
        else if parContinue b ∧ j.contOf b i.session = [] then .stop 0x22 0
        else if i.incount = 0 ∨ i.maxnew = 0 then .stop 0 0
        else if ranges.any (fun r => !s.bufFits i.p r.1 r.2.1 r.2.2) ∨ x.ctxmax ≤ i.incount + (j.contOf b i.session).length then .stop 0x21 0
        else if x.st = 3 ∨ ranges.any (fun r => (s.bufStalls i.p r.1 r.2.1 r.2.2).any s.stallGone) then .stop 0x11 0
        else .pass (l, b)

/-- A JISAN_REQUEST whose turn for the checks has come: every earlier descriptor of its ring has started, or is a request that Jisan
has queued. -/
def State.readyJis (s : State) (p r : Nat) (seq : W32) : Option Item :=
  match s.item p r seq with
  | none => none
  | some i =>
    let before := (s.ringItems p r).filter (fun j => j.fno < i.fno)
    if i.type = 6 && i.start.isNone && i.stat = 0 && ((s.jis1 p).req r seq).isNone &&
        before.all (fun j => (j.start.isSome && j.type ≠ 5) || (j.type = 6 && ((s.jis1 p).req r j.seq).isSome)) && (!i.order || before = []) then
      some i
    else none

/-- A request joins the queue of its pitch. -/
def State.queueReq (s : State) (i : Item) (l : List Buf) (par : List Byte) : State :=
  let outb := l.getD 1 ⟨0, 0, 0, 0, false, false⟩
  let strb := l.getLastD ⟨0, 0, 0, 0, false, false⟩
  let q : JReq := {
    r := i.r, seq := i.seq, fno := i.fno, slot := i.model, session := i.session, par := par, outb := (outb.kind, outb.base + i.f 32 8),
    strm := (strb.kind, strb.base + leAt par 32 8), inp := [], maxnew := i.maxnew }
  (s.updItem i.p i.r i.seq (fun i => { i with checked := true, bufs := l, par := par })).updJis i.p (fun j => { j with reqs := j.reqs ++ [q] })

/-- A request that passed its checks: one whose block in device memory cannot be read fails (12 R264), the others are queued. -/
def State.passReq (s : State) (i : Item) (l : List Buf) (par : List Byte) : State :=
  let b := l.getD 2 ⟨0, 0, 0, 0, false, false⟩
  match if i.f 22 2 = 0xFFFF ∨ i.checked then none else s.spaceFault i.p b.kind (b.base + i.f 48 8) 96 with
  | some a => ((s.spaceReport i.p 3 5 b.kind a).updItem i.p i.r i.seq (fun i => i.failAt a)).finish i.p i.r i.seq
  | none => s.queueReq i l par

/-- JISAN_REQUEST: its checks, once its turn has come and host memory may be read (03 R83); it then waits for ADMISSION. -/
def execJisanRequest (p r : Nat) (seq : W32) (rdFail : Bool) (st : State) : Ans :=
  run (inPitch p && inRing r) (match st.readyJis p r seq with
    | none => st
    | some i => if !st.bme (st.fnOf p) then st else st.checked i (st.jisanCheck i rdFail) (fun x => st.passReq i x.1 x.2))

/-! ## ADMISSION (R289, R297) -/

/-- Room for the session of a request: true at once, the least recently used idle session dropped, or none. -/
def JPitch.sessSlot (j : JPitch) (id : W32) : Option JPitch :=
  let fresh := ((j.reqs.filter (fun q => q.st ≠ 0 && q.session ≠ 0 && (j.sessOf q.session).isNone)).map (fun q => q.session)).eraseDups
  if id = 0 ∨ (j.sessOf id).isSome ∨ j.sess.length + fresh.length < 1024 then some j
  else
    match least (fun y => y.used) (j.sess.filter j.idle) with
    | none => none
    | some y => some ({ j with sess := j.sess.filter (fun z => z.id ≠ y.id) }.release y.slot y.far y.blocks)

/-- KV that a continuing request takes over from its session: tokens, blocks and whether they are far ones. -/
def JPitch.inherit (j : JPitch) (q : JReq) : Nat × List Nat × Bool :=
  match j.sessOf q.session with
  | some y => if parContinue q.par ∧ y.slot = q.slot then (y.kv, y.blocks, y.far) else (0, [], false)
  | none => (0, [], false)

/-- A waiting request that fails a check made again. -/
def State.endWaiting (s : State) (i : Item) (st : Nat) : State := (s.jDrop i.p i.r i.seq).reject i.p i.r i.seq st 0

/-- The waiting request fetched earliest is admitted: it starts, its intent is journaled, it takes its KV blocks and reads its inputs;
`hostFail` names a granule of host memory that the host fails to read (03 R83). A session's context may have changed since the checks, which are then made again on it (log entry 35). -/
def State.admitRequest (s : State) (p : Nat) (q : JReq) (i : Item) (hostFail : Option Nat) : State :=
  let j := s.jis1 p
  let x := j.slotOf q.slot
  let cont := j.contOf q.par q.session
  let h := j.inherit q
  let have_ := if h.2.2 then 0 else h.2.1.length
  let need := cdiv (cont.length + i.incount + 1) 16 - have_
  if parContinue q.par ∧ cont = [] then s.endWaiting i 0x22
  else if x.ctxmax ≤ cont.length + i.incount then s.endWaiting i 0x21
  else
    match j.sessSlot q.session with
    | none => s
    | some j' =>
      if (s.freeBlks j' x).length < need then s.sessRoom p q.slot need q.session j.sess.length
      else
        let t := (s.updJis p (fun _ => j')).takeBlks need (s.freeBlks j' x)
        let s := if h.2.2 then t.1.blocksIn p x (t.2.zip h.2.1) else t.1
        let s := if h.2.2 then s.updJis p (fun j => (j.mapSess (fun y =>
            if y.id = q.session then { y with far := false, blocks := t.2.take h.2.1.length } else y)).release q.slot true h.2.1) else s
        let seed := leAt q.par 16 8
        let inp := wordsAt (s.spaceRead p i.inAt.1 i.inAt.2 (4 * i.incount))
        let q' : JReq := { q with
          st := 1, adm := j.nextAdm, cont := cont, inp := inp, kv := h.1, blocks := (if h.2.2 then [] else h.2.1) ++ t.2,
          seed := if seed = 0 then s.freeWord else BitVec.ofNat 64 seed }
        let s := if seed = 0 then s.used else s
        let s := (s.updJis p (fun j => { j.setReq q' with nextAdm := j.nextAdm + 1 })).startItem i
        let s := (s.toStage p q.r q.seq .intent).toStage p q.r q.seq .dispatched
        let s := s.spaceTouch p i.inAt.1 i.inAt.2 (4 * i.incount) 0 false
        match (hostFailIn i.inAt (4 * i.incount) hostFail) <|> s.spaceFault p i.inAt.1 i.inAt.2 (4 * i.incount) with
        | some a => s.inputFails i a
        | none => s

/-- The conditions of R289 but for the blocks; a pitch that quiesces admits none (04 R94). -/
def State.admission (s : State) (p : Nat) (hostFail : Option Nat) : State :=
  let j := s.jis1 p
  match least (fun q => q.fno) (j.reqs.filter (fun q => q.st = 0)) with
  | none => s
  | some q =>
    match s.item p q.r q.seq with
    | none => s
    | some i =>
      if s.jisanRuns ∧ !(s.pctl p).quiesce ∧ (j.slotOf q.slot).st = 2 ∧ j.running.length < s.batchMax p ∧ j.parked = [] ∧
          (q.session = 0 ∨ !j.running.any (fun y => y.session = q.session)) ∧ (i.inAt.1 ≠ 1 ∨ s.bme (s.fnOf p)) then s.admitRequest p q i hostFail
      else s

/-- ADMISSION. -/
def execAdmission (i : InputRead) (st : State) : Ans := run (inPitch i.pitch) (st.admission i.pitch i.hostFail)

/-! ## STEP (R290, R291) -/

def align8 (n : Nat) : Nat := cdiv n 8 * 8

/-- A sequence of the step being formed: its request, NNEW, whether its logits are wanted. -/
structure JSeq where
  q : JReq
  nnew : Nat
  logits : Bool

/-- Bytes of the step area that a sequence takes beside its 32-byte entry: token IDs and block list. -/
def seqBytes (nnew blocks : Nat) : Nat := align8 (4 * nnew) + 8 * blocks

/-- The step being formed: the state, the bytes its sequences take with their entries, the sequences. -/
structure JForm where
  s : State
  size : Nat
  seqs : List JSeq

/-- A sequence in prefill: it has no output yet, or more than one token to compute. -/
def JReq.prefill (q : JReq) : Bool := q.out = [] || decide (1 < q.toks.length - q.kv)

/-- The tokens a sequence adds: as many of `want` as fit, shortened by multiples of 16 in prefill (R291); 0: left out. -/
def fitTokens (room kv blocks want : Nat) (prefill : Bool) : Nat :=
  let ok := fun n => decide (32 + seqBytes n (max blocks (cdiv (kv + n) 16)) ≤ room)
  if ok want then want
  else if !prefill then 0
  else (((List.range (cdiv want 16)).reverse.map (fun i => 16 * i)).find? (fun n => n ≠ 0 && ok n)).getD 0

/-- Place one running sequence, oldest first; of those in prefill only the one of the pitch admitted first (R290). Where its KV blocks are short, room is made and it waits for a later step. -/
def JForm.place (f : JForm) (p k chunk : Nat) (q0 : JReq) : JForm :=
  match ((f.s.jis1 p).req q0.r q0.seq) with
  | none => f
  | some q =>
    let x := (f.s.jis1 p).slotOf k
    let rest := q.toks.length - q.kv
    let prefill := q.prefill
    let wait := prefill && (f.s.jis1 p).running.any (fun y => y.prefill && decide (y.adm < q.adm))
    let n := fitTokens (x.logitoff - x.stepoff - f.size) q.kv q.blocks.length (if prefill then min rest chunk else rest) prefill
    let more := cdiv (q.kv + n) 16 - q.blocks.length
    let l := f.s.freeBlks (f.s.jis1 p) x
    if q.st ≠ 1 ∨ n = 0 ∨ wait ∨ 256 ≤ f.seqs.length then f
    else if l.length < more then { f with s := f.s.kvRoom p k more }
    else
      let t := f.s.takeBlks more l
      let q := { q with blocks := q.blocks ++ t.2 }
      { s := t.1.updJis p (fun j => j.setReq q), size := f.size + 32 + seqBytes n q.blocks.length,
        seqs := f.seqs ++ [⟨q, n, decide (q.kv + n = q.toks.length)⟩] }

/-- The order of a list by a number. -/
def insertBy {α : Type} (f : α → Nat) (a : α) : List α → List α
  | [] => [a]
  | b :: l => if f b < f a then b :: insertBy f a l else a :: b :: l

def sortBy {α : Type} (f : α → Nat) (l : List α) : List α := l.foldr (insertBy f) []

/-- Offsets of each sequence's token IDs and block list. -/
def seqOffsets : Nat → List JSeq → List (JSeq × Nat × Nat)
  | _, [] => []
  | o, x :: l =>
    let b := o + align8 (4 * x.nnew)
    (x, o, b) :: seqOffsets (b + 8 * x.q.blocks.length) l

/-- The step block (R290, R291). -/
def stepBlock (l : List JSeq) (step : Word) : List Byte :=
  let o := seqOffsets (64 + 32 * l.length) l
  toLE 4 l.length ++ toLE 4 ((l.map (fun x => x.nnew)).foldl (· + ·) 0) ++ toLE 8 step.toNat ++ zeros 48 ++
    o.flatMap (fun x => toLE 4 x.1.q.kv ++ toLE 4 x.1.nnew ++ toLE 4 x.2.1 ++ toLE 4 x.2.2 ++ toLE 4 (ofBool x.1.logits) ++ zeros 12) ++
    o.flatMap (fun x =>
      let ids := ((x.1.q.toks.drop x.1.q.kv).take x.1.nnew).flatMap (fun t => toLE 4 t.toNat)
      ids ++ zeros (align8 ids.length - ids.length) ++ x.1.q.blocks.flatMap (toLE 8))

/-- Jisan forms a step of slot k, writes the step block into every step area and starts the STEP kernel on every logical stall. -/
def State.stepStart (s : State) (p k : Nat) : State :=
  let j := s.jis1 p
  let x := j.slotOf k
  if !s.jisanRuns ∨ x.st ≠ 2 ∨ j.run.isSome ∨ j.mig.any (fun y => y.1 = k) ∨ !x.stalls.all s.stallReady then s
  else
    let old := sortBy (fun q => q.adm) (j.running.filter (fun q => q.slot = k))
    let f : JForm := old.foldl (fun (f : JForm) q => f.place p k (s.chunkMax p) q) (⟨s, 64, []⟩ : JForm)
    if f.seqs = [] then f.s
    else
      let w : JWr := x.stalls.foldl (fun (w : JWr) n => w.slice (unit256 * n + x.stepoff) (stepBlock f.seqs x.step)) (⟨f.s, false⟩ : JWr)
      let args := fun i => [BitVec.ofNat 64 x.stepoff, BitVec.ofNat 64 i, BitVec.ofNat 64 x.stalls.length, x.step]
      let s := x.stalls.zipIdx.foldl (fun s n => s.kernelStall n.1 (.jisan p) x.tmask (BitVec.ofNat 64 x.code) (args n.2)) w.s
      let parts := f.seqs.map (fun y => (⟨y.q.r, y.q.seq, y.nnew, y.logits⟩ : JPart))
      { s with jfail := Tab.del s.jfail p }.updJis p (fun j => { j with
        cfg := s.rw32 (jisBase p), slot := Tab.set j.slot k { x with step := x.step + 1 },
        run := some { slot := k, start := s.time, parts := parts, bad := w.bad } })

/-- STEP. -/
def execJisanStep (p slot : Nat) (st : State) : Ans := run (inPitch p && inGroup slot) (st.stepStart p slot)

/-! ## The end of a step (R294, R296, R297, R299, R300) -/

/-- Every logical stall of the step has executed KEND. -/
def State.stepOver (s : State) (x : JSlot) : Bool := x.stalls.all (s.allKended x.tmask)

/-- A stall of the step that a RETIRECMD waits for retires (18 R404). -/
def State.stepRetire (s : State) (x : JSlot) : State :=
  let l := s.svc.retire.filter x.stalls.contains
  let s := { s with svc := { s.svc with retire := s.svc.retire.filter (fun n => !x.stalls.contains n) } }
  l.foldl (fun s n => s.retireStall n 11) s

/-- The step leaves its stalls: they reach their work-item boundary. -/
def State.stepLeaves (s : State) (p : Nat) : State :=
  let s := (s.stallsAt (.jisan p)).foldl State.boundary s
  { s with jfail := Tab.del s.jfail p }.updJis p (fun j => { j with run := none })

/-- Every request of the step ends with a status. -/
def State.stepReqsEnd (s : State) (p : Nat) (l : List JPart) (st : Nat) : State :=
  l.foldl (fun s y => s.endItem p y.r y.seq st) s

/-- A step fails (R300): its stalls halt, JSTEPERR records it, the event vector is raised, its requests end. -/
def State.stepFails (s : State) (p : Nat) (r : JRun) (cause stall : Nat) (limit : Bool) (st : Nat) : State :=
  let x := (s.jis1 p).slotOf r.slot
  let s := ((s.haltWork (.jisan p)).stepLeaves p).updJis p (fun j => { j with
    err := BitVec.ofNat 32 (cause + stall * 2 ^ 8 + r.slot * 2 ^ 16 + ofBool limit * 2 ^ 20), fails := j.fails + 1 })
  ((s.raiseEvent p).stepReqsEnd p r.parts st).stepRetire x

/-- The logits of sequence i of a step: stall address and bytes (R290). -/
def JSlot.logitAt (x : JSlot) (i : Nat) : Nat × Nat :=
  let n := max x.stalls.length 1
  (unit256 * x.stalls.getD (i % n) 0 + x.logitoff + i / n * x.vocab * 4, 4 * x.vocab)

/-- JTOKENS counts a token (20 R431). -/
def State.countToken (s : State) (p : Nat) : State :=
  let t := (s.jis1 p).tokens
  let s := s.updJis p (fun j => { j with tokens := t + 1 })
  if wraps48 t 1 then { s with obs := { s.obs with cntovfg := s.obs.cntovfg ||| (1 <<< (8 + p)) } }.raiseEvent p else s

/-- The stop reason after a token, if the request ends now (R296). -/
def JReq.stops (q : JReq) (x : JSlot) (tok : Nat) : Option Nat :=
  if (List.range 8).any (fun k => leAt q.par (64 + 4 * k) 4 = tok && tok ≠ 0xFFFFFFFF) then some 1
  else if q.maxnew ≤ q.out.length then some 0
  else if x.ctxmax ≤ q.toks.length then some 2
  else none

/-- The session a successful request leaves: its tokens and the blocks of its KV. -/
def JPitch.leaveSession (j : JPitch) (q : JReq) : JPitch :=
  if q.session = 0 then j
  else
    let keep := q.blocks.take (cdiv q.kv 16)
    let old := match j.sessOf q.session with
      | some y => y.blocks.filter (fun b => !(y.slot = q.slot && !y.far && q.blocks.contains b))
      | none => []
    let slot := ((j.sessOf q.session).map (fun y => (y.slot, y.far))).getD (q.slot, false)
    let y : JSess := { id := q.session, toks := q.toks, slot := q.slot, kv := q.kv, blocks := keep, far := false, used := j.nextAdm }
    let l : List JSess := j.sess.filter (fun z => z.id ≠ q.session) ++ [y]
    { j with sess := l, nextAdm := j.nextAdm + 1 }.release slot.1 slot.2 old

/-- A request ends by itself with a stop reason: last progress word, session, record. -/
def State.jisanDone (s : State) (p : Nat) (q : JReq) (reason : Nat) : State :=
  let s := (s.progress p q true).updJis p (fun j => j.leaveSession q)
  ((s.updItem p q.r q.seq (fun i => { i with result := q.out.length + reason * 2 ^ 32 })).jDrop p q.r q.seq).finish p q.r q.seq

/-- Token n of a request goes to OUTOFF + 4n: the state, and the address of a dropped word. -/
def State.tokenWrite (s : State) (p : Nat) (q : JReq) (n tok : Nat) : WrRes := s.granWrite p q.outb.1 (q.outb.2 + 4 * n) (toLE 4 tok)

/-- Tokens of the step go to host memory, which may not be written while Bus Master Enable is 0: its items wait (03 R83). -/
def State.tokensWait (s : State) (p : Nat) (l : List JPart) : Bool :=
  !s.bme (s.fnOf p) && l.any (fun y => y.logits && ((s.jis1 p).req y.r y.seq).any (fun q => q.st = 1 && q.outb.1 = 1))

/-- A sampled token: counted, written, reported, and the request ended where a stop condition holds. -/
def State.tokenOut (s : State) (p : Nat) (q : JReq) (x : JSlot) (tok : Nat) : State :=
  let n := q.out.length
  let w := (s.countToken p).tokenWrite p q n tok
  match w.drop with
  | some a => ((w.s.spaceReport p 15 5 q.outb.1 a).updItem p q.r q.seq (fun i => i.failAt a)).endItem p q.r q.seq 0x10
  | none =>
    let q := { q with out := q.out ++ [BitVec.ofNat 32 tok] }
    let s := (w.s.updJis p (fun j => j.setReq q)).updItem p q.r q.seq (fun i => { i with done := 4 * (n + 1) })
    match q.stops x tok with
    | some e => s.jisanDone p q e
    | none => if (n + 1) % q.every = 0 then s.progress p q false else s

/-- Sequence number `idx` of a step that has ended: its KV grows, and its token is sampled where its logits were written. -/
def State.partEnd (s : State) (p : Nat) (x : JSlot) (idx : Nat) (y : JPart) : State :=
  match (s.jis1 p).req y.r y.seq with
  | none => s
  | some q =>
    if q.st ≠ 1 then s
    else
      let q := { q with kv := q.kv + y.nnew }
      let s := s.updJis p (fun j => j.setReq q)
      if !y.logits then s
      else
        let a := x.logitAt idx
        match pickToken (elemsOf 4 (Mem.rdBytes s.mem.slice a.1 a.2)) (leAt q.par 0 4) (leAt q.par 4 4) (leAt q.par 8 4) q.seed q.out.length with
        | .bad => s.endItem p q.r q.seq 0x10
        | .tok t => s.tokenOut p q x t
        | .open_ => s.used.tokenOut p q x (s.freeBelow x.vocab)

/-- A logit area of the step reads as uncorrectable. -/
def State.logitsBad (s : State) (x : JSlot) (l : List JPart) : Bool :=
  l.zipIdx.any (fun y => y.1.logits && (s.sliceFault (x.logitAt y.2).1 (x.logitAt y.2).2).isSome)

/-- The step of pitch p ends, once the tokens it gives may be written. -/
def State.stepEnds (s : State) (p ce : Nat) (bad : Bool) : State :=
  match (s.jis1 p).run with
  | none => s
  | some r =>
    let x := (s.jis1 p).slotOf r.slot
    if (Tab.find s.jfail p).isNone ∧ (!s.stepOver x ∨ s.tokensWait p r.parts) then s
    else
      let s := r.parts.foldl (fun s y => s.updItem p y.r y.seq (fun i => { i with ce := i.ce + ce })) s
      match Tab.find s.jfail p with
      | some (cause, n) => s.stepFails p r cause n false 0x10
      | none =>
        if bad ∨ r.bad ∨ s.logitsBad x r.parts then ((s.stepLeaves p).stepReqsEnd p r.parts 0x10).stepRetire x
        else
          let s := r.parts.zipIdx.foldl (fun s y => s.partEnd p x y.2 y.1) (s.stepLeaves p)
          s.stepRetire x

/-- STEP_END: `ce` corrected errors, `bad` uncorrectable data, met by the step. -/
def execStepEnd (p : Nat) (ce : Nat) (bad : Bool) (st : State) : Ans := run (inPitch p) (st.stepEnds p ce bad)

/-- STEPLIM_EXPIRY: the step has not ended STEPLIM × 10 ms after its start; one that an exception has failed keeps that cause. -/
def execSteplimExpiry (p : Nat) (st : State) : Ans :=
  run (inPitch p) (match (st.jis1 p).run with
    | none => st
    | some r =>
      if st.time < r.start + st.stepLim p then st
      else
        match Tab.find st.jfail p with
        | some (cause, n) => st.stepFails p r cause n false 0x10
        | none => if st.stepOver ((st.jis1 p).slotOf r.slot) then st else st.stepFails p r 0 0 true 0x15)

/-! ## JCANCEL (R298) and the policy loop (R301) -/

/-- JCANCEL: every request of the session ends as ABORTED_BY_HOST with stop reason CANCEL. -/
def execJcancel (q : Req) (p : Nat) (v : W32) (st : State) : Ans :=
  run (inReq q && inPitch p) (st.setupTry q (jisBase p + 0x20) 4 (reqOwns q p && st.pt.active.jisan p) (fun s =>
    if v = 0 then s else ((s.jis1 p).reqs.filter (fun x => x.session = v)).foldl (fun s x => s.endItemAs p x.r x.seq 0x30 3) s))

/-- Jisan sets FSTEP of a stall, never above FREQCAP of its pitch. -/
def State.policyStep (s : State) (n f : Nat) : State :=
  let cap := match s.pt.active.owner n with
    | some p => fld32 (s.jcfg p) 24 6
    | none => 0
  let v := if cap = 0 then f else min f cap
  if n < 256 ∧ 8 ≤ f ∧ f ≤ 60 then (s.setRw32 (stallBase n + 0x300) (BitVec.ofNat 32 (max v 8))).reslew n else s

/-- Jisan commands refresh multipliers for a hall. -/
def State.policyMult (s : State) (h : Nat) (v : W32) : State :=
  if h < 4 ∧ (List.range 8).all (fun l => multOf (v.setWidth 16) l ≠ 3) then
    s.updHall h (fun x => { x with cmd := v.setWidth 16, lastCmd := s.time, cmdSeen := true, failsafe := false })
  else s

/-- BATCHMAX in effect for a pitch, from 1 to JCFG's. -/
def State.policyBatch (s : State) (p n : Nat) : State := if p < 16 then s.updJis p (fun j => { j with batch := min (max n 1) 256 }) else s

/-- Parking ahead of need: idle sessions first, the least recently used (R297), then the youngest sequence of a pitch that is not in a
step. -/
def State.policyPark (s : State) (p : Nat) : State :=
  let j := s.jis1 p
  match least (fun y => y.used) (j.sess.filter (fun y => j.idle y && !y.far && y.blocks ≠ [])), j.youngest with
  | some y, _ => if p < 16 then s.parkSess p y else s
  | none, some q => if p < 16 then s.parkReq p q else s
  | none, none => s

/-- POLICY_TICK: the decisions Jisan takes, within their limits. -/
def execPolicyTick (fsteps : List (Nat × Nat)) (mults : List (Nat × W32)) (batch : List (Nat × Nat)) (park : List Nat) (st : State) : Ans :=
  run true (if !st.jisanRuns then st else
    let s := fsteps.foldl (fun s x => s.policyStep x.1 x.2) st
    let s := mults.foldl (fun s x => s.policyMult x.1 x.2) s
    let s := batch.foldl (fun s x => s.policyBatch x.1 x.2) s
    park.foldl State.policyPark s)

end Sys2Proof.Machine
end

