-- ==== Sys2Proof/Machine/Caravan.lean ====
section
/-!
DEFINITION. Caravan (14): descriptors, frames received, timers, ports, the peer table and collective handles.
-/
namespace Sys2Proof.Machine

/-! ## What an incoming operation reaches (R309, R310): DPAs in the MLD layout of the target pitch -/

/-- Where a DPA of pitch p's MLD layout lies, whichever way the device runs. -/
def State.cvPlace (s : State) (p d : Nat) : Place :=
  if d < dpaFar then
    match s.pt.active.stallAt p (d / unit256) with
    | some n => .slice n (d % unit256)
    | none => .none
  else
    let o := d - dpaFar
    if o < unit256 * s.pt.active.farsize p then .far (o + unit256 * s.pt.active.farbase p) else .none

/-- The whole range lies in backed bytes of the pitch. -/
def State.cvBacked (s : State) (p a n : Nat) : Bool :=
  let n1 := min n (dpaFar - a)
  (windowsOf a n1).all (fun w =>
    match s.cvPlace p (unit256 * w) with
    | .slice m _ => decide (min (a + n1) (unit256 * (w + 1)) - unit256 * w ≤ s.backedTop m)
    | _ => false) &&
  (n = n1 || (s.backedChk (s.cvPlace p (max a dpaFar)) && s.backedChk (s.cvPlace p (a + n - 1))))

/-- The stalls whose windows a range touches. -/
def State.cvStalls (s : State) (p a n : Nat) : List Nat :=
  (windowsOf a (min n (dpaFar - a))).filterMap (fun w =>
    match s.cvPlace p (unit256 * w) with
    | .slice m _ => some m
    | _ => none)

/-- Checks 4 and 5: a target stall retired or fenced, a target hall tripped. -/
def State.cvGone (s : State) (p a n : Nat) : Option Nat :=
  let l := s.cvStalls p a n
  if l.any s.stallGone then some 0x11 else if l.any (fun m => (s.hall (hallOf m)).tripped) then some 0x16 else none

/-- Checks 1 and 2. -/
def State.cvAdmit (s : State) (p : Nat) (key : W32) : Option Nat :=
  if !s.pt.active.enabled p ∨ !s.cvEnable p ∨ s.cvKey p ≠ key then some 0x22
  else if (s.pctl p).resetting then some 0x13
  else none

/-- The checks of R310 on a remote write with its signal word. -/
def State.cvWriteCheck (s : State) (p : Nat) (key : W32) (a n : Nat) (sig : W32) : Option Nat :=
  match s.cvAdmit p key with
  | some e => some e
  | none =>
    if !s.cvBacked p a n ∨ (bit32 sig 31 ∧ !s.pt.active.ownsTally p (fld32 sig 0 18)) then some 0x21 else s.cvGone p a n

/-- The checks of R310 on a tally operation; `room` asks for a remote watch. -/
def State.cvTallyCheck (s : State) (p : Nat) (key : W32) (id : Nat) (room : Bool) : Option Nat :=
  match s.cvAdmit p key with
  | some e => some e
  | none =>
    if !s.pt.active.ownsTally p id then some 0x21
    else
      match s.tallyLost none id with
      | some e => some e
      | none => if room ∧ 1024 ≤ s.remoteWatches (id / 65536) then some 0x24 else none

/-- Write bytes of an incoming operation, a granule at a time; whether a word was dropped. -/
def State.cvWrite (s : State) (p a : Nat) (b : List Byte) : JWr :=
  (pieces 64 (b.length / 64 + 2) a b).foldl (fun (w : JWr) x =>
    match w.s.cvPlace p x.1 with
    | .slice m off => w.slice (unit256 * m + off) x.2
    | .far o => w.far o x.2
    | .none => (⟨w.s, true⟩ : JWr)) (⟨s, false⟩ : JWr)

/-- Poison a granule that a local remote write could not read the source of (12 R264). -/
def State.cvPoison (s : State) (p a : Nat) : State :=
  match s.cvPlace p a with
  | .slice m off => s.poisSlice (unit256 * m + off)
  | .far o => s.poisFar o
  | .none => s

/-- The signal of a remote write whose bytes are all visible: the state, and the status of a failure. -/
def State.cvSignal (s : State) (o : TOwner) (sig : W32) : State × Nat :=
  let id := fld32 sig 0 18
  if !bit32 sig 31 then (s, 0)
  else
    match s.tallyLost none id with
    | some e => (s, e)
    | none =>
      if NSet.has s.tally.pois id then (s, 0x10)
      else (s.tallyApply { op := 2, id := id, x := 1, cond := 0, owner := o, dead := true }, 0)

/-! ## CARAVAN descriptors -/

def Item.dev (i : Item) : Nat := i.f 18 2
def Item.operand (i : Item) : W32 := BitVec.ofNat 32 (i.f 48 4)

/-- Check 2 on the reserved fields that all operations share. -/
def Item.cvZero (i : Item) : Bool := i.zero 22 2 && i.zero 45 3 && i.zero 60 4

/-- A CARAVAN item starts: dispatched by the service pair, run by the engine (R302; 03 R80). -/
def State.cvStart (s : State) (i : Item) (l : List Buf) : State :=
  (((s.startItem i).updItem i.p i.r i.seq (fun i => { i with bufs := l })).toStage i.p i.r i.seq .intent).toStage i.p i.r i.seq .dispatched

/-- The checks of a REMOTE_WRITE; a reserved COP fails check 2. -/
def State.remoteWriteCheck (s : State) (i : Item) (rdFail : Bool) : Chk Buf :=
  let n := i.f 40 5
  match s.check12 i with
  | some e => .stop e 0
  | none =>
    if i.f 16 1 ≠ 0 ∨ i.f 17 1 ≠ 0 ∨ !i.cvZero ∨ i.f 52 4 ≠ 0 ∨ i.f 56 4 ≠ 0 ∨ fld32 i.operand 18 13 ≠ 0 then .stop 0x20 0
    else if !s.typeAllowed i.p 7 ∨ !s.cvAllowed i.p i.dev then .stop 0x22 0
    else
      match s.readBufs i.p rdFail [(i.f 20 2, false)] with
      | .error e => .stop 0x22 e
      | .ok l =>
        let b := l.headD ⟨0, 0, 0, 0, false, false⟩
        if n = 0 then .stop 0 0
        else if !s.bufFits i.p b (i.f 24 8) n then .stop 0x21 0
        else if (s.bufStalls i.p b (i.f 24 8) n).any s.stallGone then .stop 0x11 0
        else .pass b

/-- A remote write to the device itself (R315): the checks of R310, the bytes, the signal, the record. -/
def State.localWrite (s : State) (i : Item) (b : Buf) (hostFail : Option Nat) : State :=
  let n := i.f 40 5
  let rp := s.cvRpitch i.p
  let src := b.base + i.f 24 8
  let dst := i.f 32 8
  match s.cvWriteCheck rp (s.cvKey i.p) dst n i.operand with
  | some e => s.reject i.p i.r i.seq e 0
  | none =>
    let s := (s.cvStart i [b]).spaceTouch i.p b.kind src n 0 false
    let s := (pieces 64 (n / 64 + 2) dst (zeros n)).foldl (fun s x =>
      let a := src + (x.1 - dst)
      match hostFailIn (b.kind, a) x.2.length hostFail <|> s.spaceFault i.p b.kind a x.2.length with
      | some f => ((s.spaceReport i.p 3 6 b.kind f).cvPoison rp x.1).updItem i.p i.r i.seq (fun i => i.failAt f)
      | none =>
        let w := s.cvWrite rp x.1 (s.spaceRead i.p b.kind a x.2.length)
        if w.bad then w.s.updItem i.p i.r i.seq (fun i => i.failAt (x.1 / 64 * 64)) else w.s) s
    if ((s.item i.p i.r i.seq).map (fun i => i.stat)).getD 0 ≠ 0 then s.finish i.p i.r i.seq
    else
      let x := s.cvSignal (.desc i.p i.r i.seq) i.operand
      (x.1.updItem i.p i.r i.seq (fun i => { (if x.2 = 0 then i else i.settle x.2) with done := n })).finish i.p i.r i.seq

/-- The packets of a remote write: START, then DATA of PAYLOAD bytes. -/
def State.writePkts (s : State) (i : Item) (b : List Byte) : List CvPkt :=
  let q : CvPkt := { kind := 3, tp := s.cvRpitch i.p, sp := i.p, key := s.cvKey i.p }
  { q with addr := i.f 32 8, data := toLE 8 (i.f 40 5) ++ toLE 4 i.operand.toNat ++ toLE 4 0 } ::
    ((chunks s.cvPayload (b.length + 1) b).zipIdx.map (fun c =>
      { q with kind := 4, addr := i.f 32 8 + c.2 * s.cvPayload, data := c.1 }))

/-- A remote write to a peer. Source data that cannot be read end it: the packets before them are sent, and ABORT follows (log entry 38). -/
def State.sendWrite (s : State) (i : Item) (b : Buf) (hostFail : Option Nat) : State :=
  let n := i.f 40 5
  let a := b.base + i.f 24 8
  let fault := least id ((hostFailIn (b.kind, a) n hostFail).toList ++ (s.spaceFault i.p b.kind a n).toList)
  let good := match fault with
    | some f => (f - a) / s.cvPayload * s.cvPayload
    | none => n
  let s := (s.cvStart i [b]).spaceTouch i.p b.kind a n 0 false
  let s := s.cvSubmit i.dev { op := 0, owner := .desc i.p i.r i.seq, sp := i.p, msg := 0, first := 0, last := 0, len := n, ra := 0 }
    (s.writePkts i (s.spaceRead i.p b.kind a good))
  match fault with
  | some f => ((s.spaceReport i.p 3 6 b.kind f).updItem i.p i.r i.seq (fun i => i.failAt f)).endItem i.p i.r i.seq 0x10
  | none => s

/-- A CARAVAN descriptor of an operation whose turn has come; COP 1 and 2 have rows of their own. -/
def State.readyCop (s : State) (p r : Nat) (seq : W32) (cop : Nat → Bool) : Option Item :=
  match s.ready p r seq (· = 7) with
  | none => none
  | some i => if cop (i.f 16 1) then some i else none

/-- REMOTE_WRITE. -/
def execRemoteWrite (p r : Nat) (seq : W32) (rd : CopReads) (st : State) : Ans :=
  run (inPitch p && inRing r) (match st.readyCop p r seq (fun c => c ≠ 1 && c ≠ 2) with
    | none => st
    | some i =>
      if !st.bme (st.fnOf p) then st
      else st.checked i (st.remoteWriteCheck i rd.entries) (fun b => if i.dev = st.cvDev then st.localWrite i b rd.data else st.sendWrite i b rd.data))

/-- The checks of a REMOTE_TALLY (R316). -/
def State.remoteTallyCheck (s : State) (i : Item) : Chk Unit :=
  let top := i.f 17 1
  match s.check12 i with
  | some e => .stop e 0
  | none =>
    if 4 ≤ top ∨ (if top = 3 then 6 ≤ i.f 52 4 else i.f 52 4 ≠ 0) ∨ 2 ^ 18 ≤ i.f 32 8 ∨ i.f 20 2 ≠ 0xFFFF ∨ i.f 24 8 ≠ 0 ∨ i.f 40 8 ≠ 0 ∨
        i.f 56 4 ≠ 0 ∨ !i.cvZero then .stop 0x20 0
    else if !s.typeAllowed i.p 7 ∨ !s.cvAllowed i.p i.dev then .stop 0x22 0
    else .pass ()

/-- REMOTE_TALLY: the operation goes to the peer; one on the device itself is local, under the checks of R310. -/
def execRemoteTally (p r : Nat) (seq : W32) (st : State) : Ans :=
  run (inPitch p && inRing r) (match st.readyCop p r seq (fun c => c = 1) with
    | none => st
    | some i => st.checked i (st.remoteTallyCheck i) (fun _ =>
        let id := i.f 32 8
        let top := i.f 17 1
        if i.dev = st.cvDev then
          match st.cvTallyCheck (st.cvRpitch p) (st.cvKey p) id false with
          | some e => st.reject p r seq e 0
          | none => (st.cvStart i []).tallySend { op := top, id := id, x := i.operand, cond := i.f 52 4, owner := .desc p r seq }
        else (st.cvStart i []).cvTally p i.dev (.desc p r seq) id top (i.f 52 4) i.operand 0))

/-! ## COLLECTIVE (R317, R318, R324) -/

def handleBase (p h : Nat) : Nat := 0x184800 + 0x8000 * p + 0x10 * h

/-- A collective handle. -/
structure Handle where
  next : Nat
  prev : Nat
  m : Nat
  rank : Nat
  op : Nat
  ety : Nat
  valid : Bool
  deriving DecidableEq, Repr

def State.handle (s : State) (p h : Nat) : Handle :=
  let w := fun k => s.rw32 (handleBase p h + 4 * k)
  { next := fld32 (w 0) 0 16, prev := fld32 (w 0) 16 16, m := (w 1).toNat, rank := (w 2).toNat, op := fld32 (w 3) 0 3, ety := fld32 (w 3) 8 8,
    valid := bit32 (w 3) 16 }

/-- A handle that a COLLECTIVE may name, with the LENGTH rule of its operation. -/
def State.handleOk (s : State) (x : Handle) (len : Nat) : Bool :=
  let e := etyBytes x.ety
  x.valid && decide (2 ≤ x.m ∧ x.m ≤ 65536 ∧ x.rank < x.m ∧ 1 ≤ x.op ∧ x.op ≤ 4) && (x.ety = 2 || x.ety = 5 || x.ety = 6) && x.next ≠ s.cvDev &&
    (match x.op with
     | 1 => len % e = 0
     | 3 => len % (x.m * e) = 0
     | _ => len % 64 = 0)

/-- Output bytes. -/
def Handle.outLen (x : Handle) (len : Nat) : Nat := if x.op = 2 then x.m * len else if x.op = 3 then len / x.m else len

/-- The checks of a COLLECTIVE. -/
def State.collectiveCheck (s : State) (i : Item) (rdFail : Bool) : Chk (Buf × Buf) :=
  let n := i.f 40 5
  let x := s.handle i.p (i.f 56 4)
  let none_ : Buf := ⟨0, 0, 0, 0, false, false⟩
  match s.check12 i with
  | some e => .stop e 0
  | none =>
    if i.f 17 1 ≠ 0 ∨ i.dev ≠ 0 ∨ i.operand ≠ 0 ∨ i.f 52 4 ≠ 0 ∨ 64 ≤ i.f 56 4 ∨ !i.cvZero ∨ !s.handleOk x n then .stop 0x20 0
    else if !s.typeAllowed i.p 7 ∨ !s.cvAllowed i.p x.next ∨ !s.cvAllowed i.p x.prev then .stop 0x22 0
    else
      match s.readBufs i.p rdFail [(i.f 20 2, false), (i.f 32 2, true)] with
      | .error e => .stop 0x22 e
      | .ok l =>
        let a := l.headD none_
        let b := l.getLastD none_
        let sa := a.base + i.f 24 8
        let da := b.base + i.f 34 6
        let k := x.outLen n
        if a.kind = b.kind ∧ n ≠ 0 ∧ overlap (sa, n) (da, k) ∧ !(x.op = 1 ∧ sa = da) then .stop 0x20 0
        else if n = 0 then .stop 0 0
        else if !s.bufFits i.p a (i.f 24 8) n ∨ !s.bufFits i.p b (i.f 34 6) k then .stop 0x21 0
        else if (s.bufStalls i.p a (i.f 24 8) n ++ s.bufStalls i.p b (i.f 34 6) k).any s.stallGone then .stop 0x11 0
        else .pass (a, b)

/-- COLLECTIVE: the item joins the next instance of its handle, which begins once no other runs (R317). -/
def State.collJoin (s : State) (i : Item) (a b : Buf) (hostFail : Option Nat) : State :=
  let h := i.f 56 4
  let x := s.handle i.p h
  let k := Tab.get (0 : W32) s.cv.inst (64 * i.p + h) + 1
  let c : Coll := {
    p := i.p, r := i.r, seq := i.seq, h := h, inst := k, op := x.op, ety := x.ety, m := x.m, rank := x.rank, next := x.next, prev := x.prev,
    len := i.f 40 5, inp := [], out := b, off := i.f 34 6, hfail := hostFail }
  let s := s.cvStart i [a, b]
  let s := { s with cv := { s.cv with inst := Tab.set s.cv.inst (64 * i.p + h) k, coll := s.cv.coll ++ [c] } }
  (s.collNext i.p h).collDrain i.p h (s.cv.early.length + 1)

/-- COLLECTIVE; the host's failure of its input, if any, comes later, as the input is read (03 R83). -/
def execCollective (p r : Nat) (seq : W32) (rd : CopReads) (st : State) : Ans :=
  run (inPitch p && inRing r) (match st.readyCop p r seq (fun c => c = 2) with
    | none => st
    | some i =>
      if !st.bme (st.fnOf p) then st else st.checked i (st.collectiveCheck i rd.entries) (fun x => st.collJoin i x.1 x.2 rd.data))

/-! ## A lost convoy (R321) -/

/-- An operation of this device ends as its peer is lost; a wait that was being withdrawn, with the status of that. -/
def State.opLost (s : State) (o : CvOp) : State :=
  if o.dead then s
  else
    match o.owner with
    | .desc p r seq => s.endItem p r seq (o.abort.getD 0x14)
    | .thread n k =>
      if o.op = 3 then s.sigDone n k (some (cUNMAPPED, o.ra))
      else if (s.thread n k).st = .tally then s.updThread n k (fun t => { t with resp := some (.fail cUNMAPPED o.ra) }) else s
    | _ => s

/-- A running collective uses a convoy. -/
def Coll.uses (c : Coll) (peer port : Nat) : Bool := c.st ≠ 0 && ((c.next = peer && c.pn = port) || (c.prev = peer && c.pp = port))

/-- A convoy is open, or an operation waits for it to open. -/
def Convoy.used (c : Convoy) : Bool := c.st ≠ 0 || c.ops ≠ []

/-- The peer is lost on a convoy: the convoy closes, and every operation in flight on it ends at this end. -/
def State.convLost (s : State) (peer port : Nat) : State :=
  let c := s.conv peer port
  if !c.used then s
  else
    let s := s.updConv peer port Convoy.closed
    let s := { s with cv := { s.cv with early := s.cv.early.filter (fun e => e.src ≠ peer) } }
    let s := c.ops.foldl State.opLost s
    let s := c.rx.foldl (fun s x => s.rxEnd peer port x 0x14) s
    ((s.cv.coll.filter (fun x => x.uses peer port)).foldl (fun s x => s.collStop x 0x14 (x.others peer)) s).cvWake

/-- LOSTTIME_EXPIRY: no packet of the peer has come for LOSTTIME (R313). -/
def execLosttimeExpiry (peer port : Nat) (st : State) : Ans := run (inDev peer && inPort port) (st.convLost peer port)

/-- Every convoy that `f` names is lost. -/
def State.convsLost (s : State) (f : Nat → Nat → Bool) : State :=
  (s.cv.conv.filter (fun e => e.2.used && f (e.1 / 8) (e.1 % 8))).foldl (fun s e => s.convLost (e.1 / 8) (e.1 % 8)) s

/-! ## Acknowledgements (R312, R320) -/

/-- An operation whose packets up to PSN `a` are acknowledged: a write reports its longest prefix and ends with its last packet, a
SIGNAL ends. -/
def State.opAcked (s : State) (peer port : Nat) (a : W32) (o : CvOp) : State :=
  let total := (o.last - o.first).toNat + 1
  let k := (a - o.first).toNat + 1
  let got := if k ≤ 2 ^ 31 then min k total else 0
  if got = 0 then s
  else if o.abort.isSome ∧ got < total then s
  else
    let drop := fun (s : State) => s.updConv peer port (fun c => { c with ops := c.ops.filter (fun x => x ≠ o) })
    if o.abort.isSome then
      let s := drop s
      if o.dead then s
      else
        match o.owner with
        | .desc p r seq => (s.updItem p r seq (fun i => i.settle (o.abort.getD 0))).finish p r seq
        | w => s.withdrawWait w
    else if o.op = 0 then
      match o.owner with
      | .desc p r seq =>
        let s := s.updItem p r seq (fun i => { i with done := min o.len ((got - 1) * s.cvPayload) })
        if got = total then (drop s).finish p r seq else s
      | _ => s
    else if o.op = 3 ∧ got = total then (if o.dead then drop s else (drop s).tallyGive o.owner 2 0)
    else s

/-- The operations that an acknowledgement `a` ends, once every packet of the peer before PSN `need` has come: a REFUSE or a result among
them counts first (09 R203, R205). -/
def State.opsAcked (s : State) (peer port : Nat) (need a : W32) : State :=
  if ((s.conv peer port).expect - need).toNat < 2 ^ 31 then
    (s.conv peer port).ops.foldl (fun s o => s.opAcked peer port a o) (s.updConv peer port (fun c => { c with ackTo := none }))
  else s.updConv peer port (fun c => { c with ackTo := some (need, a) })

/-- Packets have come: an acknowledgement that waited for them is looked at again. -/
def State.opsDue (s : State) (peer port : Nat) : State :=
  match (s.conv peer port).ackTo with
  | some (need, a) => s.opsAcked peer port need a
  | none => s

/-- A cumulative acknowledgement, with its congestion echo: R falls by α/2 at most once in 50 µs. -/
def State.acked (s : State) (peer port : Nat) (a : W32) (ece : Bool) : State :=
  let c := s.conv peer port
  let first := (c.tx.head?.map (fun q => q.psn)).getD c.psn
  let k := (a - first).toNat + 1
  let n := if k ≤ c.sent then k else 0
  let s := s.updConv peer port (fun c =>
    let cutNow := ece && (match c.cut with | some t => decide (t + 50000 ≤ s.time) | none => true)
    { c with
      tx := c.tx.drop n, sent := c.sent - n, rto := if n = 0 then c.rto else 64, acks := c.acks + 1, echoes := c.echoes + ofBool ece,
      rate := if cutNow then max 100 (c.rate * (131072 - c.alpha) / 131072) else c.rate, cut := if cutNow then some s.time else c.cut })
  if n = 0 then s else s.cvPump peer port

/-- Send an acknowledgement, with the congestion echo that is due. -/
def State.cvAck (s : State) (peer port : Nat) : State :=
  let e := (s.conv peer port).ece
  (s.cvBare peer port 7 (4 * ofBool e)).updConv peer port (fun c => { c with due := 0, ece := false })

/-! ## Received packets -/

/-- A frame for this device; others are dropped and counted (R305, R307). -/
def State.cvMine (s : State) (f : Frame) : Bool := s.cvValid && f.dst = s.cvDev && Tab.get 0 s.cv.port f.port = 2

def State.cvDrop (s : State) : State := { s with cv := { s.cv with drops := s.cv.drops + 1 } }

/-- The frame belongs to the convoy as it stands (R311). -/
def State.cvCurrent (s : State) (f : Frame) : Bool :=
  (s.conv f.src f.port).st = 2 && (s.conv f.src f.port).gen = f.cgen

/-- An incoming write ends here for a cause of this device: REFUSE and a landing report (R310, R323; log entry 38). -/
def State.rxFails (s : State) (f : Frame) (x : CvRx) (st : Nat) : State :=
  (s.rxEnd f.src f.port x st).cvRefuse f.src f.port f.msg st

/-- START: checked under R310, then the write is in progress or refused. -/
def State.onStart (s : State) (f : Frame) (addr len : Nat) (sig : W32) : State :=
  match s.cvWriteCheck f.tp f.key addr len sig with
  | some e => s.cvRefuse f.src f.port f.msg e
  | none => s.updConv f.src f.port (fun c => { c with
      rx := c.rx ++ [{ watch := false, msg := f.msg, tp := f.tp, sp := f.sp, addr := addr, len := len, got := 0, sig := sig }] })

/-- The last byte of a write is visible: the signal, then the acknowledgement of the message. -/
def State.rxDone (s : State) (f : Frame) (x : CvRx) : State :=
  let y := s.cvSignal (.remote f.src f.port f.msg) x.sig
  if y.2 ≠ 0 then y.1.rxFails f x y.2
  else (y.1.updConv f.src f.port (fun c => { c with rx := c.rx.filter (fun z => z ≠ x) })).cvAck f.src f.port

/-- DATA of a write in progress; what lies outside its declared range, or belongs to none, has no effect (R322). -/
def State.onData (s : State) (f : Frame) (addr : Nat) (b : List Byte) : State :=
  match (s.conv f.src f.port).rx.find? (fun x => !x.watch && x.msg = f.msg) with
  | none => s
  | some x =>
    if addr ≠ x.addr + x.got ∨ x.len < x.got + b.length then s
    else
      match s.cvGone x.tp addr b.length with
      | some e => s.rxFails f x e
      | none =>
        let w := s.cvWrite x.tp addr b
        if w.bad then w.s.rxFails f x 0x10
        else
          let y := { x with got := x.got + b.length }
          let s := w.s.updConv f.src f.port (fun c => { c with rx := c.rx.map (fun z => if z = x then y else z) })
          if y.got = y.len then s.rxDone f y else s

/-- TALLY: checked under R310 and applied at once; a wait that does not hold becomes a remote watch (R316). -/
def State.onTally (s : State) (f : Frame) (id top cmp : Nat) (x : W32) : State :=
  let o : TOwner := .remote f.src f.port f.msg
  match s.cvTallyCheck f.tp f.key id (top = 3 && !NSet.has s.tally.pois id && !tallyCond cmp (s.tallyVal id) x) with
  | some e => s.cvRefuse f.src f.port f.msg e
  | none =>
    let s := s.tallyApply { op := top, id := id, x := x, cond := cmp, owner := o }
    if s.tally.watches.any (fun w => w.owner = o) then
      s.updConv f.src f.port (fun c => { c with
        rx := c.rx ++ [{ watch := true, msg := f.msg, tp := f.tp, sp := f.sp, addr := id, len := 0, got := 0, sig := 0 }] })
    else s

/-- The operation of ours with a message number leaves its convoy. -/
def State.opTake (s : State) (f : Frame) : Option CvOp × State :=
  let o := (s.conv f.src f.port).ops.find? (fun o => o.msg = f.msg)
  (o, s.updConv f.src f.port (fun c => { c with ops := c.ops.filter (fun o => o.msg ≠ f.msg) }))

/-- TALLY_RESULT. -/
def State.onResult (s : State) (f : Frame) (v : W32) : State :=
  match s.opTake f with
  | (some o, s') => if o.dead ∨ o.op = 0 then s' else s'.tallyGive o.owner (o.op - 1) v
  | (none, _) => s

/-- REFUSE: the operation ends with the carried status; a thread receives UNMAPPED (R310). A code outside the table is shown as it came where
it is 0x20 or above (DESIGN CHOICE, log entry 100). -/
def State.onRefuse (s : State) (f : Frame) (st : Nat) : State :=
  match s.opTake f with
  | (none, _) => s
  | (some o, s') =>
    match o.owner with
    | .desc p r seq =>
      if o.dead then s'
      else (s'.updItem p r seq (fun i => if 0x20 ≤ st ∧ i.stat = 0 then { i with stat := st, done := 0 } else i.settle st)).finish p r seq
    | _ => s'.opLost o

/-- ABORT (R321, R323; 21 R460, R461): an incoming write ends with the carried status, a watch is withdrawn, a collective ends and
ABORT goes on once. One for an instance that has not begun here stays with its exchange. -/
def State.onAbort (s : State) (f : Frame) (st : Nat) : State :=
  match (s.conv f.src f.port).rx.find? (fun x => x.msg = f.msg) with
  | some x => s.rxEnd f.src f.port x st
  | none =>
    match s.cv.coll.find? (fun c => c.st ≠ 0 && ((c.next = f.src && c.rn = some f.msg) || (c.prev = f.src && c.rp = some f.msg))) with
    | some c => s.collStop c (if st = 0x20 then 0x20 else 0x14) (c.others f.src)
    | none =>
      let l := s.cv.early.map (fun (e : CvEarly) => { e with gone := e.gone || (e.src = f.src && e.msg = f.msg) })
      { s with cv := { s.cv with early := l } }

/-- A packet takes its turn in PSN order. -/
def State.cvDeliver (s : State) (x : CvHeld) : State :=
  let f := x.f
  let s := s.updConv f.src f.port (fun c => { c with expect := c.expect + 1, due := c.due + 1, use_ := s.time })
  match x.kind with
  | 3 => s.onStart f x.addr (leAt x.data 0 5) (BitVec.ofNat 32 (leAt x.data 8 4))
  | 4 => s.onData f x.addr x.data
  | 5 => s.onTally f (bitsOf x.addr 0 18) (bitsOf x.addr 24 2) (bitsOf x.addr 26 3) (BitVec.ofNat 32 (leAt x.data 0 4))
  | 6 => s.onResult f (BitVec.ofNat 32 (leAt x.data 4 4))
  | 8 => s.onRefuse f (leAt x.data 0 1)
  | 9 => s.collArrive {
      src := f.src, p := f.tp, h := bitsOf x.addr 0 6, step := bitsOf x.addr 16 16, inst := BitVec.ofNat 32 (x.addr / 2 ^ 32),
      msg := f.msg, data := x.data }
  | _ => s.onAbort f (leAt x.data 0 1)

/-- Packets held ahead take their turn. -/
def State.cvAhead (s : State) (peer port : Nat) : Nat → State
  | 0 => s
  | n + 1 =>
    let c := s.conv peer port
    match c.ahead.find? (fun x => x.f.psn = c.expect.toNat) with
    | none => s
    | some x =>
      ((s.updConv peer port (fun c => { c with ahead := c.ahead.filter (fun y => y.f.psn ≠ x.f.psn) })).cvDeliver x).cvAhead peer port n

/-- A packet with a PSN: dropped, held, acknowledged again as a duplicate, or taken with those it was waited for (R311, R312). -/
def State.onPacket (s : State) (x : CvHeld) : State :=
  let f := x.f
  if !s.cvMine f ∨ !s.cvCurrent f then s.cvDrop
  else
    let s := (s.acked f.src f.port (BitVec.ofNat 32 f.ack) f.ece).updConv f.src f.port (fun c => { c with ece := c.ece || f.ce })
    let c := s.conv f.src f.port
    let d := (BitVec.ofNat 32 f.psn - c.expect).toNat
    let need := BitVec.ofNat 32 (f.psn + 1)
    if d = 0 then
      let s := (((s.cvDeliver x).cvAhead f.src f.port 256).opsDue f.src f.port).opsAcked f.src f.port need (BitVec.ofNat 32 f.ack)
      (if 16 ≤ (s.conv f.src f.port).due then s.cvAck f.src f.port else s).cvWake
    else if d ≤ 256 then
      let s := s.opsAcked f.src f.port need (BitVec.ofNat 32 f.ack)
      if c.ahead.any (fun y => y.f.psn = f.psn) then s else s.updConv f.src f.port (fun c => { c with ahead := c.ahead ++ [x] })
    else if 2 ^ 31 ≤ d then s.cvAck f.src f.port
    else s.cvDrop

/-- START. -/
def execStartFrame (f : Frame) (addr len : Nat) (signal : W32) (st : State) : Ans :=
  run (inFrame f) (st.onPacket { f := f, kind := 3, addr := addr, data := toLE 8 (len % 2 ^ 40) ++ toLE 4 signal.toNat })

/-- DATA. -/
def execDataFrame (f : Frame) (addr : Nat) (data : List Byte) (st : State) : Ans :=
  run (inFrame f) (st.onPacket { f := f, kind := 4, addr := addr, data := data })

/-- TALLY. -/
def execTallyFrame (f : Frame) (tally : BitVec 18) (top cmp : Nat) (x : W32) (st : State) : Ans :=
  run (inFrame f) (st.onPacket { f := f, kind := 5, addr := tally.toNat + 2 ^ 24 * (top % 4) + 2 ^ 26 * (cmp % 8), data := toLE 4 x.toNat })

/-- TALLY_RESULT. -/
def execTallyResultFrame (f : Frame) (status : Byte) (v : W32) (st : State) : Ans :=
  run (inFrame f) (st.onPacket { f := f, kind := if status = 0 then 6 else 8, addr := 0, data := statusPayload status.toNat v })

/-- REFUSE. -/
def execRefuseFrame (f : Frame) (status : Byte) (st : State) : Ans :=
  run (inFrame f) (st.onPacket { f := f, kind := 8, addr := 0, data := statusPayload status.toNat 0 })

/-- COLL. -/
def execCollFrame (f : Frame) (handle step : Nat) (inst : W32) (data : List Byte) (st : State) : Ans :=
  run (inFrame f) (st.onPacket { f := f, kind := 9, addr := handle % 64 + 2 ^ 16 * (step % 2 ^ 16) + 2 ^ 32 * inst.toNat, data := data })

/-- CARAVAN_ABORT. -/
def execCaravanAbort (f : Frame) (status : Byte) (st : State) : Ans :=
  run (inFrame f) (st.onPacket { f := f, kind := 10, addr := 0, data := toLE 1 status.toNat })

/-- ACK and PROBE carry no PSN of their own. -/
def State.onBare (s : State) (f : Frame) : State :=
  if !s.cvMine f ∨ !s.cvCurrent f then s.cvDrop
  else
    let s := (s.acked f.src f.port (BitVec.ofNat 32 f.ack) f.ece).updConv f.src f.port (fun c => { c with ece := c.ece || f.ce, use_ := s.time })
    (s.opsAcked f.src f.port (BitVec.ofNat 32 f.psn) (BitVec.ofNat 32 f.ack)).cvWake

/-- ACK. -/
def execAckFrame (f : Frame) (st : State) : Ans := run (inFrame f) (st.onBare f)

/-- PROBE. -/
def execProbeFrame (f : Frame) (st : State) : Ans := run (inFrame f) (st.onBare f)

/-! ## Opening (R311) -/

/-- A convoy as it opens with a generation: nothing sent is acknowledged, packets that wait are numbered anew. -/
def Convoy.opened (c : Convoy) (gen : Nat) (epoch : W32) : Convoy := { c with st := 2, gen := gen, epoch := epoch, sent := 0 }

/-- The peer has restarted since its epoch was recorded. -/
def Convoy.restarted (c : Convoy) (epoch : W32) : Bool := c.epoch ≠ 0 && c.epoch ≠ epoch

/-- OPEN: a convoy of another generation or epoch is lost; then the convoy opens as the sender says and OPEN_ACK answers. Where both ends
open at once, the higher generation stands at both (log entry 109). -/
def State.onOpen (s : State) (f : Frame) (epoch : W32) : State :=
  if !s.cvMine f then s.cvDrop
  else
    let c := s.conv f.src f.port
    if c.st = 2 ∧ c.gen = f.cgen ∧ c.epoch = epoch then s.cvHello f.src f.port 2
    else
      let s := if c.st = 2 ∨ (c.st = 1 ∧ c.restarted epoch) then s.convLost f.src f.port else s
      match if (s.conv f.src f.port).st = 0 then s.cvRoom else some s with
      | none => s
      | some s =>
        ((s.updConv f.src f.port (fun c => { c.opened (if c.st = 1 then max c.gen f.cgen else f.cgen) epoch with use_ := s.time })).cvHello f.src f.port 2).cvPump f.src f.port

/-- OPEN. -/
def execOpenFrame (f : Frame) (epoch : W32) (st : State) : Ans := run (inFrame f) (st.onOpen f epoch)

/-- OPEN_ACK: the convoy we opened is open; one to a peer that has restarted since is lost. -/
def State.onOpenAck (s : State) (f : Frame) (epoch : W32) : State :=
  let c := s.conv f.src f.port
  if !s.cvMine f ∨ c.st = 0 ∨ c.gen ≠ f.cgen then s.cvDrop
  else if c.st = 2 ∧ c.restarted epoch then s.convLost f.src f.port
  else if c.st = 2 then s
  else (s.updConv f.src f.port (fun c => { c.opened f.cgen epoch with use_ := s.time })).cvPump f.src f.port

/-- OPEN_ACK. -/
def execOpenAckFrame (f : Frame) (epoch : W32) (st : State) : Ans := run (inFrame f) (st.onOpenAck f epoch)

/-! ## Timers (R312, R313, R320) -/

/-- ACK_TIMER: 8 µs with packets not acknowledged. -/
def execAckTimer (peer port : Nat) (st : State) : Ans :=
  run (inDev peer && inPort port) (if (st.conv peer port).st = 2 ∧ (st.conv peer port).due ≠ 0 then st.cvAck peer port else st)

/-- RTO_EXPIRY: the oldest packet, or the OPEN, is sent again; RTO doubles up to LOSTTIME / 4, and R halves. -/
def State.rtoExpire (s : State) (peer port : Nat) : State :=
  let c := s.conv peer port
  let back := fun (s : State) => s.updConv peer port (fun c => { c with rto := min (2 * c.rto) (s.lostTime * 250), rate := max 100 (c.rate / 2) })
  if c.st = 1 then back (s.cvHello peer port 1)
  else
    match c.tx with
    | q :: _ => if c.st = 2 ∧ c.sent ≠ 0 then back (s.cvEmit peer port { q with flags := q.flags + 8 }) else s
    | [] => s

/-- RTO_EXPIRY. -/
def execRtoExpiry (peer port : Nat) (st : State) : Ans := run (inDev peer && inPort port) (st.rtoExpire peer port)

/-- PROBE_TIMER: a convoy with anything in flight has sent nothing for LOSTTIME / 8. -/
def execProbeTimer (peer port : Nat) (st : State) : Ans :=
  run (inDev peer && inPort port) (if (st.conv peer port).st = 2 ∧ !st.cvQuiet peer port then st.cvBare peer port 11 0 else st)

/-- RATE_UPDATE: every 50 µs α takes the fraction of echoes in with gain 1/16, and R rises where there was none. -/
def Convoy.rateStep (c : Convoy) : Convoy :=
  let frac := if c.acks = 0 then 0 else c.echoes * 65536 / c.acks
  let rises := if c.echoes = 0 then min (c.rises + 1) 6 else 0
  { c with
    alpha := (15 * c.alpha + frac) / 16, acks := 0, echoes := 0, rises := rises,
    rate := if rises = 0 then c.rate else min 400000 (c.rate + if rises ≤ 5 then 1000 else 10000) }

/-- RATE_UPDATE. -/
def execRateUpdate (peer port : Nat) (st : State) : Ans :=
  run (inDev peer && inPort port) (if (st.conv peer port).st = 0 then st else st.updConv peer port Convoy.rateStep)

/-! ## Ports (R304, R313; 23 R495) -/

/-- CVPORT.ENABLE of port k, where the clock allows Ethernet at all. -/
def State.portOn (s : State) (k : Nat) : Bool := bit32 (s.rw32 (0xA100 + 0x40 * k)) 3 && !s.boot.ssc

def State.portSet (s : State) (k v : Nat) : State := { s with cv := { s.cv with port := Tab.set s.cv.port k v } }

/-- A port goes down: its operations end as if their peers were lost. -/
def State.portDown (s : State) (k : Nat) : State := (s.portSet k 0).convsLost (fun _ port => port = k)

/-- ETHERNET_PORT_DOWN. -/
def execEthernetPortDown (port : Nat) (st : State) : Ans :=
  run (inPort port) (if Tab.get 0 st.cv.port port = 2 then st.portDown port else st)

/-- ETHERNET_LINK_UP: the link of an enabled port has trained. -/
def execEthernetLinkUp (port : Nat) (st : State) : Ans :=
  run (inPort port) (if st.portOn port ∧ st.boot.phase ≠ 0 then st.portSet port 2 else st)

/-! ## Neighbor Discovery and echo (R304) -/

/-- An ICMPv6 message leaves a port. -/
def State.icmpSend (s : State) (port dst type : Nat) (rest : List Byte) : State :=
  let src := s.ownAddr + port
  let head := toLE 1 type ++ toLE 1 0
  let sum := inetSum (pseudo 58 src dst (4 + rest.length) ++ head ++ toLE 2 0 ++ rest)
  s.send (.raw port (s.etherHead port ++ ipv6 58 src dst 0 0 (head ++ toBE 2 sum ++ rest)))

/-- A neighbour's address is learned. -/
def State.learn (s : State) (port : Nat) (a : BitVec 128) (m : BitVec 48) : State :=
  { s with cv := { s.cv with nbr := s.cv.nbr.filter (fun x => !(x.1 = port && x.2.1 = a)) ++ [(port, a, m)] } }

/-- NEIGHBOR_DISCOVERY: a solicitation for the port's address is answered with its MAC, and the sender learned; an advertisement is
learned (PRESUMED RFC 4861, log entry 37). -/
def execNeighborDiscovery (port : Nat) (ns : Bool) (target : BitVec 128) (src : BitVec 128) (mac : BitVec 48) (st : State) : Ans :=
  run (inPort port) (
    if !st.cvValid ∨ Tab.get 0 st.cv.port port ≠ 2 then st
    else if !ns then st.learn port target mac
    else if target.toNat ≠ st.ownAddr + port then st
    else
      let s := if src = 0 then st else st.learn port src mac
      s.icmpSend port (if src = 0 then 0xFF020000000000000000000000000001 else src.toNat) 136
        (toBE 4 (if src = 0 then 0x20000000 else 0x60000000) ++ toBE 16 target.toNat ++ toLE 1 2 ++ toLE 1 1 ++ toBE 6 (Config.mac port).toNat))

/-- ICMPV6_ECHO_REQUEST: an echo reply goes back. -/
def execIcmpv6EchoRequest (port : Nat) (dst src : BitVec 128) (ident seqno : BitVec 16) (data : List Byte) (st : State) : Ans :=
  run (inPort port) (
    if !st.cvValid ∨ Tab.get 0 st.cv.port port ≠ 2 ∨ dst.toNat ≠ st.ownAddr + port then st
    else st.icmpSend port src.toNat 129 (toBE 2 ident.toNat ++ toBE 2 seqno.toNat ++ data))

/-! ## Global registers and handles (R308, R324; 22 R470) -/

/-- A write to a global Caravan register: the service processors, and the host under SLD. With PAGE 0 the offset holds an event log entry,
which a write leaves as it is. -/
def State.cvTry (s : State) (q : Req) (off bytes : Nat) (ok : Bool) (f : State → State) : State :=
  s.setupTry q off bytes ((match q with | .ld _ => false | _ => true) && (!(s.reqSt q).page || ok)) (fun s => if (s.reqSt q).page then f s else s)

/-- PEERADDR. -/
def State.peerAddr (s : State) : BitVec 128 := BitVec.ofNat 128 ((s.rw64 0xA050).toNat + 2 ^ 64 * (s.rw64 0xA058).toNat)

/-- PEERCTL: the entry that PEERIDX names takes PEERADDR and PEERCTL; a VALID entry that changes loses its convoys. -/
def State.peerStore (s : State) (v : W32) : State :=
  let d := fld32 (s.rw32 0xA040) 0 16
  let s := s.setRw32 0xA060 (v &&& 0x1FF)
  let new : Peer := { own := s.peerAddr, ports := fld32 v 0 8, valid := bit32 v 8 }
  let old := s.peer d
  let s := if old.valid ∧ old ≠ new then s.convsLost (fun peer _ => peer = d) else s
  { s with cv := { s.cv with peer := Tab.set s.cv.peer d new } }

/-- PEERCTL_WRITE. -/
def execPeerctlWrite (q : Req) (v : W32) (st : State) : Ans := run (inReq q) (st.cvTry q 0xA060 4 true (fun s => s.peerStore v))

/-- PEERIDX: the entry is loaded into PEERADDR and PEERCTL. -/
def State.peerLoad (s : State) (v : W32) : State :=
  let x := s.peer (fld32 v 0 16)
  let s := (s.setRw32 0xA040 (v &&& 0xFFFF)).setRw32 0xA060 (BitVec.ofNat 32 (x.ports + 256 * ofBool x.valid))
  (s.setRw64 0xA050 (x.own.setWidth 64)).setRw64 0xA058 ((x.own >>> 64).setWidth 64)

/-- PEERIDX_WRITE. -/
def execPeeridxWrite (q : Req) (v : W32) (st : State) : Ans := run (inReq q) (st.cvTry q 0xA040 4 true (fun s => s.peerLoad v))

/-- The bits of a handle's dword that hold. -/
def handleMask (k : Nat) : W32 := if k = 3 then 0x0001FF07 else 0xFFFFFFFF

/-- A write to a handle resets its instance count; while an instance of it runs the write is refused. -/
def State.handleStore (s : State) (p h off size : Nat) (v : Word) : State :=
  let s := s.setRw32 (handleBase p h + off) (v.setWidth 32 &&& handleMask (off / 4))
  let s := if size = 8 then s.setRw32 (handleBase p h + off + 4) ((v >>> 32).setWidth 32 &&& handleMask (off / 4 + 1)) else s
  { s with cv := { s.cv with inst := Tab.del s.cv.inst (64 * p + h) } }

/-- HANDLE_WRITE. -/
def execHandleWrite (q : Req) (p h off size : Nat) (v : Word) (st : State) : Ans :=
  run (inReq q && inPitch p && inRing h) (
    st.setupTry q (handleBase p h + off) size
      (reqOwns q p && (size = 4 || size = 8) && off % size = 0 && decide (off + size ≤ 16) && !st.cv.coll.any (fun c => c.p = p && c.h = h))
      (fun s => s.handleStore p h off size v))

end Sys2Proof.Machine
end

