-- ==== Sys2Proof/Machine/ConfigSpace.lean ====
section
/-!
DEFINITION. Configuration space of the host port (02 R15, R22, R30; 17 R369).
-/
namespace Sys2Proof.Machine

/-! ## Configuration space (R15, R22, R30). What the standard lays out is laid out as it says; where each capability structure lies the part
says (log entry 31). Every capability that R15 does not list is absent. -/

/-- Dwords that software writes, by function and dword: reset values of Device Control and of the rest. -/
def State.cfgRw (s : State) (fn off : Nat) : W32 :=
  Tab.get (if off = Config.capBase 0 + 8 then 0x2810 else 0) s.port.cfg (1024 * fn + off / 4)

/-- A 64-bit non-prefetchable memory BAR of `n` bytes (R30): its low dword. -/
def barLow (v : W32) (n : Nat) : W32 := (v &&& BitVec.ofNat 32 (2 ^ 32 - n)) ||| 4

def State.barBytes (s : State) (i : Nat) : Nat :=
  match i with
  | 0 => 0x4000000
  | 1 => if s.port.mld then 0x1000 else 0x10000
  | _ => if s.port.mld then 0x40000 else 0x400000

/-- A dword of the type 0 header. -/
def State.cfgHeader (s : State) (fn off : Nat) : W32 :=
  let rw := s.cfgRw fn off
  match off with
  | 0x00 => Config.ident.setWidth 32
  | 0x04 => (rw &&& 2) ||| BitVec.ofNat 32 (4 * ofBool (!NSet.has s.port.bmeOff fn)) ||| 0x00100000
  | 0x08 => 0x05021000 ||| (s.freeWord.setWidth 32 &&& 0xFF)
  | 0x10 => barLow rw (s.barBytes 0)
  | 0x14 => rw
  | 0x18 => barLow rw (s.barBytes 1)
  | 0x1C => rw
  | 0x20 => barLow rw (s.barBytes 2)
  | 0x24 => rw
  | 0x2C => s.freeWord.setWidth 32
  | 0x34 => BitVec.ofNat 32 (Config.capBase 0 % 256)
  | 0x3C => rw &&& 0xFF
  | _ => 0

/-- PCI Express capability: 512 bytes of payload, FLR, x16 at 32 GT/s, ASPM L1 alone, 10-bit tags. -/
def State.cfgPcie (s : State) (fn x : Nat) : W32 :=
  let rw := s.cfgRw fn (Config.capBase 0 + x)
  match x with
  | 0x00 => BitVec.ofNat 32 (0x10 + 256 * (Config.capBase 1 % 256) + 0x20000)
  | 0x04 => 0x10008022 ||| (s.freeWord.setWidth 32 &&& 0xFC0)
  | 0x08 => rw &&& 0x7FFF
  | 0x0C => 0x00400905 ||| (s.freeWord.setWidth 32 &&& 0xFF03F000)
  | 0x10 => (rw &&& 0xFFFF) ||| BitVec.ofNat 32 (65536 * s.port.speed + 1048576 * s.port.width)
  | 0x24 => 0x30000
  | 0x28 => rw &&& 0xFFFF
  | 0x2C => 0x3E
  | _ => 0

/-- MSI-X capability (R32): table at BAR0 0xF0000, pending bits at 0xF8000. -/
def State.cfgMsix (s : State) (fn x : Nat) : W32 :=
  match x with
  | 0 => (s.cfgRw fn (Config.capBase 1) &&& 0xC0000000) ||| (if s.port.mld then 0x007F0011 else 0x07FF0011)
  | 4 => 0xF0000
  | 8 => 0xF8000
  | _ => 0

/-- CXL DVSEC (R22): CXL.io and CXL.mem, HDM_Count 2, the sizes of Range 1 and Range 2 and Memory_Active. -/
def State.cfgDvsec (s : State) (fn x : Nat) : W32 :=
  let act := 1 + 2 * ofBool s.port.memActive
  let low := fun (n : Nat) => BitVec.ofNat 32 (n / unit256 % 16 * unit256 + act)
  match x with
  | 0x00 => 0x00010023
  | 0x04 => 0x03801E98
  | 0x08 => 0x002E0000
  | 0x18 => BitVec.ofNat 32 (s.range1 fn / 2 ^ 32)
  | 0x1C => low (s.range1 fn)
  | 0x28 => BitVec.ofNat 32 (s.range2 fn / 2 ^ 32)
  | 0x2C => low (s.range2 fn)
  | _ => 0

/-- A dword of configuration space: the header, then the structures of PCI Express, MSI-X, AER, PTM (requester) and the CXL DVSEC. -/
def State.cfgDword (s : State) (fn off : Nat) : W32 :=
  let at_ := fun (i n : Nat) => decide (Config.capBase i ≤ off ∧ off < Config.capBase i + n)
  let rw := s.cfgRw fn off
  if off < 0x40 then s.cfgHeader fn off
  else if at_ 0 0x3C then s.cfgPcie fn (off - Config.capBase 0)
  else if at_ 1 12 then s.cfgMsix fn (off - Config.capBase 1)
  else if at_ 2 0x48 then (if off = Config.capBase 2 then BitVec.ofNat 32 (0x20001 + 1048576 * Config.capBase 3) else rw)
  else if at_ 3 12 then
    (if off = Config.capBase 3 then BitVec.ofNat 32 (0x1001F + 1048576 * Config.capBase 4)
     else if off = Config.capBase 3 + 4 then 1 else rw &&& 3)
  else if at_ 4 0x38 then s.cfgDvsec fn (off - Config.capBase 4)
  else 0

/-- A write: Bus Master Enable and a function level reset act (R15; 03 R83; 21 R454), other fields are stored. -/
def State.cfgWrite (s : State) (fn off : Nat) (v : W32) : State :=
  let t := { s with port := { s.port with cfg := Tab.set s.port.cfg (1024 * fn + off / 4) v } }
  if off = 4 then
    (if bit32 v 2 then (if NSet.has t.port.bmeOff fn then t.busMasterOn fn else t)
     else { t with port := { t.port with bmeOff := NSet.add t.port.bmeOff fn } })
  else if off = Config.capBase 0 + 8 ∧ bit32 v 15 then t.functionReset fn
  else t

/-- CONFIGURATION_REQUEST: a retry status until phase 2 ends, the request itself afterwards, a write of `wr` or a read (17 R369). -/
def execConfigurationRequest (fn off : Nat) (wr : Option W32) (st : State) : Ans :=
  let o := off % 4096 / 4 * 4
  run (inPitch fn)
    (if !st.boot.pwrgd then st
     else if st.boot.phase = 0 then { st with out := .crs }
     else if !st.isFn fn then { st with out := .ur }
     else match wr with
       | some v => { st.cfgWrite fn o v with out := .none }
       | none => { st with out := .reg ((st.cfgDword fn o).setWidth 64) }.used)

end Sys2Proof.Machine
end

