-- ==== Sys2Proof/Machine/Control.lean ====
section
/-!
DEFINITION. Branches and jumps (06 R130), special registers (R128), FENCE and SYNCG (R133), KEND (R58, R135), TRAP and ERET
(R141), reserved encodings (R131) and instruction fetch (R140).
-/
namespace Sys2Proof.Machine

/-- if RA cond RB: next = PC + 16 × OFF15. The wide half of the pair still follows. -/
def State.branch (s : State) (n k : Nat) (ra rb : BitVec 5) (off : BitVec 15) (c : Word → Word → Bool) : State :=
  s.scalar n k (fun t =>
    if c (t.gr ra.toNat) (t.gr rb.toNat) then s.scalarDone n k { t with flow := 2 } (t.pc + 16 * off.signExtend 64)
    else s.scalarDone n k { t with flow := 1 } (t.pc + 16))

/-- BEQ (R130). -/
def execBeq (s k : Nat) (ra rb : BitVec 5) (off : BitVec 15) (st : State) : Ans :=
  run (inStall s && inThread k) (st.branch s k ra rb off (fun a b => a == b))

/-- BNE (R130). -/
def execBne (s k : Nat) (ra rb : BitVec 5) (off : BitVec 15) (st : State) : Ans :=
  run (inStall s && inThread k) (st.branch s k ra rb off (fun a b => a != b))

/-- BLT (R130). -/
def execBlt (s k : Nat) (ra rb : BitVec 5) (off : BitVec 15) (st : State) : Ans :=
  run (inStall s && inThread k) (st.branch s k ra rb off (fun a b => a.slt b))

/-- BGE (R130). -/
def execBge (s k : Nat) (ra rb : BitVec 5) (off : BitVec 15) (st : State) : Ans :=
  run (inStall s && inThread k) (st.branch s k ra rb off (fun a b => !a.slt b))

/-- BLTU (R130). -/
def execBltu (s k : Nat) (ra rb : BitVec 5) (off : BitVec 15) (st : State) : Ans :=
  run (inStall s && inThread k) (st.branch s k ra rb off (fun a b => a.ult b))

/-- BGEU (R130). -/
def execBgeu (s k : Nat) (ra rb : BitVec 5) (off : BitVec 15) (st : State) : Ans :=
  run (inStall s && inThread k) (st.branch s k ra rb off (fun a b => !a.ult b))

/-- JAL: RD = PC + 16; next = PC + 16 × OFF20 (R130). -/
def execJal (s k : Nat) (rd : BitVec 5) (off : BitVec 20) (st : State) : Ans :=
  run (inStall s && inThread k) (st.scalar s k (fun t =>
    st.scalarDone s k (t.setG rd.toNat (t.pc + 16)) (t.pc + 16 * off.signExtend 64)))

/-- JALR: RD = PC + 16; next = RA + IMM15; a target with bits [3:0] not 0 raises ALIGN (R139). -/
def execJalr (s k : Nat) (rd ra : BitVec 5) (imm : BitVec 15) (st : State) : Ans :=
  run (inStall s && inThread k) (st.scalar s k (fun t =>
    let a := t.gr ra.toNat + imm.signExtend 64
    if a.toNat % 16 ≠ 0 then st.scalarExc s k cALIGN a
    else st.scalarDone s k { t.setG rd.toNat (t.pc + 16) with flow := 3 } a))

/-- TVALID: bit j set when tile j has a valid row (07). -/
def Stall.tvalid (st : Stall) : Nat :=
  (List.range 32).foldl (fun a j => if st.rows.any (fun e => e.1 / 32 = j) then a + 2 ^ j else a) 0

/-- How long in ns after a pair's issue the result of its MFS GTIME can arrive: 4 stall cycles and two crossings (10 R229). -/
def State.gtimeSpan (s : State) (n : Nat) : Nat := cdiv (7 * 40) (max (s.stall n).clk.cur 1) + 3

/-- The instant at which MFS GTIME of thread (n, k) samples its hall's copy: a free instant between issue and the arrival of the result
(10 R229), no earlier than that of the thread's last sample (R230). -/
def State.sampleAt (s : State) (n k : Nat) : Nat := max (s.thread n k).gts (s.time + s.freeBelow (s.gtimeSpan n + 1))

/-- GTIME: the hall copy at that instant. -/
def State.gtime (s : State) (n k : Nat) : Word := BitVec.ofNat 64 (s.copyTime (hallOf n) (s.sampleAt n k))

/-- Special register number r as thread k of stall n reads it (R128). -/
def State.special (s : State) (n k r : Nat) : Option Word :=
  let t := s.thread n k
  match r with
  | 0x000 => some t.pc
  | 0x001 => some (BitVec.ofNat 64 k)
  | 0x002 => some (BitVec.ofNat 64 n)
  | 0x003 => some (BitVec.ofNat 64 ((s.applied n).winOf n))
  | 0x004 => some (BitVec.ofNat 64 ((s.pitchOf n).getD 0))
  | 0x008 => some (BitVec.ofNat 64 (s.cycle n))
  | 0x009 => some (s.gtime n k)
  | 0x010 => some t.evec
  | 0x011 => some t.epc
  | 0x012 => some t.ecause
  | 0x013 => some t.eaddr
  | 0x014 => some t.estat
  | 0x015 => some t.escratch
  | 0x020 => some t.tstart
  | 0x021 => some t.batchcnt
  | 0x022 => some t.batchstr
  | 0x023 => some t.plist
  | 0x024 => some (BitVec.ofNat 64 (s.stall n).tvalid)
  | _ => none

/-- Write an RW special register (R128); reserved bits of ECAUSE and ESTAT are not stored. -/
def Thread.setSpecial (t : Thread) (r : Nat) (v : Word) : Option Thread :=
  match r with
  | 0x010 => some { t with evec := v }
  | 0x011 => some { t with epc := v }
  | 0x012 => some { t with ecause := v &&& 0xFF }
  | 0x013 => some { t with eaddr := v }
  | 0x014 => some { t with estat := v &&& 0xF }
  | 0x015 => some { t with escratch := v }
  | 0x020 => some { t with tstart := v }
  | 0x021 => some { t with batchcnt := v }
  | 0x022 => some { t with batchstr := v }
  | 0x023 => some { t with plist := v }
  | _ => none

/-- MFS: RD = special register IMM15[11:0]; RA must be 0 (R128). GTIME uses a free value. The table names IMM15[11:0] only; bits [14:12]
count as part of the register number, so that a value with one of them set names no register and raises ILLEGAL (DESIGN CHOICE, log entry 108). -/
def execMfs (s k : Nat) (rd ra : BitVec 5) (imm : BitVec 15) (st : State) : Ans :=
  run (inStall s && inThread k) (st.scalar s k (fun t =>
    match (if ra = 0 then st.special s k imm.toNat else none) with
    | some v =>
      (st.scalarDone s k { t.setG rd.toNat v with gts := if imm = 0x009 then st.sampleAt s k else t.gts } (t.pc + 16)).used
    | none => st.scalarExc s k cILLEGAL 0))

/-- MTS: special register IMM15[11:0] = RA; RD must be 0; an EVEC with bits [3:0] not 0 raises ALIGN (R128, R139). IMM15[14:12] as for MFS
(DESIGN CHOICE, log entry 108). -/
def execMts (s k : Nat) (rd ra : BitVec 5) (imm : BitVec 15) (st : State) : Ans :=
  run (inStall s && inThread k) (st.scalar s k (fun t =>
    let v := t.gr ra.toNat
    match (if rd = 0 then t.setSpecial imm.toNat v else none) with
    | none => st.scalarExc s k cILLEGAL 0
    | some t' =>
      if imm.toNat = 0x010 ∧ v.toNat % 16 ≠ 0 then st.scalarExc s k cALIGN v
      else st.scalarDone s k t' (t.pc + 16)))

/-- Discard the instruction buffer: every line no pair executed from counts in IDISCARD (R133, R140). -/
def State.dropBuffer (s : State) (n : Nat) : State :=
  (s.updStall n (fun st => { st with ibuf := [], ibPois := [] })).count n 1 ((s.stall n).ibuf.filter (fun l => !l.used)).length

/-- Whether accesses FENCE covers are still under way: posted signals (FN 1 and 2), porter transfers (FN 2). -/
def State.fencePending (s : State) (n k fn : Nat) : Bool :=
  (fn = 1 || fn = 2) && (s.thread n k).tsig ≠ 0 ||
    fn = 2 && [0, 1].any (fun i => let p : Porter := Tab.get {} (s.stall n).port i; p.busy && p.th = k)

/-- FENCE (R133): it takes effect once every earlier access of its class is complete; until then the pair waits. FN 3 discards
the instruction buffer. -/
def execFence (s k : Nat) (fn : BitVec 10) (st : State) : Ans :=
  run (inStall s && inThread k) (st.scalar s k (fun t =>
    if 4 ≤ fn.toNat then st.scalarExc s k cILLEGAL 0
    else if st.fencePending s k fn.toNat then st
    else if fn = 3 then (st.dropBuffer s).scalarDone s k t (t.pc + 16)
    else st.scalarDone s k t (t.pc + 16)))

/-- SYNCG: the thread blocks until every running thread has reached a SYNCG (R133). -/
def execSyncg (s k : Nat) (st : State) : Ans :=
  run (inStall s && inThread k) (st.scalar s k (fun t =>
    (st.setThread s k { t with st := .syncg, npc := t.pc + 16 }).syncRelease s))

/-- KEND: the thread goes off once its pair is done (R58, R130, R135). -/
def execKend (s k : Nat) (st : State) : Ans :=
  run (inStall s && inThread k) (st.scalar s k (fun t => st.scalarDone s k { t with ending := true } (t.pc + 16)))

/-- TRAP: raise TRAP with EADDR = IMM15 (R141). -/
def execTrap (s k : Nat) (imm : BitVec 15) (st : State) : Ans :=
  run (inStall s && inThread k) (st.scalar s k (fun _ => st.scalarExc s k cTRAP (imm.signExtend 64)))

/-- ERET: INHANDLER = 0 and the pair at EPC comes next, from its wide half when HALF is 1 (R141). -/
def execEret (s k : Nat) (st : State) : Ans :=
  run (inStall s && inThread k) (st.scalar s k (fun t =>
    st.scalarDone s k { t with estat := t.estat &&& 0xD, skip := bit t.estat 0, flow := 4 } t.epc))

/-- A reserved opcode or encoding in the half that comes next raises ILLEGAL (R131). -/
def execReservedOpcode (s k : Nat) (st : State) : Ans :=
  run (inStall s && inThread k)
    (if (st.thread s k).st = .run ∧ (st.thread s k).half ∧ (st.thread s k).stop = false then st.raiseExc s k cILLEGAL 0 true false false
     else st.scalar s k (fun _ => st.scalarExc s k cILLEGAL 0))

/-- The words of a line of stall space, 8 bytes each by address / 8, that cannot be read. -/
def State.badWords (s : State) (n : Nat) (line : Word) : List Nat :=
  ((List.range 32).map (fun w => 32 * line.toNat + w)).filter (fun w => (s.tgtFault (tgtOf n (8 * w)) 8).isSome)

/-- A line enters the instruction buffer, with its unreadable words marked; a full buffer gives up a line that a free value names. -/
def State.bufferLine (s : State) (n : Nat) (line : Word) : State :=
  let bad := s.badWords n line
  let s := (s.count n 0 1).updStall n (fun st =>
    { st with ibPois := bad.foldl NSet.add (NSet.delRange st.ibPois (32 * line.toNat) 32) })
  let b := (s.stall n).ibuf
  if b.length < 64 then s.updStall n (fun st => { st with ibuf := b ++ [⟨line, false⟩] })
  else
    let i := s.freeBelow b.length
    let lost := match b[i]? with
      | some l => !l.used
      | none => false
    let out := (b[i]?.map (fun l => l.line.toNat)).getD 0
    let s := s.used.updStall n (fun st => { st with ibuf := b.eraseIdx i ++ [⟨line, false⟩], ibPois := NSet.delRange st.ibPois (32 * out) 32 })
    if lost then s.count n 1 1 else s

/-- The next pair on the predicted path: a backward branch is taken, a forward one is not, JAL and JALR are followed; none where fetch-ahead
stops, at an address that is unmapped or that the partition fence refuses (R140). -/
def State.predicted (s : State) (n : Nat) (t : Thread) (pc : Word) : Option Word :=
  let tg := tgtOf n pc.toNat
  if s.fenceRefuses n tg || !s.mapped n tg || (s.tgtFault tg 4).isSome then none
  else
    let w := BitVec.ofNat 32 (leNat (s.tgtRead tg 4))
    let op := fld32 w 0 7
    if 0x20 ≤ op ∧ op ≤ 0x25 then
      let off : BitVec 15 := (w >>> 17).setWidth 15
      some (if off.msb then pc + 16 * off.signExtend 64 else pc + 16)
    else if op = 0x26 then some (pc + 16 * ((w >>> 12).setWidth 20 : BitVec 20).signExtend 64)
    else if op = 0x27 then some (t.gr (fld32 w 12 5) + ((w >>> 17).setWidth 15 : BitVec 15).signExtend 64)
    else some (pc + 16)

/-- The lines of the predicted path from `pc` on, in order, as far as `k` pairs go. -/
def State.pathLines (s : State) (n : Nat) (t : Thread) : Nat → Word → List Word
  | 0, pc => [pc / 256]
  | k + 1, pc =>
    match s.predicted n t pc with
    | some q => pc / 256 :: s.pathLines n t k q
    | none => [pc / 256]

/-- A line that fetch may run ahead to: one of the next two on the predicted path (R140). -/
def State.aheadLine (s : State) (n : Nat) (t : Thread) (line : Word) : Bool :=
  (((s.pathLines n t 48 t.pc).eraseDups.filter (fun l => l ≠ t.pc / 256)).take 2).contains line

/-- Fetch of line `line` (stall-space address / 256) for thread k: for its current pair, whose exceptions it raises with FETCH,
or ahead of it, which requests nothing at an unmapped or fenced address and raises nothing (R140). -/
def State.fetchLine (s : State) (n k : Nat) (line : Word) : State :=
  let t := s.thread n k
  let a := line.toNat * 256
  let tg := tgtOf n a
  let cur := decide (t.pc / 256 = line)
  if t.st = .off ∨ (s.stall n).ibuf.any (fun l => l.line = line) then s
  else if !cur then (if s.fenceRefuses n tg || !s.mapped n tg || !s.aheadLine n t line then s else s.bufferLine n line)
  else if t.st ≠ .run ∨ t.half then s
  else if t.pc.toNat % 16 ≠ 0 then s.raiseExc n k cALIGN t.pc false true false
  else
    let r := s.stallRead n 0 k t.pc.toNat 16
    match r.exc with
    | some (c, e) => (if c = cDATA then r.s.bufferLine n line else r.s).raiseExc n k c (BitVec.ofNat 64 e) false true false
    | none => r.s.bufferLine n line

/-- INSTRUCTION_FETCH (R140). -/
def execInstructionFetch (s k : Nat) (line : Word) (st : State) : Ans :=
  run (inStall s && inThread k) (st.fetchLine s k line)

end Sys2Proof.Machine
end

