-- ==== Sys2Proof/Machine/Matrix.lean ====
section
/-!
DEFINITION. The matrix array and the hawker path (07 R158 to R173): the four group-synchronous instructions, a row pass, a hawker
step, the end of an operation, and the power and cold states of the engines (15 R328).
-/
namespace Sys2Proof.Machine

/-- MWLD (R162). -/
def execMwld (s k : Nat) (w : WF) (st : State) : Ans := run (inStall s && inThread k) (st.groupOp s k .mwld w)

/-- MSTRM (R163). -/
def execMstrm (s k : Nat) (w : WF) (st : State) : Ans := run (inStall s && inThread k) (st.groupOp s k .mstrm w)

/-- MFILL (R164). -/
def execMfill (s k : Nat) (w : WF) (st : State) : Ans := run (inStall s && inThread k) (st.groupOp s k .mfill w)

/-- HMV (R172). -/
def execHmv (s k : Nat) (w : WF) (st : State) : Ans := run (inStall s && inThread k) (st.groupOp s k .hmv w)

/-! ## Values of a row (R149, R158, R159) -/

/-- The factor of an E8M0 scale byte on a value; 0xFF is NaN. -/
def scaleBy (e : Nat) (v : FV) : FV := if e = 255 then .nan else v.scale ((e : Int) - 127)

/-- The values of a row's elements, each with its block's scale. -/
def rowVals (a : AFmt) (r : Nat) (bytes : Nat) (scales : List Nat) : List FV :=
  (List.range (8 * bytes / a.w)).map (fun i =>
    let x := bitsOf r (a.w * i) a.w
    match a.fp with
    | some f => if a.scaled then scaleBy (scales.getD (i / 32) 127) (f.dec x) else f.dec x
    | none => let v := sint8 x; .fin (decide (v < 0)) v.natAbs 0)
where
  sint8 (x : Nat) : Int := if x < 128 then (x : Int) else (x : Int) - 256

/-- The exact sum of products of two rows. -/
def dot (x y : List FV) : Acc := (x.zip y).foldl (fun a p => a.add (p.1.mul p.2)) {}

/-- An element of a pass: the exact sum rounded once to fp32, or the int32 sum (R159). -/
def dotWord (int : Bool) (x y : List FV) : W32 :=
  let a := dot x y
  if int then BitVec.ofInt 32 (if 0 ≤ a.e then a.m * 2 ^ a.e.toNat else 0) else a.fp32

/-- What ACC makes of the old and the new (R159). -/
def accWord (int : Bool) (old new : W32) : W32 := if int then old + new else add32 old new

/-- One step of the stochastic generator (R161). -/
def genStep (g : W32) : W32 := if g.getLsbD 31 then (g <<< 1) ^^^ 0x00400007 else g <<< 1

/-- Convert the elements of an output row, the generator stepping once each under RND 2 (R160, R161). -/
def convRow (f : Fmt) (rnd : Nat) (g : W32) : List W32 → W32 × List Nat
  | [] => (g, [])
  | x :: l =>
    let g' := if rnd = 2 then genStep g else g
    let r := if rnd = 0 then Rnd.even else if rnd = 1 then Rnd.zero else Rnd.stoch (g'.toNat % 65536)
    let t := convRow f rnd g' l
    (t.1, f.enc r (Fmt.fp32.dec x.toNat) :: t.2)

def packEls (w : Nat) (l : List Nat) : Nat := l.foldr (fun x a => x % 2 ^ w + 2 ^ w * a) 0

/-- The 16 words of a tile row. -/
def rowWords (r : Row) : List W32 := (List.range 16).map (fun i => BitVec.ofNat 32 (bitsOf r.toNat (32 * i) 32))

def wordsRow (l : List W32) : Row := BitVec.ofNat 512 (packEls 32 (l.map BitVec.toNat))

/-! ## A row pass (R163 to R166) -/

def rampLen (st : Stall) : Nat := 8 * fld32 st.arraycfg 0 4

/-- The ramp's least distance between passes in phase j. -/
def rampGap (j : Nat) : Nat := [8, 4, 3, 2].getD j 2

/-- Cold under R166. -/
def ArraySt.isCold (a : ArraySt) (cyc : Nat) : Bool :=
  a.cold || (match a.last with | some l => decide (l + 64 ≤ cyc) | none => true)

def ownShelf (a : Nat) : Bool := decide (0x100000000 ≤ a ∧ a < 0x200000000)

/-- Whether a pass over the iteration that begins at address `at_` may start at a cycle (R165, R166). -/
def Stall.passAt (st : Stall) (o : WOp) (at_ : Word) (cyc : Nat) : Bool :=
  let a := st.arr
  let first := if o.op = .mfill ∨ o.f.fmt = 4 then 32 else if ownShelf at_.toNat then 8 else 0
  decide (o.issue + first ≤ cyc) &&
  (match a.last with
   | none => true
   | some l =>
     decide (l + 2 ≤ cyc) &&
     (a.isCold cyc ||
      (match a.ramp with
       | none => true
       | some r => decide (r + rampLen st ≤ cyc) || decide (l + rampGap ((cyc - r) / (rampLen st / 4)) ≤ cyc))))

/-- A pass has started. -/
def Stall.passed (st : Stall) (cyc : Nat) : Stall :=
  let cold := st.arr.isCold cyc
  { st with arr := { st.arr with cold := false, last := some cyc, ramp := if cold then some cyc else st.arr.ramp } }

/-- The next row, then the next iteration; past the last one the operation has done its rows. -/
def WOp.advance (o : WOp) (count : Nat) : WOp :=
  if o.row + 1 < o.f.rows.toNat then { o with row := o.row + 1, blk := 0, acc := [] }
  else { o with row := 0, iter := o.iter + 1, blk := 0, acc := [], base := none, done := decide (count ≤ o.iter + 1) }

/-- An iteration left out (R182). -/
def WOp.skip (o : WOp) (count : Nat) : WOp :=
  { o with row := 0, iter := o.iter + 1, blk := 0, acc := [], base := none, done := decide (count ≤ o.iter + 1) }

def WOp.regs (o : WOp) : LoopRegs := ⟨o.ga, o.gs, o.cnt, o.str, o.plist⟩

def WOp.count (o : WOp) : Nat := (o.regs.count o.f.loop).getD 1

def State.setWop (s : State) (n : Nat) (o : WOp) : State := s.updStall n (fun st => { st with wop := some o })

/-- What a read for an operation gave. -/
structure Got where
  s : State
  d : Nat
  sc : List Nat
  exc : Option (Nat × Nat)

/-- Input row of a pass: 64 bytes in memory and the scale bytes after them, or a row of TA and of its scale tile. -/
def State.passInput (s : State) (n : Nat) (o : WOp) (a : Word) : Got :=
  let k := o.parts.headD 0
  let st := s.stall n
  if o.op = .mfill then
    let t := o.f.ta.toNat
    if st.rowBad t o.row ∨ (o.f.fmt = 4 ∧ st.rowBad (t + 1) o.row) then ⟨s.rowReport n, 0, [], some (cDATA, 0)⟩
    else ⟨s, (st.row t o.row).toNat, scaleBytes (st.row (t + 1) o.row).toNat, none⟩
  else
    let a := (a + BitVec.ofNat 64 o.row * o.gs).toNat
    let r := s.stallRead n 0 k a 64 o.f.hint.toNat
    match r.exc with
    | some e => ⟨r.s, 0, [], some e⟩
    | none =>
      if o.f.fmt = 4 then
        let q := r.s.stallRead n 0 k ((a + 64) % 2 ^ 64) 4 o.f.hint.toNat
        ⟨q.s, leNat r.d, scaleBytes (leNat q.d), q.exc⟩
      else ⟨r.s, leNat r.d, [], none⟩

/-- Bytes of an output row and its shelf offset (R163). -/
def outBytes (out : Nat) : Nat := if out = 0 then 128 else if out = 1 then 64 else 32
def WOp.shelfOff (o : WOp) : Nat :=
  (o.f.imm8.toNat * 0x2000 + (o.iter * o.f.rows.toNat + o.row) * outBytes (bitsOf o.f.sub.toNat 0 3)) % 2097152

def WOp.toShelf (o : WOp) : Bool := o.op = .mstrm && bitsOf o.f.sub.toNat 3 1 = 1
def WOp.out (o : WOp) : Nat := if o.op = .mstrm then bitsOf o.f.sub.toNat 0 3 else 0

/-- The 32 words found at the destination row, for ACC. -/
def State.passOld (s : State) (n : Nat) (o : WOp) : State × List W32 × Option (Nat × Nat) :=
  let st := s.stall n
  if !o.f.acc then (s, List.replicate 32 0, none)
  else if o.toShelf then
    let r := s.stallRead n 0 (o.parts.headD 0) (0x100000000 + o.shelfOff) 128
    (r.s, (List.range 32).map (fun i => BitVec.ofNat 32 (leAt r.d (4 * i) 4)), r.exc)
  else
    let t := o.f.td.toNat
    if st.rowBad t o.row ∨ st.rowBad (t + 1) o.row then (s.rowReport n, [], some (cDATA, 0))
    else (s, rowWords (st.row t o.row) ++ rowWords (st.row (t + 1) o.row), none)

/-- The 32 sums of a pass over input `x` (R159). -/
def Stall.passSums (st : Stall) (scales : List (List Nat)) (fmt : Nat) (x : Nat) (xs : List Nat) : List W32 :=
  match aIn fmt, aWt fmt with
  | some fi, some fw =>
    let xv := rowVals fi x 64 xs
    (List.range 32).map (fun r =>
      dotWord fi.fp.isNone xv (rowVals fw (Tab.get 0 st.arr.img r).toNat 64 (scales.getD r [])))
  | _, _ => []

/-- Write an output row: the words themselves, or converted under RND (R160, R161, R163). -/
def State.passWrite (s : State) (n : Nat) (o : WOp) (l : List W32) : State :=
  let c : W32 × List Nat := match o.out with
    | 0 => ((s.stall n).arr.gen, l.map BitVec.toNat)
    | 1 => convRow .bf16 o.f.rnd.toNat (s.stall n).arr.gen l
    | 2 => convRow .e4m3 o.f.rnd.toNat (s.stall n).arr.gen l
    | _ => convRow .e5m2 o.f.rnd.toNat (s.stall n).arr.gen l
  let s := s.updStall n (fun st => { st with arr := { st.arr with gen := c.1 } })
  let b := outBytes o.out
  let v := packEls (8 * b / 32) c.2
  let t := o.f.td.toNat
  if o.toShelf then s.wrShelf n o.shelfOff (toLE b v)
  else if o.out = 0 then (s.setRow n t o.row (BitVec.ofNat 512 v)).setRow n (t + 1) o.row (BitVec.ofNat 512 (v / 2 ^ 512))
  else s.setRow n t o.row (BitVec.ofNat 512 v)

/-- The base of the iteration in progress, read once, when the iteration starts or is resumed (R182, R183). -/
def State.wopBase (s : State) (n : Nat) (o : WOp) : State × Base :=
  match o.base with
  | some v => (s, .at_ v)
  | none => s.loopBase n (o.parts.headD 0) o.regs o.f.loop o.iter

/-- A row pass over the iteration that begins at `v` (R159 to R166). -/
def State.passRow (s : State) (n cyc : Nat) (o : WOp) (v : Word) : State :=
  let a := v + wOff o.f
  let x := s.passInput n o a
  match x.exc with
  | some (c, e) => x.s.wopExc n o c e
  | none =>
    let y := x.s.passOld n o
    match y.2.2 with
    | some (c, e) => y.1.wopExc n o c e
    | none =>
      let fmt := o.f.fmt.toNat
      let l := (y.1.stall n).passSums o.scales fmt x.d x.sc
      let l := if o.f.acc then (y.2.1.zip l).map (fun p => accWord (fmt = 6) p.1 p.2) else l
      (((y.1.passWrite n o l).updStall n (fun st => st.passed cyc)).setWop n ({ o with base := some v }.advance o.count)).count n 3 1

/-- A row pass of the operation in progress (R159 to R166, R170, R182). -/
def State.pass (s : State) (n cyc : Nat) : State :=
  match (s.stall n).wop with
  | none => s
  | some o =>
    if o.done ∨ o.op = .hmv then s
    else
      let b := if o.op = .mfill then (s, Base.at_ 0) else s.wopBase n o
      match b.2 with
      | .skip => b.1.setWop n (o.skip o.count)
      | .exc c a => b.1.wopExc n o c a
      | .at_ v =>
        if o.op = .mstrm ∧ (v + wOff o.f).toNat % 64 ≠ 0 then b.1.wopExc n { o with row := 0 } cALIGN (v + wOff o.f).toNat
        else if !(s.stall n).passAt o (v + wOff o.f) cyc then s
        else b.1.passRow n cyc o v

/-- ARRAY_PASS at a stall cycle (R165). -/
def execArrayPass (s cyc : Nat) (st : State) : Ans := run (inStall s) (st.pass s cyc)

/-! ## The hawker path (R172, R173) -/

/-- Bytes of a block of 32 weights. -/
def AFmt.blockBytes (a : AFmt) : Nat := 4 * a.w

/-- Block b of vector v: 32 bf16 elements of tile TA + v. -/
def Stall.vecBlock (st : Stall) (t b : Nat) : List FV := rowVals { w := 16, fp := some .bf16 } (st.row t b).toNat 64 []

/-- An output element of HMV (R172, R184). A bad word is good again once both its elements are written. -/
def State.hmvOut (s : State) (n : Nat) (o : WOp) (v : Nat) (x : W32) : State :=
  let e := o.iter * o.f.rows.toNat + o.row
  let t := o.f.td.toNat + v
  let l := rowWords ((s.stall n).row t (e / 16))
  let y := if o.f.acc then add32 (l.getD (e % 16) 0) x else x
  let w := 8 * rowKey t (e / 16) + e % 16 / 2
  s.updStall n (fun st => { st with
    rows := Tab.set st.rows (rowKey t (e / 16)) (wordsRow (l.set (e % 16) y)),
    rowPois := if e % 2 = 1 then NSet.del st.rowPois w else st.rowPois })

/-- An element that is added to lies in a bad word. -/
def State.hmvOutBad (s : State) (n : Nat) (o : WOp) : Bool :=
  let e := o.iter * o.f.rows.toNat + o.row
  o.f.acc && (List.range (o.f.sub.toNat + 1)).any (fun v =>
    NSet.has (s.stall n).rowPois (8 * rowKey (o.f.td.toNat + v) (e / 16) + e % 16 / 2))

/-- The block of 32 weights that comes next in the iteration that begins at `v`, applied to every vector. -/
def State.hmvRun (s : State) (n : Nat) (o : WOp) (f : AFmt) (v : Word) : State :=
  let k := o.parts.headD 0
  let h := o.f.hint.toNat
  let base := (v + wOff o.f + BitVec.ofNat 64 o.row * o.gs).toNat
  let r := s.stallRead n 0 k ((base + o.blk * f.blockBytes) % 2 ^ 64) f.blockBytes h
  match r.exc with
  | some (c, e) => r.s.wopExc n o c e
  | none =>
    let q := if f.scaled then r.s.stallRead n 0 k ((base + o.f.imm8.toNat * f.blockBytes + o.blk) % 2 ^ 64) 1 h else ⟨r.s, [], none⟩
    match q.exc with
    | some (c, e) => q.s.wopExc n o c e
    | none =>
      if q.s.hmvOutBad n o then (q.s.rowReport n).wopExc n o cDATA 0
      else
        let wv := rowVals f (leNat r.d) f.blockBytes [leNat q.d]
        let nv := o.f.sub.toNat + 1
        let o := { o with base := some v }
        let acc := (List.range nv).map (fun v =>
          add32 (o.acc.getD v 0) (dotWord false ((q.s.stall n).vecBlock (o.f.ta.toNat + v) o.blk) wv))
        if o.blk + 1 < o.f.imm8.toNat then q.s.setWop n { o with blk := o.blk + 1, acc := acc }
        else ((List.range nv).foldl (fun s v => s.hmvOut n o v (acc.getD v 0)) q.s).setWop n (o.advance o.count)

/-- The block of 32 weights that comes next; iterations left out take no turn (R173, R182). -/
def State.hmvBlock (s : State) (n : Nat) : Nat → State
  | 0 => s
  | fuel + 1 =>
    match (s.stall n).wop with
    | none => s
    | some o =>
      match aIn o.f.fmt.toNat with
      | none => s
      | some f =>
        if o.done ∨ o.op ≠ .hmv then s
        else
          let b := s.wopBase n o
          match b.2 with
          | .skip => (b.1.setWop n (o.skip o.count)).hmvBlock n fuel
          | .exc c a => b.1.wopExc n o c a
          | .at_ v =>
            if (v + wOff o.f).toNat % 64 ≠ 0 then b.1.wopExc n { o with row := 0 } cALIGN (v + wOff o.f).toNat
            else b.1.hmvRun n o f v

/-- A step takes 256 weights of the stream (R173). -/
def State.hawkStep (s : State) (n : Nat) : State :=
  match (s.stall n).wop with
  | some o =>
    if o.op = .hmv ∧ !o.done then ((List.range 8).foldl (fun s _ => s.hmvBlock n (o.count + 1)) s).count n 4 1 else s
  | none => s

/-- HAWKER_STEP (R173). -/
def execHawkerStep (s : Nat) (st : State) : Ans := run (inStall s) (st.hawkStep s)

/-- The operation has finished: TSTART becomes 0 in every participant and their pairs retire (R170). -/
def State.wopFinish (s : State) (n : Nat) : State :=
  match (s.stall n).wop with
  | some o =>
    if o.done then
      let s := s.updStall n (fun st => { st with wop := none, hawkEnd := if o.op = .hmv then s.time else st.hawkEnd })
      ((s.tstartAll n o.parts 0).selOp n o 0).retireAll n o.parts
    else s
  | none => s

/-- WIDE_OP_FINISH (R170). -/
def execWideOpFinish (s : Nat) (st : State) : Ans := run (inStall s) (st.wopFinish s)

/-- ARRAY_COLD: no pass for 64 stall cycles (R166). -/
def execArrayCold (s : Nat) (st : State) : Ans :=
  run (inStall s) (st.updStall s (fun x => { x with arr := { x.arr with cold := true } }))

/-- HAWKER_POWER_DOWN: 10 µs after the last HMV ended (15 R328). -/
def execHawkerPowerDown (s : Nat) (st : State) : Ans :=
  run (inStall s) (if (st.stall s).wop.any (fun o => o.op = .hmv) then st
    else st.updStall s (fun x => { x with hawkOn := false }))

end Sys2Proof.Machine
end

