-- ==== Sys2Proof/Machine/Context.lean ====
section
/-!
DEFINITION. Preemption, halt, the context save and its restore (06 R143 to R147, 07 R178, 15 R328, R329).
-/
namespace Sys2Proof.Machine

/-! ## Stop points (R143) -/

/-- The operation in progress stops at its next row boundary: a weight row already started is finished first (R170). -/
def State.wopStop (s : State) (n : Nat) : State :=
  let s := (List.range 32).foldl (fun s _ =>
    if (s.stall n).wop.any (fun o => o.op = .hmv && !o.done && o.blk ≠ 0) then s.hmvBlock n 1 else s) s
  match (s.stall n).wop with
  | none => s
  | some o =>
    if o.done then s.wopFinish n
    else
      let s := ((s.updStall n (fun st => { st with wop := none })).tstartAll n o.parts (tstartOf o.iter o.row)).selOp n o 1
      o.parts.foldl (fun s k => (s.updThread n k (fun t => { t with st := .run, half := true, gop := none })).atStop n k) s

/-- A thread on its way to its stop point: waits of a tally watch, the group or SYNCG are withdrawn, a wait for a porter stops at the
wide half, a thread between pairs stops at once (R143; log entry 19). -/
def State.threadStop (s : State) (n k : Nat) : State :=
  let t := s.thread n k
  let withdraw := fun (s : State) => (s.setThread n k { t with st := .run, half := false, waited := true, gop := none }).atStop n k
  match t.st with
  | .off => s
  | .run => if t.half then s else s.atStop n k
  | .tally =>
    if s.tally.watches.any (fun w => w.owner = TOwner.thread n k) then
      withdraw { s with tally := { s.tally with watches := s.tally.watches.filter (fun w => w.owner ≠ TOwner.thread n k) } }
    else s.waitsWithdraw (fun o => o = TOwner.thread n k) 0x12
  | .group => withdraw s
  | .syncg => withdraw s
  | .pwait => (s.setThread n k { t with st := .run, half := true }).atStop n k

/-- A PREEMPT request (R143). -/
def State.preemptStall (s : State) (n slot : Nat) : State :=
  let b := stallBase n + 8
  let s := s.setRw32 b (BitVec.ofNat 32 (8 * (slot % 2)))
  if (s.stall n).halting then s
  else
    let s := s.updStall n (fun st => { st with saving := true, saved := false })
    let s := s.wopStop n
    let s := threads4.foldl (fun s k => s.threadStop n k) s
    (s.porterStop n 0).porterStop n 1

/-- A HALT request (R144): the threads stop as for a preemption, at a pair boundary, then everything is discarded; over a preemption under
way it takes effect. -/
def State.haltStall (s : State) (n : Nat) : State :=
  let s := s.updStall n (fun st => { st with saving := false, halting := true })
  let s := s.wopStop n
  (threads4.foldl (fun s k => s.threadStop n k) s).haltCheck n

/-- STALLCTL takes writes only from the service processors (R147). -/
def State.spOnly (s : State) (q : Req) (n : Nat) (f : State → State) : State := s.stallTry q n 8 4 (reqIsSp q) f

/-- PREEMPT (R143): SLOT is written with it. -/
def execPreempt (q : Req) (s slot : Nat) (st : State) : Ans :=
  run (inReq q && inStall s && inTwo slot) (st.spOnly q s (fun t => t.preemptStall s slot))

/-- HALT (R144). -/
def execHaltStall (q : Req) (s : Nat) (st : State) : Ans :=
  run (inReq q && inStall s) (st.spOnly q s (fun t => t.haltStall s))

/-! ## The save (R145, R178) -/

/-- First byte of a save slot as a stack address. -/
def slotAddr (n slot : Nat) : Nat := unit256 * n + 0x0FF30000 + 0x20000 * slot

/-- A thread block. -/
def threadBlock (t : Thread) : List Byte :=
  (List.range 31).flatMap (fun i => toLE 8 (t.gr (i + 1)).toNat) ++ toLE 8 t.pc.toNat ++ toLE 8 t.epc.toNat ++ toLE 8 t.eaddr.toNat ++
    toLE 8 (fld t.ecause 0 8 + 256 * fld t.estat 0 4) ++ toLE 8 t.evec.toNat ++ toLE 8 t.escratch.toNat ++ toLE 8 t.tstart.toNat ++
    toLE 8 t.batchcnt.toNat ++ toLE 8 t.batchstr.toNat ++ toLE 8 t.plist.toNat ++ toLE 8 (ofBool t.half + 2 * ofBool t.waited) ++ zeros 48

/-- A porter record. -/
def porterRec (p : Porter) : List Byte :=
  if p.busy then
    toLE 8 p.src.toNat ++ toLE 8 p.dst.toNat ++ toLE 8 p.len ++ toLE 8 p.tally.toNat ++ toLE 1 1 ++ zeros 31
  else zeros 64

/-- The stall block: porter records and the array settings. -/
def stallBlock (st : Stall) : List Byte :=
  porterRec (st.porter 0) ++ porterRec (st.porter 1) ++
    toLE 1 st.arr.wfmt ++ toLE 1 st.arr.scale ++ zeros 2 ++ toLE 4 st.arr.gen.toNat ++ zeros 56 ++ zeros 64

def imageBytes (st : Stall) : List Byte :=
  (List.range 32).flatMap (fun r => if st.arr.loaded then rowBytes (Tab.get 0 st.arr.img r) else zeros 64)

/-- The non-empty tiles in ascending order. -/
def Stall.tiles (st : Stall) : List Nat := (List.range 32).filter (fun j => st.rows.any (fun e => e.1 / 32 = j))

/-- Offsets 0x40 to the end. -/
def saveBody (st : Stall) : List Byte :=
  threads4.flatMap (fun k => threadBlock (st.thread k)) ++ zeros 192 ++ stallBlock st ++ imageBytes st ++
    st.tiles.flatMap (fun j => (List.range 32).flatMap (fun r => rowBytes (st.row j r)))

def bitsWhere (f : Nat → Bool) (l : List Nat) : Nat := l.foldl (fun a k => if f k then a + 2 ^ k else a) 0

/-- The whole save with its header. -/
def State.saveBytes (s : State) (n : Nat) : List Byte :=
  let st := s.stall n
  let body := saveBody st
  toLE 2 1 ++ toLE 1 n ++ toLE 1 ((s.pitchOf n).getD 0) ++
    toLE 1 (bitsWhere (fun k => (st.thread k).st ≠ .off) threads4 + 16 * bitsWhere (fun k => (st.thread k).kended) threads4) ++
    toLE 1 (ofBool st.arr.loaded) ++ toLE 2 0 ++ toLE 4 (bitsWhere (fun _ => true) st.tiles) ++ toLE 4 (64 + body.length) ++
    toLE 8 (s.copyTime (hallOf n) s.time) ++ toLE 4 st.gen.toNat ++ toLE 4 (crc32 body).toNat ++ zeros 32 ++ body

/-- Signals that the threads of stall n posted are still theirs as its context is saved (09 R198, R199, R207): they are owned by the parked
context until it is restored. -/
def State.parkOps (s : State) (n : Nat) : State :=
  (s.orphan (fun o => match o with
    | .parked m _ => m = n
    | .porter m _ _ => m = n
    | _ => false)).reown (fun o => match o with
    | .thread m k => if m = n then .parked m k else o
    | _ => o)

/-- A stall whose context has been saved: idle, SAVED, its work item parked (R143). -/
def Stall.savedOut (st : Stall) : Stall :=
  { st with
    th := [], rows := [], rowPois := [], wop := none, port := [], saving := false, saved := true, parked := st.work, hawkOn := false,
    arr := { st.arr with loaded := false, img := [], on := false } }

/-- The save is written; SAVED is set and the stall is idle; its work item waits for a restore (R143, R328). -/
def State.saveDone (s : State) (n : Nat) : State :=
  if (s.stall n).saving ∧ (s.stall n).stopped then
    let t := (s.wrSlice (slotAddr n (fld32 (s.rw32 (stallBase n + 8)) 3 1)) (s.saveBytes n)).s
    (((t.used.selEvent n 3).parkOps n).updStall n Stall.savedOut).boundary n
  else s

/-- CONTEXT_SAVE_DONE (R143, R145). -/
def execContextSaveDone (s : Nat) (st : State) : Ans := run (inStall s) (st.saveDone s)

/-! ## The restore (R146) -/

/-- The 8 bytes at an offset of a list as a word. -/
def wordAt (l : List Byte) (off : Nat) : Word := BitVec.ofNat 64 (leAt l off 8)

/-- A thread from its block. With SKIPS it goes on at PC + 16 after its wide half, as the block holds no other PC (DESIGN CHOICE, log entry
106). -/
def threadOf (l : List Byte) (run kended : Bool) : Thread :=
  let es := wordAt l 0x110
  let f := wordAt l 0x148
  { st := if run then .run else .off, kended := kended, half := run && bit f 0, pc := wordAt l 0xF8, npc := wordAt l 0xF8 + 16,
    g := (List.range 31).foldl (fun g i => Tab.set g (i + 1) (wordAt l (8 * i))) [],
    epc := wordAt l 0x100, eaddr := wordAt l 0x108, ecause := BitVec.ofNat 64 (fld es 0 8), estat := BitVec.ofNat 64 (fld es 8 4),
    evec := wordAt l 0x118, escratch := wordAt l 0x120, tstart := wordAt l 0x128, batchcnt := wordAt l 0x130, batchstr := wordAt l 0x138,
    plist := wordAt l 0x140, waited := bit f 1 }

/-- A porter from its record; the record names no thread and no hint (log entry 20). -/
def porterFrom (l : List Byte) (th : Nat) : Porter :=
  { busy := bitsOf (leAt l 32 1) 0 1 = 1, src := wordAt l 0, dst := wordAt l 8, len := leAt l 16 8, tally := wordAt l 24, th := th }

/-- The refused restores of R146. -/
def State.restoreBad (s : State) (n slot : Nat) (h body : List Byte) : Bool :=
  leAt h 0 2 ≠ 1 || (s.sliceFault (slotAddr n slot) (64 + body.length)).isSome || (crc32 body).toNat ≠ leAt h 0x1C 4 ||
    s.pitchOf n ≠ some (leAt h 3 1) || !(s.stall n).idle

/-- A RESTORE request (R146, R329). One that succeeds clears SAVED (DESIGN CHOICE, log entry 107). -/
def State.restoreStall (s : State) (n slot : Nat) : State :=
  let s := s.setRw32 (stallBase n + 8) (BitVec.ofNat 32 (8 * (slot % 2)))
  let a := slotAddr n (slot % 2)
  let h := Mem.rdBytes s.mem.slice a 64
  let body := Mem.rdBytes s.mem.slice (a + 64) (leAt h 12 4 % 0x20000 - 64)
  if s.restoreBad n (slot % 2) h body then s.updStall n (fun st => { st with restoreErr := true })
  else
    let b := fun off len => (body.drop (off - 64)).take len
    let run := leAt h 4 1
    let tiles := (List.range 32).filter (fun j => bitsOf (leAt h 8 4) j 1 = 1)
    let loaded := bitsOf (leAt h 5 1) 0 1 = 1
    let src := leAt h 2 1
    let rows : Tab Row := (tiles.zipIdx.flatMap (fun e =>
      (List.range 32).map (fun r => (rowKey e.1 r, rowOf (b (0x1000 + 0x800 * e.2 + 64 * r) 64)))))
    let th := fun (s : State) => threads4.map (fun k => (k, { threadOf (b (0x40 + 0x180 * k) 0x180) (bitsOf run k 1 = 1) (bitsOf run (4 + k) 1 = 1) with tsig := s.posted (.thread n k) }))
    let img := (List.range 32).foldl (fun m r =>
      let v := rowOf (b (0x800 + 64 * r) 64)
      if v = 0 then m else Tab.set m r v) ([] : Tab Row)
    let sb := b 0x700 256
    let f := s.freeBelow 4
    let work := (s.stall src).parked
    let s := (s.used.updStall src (fun st => { st with parked := none })).reown (fun o => match o with
      | .parked m k => if m = src then .thread n k else o
      | _ => o)
    let s := match work with
      | some (.item p r seq) => s.updItem p r seq (fun i => { i with stalls := i.stalls.map (fun x => if x = src then n else x) })
      | _ => s
    let s := s.updStall n (fun st => { st with
      th := th s, rows := rows, rowPois := [], work := work, restoreErr := false, saved := false,
      port := [(0, porterFrom (sb.take 64) f), (1, porterFrom ((sb.drop 64).take 64) f)],
      arr := { st.arr with
        loaded := loaded, img := if loaded then img else [], wfmt := leAt sb 0x80 1, scale := leAt sb 0x81 1,
        gen := BitVec.ofNat 32 (leAt sb 0x84 4), on := loaded, cold := true } })
    threads4.foldl (fun s k => if (s.thread n k).st = .off then s else s.selPc n k 5 (s.thread n k).pc) (((s.ledgerAdd (stallRec n 4) 1).selEvent n 4).selSyncOn n)

/-- RESTORE (R146): only from a service processor (R147). -/
def execRestore (q : Req) (s slot : Nat) (st : State) : Ans :=
  run (inReq q && inStall s && inTwo slot) (st.spOnly q s (fun t => t.restoreStall s slot))

end Sys2Proof.Machine
end

