-- ==== Sys2Proof/Machine/LoadStore.lean ====
section
/-!
DEFINITION. Scalar loads and stores in stall space (06 R136 to R139): ALIGN before UNMAPPED before DATA, a fenced access as
04 R95.
-/
namespace Sys2Proof.Machine

/-- A loaded value, zero- or sign-extended from `sz` bytes. -/
def loadVal (signed : Bool) (sz : Nat) (d : List Byte) : Word :=
  if signed then sext64 (8 * sz) (leNat d) else BitVec.ofNat 64 (leNat d)

/-- RD = memory at RA + IMM15, `sz` bytes (R136 to R139). -/
def State.load (s : State) (n k : Nat) (rd ra : BitVec 5) (imm : BitVec 15) (sz : Nat) (signed : Bool) : State :=
  s.scalar n k (fun t =>
    let a := (t.gr ra.toNat + imm.signExtend 64).toNat
    if a % sz ≠ 0 then s.scalarExc n k cALIGN (BitVec.ofNat 64 a)
    else
      let r := s.stallRead n 0 k a sz
      match r.exc with
      | some (c, e) => r.s.scalarExc n k c (BitVec.ofNat 64 e)
      | none => r.s.scalarDone n k (t.setG rd.toNat (loadVal signed sz r.d)) (t.pc + 16))

/-- memory at RA + IMM15 = the low `sz` bytes of RB. -/
def State.store (s : State) (n k : Nat) (rb ra : BitVec 5) (imm : BitVec 15) (sz : Nat) : State :=
  s.scalar n k (fun t =>
    let a := (t.gr ra.toNat + imm.signExtend 64).toNat
    if a % sz ≠ 0 then s.scalarExc n k cALIGN (BitVec.ofNat 64 a)
    else
      let r := s.stallWrite n 0 k a (toLE sz (t.gr rb.toNat).toNat)
      match r.exc with
      | some (c, e) => r.s.scalarExc n k c (BitVec.ofNat 64 e)
      | none => r.s.scalarDone n k t (t.pc + 16))

/-- LB (R136). -/
def execLb (s k : Nat) (rd ra : BitVec 5) (imm : BitVec 15) (st : State) : Ans :=
  run (inStall s && inThread k) (st.load s k rd ra imm 1 true)

/-- LH (R136). -/
def execLh (s k : Nat) (rd ra : BitVec 5) (imm : BitVec 15) (st : State) : Ans :=
  run (inStall s && inThread k) (st.load s k rd ra imm 2 true)

/-- LW (R136). -/
def execLw (s k : Nat) (rd ra : BitVec 5) (imm : BitVec 15) (st : State) : Ans :=
  run (inStall s && inThread k) (st.load s k rd ra imm 4 true)

/-- LD (R136). -/
def execLd (s k : Nat) (rd ra : BitVec 5) (imm : BitVec 15) (st : State) : Ans :=
  run (inStall s && inThread k) (st.load s k rd ra imm 8 true)

/-- LBU (R136). -/
def execLbu (s k : Nat) (rd ra : BitVec 5) (imm : BitVec 15) (st : State) : Ans :=
  run (inStall s && inThread k) (st.load s k rd ra imm 1 false)

/-- LHU (R136). -/
def execLhu (s k : Nat) (rd ra : BitVec 5) (imm : BitVec 15) (st : State) : Ans :=
  run (inStall s && inThread k) (st.load s k rd ra imm 2 false)

/-- LWU (R136). -/
def execLwu (s k : Nat) (rd ra : BitVec 5) (imm : BitVec 15) (st : State) : Ans :=
  run (inStall s && inThread k) (st.load s k rd ra imm 4 false)

/-- SB (R136). -/
def execSb (s k : Nat) (rb ra : BitVec 5) (imm : BitVec 15) (st : State) : Ans :=
  run (inStall s && inThread k) (st.store s k rb ra imm 1)

/-- SH (R136). -/
def execSh (s k : Nat) (rb ra : BitVec 5) (imm : BitVec 15) (st : State) : Ans :=
  run (inStall s && inThread k) (st.store s k rb ra imm 2)

/-- SW (R136). -/
def execSw (s k : Nat) (rb ra : BitVec 5) (imm : BitVec 15) (st : State) : Ans :=
  run (inStall s && inThread k) (st.store s k rb ra imm 4)

/-- SD (R136). -/
def execSd (s k : Nat) (rb ra : BitVec 5) (imm : BitVec 15) (st : State) : Ans :=
  run (inStall s && inThread k) (st.store s k rb ra imm 8)

end Sys2Proof.Machine
end

