-- ==== Sys2Proof/Machine/RegRead.lean ====
section
/-!
DEFINITION. What every register of BAR0 reads (22 R466 to R471, R481 and the home files): 64-bit registers, 32-bit registers and tables by
offset.
-/
namespace Sys2Proof.Machine

/-- The dword at a byte offset of a table. -/
def dwordAt (l : List Byte) (off : Nat) : W32 := BitVec.ofNat 32 (leAt l off 4)

/-- A signed value in two's complement of n bits. -/
def signed (n : Nat) (v : Int) : Nat := (v % (2 ^ n : Nat)).toNat

def wordOf (n : Nat) : Word := BitVec.ofNat 64 n

/-! ## Gatehouse global registers (22; 09, 10, 12, 14, 17, 18, 19) -/

/-- REVISION: a hall that is down reads 0. -/
def State.revision (s : State) : Word :=
  pack ([(Config.grev.toNat, 0, 8), (1, 40, 8)] ++ threads4.map (fun h => (if (s.hall h).up then (s.hall h).hcap.rev else 0, 8 + 8 * h, 8)))

/-- DEVCAP (R467): 0 until phase 2 has ended, and in recovery. -/
def State.devcap (s : State) : Word :=
  if s.boot.phase = 0 ∨ s.fw.recovery then 0
  else pack [(256, 0, 9), (4, 9, 3), (4, 12, 4), (16, 16, 5), (64, 24, 7), (8, 32, 4), (ofBool s.jisanRuns, 36, 1), (1, 40, 8), (1, 48, 8)]

/-- BOOTSTAT (17). -/
def BootSt.statWord (b : BootSt) : Word :=
  pack [(b.phase, 0, 4), (b.kind, 4, 2), (ofBool b.marchRun, 6, 1), (ofBool b.fallback, 7, 1), (b.startMs, 32, 16)]

/-- FWSTAT (19). -/
def State.fwstat (s : State) : Word :=
  let f := s.fw
  pack [(f.gslot.getD 0, 0, 1), (ofBool (s.trial 0), 1, 1), (f.rec_.tries.getD 0 0, 2, 2), (f.jslot.getD 0, 4, 1), (ofBool (s.trial 1), 5, 1),
    (f.rec_.tries.getD 1 0, 6, 2), (f.rec_.slots.getD 0 0, 8, 2), (f.rec_.slots.getD 1 0, 10, 2), (f.rec_.slots.getD 2 0, 12, 2),
    (f.rec_.slots.getD 3 0, 14, 2), (f.hwout, 16, 2), (f.pairout, 18, 2), (ofBool f.recovery, 20, 1), (ofBool f.reverted, 21, 1),
    (s.updCode, 24, 3), (f.lasterr, 32, 8), (f.svnmin, 40, 6)]

/-- FWCOMPAT (19). -/
def State.fwcompat (s : State) : Word :=
  pack [(s.fw.disable, 0, 16), ((s.gImage.map imgVersion).getD 0 / 65536, 32, 16), ((s.jImage.map imgVersion).getD 0 / 65536, 48, 16)]

/-- PAIRSTAT (18). -/
def PairSt.statWord (x : PairSt) : Word :=
  pack [(x.owner, 0, 1), (ofBool x.simplex, 1, 1), (ofBool x.none_, 2, 1), (ofBool x.blank, 3, 1), (x.cgen.toNat, 32, 32)]

/-- LEDGERSTAT (18). -/
def LedgerSt.statWord (l : LedgerSt) : Word :=
  pack [(l.seq - 1, 0, 32), (ofBool l.fault, 32, 1), (ofBool l.unsynced, 33, 1), (ofBool (l.flags.any (fun e => e.2 ≠ 0)), 34, 1),
    (ofBool l.newLedger, 35, 1)]

/-- A quadword of the live accumulators by snapshot offset (18 R410, R412). -/
def LedgerSt.quad (l : LedgerSt) (off : Nat) : Word :=
  if off = 0x68 then wordOf (ofBool l.newLedger + 2 * ofBool l.unsynced)
  else if 0x100 ≤ off ∧ off % 64 = 56 then (Tab.get (0 : W32) l.flags (off / 64)).setWidth 64
  else Tab.get 0 l.cnt (off / 8)

/-- TALLYSTAT (09). -/
def State.tallystat (s : State) (h : Nat) : Word :=
  let w := (s.tally.watches ++ s.tally.stale).filter (fun w => w.id / 65536 = h)
  let n := fun (f : TOwner → Bool) => (w.filter (fun w => f w.owner)).length
  pack [(n (fun o => match o with | .thread .. => true | _ => false), 0, 11),
    (n (fun o => match o with | .desc .. => true | _ => false), 12, 13), (n (fun o => match o with | .remote .. => true | _ => false), 26, 11),
    (ofBool (s.tally.pois.any (fun x => x / 65536 = h)), 37, 1)]

/-- ARCVER (10). -/
def HallSt.arcver (x : HallSt) : Word :=
  pack [(x.gcap.vmin, 0, 4), (x.gcap.vmax, 4, 4), (x.hcap.vmin, 8, 4), (x.hcap.vmax, 12, 4), (x.agreed, 16, 4), (x.gcap.feat, 20, 4),
    (x.hcap.feat, 24, 4), (x.afeat, 28, 4), (x.hcap.rev, 32, 8), (x.gcap.rev, 40, 8), (ofBool x.nocommon, 48, 1)]

/-- LANEMAP byte i of a link (10). -/
def ArcLink.laneByte (x : ArcLink) (i : Nat) : Byte := BitVec.ofNat 8 (Tab.get 0 (x.side (i / 16)).lanes (i % 16))

/-- LINKSTAT (22). -/
def PortSt.statWord (p : PortSt) : W32 :=
  BitVec.ofNat 32 (p.width % 32 + 32 * (p.speed % 8) + 256 * ofBool p.cxl + 512 * ofBool p.pcieOnly + 1024 * ofBool p.mld)

/-- CVPORT of port k (14). -/
def State.cvport (s : State) (k : Nat) : W32 :=
  (s.rw32 (0xA100 + 0x40 * k) &&& 0x0FFF0018) ||| BitVec.ofNat 32 (if s.portOn k then Tab.get 0 s.cv.port k % 4 else 3)

/-- A register of the paged window with PAGE 1 (22 R470; 14). -/
def State.cvNarrow (s : State) (off : Nat) : Option W32 :=
  let k := (off - 0xA100) / 0x40
  let x := (off - 0xA100) % 0x40
  if off = 0xA008 ∨ 0xA020 ≤ off ∧ off < 0xA030 ∨ off = 0xA040 ∨ 0xA050 ≤ off ∧ off < 0xA064 then some (s.rw32 off)
  else if off = 0xA010 then some s.cv.epoch
  else if 0xA100 ≤ off ∧ off < 0xA300 then
    (if x = 0 then some (s.cvport k) else if 0x10 ≤ x ∧ x < 0x20 then some (s.rw32 off) else none)
  else none

/-- The 64-bit registers of the gatehouse global range, as requester q reads them. -/
def State.gateWide (s : State) (q : Req) (off : Nat) : Option Word :=
  if 0x50040 ≤ off ∧ off < 0x64700 then some (s.ledger.quad (off - 0x50000))
  else if 0x2080 ≤ off ∧ off < 0x2090 then some (s.pair ((off - 0x2080) / 8)).statWord
  else if 0x2200 ≤ off ∧ off < 0x2240 ∧ off % 16 = 0 then some (Tab.get 0 s.ledger.life ((off - 0x2200) / 16))
  else if 0x3000 ≤ off ∧ off < 0x3040 then
    let h := (off - 0x3000) / 16
    some (if off % 16 = 0 then s.tallystat h else (Tab.get (0 : BitVec 48) s.tally.ops h).setWidth 64)
  else if 0x5000 ≤ off ∧ off < 0x5400 ∧ off % 256 = 0 then some (s.hall ((off - 0x5000) / 256)).arcver
  else if off = 0xA000 ∧ (s.reqSt q).page then some (s.rw64 off)
  else
    match off with
    | 0x0 => some Config.ident
    | 0x8 => some s.revision
    | 0x10 => some s.devcap
    | 0x30 => some (s.reqSt q).info
    | 0x100 => some (wordOf s.time)
    | 0x1000 => some s.boot.statWord
    | 0x1100 => some s.fwstat
    | 0x1110 => some s.fwcompat
    | 0x2108 => some s.ledger.statWord
    | _ => none

/-- The floor plan (17 R380 to R385). -/
def State.planHeader (s : State) : List Byte :=
  let n := fun v => (allStalls.filter (fun i => (s.fpOf i).state = v)).length
  let u := (allStalls.map (fun i => if (s.fpOf i).state = 0 then (s.sliceOf i).u else 0)).foldl (· + ·) 0
  toLE 4 0x4C504C46 ++ toLE 2 1 ++ toLE 2 0x1200 ++ toLE 4 s.boot.fpgen.toNat ++
    toLE 4 (min (s.ledgerAt 0x40 + s.ledgerAt 0x48) 0xFFFFFFFF) ++ toLE 8 s.boot.changedAt ++ toLE 1 s.boot.kind ++
    toLE 1 (bitsFrom [s.boot.marchRun, s.boot.fallback, s.dl.fault, s.far.cacheOff]) ++
    toLE 2 (n 0) ++ toLE 2 (n 1) ++ toLE 2 (n 2) ++ toLE 2 (n 3) ++ zeros 2 ++
    toLE 4 (keptRecs (s.dl.cur.recs.filter recOk)).length ++ toLE 8 u ++ toLE 8 s.usableFar ++ zeros 8

/-- FARLAYOUT (11). -/
def FarSt.layoutWord (f : FarSt) : Word := pack [(f.used, 0, 4), (f.ml, 4, 2), (f.disp, 8, 4), (f.chcap, 16, 3), (f.usable, 32, 12)]

def State.planFar (s : State) : List Byte :=
  let rows := fun m => (s.far.repairs.filter (fun r => r.1 / 8 = m)).length
  toLE 8 s.far.layoutWord.toNat ++ zeros 8 ++
    threads4.flatMap (fun m =>
      let x := s.module m
      toLE 1 x.state ++ toLE 1 x.rate ++ toLE 1 x.retch ++ zeros 1 ++ toLE 2 (min (rows m) 0xFFFF) ++ zeros 2 ++ toLE 4 x.serial.toNat ++ zeros 4) ++
    toLE 2 (min s.far.dis.length 0xFFFF) ++ toLE 1 (ofBool s.far.cacheOff) ++ zeros 45

def State.planHall (s : State) (h : Nat) : List Byte :=
  let x := s.hall h
  let good := ((List.range 64).map (fun i => 64 * h + i)).filter (fun n => (s.fpOf n).state = 0)
  toLE 1 (if x.returning then 3 else if x.tripped then 2 else if x.cutoff then 1 else 0) ++ toLE 1 x.agreed ++ toLE 1 x.afeat ++
    toLE 1 x.hcap.rev ++ toLE 2 good.length ++
    toLE 2 ((threads4.map (fun a => (s.link (4 * h + a)).state * 8 ^ a)).foldl (· + ·) 0) ++
    toLE 8 ((good.map (fun n => (s.sliceOf n).u)).foldl (· + ·) 0) ++ toLE 1 (bitsFrom [x.nocommon, x.broken]) ++ zeros 15

def State.planStall (s : State) (n : Nat) : List Byte :=
  let d := s.sliceOf n
  let f := s.fpOf n
  toLE 1 f.state ++ toLE 1 f.cause ++
    toLE 1 (bitsFrom (threads4.map (fun k => (Tab.find d.erased k).isSome) ++ [s.planUnavail n, d.map.any (fun e => e.spare = none)])) ++ zeros 1 ++
    toLE 4 (if f.state = 0 then d.u else 0) ++ toLE 2 (min d.retired 0xFFFF) ++
    toLE 2 ((threads4.map (fun k => (d.freeSpares k).length)).foldl min 4096) ++ zeros 4

/-- A dword of the floor plan: 0 until publication (17 R369). -/
def State.planDword (s : State) (off : Nat) : W32 :=
  if !s.fpValid then 0
  else if off < 0x40 then dwordAt s.planHeader off
  else if off < 0xC0 then dwordAt s.planFar (off - 0x40)
  else if off < 0x140 then dwordAt (s.planHall ((off - 0xC0) / 32)) ((off - 0xC0) % 32)
  else if off < 0x200 then 0
  else dwordAt (s.planStall ((off - 0x200) / 16)) ((off - 0x200) % 16)

/-- A dword of the event log as q sees it (12 R277; 22 R471). -/
def State.logDword (s : State) (q : Req) (off : Nat) : W32 :=
  match Tab.find s.integ.log (off / 32) with
  | some e => if s.seesEntry q e then dwordAt e.bytes (off % 32) else 0
  | none => 0

/-- The 32-bit registers and tables of the gatehouse global range. -/
def State.gateNarrow (s : State) (q : Req) (off : Nat) : Option W32 :=
  let l := (off - 0x4000) / 0x40
  let x := (off - 0x4000) % 0x40
  if 0x40000 ≤ off ∧ off < 0x41200 then some (s.planDword (off - 0x40000))
  else if 0x8000 ≤ off ∧ off < 0x10000 then
    (if (s.reqSt q).page then s.cvNarrow off else some (s.logDword q (off - 0x8000)))
  else if 0x7000 ≤ off ∧ off < 0x7800 then some (s.rw32 off)
  else if 0x4000 ≤ off ∧ off < 0x4400 then
    (if x = 0 then some (BitVec.ofNat 32 ((s.link l).state + 4096))
     else if x = 8 then some (s.link l).replays
     else if x = 0x10 then some (BitVec.ofNat 32 (ofBool (s.link l).retrain))
     else if 0x20 ≤ x then some (dwordAt ((List.range 4).map (fun i => (s.link l).laneByte (x - 0x20 + i))) 0)
     else none)
  else if 0x5000 ≤ off ∧ off < 0x5400 then
    (if off % 256 = 8 then
      let h := s.hall ((off - 0x5000) / 256)
      some (BitVec.ofNat 32 (h.remap.toNat + 65536 * ofBool h.cutoff))
     else none)
  else if 0x2000 ≤ off ∧ off < 0x2080 then
    (if off % 32 = 0 then
      some (BitVec.ofNat 32 ((s.sp ((off - 0x2000) / 32)).role + 256 * min (s.fails24 ((off - 0x2000) / 32)) 255) ||| (s.rw32 off &&& 0x10000))
     else none)
  else
    match off with
    | 0x20 => some s.port.statWord
    | 0x28 => some (s.reqSt q).cnt
    | 0x38 => some (BitVec.ofNat 32 (ofBool (s.reqSt q).page))
    | 0x1008 => some (s.rw32 off)
    | 0x1010 => some (BitVec.ofNat 32 (ofBool s.fpValid + 2 * ofBool s.boot.changed))
    | 0x1018 => some 0
    | 0x1108 => some (s.rw32 off &&& 6)
    | 0x20A0 => some (s.rw32 off)
    | 0x2100 => some (BitVec.ofNat 32 (fld32 (s.rw32 off) 0 8 + 256 * ofBool s.ledger.due))
    | 0x2110 => some (BitVec.ofNat 32 (fld32 (s.rw32 off) 0 17 + 131072 * ofBool s.svc.salvBusy + 16777216 * s.svc.salvStat))
    | 0x2118 => some (BitVec.ofNat 32 (65536 * s.svc.retStat) ||| (s.rw32 off &&& 0x100))
    | 0x6000 => some (BitVec.ofNat 32 (s.integ.next + 65536 * s.integ.overrun))
    | _ => none

/-! ## MSI-X (02 R32) -/

/-- Function and vectors of q's table. -/
def msixFn : Req → Nat
  | .ld p => p
  | _ => 0

def msixCount : Req → Nat
  | .ld _ => 128
  | _ => 2048

/-- A dword of q's MSI-X table or pending-bit array. -/
def State.msixNarrow (s : State) (q : Req) (off : Nat) : Option W32 :=
  let o := off - 0xF0000
  if o < 16 * msixCount q then some (s.msixDw (msixFn q) (o / 16) (o / 4 % 4))
  else if 0x8000 ≤ o ∧ o - 0x8000 < msixCount q / 8 then
    some (BitVec.ofNat 32 (bitsFrom ((List.range 32).map (fun i => NSet.has s.port.pba (msixFn q * 2048 + 8 * (o - 0x8000) + i)))))
  else none

/-! ## Pitch table (04) -/

/-- PSTAT (04). -/
def State.pstat (s : State) (p : Nat) : W32 :=
  BitVec.ofNat 32 (bitsFrom [s.quiesced p, (s.pctl p).resetting, s.pt.active.enabled p])

/-- PTSTAT (04). -/
def State.ptstat (s : State) : W32 :=
  BitVec.ofNat 32 (s.pt.status % 256 + 256 * ofBool s.applying + 65536 * (s.pt.check % 256) + 16777216 * (s.pt.who % 256))

def PTab.entryWide (t : PTab) (o : Nat) : Option Word :=
  match o % 64 with
  | 0 => some (t.cfgOf (o / 64))
  | 8 => some (t.farOf (o / 64))
  | 16 => some (t.tallyOf (o / 64))
  | _ => none

def State.pitchWide (s : State) (off : Nat) : Option Word :=
  if 0x101000 ≤ off ∧ off < 0x101400 then s.pt.shadow.entryWide (off - 0x101000)
  else if 0x111000 ≤ off ∧ off < 0x111400 then s.pt.active.entryWide (off - 0x111000)
  else if 0x104000 ≤ off ∧ off < 0x104400 ∧ off % 64 = 16 then some (s.pctl ((off - 0x104000) / 64)).fenceaddr
  else none

def State.pitchNarrow (s : State) (off : Nat) : Option W32 :=
  if 0x102000 ≤ off ∧ off < 0x102400 then some (s.pt.shadow.mapOf ((off - 0x102000) / 4))
  else if 0x112000 ≤ off ∧ off < 0x112400 then some (s.pt.active.mapOf ((off - 0x112000) / 4))
  else if 0x103000 ≤ off ∧ off < 0x103400 then some (s.stall ((off - 0x103000) / 4)).gen
  else if 0x104000 ≤ off ∧ off < 0x104400 then
    let c := s.pctl ((off - 0x104000) / 64)
    match off % 64 with
    | 0 => some (BitVec.ofNat 32 (ofBool c.quiesce))
    | 4 => some (s.pstat ((off - 0x104000) / 64))
    | 8 => some c.fencecnt
    | 24 => some c.fencesrc
    | 32 => some c.presetgen
    | _ => none
  else
    match off with
    | 0x100000 => some s.pt.gen
    | 0x100004 => some 0
    | 0x100008 => some s.ptstat
    | 0x10000C => some 0
    | _ => none

/-! ## Ring blocks (03, 13, 14) -/

/-- JMODSTAT (13). -/
def JPitch.modstat (j : JPitch) : Word :=
  pack ((List.range 16).map (fun k => ((j.slotOf k).st, 2 * k, 2)) ++ [(j.lastStatus, 32, 8), (j.lastSlot, 40, 4)])

/-- READY slots of a pitch. -/
def JPitch.ready (j : JPitch) : List Nat := (List.range 16).filter (fun k => (j.slotOf k).st = 2)

/-- FREEBLK: the blocks of the one READY slot, 0 with none, and with several, whose blocks differ in size, a free value (log entry 5). -/
def State.freeBlk (s : State) (p : Nat) : Nat :=
  match (s.jis1 p).ready with
  | [] => 0
  | [k] => (s.freeBlks (s.jis1 p) ((s.jis1 p).slotOf k)).length
  | _ => s.freeBelow 16777216

/-- JSTAT (13). -/
def State.jstat (s : State) (p : Nat) : Word :=
  let n := fun v => ((s.jis1 p).reqs.filter (fun x => x.st = v)).length
  pack [(n 0, 0, 13), (n 1, 16, 9), (n 2 / 64, 32, 5), (s.freeBlk p, 40, 24)]

def State.ringWide (s : State) (p x : Nat) : Option Word :=
  if x < 0x4000 then (if x % 0x100 = 0 ∨ x % 0x100 = 8 then some (s.rw64 (0x180000 + 0x8000 * p + x)) else none)
  else
    match x with
    | 0x4000 => some (s.rw64 (0x180000 + 0x8000 * p + x))
    | 0x4108 => some 0
    | 0x4110 => some (s.rw64 (0x180000 + 0x8000 * p + x))
    | 0x4118 => some (s.jis1 p).modstat
    | 0x4128 => some (s.jstat p)
    | 0x4130 => some ((s.jis1 p).tokens.setWidth 64)
    | 0x4138 => some (wordOf ((s.jis1 p).err.toNat + 4294967296 * (s.jis1 p).fails.toNat))
    | 0x4200 => some (s.rw64 (0x180000 + 0x8000 * p + x))
    | _ => none

/-- RINGCTL (03). -/
def State.ringctl (s : State) (p r : Nat) : W32 :=
  let g := s.ring p r
  BitVec.ofNat 32 (ofBool g.enable + 256 * bitsFrom [s.ringActive p r, g.cfgerr, g.phase, g.hosterr] + 65536 * (s.inflight p r % 8192))

/-- PRINGSTAT (03). -/
def State.pringstat (s : State) (p : Nat) : W32 :=
  BitVec.ofNat 32 (s.pinflight p % 8192 + 8192 * bitsFrom [decide (4096 ≤ s.pinflight p), decide (32768 ≤ s.dinflight)] + 65536 * (s.pring p).dberr)

/-- The 32 bytes of a landing report (14 R323). -/
def Landing.bytes (l : Landing) : List Byte :=
  toLE 8 l.time ++ toLE 2 l.src ++ toLE 1 l.sp ++ toLE 1 l.status ++ zeros 4 ++ toLE 8 l.addr ++ toLE 8 (l.len % 2 ^ 40)

def State.landOf (s : State) (p : Nat) : LandSt := Tab.get {} s.cv.land p

def State.ringNarrow (s : State) (p x : Nat) : Option W32 :=
  let b := 0x180000 + 0x8000 * p + x
  let r := x / 0x100
  if x < 0x4000 then
    match x % 0x100 with
    | 0x10 => some (s.rw32 b)
    | 0x14 => some (s.ringctl p r)
    | 0x18 => some (BitVec.ofNat 32 ((s.ring p r).fetch + 65536 * (s.ring p r).dbtail))
    | 0x1C => some (BitVec.ofNat 32 ((s.ring p r).cqtail + 65536 * (s.ring p r).cqhead))
    | 0x20 => some (s.ring p r).seqnext
    | _ => none
  else if 0x4300 ≤ x ∧ x < 0x4500 then
    some (match Tab.find (s.landOf p).rep ((x - 0x4300) / 32) with | some l => dwordAt l.bytes (x % 32) | none => 0)
  else if 0x4800 ≤ x ∧ x < 0x4C00 then some (s.rw32 b)
  else
    match x with
    | 0x4008 => some (s.rw32 b)
    | 0x4010 => some (s.pringstat p)
    | 0x4018 => some (s.pring p).dbcount
    | 0x4100 => some (s.rw32 b)
    | 0x4120 => some 0
    | 0x4208 => some (BitVec.ofNat 32 ((s.landOf p).next + 65536 * (s.landOf p).overrun))
    | _ => none

/-! ## Far memory, power and thermal (05, 11, 12, 15, 16) -/

/-- PKGPWR (15). -/
def State.pkgpwr (s : State) : Word :=
  pack [(min s.pwr.p1 0xFFFF, 0, 16), (min s.pwr.p10 0xFFFF, 16, 16), (min s.pwr.p1s 0xFFFF, 32, 16), (ofBool s.cool.grant.isSome, 48, 1),
    (ofBool s.pwr.exc.isSome, 49, 1), (ofBool (s.pwr.cap < 60), 50, 1), (s.pwr.cap, 51, 6)]

/-- RAILV (15). -/
def State.railv (s : State) (r : Nat) : Word :=
  let x := s.rail r
  pack [(s.vset r, 0, 16), (x.vread, 16, 16), (x.iread, 32, 16), (x.cap, 48, 6), (ofBool x.lim, 54, 1), (ofBool x.alert, 55, 1)]

/-- A jostle field is not zero (20 R447). -/
def State.jostleActive (s : State) : Bool :=
  s.setup.any (fun e => decide (0x380100 / 4 ≤ e.1 ∧ e.1 < 0x381000 / 4) && e.2 ≠ 0)

/-- PDSTATE (15 R325 to R328): 0 off, 1 on, 2 retain. -/
def State.pdstate (s : State) (d : Nat) : Nat :=
  if d < 1024 then
    let n := d / 4
    let st := s.stall n
    let w := s.pwrState n
    match d % 4 with
    | 0 => ofBool (decide (w < 2))
    | 1 => ofBool (w = 0 && st.arr.on)
    | 2 => ofBool (w = 0 && st.hawkOn)
    | _ => if w < 2 then 1 else if w = 2 then 2 else 0
  else if d < 1056 then ofBool (s.segsOn ((d - 1024) / 8))
  else if d < 1072 then ofBool ((s.link (d - 1056)).retrain || (decide (1 ≤ (s.link (d - 1056)).state ∧ (s.link (d - 1056)).state ≤ 4)))
  else if 1073 ≤ d ∧ d ≤ 1076 then ofBool (decide (1 ≤ (s.sp (d - 1073)).role ∧ (s.sp (d - 1073)).role ≤ 3))
  else if 1078 ≤ d ∧ d ≤ 1085 then ofBool (bit32 (s.rw32 (0xA100 + 0x40 * (d - 1078))) 3)
  else if 1086 ≤ d ∧ d ≤ 1089 then ofBool (decide (2 ≤ (s.module (d - 1086)).state))
  else if d = 1090 then ofBool (!s.far.cacheOff)
  else if d = 1091 then ofBool s.cvValid
  else if d = 1095 then
    ofBool (s.obs.mon.any (fun e => bit e.2.cfg 9) || s.stalls.any (fun e => e.2.sel.st ≠ 0) || s.jostleActive)
  else 1

/-- An estimate in 0.01 °C, 0 before the first (16). -/
def State.estCenti (s : State) (h l : Nat) : Nat := if (s.hall h).temp = [] then 0 else signed 16 (s.layerEst h l / centi)

/-- HALLTEMP (16). -/
def State.halltemp (s : State) (h : Nat) : Word :=
  let x := s.hall h
  let top := topOf ((List.range 8).map (fun l => s.layerEst h l))
  let hot := if x.temp = [] then 0 else top.1
  pack [(signed 16 x.diode, 0, 16), (s.estCenti h hot, 16, 16), (hot, 32, 3), (ofBool x.clamp, 35, 1), (ofBool x.tripped, 36, 1),
    (ofBool x.rearmed, 37, 1), (ofBool (x.clamp || decide (x.cap < 60)), 38, 1), (x.cap, 40, 6), (s.trips24 h, 48, 8)]

/-- THMPARAM of hall h (16): the values within the bounds of R345. -/
def thmBytes (h : Nat) : List Byte :=
  (List.range 9).flatMap (fun i => toLE 2 (thmR h i)) ++ zeros 2 ++ toLE 2 (thmRcv h) ++ zeros 2 ++ (List.range 10).flatMap (fun i => toLE 2 (thmC h i)) ++
    zeros 20

/-- COOLSTAT (16). -/
def CoolSt.statWord (c : CoolSt) : Word :=
  pack [(signed 16 c.tin, 0, 16), (signed 16 c.tout, 16, 16), (c.duty, 32, 8), (ofBool c.failsafe, 40, 1), (ofBool c.sensfault, 41, 1),
    (ofBool c.lowflow, 42, 1), (ofBool c.ctrlseen, 43, 1), (ofBool c.reactive, 44, 1)]

def State.farWide (s : State) (off : Nat) : Option Word :=
  if 0x200100 ≤ off ∧ off < 0x200200 ∧ off % 64 = 0x18 then some (wordOf ((s.module ((off - 0x200100) / 64)).left % 2 ^ 40))
  else if 0x201000 ≤ off ∧ off < 0x201100 ∧ off % 64 = 0 then
    let x := s.hall ((off - 0x201000) / 64)
    some (pack [(x.mult.toNat, 0, 16), (x.throttle.toNat, 16, 8), (ofBool x.failsafe, 24, 1), (x.refgen.toNat, 32, 32)])
  else if 0x202110 ≤ off ∧ off < 0x202138 then some (s.railv ((off - 0x202110) / 8))
  else if 0x208000 ≤ off ∧ off < 0x208000 + 8 * 1096 then some ((s.domain ((off - 0x208000) / 8)).uj.setWidth 64)
  else if 0x20C000 ≤ off ∧ off < 0x20C100 then
    let h := (off - 0x20C000) / 64
    match off % 64 with
    | 0 => some (s.halltemp h)
    | 8 => some (pack ((List.range 4).map (fun j => (s.estCenti h j, 16 * j, 16))))
    | 16 => some (pack ((List.range 4).map (fun j => (s.estCenti h (4 + j), 16 * j, 16))))
    | 24 => some (wordOf (s.hall h).tripTime)
    | _ => none
  else
    match off with
    | 0x200000 => some s.far.layoutWord
    | 0x202108 => some s.pkgpwr
    | 0x20C400 => some s.cool.statWord
    | 0x20C410 => some s.cool.fcast
    | _ => none

/-- The 16 bytes of a power log entry (15) and of a thermal log entry (16). -/
def PwrEnt.bytes (e : PwrEnt) : List Byte := toLE 8 e.time ++ toLE 1 e.cause ++ toLE 1 e.rail ++ toLE 1 e.cap ++ toLE 1 e.amps ++ zeros 4

def ThEnt.bytes (e : ThEnt) : List Byte := toLE 8 e.time ++ toLE 1 e.cause ++ toLE 1 e.hall ++ toLE 2 (signed 16 e.reading) ++ zeros 4

def State.farNarrow (s : State) (off : Nat) : Option W32 :=
  if 0x200100 ≤ off ∧ off < 0x200200 then
    let x := s.module ((off - 0x200100) / 64)
    match off % 64 with
    | 0 => some (BitVec.ofNat 32 (x.state + 8 * ofBool x.present + 256 * x.rate + 65536 * x.lasterr + 16777216 * (x.retch % 256)))
    | 8 => some 0
    | 16 => some (BitVec.ofNat 32 (signed 8 x.temp + 256 * x.throttle))
    | _ => none
  else if 0x201000 ≤ off ∧ off < 0x201100 then (if off % 64 = 8 then some 0 else none)
  else if 0x202200 ≤ off ∧ off < 0x202600 then
    some (match Tab.find s.pwr.log ((off - 0x202200) / 16) with | some e => dwordAt e.bytes (off % 16) | none => 0)
  else if 0x203000 ≤ off ∧ off < 0x203000 + 4 * 1096 then some (BitVec.ofNat 32 (s.pdstate ((off - 0x203000) / 4)))
  else if 0x206000 ≤ off ∧ off < 0x206000 + 4 * 1096 then
    some (if s.pdstate ((off - 0x206000) / 4) = 0 then 0 else BitVec.ofNat 32 (min (s.domain ((off - 0x206000) / 4)).mw 0xFFFF))
  else if 0x20C000 ≤ off ∧ off < 0x20C100 then
    (if off % 64 = 0x20 then some ((s.rw32 off &&& 2) ||| BitVec.ofNat 32 (ofBool (s.hall ((off - 0x20C000) / 64)).returning)) else none)
  else if 0x20C200 ≤ off ∧ off < 0x20C300 then some (dwordAt (thmBytes ((off - 0x20C200) / 64)) (off % 64))
  else if 0x20C600 ≤ off ∧ off < 0x20CA00 then
    some (match Tab.find s.cool.log ((off - 0x20C600) / 16) with | some e => dwordAt e.bytes (off % 16) | none => 0)
  else
    match off with
    | 0x202000 => some (s.rw32 off)
    | 0x202100 => some (s.rw32 off)
    | 0x202180 => some (BitVec.ofNat 32 (s.pwr.next + 65536 * s.pwr.overrun))
    | 0x20C408 => some (s.rw32 off)
    | 0x20C40C => some (s.rw32 off)
    | 0x20C418 => some (BitVec.ofNat 32 (ofBool s.cool.grant.isSome + 2 * ofBool s.cool.pending.isSome + 65536 * s.cool.count))
    | 0x20C500 => some (BitVec.ofNat 32 (s.cool.next + 65536 * s.cool.overrun))
    | _ => none

/-! ## Scales, jostle and counters (20) -/

def State.obsWide (s : State) (off : Nat) : Option Word :=
  if 0x300000 ≤ off ∧ off < 0x348000 then
    let m := (off - 0x300000) / 0x200
    match off % 0x200 with
    | 0x0 => some (s.rw64 off)
    | 0x8 => some (s.rw64 off)
    | 0x48 => some (wordOf (s.monitor m).res.start)
    | 0x50 => some (wordOf (s.monitor m).res.count)
    | 0x58 => some (wordOf (s.monitor m).res.sum)
    | _ => none
  else if 0x380100 ≤ off ∧ off < 0x380180 then (if off % 32 = 0 ∨ off % 32 = 8 then some (s.rw64 off) else none)
  else if 0x380800 ≤ off ∧ off < 0x380900 then (if off % 64 = 0 ∨ off % 64 = 8 then some (s.rw64 off) else none)
  else none

def State.obsNarrow (s : State) (off : Nat) : Option W32 :=
  if 0x300000 ≤ off ∧ off < 0x348000 then
    let x := s.monitor ((off - 0x300000) / 0x200)
    if 0x100 ≤ off % 0x200 then some (Tab.get 0 x.res.bin ((off % 0x200 - 0x100) / 4))
    else
      match off % 0x200 with
      | 0x10 => some 0
      | 0x18 => some (BitVec.ofNat 32 (x.gen + 65536 * ofBool x.pending + 131072 * ofBool x.err))
      | 0x40 => some x.rseq
      | 0x44 => some (BitVec.ofNat 32 (x.res.gen + 65536 * ofBool x.res.short + 131072 * ofBool x.res.sat))
      | 0x60 => some x.res.min
      | 0x64 => some x.res.max
      | 0x68 => some x.res.under
      | 0x6C => some x.res.overBin
      | _ => none
  else if off = 0x380000 then some (s.rw32 off ||| BitVec.ofNat 32 (65536 * ofBool s.jostleActive))
  else if 0x380200 ≤ off ∧ off < 0x380240 then (if off % 16 = 0 then some (s.rw32 off) else none)
  else if 0x380400 ≤ off ∧ off < 0x380480 then (if off % 16 = 0 then some (s.rw32 off) else none)
  else if 0x380800 ≤ off ∧ off < 0x380900 then (if off % 64 = 0x10 then some (Tab.get 0 s.obs.inj ((off - 0x380800) / 64)) else none)
  else if off = 0x3F0000 then some s.obs.cntovfg
  else if 0x3F0100 ≤ off ∧ off < 0x3F018C then
    some (BitVec.ofNat 32 (bitsFrom ((List.range 32).map (fun i => NSet.has s.obs.wbovf (8 * (off - 0x3F0100) + i)))))
  else none

/-! ## BAR0 as a whole -/

/-- The stall of a unicast offset, and the offset within its block (R473). -/
def stallOfOff (off : Nat) : Nat := (off - 0x1000000) / 0x400000 * 64 + (off - 0x1000000) / 0x10000 % 64

/-- The 64-bit register that begins at an 8-aligned offset. -/
def State.regWide (s : State) (q : Req) (off : Nat) : Option Word :=
  if off < 0xF0000 then s.gateWide q off
  else if off < 0x100000 then none
  else if off < 0x180000 then s.pitchWide off
  else if off < 0x200000 then s.ringWide ((off - 0x180000) / 0x8000) (off % 0x8000)
  else if off < 0x300000 then s.farWide off
  else if off < 0x400000 then s.obsWide off
  else if 0x1000000 ≤ off ∧ off < 0x2000000 then
    (s.stallWide (stallOfOff off) (off % 0x10000)).map (fun _ =>
      wordOf ((s.stallDword (stallOfOff off) (off % 0x10000)).toNat + 4294967296 * (s.stallDword (stallOfOff off) (off % 0x10000 + 4)).toNat))
  else none

/-- The 32-bit register or table dword at a 4-aligned offset. -/
def State.regNarrow (s : State) (q : Req) (off : Nat) : Option W32 :=
  if off < 0xF0000 then s.gateNarrow q off
  else if off < 0x100000 then s.msixNarrow q off
  else if off < 0x180000 then s.pitchNarrow off
  else if off < 0x200000 then s.ringNarrow ((off - 0x180000) / 0x8000) (off % 0x8000)
  else if off < 0x300000 then s.farNarrow off
  else if off < 0x400000 then s.obsNarrow off
  else if 0x1000000 ≤ off ∧ off < 0x2000000 then
    (s.stallNarrow (stallOfOff off) (off % 0x10000)).map (fun _ => s.stallDword (stallOfOff off) (off % 0x10000))
  else none

/-- A register lies at the dword at `off`. -/
def State.assigned (s : State) (q : Req) (off : Nat) : Bool := (s.regWide q (off / 8 * 8)).isSome || (s.regNarrow q off).isSome

/-- The register dword at `off` as it stands, 0 where none lies (00 R9). -/
def State.dword (s : State) (q : Req) (off : Nat) : W32 :=
  match s.regWide q (off / 8 * 8) with
  | some w => halfAt w off
  | none => (s.regNarrow q off).getD 0

end Sys2Proof.Machine
end

