-- ==== Sys2Proof/Machine/RegWrite.lean ====
section
/-!
DEFINITION. What a write to every register of BAR0 does (22 R466, R468, R470, R476 to R481 and the home files): each register that has a
row of its own takes that row's effect, every other one stores what its fields hold.
-/
namespace Sys2Proof.Machine

/-- The state an answer leaves. -/
def after (s : State) (a : Ans) : State :=
  match a with
  | .next t => t
  | _ => s

/-- A refused write of a register (R468). -/
def State.refuse (s : State) (q : Req) (off : Nat) : State := s.accessError q 0 off 4 true

/-- The service processors, and the host under SLD. -/
def notLd : Req → Bool
  | .ld _ => false
  | _ => true

def orElse (s : State) (q : Req) (off : Nat) (ok : Bool) (f : State → State) : State := if ok then f s else s.refuse q off

/-- A 64-bit value of which halves are written. -/
def mergeHalf (old v : Word) (lo hi : Bool) : Word :=
  wordOf ((if lo then fld v 0 32 else fld old 0 32) + 4294967296 * (if hi then fld v 32 32 else fld old 32 32))

/-- The written halves of a stored register, its fields alone. -/
def State.store64 (s : State) (off : Nat) (v : Word) (lo hi : Bool) (mask : Word) : State :=
  s.setRw64 off (mergeHalf (s.rw64 off) v lo hi &&& mask)

/-! ## Gatehouse global registers -/

/-- CVCFG: a change of DEVID, or IDVALID that clears, loses every convoy (log entry 39). -/
def State.cvcfgWrite (s : State) (v : Word) : State :=
  let s := if s.cvValid ∧ (!bit v 16 ∨ fld v 0 16 ≠ s.cvDev) then s.convsLost (fun _ _ => true) else s
  s.setRw64 0xA000 (v &&& 0x00FFFFFF0001FFFF)

/-- CVPORT of port k: clearing ENABLE takes the port down, setting it begins training (15 R326; log entry 36). -/
def State.cvportWrite (s : State) (k : Nat) (v : W32) : State :=
  let on := bit32 (s.rw32 (0xA100 + 0x40 * k)) 3
  let s := if on ∧ !bit32 v 3 then s.portDown k else if !on ∧ bit32 v 3 then s.portSet k 1 else s
  s.setRw32 (0xA100 + 0x40 * k) (v &&& 0x0FFF0018)

/-- A dword of the Caravan global registers (14). -/
def State.cvRegWrite (s : State) (q : Req) (off : Nat) (v : W32) : State :=
  let k := (off - 0xA100) / 0x40
  let x := (off - 0xA100) % 0x40
  if off = 0xA008 then orElse s q off (decide (1 ≤ fld32 v 0 10 ∧ fld32 v 0 10 ≤ 1000)) (fun s => s.setRw32 off (v &&& 0x3FF))
  else if off = 0xA020 then s.setRw32 off (v &&& 0xFFFFFFF8)
  else if 0xA024 ≤ off ∧ off < 0xA030 ∨ 0xA050 ≤ off ∧ off < 0xA060 then s.setRw32 off v
  else if off = 0xA040 then after s (execPeeridxWrite q v s)
  else if off = 0xA060 then after s (execPeerctlWrite q v s)
  else if 0xA100 ≤ off ∧ off < 0xA300 ∧ x = 0 then s.cvportWrite k v
  else if 0xA100 ≤ off ∧ off < 0xA300 ∧ 0x10 ≤ x ∧ x < 0x20 then s.setRw32 off v
  else s

/-- FWCTL (19 R421, R430). -/
def State.fwctlWrite (s : State) (q : Req) (v : W32) : State :=
  orElse s q 0x1108 (notLd q) (fun s =>
    let s := s.setRw32 0x1108 ((v &&& 2) ||| (s.rw32 0x1108 &&& 4))
    let s := if bit32 v 0 then after s (execFwConfirm q s) else s
    if bit32 v 2 then after s (execFwCancel q s) else s)

/-- SPCFG (18 R414). -/
def spcfgOk (v : W32) : Bool := decide (2 ≤ fld32 v 0 8 ∧ fld32 v 0 8 ≤ 40 ∧ 1 ≤ fld32 v 8 8 ∧ fld32 v 8 8 ≤ 20)

/-- LEDGERCFG (18 R414): the host reaches FLUSH alone. -/
def State.ledgercfgWrite (s : State) (q : Req) (v : W32) : State :=
  orElse s q 0x2100 (if reqIsSp q then decide (1 ≤ fld32 v 0 8 ∧ fld32 v 0 8 ≤ 144) else bit32 v 8) (fun s =>
    let s := if reqIsSp q then s.setRw32 0x2100 (v &&& 0xFF) else s
    if bit32 v 8 then after s (execLedgerFlush q s) else s)

/-- A dword of the gatehouse global range; `f` is what the start finds that a WARM write begins. -/
def State.gateWrite (s : State) (q : Req) (f : Find) (off : Nat) (v : W32) : State :=
  let i := (off - 0x2000) / 32
  if 0x7000 ≤ off ∧ off < 0x7800 then s.setRw32 off v
  else if 0x8000 ≤ off ∧ off < 0x10000 then (if (s.reqSt q).page then s.cvRegWrite q off v else s)
  else if 0x4000 ≤ off ∧ off < 0x4400 ∧ off % 0x40 = 0x10 then
    orElse s q off (reqIsSp q) (fun s => if bit32 v 0 then after s (execRetrain q ((off - 0x4000) / 0x40) s) else s)
  else if 0x2000 ≤ off ∧ off < 0x2080 ∧ off % 32 = 0 then (if q = .sp i ∧ bit32 v 16 then after s (execHeartbeat i s) else s)
  else
    match off with
    | 0x38 => s.updReq q (fun r => { r with page := bit32 v 0 })
    | 0x1008 => after s (execBootcfgWrite q v s)
    | 0x1010 => if bit32 v 1 then { s with boot := { s.boot with changed := false } } else s
    | 0x1018 => orElse s q off (reqIsSp q) (fun s => if bit32 v 0 then after s (execWarmReset q f s) else s)
    | 0x1108 => s.fwctlWrite q v
    | 0x20A0 => orElse s q off (reqIsSp q && spcfgOk v) (fun s => s.setRw32 off (v &&& 0xFFFF))
    | 0x2100 => s.ledgercfgWrite q v
    | 0x2110 => after s (execSalvage q v s)
    | 0x2118 => after s (execRetireCmd q v s)
    | _ => s

/-! ## MSI-X (02 R32; 03 R79) -/

/-- A dword of q's MSI-X table. Unmasking a vector that is pending raises it. -/
def State.msixWrite (s : State) (q : Req) (off : Nat) (v : W32) : State :=
  let o := off - 0xF0000
  let fn := msixFn q
  let n := o / 16
  let i := o / 4 % 4
  if 16 * msixCount q ≤ o then s
  else
    let v := if i = 0 then v &&& 0xFFFFFFFC else if i = 3 then v &&& 1 else v
    let s := { s with port := { s.port with msix := Tab.set s.port.msix ((fn * 2048 + n) * 4 + i) v } }
    if i = 3 ∧ v = 0 ∧ NSet.has s.port.pba (fn * 2048 + n) then
      { s with port := { s.port with pba := NSet.del s.port.pba (fn * 2048 + n) } }.fire fn n
    else s

/-! ## Pitch table (04) -/

/-- PCTL: QUIESCE, then RESET with SCRUB. -/
def State.pctlWrite (s : State) (q : Req) (p : Nat) (v : W32) : State :=
  let s := after s (execQuiesce q p (bit32 v 0) s)
  if bit32 v 1 then after s (execPitchReset q p (bit32 v 2) s) else s

def State.pitchWrite (s : State) (q : Req) (off : Nat) (v : W32) : State :=
  if 0x102000 ≤ off ∧ off < 0x102400 then
    orElse s q off (s.ptWriter q) (fun s =>
      { s with pt := { s.pt with shadow := { s.pt.shadow with smap := Tab.set s.pt.shadow.smap ((off - 0x102000) / 4) (v &&& 0xFFF1) } } })
  else if 0x104000 ≤ off ∧ off < 0x104400 then (if off % 64 = 0 then s.pctlWrite q ((off - 0x104000) / 64) v else s)
  else
    match off with
    | 0x100004 => after s (execPtCommit q v s)
    | 0x10000C => after s (execPtRevert q v s)
    | _ => s

/-- PENTRY of the shadow table. -/
def PTab.entryWrite (t : PTab) (o : Nat) (v : Word) (lo hi : Bool) : PTab :=
  let p := o / 64
  match o % 64 with
  | 0 => { t with cfg := Tab.set t.cfg p (mergeHalf (t.cfgOf p) v lo hi &&& 0x7F3F) }
  | 8 => { t with far := Tab.set t.far p (mergeHalf (t.farOf p) v lo hi &&& 0x0FFF0FFF) }
  | 16 => { t with tally := Tab.set t.tally p (mergeHalf (t.tallyOf p) v lo hi &&& 0x0007FFFF0003FFFF) }
  | _ => t

def State.pitchWrite64 (s : State) (q : Req) (off : Nat) (v : Word) (lo hi : Bool) : State :=
  if 0x101000 ≤ off ∧ off < 0x101400 then
    orElse s q off (s.ptWriter q) (fun s => { s with pt := { s.pt with shadow := s.pt.shadow.entryWrite (off - 0x101000) v lo hi } })
  else s

/-! ## Ring blocks (03, 13, 14) -/

/-- RINGCTL: ABORT, else ENABLE from 0 to 1 or from 1 to 0. -/
def State.ringctlWrite (s : State) (q : Req) (p r : Nat) (v : W32) : State :=
  if bit32 v 1 then after s (execRingAbort q p r s)
  else if bit32 v 0 ∧ !(s.ring p r).enable then after s (execRingEnable q p r s)
  else if !bit32 v 0 ∧ (s.ring p r).enable then after s (execRingDisable q p r s)
  else s

/-- R49: no ring of the pitch is ACTIVE. -/
def State.ringsStill (s : State) (p : Nat) : Bool := (List.range 64).all (fun r => !s.ringActive p r)

/-- A dword of pitch p's ring block. While ENABLE is 1 RINGCFG[4:0] keeps its value (R47). -/
def State.blockWrite (s : State) (q : Req) (p x : Nat) (v : W32) : State :=
  let b := 0x180000 + 0x8000 * p + x
  if x < 0x4000 then
    (if x % 0x100 = 0x10 then
       s.setRw32 b (if (s.ring p (x / 0x100)).enable then (v &&& 0xFFFFFF00) ||| (s.rw32 b &&& 0x1F) else v &&& 0xFFFFFF1F)
     else if x % 0x100 = 0x14 then s.ringctlWrite q p (x / 0x100) v
     else s)
  else if 0x4800 ≤ x ∧ x < 0x4C00 then after s (execHandleWrite q p ((x - 0x4800) / 16) (x % 16) 4 (v.setWidth 64) s)
  else
    match x with
    | 0x4008 => orElse s q b (s.ringsStill p) (fun s => s.setRw32 b (v &&& 0xFFFF))
    | 0x4100 => s.setRw32 b (v &&& 0x3FFFFFFF)
    | 0x4120 => after s (execJcancel q p v s)
    | _ => s

/-- A 64-bit register of pitch p's ring block. While ENABLE is 1 writes to SQBASE and CQBASE are ignored (R47). -/
def State.blockWrite64 (s : State) (q : Req) (p x : Nat) (v : Word) (lo hi : Bool) : State :=
  let b := 0x180000 + 0x8000 * p + x
  if x < 0x4000 then (if (s.ring p (x / 0x100)).enable then s else s.store64 b v lo hi 0xFFFFFFFFFFFFF000)
  else
    match x with
    | 0x4000 => orElse s q b (s.ringsStill p) (fun s => s.store64 b v lo hi 0xFFFFFFFFFFFFF000)
    | 0x4108 => if lo then after s (if fld v 0 3 = 2 then execUnloadModel q p v s else execLoadModel q p v s) else s
    | 0x4110 => s.store64 b v lo hi 0xFFFFFFFFFFFFFFFF
    | 0x4200 => s.store64 b v lo hi 0xFFFFFFFF000000F1
    | _ => s

/-! ## Far memory, power and thermal (05, 11, 12, 15, 16) -/

/-- MODCMD (11 R249): an undefined command is REJECTED_FORMAT. -/
def State.modcmdWrite (s : State) (q : Req) (m : Nat) (v : W32) : State :=
  after s (match fld32 v 0 3 with
    | 1 => execDisplace q m s
    | 2 => execPowerdown q m s
    | 3 => execPowerup q m s
    | 4 => execModuleRestore q m s
    | _ => .next (s.modCmd q m (some 0x20) id))

/-- THCTL (16 R361, R364). -/
def State.thctlWrite (s : State) (q : Req) (h : Nat) (v : W32) : State :=
  let s := orElse s q (thctl h) (reqIsSp q) (fun s => s.setRw32 (thctl h) (v &&& 2))
  if reqIsSp q ∧ bit32 v 0 then after s (execRestart q h s) else s

def scrubOk (v : W32) : Bool := (fld32 v 0 16 = 0 || decide (16 ≤ fld32 v 0 16)) && (fld32 v 16 16 = 0 || decide (16 ≤ fld32 v 16 16))

def pwrcfgOk (v : W32) : Bool :=
  decide (200 ≤ fld32 v 0 10 ∧ fld32 v 0 10 ≤ 600 ∧ fld32 v 0 10 ≤ fld32 v 10 10 ∧ fld32 v 10 10 ≤ 760 ∧ 20 ≤ fld32 v 20 7 ∧ fld32 v 20 7 ≤ 80)

def coolcfgOk (v : W32) : Bool :=
  decide (fld32 v 0 5 ≤ 30 ∧ fld32 v 8 2 ≤ 2 ∧ fld32 v 12 4 ≤ 10 ∧ 60 ≤ fld32 v 16 8 ∧ fld32 v 16 8 ≤ 95 ∧ 10 ≤ fld32 v 24 8 ∧
    fld32 v 24 8 ≤ 250)

/-- A register of chapter 15 in this range, which the host never writes. -/
def powerReg (off : Nat) : Bool :=
  decide (0x202100 ≤ off ∧ off < 0x202104 ∨ 0x202108 ≤ off ∧ off < 0x202138 ∨ off = 0x202180 ∨ 0x202200 ≤ off ∧ off < 0x202600 ∨ 0x203000 ≤ off ∧ off < 0x203000 + 4 * 1096 ∨
    0x206000 ≤ off ∧ off < 0x206000 + 4 * 1096 ∨ 0x208000 ≤ off ∧ off < 0x208000 + 8 * 1096)

def State.farWrite (s : State) (q : Req) (off : Nat) (v : W32) : State :=
  if powerReg off ∧ !reqIsSp q then s.refuse q off
  else if 0x200100 ≤ off ∧ off < 0x200200 ∧ off % 64 = 8 then s.modcmdWrite q ((off - 0x200100) / 64) v
  else if 0x201000 ≤ off ∧ off < 0x201100 ∧ off % 64 = 8 then after s (execHallRefCmd q ((off - 0x201000) / 64) v s)
  else if 0x20C000 ≤ off ∧ off < 0x20C100 ∧ off % 64 = 0x20 then s.thctlWrite q ((off - 0x20C000) / 64) v
  else
    match off with
    | 0x202000 => orElse s q off (reqIsSp q && scrubOk v) (fun s => s.setRw32 off v)
    | 0x202100 => orElse s q off (pwrcfgOk v) (fun s => s.setRw32 off (v &&& 0x07FFFFFF))
    | 0x20C408 => orElse s q off (reqIsSp q && coolcfgOk v) (fun s => s.setRw32 off (v &&& 0xFFFFF31F))
    | 0x20C40C => orElse s q off (reqIsSp q) (fun s => s.setRw32 off (v &&& 0x1FF))
    | _ => s

def State.farWrite64 (s : State) (q : Req) (off : Nat) (v : Word) (lo : Bool) : State :=
  if powerReg off ∧ !reqIsSp q then s.refuse q off
  else if 0x202110 ≤ off ∧ off < 0x202138 ∧ lo then after s (execVsetWrite q ((off - 0x202110) / 8) (v.setWidth 32) s)
  else s

/-! ## Scales, jostle and counters (20) -/

/-- A register of the jostle range but JCTL. -/
def State.jostleWrite (s : State) (q : Req) (off : Nat) (v : W32) : State :=
  orElse s q off (s.jostler q) (fun s =>
    if off < 0x380240 then s.setRw32 off (v &&& 0xFFFF)
    else if off < 0x380480 then
      orElse s q off (decide (fld32 v 16 8 ≤ fld32 v 24 8 ∧ fld32 v 24 8 ≠ 0)) (fun s => s.setRw32 off v)
    else s)

def State.obsWrite (s : State) (q : Req) (off : Nat) (v : W32) : State :=
  if 0x300000 ≤ off ∧ off < 0x348000 then (if off % 0x200 = 0x10 then after s (execMcommit q ((off - 0x300000) / 0x200) v s) else s)
  else if off = 0x380000 then after s (execJostleUnlock q v s)
  else if (s.obsNarrow off).isSome ∧ 0x380200 ≤ off ∧ off < 0x381000 then s.jostleWrite q off v
  else if off = 0x3F0000 then { s with obs := { s.obs with cntovfg := s.obs.cntovfg &&& ~~~ v } }
  else if 0x3F0100 ≤ off ∧ off < 0x3F018C then
    { s with obs := { s.obs with
        wbovf := (List.range 32).foldl (fun l i => if bit32 v i then NSet.del l (8 * (off - 0x3F0100) + i) else l) s.obs.wbovf } }
  else s

def State.obsWrite64 (s : State) (q : Req) (off : Nat) (v : Word) (lo hi : Bool) : State :=
  if off < 0x348000 then
    (if off % 0x200 = 0 then orElse s q off (notLd q) (fun s => s.store64 off v lo hi 0xFFFFFFFFFFFF03FF)
     else if off % 0x200 = 8 then orElse s q off (notLd q) (fun s => s.store64 off v lo hi 0x000FFFFFFFFFFFFF)
     else s)
  else if 0x380800 ≤ off ∧ off % 64 = 0 then after s (execJinjcfgWrite q ((off - 0x380800) / 64) (mergeHalf (s.rw64 off) v lo hi) s)
  else if 0x380800 ≤ off then orElse s q off (s.jostler q) (fun s => s.store64 off v lo hi 0xFFFFFFFFFFFFFFFF)
  else orElse s q off (s.jostler q) (fun s => s.store64 off v lo hi (if off % 32 = 0 then 0x1FFFF else 0xFFFFFFFFFFFFFFFF))

/-! ## Stall blocks (05, 06, 07, 10, 15, 20) -/

/-- STALLCTL (06 R143, R144, R146). -/
def State.stallctl (s : State) (n : Nat) (v : W32) : State :=
  let s := s.setRw32 (stallBase n + 8) (v &&& 8)
  let s := if bit32 v 0 then s.preemptStall n (fld32 v 3 1) else s
  let s := if bit32 v 1 then s.restoreStall n (fld32 v 3 1) else s
  if bit32 v 2 then s.haltStall n else s

/-- ARRAYCFG and ARRAYSEED: at the stall's next boundary, at once where it is idle (R177). -/
def State.arraycfgWrite (s : State) (n : Nat) (v : W32) : State :=
  let v := v &&& 0xF
  let s := s.setRw32 (stallBase n + 0x100) v
  if (s.stall n).idle then s.updStall n (fun st => { st with arraycfg := v, pendArr := false }) else s.updStall n (fun st => { st with pendArr := true })

def State.arrayseedWrite (s : State) (n : Nat) (v : W32) : State :=
  let s := s.setRw32 (stallBase n + 0x104) v
  if (s.stall n).idle then
    s.updStall n (fun st => { st with arrayseed := v, pendSeed := false, arr := { st.arr with gen := if v = 0 then 1 else v } })
  else s.updStall n (fun st => { st with pendSeed := true })

/-- SLICECFG: at the first frame boundary after the stall's next work-item boundary (R122). -/
def State.slicecfgWrite (s : State) (n : Nat) (v : W32) : State :=
  (s.setRw32 (stallBase n + 0x200) (v &&& 7)).updStall n (fun st => { st with
    armSlice := if st.idle then some (v &&& 7) else st.armSlice, pendSlice := !st.idle })

/-- SELCTL: ARM, STOP and DISARM in that order. -/
def State.selctlWrite (s : State) (n : Nat) (v : W32) : State :=
  let s := if bit32 v 0 then s.selArm n else s
  let s := if bit32 v 1 then s.selStop n else s
  if bit32 v 2 then s.selDisarm n else s

def State.stallRegWrite (s : State) (q : Req) (n r : Nat) (v : W32) : State :=
  match r with
  | 0x8 => s.spOnly q n (fun t => t.stallctl n v)
  | 0x18 => s.stallTry q n r 4 false id
  | 0x100 => s.stallTry q n r 4 (decide (2 ≤ fld32 v 0 4 ∧ fld32 v 0 4 ≤ 8)) (fun t => t.arraycfgWrite n v)
  | 0x104 => s.stallTry q n r 4 true (fun t => t.arrayseedWrite n v)
  | 0x200 => s.stallTry q n r 4 true (fun t => t.slicecfgWrite n v)
  | 0x300 => after s (execIslandclkWrite q n v s)
  | 0x310 => s.stallTry q n r 4 true (fun t => t.setRw32 (stallPwrOff n) (v &&& 0xFF04))
  | 0x428 => s.selCtl q n v (fun t => t.selctlWrite n v)
  | 0x580 => s.stallTry q n r 4 true (fun t => t.updStall n (fun st => { st with cntovf := st.cntovf &&& ~~~ v }))
  | _ => s.stallTry q n r 4 true id

def State.stallRegWrite64 (s : State) (q : Req) (n r : Nat) (v : Word) (lo hi : Bool) : State :=
  let b := stallBase n + r
  let off := decide ((s.stall n).sel.st = 0)
  match r with
  | 0x400 => s.stallTry q n r 8 off (fun t => t.store64 b v lo hi 0xFFFF1FFF)
  | 0x408 => s.stallTry q n r 8 off (fun t => t.store64 b v lo hi 0xFFFFFFFFFFFFFFFF)
  | 0x410 => s.stallTry q n r 8 off (fun t => t.store64 b v lo hi 0xFFFFFFFFFFFFFFFF)
  | 0x418 => s.stallTry q n r 8 off (fun t => t.store64 b v lo hi 0x0000FFFF7C1FFFFF)
  | 0x420 => s.stallTry q n r 8 off (fun t => t.store64 b v lo hi 0xFFFFFFFFFFFFFFFF)
  | 0x440 => after s (execSelrptrWrite q n (mergeHalf (s.stall n).sel.rptr v lo hi) s)
  | _ => s.stallTry q n r 8 true id

/-! ## BAR0 as a whole -/

/-- A dword write, permission apart. -/
def State.write32 (s : State) (q : Req) (f : Find) (off : Nat) (v : W32) : State :=
  if off < 0xF0000 then s.gateWrite q f off v
  else if off < 0x100000 then s.msixWrite q off v
  else if off < 0x180000 then s.pitchWrite q off v
  else if off < 0x200000 then s.blockWrite q ((off - 0x180000) / 0x8000) (off % 0x8000) v
  else if off < 0x300000 then s.farWrite q off v
  else if off < 0x400000 then s.obsWrite q off v
  else s.stallRegWrite q (stallOfOff off) (off % 0x10000) v

/-- A write to halves of the 64-bit register at `off`, permission apart. FWSTAT and FWCOMPAT refuse every write (19 R430). -/
def State.write64 (s : State) (q : Req) (off : Nat) (v : Word) (lo hi : Bool) : State :=
  if off < 0xF0000 then
    (if off = 0xA000 then s.cvcfgWrite (mergeHalf (s.rw64 off) v lo hi)
     else if off = 0x1100 ∨ off = 0x1110 then s.refuse q off else s)
  else if off < 0x180000 then s.pitchWrite64 q off v lo hi
  else if off < 0x200000 then s.blockWrite64 q ((off - 0x180000) / 0x8000) (off % 0x8000) v lo hi
  else if off < 0x300000 then s.farWrite64 q off v lo
  else if off < 0x400000 then s.obsWrite64 q off v lo hi
  else s.stallRegWrite64 q (stallOfOff off) (off % 0x10000) v lo hi

/-- Which offsets a requester may write (R466, R86). -/
def State.mayWrite (s : State) (q : Req) (off : Nat) : Bool :=
  match q with
  | .host => !decide (0x400000 ≤ off ∧ off < 0x1000000)
  | .sp _ => !decide (0xF0000 ≤ off ∧ off < 0x100000 ∨ 0x400000 ≤ off ∧ off < 0x1000000)
  | .ld p =>
    off = 0x38 || decide (0xF0000 ≤ off ∧ off < 0x100000) ||
      decide (0x104000 + 0x40 * p ≤ off ∧ off < 0x104040 + 0x40 * p) ||
      decide (0x180000 + 0x8000 * p ≤ off ∧ off < 0x188000 + 0x8000 * p) ||
      (decide (0x1000000 ≤ off ∧ off < 0x2000000) && s.pitchOf (stallOfOff off) = some p)

/-- An aligned write of 4 or 8 bytes, permission apart. In recovery FWSTAT, FWCTL and FWCOMPAT alone are there (19 R429). -/
def State.rawWrite (s : State) (q : Req) (f : Find) (off size : Nat) (v : Word) : State :=
  let b := off / 8 * 8
  if s.fw.recovery ∧ b ≠ 0x1100 ∧ b ≠ 0x1108 ∧ b ≠ 0x1110 then s
  else if (s.regWide q b).isSome then
    (if size = 8 then s.write64 q b v true true
     else s.write64 q b (if off % 8 = 4 then v <<< 32 else v &&& 0xFFFFFFFF) (off % 8 = 0) (off % 8 = 4))
  else if size = 8 then (s.write32 q f off (v.setWidth 32)).write32 q f (off + 4) ((v >>> 32).setWidth 32)
  else s.write32 q f off (v.setWidth 32)

/-- An aligned write by requester q: none where it is refused, which leaves every register as it was (R466, R468). -/
def State.tryWrite (s : State) (q : Req) (f : Find) (off size : Nat) (v : Word) : Option State :=
  if !s.mayWrite q off then none
  else
    let r := s.reqSt q
    let t := (s.updReq q (fun x => { x with cnt := 0 })).rawWrite q f off size v
    if (t.reqSt q).cnt ≠ 0 then none
    else if (Tab.find t.req (reqNum q)).isNone then some t
    else if (t.reqSt q).page = r.page then some { t with req := s.req }
    else some { t with req := (s.updReq q (fun x => { x with page := (t.reqSt q).page })).req }

end Sys2Proof.Machine
end

