-- ==== Sys2Proof/Machine/Regs.lean ====
section
/-!
DEFINITION. The accesses to the BARs: reads with RC fields and high-half shadows (00 R7, R8), writes, accesses of a bad size (02 R31), crier
accesses (22 R473 to R475), and register access over MCTP (22 R472).
-/
namespace Sys2Proof.Machine

/-! ## Reads of BAR0 -/

/-- A stall is requester p's own for the pitch table: by the active table or by the one the stall has applied (04 R86). -/
def State.ownStall (s : State) (p n : Nat) : Bool := s.pt.active.owner n = some p || s.pitchOf n = some p

/-- Which offsets a requester may read (R466, R86). In recovery few answer (19 R429). -/
def State.mayRead (s : State) (q : Req) (off : Nat) : Bool :=
  (!s.fw.recovery || [0x0, 0x8, 0x1000, 0x1100, 0x1108, 0x1110].contains (off / 8 * 8)) &&
  match q with
  | .host => true
  | .sp _ => !decide (0xF0000 ≤ off ∧ off < 0x100000)
  | .ld p =>
    if 0x100000 ≤ off ∧ off < 0x180000 then
      off = 0x100000 || off = 0x100008 || decide (0x101000 + 0x40 * p ≤ off ∧ off < 0x101040 + 0x40 * p) ||
        decide (0x111000 + 0x40 * p ≤ off ∧ off < 0x111040 + 0x40 * p) ||
        (decide (0x102000 ≤ off ∧ off < 0x102400) && s.ownStall p ((off - 0x102000) / 4)) ||
        (decide (0x112000 ≤ off ∧ off < 0x112400) && s.ownStall p ((off - 0x112000) / 4)) ||
        (decide (0x103000 ≤ off ∧ off < 0x103400) && s.ownStall p ((off - 0x103000) / 4))
    else if 0x180000 ≤ off ∧ off < 0x200000 then (off - 0x180000) / 0x8000 = p
    else if 0x380000 ≤ off ∧ off < 0x381000 then false
    else if 0x1000000 ≤ off ∧ off < 0x2000000 then s.pitchOf (stallOfOff off) = some p
    else true

/-- What a read of the dword at `off` does: RC fields clear, log entries and landing reports count as read (12 R278; 14 R323), a GATED
stall wakes (15 R327), FREEBLK with several READY slots uses a free value. -/
def State.readTouch (s : State) (q : Req) (off : Nat) : State :=
  let p := (off - 0x180000) / 0x8000
  if off = 0x28 then s.updReq q (fun r => { r with cnt := 0 })
  else if off = 0x6000 then { s with integ := { s.integ with overrun := 0 } }
  else if 0x4000 ≤ off ∧ off < 0x4400 ∧ off % 0x40 = 8 then s.updLink ((off - 0x4000) / 0x40) (fun l => { l with replays := 0 })
  else if 0x8000 ≤ off ∧ off < 0x10000 ∧ !(s.reqSt q).page then
    (if (Tab.find s.integ.log ((off - 0x8000) / 32)).any (s.seesEntry q) then
      { s with integ := { s.integ with read := NSet.add s.integ.read ((off - 0x8000) / 32) } } else s)
  else if 0x104000 ≤ off ∧ off < 0x104400 ∧ off % 64 = 8 then s.updPctl ((off - 0x104000) / 64) (fun c => { c with fencecnt := 0 })
  else if 0x180000 ≤ off ∧ off < 0x200000 then
    let x := off % 0x8000
    let land := fun (f : LandSt → LandSt) => { s with cv := { s.cv with land := Tab.set s.cv.land p (f (s.landOf p)) } }
    if x = 0x4010 then s.updPring p (fun r => { r with dberr := 0 })
    else if x = 0x4208 then land (fun l => { l with overrun := 0 })
    else if 0x4300 ≤ x ∧ x < 0x4500 then land (fun l => { l with read := NSet.add l.read ((x - 0x4300) / 32) })
    else if x = 0x412C ∧ 2 ≤ (s.jis1 p).ready.length then s.used
    else s
  else if off = 0x202180 then { s with pwr := { s.pwr with overrun := 0 } }
  else if off = 0x20C500 then { s with cool := { s.cool with overrun := 0 } }
  else if 0x1000000 ≤ off ∧ off < 0x2000000 ∧ (s.stall (stallOfOff off)).gated then
    s.updStall (stallOfOff off) (fun st => { st with gated := false })
  else s

/-- The key of a shadow: one shadow a register, and ACCERRINFO's one a requester. -/
def shadowKey (q : Req) (bar off : Nat) : Nat := off + bar * 2 ^ 32 + (if bar = 0 ∧ off = 0x30 then (1 + reqNum q) * 2 ^ 40 else 0)

/-- An aligned read of 4 or 8 bytes of BAR0. The high half of a 64-bit register goes into its shadow at a low-half read and at a 64-bit
read (00 R8); of two 32-bit registers read at once, one the requester may not read is 0 (R86). -/
def State.readBar0 (s : State) (q : Req) (off size : Nat) : State × Word :=
  if !s.mayRead q off && !(size = 8 && s.mayRead q (off + 4)) then (s, 0)
  else
    let wide := (s.regWide q (off / 8 * 8)).isSome
    let lo := s.dword q (off / 8 * 8)
    let hi := s.dword q (off / 8 * 8 + 4)
    if size = 8 ∧ wide then
      ({ (s.readTouch q off).readTouch q (off + 4) with shadow := Tab.set s.shadow (shadowKey q 0 off) hi },
        wordOf (lo.toNat + 4294967296 * hi.toNat))
    else if size = 8 then
      let a := s.mayRead q off
      let b := s.mayRead q (off + 4)
      let t := if a then s.readTouch q off else s
      (if b then t.readTouch q (off + 4) else t,
        wordOf ((if a then lo.toNat else 0) + 4294967296 * (if b then hi.toNat else 0)))
    else if wide ∧ off % 8 = 4 then (s, (Tab.get 0 s.shadow (shadowKey q 0 (off / 8 * 8))).setWidth 64)
    else if wide then
      ({ (s.readTouch q off).readTouch q (off + 4) with shadow := Tab.set s.shadow (shadowKey q 0 off) hi }, lo.setWidth 64)
    else (s.readTouch q off, (s.dword q off).setWidth 64)

/-! ## BAR4: the slots of the near-bank command window (02 R30 to R36) -/

/-- The pitch whose region an offset of BAR4 lies in, and the offset within the region. -/
def windowAt (q : Req) (off : Nat) : Option (Nat × Nat) :=
  match q with
  | .host => some (off / 0x40000, off % 0x40000)
  | .ld p => if off < 0x40000 then some (p, off) else none
  | .sp _ => none

/-- WSTATUS. -/
def Slot.statWord (d : Slot) : Word := pack [(ofBool d.busy, 0, 1), (d.status, 8, 8), (d.cecnt, 16, 16), (d.seq.toNat, 32, 32)]

/-- A 64-bit register of a slot. -/
def Slot.wide (d : Slot) (x : Nat) : Option Word :=
  match x with
  | 0x0 => some d.target
  | 0x8 => some (d.len &&& 0xFFFFFFFFFF)
  | 0x10 => some d.value
  | 0x18 => some (d.table &&& 0x0000FFFFFFFF0FFF)
  | 0x20 => some 0
  | 0x28 => some d.statWord
  | 0x30 => some d.result
  | _ => none

/-- A dword of WDATA: 0 while BUSY. -/
def Slot.dataDword (d : Slot) (x : Nat) : W32 := if d.busy ∨ x < 0x800 then 0 else dwordAt (Mem.rdBytes d.data (x - 0x800) 4) 0

/-- An aligned read of 4 or 8 bytes of BAR4. -/
def State.readBar4 (s : State) (q : Req) (off size : Nat) : State × Word :=
  match windowAt q off with
  | none => (s, 0)
  | some (p, o) =>
    if !s.windowMode p then (s, 0)
    else
      let d := s.slot p (o / 0x1000)
      let x := o % 0x1000
      match d.wide (x / 8 * 8) with
      | some w =>
        let latched := { s with shadow := Tab.set s.shadow (shadowKey q 4 (p * 0x40000 + o)) ((w >>> 32).setWidth 32) }
        if size = 8 then (latched, w)
        else if x % 8 = 4 then (s, (Tab.get 0 s.shadow (shadowKey q 4 (p * 0x40000 + o - 4))).setWidth 64)
        else (latched, (w.setWidth 32).setWidth 64)
      | none =>
        (s, wordOf ((d.dataDword x).toNat + (if size = 8 then 4294967296 * (d.dataDword (x + 4)).toNat else 0)))

/-- The halves of a slot register that are written. -/
def Slot.write (d : Slot) (x : Nat) (v : Word) (lo hi : Bool) : Slot :=
  match x with
  | 0x0 => { d with target := mergeHalf d.target v lo hi }
  | 0x8 => { d with len := mergeHalf d.len v lo hi }
  | 0x10 => { d with value := mergeHalf d.value v lo hi }
  | 0x18 => { d with table := mergeHalf d.table v lo hi }
  | _ => d

/-- An aligned write of 4 or 8 bytes of BAR4: while BUSY only WABORT acts (R36). -/
def State.writeBar4 (s : State) (q : Req) (off size : Nat) (v : Word) : State :=
  match windowAt q off with
  | none => s
  | some (p, o) =>
    let n := o / 0x1000
    let x := o % 0x1000
    let d := s.slot p n
    if !s.windowMode p then s
    else if x = 0x38 then after s (execWabort q p n (v.setWidth 32) s)
    else if x = 0x20 then s.wcmd p n v (size = 8)
    else if 0x40 ≤ x ∧ x < 0x800 ∨ x = 0x3C then s
    else if d.busy then s.winErr p
    else if 0x28 ≤ x ∧ x < 0x38 then s
    else if x = 0x24 then s.updSlot p n (fun d => { d with cmdHi := v.setWidth 32 })
    else if x < 0x20 then
      s.updSlot p n (fun d => d.write (x / 8 * 8) (if x % 8 = 4 then v <<< 32 else v) (x % 8 = 0) (size = 8 || x % 8 = 4))
    else s.updSlot p n (fun d => { d with data := Mem.wrBytes d.data (x - 0x800) (toLE size v.toNat) })

/-! ## BAR2: doorbells (03 R51, R53) -/

/-- The pitch of a doorbell page and the offset within it. -/
def pageAt (q : Req) (off : Nat) : Option (Nat × Nat) :=
  match q with
  | .host => some (off / 0x1000, off % 0x1000)
  | .ld p => if off < 0x1000 then some (p, off) else none
  | .sp _ => none

/-- An aligned write of BAR2: a doorbell lies in the low half of every 8 bytes of the page's first 1,024. -/
def State.writeBar2 (s : State) (q : Req) (off : Nat) (v : Word) : State :=
  match pageAt q off with
  | none => s
  | some (p, x) =>
    if x % 8 ≠ 0 then s
    else if x < 0x200 then after s (execTailDoorbell q p (x / 8) (v.setWidth 32) [] s)
    else if x < 0x400 then after s (execHeadDoorbell q p ((x - 0x200) / 8) (v.setWidth 32) s)
    else s

/-! ## Accesses of a requester -/

/-- A naturally aligned access of 32 or 64 bits (R31). -/
def goodSize (off size : Nat) : Bool := (size = 4 || size = 8) && off % size = 0

/-- An access of another size or alignment: a read completes with Unsupported Request, a write is dropped; both are recorded. -/
def State.badAccess (s : State) (q : Req) (bar off bytes : Nat) (wr : Bool) : State :=
  let s := s.accessError q bar off bytes wr
  if wr then s else { s with out := .ur }

/-- A read of a BAR; a doorbell reads 0. -/
def State.barRead (s : State) (q : Req) (bar off size : Nat) : State :=
  if !s.isReq q ∨ bar ≠ 0 ∧ !reqIsHost q then s
  else if !goodSize off size then s.badAccess q bar off size false
  else
    let r := if bar = 0 then s.readBar0 q off size else if bar = 4 then s.readBar4 q off size else (s, 0)
    { r.1 with out := .reg r.2 }

/-- A write of BAR0: a refused one is recorded (R468). -/
def State.bar0Write (s : State) (q : Req) (f : Find) (off size : Nat) (v : Word) : State :=
  match s.tryWrite q f off size v with
  | some t => t
  | none => s.accessError q 0 off size true

def State.barWrite (s : State) (q : Req) (f : Find) (bar off size : Nat) (v : Word) : State :=
  if !s.isReq q then s.foreignWrite q
  else if bar ≠ 0 ∧ !reqIsHost q then s
  else if !goodSize off size then s.badAccess q bar off size true
  else if bar = 0 then s.bar0Write q f off size v
  else if bar = 4 then s.writeBar4 q off size v
  else s.writeBar2 q off v

/-- BAR_ACCESS_BAD_SIZE. -/
def execBarAccessBadSize (q : Req) (bar off bytes : Nat) (wr : Bool) (st : State) : Ans :=
  run (inReq q && inBar bar off)
    (if !st.isReq q ∨ bar ≠ 0 ∧ !reqIsHost q ∨ goodSize off bytes then st else st.badAccess q bar off bytes wr)

/-! ## Crier accesses (R473 to R475) -/

/-- The stalls a crier offset names and the register offset; none where it is unassigned. -/
def State.crierAt (s : State) (off : Nat) : Option (List Nat × Nat) :=
  if off < 0x3000000 then
    (if off % 0x400000 < 0x10000 then some ((List.range 64).map (fun i => (off - 0x2000000) / 0x400000 * 64 + i), off % 0x10000) else none)
  else if off < 0x3400000 then
    let g := (off - 0x3000000) / 0x10000
    some (allStalls.filter (fun n => bit32 (s.rw32 (0x7000 + 0x20 * g + n / 32 * 4)) (n % 32)), off % 0x10000)
  else if 0x3C00000 ≤ off ∧ off < 0x3C10000 then some (allStalls, off % 0x10000)
  else none

/-- The stalls of the set: good, in a hall that runs, and under MLD of the requester's pitch. -/
def State.crierSet (s : State) (q : Req) (l : List Nat) : List Nat :=
  l.filter (fun n =>
    (s.fpOf n).state = 0 && (s.hall (hallOf n)).up && !(s.hall (hallOf n)).cutoff &&
      (match q with | .ld p => s.pitchOf n = some p | _ => true))

/-- The registers that accept crier writes (†), by dword. -/
def dagger (r : Nat) : Bool := [0x8, 0x100, 0x104, 0x200, 0x300, 0x310, 0x400, 0x404, 0x428].contains r

/-- The † registers that only the service processors write (06 R147, 10 R231). -/
def daggerSp (r : Nat) : Bool := r = 0x8 || r = 0x300

/-- The write names a register, and every register it names accepts crier writes, from this requester. -/
def State.crierOk (s : State) (q : Req) (r size : Nat) : Bool :=
  let l := (if size = 8 then [r, r + 4] else [r]).filter (fun x => (s.stallLive 0 x).isSome)
  l ≠ [] && l.all (fun x => dagger x && (reqIsSp q || !daggerSp x))

/-- The stalls of the set take the write in turn; one that refuses it is noted. -/
def State.crierRun (s : State) (q : Req) (f : Find) (r size : Nat) (v : Word) (l : List Nat) : State × Bool :=
  l.foldl (fun x n =>
    match x.1.tryWrite q f (stallBase n + r) size v with
    | some t => (t, x.2)
    | none => (x.1, true)) (s, false)

/-- A crier write: one access error at most. -/
def State.crierWrite (s : State) (q : Req) (off size : Nat) (v : Word) : State :=
  if !s.isReq q then s.foreignWrite q
  else if s.fw.recovery then s
  else if !goodSize off size then s.badAccess q 0 off size true
  else
    match s.crierAt off with
    | none => s
    | some (l, r) =>
      if !s.crierOk q r size then s.accessError q 0 off size true
      else
        let x := s.crierRun q {} r size v (s.crierSet q l)
        if x.2 then x.1.accessError q 0 off size true else x.1

/-- A read returns what the register of the lowest-numbered stall of the set reads; nothing clears and no shadow is latched. -/
def State.crierRead (s : State) (q : Req) (off size : Nat) : State :=
  if !s.isReq q then s
  else if !goodSize off size then s.badAccess q 0 off size false
  else
    match (if s.fw.recovery then none else s.crierAt off) with
    | none => { s with out := .reg 0 }
    | some (l, r) =>
      match s.crierSet q l with
      | [] => { s with out := .reg 0 }
      | n :: _ =>
        let lo := s.stallDword n r
        let v := if size = 8 then wordOf (lo.toNat + 4294967296 * (s.stallDword n (r + 4)).toNat)
          else if r % 8 = 4 ∧ (s.stallWide n (r / 8 * 8)).isSome then
            (Tab.get 0 s.shadow (shadowKey q 0 (stallBase n + r - 4))).setWidth 64
          else lo.setWidth 64
        { s.updStall n (fun st => { st with gated := false }) with out := .reg v }

/-- CRIER_WRITE. -/
def execCrierWrite (q : Req) (off size : Nat) (v : Word) (st : State) : Ans :=
  run (inReq q && inCrier off) (st.crierWrite q off size v)

/-- CRIER_READ. -/
def execCrierRead (q : Req) (off size : Nat) (st : State) : Ans :=
  run (inReq q && inCrier off) (st.crierRead q off size)

/-- A read of a BAR, a crier offset of BAR0 among them. -/
def State.anyRead (s : State) (q : Req) (bar off size : Nat) : State :=
  if bar = 0 ∧ inCrier off then s.crierRead q off size else s.barRead q bar off size

/-- READ_CLEAR: a read, which clears the RC fields it returns. -/
def execReadClear (q : Req) (bar off size : Nat) (st : State) : Ans := run (inReq q && inBar bar off) (st.anyRead q bar off size)

/-- LOW_HALF_READ: a 32-bit read, which latches the high half of a 64-bit register whose low half it reads. -/
def execLowHalfRead (q : Req) (bar off : Nat) (st : State) : Ans := run (inReq q && inBar bar off) (st.anyRead q bar off 4)

/-- SETUP_REGISTER_WRITE: a write of a BAR, a crier offset of BAR0 among them. -/
def execSetupRegisterWrite (q : Req) (bar off size : Nat) (v : Word) (f : Find) (st : State) : Ans :=
  run (inReq q && inBar bar off)
    (if bar = 0 ∧ inCrier off then st.crierWrite q off size v else st.barWrite q f bar off size v)

/-! ## Register access over MCTP (R472) -/

/-- The active member of the platform pair. -/
def State.platform (s : State) : Option Nat := [2, 3].find? (fun i => (s.sp i).role = 3)

/-- REG_RESULT: the sequence number of the request, STATUS in byte 4, the value in bytes 12 to 19. -/
def State.regResult (s : State) (seq : Byte) (status : Nat) (v : Word) : State :=
  s.send (.mctp 0x22 (toLE 1 0x22 ++ [seq] ++ zeros 2 ++ toLE 1 status ++ zeros 7 ++ toLE 8 v.toNat))

/-- The format of a request (SIZE 2 for 32 bits, 3 for 64). -/
def regFormat (off size : Nat) (rsvdOk : Bool) : Bool :=
  rsvdOk && (size = 2 || size = 3) && decide (off < 0x4000000) && off % 2 ^ size = 0

/-- A service processor reaches a register at the offset. -/
def State.regReach (s : State) (q : Req) (off size : Nat) : Bool :=
  s.mayWrite q off &&
    (if inCrier off then (s.crierAt off).any (fun x => (s.stallLive 0 x.2).isSome || (size = 3 && (s.stallLive 0 (x.2 + 4)).isSome))
     else s.assigned q off || (size = 3 && s.assigned q (off + 4)))

/-- REG_READ. -/
def execRegRead (seq : Byte) (off size : Nat) (rsvdOk : Bool) (st : State) : Ans :=
  run true
    (match st.platform with
     | none => st
     | some i =>
       if !regFormat off size rsvdOk then st.regResult seq 0x20 0
       else if !st.regReach (.sp i) off size then st.regResult seq 0x22 0
       else
         let s := if inCrier off then st.crierRead (.sp i) off (2 ^ size) else st.barRead (.sp i) 0 off (2 ^ size)
         { s with out := st.out }.regResult seq 0 (match s.out with | .reg v => v | _ => 0))

/-- REG_WRITE: a refused write changes nothing and enters no ACCERRCNT. -/
def execRegWriteMsg (seq : Byte) (off size : Nat) (v : Word) (rsvdOk : Bool) (f : Find) (st : State) : Ans :=
  run true
    (match st.platform with
     | none => st
     | some i =>
       let q : Req := .sp i
       if !regFormat off size rsvdOk then st.regResult seq 0x20 0
       else if !st.regReach q off size then st.regResult seq 0x22 0
       else if inCrier off then
         (match st.crierAt off with
          | none => st.regResult seq 0x22 0
          | some (l, r) =>
            if !st.crierOk q r (2 ^ size) then st.regResult seq 0x22 0
            else
              let x := st.crierRun q f r (2 ^ size) v (st.crierSet q l)
              x.1.regResult seq (if x.2 then 0x22 else 0) 0)
       else
         match st.tryWrite q f off (2 ^ size) v with
         | some t => t.regResult seq 0 0
         | none => st.regResult seq 0x22 0)

end Sys2Proof.Machine
end

