-- ==== Sys2Proof/Machine/Scalar.lean ====
section
/-!
DEFINITION. The scalar arithmetic halves: SNOP, OPR with its FN codes, the immediate forms, LUI and AUIPC (06 R131, R132).
-/
namespace Sys2Proof.Machine

def flagW (b : Bool) : Word := if b then 1 else 0

/-- High 64 bits of an exact product. -/
def mulHi (a b : Int) : Word := BitVec.ofInt 64 (a * b / 2 ^ 64)

/-- Quotient and remainder, truncating; division by zero gives all ones and RA, −2^63 by −1 gives −2^63 and 0 (R132). -/
def divS (a b : Word) : Word := if b = 0 then BitVec.allOnes 64 else a.sdiv b
def remS (a b : Word) : Word := if b = 0 then a else a.srem b
def divU (a b : Word) : Word := if b = 0 then BitVec.allOnes 64 else a / b
def remU (a b : Word) : Word := if b = 0 then a else a % b

/-- Zeros above the most significant one among the low n bits; n when there is none. -/
def clzN (a : Word) : Nat → Nat
  | 0 => 0
  | n + 1 => if a.getLsbD n then 0 else 1 + clzN a n

/-- Zeros below the least significant one, from bit i with n bits left. -/
def ctzN (a : Word) (i : Nat) : Nat → Nat
  | 0 => 0
  | n + 1 => if a.getLsbD i then 0 else 1 + ctzN a (i + 1) n

def popN (a : Word) : Nat → Nat
  | 0 => 0
  | n + 1 => (if a.getLsbD n then 1 else 0) + popN a n

/-- RD = RA op RB (OPR). -/
def State.alu (s : State) (n k : Nat) (rd ra rb : BitVec 5) (f : Word → Word → Word) : State :=
  s.scalar n k (fun t => s.scalarDone n k (t.setG rd.toNat (f (t.gr ra.toNat) (t.gr rb.toNat))) (t.pc + 16))

/-- RD = op RA; RB must be 0 (OPR CLZ, CTZ, POPC). -/
def State.alu1 (s : State) (n k : Nat) (rd ra rb : BitVec 5) (f : Word → Nat) : State :=
  s.scalar n k (fun t =>
    if rb = 0 then s.scalarDone n k (t.setG rd.toNat (BitVec.ofNat 64 (f (t.gr ra.toNat)))) (t.pc + 16)
    else s.scalarExc n k cILLEGAL 0)

/-- RD = RA op sign-extended IMM15. -/
def State.aluI (s : State) (n k : Nat) (rd ra : BitVec 5) (imm : BitVec 15) (f : Word → Word → Word) : State :=
  s.scalar n k (fun t => s.scalarDone n k (t.setG rd.toNat (f (t.gr ra.toNat) (imm.signExtend 64))) (t.pc + 16))

/-- RD = RA shifted by IMM15[5:0]; IMM15[14:6] must be 0. -/
def State.shiftI (s : State) (n k : Nat) (rd ra : BitVec 5) (imm : BitVec 15) (f : Word → Nat → Word) : State :=
  s.scalar n k (fun t =>
    if imm.toNat < 64 then s.scalarDone n k (t.setG rd.toNat (f (t.gr ra.toNat) imm.toNat)) (t.pc + 16)
    else s.scalarExc n k cILLEGAL 0)

/-- SNOP: the scalar half does nothing (R131). -/
def execSnop (s k : Nat) (st : State) : Ans :=
  run (inStall s && inThread k) (st.scalar s k (fun t => st.scalarDone s k t (t.pc + 16)))

/-- OPR ADD (R132). -/
def execAddG (s k : Nat) (rd ra rb : BitVec 5) (st : State) : Ans :=
  run (inStall s && inThread k) (st.alu s k rd ra rb (fun a b => a + b))

/-- OPR SUB (R132). -/
def execSubG (s k : Nat) (rd ra rb : BitVec 5) (st : State) : Ans :=
  run (inStall s && inThread k) (st.alu s k rd ra rb (fun a b => a - b))

/-- OPR AND (R132). -/
def execAndG (s k : Nat) (rd ra rb : BitVec 5) (st : State) : Ans :=
  run (inStall s && inThread k) (st.alu s k rd ra rb (fun a b => a &&& b))

/-- OPR OR (R132). -/
def execOrG (s k : Nat) (rd ra rb : BitVec 5) (st : State) : Ans :=
  run (inStall s && inThread k) (st.alu s k rd ra rb (fun a b => a ||| b))

/-- OPR XOR (R132). -/
def execXorG (s k : Nat) (rd ra rb : BitVec 5) (st : State) : Ans :=
  run (inStall s && inThread k) (st.alu s k rd ra rb (fun a b => a ^^^ b))

/-- OPR SLL (R132). -/
def execSllG (s k : Nat) (rd ra rb : BitVec 5) (st : State) : Ans :=
  run (inStall s && inThread k) (st.alu s k rd ra rb (fun a b => a <<< (b.toNat % 64)))

/-- OPR SRL (R132). -/
def execSrlG (s k : Nat) (rd ra rb : BitVec 5) (st : State) : Ans :=
  run (inStall s && inThread k) (st.alu s k rd ra rb (fun a b => a >>> (b.toNat % 64)))

/-- OPR SRA (R132). -/
def execSraG (s k : Nat) (rd ra rb : BitVec 5) (st : State) : Ans :=
  run (inStall s && inThread k) (st.alu s k rd ra rb (fun a b => a.sshiftRight (b.toNat % 64)))

/-- OPR SLT (R132). -/
def execSltG (s k : Nat) (rd ra rb : BitVec 5) (st : State) : Ans :=
  run (inStall s && inThread k) (st.alu s k rd ra rb (fun a b => flagW (a.slt b)))

/-- OPR SLTU (R132). -/
def execSltuG (s k : Nat) (rd ra rb : BitVec 5) (st : State) : Ans :=
  run (inStall s && inThread k) (st.alu s k rd ra rb (fun a b => flagW (a.ult b)))

/-- OPR MUL (R132). -/
def execMulG (s k : Nat) (rd ra rb : BitVec 5) (st : State) : Ans :=
  run (inStall s && inThread k) (st.alu s k rd ra rb (fun a b => a * b))

/-- OPR MULH (R132). -/
def execMulhG (s k : Nat) (rd ra rb : BitVec 5) (st : State) : Ans :=
  run (inStall s && inThread k) (st.alu s k rd ra rb (fun a b => mulHi a.toInt b.toInt))

/-- OPR MULHU (R132). -/
def execMulhuG (s k : Nat) (rd ra rb : BitVec 5) (st : State) : Ans :=
  run (inStall s && inThread k) (st.alu s k rd ra rb (fun a b => mulHi (a.toNat : Int) b.toNat))

/-- OPR DIV (R132). -/
def execDivG (s k : Nat) (rd ra rb : BitVec 5) (st : State) : Ans :=
  run (inStall s && inThread k) (st.alu s k rd ra rb (fun a b => divS a b))

/-- OPR DIVU (R132). -/
def execDivuG (s k : Nat) (rd ra rb : BitVec 5) (st : State) : Ans :=
  run (inStall s && inThread k) (st.alu s k rd ra rb (fun a b => divU a b))

/-- OPR REM (R132). -/
def execRemG (s k : Nat) (rd ra rb : BitVec 5) (st : State) : Ans :=
  run (inStall s && inThread k) (st.alu s k rd ra rb (fun a b => remS a b))

/-- OPR REMU (R132). -/
def execRemuG (s k : Nat) (rd ra rb : BitVec 5) (st : State) : Ans :=
  run (inStall s && inThread k) (st.alu s k rd ra rb (fun a b => remU a b))

/-- OPR MIN (R132). -/
def execMinG (s k : Nat) (rd ra rb : BitVec 5) (st : State) : Ans :=
  run (inStall s && inThread k) (st.alu s k rd ra rb (fun a b => if a.slt b then a else b))

/-- OPR MAX (R132). -/
def execMaxG (s k : Nat) (rd ra rb : BitVec 5) (st : State) : Ans :=
  run (inStall s && inThread k) (st.alu s k rd ra rb (fun a b => if a.slt b then b else a))

/-- OPR MINU (R132). -/
def execMinuG (s k : Nat) (rd ra rb : BitVec 5) (st : State) : Ans :=
  run (inStall s && inThread k) (st.alu s k rd ra rb (fun a b => if a.ult b then a else b))

/-- OPR MAXU (R132). -/
def execMaxuG (s k : Nat) (rd ra rb : BitVec 5) (st : State) : Ans :=
  run (inStall s && inThread k) (st.alu s k rd ra rb (fun a b => if a.ult b then b else a))

/-- OPR CLZ (R131). -/
def execClzG (s k : Nat) (rd ra rb : BitVec 5) (st : State) : Ans :=
  run (inStall s && inThread k) (st.alu1 s k rd ra rb (fun a => clzN a 64))

/-- OPR CTZ (R131). -/
def execCtzG (s k : Nat) (rd ra rb : BitVec 5) (st : State) : Ans :=
  run (inStall s && inThread k) (st.alu1 s k rd ra rb (fun a => ctzN a 0 64))

/-- OPR POPC (R131). -/
def execPopcG (s k : Nat) (rd ra rb : BitVec 5) (st : State) : Ans :=
  run (inStall s && inThread k) (st.alu1 s k rd ra rb (fun a => popN a 64))

/-- ADDI (R131). -/
def execAddi (s k : Nat) (rd ra : BitVec 5) (imm : BitVec 15) (st : State) : Ans :=
  run (inStall s && inThread k) (st.aluI s k rd ra imm (fun a b => a + b))

/-- ANDI (R131). -/
def execAndi (s k : Nat) (rd ra : BitVec 5) (imm : BitVec 15) (st : State) : Ans :=
  run (inStall s && inThread k) (st.aluI s k rd ra imm (fun a b => a &&& b))

/-- ORI (R131). -/
def execOri (s k : Nat) (rd ra : BitVec 5) (imm : BitVec 15) (st : State) : Ans :=
  run (inStall s && inThread k) (st.aluI s k rd ra imm (fun a b => a ||| b))

/-- XORI (R131). -/
def execXori (s k : Nat) (rd ra : BitVec 5) (imm : BitVec 15) (st : State) : Ans :=
  run (inStall s && inThread k) (st.aluI s k rd ra imm (fun a b => a ^^^ b))

/-- SLTI (R131). -/
def execSlti (s k : Nat) (rd ra : BitVec 5) (imm : BitVec 15) (st : State) : Ans :=
  run (inStall s && inThread k) (st.aluI s k rd ra imm (fun a b => flagW (a.slt b)))

/-- SLTIU (R131). -/
def execSltiu (s k : Nat) (rd ra : BitVec 5) (imm : BitVec 15) (st : State) : Ans :=
  run (inStall s && inThread k) (st.aluI s k rd ra imm (fun a b => flagW (a.ult b)))

/-- SLLI (R131). -/
def execSlli (s k : Nat) (rd ra : BitVec 5) (imm : BitVec 15) (st : State) : Ans :=
  run (inStall s && inThread k) (st.shiftI s k rd ra imm (fun a n => a <<< n))

/-- SRLI (R131). -/
def execSrli (s k : Nat) (rd ra : BitVec 5) (imm : BitVec 15) (st : State) : Ans :=
  run (inStall s && inThread k) (st.shiftI s k rd ra imm (fun a n => a >>> n))

/-- SRAI (R131). -/
def execSrai (s k : Nat) (rd ra : BitVec 5) (imm : BitVec 15) (st : State) : Ans :=
  run (inStall s && inThread k) (st.shiftI s k rd ra imm (fun a n => a.sshiftRight n))

/-- LUI: RD = IMM20 << 12, sign-extended (R131). -/
def execLui (s k : Nat) (rd : BitVec 5) (imm : BitVec 20) (st : State) : Ans :=
  run (inStall s && inThread k) (st.scalar s k (fun t =>
    st.scalarDone s k (t.setG rd.toNat (imm.signExtend 64 <<< 12)) (t.pc + 16)))

/-- AUIPC: RD = PC + (IMM20 << 12) (R131). -/
def execAuipc (s k : Nat) (rd : BitVec 5) (imm : BitVec 20) (st : State) : Ans :=
  run (inStall s && inThread k) (st.scalar s k (fun t =>
    st.scalarDone s k (t.setG rd.toNat (t.pc + (imm.signExtend 64 <<< 12))) (t.pc + 16)))

end Sys2Proof.Machine
end

