-- ==== Sys2Proof/Machine/Dispatch.lean ====
section
/-!
DEFINITION. One arm for each command: its meaning.
-/
namespace Sys2Proof.Machine

def exec (i : Instr) (s : State) : Host.Outcome State Fault Refusal :=
  match i with
  | .readClear q bar off size => Sys2Proof.Machine.execReadClear q bar off size s
  | .lowHalfRead q bar off => Sys2Proof.Machine.execLowHalfRead q bar off s
  | .setupRegisterWrite q bar off size v f => Sys2Proof.Machine.execSetupRegisterWrite q bar off size v f s
  | .barAccessBadSize q bar off bytes wr => Sys2Proof.Machine.execBarAccessBadSize q bar off bytes wr s
  | .linkTraining width speed apn mldSwitch => Sys2Proof.Machine.execLinkTraining width speed apn mldSwitch s
  | .hdmDecoderCommit ld dec d => Sys2Proof.Machine.execHdmDecoderCommit ld dec d s
  | .cxlMemRead ld addr => Sys2Proof.Machine.execCxlMemRead ld addr s
  | .cxlMemWrite ld addr data => Sys2Proof.Machine.execCxlMemWrite ld addr data s
  | .memWrPtl ld addr data be => Sys2Proof.Machine.execMemWrPtl ld addr data be s
  | .getEventRecords ld log => Sys2Proof.Machine.execGetEventRecords ld log s
  | .clearEventRecords ld log n => Sys2Proof.Machine.execClearEventRecords ld log n s
  | .getEventInterruptPolicy ld => Sys2Proof.Machine.execGetEventInterruptPolicy ld s
  | .setEventInterruptPolicy ld pol => Sys2Proof.Machine.execSetEventInterruptPolicy ld pol s
  | .getFwInfo ld => Sys2Proof.Machine.execGetFwInfo ld s
  | .transferFw ld slot act off data => Sys2Proof.Machine.execTransferFw ld slot act off data s
  | .activateFw ld slot online => Sys2Proof.Machine.execActivateFw ld slot online s
  | .getTimestamp ld => Sys2Proof.Machine.execGetTimestamp ld s
  | .setTimestamp ld ns => Sys2Proof.Machine.execSetTimestamp ld ns s
  | .getSupportedLogs ld => Sys2Proof.Machine.execGetSupportedLogs ld s
  | .getLog ld cel off len => Sys2Proof.Machine.execGetLog ld cel off len s
  | .identifyMemoryDevice ld => Sys2Proof.Machine.execIdentifyMemoryDevice ld s
  | .getHealthInfo ld => Sys2Proof.Machine.execGetHealthInfo ld s
  | .getPoisonList ld dpa len => Sys2Proof.Machine.execGetPoisonList ld dpa len s
  | .injectPoison ld dpa => Sys2Proof.Machine.execInjectPoison ld dpa s
  | .clearPoison ld dpa data => Sys2Proof.Machine.execClearPoison ld dpa data s
  | .unsupportedMailboxCommand ld opcode => Sys2Proof.Machine.execUnsupportedMailboxCommand ld opcode s
  | .getLdInfo => Sys2Proof.Machine.execGetLdInfo s
  | .getLdAllocations => Sys2Proof.Machine.execGetLdAllocations s
  | .getQosControl => Sys2Proof.Machine.execGetQosControl s
  | .setLdAllocations => Sys2Proof.Machine.execSetLdAllocations s
  | .setQosControl => Sys2Proof.Machine.execSetQosControl s
  | .fillOp q p n v wide => Sys2Proof.Machine.execFillOp q p n v wide s
  | .addReduce q p n v wide => Sys2Proof.Machine.execAddReduce q p n v wide s
  | .gatherSum q p n v wide => Sys2Proof.Machine.execGatherSum q p n v wide s
  | .compareCount q p n v wide => Sys2Proof.Machine.execCompareCount q p n v wide s
  | .windowOpEnd p n ce => Sys2Proof.Machine.execWindowOpEnd p n ce s
  | .wabort q p n v => Sys2Proof.Machine.execWabort q p n v s
  | .ringEnable q p r => Sys2Proof.Machine.execRingEnable q p r s
  | .ringDisable q p r => Sys2Proof.Machine.execRingDisable q p r s
  | .ringAbort q p r => Sys2Proof.Machine.execRingAbort q p r s
  | .tailDoorbell q p r v stores => Sys2Proof.Machine.execTailDoorbell q p r v stores s
  | .headDoorbell q p r v => Sys2Proof.Machine.execHeadDoorbell q p r v s
  | .descriptorFetch p r => Sys2Proof.Machine.execDescriptorFetch p r s
  | .submissionFetchFailed p r => Sys2Proof.Machine.execSubmissionFetchFailed p r s
  | .kernel p r seq => Sys2Proof.Machine.execKernel p r seq s
  | .kernelEnd p r seq ce => Sys2Proof.Machine.execKernelEnd p r seq ce s
  | .porterCopy p r seq rdFail => Sys2Proof.Machine.execPorterCopy p r seq rdFail s
  | .porterCopyEnd p r seq ce hostFail => Sys2Proof.Machine.execPorterCopyEnd p r seq ce hostFail s
  | .nearBatch p r seq rdFail hostFail => Sys2Proof.Machine.execNearBatch p r seq rdFail hostFail s
  | .nearBatchEnd p r seq ce => Sys2Proof.Machine.execNearBatchEnd p r seq ce s
  | .fenceDescriptor p r seq => Sys2Proof.Machine.execFenceDescriptor p r seq s
  | .nopDescriptor p r seq => Sys2Proof.Machine.execNopDescriptor p r seq s
  | .itemTimeout p r seq => Sys2Proof.Machine.execItemTimeout p r seq s
  | .moderationTimer p r => Sys2Proof.Machine.execModerationTimer p r s
  | .busMasterEnableSet fn => Sys2Proof.Machine.execBusMasterEnableSet fn s
  | .flr fn => Sys2Proof.Machine.execFlr fn s
  | .ptCommit q v => Sys2Proof.Machine.execPtCommit q v s
  | .ptRevert q v => Sys2Proof.Machine.execPtRevert q v s
  | .stallApplyGeneration n_ => Sys2Proof.Machine.execStallApplyGeneration n_ s
  | .quiesce q p on => Sys2Proof.Machine.execQuiesce q p on s
  | .pitchReset q p scrub => Sys2Proof.Machine.execPitchReset q p scrub s
  | .nearRequest n_ off cyc k => Sys2Proof.Machine.execNearRequest n_ off cyc k s
  | .foreignRequest n_ off cyc k => Sys2Proof.Machine.execForeignRequest n_ off cyc k s
  | .farEgress n_ k agent wr addr => Sys2Proof.Machine.execFarEgress n_ k agent wr addr s
  | .readResponse n_ k => Sys2Proof.Machine.execReadResponse n_ k s
  | .refreshSlot h => Sys2Proof.Machine.execRefreshSlot h s
  | .frameBoundary h => Sys2Proof.Machine.execFrameBoundary h s
  | .hallRefCmd q h v => Sys2Proof.Machine.execHallRefCmd q h v s
  | .multiplierLowering h layer => Sys2Proof.Machine.execMultiplierLowering h layer s
  | .refreshFailsafe h => Sys2Proof.Machine.execRefreshFailsafe h s
  | .rowCopyDone n_ row => Sys2Proof.Machine.execRowCopyDone n_ row s
  | .snop n_ k => Sys2Proof.Machine.execSnop n_ k s
  | .addG n_ k rd ra rb => Sys2Proof.Machine.execAddG n_ k rd ra rb s
  | .subG n_ k rd ra rb => Sys2Proof.Machine.execSubG n_ k rd ra rb s
  | .andG n_ k rd ra rb => Sys2Proof.Machine.execAndG n_ k rd ra rb s
  | .orG n_ k rd ra rb => Sys2Proof.Machine.execOrG n_ k rd ra rb s
  | .xorG n_ k rd ra rb => Sys2Proof.Machine.execXorG n_ k rd ra rb s
  | .sllG n_ k rd ra rb => Sys2Proof.Machine.execSllG n_ k rd ra rb s
  | .srlG n_ k rd ra rb => Sys2Proof.Machine.execSrlG n_ k rd ra rb s
  | .sraG n_ k rd ra rb => Sys2Proof.Machine.execSraG n_ k rd ra rb s
  | .sltG n_ k rd ra rb => Sys2Proof.Machine.execSltG n_ k rd ra rb s
  | .sltuG n_ k rd ra rb => Sys2Proof.Machine.execSltuG n_ k rd ra rb s
  | .mulG n_ k rd ra rb => Sys2Proof.Machine.execMulG n_ k rd ra rb s
  | .mulhG n_ k rd ra rb => Sys2Proof.Machine.execMulhG n_ k rd ra rb s
  | .mulhuG n_ k rd ra rb => Sys2Proof.Machine.execMulhuG n_ k rd ra rb s
  | .divG n_ k rd ra rb => Sys2Proof.Machine.execDivG n_ k rd ra rb s
  | .divuG n_ k rd ra rb => Sys2Proof.Machine.execDivuG n_ k rd ra rb s
  | .remG n_ k rd ra rb => Sys2Proof.Machine.execRemG n_ k rd ra rb s
  | .remuG n_ k rd ra rb => Sys2Proof.Machine.execRemuG n_ k rd ra rb s
  | .minG n_ k rd ra rb => Sys2Proof.Machine.execMinG n_ k rd ra rb s
  | .maxG n_ k rd ra rb => Sys2Proof.Machine.execMaxG n_ k rd ra rb s
  | .minuG n_ k rd ra rb => Sys2Proof.Machine.execMinuG n_ k rd ra rb s
  | .maxuG n_ k rd ra rb => Sys2Proof.Machine.execMaxuG n_ k rd ra rb s
  | .clzG n_ k rd ra rb => Sys2Proof.Machine.execClzG n_ k rd ra rb s
  | .ctzG n_ k rd ra rb => Sys2Proof.Machine.execCtzG n_ k rd ra rb s
  | .popcG n_ k rd ra rb => Sys2Proof.Machine.execPopcG n_ k rd ra rb s
  | .addi n_ k rd ra imm => Sys2Proof.Machine.execAddi n_ k rd ra imm s
  | .andi n_ k rd ra imm => Sys2Proof.Machine.execAndi n_ k rd ra imm s
  | .ori n_ k rd ra imm => Sys2Proof.Machine.execOri n_ k rd ra imm s
  | .xori n_ k rd ra imm => Sys2Proof.Machine.execXori n_ k rd ra imm s
  | .slli n_ k rd ra imm => Sys2Proof.Machine.execSlli n_ k rd ra imm s
  | .srli n_ k rd ra imm => Sys2Proof.Machine.execSrli n_ k rd ra imm s
  | .srai n_ k rd ra imm => Sys2Proof.Machine.execSrai n_ k rd ra imm s
  | .slti n_ k rd ra imm => Sys2Proof.Machine.execSlti n_ k rd ra imm s
  | .sltiu n_ k rd ra imm => Sys2Proof.Machine.execSltiu n_ k rd ra imm s
  | .lui n_ k rd imm => Sys2Proof.Machine.execLui n_ k rd imm s
  | .auipc n_ k rd imm => Sys2Proof.Machine.execAuipc n_ k rd imm s
  | .lb n_ k rd ra imm => Sys2Proof.Machine.execLb n_ k rd ra imm s
  | .lh n_ k rd ra imm => Sys2Proof.Machine.execLh n_ k rd ra imm s
  | .lw n_ k rd ra imm => Sys2Proof.Machine.execLw n_ k rd ra imm s
  | .ld n_ k rd ra imm => Sys2Proof.Machine.execLd n_ k rd ra imm s
  | .lbu n_ k rd ra imm => Sys2Proof.Machine.execLbu n_ k rd ra imm s
  | .lhu n_ k rd ra imm => Sys2Proof.Machine.execLhu n_ k rd ra imm s
  | .lwu n_ k rd ra imm => Sys2Proof.Machine.execLwu n_ k rd ra imm s
  | .sb n_ k rb ra imm => Sys2Proof.Machine.execSb n_ k rb ra imm s
  | .sh n_ k rb ra imm => Sys2Proof.Machine.execSh n_ k rb ra imm s
  | .sw n_ k rb ra imm => Sys2Proof.Machine.execSw n_ k rb ra imm s
  | .sd n_ k rb ra imm => Sys2Proof.Machine.execSd n_ k rb ra imm s
  | .beq n_ k ra rb off => Sys2Proof.Machine.execBeq n_ k ra rb off s
  | .bne n_ k ra rb off => Sys2Proof.Machine.execBne n_ k ra rb off s
  | .blt n_ k ra rb off => Sys2Proof.Machine.execBlt n_ k ra rb off s
  | .bge n_ k ra rb off => Sys2Proof.Machine.execBge n_ k ra rb off s
  | .bltu n_ k ra rb off => Sys2Proof.Machine.execBltu n_ k ra rb off s
  | .bgeu n_ k ra rb off => Sys2Proof.Machine.execBgeu n_ k ra rb off s
  | .jal n_ k rd off => Sys2Proof.Machine.execJal n_ k rd off s
  | .jalr n_ k rd ra imm => Sys2Proof.Machine.execJalr n_ k rd ra imm s
  | .mfs n_ k rd ra imm => Sys2Proof.Machine.execMfs n_ k rd ra imm s
  | .mts n_ k rd ra imm => Sys2Proof.Machine.execMts n_ k rd ra imm s
  | .fence n_ k fn => Sys2Proof.Machine.execFence n_ k fn s
  | .syncg n_ k => Sys2Proof.Machine.execSyncg n_ k s
  | .ttake n_ k rd ra rb fn => Sys2Proof.Machine.execTtake n_ k rd ra rb fn s
  | .tsetv n_ k rd ra rb fn => Sys2Proof.Machine.execTsetv n_ k rd ra rb fn s
  | .tsig n_ k rd ra rb fn => Sys2Proof.Machine.execTsig n_ k rd ra rb fn s
  | .twait n_ k rd ra rb fn => Sys2Proof.Machine.execTwait n_ k rd ra rb fn s
  | .kend n_ k => Sys2Proof.Machine.execKend n_ k s
  | .trap n_ k imm => Sys2Proof.Machine.execTrap n_ k imm s
  | .eret n_ k => Sys2Proof.Machine.execEret n_ k s
  | .wnop n_ k w => Sys2Proof.Machine.execWnop n_ k w s
  | .tld n_ k w => Sys2Proof.Machine.execTld n_ k w s
  | .tst n_ k w => Sys2Proof.Machine.execTst n_ k w s
  | .trel n_ k w => Sys2Proof.Machine.execTrel n_ k w s
  | .mwld n_ k w => Sys2Proof.Machine.execMwld n_ k w s
  | .mstrm n_ k w => Sys2Proof.Machine.execMstrm n_ k w s
  | .mfill n_ k w => Sys2Proof.Machine.execMfill n_ k w s
  | .hmv n_ k w => Sys2Proof.Machine.execHmv n_ k w s
  | .vop n_ k w => Sys2Proof.Machine.execVop n_ k w s
  | .vfma n_ k w => Sys2Proof.Machine.execVfma n_ k w s
  | .vcvt n_ k w => Sys2Proof.Machine.execVcvt n_ k w s
  | .vexp n_ k w => Sys2Proof.Machine.execVexp n_ k w s
  | .vrcp n_ k w => Sys2Proof.Machine.execVrcp n_ k w s
  | .vrsq n_ k w => Sys2Proof.Machine.execVrsq n_ k w s
  | .vred n_ k w => Sys2Proof.Machine.execVred n_ k w s
  | .vscl n_ k w => Sys2Proof.Machine.execVscl n_ k w s
  | .vcmp n_ k w => Sys2Proof.Machine.execVcmp n_ k w s
  | .pcopy n_ k w => Sys2Proof.Machine.execPcopy n_ k w s
  | .pwait n_ k w => Sys2Proof.Machine.execPwait n_ k w s
  | .porterTransferEnd n_ i_ => Sys2Proof.Machine.execPorterTransferEnd n_ i_ s
  | .instructionFetch n_ k line => Sys2Proof.Machine.execInstructionFetch n_ k line s
  | .arrayPass n_ cyc => Sys2Proof.Machine.execArrayPass n_ cyc s
  | .hawkerStep n_ => Sys2Proof.Machine.execHawkerStep n_ s
  | .wideOpFinish n_ => Sys2Proof.Machine.execWideOpFinish n_ s
  | .arrayCold n_ => Sys2Proof.Machine.execArrayCold n_ s
  | .hawkerPowerDown n_ => Sys2Proof.Machine.execHawkerPowerDown n_ s
  | .preempt q n_ slot => Sys2Proof.Machine.execPreempt q n_ slot s
  | .contextSaveDone n_ => Sys2Proof.Machine.execContextSaveDone n_ s
  | .haltStall q n_ => Sys2Proof.Machine.execHaltStall q n_ s
  | .restore q n_ slot => Sys2Proof.Machine.execRestore q n_ slot s
  | .takeTally o => Sys2Proof.Machine.execTakeTally o s
  | .setTally o => Sys2Proof.Machine.execSetTally o s
  | .signalTally o => Sys2Proof.Machine.execSignalTally o s
  | .waitUntil o => Sys2Proof.Machine.execWaitUntil o s
  | .islandclkWrite q n_ v => Sys2Proof.Machine.execIslandclkWrite q n_ v s
  | .fllSlewDone n_ => Sys2Proof.Machine.execFllSlewDone n_ s
  | .flitTransfer h r out => Sys2Proof.Machine.execFlitTransfer h r out s
  | .arcadeBeat l dir bad seq => Sys2Proof.Machine.execArcadeBeat l dir bad seq s
  | .replay l dir => Sys2Proof.Machine.execReplay l dir s
  | .laneTest l dir g bad strobe => Sys2Proof.Machine.execLaneTest l dir g bad strobe s
  | .remapDrainDone h => Sys2Proof.Machine.execRemapDrainDone h s
  | .retrain q l => Sys2Proof.Machine.execRetrain q l s
  | .retrainDone l ok lostDown lostUp => Sys2Proof.Machine.execRetrainDone l ok lostDown lostUp s
  | .capabilityRecord h g r => Sys2Proof.Machine.execCapabilityRecord h g r s
  | .timebaseSyncBeat h => Sys2Proof.Machine.execTimebaseSyncBeat h s
  | .farCacheAccess off hint wr whole => Sys2Proof.Machine.execFarCacheAccess off hint wr whole s
  | .farChannelAccess ch use => Sys2Proof.Machine.execFarChannelAccess ch use s
  | .mr4Poll m ch rank rate => Sys2Proof.Machine.execMr4Poll m ch rank rate s
  | .spdTempPoll m temp => Sys2Proof.Machine.execSpdTempPoll m temp s
  | .displace q m => Sys2Proof.Machine.execDisplace q m s
  | .powerdown q m => Sys2Proof.Machine.execPowerdown q m s
  | .powerdownDone m => Sys2Proof.Machine.execPowerdownDone m s
  | .powerup q m => Sys2Proof.Machine.execPowerup q m s
  | .powerupDone m f => Sys2Proof.Machine.execPowerupDone m f s
  | .moduleRestore q m => Sys2Proof.Machine.execModuleRestore q m s
  | .lineMove m bad => Sys2Proof.Machine.execLineMove m bad s
  | .correctedRewrite u who e1 es => Sys2Proof.Machine.execCorrectedRewrite u who e1 es s
  | .readRetry u who e1 e2 e3 rb => Sys2Proof.Machine.execReadRetry u who e1 e2 e3 rb s
  | .poisonReadback u who rb => Sys2Proof.Machine.execPoisonReadback u who rb s
  | .packetResend src dst id pkt => Sys2Proof.Machine.execPacketResend src dst id pkt s
  | .sliceScrub n_ port e => Sys2Proof.Machine.execSliceScrub n_ port e s
  | .farScrub ch e => Sys2Proof.Machine.execFarScrub ch e s
  | .validBitWriteback far n_ => Sys2Proof.Machine.execValidBitWriteback far n_ s
  | .loadModel q p v => Sys2Proof.Machine.execLoadModel q p v s
  | .loadCopyDone p slot bad => Sys2Proof.Machine.execLoadCopyDone p slot bad s
  | .unloadModel q p v => Sys2Proof.Machine.execUnloadModel q p v s
  | .jisanRequest p r seq rdFail => Sys2Proof.Machine.execJisanRequest p r seq rdFail s
  | .admission a => Sys2Proof.Machine.execAdmission a s
  | .jisanStep p slot => Sys2Proof.Machine.execJisanStep p slot s
  | .stepEnd p ce bad => Sys2Proof.Machine.execStepEnd p ce bad s
  | .resumeParked a => Sys2Proof.Machine.execResumeParked a s
  | .jcancel q p v => Sys2Proof.Machine.execJcancel q p v s
  | .steplimExpiry p => Sys2Proof.Machine.execSteplimExpiry p s
  | .policyTick fsteps mults batch park => Sys2Proof.Machine.execPolicyTick fsteps mults batch park s
  | .remoteWrite p r seq rd => Sys2Proof.Machine.execRemoteWrite p r seq rd s
  | .remoteTally p r seq => Sys2Proof.Machine.execRemoteTally p r seq s
  | .collective p r seq rd => Sys2Proof.Machine.execCollective p r seq rd s
  | .openFrame f epoch => Sys2Proof.Machine.execOpenFrame f epoch s
  | .openAckFrame f epoch => Sys2Proof.Machine.execOpenAckFrame f epoch s
  | .startFrame f addr len signal => Sys2Proof.Machine.execStartFrame f addr len signal s
  | .dataFrame f addr data => Sys2Proof.Machine.execDataFrame f addr data s
  | .tallyFrame f tally top cmp x => Sys2Proof.Machine.execTallyFrame f tally top cmp x s
  | .tallyResultFrame f status v => Sys2Proof.Machine.execTallyResultFrame f status v s
  | .ackFrame f => Sys2Proof.Machine.execAckFrame f s
  | .refuseFrame f status => Sys2Proof.Machine.execRefuseFrame f status s
  | .collFrame f handle step inst data => Sys2Proof.Machine.execCollFrame f handle step inst data s
  | .caravanAbort f status => Sys2Proof.Machine.execCaravanAbort f status s
  | .probeFrame f => Sys2Proof.Machine.execProbeFrame f s
  | .ackTimer peer port => Sys2Proof.Machine.execAckTimer peer port s
  | .rtoExpiry peer port => Sys2Proof.Machine.execRtoExpiry peer port s
  | .probeTimer peer port => Sys2Proof.Machine.execProbeTimer peer port s
  | .losttimeExpiry peer port => Sys2Proof.Machine.execLosttimeExpiry peer port s
  | .rateUpdate peer port => Sys2Proof.Machine.execRateUpdate peer port s
  | .ethernetPortDown port => Sys2Proof.Machine.execEthernetPortDown port s
  | .neighborDiscovery port ns target src mac => Sys2Proof.Machine.execNeighborDiscovery port ns target src mac s
  | .icmpv6EchoRequest port dst src ident seqno data => Sys2Proof.Machine.execIcmpv6EchoRequest port dst src ident seqno data s
  | .peerctlWrite q v => Sys2Proof.Machine.execPeerctlWrite q v s
  | .peeridxWrite q v => Sys2Proof.Machine.execPeeridxWrite q v s
  | .handleWrite q p h off size v => Sys2Proof.Machine.execHandleWrite q p h off size v s
  | .stallGate n_ => Sys2Proof.Machine.execStallGate n_ s
  | .stallWake n_ => Sys2Proof.Machine.execStallWake n_ s
  | .vsetWrite q rail v => Sys2Proof.Machine.execVsetWrite q rail v s
  | .railRead rail mv da => Sys2Proof.Machine.execRailRead rail mv da s
  | .domainEstimate d uw => Sys2Proof.Machine.execDomainEstimate d uw s
  | .governorTick p1 p10 p1s => Sys2Proof.Machine.execGovernorTick p1 p10 p1s s
  | .droopDetect n_ mv => Sys2Proof.Machine.execDroopDetect n_ mv s
  | .stretchRelease n_ mv => Sys2Proof.Machine.execStretchRelease n_ mv s
  | .railLimited rail => Sys2Proof.Machine.execRailLimited rail s
  | .railCapRise rail => Sys2Proof.Machine.execRailCapRise rail s
  | .diodeConversion h t => Sys2Proof.Machine.execDiodeConversion h t s
  | .thermistorConversion tin tout => Sys2Proof.Machine.execThermistorConversion tin tout s
  | .sensfaultTimer => Sys2Proof.Machine.execSensfaultTimer s
  | .lowflowTimer => Sys2Proof.Machine.execLowflowTimer s
  | .layerModelTick h dramUw => Sys2Proof.Machine.execLayerModelTick h dramUw s
  | .forecastTick items idle => Sys2Proof.Machine.execForecastTick items idle s
  | .flowDemandLower => Sys2Proof.Machine.execFlowDemandLower s
  | .forecastUpdateTimeout => Sys2Proof.Machine.execForecastUpdateTimeout s
  | .heatForecast => Sys2Proof.Machine.execHeatForecast s
  | .grantMsg seq accept valid => Sys2Proof.Machine.execGrantMsg seq accept valid s
  | .grantRequestTimeout => Sys2Proof.Machine.execGrantRequestTimeout s
  | .grantExpiry => Sys2Proof.Machine.execGrantExpiry s
  | .coolantStatus flows inlet pump leak lowpress => Sys2Proof.Machine.execCoolantStatus flows inlet pump leak lowpress s
  | .ctrlseenExpiry => Sys2Proof.Machine.execCtrlseenExpiry s
  | .thermcapTick => Sys2Proof.Machine.execThermcapTick s
  | .clampHall h => Sys2Proof.Machine.execClampHall h s
  | .clampRelease h => Sys2Proof.Machine.execClampRelease h s
  | .tripHall h => Sys2Proof.Machine.execTripHall h s
  | .rearm h => Sys2Proof.Machine.execRearm h s
  | .restart q h => Sys2Proof.Machine.execRestart q h s
  | .hallReturn h f => Sys2Proof.Machine.execHallReturn h f s
  | .gatehouseTrip => Sys2Proof.Machine.execGatehouseTrip s
  | .gatehouseCoolRestart f => Sys2Proof.Machine.execGatehouseCoolRestart f s
  | .sysPwrgdAssert f => Sys2Proof.Machine.execSysPwrgdAssert f s
  | .perstN f => Sys2Proof.Machine.execPerstN f s
  | .hotReset f => Sys2Proof.Machine.execHotReset f s
  | .warmReset q f => Sys2Proof.Machine.execWarmReset q f s
  | .defectListRetry ok => Sys2Proof.Machine.execDefectListRetry ok s
  | .defectListCompact => Sys2Proof.Machine.execDefectListCompact s
  | .bootcfgWrite q v => Sys2Proof.Machine.execBootcfgWrite q v s
  | .heartbeat i_ => Sys2Proof.Machine.execHeartbeat i_ s
  | .heartbeatTimeout i_ => Sys2Proof.Machine.execHeartbeatTimeout i_ s
  | .watchdogExpiry i_ => Sys2Proof.Machine.execWatchdogExpiry i_ s
  | .fatalFault i_ => Sys2Proof.Machine.execFatalFault i_ s
  | .checkpoint pair => Sys2Proof.Machine.execCheckpoint pair s
  | .spRestartDone i_ ok => Sys2Proof.Machine.execSpRestartDone i_ ok s
  | .retireCmd q v => Sys2Proof.Machine.execRetireCmd q v s
  | .salvage q v => Sys2Proof.Machine.execSalvage q v s
  | .ledgerSnapshot ok => Sys2Proof.Machine.execLedgerSnapshot ok s
  | .ledgerFlush q => Sys2Proof.Machine.execLedgerFlush q s
  | .ledgerRetry ok => Sys2Proof.Machine.execLedgerRetry ok s
  | .ledgerSample => Sys2Proof.Machine.execLedgerSample s
  | .bondqAccumulate layerUw => Sys2Proof.Machine.execBondqAccumulate layerUw s
  | .lifeUpdate => Sys2Proof.Machine.execLifeUpdate s
  | .queryDeviceIdentifiers => Sys2Proof.Machine.execQueryDeviceIdentifiers s
  | .getFirmwareParameters => Sys2Proof.Machine.execGetFirmwareParameters s
  | .requestUpdate => Sys2Proof.Machine.execRequestUpdate s
  | .passComponentTable comps => Sys2Proof.Machine.execPassComponentTable comps s
  | .updateComponent comp size => Sys2Proof.Machine.execUpdateComponent comp size s
  | .requestFirmwareData off data => Sys2Proof.Machine.execRequestFirmwareData off data s
  | .transferComplete => Sys2Proof.Machine.execTransferComplete s
  | .verifyComplete => Sys2Proof.Machine.execVerifyComplete s
  | .applyComplete => Sys2Proof.Machine.execApplyComplete s
  | .activateFirmware => Sys2Proof.Machine.execActivateFirmware s
  | .getStatus => Sys2Proof.Machine.execGetStatus s
  | .cancelUpdate => Sys2Proof.Machine.execCancelUpdate s
  | .fwCancel q => Sys2Proof.Machine.execFwCancel q s
  | .updateAgentTimeout => Sys2Proof.Machine.execUpdateAgentTimeout s
  | .fwConfirm q => Sys2Proof.Machine.execFwConfirm q s
  | .autoconfirmExpiry => Sys2Proof.Machine.execAutoconfirmExpiry s
  | .mcommit q m v => Sys2Proof.Machine.execMcommit q m v s
  | .windowBoundary m => Sys2Proof.Machine.execWindowBoundary m s
  | .scalesSample m v => Sys2Proof.Machine.execScalesSample m v s
  | .selArm q n_ => Sys2Proof.Machine.execSelArm q n_ s
  | .selStop q n_ => Sys2Proof.Machine.execSelStop q n_ s
  | .selDisarm q n_ => Sys2Proof.Machine.execSelDisarm q n_ s
  | .traceStart n_ => Sys2Proof.Machine.execTraceStart n_ s
  | .traceStop n_ => Sys2Proof.Machine.execTraceStop n_ s
  | .selogSync n_ => Sys2Proof.Machine.execSelogSync n_ s
  | .selogFlush n_ => Sys2Proof.Machine.execSelogFlush n_ s
  | .selrptrWrite q n_ v => Sys2Proof.Machine.execSelrptrWrite q n_ v s
  | .jostleUnlock q v => Sys2Proof.Machine.execJostleUnlock q v s
  | .jostleExpiry => Sys2Proof.Machine.execJostleExpiry s
  | .jinjcfgWrite q i_ v => Sys2Proof.Machine.execJinjcfgWrite q i_ v s
  | .crierWrite q off size v => Sys2Proof.Machine.execCrierWrite q off size v s
  | .crierRead q off size => Sys2Proof.Machine.execCrierRead q off size s
  | .regRead seq off size rsvdOk => Sys2Proof.Machine.execRegRead seq off size rsvdOk s
  | .regWriteMsg seq off size v rsvdOk f => Sys2Proof.Machine.execRegWriteMsg seq off size v rsvdOk f s
  | .sysPwrgdDrop ns => Sys2Proof.Machine.execSysPwrgdDrop ns s
  | .hallPgDrop h ns => Sys2Proof.Machine.execHallPgDrop h ns s
  | .hallPgTimeout h => Sys2Proof.Machine.execHallPgTimeout h s
  | .cammPresenceChange m present => Sys2Proof.Machine.execCammPresenceChange m present s
  | .cammPgDrop m ns => Sys2Proof.Machine.execCammPgDrop m ns s
  | .tallyDescriptor p r seq => Sys2Proof.Machine.execTallyDescriptor p r seq s
  | .busMasterEnableClear fn => Sys2Proof.Machine.execBusMasterEnableClear fn s
  | .configurationRequest fn off wr => Sys2Proof.Machine.execConfigurationRequest fn off wr s
  | .ethernetLinkUp port => Sys2Proof.Machine.execEthernetLinkUp port s
  | .regulatorStatusAlert rail on => Sys2Proof.Machine.execRegulatorStatusAlert rail on s
  | .eventLogEntryRead q i_ => Sys2Proof.Machine.execEventLogEntryRead q i_ s
  | .salvageDone ce bad => Sys2Proof.Machine.execSalvageDone ce bad s
  | .migrationDone p => Sys2Proof.Machine.execMigrationDone p s
  | .farRefresh ch rank => Sys2Proof.Machine.execFarRefresh ch rank s
  | .reservedOpcode n_ k => Sys2Proof.Machine.execReservedOpcode n_ k s

end Sys2Proof.Machine
end

