-- ==== Sys2Proof/Machine/Step.lean ====
section
/-!
DEFINITION. One step of the block: take the command at the front of the queue, or let a nanosecond of the timebase pass.
-/
namespace Sys2Proof.Machine

/-- One tick of an idle block: the timebase counts 1 ns (10 R227; log entry 1). -/
def State.idleTick (s : State) : State := { s with time := s.time + 1 }

/-- The command at the front of the queue acts on the state with the rest of the queue; an empty queue lets 1 ns pass. -/
def step (s : State) : Host.Outcome State Fault Refusal :=
  match s.pending with
  | [] => .next s.idleTick
  | c :: rest => exec c { s with pending := rest }

/-- s with the command that a word spells at the front of its queue: s itself, since no word spells one. -/
def State.withFetchWord (s : State) (nbits w : Nat) : State :=
  match decodeTableWord nbits w with
  | some c => { s with pending := c :: s.pending }
  | none => s

end Sys2Proof.Machine
end

