-- ==== Sys2Proof/Safety.lean ====
section
/-!
DEFINITION. What the statements about the device are made of: the canonical form of its memories, a thread about to execute, how
two states may differ, and where a command has its effect.
-/
namespace Sys2Proof.Machine

/-- The meaning answers a next state, and it is as P says. -/
def Completes (a : Ans) (P : State → Prop) : Prop := ∃ t, a = .next t ∧ P t

/-! ## Memory -/

/-- The four memories are in canonical form. -/
def MemSt.wf (m : MemSt) : Bool := Mem.wf m.slice && Mem.wf m.far && Mem.wf m.shelf && Mem.wf m.host

/-! ## Threads -/

/-- Thread k of stall n comes next to the scalar half of a pair, no exception is due (06 R130), and the pair was fetched readable (R140). -/
def State.atScalar (s : State) (n k : Nat) : Prop :=
  n < 256 ∧ k < 4 ∧ (s.thread n k).st = .run ∧ (s.thread n k).half = false ∧ (s.thread n k).stop = false ∧ (s.thread n k).due = none ∧
  (s.stall n).fetchBad (s.thread n k).pc = false

/-- Thread k of stall n comes next to the wide half of a pair (06 R130). -/
def State.atWide (s : State) (n k : Nat) : Prop :=
  n < 256 ∧ k < 4 ∧ (s.thread n k).st = .run ∧ (s.thread n k).half = true ∧ (s.thread n k).stop = false

/-- The pair's scalar half was no KEND and its stall is being neither preempted nor halted: the thread goes on after the pair. -/
def State.goesOn (s : State) (n k : Nat) : Prop := (s.thread n k).ending = false ∧ (s.stall n).stopping = false

/-- Thread k of stall n has written v to register rd (nothing where rd is 0) and comes next to the wide half of its pair, `next` being the
pair after it; every other register and everything else in the device is as in s. `flow` is what the tracer is told of the pair. -/
def ScalarWrites (s : State) (n k rd : Nat) (v next : Word) (flow : Nat) (t : State) : Prop :=
  t = s.setThread n k { s.thread n k with g := (t.thread n k).g, half := true, npc := next, flow := flow } ∧
  (rd ≠ 0 → (t.thread n k).gr rd = v) ∧ ∀ r, r ≠ rd → (t.thread n k).gr r = (s.thread n k).gr r

/-! ## What the tracer, the counters and the event messages touch -/

/-- A stall without its tracer, its counters and its instruction buffer. -/
def Stall.bare (x : Stall) : Stall := { x with sel := {}, cnt := [], cntovf := 0, ibuf := [], ibPois := [] }

/-- The device without its stalls and without the messages it has sent or holds. -/
def State.rest (s : State) : State :=
  { s with stalls := [], outbox := [], port := { s.port with pba := [] }, rings := { s.rings with held := [] } }

/-- t differs from s at most in counters, tracers and instruction buffers of stalls and in event messages sent, pended or held. -/
def Observed (s t : State) : Prop := t.rest = s.rest ∧ ∀ m, (t.stall m).bare = (s.stall m).bare

/-- A thread whose pair has retired (06 R130): its PC is the next pair's address. `skip` says that the next pair begins at its wide half
(R141, R143), and what its scalar half left then holds again. -/
def Thread.after (t : Thread) : Thread :=
  { t with st := .run, pc := t.npc, half := t.skip, npc := if t.skip then (t.afterSkip t.npc).1 else t.npc,
           skip := false, gop := none, waited := false, flow := 0, kept := if t.skip then none else t.kept,
           ending := t.skip && (t.afterSkip t.npc).2 }

/-- The pair of thread k of stall n has retired. -/
def Retires (s : State) (n k : Nat) (t : State) : Prop := Observed (s.setThread n k (s.thread n k).after) t

/-- The pairs of all running threads of stall n have retired, TSTART of each being as `f` leaves it. -/
def State.groupAfter (s : State) (n : Nat) (f : Thread → Thread) : State :=
  (s.stall n).running.foldl (fun s k => s.setThread n k (f (s.thread n k)).after) s

/-- A thread in its handler (06 R141), `es` being its ESTAT. -/
def Thread.handler (t : Thread) (cause : Nat) (addr : Word) (es : Nat) (stop : Bool) : Thread :=
  { t with
    st := .run, half := false, skip := false, ending := false, gop := none, resp := none, flow := 0, stop := stop,
    kept := if es % 2 = 1 then some (t.pc, t.npc, t.ending) else none, pc := t.evec, npc := t.evec, epc := t.pc, ecause := BitVec.ofNat 64 cause, eaddr := addr, estat := BitVec.ofNat 64 es }

/-- Thread k of stall n takes its handler (06 R141). -/
def EntersHandler (s : State) (n k cause : Nat) (addr : Word) (half fetch group : Bool) (t : State) : Prop :=
  Observed (s.setThread n k ((s.thread n k).handler cause addr (ofBool half + 2 + 4 * ofBool fetch + 8 * ofBool group)
    (s.stall n).saving)) t

/-- Every running thread of stall n takes its handler with HALF and GROUP set (06 R135, R141). -/
def GroupEntersHandler (s : State) (n cause : Nat) (addr : Word) (t : State) : Prop :=
  Observed ((s.stall n).running.foldl (fun u j => u.setThread n j ((u.thread n j).handler cause addr 11 (s.stall n).saving)) s) t

/-- Thread k of stall n has a handler and is not in it (06 R141, R142), and its stall is not being halted. -/
def State.handles (s : State) (n k : Nat) : Prop :=
  (s.thread n k).evec ≠ 0 ∧ bit (s.thread n k).estat 1 = false ∧ (s.stall n).halting = false

/-! ## Stall space -/

/-- Stall n reads `len` bytes at address a of stall space without a refusal or an exception (04 R95, 06 R138, 12 R264). -/
def State.readable (s : State) (n a len : Nat) : Prop :=
  s.fenceRefuses n (tgtOf n a) = false ∧ s.mapped n (tgtOf n a) = true ∧ s.tgtFault (tgtOf n a) len = none

/-- Stall n writes at address a of stall space without a refusal or an exception. -/
def State.writable (s : State) (n a : Nat) : Prop :=
  s.fenceRefuses n (tgtOf n a) = false ∧ s.mapped n (tgtOf n a) = true ∧ s.tgtHeld (tgtOf n a) = false

/-- Outside the `len` bytes at each of the targets of `l`, every byte of slices, far memory, shelves and host memory reads as before. -/
def MemSt.sameOutside (m m' : MemSt) (l : List Tgt) (len : Nat) : Prop :=
  (∀ b, (∀ x, Tgt.slice x ∈ l → b < x ∨ x + len ≤ b) → Mem.rd m'.slice b = Mem.rd m.slice b) ∧
  (∀ b, (∀ x, Tgt.far x ∈ l → b < x ∨ x + len ≤ b) → Mem.rd m'.far b = Mem.rd m.far b) ∧
  (∀ b, (∀ j x, Tgt.shelf j x ∈ l → ∀ i < len, b ≠ shelfAddr j (x + i)) → Mem.rd m'.shelf b = Mem.rd m.shelf b) ∧
  m'.host = m.host

/-! ## Tile rows -/

/-- The thread's fragment of tile td of stall n holds the eight rows of `row`, marked valid, the count of free values drawn is c, and
nothing else differs. -/
def FragmentSet (s : State) (n k td : Nat) (row : Nat → Row) (c : Nat) (u : State) : Prop :=
  u = { s.updStall n (fun x => { x with rows := (u.stall n).rows, rowPois := (u.stall n).rowPois }) with freeCtr := c } ∧
  (∀ i < 8, Tab.find (u.stall n).rows (rowKey td (8 * k + i)) = some (row i) ∧
    (u.stall n).rowBad td (8 * k + i) = false) ∧
  ∀ j i, i < 32 → (∀ m < 8, rowKey j i ≠ rowKey td (8 * k + m)) →
    Tab.find (u.stall n).rows (rowKey j i) = Tab.find (s.stall n).rows (rowKey j i) ∧
    (u.stall n).rowBad j i = (s.stall n).rowBad j i

/-- No row of the thread's fragment of tile td is uncorrectable. -/
def Stall.goodFragment (x : Stall) (k td : Nat) : Prop := ∀ i < 8, x.rowBad td (8 * k + i) = false

/-! ## Registers -/

/-- Requester q exists and the set-up registers answer (22 R466, 19 R429). -/
def State.setupOpen (s : State) (q : Req) : Prop := s.isReq q = true ∧ s.fw.recovery = false

/-- Requester q reaches the block of stall n, which answers (22 R466, R476). -/
def State.blockOpen (s : State) (q : Req) (n : Nat) : Prop :=
  s.isReq q = true ∧ (∀ p, q = .ld p → s.pitchOf n = some p) ∧ (s.fpOf n).state ≠ 1 ∧ (s.fpOf n).state ≠ 2 ∧
  (s.hall (n / 64)).up = true ∧ (s.hall (n / 64)).cutoff = false

/-- An access to the block wakes a stall that is GATED (15 R327). -/
def State.awake (s : State) (n : Nat) : State := s.updStall n (fun x => { x with gated := false })

/-! ## Pitches -/

/-- No item is fetched, no window operation runs, no convoy is open, no porter moves, and every stall has applied the committed table. -/
def State.pitchesQuiet (s : State) : Prop :=
  s.rings.items = [] ∧ s.cv.conv = [] ∧ s.applying = false ∧ (∀ p n, (s.slot p n).busy = false) ∧
  ∀ n i, (Tab.get {} (s.stall n).port i : Porter).busy = false

/-- Far unit u (256 MiB) lies in the far share of pitch p. -/
def PTab.hasUnit (t : PTab) (p u : Nat) : Prop := t.farbase p ≤ u ∧ u < t.farbase p + t.farsize p

end Sys2Proof.Machine
end

