-- ==== Sys2Proof/Certificates/Slice0/Obligations.lean ====
section
/-!
DEFINITION. The statements for the provers.
-/
open Sys2Proof Sys2Proof.Machine

/-- For every command c and state s: where c stands at the front of the queue of waiting commands, a step of s is the meaning of c
on s with the rest of the queue. On an empty queue a step completes: the timebase goes up by one and nothing else changes. The
queue is the model's own, first in, first out, and that an idle step is 1 ns is the model's choice (log entry 1). -/
def Obligations.StepRunsTheFrontCommand : Prop :=
  (∀ (s : State) (c : Instr) (rest : List Instr), s.pending = c :: rest → step s = exec c { s with pending := rest }) ∧
  ∀ s : State, s.pending = [] → step s = .next { s with time := s.time + 1 }

/-- Whatever the state and whatever command is at the front: where a step answers a next state, that state's queue is the former
queue without its first command. So commands take effect one at a time, in the order of the queue, and none is lost, doubled or
reordered by another. The queue is the model's own. -/
def Obligations.EveryStepTakesOneCommand : Prop :=
  ∀ s t : State, step s = .next t → t.pending = s.pending.tail

/-- From every state whose four memories are in canonical form (addresses strictly rising, no entry equal to 0, which is what an
unlisted byte reads as), a step that answers a next state gives one whose memories are in that form. So equal memories are equal
data, whatever wrote them. -/
def Obligations.EveryStepKeepsMemoryCanonical : Prop :=
  ∀ s t : State, s.mem.wf = true → step s = .next t → t.mem.wf = true

/-- Right after reset the memories are in canonical form, no line of a slice or of far memory is marked written, and every byte
reads as 0 (12 R259, R260 for lines never written; for the shelves and host memory the model's choice, log entries 2 and 3). No
command waits. -/
def Obligations.ResetMemoryIsCanonical : Prop :=
  State.reset.mem.wf = true ∧ State.reset.mem.sliceValid = [] ∧ State.reset.mem.farValid = [] ∧
  (∀ a, Mem.rd State.reset.mem.slice a = 0 ∧ Mem.rd State.reset.mem.far a = 0 ∧ Mem.rd State.reset.mem.shelf a = 0 ∧
    Mem.rd State.reset.mem.host a = 0) ∧ State.reset.pending = []

/-- For every command and every state: where every unit the command names exists (a stall below 256, a thread below 4, a pitch below
16 and so on), its meaning answers a next state; no data, no mode and no register value makes it stop. A command that names a
unit the device does not have stops with the fault noSuchUnit. No command is refused. -/
def Obligations.WellFormedCommandsComplete : Prop :=
  ∀ (c : Instr) (s : State),
    (WellFormed c = true → ∃ t, exec c s = .next t) ∧ (WellFormed c = false → exec c s = .fault .noSuchUnit)

/-- A thread that comes next to a scalar half completes each of the 22 two-operand OPR forms: RD (nothing where it is g0) holds the
result on RA and RB, integer arithmetic wrapping modulo 2^64, shifts by RB[5:0], a division by zero all ones with remainder RA,
DIV of -2^63 by -1 -2^63 with remainder 0, DIV rounding toward zero (log entry 41); none raises an exception. The next pair is
at PC + 16; every other register of the thread and everything else in the device is unchanged. It concludes that exec answers a
next state with the command's own effect for: addG, subG, andG, orG, xorG, sllG, srlG, sraG, sltG, sltuG, mulG, mulhG, mulhuG,
divG, divuG, remG, remuG, minG, maxG, minuG, maxuG. -/
def Obligations.OprWritesItsResult : Prop :=
  ∀ (s : State) (n k : Nat) (rd ra rb : BitVec 5), s.atScalar n k →
    let a := (s.thread n k).gr ra.toNat
    let b := (s.thread n k).gr rb.toNat
    let w := fun (c : Instr) (v : Word) => Completes (exec c s) (ScalarWrites s n k rd.toNat v ((s.thread n k).pc + 16) (s.thread n k).flow)
    w (.addG n k rd ra rb) (a + b) ∧ w (.subG n k rd ra rb) (a - b) ∧ w (.andG n k rd ra rb) (a &&& b) ∧
    w (.orG n k rd ra rb) (a ||| b) ∧ w (.xorG n k rd ra rb) (a ^^^ b) ∧
    w (.sllG n k rd ra rb) (a <<< (b.toNat % 64)) ∧ w (.srlG n k rd ra rb) (a >>> (b.toNat % 64)) ∧
    w (.sraG n k rd ra rb) (BitVec.ofInt 64 (a.toInt / 2 ^ (b.toNat % 64))) ∧
    w (.sltG n k rd ra rb) (if a.toInt < b.toInt then 1 else 0) ∧ w (.sltuG n k rd ra rb) (if a.toNat < b.toNat then 1 else 0) ∧
    w (.mulG n k rd ra rb) (BitVec.ofNat 64 (a.toNat * b.toNat)) ∧
    w (.mulhG n k rd ra rb) (BitVec.ofInt 64 (a.toInt * b.toInt / 2 ^ 64)) ∧
    w (.mulhuG n k rd ra rb) (BitVec.ofNat 64 (a.toNat * b.toNat / 2 ^ 64)) ∧
    w (.divG n k rd ra rb)
      (if b = 0 then BitVec.allOnes 64 else if a = BitVec.intMin 64 ∧ b = BitVec.allOnes 64 then BitVec.intMin 64
       else BitVec.ofInt 64 (a.toInt.tdiv b.toInt)) ∧
    w (.divuG n k rd ra rb) (if b = 0 then BitVec.allOnes 64 else BitVec.ofNat 64 (a.toNat / b.toNat)) ∧
    w (.remG n k rd ra rb)
      (if b = 0 then a else if a = BitVec.intMin 64 ∧ b = BitVec.allOnes 64 then 0 else BitVec.ofInt 64 (a.toInt.tmod b.toInt)) ∧
    w (.remuG n k rd ra rb) (if b = 0 then a else BitVec.ofNat 64 (a.toNat % b.toNat)) ∧
    w (.minG n k rd ra rb) (if a.toInt < b.toInt then a else b) ∧ w (.maxG n k rd ra rb) (if a.toInt < b.toInt then b else a) ∧
    w (.minuG n k rd ra rb) (if a.toNat < b.toNat then a else b) ∧ w (.maxuG n k rd ra rb) (if a.toNat < b.toNat then b else a)

/-- With RB 0, CLZ writes the number of zeros above the highest 1 of RA (64 where RA is 0, log entry 42), CTZ the number below the
lowest, POPC the number of ones; everything else stays, and the next pair is at PC + 16. With RB not 0 the form is a reserved
encoding: a thread with a handler enters it with ILLEGAL, ESTAT.HALF 0, and the pair has no effect. It concludes that exec
answers a next state with the command's own effect for: clzG, ctzG, popcG. -/
def Obligations.OprCountsBits : Prop :=
  ∀ (s : State) (n k : Nat) (rd ra : BitVec 5), s.atScalar n k →
    let a := (s.thread n k).gr ra.toNat
    let w := fun (c : Instr) (v : Nat) =>
      Completes (exec c s) (ScalarWrites s n k rd.toNat (BitVec.ofNat 64 v) ((s.thread n k).pc + 16) (s.thread n k).flow)
    (∃ z ≤ 64, (∀ i < 64, 64 - z ≤ i → a.getLsbD i = false) ∧ (z < 64 → a.getLsbD (63 - z) = true) ∧ w (.clzG n k rd ra 0) z) ∧
    (∃ z ≤ 64, (∀ i < z, a.getLsbD i = false) ∧ (z < 64 → a.getLsbD z = true) ∧ w (.ctzG n k rd ra 0) z) ∧
    w (.popcG n k rd ra 0) ((List.range 64).filter (fun i => a.getLsbD i)).length ∧
    ∀ rb : BitVec 5, rb ≠ 0 → s.handles n k →
      Completes (exec (.clzG n k rd ra rb) s) (EntersHandler s n k cILLEGAL 0 false false false) ∧
      Completes (exec (.ctzG n k rd ra rb) s) (EntersHandler s n k cILLEGAL 0 false false false) ∧
      Completes (exec (.popcG n k rd ra rb) s) (EntersHandler s n k cILLEGAL 0 false false false)

/-- A thread that comes next to a scalar half completes ADDI, ANDI, ORI, XORI, SLTI, SLTIU with the sign-extended IMM15, SLLI, SRLI
and SRAI with a count below 64, LUI and AUIPC with IMM20 << 12, and SNOP, which writes nothing. The next pair is at PC + 16;
every other register and everything else in the device is unchanged. A shift whose IMM15[14:6] is not 0 raises ILLEGAL. It
concludes that exec answers a next state with the command's own effect for: snop, addi, andi, ori, xori, slli, srli, srai, slti,
sltiu, lui, auipc. -/
def Obligations.ImmediateFormsWriteTheirResult : Prop :=
  ∀ (s : State) (n k : Nat) (rd ra : BitVec 5) (imm : BitVec 15) (up : BitVec 20), s.atScalar n k →
    let a := (s.thread n k).gr ra.toNat
    let i := imm.signExtend 64
    let pc := (s.thread n k).pc
    let w := fun (c : Instr) (v : Word) => Completes (exec c s) (ScalarWrites s n k rd.toNat v (pc + 16) (s.thread n k).flow)
    w (.addi n k rd ra imm) (a + i) ∧ w (.andi n k rd ra imm) (a &&& i) ∧ w (.ori n k rd ra imm) (a ||| i) ∧
    w (.xori n k rd ra imm) (a ^^^ i) ∧ w (.slti n k rd ra imm) (if a.toInt < imm.toInt then 1 else 0) ∧
    w (.sltiu n k rd ra imm) (if a.toNat < i.toNat then 1 else 0) ∧
    w (.lui n k rd up) (BitVec.ofInt 64 (up.toInt * 4096)) ∧ w (.auipc n k rd up) (pc + BitVec.ofInt 64 (up.toInt * 4096)) ∧
    exec (.snop n k) s = .next (s.setThread n k { s.thread n k with half := true, npc := pc + 16 }) ∧
    (imm.toNat < 64 →
      w (.slli n k rd ra imm) (a <<< imm.toNat) ∧ w (.srli n k rd ra imm) (a >>> imm.toNat) ∧
      w (.srai n k rd ra imm) (BitVec.ofInt 64 (a.toInt / 2 ^ imm.toNat))) ∧
    (64 ≤ imm.toNat → s.handles n k →
      Completes (exec (.slli n k rd ra imm) s) (EntersHandler s n k cILLEGAL 0 false false false) ∧
      Completes (exec (.srli n k rd ra imm) s) (EntersHandler s n k cILLEGAL 0 false false false) ∧
      Completes (exec (.srai n k rd ra imm) s) (EntersHandler s n k cILLEGAL 0 false false false))

/-- Each load at RA + IMM15, naturally aligned, not refused by the partition fence, mapped and free of uncorrectable data,
completes: RD holds its 1, 2, 4 or 8 bytes, least significant first, sign-extended by LB, LH and LW, zero-extended by LBU, LHU
and LWU. An access to far memory passes its far cache or channel queue and one to another stall's shelf wakes it where it is
gated; everything else in the device is unchanged. It concludes that exec answers a next state with the command's own effect
for: lb, lh, lw, ld, lbu, lhu, lwu. -/
def Obligations.LoadsReadStallSpace : Prop :=
  ∀ (s : State) (n k : Nat) (rd ra : BitVec 5) (imm : BitVec 15), s.atScalar n k →
    let a := ((s.thread n k).gr ra.toNat + imm.signExtend 64).toNat
    let ok := fun sz => a % sz = 0 ∧ s.fenceRefuses n (tgtOf n a) = false ∧ s.mapped n (tgtOf n a) = true ∧ s.tgtFault (tgtOf n a) sz = none
    let v := fun sz => leNat (s.tgtRead (tgtOf n a) sz)
    let w := fun (c : Instr) (sz : Nat) (x : Word) =>
      Completes (exec c s) (ScalarWrites (s.tgtPath n 0 (tgtOf n a) sz false) n k rd.toNat x ((s.thread n k).pc + 16) (s.thread n k).flow)
    (ok 1 → w (.lb n k rd ra imm) 1 ((BitVec.ofNat 8 (v 1)).signExtend 64) ∧ w (.lbu n k rd ra imm) 1 (BitVec.ofNat 64 (v 1))) ∧
    (ok 2 → w (.lh n k rd ra imm) 2 ((BitVec.ofNat 16 (v 2)).signExtend 64) ∧ w (.lhu n k rd ra imm) 2 (BitVec.ofNat 64 (v 2))) ∧
    (ok 4 → w (.lw n k rd ra imm) 4 ((BitVec.ofNat 32 (v 4)).signExtend 64) ∧ w (.lwu n k rd ra imm) 4 (BitVec.ofNat 64 (v 4))) ∧
    (ok 8 → w (.ld n k rd ra imm) 8 (BitVec.ofNat 64 (v 8)))

/-- Each store at RA + IMM15 into the stall's own slice, naturally aligned, in its backed part and in a word that is neither held
nor uncorrectable, completes: its 1, 2, 4 or 8 bytes hold the low bytes of RB, least significant first, every other byte of
slices, far memory, shelves and host memory reads as before, no word of memory gains or loses poison, the line counts as
written, and of the threads only this one changes: its pair goes on to its wide half. Registers of every thread are unchanged.
It concludes that exec answers a next state with the command's own effect for: sb, sh, sw, sd. -/
def Obligations.StoresWriteTheOwnSlice : Prop :=
  ∀ (s : State) (n k : Nat) (rb ra : BitVec 5) (imm : BitVec 15), s.atScalar n k →
    let a := ((s.thread n k).gr ra.toNat + imm.signExtend 64).toNat
    let p := unit256 * n + a
    let ok := fun sz => a < unit256 ∧ a % sz = 0 ∧ a < s.usableOf n ∧ s.heldRow n a = false ∧ s.sliceBad p = false ∧
      NSet.has s.mem.lost n = false
    let w := fun (c : Instr) (sz : Nat) => Completes (exec c s) (fun t =>
      (∀ i < sz, Mem.rd t.mem.slice (p + i) = ((s.thread n k).gr rb.toNat).extractLsb' (8 * i) 8) ∧
      (∀ b, b < p ∨ p + sz ≤ b → Mem.rd t.mem.slice b = Mem.rd s.mem.slice b) ∧
      NSet.has t.mem.sliceValid (p / 256) = true ∧
      t.mem.far = s.mem.far ∧ t.mem.shelf = s.mem.shelf ∧ t.mem.host = s.mem.host ∧ t.mem.slicePois = s.mem.slicePois ∧
      t.mem.farPois = s.mem.farPois ∧
      t = { s.setThread n k { s.thread n k with half := true, npc := (s.thread n k).pc + 16 } with mem := t.mem })
    (ok 1 → w (.sb n k rb ra imm) 1) ∧ (ok 2 → w (.sh n k rb ra imm) 2) ∧ (ok 4 → w (.sw n k rb ra imm) 4) ∧
    (ok 8 → w (.sd n k rb ra imm) 8)

/-- An aligned load or store whose target the partition fence refuses, of a stall a pitch owns, completes with no exception: a load
writes RD with 0, a store changes no memory; memory, registers of all other threads and the tallies are unchanged, and FENCECNT
of the stall's pitch is up by one or at its maximum. -/
def Obligations.FencedAccessesAreRefused : Prop :=
  ∀ (s : State) (n k : Nat) (rd ra : BitVec 5) (imm : BitVec 15) (p : Nat), s.atScalar n k → s.pitchOf n = some p →
    let a := ((s.thread n k).gr ra.toNat + imm.signExtend 64).toNat
    s.fenceRefuses n (tgtOf n a) = true →
    let fenced := fun (t : State) => t.mem = s.mem ∧ t.tally = s.tally ∧ (∀ m, m ≠ n → t.stall m = s.stall m) ∧
      (∀ j, j ≠ k → t.thread n j = s.thread n j) ∧
      (t.pctl p).fencecnt = (if (s.pctl p).fencecnt = BitVec.allOnes 32 then (s.pctl p).fencecnt else (s.pctl p).fencecnt + 1)
    let ld := fun (c : Instr) => Completes (exec c s) (fun t => fenced t ∧
      t.thread n k = { (s.thread n k).setG rd.toNat 0 with half := true, npc := (s.thread n k).pc + 16 })
    let st := fun (c : Instr) => Completes (exec c s) (fun t => fenced t ∧
      t.thread n k = { s.thread n k with half := true, npc := (s.thread n k).pc + 16 })
    (ld (.lb n k rd ra imm) ∧ ld (.lbu n k rd ra imm) ∧ st (.sb n k rd ra imm)) ∧
    (a % 2 = 0 → ld (.lh n k rd ra imm) ∧ ld (.lhu n k rd ra imm) ∧ st (.sh n k rd ra imm)) ∧
    (a % 4 = 0 → ld (.lw n k rd ra imm) ∧ ld (.lwu n k rd ra imm) ∧ st (.sw n k rd ra imm)) ∧
    (a % 8 = 0 → ld (.ld n k rd ra imm) ∧ st (.sd n k rd ra imm))

/-- A thread that comes next to a scalar half completes each branch: where its condition on RA and RB holds, the next pair is at PC
+ 16 x OFF15, otherwise at PC + 16; the wide half of its own pair follows either way. No register and nothing else in the device
changes (flow, 2 taken and 1 not taken, is what the tracer is told of the pair). It concludes that exec answers a next state
with the command's own effect for: beq, bne, blt, bge, bltu, bgeu. -/
def Obligations.BranchesChooseTheNextPair : Prop :=
  ∀ (s : State) (n k : Nat) (ra rb : BitVec 5) (off : BitVec 15), s.atScalar n k →
    let a := (s.thread n k).gr ra.toNat
    let b := (s.thread n k).gr rb.toNat
    let pc := (s.thread n k).pc
    let go := fun (c : Prop) [Decidable c] => Host.Outcome.next (s.setThread n k { s.thread n k with
      half := true, npc := if c then pc + BitVec.ofInt 64 (16 * off.toInt) else pc + 16, flow := if c then 2 else 1 })
    exec (.beq n k ra rb off) s = go (a = b) ∧ exec (.bne n k ra rb off) s = go (a ≠ b) ∧
    exec (.blt n k ra rb off) s = go (a.toInt < b.toInt) ∧ exec (.bge n k ra rb off) s = go (b.toInt ≤ a.toInt) ∧
    exec (.bltu n k ra rb off) s = go (a.toNat < b.toNat) ∧ exec (.bgeu n k ra rb off) s = go (b.toNat ≤ a.toNat)

/-- JAL writes PC + 16 to RD and makes PC + 16 x OFF20 next; JALR writes PC + 16 to RD and makes RA + IMM15, with RA read before RD
is written, next where its bits [3:0] are 0. Nothing else changes. A JALR target off a 16-byte boundary has no effect but the
exception: with a handler, the thread enters it with ALIGN and EADDR the target. It concludes that exec answers a next state
with the command's own effect for: jal, jalr. -/
def Obligations.JumpsLinkAndTransfer : Prop :=
  ∀ (s : State) (n k : Nat) (rd ra : BitVec 5) (imm : BitVec 15) (off : BitVec 20), s.atScalar n k →
    let pc := (s.thread n k).pc
    let a := (s.thread n k).gr ra.toNat + imm.signExtend 64
    Completes (exec (.jal n k rd off) s)
      (ScalarWrites s n k rd.toNat (pc + 16) (pc + BitVec.ofInt 64 (16 * off.toInt)) (s.thread n k).flow) ∧
    (a.toNat % 16 = 0 → Completes (exec (.jalr n k rd ra imm) s) (ScalarWrites s n k rd.toNat (pc + 16) a 3)) ∧
    (a.toNat % 16 ≠ 0 → s.handles n k →
      Completes (exec (.jalr n k rd ra imm) s) (EntersHandler s n k cALIGN a false false false))

/-- MFS (RA 0) writes RD with the special register its number names: PC, TID, STALLNUM, WINDOW and PITCH of the table the stall has
applied, CYCLE, the exception registers, TSTART, BATCHCNT, BATCHSTR, PLIST, TVALID; GTIME is what the hall's copy shows at a
free instant between issue and the arrival of the result, no earlier than the thread's last sample (10 R229, R230; log entry 5).
MTS (RD 0) writes the RW ones and nothing else; reserved bits of ECAUSE and ESTAT read 0. An EVEC with bits [3:0] not 0 raises
ALIGN with EADDR the value. Every other number raises ILLEGAL. It concludes that exec answers a next state with the command's
own effect for: mfs, mts. -/
def Obligations.SpecialRegistersReadAndWrite : Prop :=
  ∀ (s : State) (n k : Nat) (r : BitVec 5) (imm : BitVec 15), s.atScalar n k →
    let T := s.thread n k
    let v := T.gr r.toNat
    let rd := fun (i : BitVec 15) (x : Word) =>
      Completes (exec (.mfs n k r 0 i) s) (ScalarWrites s.used n k r.toNat x (T.pc + 16) T.flow)
    let wr := fun (i : BitVec 15) (t : Thread) =>
      exec (.mts n k 0 r i) s = .next (s.setThread n k { t with half := true, npc := T.pc + 16 })
    rd 0x000 T.pc ∧ rd 0x001 (BitVec.ofNat 64 k) ∧ rd 0x002 (BitVec.ofNat 64 n) ∧
    rd 0x003 (BitVec.ofNat 64 ((s.applied n).winOf n)) ∧ rd 0x004 (BitVec.ofNat 64 ((s.pitchOf n).getD 0)) ∧
    rd 0x008 (BitVec.ofNat 64 (s.cycle n)) ∧
    (∃ j, j ≤ cdiv 280 (max (s.stall n).clk.cur 1) + 3 ∧
      let i := max T.gts (s.time + j)
      Completes (exec (.mfs n k r 0 0x009) s) (ScalarWrites (s.setThread n k { T with gts := i }).used n k r.toNat
        (BitVec.ofNat 64 (s.copyTime (n / 64) i)) (T.pc + 16) T.flow)) ∧
    rd 0x010 T.evec ∧ rd 0x011 T.epc ∧ rd 0x012 T.ecause ∧ rd 0x013 T.eaddr ∧ rd 0x014 T.estat ∧ rd 0x015 T.escratch ∧
    rd 0x020 T.tstart ∧ rd 0x021 T.batchcnt ∧ rd 0x022 T.batchstr ∧ rd 0x023 T.plist ∧
    rd 0x024 (BitVec.ofNat 64 (s.stall n).tvalid) ∧
    (v.toNat % 16 = 0 → wr 0x010 { T with evec := v }) ∧ wr 0x011 { T with epc := v } ∧ wr 0x012 { T with ecause := v &&& 0xFF } ∧
    wr 0x013 { T with eaddr := v } ∧ wr 0x014 { T with estat := v &&& 0xF } ∧ wr 0x015 { T with escratch := v } ∧
    wr 0x020 { T with tstart := v } ∧ wr 0x021 { T with batchcnt := v } ∧ wr 0x022 { T with batchstr := v } ∧
    wr 0x023 { T with plist := v } ∧
    (s.handles n k →
      (v.toNat % 16 ≠ 0 → Completes (exec (.mts n k 0 r 0x010) s) (EntersHandler s n k cALIGN v false false false)) ∧
      (imm.toNat ∉ [0, 1, 2, 3, 4, 8, 9, 0x10, 0x11, 0x12, 0x13, 0x14, 0x15, 0x20, 0x21, 0x22, 0x23, 0x24] →
        Completes (exec (.mfs n k r 0 imm) s) (EntersHandler s n k cILLEGAL 0 false false false)) ∧
      (imm.toNat ∉ [0x10, 0x11, 0x12, 0x13, 0x14, 0x15, 0x20, 0x21, 0x22, 0x23] →
        Completes (exec (.mts n k 0 r imm) s) (EntersHandler s n k cILLEGAL 0 false false false)))

/-- A thread whose EVEC is not 0 and whose INHANDLER is 0 takes its handler: EPC holds the address of the pair, ECAUSE the cause,
EADDR IMM15 sign-extended for TRAP and 0 for ILLEGAL, ESTAT holds INHANDLER and, where the scalar half had taken effect, HALF;
PC is EVEC. A reserved opcode raises ILLEGAL in the half that comes next. Of everything else only counters, tracer and event
messages may change. It concludes that exec answers a next state with the command's own effect for: trap, reservedOpcode. -/
def Obligations.ExceptionsEnterTheHandler : Prop :=
  ∀ (s : State) (n k : Nat) (imm : BitVec 15), s.handles n k →
    (s.atScalar n k →
      Completes (exec (.trap n k imm) s) (EntersHandler s n k cTRAP (imm.signExtend 64) false false false) ∧
      Completes (exec (.reservedOpcode n k) s) (EntersHandler s n k cILLEGAL 0 false false false)) ∧
    (s.atWide n k → Completes (exec (.reservedOpcode n k) s) (EntersHandler s n k cILLEGAL 0 true false false))

/-- Where EVEC is 0 or INHANDLER is 1, TRAP ends the work item of the stall: every stall that ran it has all threads off and runs
nothing, LASTCAUSE of the stall is TRAP, and the item, if nothing has ended it yet, carries status 0x10 with RESULT the cause
and, from bit 8, the stall. No stall that did not run the item changes its threads or its work. -/
def Obligations.UnhandledExceptionsEndTheKernel : Prop :=
  ∀ (s : State) (n k : Nat) (imm : BitVec 15) (p r : Nat) (seq : W32), s.atScalar n k →
    ¬ ((s.thread n k).evec ≠ 0 ∧ bit (s.thread n k).estat 1 = false) →
    (s.stall n).work = some (.item p r seq) →
    Completes (exec (.trap n k imm) s) (fun t =>
      (∀ m < 256, (s.stall m).work = some (.item p r seq) → (t.stall m).work = none ∧ ∀ j, (t.thread m j).st = .off) ∧
      (∀ m, (s.stall m).work ≠ some (.item p r seq) → (t.stall m).work = (s.stall m).work ∧ (t.stall m).th = (s.stall m).th) ∧
      (t.stall n).lastCause = cTRAP ∧
      t.item p r seq = (s.item p r seq).map (fun i =>
        if i.stat = 0 then { i with stat := 0x10, indet := true, result := cTRAP + n * 256 } else i))

/-- ERET clears INHANDLER, keeps the rest of ESTAT, and makes the pair at EPC next, from its wide half where HALF was 1. KEND makes
this pair the thread's last. FENCE with FN 0 changes nothing but the thread's place, FN 1 and 2 likewise once no posted signal
(and, for FN 2, no porter of the thread) is under way, until when the thread waits where it is; FN 3 also empties the stall's
instruction buffer; another FN raises ILLEGAL. It concludes that exec answers a next state with the command's own effect for:
fence, kend, eret. -/
def Obligations.EretKendAndFence : Prop :=
  ∀ (s : State) (n k : Nat) (fn : BitVec 10), s.atScalar n k →
    let T := s.thread n k
    let done := fun (t : Thread) => s.setThread n k { t with half := true, npc := T.pc + 16 }
    exec (.eret n k) s = .next (s.setThread n k
      { T with estat := T.estat &&& 0xD, skip := T.estat.getLsbD 0, flow := 4, half := true, npc := T.epc }) ∧
    exec (.kend n k) s = .next (done { T with ending := true }) ∧
    exec (.fence n k 0) s = .next (done T) ∧
    (T.tsig = 0 → exec (.fence n k 1) s = .next (done T)) ∧
    (T.tsig = 0 → (∀ i < 2, ((s.stall n).porter i).busy = false ∨ ((s.stall n).porter i).th ≠ k) →
      exec (.fence n k 2) s = .next (done T)) ∧
    (T.tsig ≠ 0 → exec (.fence n k 1) s = .next s ∧ exec (.fence n k 2) s = .next s) ∧
    Completes (exec (.fence n k 3) s) (fun t => Observed (done T) t ∧ (t.stall n).ibuf = [] ∧ (t.stall n).ibPois = []) ∧
    (4 ≤ fn.toNat → s.handles n k → Completes (exec (.fence n k fn) s) (EntersHandler s n k cILLEGAL 0 false false false))

/-- While some other thread of the stall is neither off nor at a SYNCG, SYNCG blocks its thread and changes nothing else. The SYNCG
of the last running thread releases them all: each that waited, and itself, comes next to its wide half; threads that are off
stay off, and nothing else changes. It concludes that exec answers a next state with the command's own effect for: syncg. -/
def Obligations.SyncgReleasesTheGroupTogether : Prop :=
  ∀ (s : State) (n k : Nat), s.atScalar n k →
    let T := s.thread n k
    ((∃ j < 4, j ≠ k ∧ (s.thread n j).st ≠ .off ∧ (s.thread n j).st ≠ .syncg) →
      exec (.syncg n k) s = .next (s.setThread n k { T with st := .syncg, npc := T.pc + 16 })) ∧
    ((∀ j < 4, j ≠ k → (s.thread n j).st = .off ∨ (s.thread n j).st = .syncg) →
      Completes (exec (.syncg n k) s) (fun t =>
        t.thread n k = { T with st := .run, half := true, npc := T.pc + 16 } ∧
        (∀ j < 4, j ≠ k → t.thread n j =
          if (s.thread n j).st = .syncg then { s.thread n j with st := .run, half := true } else s.thread n j) ∧
        (∀ m, m ≠ n → t.stall m = s.stall m) ∧ t.stall n = { s.stall n with th := (t.stall n).th } ∧
        t = { s with stalls := t.stalls }))

/-- For a thread that is not off and a line not yet in the stall's buffer: the fetch of the line of its current pair, 16-byte
aligned, unfenced, mapped and free of uncorrectable data, while its scalar half comes next, and the fetch ahead of one of the
next two lines on the predicted path, where it is mapped and the fence does not refuse it, end with the line in the buffer.
Nothing else changes but IFETCH and IDISCARD, the tracer, event messages, the far path of a fetch from far memory and, where the
buffer of 64 lines was full, one free value that names the line given up. A fetch-ahead off the predicted path, or at an
unmapped or fenced address, changes nothing. It concludes that exec answers a next state with the command's own effect for:
instructionFetch. -/
def Obligations.FetchFillsTheInstructionBuffer : Prop :=
  ∀ (s : State) (n k : Nat) (line : Word), n < 256 → k < 4 → (s.thread n k).st ≠ .off →
    (s.stall n).ibuf.any (fun l => l.line = line) = false →
    let pc := (s.thread n k).pc
    let a := line.toNat * 256
    let in_ := fun (u t : State) => (t.stall n).ibuf.any (fun l => l.line = line) = true ∧
      Observed (if (s.stall n).ibuf.length < 64 then u else u.used) t
    (pc / 256 = line → s.atScalar n k → pc.toNat % 16 = 0 → s.fenceRefuses n (tgtOf n pc.toNat) = false →
      s.mapped n (tgtOf n pc.toNat) = true → s.tgtFault (tgtOf n pc.toNat) 16 = none →
      Completes (exec (.instructionFetch n k line) s) (in_ (s.tgtPath n 0 (tgtOf n pc.toNat) 16 false))) ∧
    (pc / 256 ≠ line → s.fenceRefuses n (tgtOf n a) = false → s.mapped n (tgtOf n a) = true →
      s.aheadLine n (s.thread n k) line = true → Completes (exec (.instructionFetch n k line) s) (in_ s)) ∧
    (pc / 256 ≠ line →
      (s.fenceRefuses n (tgtOf n a) = true ∨ s.mapped n (tgtOf n a) = false ∨ s.aheadLine n (s.thread n k) line = false) →
      exec (.instructionFetch n k line) s = .next s)

/-- A thread that comes next to its wide half completes WNOP, all fields 0, by retiring its pair: its PC is the next pair's address.
TREL, which uses GA alone, clears every row of each tile Tj with bit j of GA[31:0] set, leaves the rows of the others, and
retires. Where the scalar half was KEND and no other thread runs, the thread goes off. Another field that is not 0 raises
ILLEGAL with HALF: the scalar half stands. Counters, tracer, instruction buffer and event messages apart, nothing else changes.
It concludes that exec answers a next state with the command's own effect for: wnop, trel. -/
def Obligations.WnopAndTrelRetireThePair : Prop :=
  ∀ (s : State) (n k : Nat) (w : WF), s.atWide n k → (s.stall n).stopping = false →
    ((s.thread n k).ending = false →
      Completes (exec (.wnop n k {}) s) (Retires s n k) ∧
      Completes (exec (.trel n k { ga := w.ga }) s) (fun t => ∃ u, Retires u n k t ∧
        u = s.updStall n (fun x => { x with rows := (u.stall n).rows, rowPois := (u.stall n).rowPois }) ∧
        ∀ j r, r < 32 →
          Tab.find (u.stall n).rows (rowKey j r) =
            (if j < 32 ∧ ((s.thread n k).gr w.ga.toNat).getLsbD j = true then none else Tab.find (s.stall n).rows (rowKey j r)) ∧
          (u.stall n).rowBad j r =
            (if j < 32 ∧ ((s.thread n k).gr w.ga.toNat).getLsbD j = true then false else (s.stall n).rowBad j r))) ∧
    ((s.thread n k).ending = true → (∀ j < 4, j ≠ k → (s.thread n j).st = .off) →
      Completes (exec (.wnop n k {}) s) (fun t => Observed (s.setThread n k
        { (s.thread n k).after with
          st := .off, half := false, npc := (s.thread n k).npc, kept := (s.thread n k).kept, kended := true, ending := false }) t)) ∧
    (s.handles n k →
      (w ≠ {} → Completes (exec (.wnop n k w) s) (EntersHandler s n k cILLEGAL 0 true false false)) ∧
      (w ≠ { ga := w.ga } → Completes (exec (.trel n k w) s) (EntersHandler s n k cILLEGAL 0 true false false)))

/-- A TLD with LOOP 0, 1 or 2, its loop registers well-formed, its addresses aligned and every row it reads unfenced, mapped and
free of uncorrectable data, completes: for every iteration i from ITER of TSTART (0 where LOOP is 0) below C that its pointer
list does not leave out, row r of the thread's fragment of tile TD + i holds the 64 bytes at b_i + OFF + r x GS and is marked
valid. All other rows, all memory and every register stay, but TSTART, which is 0 where it loops; a read of far memory passes
its far cache or queue and one of another stall's shelf wakes it, in order; the pair retires. It concludes that exec answers a
next state with the command's own effect for: tld. -/
def Obligations.TldLoadsTheFragment : Prop :=
  ∀ (s : State) (n k c i0 : Nat) (w : WF) (base : Nat → Base), s.atWide n k → s.goesOn n k →
    w = { td := w.td, ga := w.ga, gs := w.gs, loop := w.loop, off := w.off, hint := w.hint } →
    let T := s.thread n k
    let g := T.loopRegs w
    g.count w.loop = some c → g.misaligned w c = none →
    (if w.loop = 0 then i0 = 0 else i0 < c ∧ i0 < 2 ^ 32 ∧ T.tstart = BitVec.ofNat 64 (65536 * i0) ∧ w.td.toNat + c ≤ 32) →
    let addr := fun (v : Word) (r : Nat) => (v + wOff w + BitVec.ofNat 64 (8 * k + r) * g.gs).toNat
    (∀ i, i0 ≤ i → i < c → s.loopBase n k g w.loop i = (s, base i) ∧ (base i = .skip ∨ ∃ v, base i = .at_ v ∧
      (v + wOff w).toNat % 64 = 0 ∧ ∀ r < 8, s.readable n (addr v r) 64)) →
    let l := ((List.range (c - i0)).map (· + i0)).flatMap (fun i => match base i with
      | .at_ v => (List.range 8).map (addr v)
      | _ => [])
    let q := l.foldl (fun q a => q.tgtPath n w.hint.toNat (tgtOf n a) 64 false) s
    Completes (exec (.tld n k w) s) (fun t => ∃ u,
      u = q.updStall n (fun x => { x with rows := (u.stall n).rows, rowPois := (u.stall n).rowPois }) ∧
      Retires (if w.loop = 0 then u else u.setThread n k { T with tstart := 0 }) n k t ∧
      (∀ i v r, i0 ≤ i → i < c → base i = .at_ v → r < 8 →
        Tab.find (u.stall n).rows (rowKey (w.td.toNat + i) (8 * k + r)) = some (rowOf (s.tgtRead (tgtOf n (addr v r)) 64)) ∧
        (u.stall n).rowBad (w.td.toNat + i) (8 * k + r) = false) ∧
      ∀ j m, m < 32 → (∀ i v r, i0 ≤ i → i < c → base i = .at_ v → r < 8 → rowKey j m ≠ rowKey (w.td.toNat + i) (8 * k + r)) →
        Tab.find (u.stall n).rows (rowKey j m) = Tab.find (s.stall n).rows (rowKey j m) ∧
        (u.stall n).rowBad j m = (s.stall n).rowBad j m)

/-- A TST with LOOP 0, 1 or 2, its loop registers well-formed, its addresses aligned, its rows good and every target writable,
completes: the rows of the fragment of tiles TA + i, i from ITER of TSTART below C but for those its pointer list leaves out,
are stored, iteration by iteration and row by row, to b_i + OFF + r x GS. Every byte outside these 64-byte rows reads as before;
no tile row and no register changes but TSTART, which is 0 where it loops; the pair retires. With LOOP 2 no target lies in a
shelf (so the list is not overwritten as it is read). It concludes that exec answers a next state with the command's own effect
for: tst. -/
def Obligations.TstStoresTheFragment : Prop :=
  ∀ (s : State) (n k c i0 : Nat) (w : WF) (base : Nat → Base), s.atWide n k → s.goesOn n k →
    w = { ta := w.ta, ga := w.ga, gs := w.gs, loop := w.loop, off := w.off, hint := w.hint } →
    let T := s.thread n k
    let g := T.loopRegs w
    g.count w.loop = some c → g.misaligned w c = none →
    (if w.loop = 0 then i0 = 0 else i0 < c ∧ i0 < 2 ^ 32 ∧ T.tstart = BitVec.ofNat 64 (65536 * i0) ∧ w.ta.toNat + c ≤ 32) →
    let addr := fun (v : Word) (r : Nat) => (v + wOff w + BitVec.ofNat 64 (8 * k + r) * g.gs).toNat
    (∀ i, i0 ≤ i → i < c → s.loopBase n k g w.loop i = (s, base i) ∧ (base i = .skip ∨ ∃ v, base i = .at_ v ∧
      (v + wOff w).toNat % 64 = 0 ∧ (s.stall n).goodFragment k (w.ta.toNat + i) ∧
      ∀ r < 8, s.writable n (addr v r) ∧ (w.loop = 2 → ∀ j x, tgtOf n (addr v r) ≠ .shelf j x))) →
    let l : List (Tgt × Row) := ((List.range (c - i0)).map (· + i0)).flatMap (fun i => match base i with
      | .at_ v => (List.range 8).map (fun r => (tgtOf n (addr v r), (s.stall n).row (w.ta.toNat + i) (8 * k + r)))
      | _ => [])
    let u := l.foldl (fun u p => ((u.tgtPath n w.hint.toNat p.1 64 true).tgtWrite n 0 p.1 (rowBytes p.2)).s) s
    Completes (exec (.tst n k w) s) (fun t =>
      Retires (if w.loop = 0 then u else u.setThread n k { T with tstart := 0 }) n k t ∧
      s.mem.sameOutside t.mem (l.map Prod.fst) 64)

/-- PCOPY (porter SUB 0 or 1) of TA bytes from GA + OFF to TD: a length of 0 only retires the pair; with both addresses and the
length multiples of 64 and the length at most 65,536, an idle porter takes source, destination, length, tally word TB and its
thread, and the pair retires; a busy porter holds the pair. A longer one raises ILLEGAL, a misaligned address ALIGN with EADDR
that address. PWAIT retires the pair where the porter is idle, else the thread blocks. It concludes that exec answers a next
state with the command's own effect for: pcopy, pwait. -/
def Obligations.PorterInstructionsStartAndWait : Prop :=
  ∀ (s : State) (n k : Nat) (w : WF) (p : BitVec 4), s.atWide n k → s.goesOn n k → p.toNat < 2 →
    w = { td := w.td, ta := w.ta, tb := w.tb, ga := w.ga, off := w.off, hint := w.hint, sub := p } →
    let T := s.thread n k
    let len := (T.gr w.ta.toNat).toNat
    let src := T.gr w.ga.toNat + w.off.signExtend 64
    let dst := T.gr w.td.toNat
    let q := (s.stall n).porter p.toNat
    let aligned := src.toNat % 64 = 0 ∧ dst.toNat % 64 = 0 ∧ len % 64 = 0
    (len = 0 → Completes (exec (.pcopy n k w) s) (Retires s n k)) ∧
    (0 < len → len ≤ 65536 → aligned → q.busy = false →
      Completes (exec (.pcopy n k w) s) (Retires (s.updStall n (fun x => { x with port := Tab.set x.port p.toNat ({ 
        busy := true, src := src, dst := dst, len := len, tally := T.gr w.tb.toNat, th := k, hint := w.hint.toNat } : Porter) })) n k)) ∧
    (0 < len → len ≤ 65536 → aligned → q.busy = true → exec (.pcopy n k w) s = .next s) ∧
    (q.busy = false → Completes (exec (.pwait n k { sub := p }) s) (Retires s n k)) ∧
    (q.busy = true → exec (.pwait n k { sub := p }) s = .next (s.setThread n k { T with st := .pwait, pport := p.toNat })) ∧
    (s.handles n k →
      (65536 < len → Completes (exec (.pcopy n k w) s) (EntersHandler s n k cILLEGAL 0 true false false)) ∧
      (0 < len → len ≤ 65536 → src.toNat % 64 ≠ 0 →
        Completes (exec (.pcopy n k w) s) (EntersHandler s n k cALIGN src true false false)) ∧
      (0 < len → len ≤ 65536 → src.toNat % 64 = 0 → dst.toNat % 64 ≠ 0 →
        Completes (exec (.pcopy n k w) s) (EntersHandler s n k cALIGN dst true false false)))

/-- The end of a transfer between two disjoint, backed and good ranges of the stall's own slice: the destination holds the source's
bytes, every other byte of memory reads as before, the porter is idle, a tally word that is not 0 sends one SIGNAL with x = 1 to
its tally if the pitch owns it (the fence refuses it otherwise), and each thread that waited for the porter retires its pair. A
source that is not mapped moves nothing, leaves UNMAPPED due to the thread that started the transfer, and signals the tally all
the same. It concludes that exec answers a next state with the command's own effect for: porterTransferEnd. -/
def Obligations.PorterTransfersCopyTheirBytes : Prop :=
  ∀ (s : State) (n i : Nat), n < 256 → i < 2 → (s.stall n).stopping = false →
    let p := (s.stall n).porter i
    p.busy = true → p.th < 4 → p.len % 64 = 0 → p.len ≤ 65536 → p.src.toNat % 64 = 0 → p.dst.toNat % 64 = 0 →
    (p.tally = 0 ∨ s.tallyFenced n (p.tally.toNat % 2 ^ 18) = false) →
    let src := unit256 * n + p.src.toNat
    let dst := unit256 * n + p.dst.toNat
    let waiting := fun (j : Nat) => (s.thread n j).st = .pwait ∧ (s.thread n j).pport = i
    let idle := fun (u : State) => ([0, 1, 2, 3] : List Nat).foldl (fun u j =>
      if waiting j then u.setThread n j (u.thread n j).after else u)
      (u.updStall n (fun y => { y with port := Tab.set y.port i { p with busy := false, len := 0 } }))
    let sig := if p.tally = 0 then s.tally else { s.tally with flight := s.tally.flight ++
      [{ op := 2, id := p.tally.toNat % 2 ^ 18, x := 1, cond := 0, owner := .porter n i p.th }] }
    (∀ j < 4, waiting j → (s.thread n j).ending = false) →
    (p.src.toNat + p.len ≤ min unit256 (s.usableOf n) → p.dst.toNat + p.len ≤ min unit256 (s.usableOf n) →
      (src + p.len ≤ dst ∨ dst + p.len ≤ src) → NSet.has s.mem.lost n = false →
      (∀ j < p.len, s.sliceBad (src + j) = false ∧ s.heldRow n (p.dst.toNat + j) = false) →
      Completes (exec (.porterTransferEnd n i) s) (fun t => ∃ u,
        Observed (idle u) t ∧ u = { s with mem := u.mem, tally := sig } ∧
        (∀ j < p.len, Mem.rd u.mem.slice (dst + j) = Mem.rd s.mem.slice (src + j)) ∧
        (∀ b, b < dst ∨ dst + p.len ≤ b → Mem.rd u.mem.slice b = Mem.rd s.mem.slice b) ∧
        u.mem.far = s.mem.far ∧ u.mem.shelf = s.mem.shelf ∧ u.mem.host = s.mem.host)) ∧
    (0 < p.len → s.fenceRefuses n (tgtOf n p.src.toNat) = false → s.mapped n (tgtOf n p.src.toNat) = false →
      Completes (exec (.porterTransferEnd n i) s) (fun t =>
        Observed (idle { s.setThread n p.th { s.thread n p.th with due := (s.thread n p.th).due <|> some (cUNMAPPED, p.src) }
          with tally := sig }) t))

/-- While some other running thread is at no group-synchronous pair, MWLD, MSTRM, MFILL and HMV only block their thread. When the
last running thread arrives and two stand at different pair addresses, every one that has a handler enters it with GROUP,
ESTAT.HALF and ESTAT.GROUP set; counters, tracer and event messages apart, nothing else changes. -/
def Obligations.GroupOperationsGatherTheGroup : Prop :=
  ∀ (s : State) (n k : Nat) (w : WF), s.atWide n k → (s.stall n).stopping = false → (s.stall n).wop = none →
    let at_ := fun (op : GOp) => s.setThread n k { s.thread n k with st := .group, gop := some (op, w) }
    ((∃ j < 4, j ≠ k ∧ (s.thread n j).st ≠ .off ∧ (s.thread n j).st ≠ .group) →
      exec (.mwld n k w) s = .next (at_ .mwld) ∧ exec (.mstrm n k w) s = .next (at_ .mstrm) ∧
      exec (.mfill n k w) s = .next (at_ .mfill) ∧ exec (.hmv n k w) s = .next (at_ .hmv)) ∧
    ((∀ j < 4, j ≠ k → (s.thread n j).st = .off ∨ (s.thread n j).st = .group) →
      (∃ j < 4, j ≠ k ∧ (s.thread n j).st = .group ∧ (s.thread n j).pc ≠ (s.thread n k).pc) →
      (∀ j < 4, j = k ∨ (s.thread n j).st = .group → s.handles n j) →
      Completes (exec (.mwld n k w) s) (GroupEntersHandler (at_ .mwld) n cGROUP 0) ∧
      Completes (exec (.mstrm n k w) s) (GroupEntersHandler (at_ .mstrm) n cGROUP 0) ∧
      Completes (exec (.mfill n k w) s) (GroupEntersHandler (at_ .mfill) n cGROUP 0) ∧
      Completes (exec (.hmv n k w) s) (GroupEntersHandler (at_ .hmv) n cGROUP 0))

/-- The last running thread of the group arrives at the pair address of the others. MWLD with good rows in TA makes them the weight
image (for E2M1 with scale tile TA + 1), records FMT and retires every pair. MSTRM, MFILL and HMV with admitted fields begin one
operation with the registers of the lowest-numbered running thread, at iteration ITER and row ROW of its TSTART, and hold the
group; ROWS 0 retires the pairs. MFILL first loads TB as MWLD would. MSTRM and MFILL power the array's domain (cold if it was
off), HMV the hawker's. MSTRM without a weight image, or with another FMT than the image's, raises ILLEGAL in every thread. It
concludes that exec answers a next state with the command's own effect for: mwld, mstrm, mfill, hmv. -/
def Obligations.GroupOperationsIssueOnce : Prop :=
  ∀ (s : State) (n k c i r : Nat) (w : WF), s.atWide n k → (s.stall n).stopping = false → (s.stall n).wop = none →
    let at_ := fun (op : GOp) => s.setThread n k { s.thread n k with st := .group, gop := some (op, w) }
    let here := fun (op : GOp) => ∀ j < 4, j ≠ k → (s.thread n j).st = .off ∨
      (s.thread n j).st = .group ∧ (s.thread n j).pc = (s.thread n k).pc ∧ (s.thread n j).gop = some (op, w)
    let stay := ∀ j < 4, (s.thread n j).ending = false
    let handled := ∀ j < 4, j = k ∨ (s.thread n j).st = .group → s.handles n j
    let parts := ([0, 1, 2, 3] : List Nat).filter (fun j => decide (j = k ∨ (s.thread n j).st ≠ .off))
    let lead := s.thread n (parts.headD 0)
    let g := lead.loopRegs w
    let begun := fun (op : GOp) (x : Stall) => { x with wop := some {
      op := op, f := w, parts := parts,
      ga := g.ga, gs := g.gs, cnt := g.cnt, str := g.str, plist := g.plist,
      iter := i, row := r, blk := 0, acc := [], issue := s.cycle n, done := false, scales := x.scaleRows } }
    let fmtOk := (aIn w.fmt.toNat).isSome = true ∧ s.fmtOff w.fmt.toNat = false
    let resumes := g.count w.loop = some c ∧ lead.tstartAt c w.rows.toNat = some (i, r) ∧ g.misaligned w c = none
    (here .mwld → stay → w = { ta := w.ta, fmt := w.fmt } → fmtOk → (w.fmt = 4 → w.ta ≠ 31) →
      (s.stall n).tileBad w.ta.toNat = false →
      Completes (exec (.mwld n k w) s) (fun t => ∃ u, u = (at_ .mwld).updStall n (fun x => x.loadWeights w.ta.toNat w.fmt.toNat) ∧
        Observed (u.groupAfter n id) t ∧ (u.stall n).arr.loaded = true ∧ (u.stall n).arr.wfmt = w.fmt.toNat ∧
        (w.fmt = 4 → (u.stall n).arr.scale = w.ta.toNat + 1) ∧
        ∀ q < 32, Tab.get 0 (u.stall n).arr.img q = (s.stall n).row w.ta.toNat q)) ∧
    (here .mstrm → w.ta = 0 → w.tb = 0 → w.loop ≠ 3 → w.rnd ≠ 3 → s.rndOff w.rnd = false → bitsOf w.sub.toNat 0 3 < 4 → fmtOk →
      w.rows ≠ 0 →
      (mstrmBad (s.stall n).arr w g.gs.toNat = false → s.weightBad n w.fmt.toNat = false → resumes →
        exec (.mstrm n k w) s = .next ((at_ .mstrm).updStall n (fun x => begun .mstrm x.powerArray))) ∧
      ((s.stall n).arr.loaded = false ∨ w.fmt.toNat ≠ (s.stall n).arr.wfmt → handled →
        Completes (exec (.mstrm n k w) s) (GroupEntersHandler (at_ .mstrm) n cILLEGAL 0))) ∧
    (here .mfill → w = { td := w.td, ta := w.ta, tb := w.tb, fmt := w.fmt, acc := w.acc, rows := w.rows } → fmtOk →
      0 < w.rows.toNat → w.rows.toNat ≤ 32 → w.td.toNat % 2 = 0 →
      (∀ x ∈ [w.ta.toNat, w.tb.toNat], ∀ y ≤ (if w.fmt = 4 then 1 else 0), x + y < 32 ∧ x + y ≠ w.td.toNat ∧ x + y ≠ w.td.toNat + 1) →
      lead.tstartAt 1 w.rows.toNat = some (i, r) → (s.stall n).tileBad w.tb.toNat = false →
      (w.fmt = 4 → (s.stall n).tileBad (w.tb.toNat + 1) = false) →
      exec (.mfill n k w) s =
        .next ((at_ .mfill).updStall n (fun x => begun .mfill (x.loadWeights w.tb.toNat w.fmt.toNat)))) ∧
    (here .hmv → w.tb = 0 → w.rnd = 0 → w.loop ≠ 3 → w.fmt ≠ 2 → w.fmt ≠ 3 → fmtOk → bitsOf s.fw.disable 6 1 = 0 → w.rows ≠ 0 →
      resumes → hmvBad w g.gs.toNat c = false →
      (∀ v ≤ w.sub.toNat, ∀ q < w.imm8.toNat, (s.stall n).rowBad (w.ta.toNat + v) q = false) →
      exec (.hmv n k w) s = .next ((at_ .hmv).updStall n (fun x => begun .hmv { x with hawkOn := true }))) ∧
    (here .mstrm → stay → w.ta = 0 → w.tb = 0 → w.loop ≠ 3 → w.rnd ≠ 3 → s.rndOff w.rnd = false → bitsOf w.sub.toNat 0 3 < 4 → fmtOk →
      w.rows = 0 → Completes (exec (.mstrm n k w) s) (Observed ((at_ .mstrm).groupAfter n id)))

/-- A pass that R165 and R166 let start, of an MFILL (input row of TA, output to TD and TD + 1) or of an MSTRM (input of 64 bytes,
and 4 scale bytes for E2M1, at b_i + OFF + r x GS, readable): element n of the output is the exact sum over k of input times
weight row n, with the weight scales read at the operation's start, rounded once to fp32 (for int8 the int32 sum), added to the
old word with ACC; the row is written as the words or as converted under OUTFMT and RND, to the tile or the shelf. The operation
moves on to the next row with the base of its iteration kept, after the last one to the next iteration, and is done after the
last iteration. Counters, tracer and messages and the path of the reads apart nothing else changes. A pass that may not yet
start changes nothing. It concludes that exec answers a next state with the command's own effect for: arrayPass. -/
def Obligations.ArrayPassesWriteTheirRow : Prop :=
  ∀ (s : State) (n cyc : Nat) (o : WOp) (v : Word) (old : List W32), n < 256 → (s.stall n).wop = some o → o.done = false →
    o.f.fmt.toNat ≤ 6 →
    let x := s.stall n
    let fmt := o.f.fmt.toNat
    let h := o.f.hint.toNat
    let a := (v + wOff o.f + BitVec.ofNat 64 o.row * o.gs).toNat
    (if o.f.acc = true then s.passOld n o = (s, old, none) else old = List.replicate 32 0) →
    let ends := fun (u : State) (inp : Nat) (sc : List Nat) =>
      let sums := (List.range 32).map (fun q =>
        dotWord (o.f.fmt = 6) (rowVals ((aIn fmt).getD ⟨8, none, false⟩) inp 64 sc)
          (rowVals ((aWt fmt).getD ⟨8, none, false⟩) (Tab.get 0 x.arr.img q).toNat 64 (o.scales.getD q [])))
      let out := if o.f.acc = true then (old.zip sums).map (fun p => accWord (o.f.fmt = 6) p.1 p.2) else sums
      Completes (exec (.arrayPass n cyc) s) (Observed
        (((u.passWrite n o out).updStall n (fun y => y.passed cyc)).setWop n
          (if o.row + 1 < o.f.rows.toNat then { o with base := some v, row := o.row + 1, blk := 0, acc := [] }
           else { o with base := none, row := 0, iter := o.iter + 1, blk := 0, acc := [], done := decide (o.count ≤ o.iter + 1) })))
    (o.op = .mfill → v = 0 → x.passAt o (v + wOff o.f) cyc = true → x.rowBad o.f.ta.toNat o.row = false →
      (o.f.fmt = 4 → x.rowBad (o.f.ta.toNat + 1) o.row = false) →
      ends s (x.row o.f.ta.toNat o.row).toNat (scaleBytes (x.row (o.f.ta.toNat + 1) o.row).toNat)) ∧
    (o.op = .mstrm → x.passAt o (v + wOff o.f) cyc = true → s.wopBase n o = (s, .at_ v) → (v + wOff o.f).toNat % 64 = 0 →
      s.readable n a 64 → (o.f.fmt = 4 → s.readable n ((a + 64) % 2 ^ 64) 4) →
      let p := s.tgtPath n h (tgtOf n a) 64 false
      ends (if o.f.fmt = 4 then p.tgtPath n h (tgtOf n ((a + 64) % 2 ^ 64)) 4 false else p) (leNat (s.tgtRead (tgtOf n a) 64))
        (if o.f.fmt = 4 then scaleBytes (leNat (s.tgtRead (tgtOf n ((a + 64) % 2 ^ 64)) 4)) else [])) ∧
    (o.op = .mfill → x.passAt o (0 + wOff o.f) cyc = false → exec (.arrayPass n cyc) s = .next s)

/-- A HAWKER_STEP of an HMV in progress applies the next eight blocks, iterations its list leaves out taking no turn. A block of 32
unscaled weights that reads well adds, for every vector, the block sum, exact and rounded once to fp32, to the accumulator,
rounding again; where it is not the last block of its weight row, only the accumulators and the block number change; the last
one writes element n of each output vector (the old value added with ACC) and moves to the next weight row. WIDE_OP_FINISH of an
operation that is done sets TSTART to 0 in every participant, retires their pairs and frees the engine. It concludes that exec
answers a next state with the command's own effect for: hawkerStep, wideOpFinish. -/
def Obligations.HawkerStepsTakeEightBlocks : Prop :=
  ∀ (s : State) (n fuel : Nat) (o : WOp) (v : Word) (f : AFmt), n < 256 → (s.stall n).wop = some o →
    (o.op = .hmv → o.done = false →
      Completes (exec (.hawkerStep n) s) (Observed ((List.range 8).foldl (fun u _ => u.hmvBlock n (o.count + 1)) s))) ∧
    (let a := ((v + wOff o.f + BitVec.ofNat 64 o.row * o.gs).toNat + o.blk * f.blockBytes) % 2 ^ 64
     let e := o.iter * o.f.rows.toNat + o.row
     let acc := (List.range (o.f.sub.toNat + 1)).map (fun q => add32 (o.acc.getD q 0)
       (dotWord false (rowVals { w := 16, fp := some .bf16 } ((s.stall n).row (o.f.ta.toNat + q) o.blk).toNat 64 [])
         (rowVals f (leNat (s.tgtRead (tgtOf n a) f.blockBytes)) f.blockBytes [0])))
     o.op = .hmv → o.done = false → aIn o.f.fmt.toNat = some f → f.scaled = false →
     s.wopBase n o = (s, .at_ v) → (v + wOff o.f).toNat % 64 = 0 →
     s.readable n a f.blockBytes → s.hmvOutBad n o = false →
     (o.blk + 1 < o.f.imm8.toNat → s.hmvBlock n (fuel + 1) =
       (s.tgtPath n o.f.hint.toNat (tgtOf n a) f.blockBytes false).setWop n { o with blk := o.blk + 1, acc := acc, base := some v }) ∧
     (o.f.imm8.toNat ≤ o.blk + 1 →
       let u := s.hmvBlock n (fuel + 1)
       (u.stall n).wop = some (if o.row + 1 < o.f.rows.toNat then { o with base := some v, row := o.row + 1, blk := 0, acc := [] }
         else { o with base := none, row := 0, iter := o.iter + 1, blk := 0, acc := [], done := decide (o.count ≤ o.iter + 1) }) ∧
       (∀ q ≤ o.f.sub.toNat, rowWords ((u.stall n).row (o.f.td.toNat + q) (e / 16)) =
         (let old := rowWords ((s.stall n).row (o.f.td.toNat + q) (e / 16))
          old.set (e % 16) (if o.f.acc = true then add32 (old.getD (e % 16) 0) (acc.getD q 0) else acc.getD q 0))) ∧
       ∀ key, (∀ q ≤ o.f.sub.toNat, key ≠ rowKey (o.f.td.toNat + q) (e / 16)) →
         Tab.find (u.stall n).rows key = Tab.find (s.stall n).rows key)) ∧
    (o.done = true → o.parts = (s.stall n).running → (∀ j ∈ o.parts, (s.thread n j).ending = false) → (s.stall n).stopping = false →
      Completes (exec (.wideOpFinish n) s) (Observed
        ((s.updStall n (fun x => { x with wop := none, hawkEnd := if o.op = .hmv then s.time else x.hawkEnd })).groupAfter n
          (fun t => { t with tstart := 0 }))))

/-- ARRAY_COLD sets the array cold and changes nothing else. HAWKER_POWER_DOWN turns the hawker's power domain off where no HMV is
in progress, and changes nothing else; during an HMV it changes nothing. It concludes that exec answers a next state with the
command's own effect for: arrayCold, hawkerPowerDown. -/
def Obligations.EnginePowerFollowsUse : Prop :=
  ∀ (s : State) (n : Nat), n < 256 →
    exec (.arrayCold n) s = .next (s.updStall n (fun x => { x with arr := { x.arr with cold := true } })) ∧
    ((∀ o, (s.stall n).wop = some o → o.op ≠ .hmv) →
      exec (.hawkerPowerDown n) s = .next (s.updStall n (fun x => { x with hawkOn := false }))) ∧
    (∀ o, (s.stall n).wop = some o → o.op = .hmv → exec (.hawkerPowerDown n) s = .next s)

/-- With good source rows, an allowed FMT and RND, and the fields not used 0: element j of row r of TD is the operation of element j
of row r of the sources, for the eight rows of the thread's fragment: VOP add, subtract, multiply (integers wrapping, floating
values exact and rounded once), minimum, maximum, and, or, xor, move; VFMA TA x TB + TD with one rounding; VSCL times the fp32
or int32 in GA; VCMP all ones or 0. No other row, no memory and no register changes; the pair retires. Minimum and maximum take
their tie between zeros of both signs from a free value (log entry 16). It concludes that exec answers a next state with the
command's own effect for: vop, vfma, vscl, vcmp. -/
def Obligations.VectorElementwiseOps : Prop :=
  ∀ (s : State) (n k : Nat) (w : WF) (v : VFmt) (rn : Rnd), s.atWide n k → s.goesOn n k → vfmt w.fmt.toNat = some v →
    let el := fun (t i j : Nat) => bitsOf ((s.stall n).row t (8 * k + i)).toNat (v.w * j) v.w
    let free := fun (i j : Nat) => Config.free (s.freeCtr + 64 * i + j)
    let T := s.thread n k
    let good := fun (l : List (BitVec 5)) => ∀ t ∈ l, (s.stall n).goodFragment k t.toNat
    let gives := fun (c : Instr) (f : Nat → Nat → Nat) => Completes (exec c s) (fun t => ∃ u row,
      FragmentSet s n k w.td.toNat row (s.freeCtr + 512) u ∧ Retires u n k t ∧
      ∀ i < 8, ∀ j < 512 / v.w, bitsOf (row i).toNat (v.w * j) v.w = f i j % 2 ^ v.w)
    (w = { td := w.td, ta := w.ta, tb := w.tb, fmt := w.fmt, rnd := w.rnd, sub := w.sub } → vrnd v w.rnd = some rn →
      good (if w.sub = 8 then [w.ta] else [w.ta, w.tb]) → w.sub.toNat ≤ 8 →
      gives (.vop n k w) (fun i j =>
        let a := el w.ta.toNat i j
        let b := el w.tb.toNat i j
        if w.sub = 5 then Nat.land a b else if w.sub = 6 then Nat.lor a b else if w.sub = 7 then Nat.xor a b
        else if w.sub = 8 then a
        else match v.fp with
          | none =>
            let x := sint v.w a
            let y := sint v.w b
            ((if w.sub = 0 then x + y else if w.sub = 1 then x - y else if w.sub = 2 then x * y
              else if w.sub = 3 then min x y else max x y) % 2 ^ v.w).toNat
          | some f =>
            let x := f.dec a
            let y := f.dec b
            if w.sub = 0 then f.enc rn (x.add y) else if w.sub = 1 then f.enc rn (x.add y.neg)
            else if w.sub = 2 then f.enc rn (x.mul y) else fpMinMax f (w.sub = 4) (free i j) a b)) ∧
    (w = { td := w.td, ta := w.ta, tb := w.tb, fmt := w.fmt, rnd := w.rnd } → vrnd v w.rnd = some rn →
      good [w.ta, w.tb, w.td] →
      gives (.vfma n k w) (fun i j =>
        let a := el w.ta.toNat i j
        let b := el w.tb.toNat i j
        let d := el w.td.toNat i j
        match v.fp with
        | none => ((sint v.w a * sint v.w b + sint v.w d) % 2 ^ v.w).toNat
        | some f => f.enc rn (((f.dec a).mul (f.dec b)).add (f.dec d)))) ∧
    (w = { td := w.td, ta := w.ta, ga := w.ga, fmt := w.fmt, rnd := w.rnd } → vrnd v w.rnd = some rn → good [w.ta] →
      gives (.vscl n k w) (fun i j =>
        let c := (T.gr w.ga.toNat).toNat % 2 ^ 32
        match v.fp with
        | none => ((sint v.w (el w.ta.toNat i j) * sint 32 c) % 2 ^ v.w).toNat
        | some f => f.enc rn ((f.dec (el w.ta.toNat i j)).mul (Fmt.fp32.dec c)))) ∧
    (w = { td := w.td, ta := w.ta, tb := w.tb, fmt := w.fmt, sub := w.sub } → good [w.ta, w.tb] → w.sub.toNat ≤ 5 →
      gives (.vcmp n k w) (fun i j =>
        let a := el w.ta.toNat i j
        let b := el w.tb.toNat i j
        if (match v.fp with
          | some f => cmpFp w.sub.toNat (f.dec a) (f.dec b)
          | none => cmpInt w.sub.toNat (sint v.w a) (sint v.w b)) = true then 2 ^ v.w - 1 else 0))

/-- With good source rows, an allowed FMT and RND and the fields not used 0: VEXP (e^x, or 2^x with SUB 1), VRCP and VRSQ give every
element of the fragment a free value among those the error bound admits (log entries 5 and 17); VRED puts the sum, maximum or
minimum of each row into its element 0 and zeros into the others, integer sums wrapping; VCVT converts element by element, a
narrowing into part IMM8 of the row of TD, whose other parts stay, a widening from part IMM8 of the row of TA. No other row, no
memory and no register changes; the pair retires. It concludes that exec answers a next state with the command's own effect for:
vcvt, vexp, vrcp, vrsq, vred. -/
def Obligations.VectorFunctionsAndReductions : Prop :=
  ∀ (s : State) (n k : Nat) (w : WF), s.atWide n k → s.goesOn n k → (s.stall n).goodFragment k w.ta.toNat →
    let src := fun (i : Nat) => ((s.stall n).row w.ta.toNat (8 * k + i)).toNat
    let old := fun (i : Nat) => ((s.stall n).row w.td.toNat (8 * k + i)).toNat
    let free := fun (i j : Nat) => Config.free (s.freeCtr + 64 * i + j)
    let gives := fun (c : Instr) (b : Nat) (f : Nat → Nat → Nat) => Completes (exec c s) (fun t => ∃ u row,
      FragmentSet s n k w.td.toNat row (s.freeCtr + 512) u ∧ Retires u n k t ∧
      ∀ i < 8, ∀ j < 512 / b, bitsOf (row i).toNat (b * j) b = f i j % 2 ^ b)
    (∀ (b : Nat) (f : Fmt), vfmt w.fmt.toNat = some ⟨b, some f⟩ → vrnd ⟨b, some f⟩ w.rnd ≠ none →
      let a := fun (i j : Nat) => bitsOf (src i) (b * j) b
      (w = { td := w.td, ta := w.ta, fmt := w.fmt, rnd := w.rnd, sub := w.sub } → w.sub.toNat ≤ 1 →
        gives (.vexp n k w) b (fun i j => vexpEl f (w.sub = 1) (free i j) (a i j))) ∧
      (w = { td := w.td, ta := w.ta, fmt := w.fmt, rnd := w.rnd } →
        gives (.vrcp n k w) b (fun i j => vrcpEl f (free i j) (a i j)) ∧
        gives (.vrsq n k w) b (fun i j => vrsqEl f (free i j) (a i j)))) ∧
    (∀ (v : VFmt) (rn : Rnd), vfmt w.fmt.toNat = some v → vrnd v w.rnd = some rn →
      w = { td := w.td, ta := w.ta, fmt := w.fmt, rnd := w.rnd, sub := w.sub } → w.sub.toNat ≤ 2 →
      gives (.vred n k w) v.w (fun i j =>
        let l := (List.range (512 / v.w)).map (fun q => bitsOf (src i) (v.w * q) v.w)
        if j ≠ 0 then 0
        else if w.sub = 0 then (match v.fp with
          | none => l.sum
          | some _ => vredSum v rn l)
        else (l.drop 1).zipIdx.foldl (fun x e => vopEl v rn (if w.sub = 1 then 4 else 3) (free i e.2) x e.1) (l.getD 0 0))) ∧
    (∀ (a b : VFmt), vfmtCvt w.fmt.toNat = some a → vfmtCvt w.sub.toNat = some b →
      w = { td := w.td, ta := w.ta, fmt := w.fmt, rnd := w.rnd, sub := w.sub, imm8 := w.imm8 } → w.rnd.toNat ≤ 1 →
      w.imm8.toNat < max a.w b.w / min a.w b.w → (b.w < a.w → (s.stall n).goodFragment k w.td.toNat) →
      let rn := if w.rnd = 0 then Rnd.even else Rnd.zero
      let m := w.imm8.toNat * (512 / max a.w b.w)
      (a.w ≤ b.w → gives (.vcvt n k w) b.w (fun i j => cvtEl a b rn (free i j) (bitsOf (src i) (a.w * (m + j)) a.w))) ∧
      (b.w < a.w → gives (.vcvt n k w) b.w (fun i j =>
        if m ≤ j ∧ j < m + 512 / a.w then cvtEl a b rn (free i (j - m)) (bitsOf (src i) (a.w * (j - m)) a.w)
        else bitsOf (old i) (b.w * j) b.w)))

/-- On a local tally of the pitch, with the reserved bits of RA 0: TTAKE, TSETV (FN 0) and TWAIT (FN below 6) put their operation on
its way, after those already on their way, and the thread waits for its result; TSIG puts its own on the way and goes on with
one more posted signal, or, with eight outstanding, waits where it is. A tally of another pitch gets no operation: the request
is counted in FENCECNT of the pitch, TTAKE, TSETV and TWAIT have the result 0 and TSIG goes on. A reserved bit of RA, a reserved
FN, or RD of TSIG not 0 raises ILLEGAL. It concludes that exec answers a next state with the command's own effect for: ttake,
tsetv, tsig, twait. -/
def Obligations.TallyInstructionsIssueTheirOperation : Prop :=
  ∀ (s : State) (n k p : Nat) (rd ra rb : BitVec 5) (fn : BitVec 10), s.atScalar n k → s.pitchOf n = some p →
    let T := s.thread n k
    let a := T.gr ra.toNat
    let id := a.toNat % 2 ^ 18
    let clean := a.extractLsb' 18 14 = 0 ∧ a.extractLsb' 48 15 = 0
    let local_ := a.getLsbD 63 = false ∨ (s.cvValid = true ∧ (a.extractLsb' 32 16).toNat = s.cvDev)
    let sent : Nat → Nat → State := fun op c => { s with tally := { s.tally with flight := s.tally.flight ++
      [{ op := op, id := id, x := (T.gr rb.toNat).setWidth 32, cond := c, owner := .thread n k }] } }
    let held : Thread := { T with st := .tally, rd := rd.toNat, resp := none, npc := T.pc + 16 }
    let next : Thread := { T with half := true, npc := T.pc + 16 }
    let fenced := fun (t : State) (x : Thread) => t.tally = s.tally ∧ t.mem = s.mem ∧ t.thread n k = x ∧
      (∀ j, j ≠ k → t.thread n j = s.thread n j) ∧ (∀ m, m ≠ n → t.stall m = s.stall m) ∧
      (t.pctl p).fencecnt = (if (s.pctl p).fencecnt = BitVec.allOnes 32 then (s.pctl p).fencecnt else (s.pctl p).fencecnt + 1)
    (clean → local_ → (s.applied n).ownsTally p id = true →
      exec (.ttake n k rd ra rb 0) s = .next ((sent 0 0).setThread n k held) ∧
      exec (.tsetv n k rd ra rb 0) s = .next ((sent 1 0).setThread n k held) ∧
      (fn.toNat < 6 → exec (.twait n k rd ra rb fn) s = .next ((sent 3 fn.toNat).setThread n k held)) ∧
      (T.tsig < 8 → exec (.tsig n k 0 ra rb 0) s = .next ((sent 2 0).setThread n k { next with tsig := T.tsig + 1 }))) ∧
    (clean → 8 ≤ T.tsig → exec (.tsig n k 0 ra rb 0) s = .next s) ∧
    (clean → local_ → (s.applied n).ownsTally p id = false →
      Completes (exec (.ttake n k rd ra rb 0) s) (fun t => fenced t { held with resp := some (.val 0) }) ∧
      Completes (exec (.tsetv n k rd ra rb 0) s) (fun t => fenced t { held with resp := some (.val 0) }) ∧
      (fn.toNat < 6 → Completes (exec (.twait n k rd ra rb fn) s) (fun t => fenced t { held with resp := some (.val 0) })) ∧
      (T.tsig < 8 → Completes (exec (.tsig n k 0 ra rb 0) s) (fun t => fenced t next))) ∧
    (s.handles n k →
      (¬ clean ∨ fn ≠ 0 →
        Completes (exec (.ttake n k rd ra rb fn) s) (EntersHandler s n k cILLEGAL 0 false false false) ∧
        Completes (exec (.tsetv n k rd ra rb fn) s) (EntersHandler s n k cILLEGAL 0 false false false)) ∧
      (¬ clean ∨ fn ≠ 0 ∨ rd ≠ 0 →
        Completes (exec (.tsig n k rd ra rb fn) s) (EntersHandler s n k cILLEGAL 0 false false false)) ∧
      (¬ clean ∨ 6 ≤ fn.toNat →
        Completes (exec (.twait n k rd ra rb fn) s) (EntersHandler s n k cILLEGAL 0 false false false)))

/-- Where a thread waits for a tally result and a value has come, RD (nothing where it is g0) holds it zero-extended and the
thread's wide half comes next; a failed operation raises its cause with its address. Where no result has come, or the thread
waits for none, nothing changes. It concludes that exec answers a next state with the command's own effect for: readResponse. -/
def Obligations.TallyResultsReachTheirThread : Prop :=
  ∀ (s : State) (n k : Nat), n < 256 → k < 4 →
    let T := s.thread n k
    (∀ v : W32, T.st = .tally → T.resp = some (.val v) → Completes (exec (.readResponse n k) s) (fun t =>
      t = s.setThread n k { T with g := (t.thread n k).g, st := .run, half := true, resp := none } ∧
      (T.rd ≠ 0 → (t.thread n k).gr T.rd = v.setWidth 64) ∧ ∀ r, r ≠ T.rd → (t.thread n k).gr r = T.gr r)) ∧
    (∀ c a, T.st = .tally → T.resp = some (.fail c a) → s.handles n k →
      Completes (exec (.readResponse n k) s) (EntersHandler s n k c a false false false)) ∧
    (T.st ≠ .tally ∨ T.resp = none → exec (.readResponse n k) s = .next s)

/-- The operation of a thread reaches its tally unit, the tally good and its hall reachable. TAKE and SIGNAL make v + x of it modulo
2^32, SET x; WAIT_UNTIL leaves it. Every other tally keeps its value. The thread that waits has as its result the value before
TAKE or SET; a WAIT_UNTIL whose condition holds has the value, one whose condition does not hold is registered after the watches
there are, or, where its stall is being preempted, withdrawn: its thread stops before the pair. A SIGNAL leaves its thread one
fewer posted signal. Every watch on the tally that the new value satisfies is freed, every other watch stays in its place. No
memory changes. It concludes that exec answers a next state with the command's own effect for: takeTally, setTally, signalTally,
waitUntil. -/
def Obligations.TallyOperationsActOnTheirTally : Prop :=
  ∀ (s : State) (n k : Nat) (o : TOp), n < 256 → k < 4 → o.owner = .thread n k → o.dead = false →
    firstOp s.tally.flight (.thread n k) o.op = some o → s.tallyLost (some (hallOf n)) o.id = none →
    NSet.has s.tally.pois o.id = false → (∀ w ∈ s.tally.watches, ∃ m j, w.owner = .thread m j ∧ (m ≠ n ∨ j ≠ k)) →
    let v := s.tallyVal o.id
    let acts := fun (c : Instr) (v' : W32) (x : Thread) => Completes (exec c s) (fun t =>
      t.tallyVal o.id = v' ∧ (∀ i, i ≠ o.id → t.tallyVal i = s.tallyVal i) ∧
      t.tally.flight = removeOp s.tally.flight o ∧
      t.tally.watches = s.tally.watches.filter (fun w => !(decide (w.id = o.id) && tallyCond w.cond v' w.x)) ∧
      t.thread n k = x ∧ t.mem = s.mem ∧
      ∀ w ∈ s.tally.watches, w.id = o.id → tallyCond w.cond v' w.x = true → ∀ m j, w.owner = .thread m j →
        (s.thread m j).st = .tally → (t.thread m j).resp = some (.val v'))
    let got := if (s.thread n k).st = .tally then { s.thread n k with resp := some (.val v) } else s.thread n k
    (o.op = 0 → acts (.takeTally (.thread n k)) (v + o.x) got) ∧
    (o.op = 1 → acts (.setTally (.thread n k)) o.x got) ∧
    (o.op = 2 → acts (.signalTally (.thread n k)) (v + o.x) { s.thread n k with tsig := (s.thread n k).tsig - 1 }) ∧
    (o.op = 3 → (s.stall n).stopping = true → (s.stall n).halting = false → tallyCond o.cond v o.x = false →
      (s.thread n k).st = .tally → (s.thread n k).due = none → Completes (exec (.waitUntil (.thread n k)) s) (fun t =>
      (∀ i, t.tallyVal i = s.tallyVal i) ∧ t.tally.flight = removeOp s.tally.flight o ∧ t.mem = s.mem ∧ t.tally.watches = s.tally.watches ∧
      t.thread n k = { s.thread n k with st := .run, half := false, waited := true, stop := true })) ∧
    (o.op = 3 → (s.stall n).stopping = false → Completes (exec (.waitUntil (.thread n k)) s) (fun t =>
      (∀ i, t.tallyVal i = s.tallyVal i) ∧ t.tally.flight = removeOp s.tally.flight o ∧ t.mem = s.mem ∧
      t.thread n k = (if tallyCond o.cond v o.x = true then got else s.thread n k) ∧
      t.tally.watches = (if tallyCond o.cond v o.x = true then s.tally.watches
        else s.tally.watches ++ [{ id := o.id, cond := o.cond, x := o.x, owner := .thread n k }])))

/-- Where the tally is poisoned, TAKE and WAIT_UNTIL of a waiting thread give it DATA with EADDR 0x8000_0000_0000_0000 + TALLYID,
SIGNAL leaves that exception due at the thread's next pair; no tally changes its value. SET writes its operand, clears the
poison and returns 0. Where the hall of the tally has no rails, or is cut off from the thread's own hall, every operation fails
so with UNMAPPED and no tally changes. -/
def Obligations.PoisonedTalliesFailUntilSet : Prop :=
  ∀ (s : State) (n k : Nat) (o : TOp), n < 256 → k < 4 → o.owner = .thread n k → o.dead = false →
    firstOp s.tally.flight (.thread n k) o.op = some o →
    let T := s.thread n k
    let a : Word := BitVec.ofNat 64 (0x8000000000000000 + o.id)
    let fails := fun (c : Instr) (x : Thread) => exec c s =
      .next ({ s with tally := { s.tally with flight := removeOp s.tally.flight o } }.setThread n k x)
    ((s.hall (o.id / 65536)).rails = false ∨ (s.hall (o.id / 65536)).cutoff = true ∧ o.id / 65536 ≠ hallOf n →
      let lost : Thread := { T with resp := some (.fail cUNMAPPED a) }
      (o.op = 0 → T.st = .tally → fails (.takeTally (.thread n k)) lost) ∧
      (o.op = 1 → T.st = .tally → fails (.setTally (.thread n k)) lost) ∧
      (o.op = 3 → T.st = .tally → fails (.waitUntil (.thread n k)) lost) ∧
      (o.op = 2 → fails (.signalTally (.thread n k)) { T with tsig := T.tsig - 1, due := T.due <|> some (cUNMAPPED, a) })) ∧
    (s.tallyLost (some (hallOf n)) o.id = none → NSet.has s.tally.pois o.id = true → s.tally.watches = [] →
    (o.op = 0 → T.st = .tally → fails (.takeTally (.thread n k)) { T with resp := some (.fail cDATA a) }) ∧
    (o.op = 3 → T.st = .tally → fails (.waitUntil (.thread n k)) { T with resp := some (.fail cDATA a) }) ∧
    (o.op = 2 → fails (.signalTally (.thread n k)) { T with tsig := T.tsig - 1, due := T.due <|> some (cDATA, a) }) ∧
    (o.op = 1 → T.st = .tally → Completes (exec (.setTally (.thread n k)) s) (fun t =>
      t.tallyVal o.id = o.x ∧ NSet.has t.tally.pois o.id = false ∧ (t.thread n k).resp = some (.val 0) ∧
      ∀ i, i ≠ o.id → t.tallyVal i = s.tallyVal i ∧ NSet.has t.tally.pois i = NSet.has s.tally.pois i)))

/-- From a service processor, to a stall block that answers. PREEMPT of a stall with no operation and no porter in progress and no
exception due sets SLOT and stops each thread between pairs, at a barrier or in a withdrawn wait on this device; a thread in the
middle of a pair or waiting for a result goes on to its end. CONTEXT_SAVE_DONE of a stall whose threads have all stopped writes
the save to its slot, sets SAVED and leaves the stall idle with its tiles cleared, its work item and the signals its threads
have posted parked; otherwise it changes nothing. HALT stops the threads as PREEMPT does; once all have stopped, which is at
once where none is in the middle of a pair or waits for a result, threads, tiles, porters and watches are discarded; no memory
is written. RESTORE of a save that fails its checks only sets RESTOREERR; of a good one it gives every thread its block and its
posted signals, the stall the work item, tiles and weight image of the save, and clears SAVED. It concludes that exec answers a
next state with the command's own effect for: preempt, contextSaveDone, haltStall, restore. -/
def Obligations.StallsStopSaveAndRestore : Prop :=
  ∀ (s : State) (q : Req) (n slot : Nat), inReq q = true → reqIsSp q = true → s.blockOpen q n → n < 256 → slot < 2 →
    let b := stallBase n + 8
    let busy := fun (u : State) => ∃ i < 2, ((u.stall n).porter i).busy = true
    let s' := (s.awake n).setRw32 b (BitVec.ofNat 32 (8 * slot))
    let still := (s.stall n).wop = none ∧ ¬ busy s ∧ (∀ k < 4, (s.thread n k).due = none) ∧
      ∀ e ∈ s.cv.conv, ∀ o ∈ e.2.ops, ∀ k, o.op = 4 → o.owner ≠ .thread n k ∧ ∀ i, o.owner ≠ .porter n i k
    let between := fun (k : Nat) => (s.thread n k).stop = true ∨ ((s.thread n k).st = .run → (s.thread n k).half = false) ∧
      ((s.thread n k).st = .tally → s.tally.watches.any (fun w => w.owner = .thread n k) = true)
    (still → (s.stall n).halting = false →
      Completes (exec (.preempt q n slot) s) (fun t =>
        t = { s' with stalls := t.stalls, tally := { s.tally with watches := s.tally.watches.filter (fun w =>
          !([0, 1, 2, 3] : List Nat).any (fun k => decide (w.owner = .thread n k ∧ (s.thread n k).st = .tally))) } } ∧
        (∀ m, m ≠ n → t.stall m = s.stall m) ∧
        t.stall n = { s.stall n with gated := false, saving := true, saved := false, th := (t.stall n).th } ∧
        ∀ k < 4,
          let T := s.thread n k
          let withdrawn : Thread := { T with st := .run, half := false, waited := true, gop := none, stop := true }
          t.thread n k = match T.st with
            | .off => T
            | .run => if T.half = true then T else { T with stop := true }
            | .tally => if s.tally.watches.any (fun w => w.owner = .thread n k) then withdrawn else T
            | .group => withdrawn
            | .syncg => withdrawn
            | .pwait => { T with st := .run, half := true, stop := true })) ∧
    (still → (∃ k < 4, ¬ between k) → Completes (exec (.haltStall q n) s) (fun t =>
      (t.stall n).halting = true ∧ (t.stall n).saving = false ∧ t.mem = s.mem ∧ t.tally.val = s.tally.val ∧
      (∀ k < 4, ((t.thread n k).st = .off ∨ (t.thread n k).stop = true) ∨ ¬ between k ∧ t.thread n k = s.thread n k) ∧
      ∀ m, m ≠ n → t.stall m = s.stall m)) ∧
    (still → (∀ k < 4, between k) → Completes (exec (.haltStall q n) s) (fun t =>
      (t.stall n).th = [] ∧ (t.stall n).rows = [] ∧ (t.stall n).rowPois = [] ∧ (t.stall n).wop = none ∧ (t.stall n).port = [] ∧
      (t.stall n).saving = false ∧ (t.stall n).halting = false ∧ (t.stall n).work = none ∧ (t.stall n).arr.loaded = false ∧ t.mem = s.mem ∧
      t.tally.val = s.tally.val ∧
      t.tally.watches = s.tally.watches.filter (fun w => match w.owner with
        | .thread m _ => decide (m ≠ n)
        | .porter m _ _ => decide (m ≠ n)
        | _ => true) ∧
      ∀ m, m ≠ n → t.stall m = s.stall m)) ∧
    ((s.stall n).saving = true → (∀ k < 4, (s.thread n k).st = .off ∨ (s.thread n k).stop = true) →
      let a := slotAddr n (if (s.rw32 b).getLsbD 3 then 1 else 0)
      let l := s.saveBytes n
      (∀ i < l.length, s.dropsSlice (a + i) = false) →
      Completes (exec (.contextSaveDone n) s) (fun t =>
        (∀ i < l.length, Mem.rd t.mem.slice (a + i) = l.getD i 0) ∧
        (∀ x, x < a ∨ a + l.length ≤ x → Mem.rd t.mem.slice x = Mem.rd s.mem.slice x) ∧
        t.mem.far = s.mem.far ∧ t.mem.shelf = s.mem.shelf ∧ t.mem.host = s.mem.host ∧
        (t.stall n).th = [] ∧ (t.stall n).rows = [] ∧ (t.stall n).port = [] ∧ (t.stall n).saving = false ∧
        (t.stall n).saved = true ∧ (t.stall n).work = none ∧ (t.stall n).parked = (s.stall n).work ∧
        t.tally.flight = s.tally.flight.map (fun o => match o.owner with
          | .parked m _ => if m = n then { o with dead := true } else o
          | .porter m _ _ => if m = n then { o with dead := true } else o
          | .thread m k => if m = n then { o with owner := .parked m k } else o
          | _ => o) ∧
        ∀ m, m ≠ n → t.stall m = s.stall m)) ∧
    ((s.stall n).saving = false ∨ (∃ k < 4, (s.thread n k).st ≠ .off ∧ (s.thread n k).stop = false) →
      exec (.contextSaveDone n) s = .next s) ∧
    (let a := slotAddr n slot
     let h := Mem.rdBytes s.mem.slice a 64
     let body := Mem.rdBytes s.mem.slice (a + 64) (leNat ((h.drop 12).take 4) % 0x20000 - 64)
     let run := leNat ((h.drop 4).take 1)
     let src := leNat ((h.drop 2).take 1)
     (s'.restoreBad n slot h body = true →
       exec (.restore q n slot) s = .next (s'.updStall n (fun x => { x with restoreErr := true }))) ∧
     (s'.restoreBad n slot h body = false → Completes (exec (.restore q n slot) s) (fun t =>
       (∀ k < 4, t.thread n k =
         { threadOf ((body.drop (0x180 * k)).take 0x180) (bitsOf run k 1 = 1) (bitsOf run (4 + k) 1 = 1) with
           tsig := t.posted (.thread n k) }) ∧
       (t.stall n).saved = false ∧ (t.stall n).restoreErr = false ∧ t.mem = s.mem ∧ t.tally.val = s.tally.val ∧
       t.tally.watches = s.tally.watches ∧ (t.stall n).work = (s.stall src).parked ∧ (t.stall src).parked = none ∧
       t.tally.flight = s.tally.flight.map (fun o => match o.owner with
         | .parked m k => if m = src then { o with owner := .thread n k } else o
         | _ => o) ∧
       (t.stall n).arr.loaded = decide (leNat ((h.drop 5).take 1) % 2 = 1) ∧
       ((t.stall n).arr.loaded = true → ∀ r < 32, Tab.get 0 (t.stall n).arr.img r = rowOf ((body.drop (0x7C0 + 64 * r)).take 64)) ∧
       ∀ j < 32, ∀ r < 32,
         let tile := fun (i : Nat) => bitsOf (leNat ((h.drop 8).take 4)) i 1 = 1
         Tab.find (t.stall n).rows (rowKey j r) = if tile j then
           some (rowOf ((body.drop (0xFC0 + 0x800 * ((List.range j).filter (fun i => decide (tile i))).length + 64 * r)).take 64)) else none)))

/-- For every thread: the thread made from its own block of a context save has every general register, PC, EPC, EADDR, EVEC,
ESCRATCH, TSTART, BATCHCNT, BATCHSTR and PLIST as it was, ECAUSE and ESTAT in their defined bits, comes next to the half of its
pair that it came next to, if it runs, and keeps WAITED. So no bit of the layout of the block overlaps another or is dropped. -/
def Obligations.SavedThreadsRestore : Prop :=
  ∀ (t : Thread) (run kended : Bool),
    let u := threadOf (threadBlock t) run kended
    (∀ i < 32, u.gr i = t.gr i) ∧ u.pc = t.pc ∧ u.npc = t.pc + 16 ∧ u.epc = t.epc ∧ u.eaddr = t.eaddr ∧ u.evec = t.evec ∧
    u.escratch = t.escratch ∧ u.tstart = t.tstart ∧ u.batchcnt = t.batchcnt ∧ u.batchstr = t.batchstr ∧ u.plist = t.plist ∧
    u.ecause = t.ecause &&& 0xFF ∧ u.estat = t.estat &&& 0xF ∧ u.half = (run && t.half) ∧ u.waited = t.waited ∧
    u.st = (if run = true then .run else .off) ∧ u.kended = kended

/-- In a hall whose rails are up: REFRESH_SLOT of quarter q refreshes one bank of every layer whose multiplier has a slot there
(each quarter at 4x, every other at 2x, the first at 1x): refresh number n takes bank n mod 16, busy for 90 cycles from the
quarter's start, and numbers run mod 16,384. FRAME_BOUNDARY after the four quarters starts the next frame with each layer's
multiplier: 4x without a refresh command or in fail-safe, otherwise the higher of the command and the estimate's band at once,
and a lower one only where a MULTIPLIER_LOWERING allowed it and the estimate has not risen since. HALLREFCMD from a service
processor with no layer coded 3 sets the command and ends fail-safe; REFRESH_FAILSAFE sets it, with 4x for all. Nothing else
changes but SLICECFG of stalls that wait for the boundary. It concludes that exec answers a next state with the command's own
effect for: refreshSlot, frameBoundary, hallRefCmd, multiplierLowering, refreshFailsafe. -/
def Obligations.RefreshFollowsItsFrame : Prop :=
  ∀ (s : State) (h l : Nat) (q : Req) (v : W32), h < 4 → l < 8 → inReq q = true →
    let x := s.hall h
    let only := fun (c : Instr) (f : HallSt → HallSt) => exec c s = .next (s.updHall h f)
    let code := fun (m : BitVec 16) (l : Nat) => m.toNat / 4 ^ l % 4
    let slot := fun (l q : Nat) => if code x.mult l = 0 then q % 4 = 0 else if code x.mult l = 1 then q % 2 = 0 else True
    let bank := fun (l : Nat) => Tab.get 0 x.refn l % 16
    (x.rails = true → x.quarter < 4 → Completes (exec (.refreshSlot h) s) (fun t =>
      t = s.updHall h (fun y => { y with quarter := x.quarter + 1, refEnd := (t.hall h).refEnd, refn := (t.hall h).refn }) ∧
      (∀ l < 8, Tab.get 0 (t.hall h).refn l =
        if slot l x.quarter then (Tab.get 0 x.refn l + 1) % 16384 else Tab.get 0 x.refn l) ∧
      (∀ l < 8, ∀ b < 16, Tab.get 0 (t.hall h).refEnd (16 * l + b) = if slot l x.quarter ∧ b = bank l then
        x.frame0 + 256 * (4 * x.frames + x.quarter) + 90 else Tab.get 0 x.refEnd (16 * l + b)))) ∧
    (x.rails = false ∨ 4 ≤ x.quarter → exec (.refreshSlot h) s = .next s) ∧
    (x.rails = true → x.quarter = 4 → Completes (exec (.frameBoundary h) s) (fun t =>
      let y := t.hall h
      (∀ l < 8, code y.mult l =
        let up := max (code x.cmd l) (bandOf (s.layerEst h l))
        (if x.cmdSeen = false ∨ x.failsafe = true then 2 else if code x.mult l ≤ up then up
         else match Tab.find x.lowerOk l with
           | some f => if lowerBand (s.layerEst h l) ≤ f then min (code x.mult l) (max up f) else code x.mult l
           | none => code x.mult l)) ∧
      t = { s.updHall h (fun z => { z with
        frames := x.frames + 1, quarter := 0, mult := y.mult, lowerOk := y.lowerOk,
        refgen := if y.mult = x.mult then x.refgen else x.refgen + 1 }) with stalls := t.stalls } ∧
      ∀ n < 256, t.stall n = match (s.stall n).armSlice with
        | some c => if n / 64 = h then { s.stall n with slicecfg := c, armSlice := none } else s.stall n
        | none => s.stall n)) ∧
    (x.rails = false → exec (.frameBoundary h) s = .next s) ∧
    (s.setupOpen q → reqIsSp q = true → (∀ l < 8, code (v.setWidth 16) l ≠ 3) →
      only (.hallRefCmd q h v) (fun y => { y with cmd := v.setWidth 16, lastCmd := s.time, cmdSeen := true, failsafe := false })) ∧
    (let low := lowerBand (s.layerEst h l)
     (low < code x.mult l → only (.multiplierLowering h l) (fun y => { y with lowerOk := Tab.set y.lowerOk l low })) ∧
     (code x.mult l ≤ low → exec (.multiplierLowering h l) s = .next s)) ∧
    (x.rails = true → only (.refreshFailsafe h) (fun y => { y with failsafe := true, cmd := 0xAAAA }))

/-- NEAR_REQUEST and FOREIGN_REQUEST, where no other request waits at the slice's ports, issue at the first cycle from their arrival
on at which the timetable lets them: an isolated slice keeps near requests out of the window and foreign ones inside it, and
writes of a throttled layer issue every 32nd cycle. The answer is the cycle of completion, 30 after issue for a read, 26 for a
write, 56 for a partial write of a written line. NEARRD, NEARWR, FARRD or FARWR counts it; it waits at its port until it issues.
FAR_EGRESS of an access that the fence refuses counts it in FENCECNT and changes no memory and no tally; one that leaves the
stall enters the router's own input as one flit and its data flits, where nothing waits before it and there is room, and counts
as outstanding. It concludes that exec answers a next state with the command's own effect for: nearRequest, foreignRequest,
farEgress. -/
def Obligations.SliceRequestsMeetTheTimetable : Prop :=
  ∀ (s : State) (n off cyc k ag : Nat) (kind : AccKind) (wr : Bool) (addr : Word), n < 256 → k < 4 → off < unit256 →
    let fresh := !NSet.has s.mem.sliceValid (1048576 * n + off / 256)
    let part := decide (kind = .partialWrite) && !fresh
    let d := s.sliceOf n
    let now := max d.now cyc
    let done := fun (near : Bool) (c : Instr) =>
      let r : PortReq := { no := d.nextReq, near := near, off := off, kind := kind, arr := now, fresh := fresh }
      ∀ i, now ≤ i → i < now + 12288 → (∀ j, now ≤ j → j < i → s.mayIssue n d r j = false) → s.mayIssue n d r i = true →
      d.wait = [] → (∀ u ∈ d.live, u.no < d.nextReq ∧ ∀ b, u.bus = some b → b + 4 ≤ u.done) →
      (∀ j, s.accepts (if near = true then 1 else 2) n j = true) →
      (s.isolated n = true →
        let o := (i - (s.hall (n / 64)).frame0) % 1024
        let w := winCycles (fld32 (s.stall n).slicecfg 1 2)
        if near = true then o ≤ 1023 - w else 1024 - w ≤ o ∧ o ≤ if part = true then 958 else 984) ∧
      Completes (exec c s) (fun t => Observed
        { s.updSlice n (fun d => { d with now := now, wait := [r], nextReq := d.nextReq + 1 }) with
          out := .reg (BitVec.ofNat 64 (i + if kind = .read then 30 else if part = true then 56 else 26)) } t)
    done true (.nearRequest n off cyc kind) ∧ done false (.foreignRequest n off cyc kind) ∧
    (∀ p, ag < 2 → s.pitchOf n = some p → s.fenceRefuses n (tgtOf n addr.toNat) = true →
      Completes (exec (.farEgress n k ag wr addr) s) (fun t => t.mem = s.mem ∧ t.tally = s.tally ∧ t.stalls = s.stalls ∧
        t.net = s.net ∧ t.out = (if wr = true then .none else .reg 0) ∧
        (t.pctl p).fencecnt = (if (s.pctl p).fencecnt = BitVec.allOnes 32 then (s.pctl p).fencecnt else (s.pctl p).fencecnt + 1))) ∧
    (∀ t, ag < 2 → tgtOf n addr.toNat = t → s.fenceRefuses n t = false → t.leaves n = true → s.segsOn (n / 64) = true →
      let key := inqKey (n / 64) (n % 64) 0 false
      let data := if ag = 1 then 4 else 1
      let d := if wr = true then data else 0
      let f : Flit := { src := n, dst := t.endpoint, rsp := false, kind := if wr = true then 1 else 0, col := n % 8, len := data - d }
      let c := openKey n f.kind f.dst
      Tab.get [] s.net.wait (2 * n) = [] → s.outstanding n f.kind < (if wr = true then 32 else 64) →
      (endHall f.dst = n / 64 ∨ s.exitHeld (n / 64) (n % 8) = false) → (s.inq key).length + 1 + d ≤ s.credits (n / 64) false →
      Completes (exec (.farEgress n k ag wr addr) s) (fun u => u = { s with net := u.net } ∧ u.net.link = s.net.link ∧ u.net.rr = s.net.rr ∧
        u.inq key = s.inq key ++ (List.range (1 + d)).map (fun i => { f with head := i = 0, last := i = d }) ∧
        (∀ a, a ≠ key → u.inq a = s.inq a) ∧ (∀ a, Tab.get [] u.net.wait a = Tab.get [] s.net.wait a) ∧
        (∀ a, Tab.get 0 u.net.open_ a = Tab.get 0 s.net.open_ a + if a = c then 1 else 0))) ∧
    (∀ p, s.pitchOf n = some p → s.tallyFenced n (addr.toNat % 2 ^ 18) = true →
      Completes (exec (.farEgress n k 2 wr addr) s) (fun t => t.tally = s.tally ∧ t.mem = s.mem ∧ t.net = s.net ∧ t.out = .reg 0 ∧
        (t.pctl p).fencecnt = (if (s.pctl p).fencecnt = BitVec.allOnes 32 then (s.pctl p).fencecnt else (s.pctl p).fencecnt + 1)))

/-- Of a word that is written, not erased at the symbol and the target of no injector: CORRECTED_REWRITE counts one CE for its
requester, stores the word as corrected and logs a soft error (TYPE 1) where the re-read is clean; where it corrects the same
symbol it logs a hard error (TYPE 2) with its count and counts it toward the thresholds; where it corrects another symbol the
soft error is logged and the new one handled in turn; an uncorrectable re-read is a hard error and is then retried. READ_RETRY
logs a soft error where either retry reads well; where all three reads are uncorrectable it logs TYPE 3, reports to its
requester, stores the word poisoned, and counts toward the thresholds unless the read-back reads as poisoned; a word that was
poisoned already is logged and reported only. POISON_READBACK of a word whose last read was uncorrectable ends that state where
it reads clean, handles a corrected read, and otherwise poisons it again, fails the item that wrote it or lists the granule of a
CXL.mem write. A word never written is not read: nothing happens. It concludes that exec answers a next state with the command's
own effect for: correctedRewrite, readRetry, poisonReadback. -/
def Obligations.ErrorsAreCorrectedRetriedAndPoisoned : Prop :=
  ∀ (s : State) (u : EUnit) (who : EReq) (e1 e2 e3 rb : List (Nat × BitVec 16)) (es : List (List (Nat × BitVec 16))),
    inUnit u = true → inWho who = true →
    let synd := s.syndOf u e1
    let kinds := (∃ n off, u = .slice n off) ∨ (∃ o, u = .far o) ∨ (∃ n off, u = .shelf n off) ∨ (∃ n t r w, u = .tile n t r w) ∨
      (∃ n w, u = .ibuf n w) ∨ (∃ a, u = .gsram a) ∨ ∃ set way w, u = .fcache set way w ∧ (s.wayLine set way).isSome = true
    (s.unitFresh u = true → exec (.correctedRewrite u who e1 es) s = .next s ∧
      exec (.readRetry u who e1 e2 e3 rb) s = .next s.used) ∧
    (s.unitFresh u = false → s.injector u = none →
      (∀ i, s.readWord u e1 = .corrected i → s.erasedAt u ≠ some i →
        let w := (s.countCe who).rewritten u e1
        let soft := w.logUnit 1 u who i synd 0 false
        let hard := (w.logUnit 2 u who i synd (w.unitCount u + 1) false).hardEvent u false i
        exec (.correctedRewrite u who e1 es) s = .next (match es with
          | [] => soft
          | e :: rest => match w.readWord u e with
            | .clean => soft
            | .corrected j => if i = j then hard else State.reread u who ⟨soft, e, true⟩ rest
            | _ => State.retryFrom u who ⟨hard, e, true⟩ (rest.getD 0 []) (rest.getD 1 []) (rest.getD 2 [])) ∧
        soft.mem = w.mem ∧ soft.stalls = s.stalls ∧ soft.tally = s.tally ∧
        Tab.find soft.integ.log s.integ.next = some { mkEnt 1 (unitCode u) (reqCode who) (w.whoPitch who) (w.unitLoc u i).1 (w.unitLoc u i).2
          with time := s.time, synd := synd, lostb := w.unitLost u } ∧
        soft.integ.next = (s.integ.next + 1) % 1024) ∧
      (∀ i, s.readWord u e1 = .corrected i → s.erasedAt u = some i →
        exec (.correctedRewrite u who e1 es) s = .next (s.countCe who)) ∧
      (s.readWord u e1 = .clean ∨ (s.readWord u e1).bad = true → exec (.correctedRewrite u who e1 es) s = .next s) ∧
      ((s.readWord u e1).bad = false → exec (.readRetry u who e1 e2 e3 rb) s = .next s.used) ∧
      ((s.readWord u e1).bad = true → ((s.readWord u e2).bad = false ∨ (s.readWord u e3).bad = false) →
        exec (.readRetry u who e1 e2 e3 rb) s = .next ((s.countCe who).logUnit 1 u who 0 synd 0 false).used) ∧
      ((s.readWord u e1).bad = true → (s.readWord u e2).bad = true → (s.readWord u e3).bad = true →
        let pois := decide (s.readWord u e1 = .poisoned)
        let heard := ((s.logUnit 3 u who 0 synd (s.unitCount u) pois).reportUe u who).markReported u who
        let told := heard.poisonUnit u
        (pois = true → exec (.readRetry u who e1 e2 e3 rb) s = .next heard.used) ∧
        (pois = false → told.injector u = none →
          (told.readWord u rb = .poisoned → exec (.readRetry u who e1 e2 e3 rb) s = .next told.used) ∧
          (told.readWord u rb ≠ .poisoned → exec (.readRetry u who e1 e2 e3 rb) s = .next (told.hardEvent u true 0).used)) ∧
        (kinds → heard.far = s.far → told.unitPois u = true))) ∧
    (s.wasUe u = true → s.unitPois u = false → s.injector u = none →
      let b := (s.poisonUnit u).logUnit 3 u who 0 (s.syndOf u rb) (s.unitCount u + 1) false
      (s.readWord u rb = .clean → exec (.poisonReadback u who ⟨rb, es⟩) s = .next (s.clearUe u) ∧ (s.clearUe u).wasUe u = false) ∧
      (∀ i, s.readWord u rb = .corrected i → exec (.poisonReadback u who ⟨rb, es⟩) s =
        .next (State.reread u who ⟨(s.clearUe u).countCe who, rb, true⟩ es)) ∧
      ((s.readWord u rb).bad = true → (kinds → b.unitPois u = true) ∧
        (∀ ld, who = .cxl ld → exec (.poisonReadback u who ⟨rb, es⟩) s = .next ((b.addPoison [(ld, b.unitDpa u ld)]).hardEvent u true 0)) ∧
        (∀ p r seq, who = .item p r seq → exec (.poisonReadback u who ⟨rb, es⟩) s =
          .next ((b.updItem p r seq (fun i => i.failAt (b.granuleOf u who))).hardEvent u true 0)))) ∧
    (s.wasUe u = false ∨ s.unitPois u = true → exec (.poisonReadback u who ⟨rb, es⟩) s = .next s)

/-- ROW_COPY_DONE of a copy in progress marks it done with the time, adds one to the rows retired of the slice and logs TYPE 4; with
no copy it changes nothing. PACKET_RESEND that comes good logs a soft packet error and forgets its tries, a first or second bad
one counts the try, the third is the packet's loss. SLICE_SCRUB, scrubbing on and the hall powered, reads the first valid line
of the port from its position on, wrapping, and moves the position past it, wrapping at 262,144; FAR_SCRUB likewise by channel.
Each word found in error is handled as CORRECTED_REWRITE or READ_RETRY handles it. VALID_BIT_WRITEBACK writes the valid bits of
its store to their backing copies. EVENT_LOG_ENTRY_READ of an entry its requester may see answers its 32 bytes and marks it
read. It concludes that exec answers a next state with the command's own effect for: rowCopyDone, correctedRewrite, readRetry,
packetResend, sliceScrub, farScrub, validBitWriteback, eventLogEntryRead. -/
def Obligations.MaintenanceOfMemoryAndItsLog : Prop :=
  ∀ (s : State) (n row src dst id port ch i : Nat) (q : Req) (w : List (Nat × List (List (Nat × BitVec 16)))) (b : List Byte)
    (k : PktUse) (far : Bool), n < 256 → port < 4 → inChan ch = true →
    inReq q = true → inLog i = true → inPkt k = true →
    ((∃ x ∈ (s.sliceOf n).map, x.row = row ∧ x.copying = true) → Completes (exec (.rowCopyDone n row) s) (fun t =>
      t.mem = s.mem ∧ t.stalls = s.stalls ∧ (∀ m, m ≠ n → t.sliceOf m = s.sliceOf m) ∧
      t.sliceOf n = { s.sliceOf n with
        retired := (s.sliceOf n).retired + 1,
        map := (s.sliceOf n).map.map (fun x => if x.row = row then { x with copying := false, time := s.time } else x) } ∧
      (∃ x, Tab.find t.integ.log s.integ.next = some x ∧ x.type = 4 ∧ x.loc = n + row / 32768 * 256))) ∧
    ((∀ x ∈ (s.sliceOf n).map, ¬ (x.row = row ∧ x.copying = true)) → exec (.rowCopyDone n row) s = .next s) ∧
    (let is := fun (x : Nat × Nat × Nat × Nat) => decide (x.1 = src ∧ x.2.1 = dst ∧ x.2.2.1 = id)
     let tries := match s.integ.resend.find? is with | some x => x.2.2.2 | none => 0
     let rest := s.integ.resend.filter (fun x => !is x)
     let good := decide (crc32c (b.take 60 ++ b.drop 64) = BitVec.ofNat 32 (leNat ((b.drop 60).take 4)))
     s.injectorFor 7 (fun _ => true) = none →
     (good = true → Completes (exec (.packetResend src dst id ⟨k, b⟩) s) (fun t => t.integ.resend = rest ∧
       t = { s with integ := t.integ } ∧ ∃ x, Tab.find t.integ.log s.integ.next = some x ∧ x.type = 1 ∧ x.unit = 8)) ∧
     (good = false → tries < 2 → exec (.packetResend src dst id ⟨k, b⟩) s =
       .next { s with integ := { s.integ with resend := rest ++ [(src, dst, id, tries + 1)] } }) ∧
     (good = false → 2 ≤ tries → exec (.packetResend src dst id ⟨k, b⟩) s =
       .next (({ s with integ := { s.integ with resend := rest } } : State).packetLost src dst k true))) ∧
    (s.sint ≠ 0 → (s.hall (n / 64)).rails = true → ∀ c < 262144,
      let pos := Tab.get 0 (s.sliceOf n).scrub port
      let valid := fun (j : Nat) => 1048576 * n + 4 * j + port ∈ s.mem.sliceValid
      s.mem.sliceValid.Pairwise (· < ·) → valid c →
      (pos ≤ c ∧ (∀ j, pos ≤ j → j < c → ¬ valid j) ∨ c < pos ∧ (∀ j < 262144, pos ≤ j ∨ j < c → ¬ valid j)) →
      ∃ s', Observed (s.updSlice n (fun d => { d with scrub := Tab.set d.scrub port ((c + 1) % 262144) })) s' ∧
        exec (.sliceScrub n port w) s = .next (s'.scrubbed (fun i => .slice n (256 * (4 * c + port) + 32 * i)) w)) ∧
    (s.sint = 0 ∨ (s.hall (n / 64)).rails = false → exec (.sliceScrub n port w) s = .next s) ∧
    (∀ u e e2 e3 rb, inUnit u = true → s.unitFresh u = false → s.injector u = none →
      (∀ x, s.readWord u e = .corrected x → exec (.correctedRewrite u .scrub e [e2]) s = .next (s.scrubbed (fun _ => u) [(0, [e, e2])])) ∧
      ((s.readWord u e).bad = true →
        exec (.readRetry u .scrub e e2 e3 rb) s = .next (s.scrubbed (fun _ => u) [(0, [e, e2, e3, rb])]).used)) ∧
    (let mine := fun (l : Nat) => l ∈ s.mem.farValid ∧ (s.chanOf (l * 256)).1 = ch ∧ s.stranded (l * 256) = false
     let at_ := fun (l : Nat) => (s.chanOf (l * 256)).2
     let pos := Tab.get 0 s.integ.farScrub ch
     (s.fint = 0 ∨ (s.module (ch / 8)).state ≠ 3 ∨ (∀ l, ¬ mine l) → exec (.farScrub ch w) s = .next s) ∧
     (∀ l, mine l → s.fint ≠ 0 → (s.module (ch / 8)).state = 3 →
       (pos ≤ at_ l ∧ (∀ m, mine m → m ≠ l → at_ m < pos ∨ at_ l < at_ m) ∨
        at_ l < pos ∧ (∀ m, mine m → m ≠ l → at_ m < pos ∧ at_ l < at_ m)) →
       exec (.farScrub ch w) s = .next
         (({ s with integ := { s.integ with farScrub := Tab.set s.integ.farScrub ch (at_ l + 1) } } : State).scrubbed
           (fun i => .far (l * 256 + 32 * i)) w))) ∧
    Completes (exec (.validBitWriteback far n) s) (fun t =>
      t = { s with mem := { s.mem with sliceBack := t.mem.sliceBack, farBack := t.mem.farBack } } ∧
      (far = true → t.mem.farBack = s.mem.farValid ∧ t.mem.sliceBack = s.mem.sliceBack) ∧
      (far = false → t.mem.farBack = s.mem.farBack ∧
        ∀ l, l ∈ t.mem.sliceBack ↔ if l / 1048576 = n then l ∈ s.mem.sliceValid else l ∈ s.mem.sliceBack)) ∧
    (s.isReq q = true → (s.reqSt q).page = false →
      (Tab.find s.integ.log i = none → exec (.eventLogEntryRead q i) s = .next { s with out := .resp 0 (zeros 32) }) ∧
      (∀ x, Tab.find s.integ.log i = some x → s.seesEntry q x = true → exec (.eventLogEntryRead q i) s =
        .next { s with integ := { s.integ with read := NSet.add s.integ.read i }, out := .resp 0 x.bytes }) ∧
      (∀ x, Tab.find s.integ.log i = some x → s.seesEntry q x = false → exec (.eventLogEntryRead q i) s =
        .next { s with out := .resp 0 (zeros 32) }))

/-- RING_ENABLE of a ring set up within its bounds and not active starts it from the beginning; any other sets CFGERR. RING_DISABLE
clears ENABLE; RING_ABORT clears it and ends every item of the ring with 0x30, one that waits at another device once it has
withdrawn the wait. A tail doorbell with an index below the ring's size sets DBTAIL and counts, a head doorbell that frees
records written moves CQHEAD; any other counts in DBERR. DESCRIPTOR_FETCH in the ring's turn takes up to eight entries in order,
with consecutive sequence numbers, as far as tail, bounds and journal allow, and passes the turn; where the read at FETCH fails
the ring is disabled with HOSTERR and nothing is fetched, where the read past the ring's end fails the entries before the end
are kept. MODERATION_TIMER signals records not yet signalled. BUS_MASTER_ENABLE_SET, with no collective and no LOAD waiting,
writes what was held, in order, then signals what was held; a held record is written then, at CQTAIL, with its moderation. CLEAR
starts holding. It concludes that exec answers a next state with the command's own effect for: ringEnable, ringDisable,
ringAbort, tailDoorbell, headDoorbell, descriptorFetch, submissionFetchFailed, moderationTimer, busMasterEnableSet,
busMasterEnableClear. -/
def Obligations.RingsEnableFetchAndRelease : Prop :=
  ∀ (s : State) (q : Req) (p r fn : Nat) (v : W32) (stores : List Host.Cell), inReq q = true → p < 16 → r < 64 → fn < 16 →
    let g := s.ring p r
    let N := s.ringN p r
    let idx := (v.extractLsb' 0 16).toNat
    let counts := fun (u : State) (c : Instr) => Completes (exec c s) (Observed
      (u.updPring p (fun x => { x with dberr := if x.dberr < 0xFFFF then x.dberr + 1 else 0xFFFF })))
    let fails := fun (a : Ans) => Completes a (Observed ((s.updRing p r (fun g => { g with enable := false, hosterr := true })).turnDone p r))
    (s.setupOpen q → reqOwns q p = true →
      (g.enable = true → exec (.ringEnable q p r) s = .next s) ∧
      (g.enable = false →
        (if 4 ≤ s.ringLog2 p r ∧ s.ringLog2 p r ≤ 16 ∧ s.sqbase p r ≠ 0 ∧ s.cqbase p r ≠ 0 ∧ s.ringActive p r = false ∧
            r < s.pt.active.ringcount p ∧ s.pt.active.enabled p = true then
          exec (.ringEnable q p r) s = .next (s.updRing p r (fun g => { g with
            enable := true, cfgerr := false, hosterr := false, phase := true, fetch := 0, dbtail := 0, cqtail := 0, cqhead := 0,
            seqnext := 0, unsig := 0, written := 0 }))
        else Completes (exec (.ringEnable q p r) s) (Observed (s.updRing p r (fun g => { g with cfgerr := true }))))) ∧
      exec (.ringDisable q p r) s = .next (s.updRing p r (fun g => { g with enable := false })) ∧
      exec (.ringAbort q p r) s =
        .next ((s.ringItems p r).foldl (fun u i => u.endItemSoft i.p i.r i.seq 0x30) (s.updRing p r (fun g => { g with enable := false })))) ∧
    (s.reqPitch q p = true →
      (let u := stores.foldl (fun u c => u.wrHost c.1 [c.2]) s
       if g.enable = true ∧ idx < N ∧ v.extractLsb' 16 16 = 0 then
         exec (.tailDoorbell q p r v stores) s = .next ((u.updRing p r (fun g => { g with dbtail := idx })).updPring p
           (fun g => { g with dbcount := g.dbcount + 1 }))
       else counts u (.tailDoorbell q p r v stores)) ∧
      (let d := (idx + N - g.cqhead) % N
       if idx < N ∧ v.extractLsb' 16 16 = 0 ∧ d ≤ g.written then
         exec (.headDoorbell q p r v) s = .next (s.updRing p r (fun g => { g with cqhead := idx, written := g.written - d }))
       else counts s (.headDoorbell q p r v))) ∧
    (s.turn = some (p, r) → g.fetch < N → 16 ≤ N →
      ((∀ j < 8, NSet.has s.mem.hostPois ((s.sqbase p r + 64 * ((g.fetch + j) % N)) / 64) = false) → Completes (exec (.descriptorFetch p r) s) (fun t => ∃ m ≤ 8,
        t.rings.items = s.rings.items ++ (List.range m).map (fun j => {
          p := p, r := r, seq := g.seqnext + BitVec.ofNat 32 j,
          fno := s.rings.nextFno + j, desc := s.rdHost (s.sqbase p r + 64 * ((g.fetch + j) % N)) 64 }) ∧
        t.ring p r = { g with fetch := (t.ring p r).fetch, seqnext := g.seqnext + BitVec.ofNat 32 m } ∧
        (t.ring p r).fetch = (g.fetch + m) % N ∧
        (m < 8 → (t.ring p r).fetch = g.dbtail ∨ t.fetchRoom p r = false ∨ t.journalRoom (leNat (t.rdHost (t.nextEntry p r) 1)) = false) ∧
        t.rings.rrPitch = (p + 1) % 16 ∧ t.mem = s.mem ∧ t.stalls = s.stalls)) ∧
      (NSet.has s.mem.hostPois (s.nextEntry p r / 64) = true → s.journalRoom (leNat (s.rdHost (s.nextEntry p r) 1)) = true →
        fails (exec (.descriptorFetch p r) s)) ∧
      fails (exec (.submissionFetchFailed p ⟨r, false⟩) s) ∧
      (g.fetch + 8 ≤ N → exec (.submissionFetchFailed p ⟨r, true⟩) s = exec (.descriptorFetch p r) s) ∧
      (N < g.fetch + 8 → 0 < g.dbtail → g.dbtail < g.fetch → s.pinflight p + 8 < 4096 → s.dinflight + 8 < 32768 →
        s.inflight p r + g.written + 8 < N → s.jreserved + s.svc.jr.length + 64 ≤ 131072 →
        (∀ j < 8, NSet.has s.mem.hostPois ((s.sqbase p r + 64 * ((g.fetch + j) % N)) / 64) = false) →
        Completes (exec (.submissionFetchFailed p ⟨r, true⟩) s) (fun t =>
          t.rings.items = s.rings.items ++ (List.range (N - g.fetch)).map (fun j => {
            p := p, r := r, seq := g.seqnext + BitVec.ofNat 32 j, fno := s.rings.nextFno + j, desc := s.rdHost (s.nextEntry p r + 64 * j) 64 }) ∧
          t.ring p r = { g with fetch := 0, seqnext := g.seqnext + BitVec.ofNat 32 (N - g.fetch), enable := false, hosterr := true } ∧
          t.rings.rrPitch = (p + 1) % 16 ∧ t.mem = s.mem ∧ ∀ m, (t.stall m).bare = (s.stall m).bare))) ∧
    (s.turn ≠ some (p, r) → ∀ second, exec (.descriptorFetch p r) s = .next s ∧ exec (.submissionFetchFailed p ⟨r, second⟩) s = .next s) ∧
    (if g.unsig = 0 then exec (.moderationTimer p r) s = .next s
     else Completes (exec (.moderationTimer p r) s) (Observed (s.updRing p r (fun g => { g with unsig := 0 })))) ∧
    (s.port.mld = true ∨ fn = 0 →
      (let u := { s with
         port := { s.port with bmeOff := NSet.del s.port.bmeOff fn }, rings := { s.rings with held := s.rings.held.filter (fun h => h.fn ≠ fn) } }
       s.cv.coll = [] → (∀ p, s.fnOf p = fn → (s.jis1 p).load = none) →
       ((∀ h ∈ s.rings.held, h.fn = fn → h.item = none) →
         Completes (exec (.busMasterEnableSet fn) s) (fun t => t.rings.held = s.rings.held.filter (fun h => h.fn ≠ fn) ∧ Observed
           ((s.rings.held.filter (fun h => h.fn = fn && h.vec.isNone)).foldl (fun u h => u.wrHost h.addr h.data) u) t)) ∧
       ∀ i rt, s.rings.held.filter (fun h => h.fn = fn) = [{ fn := fn, item := some (i, rt), addr := 0, data := [], vec := none }] →
         exec (.busMasterEnableSet fn) s = .next ((u.putRecord i rt).moderate i)) ∧
      exec (.busMasterEnableClear fn) s = .next { s with port := { s.port with bmeOff := NSet.add s.port.bmeOff fn } })

/-- A descriptor whose turn has come: a NOP that passes its checks ends at once; one that fails them ends with its status; a FENCE
that passes waits while anything in its scope fetched before it is in flight, and then ends with RESULT the failures in its
scope since the previous FENCE of its ring, whenever the failed descriptor was fetched. A descriptor whose turn has not come
stays. To end is: the item leaves the items in flight, its 64-byte record is written at CQTAIL with the ring's PHASE, CQTAIL
goes up modulo the ring's size, PHASE inverts when it returns to 0, one more record is written, the journal gets an entry; no
other byte of memory changes. While Bus Master Enable is 0 the item is held with its RUNTIME instead, and CQTAIL, PHASE and the
count of records written stay. It concludes that exec answers a next state with the command's own effect for: fenceDescriptor,
nopDescriptor. -/
def Obligations.RecordsEndItemsAtTheTail : Prop :=
  ∀ (s : State) (p r : Nat) (seq : W32), p < 16 → r < 64 →
    let g := s.ring p r
    (∀ i, s.item p r seq = some i → i.desc.length = 64 →
      let t := s.finish p r seq
      let a := s.cqbase p r + 64 * g.cqtail
      let tail := (g.cqtail + 1) % s.ringN p r
      i.p = p ∧ i.r = r ∧ t.rings.items = s.rings.items.filter (fun j => !j.is p r seq) ∧
      (s.bme (s.fnOf p) = true →
        (∀ j < 64, Mem.rd t.mem.host (a + j) = (s.recordBytes i (s.runtimeOf i) g.phase).getD j 0) ∧
        (∀ x, x < a ∨ a + 64 ≤ x → Mem.rd t.mem.host x = Mem.rd s.mem.host x) ∧
        (t.ring p r).cqtail = tail ∧ (t.ring p r).phase = (if tail = 0 then !g.phase else g.phase) ∧
        (t.ring p r).written = g.written + 1) ∧
      (s.bme (s.fnOf p) = false → t.mem = s.mem ∧ t.ring p r = g ∧ t.rings.held = s.rings.held ++
        [{ fn := s.fnOf p, item := some (i, s.runtimeOf i), addr := 0, data := [], vec := none }]) ∧
      t.mem.slice = s.mem.slice ∧ t.mem.far = s.mem.far ∧ t.mem.shelf = s.mem.shelf ∧ t.stalls = s.stalls ∧
      (t.ring p r).fetch = g.fetch ∧
      t.svc.jr.length = s.svc.jr.length + 1) ∧
    (∀ i, s.ready p r seq (fun t => t = 0 || decide (8 ≤ t)) = some i →
      (s.nopCheck i = .pass () → exec (.nopDescriptor p r seq) s = .next ((s.startItem i).finish p r seq)) ∧
      (∀ st res, s.nopCheck i = .stop st res → 0x10 ≤ st → exec (.nopDescriptor p r seq) s =
        .next ((s.updItem p r seq (fun i => { i with stat := st, result := res })).finish p r seq)) ∧
      (i.desc.getD 0 0 = 8 → i.desc.getD 1 0 = 1 → leNat ((i.desc.drop 2).take 2) < 8 → leNat ((i.desc.drop 4).take 4) = seq.toNat →
        (∀ k, 14 ≤ k → k < 64 → i.desc.getD k 0 = 0) → s.nopCheck i = .pass ())) ∧
    (∀ i, s.ready p r seq (· = 5) = some i → s.fenceCheck i = .pass () →
      let inScope := fun (p' r' : Nat) => decide (p' = i.p ∧ (i.desc.getD 16 0 = 1 ∨ r' = i.r))
      ((∃ j ∈ s.rings.items, inScope j.p j.r = true ∧ j.fno < i.fno) → exec (.fenceDescriptor p r seq) s = .next s) ∧
      ((∀ j ∈ s.rings.items, inScope j.p j.r = true → i.fno ≤ j.fno) →
        let n := (s.rings.fails.filter (fun f => inScope f.p f.r &&
          decide (Tab.get 0 s.rings.fenceAt (64 * p + r) ≤ f.no))).length
        let u := (s.startItem i).updItem p r seq (fun i => { i with result := n })
        exec (.fenceDescriptor p r seq) s = .next ({ u with
          rings := { u.rings with fenceAt := Tab.set s.rings.fenceAt (64 * p + r) s.rings.ends } }.finish p r seq))) ∧
    (s.item p r seq = none → exec (.nopDescriptor p r seq) s = .next s ∧ exec (.fenceDescriptor p r seq) s = .next s ∧
      exec (.kernelEnd p r seq 0) s = .next s ∧ exec (.itemTimeout p r seq) s = .next s)

/-- A descriptor whose turn has come and whose checks pass: KERNEL, all its stalls idle and up to date, starts on each of them the
threads of TMASK at CODE with g1 to g4 the arguments, everything else of the thread 0, tiles empty, and is otherwise left
waiting; PORTER_COPY copies granule by granule; NEAR_BATCH runs its operation; TALLY sends its operation to the tally unit. One
that fails its checks ends with that status and changes no memory but its record. A KERNEL left waiting tries again, its checks
made once. KERNEL_END, once every thread of TMASK on every stall has executed KEND or the kernel has failed, ends it, its stalls
idle; PORTER_COPY_END and NEAR_BATCH_END of a good item end it with DONEBYTES its length; a failed one leaves its destination
indeterminate. ITEM_TIMEOUT ends a started item with a TIMEOUT as 0x15, one that waits at another device once it has withdrawn
the wait. It concludes that exec answers a next state with the command's own effect for: kernel, kernelEnd, porterCopy,
porterCopyEnd, nearBatch, nearBatchEnd, itemTimeout, tallyDescriptor. -/
def Obligations.ItemsStartAndEnd : Prop :=
  ∀ (s : State) (p r ce : Nat) (seq : W32) (rd : Bool) (hf : Option Nat) (i : Item), p < 16 → r < 64 →
    let rejects := fun (st res : Nat) => Host.Outcome.next
      ((s.updItem p r seq (fun i => { i with stat := st, result := res })).finish p r seq)
    let began := s.updItem p r seq (fun i => { i with start := some s.time, checked := true })
    (s.ready p r seq (· = 1) = some i →
      (i.checked = false → ∀ st res, s.kernelCheck i = .stop st res → 0x10 ≤ st → exec (.kernel p r seq) s = rejects st res) ∧
      (∀ l, i.checked = false ∧ s.kernelCheck i = .pass l ∨ i.checked = true ∧ s.pairActive 0 = true ∧ i.stalls = l → l.Nodup → (∀ n ∈ l, n < 256) →
        (l.all s.stallReady = true → Completes (exec (.kernel p r seq) s) (fun t =>
          t.mem = s.mem ∧ t.tally = s.tally ∧ (∀ n, n ∉ l → t.stall n = s.stall n) ∧
          (∀ n ∈ l, (t.stall n).work = some (.item i.p i.r i.seq) ∧ (t.stall n).rows = [] ∧ (t.stall n).arr.loaded = false ∧
            ∀ k < 4, t.thread n k = if bitsOf (i.desc.getD 25 0).toNat k 1 = 1 then
              { st := .run, pc := s.codePc i.p (leNat ((i.desc.drop 16).take 8)) n, npc := s.codePc i.p (leNat ((i.desc.drop 16).take 8)) n,
                g := ([32, 40, 48, 56] : List Nat).zipIdx.map (fun a => (a.2 + 1, BitVec.ofNat 64 (leNat ((i.desc.drop a.1).take 8)))) }
              else {}))) ∧
        (l.all s.stallReady = false → exec (.kernel p r seq) s =
          .next (s.updItem p r seq (fun i => { i with checked := true, stalls := l })))) ∧
      (i.checked = true → s.pairActive 0 = false → exec (.kernel p r seq) s = .next s)) ∧
    (s.item p r seq = some i → i.type = 1 → i.start.isSome = true →
      let kended := fun n => ∀ k < 4, bitsOf (i.desc.getD 25 0).toNat k 1 = 1 → (s.thread n k).st = .off ∧ (s.thread n k).kended = true
      (i.stat ≠ 0 ∨ (i.stalls ≠ [] ∧ ∀ n ∈ i.stalls, kended n) →
        exec (.kernelEnd p r seq ce) s = .next
          ((((s.updItem p r seq (fun i => { i with ce := i.ce + ce })).haltWork (.item p r seq)).freeStalls i).finish p r seq)) ∧
      (i.stat = 0 → (∃ n ∈ i.stalls, ¬ kended n) → exec (.kernelEnd p r seq ce) s = .next s)) ∧
    (s.ready p r seq (· = 2) = some i → s.bme (s.fnOf p) = true →
      (∀ st res, s.copyCheck i rd = .stop st res → 0x10 ≤ st → exec (.porterCopy p r seq rd) s = rejects st res) ∧
      (∀ a b, s.copyCheck i rd = .pass (a, b) → exec (.porterCopy p r seq rd) s = .next
        ((began.updItem p r seq (fun i => { i with bufs := [a, b] })).itemCopy p r seq 1 a.kind (a.base + leNat ((i.desc.drop 24).take 8))
          b.kind (b.base + leNat ((i.desc.drop 32).take 8)) (leNat ((i.desc.drop 40).take 5)) none (i.desc.getD 20 0).toNat))) ∧
    (s.item p r seq = some i → i.type = 2 → i.start.isSome = true →
      (i.stat = 0 → bitsOf (leNat ((i.desc.drop 48).take 4)) 31 1 = 0 → exec (.porterCopyEnd p r seq ce none) s = .next
        ((s.updItem p r seq (fun j => { j with ce := j.ce + ce, done := leNat ((j.desc.drop 40).take 5), undo := [] })).finish p r seq)) ∧
      (i.stat ≠ 0 → exec (.porterCopyEnd p r seq ce none) s = .next
        (((s.updItem p r seq (fun i => { i with ce := i.ce + ce })).settleDest p r seq).finish p r seq))) ∧
    (s.ready p r seq (· = 3) = some i → s.bme (s.fnOf p) = true →
      (∀ st res, s.batchCheck i rd = .stop st res → 0x10 ≤ st → exec (.nearBatch p r seq rd hf) s = rejects st res) ∧
      (∀ l, s.batchCheck i rd = .pass l →
        let w := i.near
        let b := l.headD ⟨0, 0, 0, 0, false, false⟩
        let da := b.base + leNat ((i.desc.drop 58).take 6)
        let data := if l = [] then [] else s.spaceRead i.p b.kind da w.dataLen.1
        let u := ((s.spaceTouch i.p b.kind da w.dataLen.1 0 false).startItem i).updItem p r seq (fun i => { i with bufs := l })
        let n := u.nearRun i.p i.p w data
        (l ≠ [] → hf = none ∧ s.spaceFault i.p b.kind da w.dataLen.1 = none) →
        (∀ e, s.batchGone i l w (s.nearCheck i.p w data) = some e → exec (.nearBatch p r seq rd hf) s = rejects e 0) ∧
        (s.batchGone i l w (s.nearCheck i.p w data) = none → n.fail = none →
          let t := n.s.updItem p r seq (fun i => { i with undo := n.undo, lim := n.undo.length, result := n.count })
          exec (.nearBatch p r seq rd hf) s = .next (if w.op = 3 then t.batchSums i b n.sums else t)))) ∧
    (s.item p r seq = some i → i.type = 3 → i.start.isSome = true →
      let u := s.updItem p r seq (fun j => { j with ce := j.ce + ce, result := if j.stat = 0 ∧ j.near.op = 4 then j.result else 0 })
      (i.stat = 0 → exec (.nearBatchEnd p r seq ce) s = .next ((u.updItem p r seq (fun j => { j with done := j.dest.2, undo := [] })).finish p r seq)) ∧
      (i.stat ≠ 0 → exec (.nearBatchEnd p r seq ce) s = .next ((u.settleDest p r seq).finish p r seq))) ∧
    (s.ready p r seq (· = 4) = some i →
      (∀ st res, s.tallyCheck i = .stop st res → 0x10 ≤ st → exec (.tallyDescriptor p r seq) s = rejects st res) ∧
      (s.tallyCheck i = .pass () → exec (.tallyDescriptor p r seq) s = .next (began.tallySend
        { op := (i.desc.getD 20 0).toNat, id := leNat ((i.desc.drop 16).take 4), x := BitVec.ofNat 32 (leNat ((i.desc.drop 24).take 4)),
          cond := (i.desc.getD 21 0).toNat, owner := .desc p r seq }))) ∧
    (s.item p r seq = some i →
      (i.start.isSome = true ∧ i.timeout ≠ 0 → exec (.itemTimeout p r seq) s = .next (s.endItemSoft p r seq 0x15)) ∧
      (i.start = none ∨ i.timeout = 0 → exec (.itemTimeout p r seq) s = .next s))

/-- FILL, ADD_REDUCE, GATHER_SUM and COMPARE_COUNT of a slot of a pitch in window mode: while BUSY, or while the pitch is quiesced,
the write is only counted in the window error counter; out of window mode it is ignored. A command whose fields, alignment,
range or stalls fail a check ends with 0x20, 0x21 or 0x11, SEQ one higher and not BUSY, and changes no memory; one of length 0
ends as DONE. One that passes them runs, whatever its range: the slot is BUSY with the count, the failure and what undoes it,
memory as the operation leaves it. COMPARE_COUNT of a good range changes no memory; FILL of one granule of a good line writes it
with the pattern and no other byte. WINDOW_OP_END of a busy slot ends it as DONE, DONE_CORRECTED or, its destination
indeterminate, its failure; WABORT ends it as 0x30, its destination indeterminate; an idle slot stays. It concludes that exec
answers a next state with the command's own effect for: fillOp, addReduce, gatherSum, compareCount, windowOpEnd, wabort. -/
def Obligations.WindowOperationsRunAndEnd : Prop :=
  ∀ (s : State) (q : Req) (p n ce : Nat) (v : Word) (v32 : W32) (wide : Bool), inReq q = true → p < 16 → n < 64 → s.reqPitch q p = true →
    let d := s.slot p n
    let hi : W32 := if wide = true then v.extractLsb' 32 32 else d.cmdHi
    let word := fun (op : Nat) => (BitVec.ofNat 64 ((v.toNat % 2 ^ 32) / 16 * 16 + op + 2 ^ 32 * hi.toNat) : Word)
    let w := fun (op : Nat) => ({ cmd := word op, target := d.target, len := d.len, value := d.value, table := d.table } : Near)
    let ops : List (Nat × Instr) := [(1, .fillOp q p n v wide), (2, .addReduce q p n v wide), (3, .gatherSum q p n v wide),
      (4, .compareCount q p n v wide)]
    let latched := fun (op : Nat) => ({ d with
      cmdHi := hi, seq := d.seq + 1, busy := true, lcmd := word op, ltarget := d.target, llen := d.len, lvalue := d.value,
      ltable := d.table, pstat := 0, pcount := 0, pce := 0, undo := [], odata := d.data } : Slot)
    let ends := fun (op st : Nat) (c : Instr) => exec c s =
      .next (s.updSlot p n (fun _ => { latched op with busy := false, status := st, cecnt := 0 }))
    (∀ x ∈ ops,
      (s.windowMode p = false → exec x.2 s = .next s) ∧
      (s.windowMode p = true → d.busy = true ∨ (s.pctl p).quiesce = true →
        exec x.2 s = .next (s.updPring p (fun r => { r with winErr := r.winErr + 1 }))) ∧
      (s.windowMode p = true → d.busy = false → (s.pctl p).quiesce = false →
        let y := w x.1
        (y.fmtOk = false ∨ y.alignOk = false → ends x.1 0x20 x.2) ∧
        (y.fmtOk = true → y.alignOk = true →
          (y.length = 0 → ends x.1 0 x.2) ∧
          (0 < y.length → ∀ st, s.nearCheck p y d.bytes = some st → ends x.1 st x.2 ∧ (st = 0x21 ∨ st = 0x11)) ∧
          (0 < y.length → s.nearCheck p y d.bytes = none →
            let u := s.updSlot p n (fun _ => latched x.1)
            (x.1 = 4 → (∀ j < y.n, s.sliceBad (s.nearAddr p (y.target.toNat + j)) = false) →
              Completes (exec x.2 s) (fun t => t.mem = s.mem ∧ (t.slot p n).busy = true ∧ (t.slot p n).pstat = 0 ∧
                (t.slot p n).pcount.toNat % 2 ^ 40 = (u.nearCompare p p y).count % 2 ^ 40)) ∧
            (x.1 = 1 → y.n ≤ 64 → y.target.toNat % 64 + y.n ≤ 64 → s.dropsSlice (s.nearAddr p y.target.toNat) = false →
              s.sliceBad (s.nearAddr p y.target.toNat) = false → s.sliceBad (s.nearAddr p y.target.toNat / 64 * 64) = false →
              s.sliceBad (s.nearAddr p y.target.toNat / 64 * 64 + 32) = false → NSet.has s.mem.lost (s.nearAddr p y.target.toNat / unit256) = false →
              Completes (exec x.2 s) (fun t =>
                (∀ j < y.n, Mem.rd t.mem.slice (s.nearAddr p y.target.toNat + j) = d.value.extractLsb' (8 * (j % 8)) 8) ∧
                (∀ b, b < s.nearAddr p y.target.toNat ∨ s.nearAddr p y.target.toNat + y.n ≤ b →
                  Mem.rd t.mem.slice b = Mem.rd s.mem.slice b) ∧
                t.mem.far = s.mem.far ∧ t.mem.shelf = s.mem.shelf ∧ t.mem.host = s.mem.host ∧ t.stalls = s.stalls ∧
                (t.slot p n).busy = true ∧ (t.slot p n).seq = d.seq + 1)) ∧
            Completes (exec x.2 s) (fun t => ∃ r, r = u.nearRun p p y d.bytes ∧ t.mem = r.s.mem ∧
              t.slot p n = { latched x.1 with
                pstat := if r.fail.isSome then 0x10 else 0, pcount := BitVec.ofNat 64 r.count, undo := r.undo, odata := (t.slot p n).odata } ∧
              (x.1 ≠ 3 → (t.slot p n).odata = d.data)))))) ∧
    (let fails := fun (st tot : Nat) => Host.Outcome.next
       (({ s with freeCtr := s.freeCtr + 32 }.indeterminate d.undo).updSlot p n (fun _ => { d with
         busy := false, status := st, cecnt := tot, data := if d.lcmd.toNat % 16 = 3 then s.mixData d.data d.odata 32 else d.data,
         undo := [], odata := [] }))
     (d.busy = true →
      let tot := min (d.pce + ce) 0xFFFF
      (d.pstat = 0 → exec (.windowOpEnd p n ce) s = .next (s.updSlot p n (fun _ => { d with
        busy := false, status := if tot = 0 then 0 else 1, cecnt := tot, data := d.odata, undo := [], odata := [],
        result := if d.lcmd.toNat % 16 = 4 then d.pcount else d.result }))) ∧
      (d.pstat = 0x10 → exec (.windowOpEnd p n ce) s = fails 0x10 tot)) ∧
     (d.busy = false → exec (.windowOpEnd p n ce) s = .next s) ∧
     (s.windowMode p = true → v32.getLsbD 0 = true →
      (d.busy = true → exec (.wabort q p n v32) s = fails 0x30 (min d.pce 0xFFFF)) ∧
      (d.busy = true → d.undo = [] → d.lcmd.toNat % 16 ≠ 3 → Completes (exec (.wabort q p n v32) s) (fun t =>
        (t.slot p n).busy = false ∧ (t.slot p n).status = 0x30 ∧ (t.slot p n).data = d.data ∧ t.mem = s.mem ∧ t.stalls = s.stalls)) ∧
      (d.busy = false → exec (.wabort q p n v32) s = .next s))) ∧
    (v32.getLsbD 0 = false → exec (.wabort q p n v32) s = .next s)

/-- PTCOMMIT from a writer of the table: a value that is not PTGEN + 1, or any other failing check, changes only STATUS, CHECK and
WHO. A commit that passes makes the shadow copy active, adds 1 to PTGEN, clears the far units and tallies a pitch loses and no
others, empties the stalls that come to another pitch (tiles, slice, shelf, selog) and no others, and stalls it does not affect
take the new generation. STALL_APPLY_GENERATION brings an idle stall up to date; one that still serves another pitch is emptied.
After either a failed module that may now be displaced is. PTREVERT copies the active table to the shadow copy. QUIESCE is set
and cleared by the pitch's owner, once the floor plan is published, and changes nothing else. PITCH_RESET of a quiet device
clears the threads, tiles and shelves of the pitch's stalls, its tallies, slots, ring enables and QUIESCE, counts PRESETGEN,
keeps the table and the other pitches, and clears slices and far share only with SCRUB. FLR switches bus mastering of its
function off and, under MLD, returns the rings and the Jisan block of its pitch to reset. It concludes that exec answers a next
state with the command's own effect for: flr, ptCommit, ptRevert, stallApplyGeneration, quiesce, pitchReset. -/
def Obligations.PitchTableCommitsAndPitchesReset : Prop :=
  ∀ (s : State) (q : Req) (v : W32) (n p fn : Nat) (scrub on : Bool), inReq q = true → n < 256 → p < 16 → fn < 16 → s.setupOpen q →
    let o := s.pt.active
    let w := s.pt.shadow
    let fails := fun (a b c : Nat) => exec (.ptCommit q v) s = .next { s with pt := { s.pt with status := a, check := b, who := c } }
    (s.ptWriter q = true →
      (v ≠ s.pt.gen + 1 → fails 0x24 1 0) ∧
      (v = s.pt.gen + 1 → s.applying = true → fails 0x24 2 0) ∧
      (∀ a b c, s.commitCheck v = some (a, b, c) → fails a b c) ∧
      (s.commitCheck v = none → Completes (exec (.ptCommit q v) s) (fun t' => ∃ t : State, t' = t.autoDisplace ∧
        let moved := fun (m : Nat) => m < 256 ∧ o.affects w m = true ∧ ∃ i, w.owner m = some i ∧ (s.stall m).served ≠ i
        t.pt = { s.pt with active := w, prev := o, gen := s.pt.gen + 1, status := 0, check := 0, who := 0 } ∧
        t = { s with
          pt := t.pt, mem := t.mem, tally := t.tally, far := { s.far with cache := t.far.cache, q := t.far.q },
          port := { s.port with poison := t.port.poison }, jis := t.jis, stalls := t.stalls, setup := t.setup } ∧
        (∀ off, (∀ m, moved m → ¬ (stallBase m + 0x400 ≤ off / 4 * 4 ∧ off / 4 * 4 < stallBase m + 0x448)) → t.rw32 off = s.rw32 off) ∧
        t.mem.host = s.mem.host ∧
        (∀ b, moved (b / unit256) → Mem.rd t.mem.slice b = 0) ∧ (∀ b, ¬ moved (b / unit256) → Mem.rd t.mem.slice b = Mem.rd s.mem.slice b) ∧
        (∀ b, moved (b / 2097152) → Mem.rd t.mem.shelf b = 0) ∧ (∀ b, ¬ moved (b / 2097152) → Mem.rd t.mem.shelf b = Mem.rd s.mem.shelf b) ∧
        (∀ b, Mem.rd s.mem.far b ≠ Mem.rd t.mem.far b → ∃ i < 16, o.hasUnit i (b / unit256) ∧ ¬ w.hasUnit i (b / unit256)) ∧
        (∀ b, ∀ i < 16, o.hasUnit i (b / unit256) → ¬ w.hasUnit i (b / unit256) → Mem.rd t.mem.far b = 0) ∧
        (∀ id, (∀ i < 16, o.ownsTally i id = true → w.ownsTally i id = true) → t.tallyVal id = s.tallyVal id) ∧
        (∀ id, ∀ i < 16, o.ownsTally i id = true → w.ownsTally i id = false → t.tallyVal id = 0) ∧
        (∀ m < 256, o.affects w m = false → t.stall m = { s.stall m with gen := s.pt.gen + 1 }) ∧
        (∀ m < 256, o.affects w m = true → ¬ moved m → t.stall m = s.stall m) ∧
        (∀ m, moved m → (t.stall m).rows = [] ∧ (t.stall m).arr.loaded = false ∧ some (t.stall m).served = w.owner m ∧
          (t.stall m).gen = (s.stall m).gen ∧ (t.stall m).th = (s.stall m).th))) ∧
      exec (.ptRevert q v) s = .next { s with pt := { s.pt with shadow := o } }) ∧
    (s.ptWriter q = false → exec (.ptCommit q v) s = .next (s.accessError q 0 0x100004 4 true) ∧
      exec (.ptRevert q v) s = .next (s.accessError q 0 0x10000C 4 true)) ∧
    (reqOwns q p = true → s.published = true →
      exec (.quiesce q p on) s = .next { s with pt := { s.pt with ctl := Tab.set s.pt.ctl p { s.pctl p with quiesce := on } } }) ∧
    (reqOwns q p = false ∨ s.published = false → exec (.quiesce q p on) s = .next (s.accessError q 0 (0x104000 + 64 * p) 4 true)) ∧
    ((s.stall n).gen = s.pt.gen ∨ (s.stall n).idle = false → exec (.stallApplyGeneration n) s = .next s) ∧
    ((s.stall n).gen ≠ s.pt.gen → (s.stall n).idle = true → Completes (exec (.stallApplyGeneration n) s) (fun t' => ∃ t : State, t' = t.autoDisplace ∧
      (t.stall n).gen = s.pt.gen ∧ (∀ m, m ≠ n → t.stall m = s.stall m) ∧ t.pt = s.pt ∧ t.tally = s.tally ∧ t.mem.far = s.mem.far ∧
      t.mem.host = s.mem.host ∧ (∀ i, o.owner n = some i → (t.stall n).served = i) ∧
      (o.owner n = none ∨ o.owner n = some (s.stall n).served → t.mem = s.mem ∧ (t.stall n).rows = (s.stall n).rows) ∧
      (∀ i, o.owner n = some i → (s.stall n).served ≠ i →
        (t.stall n).rows = [] ∧ (t.stall n).arr.loaded = false ∧
        (∀ b, Mem.rd t.mem.slice b = if b / unit256 = n then 0 else Mem.rd s.mem.slice b) ∧
        ∀ b, Mem.rd t.mem.shelf b = if b / 2097152 = n then 0 else Mem.rd s.mem.shelf b))) ∧
    (s.pitchesQuiet → s.published = true → reqOwns q p = true → Completes (exec (.pitchReset q p scrub) s) (fun t =>
      let mine := fun (m : Nat) => m < 256 ∧ (s.pitchOf m = some p ∨ o.owner m = some p)
      t.pt.active = s.pt.active ∧ t.pt.shadow = s.pt.shadow ∧ t.pt.gen = s.pt.gen ∧ t.setup = s.setup ∧
      t.pctl p = { s.pctl p with quiesce := false, presetgen := (s.pctl p).presetgen + 1 } ∧ (∀ i, i ≠ p → t.pctl i = s.pctl i) ∧
      (∀ m, mine m → (t.stall m).rows = [] ∧ (t.stall m).work = none ∧ ∀ k < 4, t.thread m k = {}) ∧
      (∀ m, ¬ mine m → t.stall m = s.stall m) ∧
      (∀ id, t.tallyVal id = if o.ownsTally p id = true then 0 else s.tallyVal id) ∧
      (∀ j, j < 64 → t.slot p j = {} ∧ t.ring p j = { s.ring p j with enable := false }) ∧
      (∀ i j, i ≠ p → j < 64 → t.slot i j = s.slot i j ∧ t.ring i j = s.ring i j) ∧
      (∀ b, b / unit256 < 256 → Mem.rd t.mem.slice b = if scrub = true ∧ o.owner (b / unit256) = some p then 0 else Mem.rd s.mem.slice b) ∧
      (∀ b, o.hasUnit p (b / unit256) → Mem.rd t.mem.far b = if scrub = true then 0 else Mem.rd s.mem.far b) ∧
      (∀ b, ¬ o.hasUnit p (b / unit256) → Mem.rd t.mem.far b = Mem.rd s.mem.far b) ∧
      (∀ b, mine (b / 2097152) → Mem.rd t.mem.shelf b = 0) ∧
      (∀ b, ¬ mine (b / 2097152) → Mem.rd t.mem.shelf b = Mem.rd s.mem.shelf b) ∧ t.mem.host = s.mem.host)) ∧
    (s.pitchesQuiet → s.isFn fn = true → Completes (exec (.flr fn) s) (fun t =>
      t.bme fn = false ∧ (∀ h ∈ t.rings.held, h.fn ≠ fn) ∧ t.pt.active = s.pt.active ∧ t.pt.gen = s.pt.gen ∧
      t.mem.slice = s.mem.slice ∧ t.mem.far = s.mem.far ∧ t.mem.host = s.mem.host ∧
      (s.port.mld = true →
        (∀ j < 64, t.ring fn j = {}) ∧ t.jis1 fn = {} ∧
        (∀ i, i ≠ fn → i < 16 → (∀ j < 64, t.ring i j = s.ring i j) ∧ t.jis1 i = s.jis1 i ∧ t.pctl i = s.pctl i) ∧
        ∀ off, t.rw32 off = if 0x180000 + 0x8000 * fn ≤ off / 4 * 4 ∧ off / 4 * 4 < 0x188000 + 0x8000 * fn then rwReset off else s.rw32 off))) ∧
    (s.isFn fn = false → exec (.flr fn) s = .next s)

/-- LOAD of a package that passes its checks puts the slot LOADING on the first NSTALLS good stalls; without Jisan it is refused
with 0x23, of a slot not EMPTY with 0x24; while Bus Master Enable is 0 it waits; once its copies are made the slot is READY, or
EMPTY with 0x10. UNLOAD empties a READY or STALE slot no request names; it and a good LOAD make a checkpoint. MIGRATION_DONE
puts the spare in the place of the logical stall of the migration that began first. A JISAN_REQUEST that passes its checks joins
the queue. ADMISSION starts the one fetched first when running sequences, parked ones, blocks and QUIESCE allow: it gets the
blocks of its context, inputs and one token. STEP starts the kernel on every logical stall with the step area, its index,
NSTALLS and the step number; STEP_END keeps the sampled token, counts it and grows the KV. A step that fails leaves its cause,
stall, slot and LIMIT in JSTEPERR and counts it. RESUME_PARKED takes blocks again. JCANCEL ends the requests of its session with
0x30 and stop reason CANCEL. A policy tick acts only inside its limits. It concludes that exec answers a next state with the
command's own effect for: loadModel, loadCopyDone, unloadModel, jisanRequest, admission, jisanStep, stepEnd, resumeParked,
jcancel, steplimExpiry, policyTick, migrationDone. -/
def Obligations.JisanLoadsModelsAndServesRequests : Prop :=
  ∀ (s : State) (q : Req) (p k n h i : Nat) (r : Nat) (seq : W32) (v : Word) (v32 : W32) (rd bad : Bool) (ce : Nat) (hf : Option Nat), inReq q = true → p < 16 →
    k < 16 → n < 256 → h < 4 → r < 64 →
    let j := s.jis1 p
    let x := j.slotOf k
    let still := fun (c : Instr) => exec c s = .next s
    let last := fun (st k : Nat) (j : JPitch) => ({ j with lastStatus := st, lastSlot := k } : JPitch)
    let sl := fld v 8 4
    let y := j.slotOf sl
    let off := (s.rw64 (jisBase p + 0x10)).toNat
    -- LOAD, UNLOAD and migration
    (s.setupOpen q → reqOwns q p = true → s.pt.active.jisan p = true → fld v 0 3 = 1 →
      (s.jisanRuns = false → exec (.loadModel q p v) s = .next ((s.updJis p (last 0x23 sl)).raiseEvent p)) ∧
      (s.jisanRuns = true → bitsOf s.fw.disable 1 1 = 0 → y.st ≠ 0 →
        exec (.loadModel q p v) s = .next ((s.updJis p (last 0x24 sl)).raiseEvent p)) ∧
      (∀ u : Buf, s.jisanRuns = true → bitsOf s.fw.disable 1 1 = 0 → y.st = 0 → (∀ e ∈ j.slot, e.2.st ≠ 1) → j.load = none →
        (s.pctl p).resetting = false → s.bme (s.fnOf p) = true → s.readBufs p false [(fld v 16 16, false)] = .ok [u] →
        let head := s.spaceRead p u.kind (u.base + off) 64
        let b := s.spaceRead p u.kind (u.base + off) (pkgTotal head)
        let l := (s.goodStalls p).take (pkgStalls b)
        off + max 64 (pkgTotal head) ≤ u.len → (u.kind = 2 → s.dpaBacked p (u.base + off) (max (pkgTotal head) 64) = true) →
        s.spaceFault p u.kind (u.base + off) (max (pkgTotal head) 64) = none →
        leAt head 4 2 = 1 → leAt head 0 4 = 0x4E53414A → pkgFieldsOk b = true → leAt b 60 4 = (crc32 (b.drop 64)).toNat →
        s.pkgFits p b l = true → exec (.loadModel q p v) s =
          .next (s.updJis p (fun j => { j with slot := Tab.set j.slot sl (slotFrom b l (u.kind, u.base + off)) }))) ∧
      (s.jisanRuns = true → bitsOf s.fw.disable 1 1 = 0 → y.st = 0 → (∀ e ∈ j.slot, e.2.st ≠ 1) → j.load = none → (s.pctl p).resetting = false →
        s.bme (s.fnOf p) = false → exec (.loadModel q p v) s = .next (s.updJis p (fun j => { j with load := some (sl, fld v 16 16) })))) ∧
    (s.setupOpen q → reqOwns q p = true → s.pt.active.jisan p = true → fld v 0 3 = 2 →
      ((y.st = 2 ∨ y.st = 3) → (∀ a ∈ j.reqs, a.slot ≠ sl) → exec (.unloadModel q p v) s = .next ((s.updJis p (fun j => { j with
        slot := Tab.del j.slot sl, sess := j.sess.map (fun a => if a.slot = sl then { a with kv := 0, blocks := [] } else a),
        rel := j.rel.filter (fun a => a.1 ≠ sl), mig := j.mig.filter (fun a => a.1 ≠ sl), lastStatus := 0, lastSlot := sl })).commitCkpt 0)) ∧
      (((y.st ≠ 2 ∧ y.st ≠ 3) ∨ ∃ a ∈ j.reqs, a.slot = sl) → exec (.unloadModel q p v) s = .next (s.updJis p (last 0x24 sl)))) ∧
    (s.setupOpen q → reqOwns q p = true → s.pt.active.jisan p = false →
      exec (.loadModel q p v) s = .next (s.accessError q 0 (jisBase p + 8) 8 true) ∧
      exec (.jcancel q p v32) s = .next (s.accessError q 0 (jisBase p + 0x20) 4 true)) ∧
    (x.st ≠ 1 ∨ s.jisanRuns = false ∨ (x.src.1 = 1 ∧ s.bme (s.fnOf p) = false) → still (.loadCopyDone p k bad)) ∧
    (x.st = 1 → s.jisanRuns = true → (x.src.1 = 1 → s.bme (s.fnOf p) = true) →
      (let w := x.copies.foldl (fun (w : JWr) c => w.copy p x c) (⟨s.used, false⟩ : JWr)
       w.bad = false → exec (.loadCopyDone p k false) s = .next (((w.s.updJis p (fun j => { j with
        slot := Tab.set j.slot k { x with st := 2, step := 0, copies := [], src := (0, 0) }, lastStatus := 0, lastSlot := k })).raiseEvent p).commitCkpt 0)) ∧
      Completes (exec (.loadCopyDone p k true) s) (fun t =>
        (t.jis1 p).slotOf k = {} ∧ (t.jis1 p).lastStatus = 0x10 ∧ (t.jis1 p).lastSlot = k ∧ t.stalls = s.stalls)) ∧
    (j.mig = [] ∨ s.jisanRuns = false → still (.migrationDone p)) ∧
    (∀ m l, j.mig = (k, i, m) :: l → s.jisanRuns = true → Completes (exec (.migrationDone p) s) (fun t =>
      (t.jis1 p).mig = l ∧ (t.jis1 p).slotOf k = { x with stalls := x.stalls.set i m } ∧ t.stalls = s.stalls)) ∧
    -- requests
    (s.readyJis p r seq = none → still (.jisanRequest p r seq rd)) ∧
    (∀ it, s.readyJis p r seq = some it → s.bme (s.fnOf p) = false → still (.jisanRequest p r seq rd)) ∧
    (∀ it, s.readyJis p r seq = some it → s.bme (s.fnOf p) = true →
      (∀ st res, s.jisanCheck it rd = .stop st res → 0x10 ≤ st →
        exec (.jisanRequest p r seq rd) s = .next (s.reject it.p it.r it.seq st res)) ∧
      (∀ l b, s.jisanCheck it rd = .pass (l, b) →
        (let pb := l.getD 2 ⟨0, 0, 0, 0, false, false⟩
         it.f 22 2 = 0xFFFF ∨ it.checked = true ∨ s.spaceFault it.p pb.kind (pb.base + it.f 48 8) 96 = none) → Completes (exec (.jisanRequest p r seq rd) s) (fun t =>
        ∃ a, (t.jis1 it.p).reqs = (s.jis1 it.p).reqs ++ [a] ∧ a.r = it.r ∧ a.seq = it.seq ∧ a.slot = it.model ∧ a.session = it.session ∧
          a.maxnew = it.maxnew ∧ a.par = b ∧ a.st = 0 ∧ t.mem = s.mem ∧ t.stalls = s.stalls))) ∧
    ((∀ a ∈ j.reqs, a.st ≠ 0) ∨ s.batchMax p ≤ j.running.length ∨ j.parked ≠ [] ∨ s.jisanRuns = false ∨ (s.pctl p).quiesce = true →
      still (.admission ⟨p, hf⟩)) ∧
    (∀ a it j', least (fun a => a.fno) (j.reqs.filter (fun a => a.st = 0)) = some a → s.item p a.r a.seq = some it → s.jisanRuns = true →
      (j.slotOf a.slot).st = 2 → j.running.length < s.batchMax p → j.parked = [] → (s.pctl p).quiesce = false → hostFailIn it.inAt (4 * it.incount) hf = none →
      (a.session = 0 ∨ ∀ b ∈ j.running, b.session ≠ a.session) → (it.inAt.1 ≠ 1 ∨ s.bme (s.fnOf p) = true) → parContinue a.par = false →
      it.incount < (j.slotOf a.slot).ctxmax → j.sessSlot a.session = some j' →
      cdiv (it.incount + 1) 16 ≤ (s.freeBlks j' (j.slotOf a.slot)).length → s.spaceFault p it.inAt.1 it.inAt.2 (4 * it.incount) = none →
      Completes (exec (.admission ⟨p, hf⟩) s) (fun t => t.mem = s.mem ∧ t.stalls = s.stalls ∧ (∃ i', t.item p a.r a.seq = some i' ∧ i'.start = some s.time) ∧
        ∃ b ∈ (t.jis1 p).reqs, b.r = a.r ∧ b.seq = a.seq ∧ b.st = 1 ∧ b.cont = [] ∧ b.kv = 0 ∧
          b.inp = wordsAt (s.spaceRead p it.inAt.1 it.inAt.2 (4 * it.incount)) ∧ b.blocks.length = cdiv (it.incount + 1) 16 ∧
          (∀ o ∈ b.blocks, o ∈ s.freeBlks j' (j.slotOf a.slot)))) ∧
    -- steps
    (s.jisanRuns = false ∨ x.st ≠ 2 ∨ j.run.isSome = true ∨ (∃ y ∈ j.mig, y.1 = k) ∨ (∃ m ∈ x.stalls, s.stallReady m = false) →
      still (.jisanStep p k)) ∧
    (∀ a, s.jisanRuns = true → x.st = 2 → j.run = none → (∀ y ∈ j.mig, y.1 ≠ k) → x.stalls.all s.stallReady = true → x.stalls.Nodup →
      (∀ m ∈ x.stalls, m < 256) → j.reqs = [a] → a.st = 1 → a.slot = k → a.out ≠ [] → a.toks.length = a.kv + 1 →
      cdiv (a.kv + 1) 16 ≤ a.blocks.length → 64 + 32 + seqBytes 1 a.blocks.length ≤ x.logitoff - x.stepoff →
      Completes (exec (.jisanStep p k) s) (fun t =>
        (∃ e, (t.jis1 p).run = some { slot := k, start := s.time, parts := [⟨a.r, a.seq, 1, true⟩], bad := e }) ∧
        (t.jis1 p).slotOf k = { x with step := x.step + 1 } ∧ (t.jis1 p).cfg = s.rw32 (jisBase p) ∧
        t.mem.far = s.mem.far ∧ t.mem.host = s.mem.host ∧ t.mem.shelf = s.mem.shelf ∧ (∀ m, m ∉ x.stalls → t.stall m = s.stall m) ∧
        ∀ i m, x.stalls[i]? = some m → (t.stall m).work = some (.jisan p) ∧ (t.stall m).rows = [] ∧ ∀ c < 4,
          t.thread m c = if bitsOf x.tmask c 1 = 1 then
            { st := .run, pc := BitVec.ofNat 64 x.code, npc := BitVec.ofNat 64 x.code,
              g := [(1, BitVec.ofNat 64 x.stepoff), (2, BitVec.ofNat 64 i), (3, BitVec.ofNat 64 x.stalls.length), (4, x.step)] }
          else {})) ∧
    (j.run = none → still (.stepEnd p ce bad) ∧ still (.steplimExpiry p)) ∧
    (∀ g, j.run = some g →
      let z := j.slotOf g.slot
      (Tab.find s.jfail p = none → s.stepOver z = false ∨ s.tokensWait p g.parts = true → still (.stepEnd p ce bad)) ∧
      (s.time < g.start + s.stepLim p → still (.steplimExpiry p)) ∧
      (g.start + s.stepLim p ≤ s.time → Tab.find s.jfail p = none → s.stepOver z = true → still (.steplimExpiry p)) ∧
      (g.start + s.stepLim p ≤ s.time → Tab.find s.jfail p = none → s.stepOver z = false →
        exec (.steplimExpiry p) s = .next (s.stepFails p g 0 0 true 0x15)) ∧
      (∀ c m, Tab.find s.jfail p = some (c, m) →
        (g.parts = [] → exec (.stepEnd p ce bad) s = .next (s.stepFails p g c m false 0x10)) ∧
        (g.start + s.stepLim p ≤ s.time → exec (.steplimExpiry p) s = .next (s.stepFails p g c m false 0x10))) ∧
      (∀ c m lim st, s.svc.retire = [] → ((s.stepFails p g c m lim st).jis1 p).run = none) ∧
      (∀ c m lim st, s.svc.retire = [] → ((s.stepFails p g c m lim st).jis1 p).fails = j.fails + 1 ∧
        ((s.stepFails p g c m lim st).jis1 p).err = BitVec.ofNat 32 (c + 2 ^ 8 * m + 2 ^ 16 * g.slot + 2 ^ 20 * ofBool lim)) ∧
      (∀ a nn tok, Tab.find s.jfail p = none → s.stepOver z = true → s.svc.retire = [] → g.parts = [⟨r, seq, nn, true⟩] → g.bad = false →
        s.logitsBad z g.parts = false → j.req r seq = some a → a.st = 1 → a.outb.1 = 1 → s.bme (s.fnOf p) = true →
        pickToken (elemsOf 4 (Mem.rdBytes s.mem.slice (z.logitAt 0).1 (z.logitAt 0).2)) (leAt a.par 0 4) (leAt a.par 4 4) (leAt a.par 8 4)
          a.seed a.out.length = .tok tok →
        let a' := { a with kv := a.kv + nn, out := a.out ++ [BitVec.ofNat 32 tok] }
        a'.stops z tok = none → a'.out.length % a.every ≠ 0 → j.tokens ≠ BitVec.allOnes 48 →
        Completes (exec (.stepEnd p ce false) s) (fun t =>
          (t.jis1 p).run = none ∧ (t.jis1 p).req r seq = some a' ∧ (t.jis1 p).tokens = j.tokens + 1 ∧
          (∀ it, s.item p r seq = some it → t.item p r seq = some { it with ce := it.ce + ce, done := 4 * a'.out.length }) ∧
          t.mem.slice = s.mem.slice ∧ t.mem.far = s.mem.far ∧
          ∀ b, Mem.rd t.mem.host b = if a.outb.2 + 4 * a.out.length ≤ b ∧ b < a.outb.2 + 4 * a.out.length + 4
            then ((BitVec.ofNat 32 tok : W32) >>> (8 * (b - (a.outb.2 + 4 * a.out.length)))).setWidth 8 else Mem.rd s.mem.host b))) ∧
    (j.parked = [] ∨ s.jisanRuns = false ∨ j.run.isSome = true → still (.resumeParked ⟨p, hf⟩)) ∧
    (∀ a it, least (fun a => a.adm) j.parked = some a → s.item p a.r a.seq = some it → s.jisanRuns = true → j.run = none → a.blocks ≠ [] →
      a.blocks.length ≤ (s.freeBlks j (j.slotOf a.slot)).length → Completes (exec (.resumeParked ⟨p, hf⟩) s) (fun t =>
        t.stalls = s.stalls ∧ t.mem.far = s.mem.far ∧ t.mem.host = s.mem.host ∧
        (∃ b ∈ (t.jis1 p).reqs, b = { a with st := 1, blocks := b.blocks } ∧ b.blocks.length = a.blocks.length) ∧
        (t.jis1 p).rel = j.rel ++ a.blocks.map (fun b => (a.slot, true, b)))) ∧
    (s.setupOpen q → reqOwns q p = true → s.pt.active.jisan p = true →
      ((v32 = 0 ∨ ∀ a ∈ j.reqs, a.session ≠ v32) → still (.jcancel q p v32)) ∧
      (∀ a, v32 ≠ 0 → j.reqs.filter (fun a => a.session = v32) = [a] →
        exec (.jcancel q p v32) s = .next (s.endItemAs p a.r a.seq 0x30 3))) ∧
    -- policy
    (s.jisanRuns = false → still (.policyTick [(n, 20)] [(h, v32)] [(p, k)] [p])) ∧
    (s.jisanRuns = true →
      (∀ f, s.pt.active.owner n = none → 8 ≤ f → f ≤ 60 → exec (.policyTick [(n, f)] [] [] []) s =
        .next ((s.setRw32 (stallBase n + 0x300) (BitVec.ofNat 32 f)).reslew n)) ∧
      (∀ f, f < 8 ∨ 60 < f → still (.policyTick [(n, f)] [] [] [])) ∧
      ((∀ l < 8, multOf (v32.setWidth 16) l ≠ 3) → exec (.policyTick [] [(h, v32)] [] []) s = .next (s.updHall h (fun y => { y with
        cmd := v32.setWidth 16, lastCmd := s.time, cmdSeen := true, failsafe := false }))) ∧
      exec (.policyTick [] [] [(p, i)] []) s = .next (s.updJis p (fun j => { j with batch := min (max i 1) 256 })) ∧
      (let idle := least (fun y => y.used) (j.sess.filter (fun y => j.idle y && !y.far && y.blocks ≠ []))
       (∀ y, idle = some y → exec (.policyTick [] [] [] [p]) s = .next (s.parkSess p y)) ∧
       ∀ a, idle = none → j.youngest = some a → exec (.policyTick [] [] [] [p]) s = .next (s.parkReq p a)))

/-- OPEN opens a closed convoy with the sender's generation and epoch and is answered with OPEN_ACK; OPEN_ACK opens the one that
waits; where both ends open at once the higher generation stands (the model's choice, log entry 109). Every other frame not for
this device, or not of its convoy, only counts as dropped. ACK and PROBE acknowledge what was sent and give the convoy its time.
On an open convoy with nothing in flight from here, the frame whose PSN is expected takes its turn; one ahead is held, a
duplicate is acknowledged again. START that passes its checks opens a write, another is refused; DATA writes its bytes and no
others, the last ends the write; TALLY applies its operation and returns the old value; TALLY_RESULT and REFUSE end an operation
of ours; COLL is held for its instance, or marks the exchange of a neighbour; ABORT ends an incoming write with a landing
report. After any of them a convoy that waited for room is opened where there is room. It concludes that exec answers a next
state with the command's own effect for: openFrame, openAckFrame, startFrame, dataFrame, tallyFrame, tallyResultFrame, ackFrame,
refuseFrame, collFrame, caravanAbort, probeFrame. -/
def Obligations.FramesMoveTheirConvoy : Prop :=
  ∀ (s : State) (f : Frame) (epoch x : W32) (addr len : Nat) (data : List Byte) (id : BitVec 18) (hd step : Nat) (inst : W32) (b : Byte),
    inFrame f = true →
    let c := s.conv f.src f.port
    let drop : Host.Outcome State Fault Refusal := .next { s with cv := { s.cv with drops := s.cv.drops + 1 } }
    let with_ := fun (g : Convoy) => s.updConv f.src f.port (fun _ => g)
    (s.cvMine f = false → exec (.openFrame f epoch) s = drop ∧ exec (.openAckFrame f epoch) s = drop) ∧
    (c.st = 0 ∨ c.gen ≠ f.cgen → exec (.openAckFrame f epoch) s = drop) ∧
    (s.cvMine f = true → c.st = 2 → c.gen = f.cgen → c.epoch = epoch → exec (.openFrame f epoch) s = .next (s.cvHello f.src f.port 2)) ∧
    (s.cvMine f = true → c.st = 0 → c.tx = [] → s.openConvoys.length < 4096 → exec (.openFrame f epoch) s =
      .next ((with_ { c with st := 2, gen := f.cgen, epoch := epoch, sent := 0, use_ := s.time }).cvHello f.src f.port 2)) ∧
    (s.cvMine f = true → c.st = 1 → c.tx = [] → (c.epoch = 0 ∨ c.epoch = epoch) → exec (.openFrame f epoch) s =
      .next ((with_ { c with st := 2, gen := max c.gen f.cgen, epoch := epoch, sent := 0, use_ := s.time }).cvHello f.src f.port 2)) ∧
    (s.cvMine f = true → c.st = 1 → c.gen = f.cgen → c.tx = [] → exec (.openAckFrame f epoch) s =
      .next (with_ { c with st := 2, epoch := epoch, sent := 0, use_ := s.time })) ∧
    (s.cvMine f = false ∨ s.cvCurrent f = false →
      exec (.startFrame f addr len x) s = drop ∧ exec (.dataFrame f addr data) s = drop ∧ exec (.tallyFrame f id hd step x) s = drop ∧
      exec (.tallyResultFrame f b x) s = drop ∧ exec (.ackFrame f) s = drop ∧ exec (.refuseFrame f b) s = drop ∧
      exec (.collFrame f hd step inst data) s = drop ∧ exec (.caravanAbort f b) s = drop ∧ exec (.probeFrame f) s = drop) ∧
    (s.cvMine f = true → s.cvCurrent f = true →
      -- acknowledgements
      (∀ k, 1 ≤ k → k ≤ c.sent → c.sent ≤ c.tx.length → c.sent < 2 ^ 31 → c.ops = [] → f.ece = false →
        BitVec.ofNat 32 f.ack + 1 = (c.tx.head?.map (fun q => q.psn)).getD c.psn + BitVec.ofNat 32 k →
        ∀ i ∈ [Instr.ackFrame f, .probeFrame f], Completes (exec i s) (fun t' => ∃ t : State, t' = t.cvWake ∧
          (t.conv f.src f.port).tx = c.tx.drop k ∧ (t.conv f.src f.port).rto = 64 ∧ (t.conv f.src f.port).acks = c.acks + 1 ∧
          (t.conv f.src f.port).rate = c.rate ∧ t.mem = s.mem ∧ t.stalls = s.stalls)) ∧
      (c.tx = [] → c.sent = 0 → c.ops = [] → f.ece = true → c.cut = none → ∀ i ∈ [Instr.ackFrame f, .probeFrame f],
        exec i s = .next (with_ { c with
          ackTo := if (c.expect - BitVec.ofNat 32 f.psn).toNat < 2 ^ 31 then none else some (BitVec.ofNat 32 f.psn, BitVec.ofNat 32 f.ack),
          acks := c.acks + 1, echoes := c.echoes + 1, rate := max 100 (c.rate * (131072 - c.alpha) / 131072), cut := some s.time,
          ece := c.ece || f.ce, use_ := s.time }).cvWake) ∧
      -- packets in order
      (c.tx = [] → c.sent = 0 → f.ece = false → c.ahead = [] → c.due < 15 → BitVec.ofNat 32 f.psn = c.expect →
        let g : Convoy := { c with acks := c.acks + 1, ece := c.ece || f.ce, expect := c.expect + 1, due := c.due + 1, use_ := s.time, ackTo := none }
        let answers := fun (kind : Nat) (d : List Byte) (t : State) =>
          (t.conv f.src f.port).tx = [{ kind := kind, flags := 3, msg := f.msg, psn := c.psn, data := d }] ∧
          (t.conv f.src f.port).psn = c.psn + 1 ∧ (t.conv f.src f.port).expect = c.expect + 1
        (c.ops = [] →
        (len < 2 ^ 40 → s.cvWriteCheck f.tp f.key addr len x = none → exec (.startFrame f addr len x) s = .next (with_ { g with
          rx := c.rx ++ [{ watch := false, msg := f.msg, tp := f.tp, sp := f.sp, addr := addr, len := len, got := 0, sig := x }] }).cvWake) ∧
        (∀ e, len < 2 ^ 40 → s.cvWriteCheck f.tp f.key addr len x = some e → Completes (exec (.startFrame f addr len x) s) (fun t' => ∃ t : State, t' = t.cvWake ∧
          answers 8 (statusPayload e 0) t ∧ (t.conv f.src f.port).rx = c.rx ∧ t.mem = s.mem ∧ t.tally = s.tally ∧ t.stalls = s.stalls)) ∧
        ((∀ y ∈ c.rx, y.watch = true ∨ y.msg ≠ f.msg) → exec (.dataFrame f addr data) s = .next (with_ g).cvWake) ∧
        (∀ y m o, c.rx = [y] → y.watch = false → y.msg = f.msg → addr = y.addr + y.got → y.got + data.length ≤ y.len → data ≠ [] →
          addr % 64 + data.length ≤ 64 → o % 64 = addr % 64 → s.cvGone y.tp addr data.length = none → s.cvPlace y.tp addr = .slice m o →
          o + data.length ≤ unit256 →
          (∀ a, a / 64 = (unit256 * m + o) / 64 → s.sliceBad a = false ∧ s.dropsSlice a = false) → NSet.has s.mem.lost m = false → bit32 y.sig 31 = false →
          Completes (exec (.dataFrame f addr data) s) (fun t' => ∃ t : State, t' = t.cvWake ∧
            (∀ a, Mem.rd t.mem.slice a = if unit256 * m + o ≤ a ∧ a < unit256 * m + o + data.length
              then data.getD (a - (unit256 * m + o)) 0 else Mem.rd s.mem.slice a) ∧
            t.mem.far = s.mem.far ∧ t.mem.host = s.mem.host ∧ t.mem.shelf = s.mem.shelf ∧ t.tally = s.tally ∧ t.stalls = s.stalls ∧
            (t.conv f.src f.port).rx = (if y.got + data.length = y.len then [] else [{ y with got := y.got + data.length }]) ∧
            (t.conv f.src f.port).due = if y.got + data.length = y.len then 0 else c.due + 1)) ∧
        (∀ op, op < 3 → s.cvTallyCheck f.tp f.key id.toNat false = none → s.tallyLost none id.toNat = none →
          NSet.has s.tally.pois id.toNat = false → s.tally.watches = [] →
          let old := s.tallyVal id.toNat
          Completes (exec (.tallyFrame f id op 0 x) s) (fun t' => ∃ t : State, t' = t.cvWake ∧
            t.tallyVal id.toNat = (if op = 1 then x else old + x) ∧ (∀ i, i ≠ id.toNat → t.tallyVal i = s.tallyVal i) ∧ t.mem = s.mem ∧
            t.stalls = s.stalls ∧ (if op = 2 then (t.conv f.src f.port).tx = [] else answers 6 (statusPayload 0 old) t))) ∧
        (∀ e cmp, s.cvTallyCheck f.tp f.key id.toNat (!NSet.has s.tally.pois id.toNat && !tallyCond (cmp % 8) (s.tallyVal id.toNat) x) = some e →
          Completes (exec (.tallyFrame f id 3 cmp x) s) (fun t' => ∃ t : State, t' = t.cvWake ∧
          answers 8 (statusPayload e 0) t ∧ t.tally = s.tally ∧ t.mem = s.mem)) ∧
        exec (.tallyResultFrame f b x) s = .next (with_ g).cvWake ∧ exec (.refuseFrame f b) s = .next (with_ g).cvWake ∧
        (s.cv.coll = [] → s.cv.early = [] → (Tab.get (0 : W32) s.cv.inst (64 * f.tp + hd % 64)).toNat < inst.toNat →
          exec (.collFrame f hd step inst data) s = .next ({ with_ g with cv := { (with_ g).cv with early := [
            { src := f.src, p := f.tp, h := hd % 64, step := step % 2 ^ 16, inst := inst, msg := f.msg, data := data }] } } : State).cvWake) ∧
        (∀ e : Coll, s.cv.coll = [e] → s.collLive e = true → s.cv.early = [] → e.p = f.tp → e.h = hd % 64 → e.inst = inst → e.st = 1 → e.next = f.src →
          e.prev ≠ f.src → e.okN = false → e.okP = false → data = e.hello →
          exec (.collFrame f hd 0 inst data) s = .next ({ with_ g with cv := { (with_ g).cv with
            coll := [{ e with okN := true, rn := some f.msg }] } } : State).cvWake) ∧
        (∀ y, c.rx = [y] → y.msg = f.msg → y.watch = false → Completes (exec (.caravanAbort f b) s) (fun t' => ∃ t : State, t' = t.cvWake ∧
          (t.conv f.src f.port).rx = [] ∧ t.mem = s.mem ∧ t.tally = s.tally ∧ t.stalls = s.stalls ∧
          let l := (Tab.get {} s.cv.land y.tp : LandSt)
          let l' := (Tab.get {} t.cv.land y.tp : LandSt)
          l'.next = (l.next + 1) % 16 ∧ Tab.find l'.rep l.next =
            some { time := s.time, src := f.src, sp := y.sp, status := b.toNat, addr := y.addr, len := y.len })) ∧
        (c.rx = [] → s.cv.coll = [] → s.cv.early = [] → exec (.caravanAbort f b) s = .next (with_ g).cvWake)) ∧
        (∀ o n k, c.ops = [o] → o.msg = f.msg → o.dead = false → o.owner = .thread n k → o.op = 1 ∨ o.op = 2 ∨ o.op = 4 →
          (s.thread n k).st = .tally →
          let u := with_ { g with ops := [] }
          exec (.tallyResultFrame f 0 x) s = .next (u.setThread n k { s.thread n k with resp := some (.val x) }).cvWake ∧
          exec (.refuseFrame f b) s = .next (u.setThread n k { s.thread n k with resp := some (.fail cUNMAPPED o.ra) }).cvWake)) ∧
      -- packets out of order
      (c.tx = [] → c.sent = 0 → f.ece = false → c.ahead = [] →
        let g : Convoy := { c with acks := c.acks + 1, ece := c.ece || f.ce }
        let d := (BitVec.ofNat 32 f.psn - c.expect).toNat
        (0 < d → d ≤ 256 → exec (.dataFrame f addr data) s =
          .next (with_ { g with
            ackTo := some (BitVec.ofNat 32 (f.psn + 1), BitVec.ofNat 32 f.ack), ahead := [{ f := f, kind := 4, addr := addr, data := data }] })) ∧
        (2 ^ 31 ≤ d → exec (.dataFrame f addr data) s = .next ((with_ g).cvAck f.src f.port))))

/-- REMOTE_WRITE, REMOTE_TALLY and COLLECTIVE whose turn has come end with the status of the first check that fails, changing no
memory but their record. One that passes is put, in PSN order, behind what its convoy holds: START and DATA, or one TALLY; to
the device itself a write copies its bytes and no others. A COLLECTIVE takes the next instance number of its handle and waits
while an earlier one runs; else it reads its input and sends its parameters to NEXT. ACK_TIMER acknowledges what is due,
RTO_EXPIRY sends the oldest packet or the OPEN again and backs off, PROBE_TIMER probes, LOSTTIME_EXPIRY and a port that goes
down close convoys, RATE_UPDATE takes alpha and R. A trained port is up. A solicitation for the port's address is answered, an
echo request too. PEERIDX loads a peer, PEERCTL stores it, a handle write stores the handle and clears its count. It concludes
that exec answers a next state with the command's own effect for: remoteWrite, remoteTally, collective, ackTimer, rtoExpiry,
probeTimer, losttimeExpiry, rateUpdate, ethernetPortDown, neighborDiscovery, icmpv6EchoRequest, peerctlWrite, peeridxWrite,
handleWrite, ethernetLinkUp. -/
def Obligations.RemoteOperationsLeaveAndTimersRun : Prop :=
  ∀ (s : State) (p r port peer h : Nat) (seq : W32) (rd : Bool) (q : Req) (v : W32) (v64 : Word) (tgt src : BitVec 128) (mac : BitVec 48)
      (ident num : BitVec 16) (data : List Byte) (hf : Option Nat), p < 16 → r < 64 → h < 64 → port < 8 → peer < 65536 → inReq q = true →
    let c := s.conv peer port
    let still := fun (i : Instr) => exec i s = .next s
    let rejects := fun (i : Instr) (it : Item) (st res : Nat) => exec i s = .next (s.reject it.p it.r it.seq st res)
    let upd := fun (f : Convoy → Convoy) (u : State) => u.updConv peer port f
    let marked := fun (m : Nat) (l : List CvPkt) => l.zipIdx.map (fun e => { e.1 with
      msg := m, flags := ofBool (e.2 = 0) + 2 * ofBool (e.2 + 1 = l.length) })
    let submitted := fun (d : Nat) (l : List CvPkt) (op : CvOp) (t : State) => ∃ k ∈ s.livePorts d,
      let g := s.conv d k
      (t.conv d k).tx = g.tx ++ psnFrom g.psn (marked g.msg l) ∧ (t.conv d k).psn = g.psn + BitVec.ofNat 32 l.length ∧
      (t.conv d k).msg = (g.msg + 1) % 65536 ∧
      (t.conv d k).ops = g.ops ++ [{ op with msg := g.msg, first := g.psn, last := g.psn + BitVec.ofNat 32 (l.length - 1) }] ∧
      t.mem = s.mem ∧ t.tally = s.tally ∧ t.stalls = s.stalls
    let fresh := fun (d : Nat) => ∀ k < 8, ∀ x ∈ (s.conv d k).ops, x.owner ≠ .desc p r seq
    -- descriptors
    (s.readyCop p r seq (fun c => c ≠ 1 && c ≠ 2) = none → still (.remoteWrite p r seq ⟨rd, hf⟩)) ∧
    (s.readyCop p r seq (fun c => c = 1) = none → still (.remoteTally p r seq)) ∧
    (s.readyCop p r seq (fun c => c = 2) = none → still (.collective p r seq ⟨rd, hf⟩)) ∧
    (∀ it, s.readyCop p r seq (fun c => c ≠ 1 && c ≠ 2) = some it → s.bme (s.fnOf p) = true →
      (∀ st res, s.remoteWriteCheck it rd = .stop st res → 0x10 ≤ st → rejects (.remoteWrite p r seq ⟨rd, hf⟩) it st res) ∧
      (∀ b, s.remoteWriteCheck it rd = .pass b →
        let a := b.base + it.f 24 8
        let n := it.f 40 5
        s.spaceFault it.p b.kind a n = none → hostFailIn (b.kind, a) n hf = none →
        (it.dev ≠ s.cvDev → s.livePorts it.dev ≠ [] → fresh it.dev → Completes (exec (.remoteWrite p r seq ⟨rd, hf⟩) s) (submitted it.dev
          (s.writePkts it (s.spaceRead it.p b.kind a n))
          { op := 0, owner := .desc it.p it.r it.seq, sp := it.p, msg := 0, first := 0, last := 0, len := n, ra := 0 })) ∧
        (it.dev = s.cvDev →
          (∀ e, s.cvWriteCheck (s.cvRpitch it.p) (s.cvKey it.p) (it.f 32 8) n it.operand = some e →
            rejects (.remoteWrite p r seq ⟨rd, hf⟩) it e 0) ∧
          (∀ m o, s.cvWriteCheck (s.cvRpitch it.p) (s.cvKey it.p) (it.f 32 8) n it.operand = none → it.stat = 0 → b.kind = 1 →
            it.f 32 8 % 64 + n ≤ 64 → 0 < n → s.cvPlace (s.cvRpitch it.p) (it.f 32 8) = .slice m o → o % 64 = it.f 32 8 % 64 →
            o + n ≤ unit256 → (∀ x, x / 64 = (unit256 * m + o) / 64 → s.sliceBad x = false ∧ s.dropsSlice x = false) →
            NSet.has s.mem.lost m = false → bit32 it.operand 31 = false → Completes (exec (.remoteWrite p r seq ⟨rd, hf⟩) s) (fun t =>
              (∀ x, Mem.rd t.mem.slice x = if unit256 * m + o ≤ x ∧ x < unit256 * m + o + n
                then Mem.rd s.mem.host (a + (x - (unit256 * m + o))) else Mem.rd s.mem.slice x) ∧
              t.mem.far = s.mem.far ∧ t.mem.shelf = s.mem.shelf ∧ (∀ id, t.tallyVal id = s.tallyVal id) ∧ t.stalls = s.stalls ∧ t.item p r seq = none))))) ∧
    (∀ it, s.readyCop p r seq (fun c => c = 1) = some it →
      (∀ st res, s.remoteTallyCheck it = .stop st res → 0x10 ≤ st → rejects (.remoteTally p r seq) it st res) ∧
      (s.remoteTallyCheck it = .pass () →
        (it.dev ≠ s.cvDev → s.livePorts it.dev ≠ [] → fresh it.dev → Completes (exec (.remoteTally p r seq) s) (submitted it.dev
          [tallyPkt (s.cvRpitch p) p (s.cvKey p) (it.f 32 8) (it.f 17 1) (it.f 52 4) it.operand]
          { op := 1 + it.f 17 1, owner := .desc p r seq, sp := p, msg := 0, first := 0, last := 0, len := 0, ra := 0 })) ∧
        (it.dev = s.cvDev → s.cvTallyCheck (s.cvRpitch p) (s.cvKey p) (it.f 32 8) false = none →
          Completes (exec (.remoteTally p r seq) s) (fun t => t.mem = s.mem ∧ t.stalls = s.stalls ∧
            t.tally = (s.tallySend { op := it.f 17 1, id := it.f 32 8, x := it.operand, cond := it.f 52 4, owner := .desc p r seq }).tally)))) ∧
    (∀ it, s.readyCop p r seq (fun c => c = 2) = some it → s.bme (s.fnOf p) = true →
      (∀ st res, s.collectiveCheck it rd = .stop st res → 0x10 ≤ st → rejects (.collective p r seq ⟨rd, hf⟩) it st res) ∧
      (∀ x, s.collectiveCheck it rd = .pass x → s.cv.early = [] → (∃ e ∈ s.cv.coll, e.p = it.p ∧ e.h = it.f 56 4 ∧ e.st ≠ 0) →
        let k := Tab.get (0 : W32) s.cv.inst (64 * it.p + it.f 56 4) + 1
        Completes (exec (.collective p r seq ⟨rd, hf⟩) s) (fun t =>
          Tab.get (0 : W32) t.cv.inst (64 * it.p + it.f 56 4) = k ∧ t.mem = s.mem ∧ t.stalls = s.stalls ∧ t.cv.conv = s.cv.conv ∧
          ∃ e, t.cv.coll = s.cv.coll ++ [e] ∧ e.p = it.p ∧ e.r = it.r ∧ e.seq = it.seq ∧ e.h = it.f 56 4 ∧ e.inst = k ∧ e.st = 0 ∧
            e.len = it.f 40 5 ∧ e.op = (s.handle it.p (it.f 56 4)).op ∧ e.m = (s.handle it.p (it.f 56 4)).m)) ∧
      (∀ x, s.collectiveCheck it rd = .pass x → s.cv.early = [] → s.cv.coll = [] →
        let a := x.1.base + it.f 24 8
        let k := Tab.get (0 : W32) s.cv.inst (64 * it.p + it.f 56 4) + 1
        s.spaceFault it.p x.1.kind a (it.f 40 5) = none → hostFailIn (x.1.kind, a) (it.f 40 5) hf = none →
        Completes (exec (.collective p r seq ⟨rd, hf⟩) s) (fun t => Tab.get (0 : W32) t.cv.inst (64 * it.p + it.f 56 4) = k ∧ t.mem = s.mem ∧
          t.stalls = s.stalls ∧ ∃ e, t.cv.coll = [e] ∧ e.p = it.p ∧ e.r = it.r ∧ e.seq = it.seq ∧ e.h = it.f 56 4 ∧ e.inst = k ∧ e.st = 1 ∧
            e.len = it.f 40 5 ∧ e.next = (s.handle it.p (it.f 56 4)).next ∧ e.inp = s.spaceRead it.p x.1.kind a (it.f 40 5) ∧
            e.pn ∈ s.livePorts e.next ∧ e.mn = (s.conv e.next e.pn).msg ∧
            (t.conv e.next e.pn).tx = (s.conv e.next e.pn).tx ++ [{
              kind := 9, flags := 3, tp := s.cvRpitch it.p, sp := it.p, msg := e.mn,
              psn := (s.conv e.next e.pn).psn, key := s.cvKey it.p, addr := it.f 56 4 + 2 ^ 32 * k.toNat, data := e.hello }]))) ∧
    -- timers
    (c.st = 2 → c.due ≠ 0 → exec (.ackTimer peer port) s =
      .next (upd (fun c => { c with due := 0, ece := false }) (s.cvBare peer port 7 (if c.ece = true then 4 else 0)))) ∧
    (c.st ≠ 2 ∨ c.due = 0 → still (.ackTimer peer port)) ∧
    (let back := fun (g : Convoy) => { g with rto := min (2 * g.rto) (s.lostTime * 250), rate := max 100 (g.rate / 2) }
     (c.st = 1 → exec (.rtoExpiry peer port) s = .next (upd back (s.cvHello peer port 1))) ∧
     (∀ x l, c.st = 2 → c.tx = x :: l → c.sent ≠ 0 →
       exec (.rtoExpiry peer port) s = .next (upd back (s.cvEmit peer port { x with flags := x.flags + 8 })))) ∧
    (c.st = 0 → c.tx = [] → still (.rtoExpiry peer port)) ∧
    (c.st = 2 → s.cvQuiet peer port = false → exec (.probeTimer peer port) s = .next (s.cvBare peer port 11 0)) ∧
    (c.st ≠ 2 ∨ s.cvQuiet peer port = true → still (.probeTimer peer port)) ∧
    (c.st = 0 → still (.rateUpdate peer port) ∧ (c.ops = [] → still (.losttimeExpiry peer port))) ∧
    (c.st ≠ 0 → c.ops = [] → c.rx = [] → s.cv.coll = [] → s.cv.early = [] →
      exec (.losttimeExpiry peer port) s = .next (upd (fun c => { gen := c.gen, epoch := c.epoch }) s).cvWake) ∧
    (c.st ≠ 0 → Completes (exec (.rateUpdate peer port) s) (fun t =>
      let n := if c.echoes = 0 then min (c.rises + 1) 6 else 0
      t = upd (fun c => { c with
        alpha := (15 * c.alpha + c.echoes * 65536 / c.acks) / 16, acks := 0, echoes := 0, rises := n,
        rate := if n = 0 then c.rate else if n ≤ 5 then min 400000 (c.rate + 1000) else min 400000 (c.rate + 10000) }) s)) ∧
    -- ports, neighbours, echo
    (Tab.get 0 s.cv.port port ≠ 2 → still (.ethernetPortDown port) ∧ still (.neighborDiscovery port true tgt src mac) ∧
      still (.icmpv6EchoRequest port tgt src ident num data)) ∧
    (Tab.get 0 s.cv.port port = 2 → s.cv.conv = [] → exec (.ethernetPortDown port) s = .next (s.portSet port 0)) ∧
    (s.portOn port = true → s.boot.phase ≠ 0 → exec (.ethernetLinkUp port) s = .next (s.portSet port 2)) ∧
    (s.portOn port = false ∨ s.boot.phase = 0 → still (.ethernetLinkUp port)) ∧
    (s.cvValid = true → Tab.get 0 s.cv.port port = 2 →
      exec (.neighborDiscovery port false tgt src mac) s = .next (s.learn port tgt mac) ∧
      (tgt.toNat = s.ownAddr + port → src ≠ 0 → exec (.neighborDiscovery port true tgt src mac) s = .next ((s.learn port src mac).icmpSend
        port src.toNat 136 (toBE 4 0x60000000 ++ toBE 16 tgt.toNat ++ toLE 1 2 ++ toLE 1 1 ++ toBE 6 (Config.mac port).toNat))) ∧
      (tgt.toNat = s.ownAddr + port → exec (.icmpv6EchoRequest port tgt src ident num data) s = .next (s.icmpSend port src.toNat 129
        (toBE 2 ident.toNat ++ toBE 2 num.toNat ++ data)))) ∧
    -- registers
    (s.setupOpen q → (∀ i, q ≠ .ld i) →
      ((s.reqSt q).page = false → still (.peerctlWrite q v) ∧ still (.peeridxWrite q v)) ∧
      ((s.reqSt q).page = true → Completes (exec (.peeridxWrite q v) s) (fun t =>
        let x := s.peer (fld32 v 0 16)
        t.rw32 0xA040 = v &&& 0xFFFF ∧ t.peerAddr = x.own ∧ t.rw32 0xA060 = BitVec.ofNat 32 (x.ports + 256 * ofBool x.valid) ∧
        t = { s with setup := t.setup })) ∧
      ((s.reqSt q).page = true → s.cv.conv = [] → Completes (exec (.peerctlWrite q v) s) (fun t =>
        let d := fld32 (s.rw32 0xA040) 0 16
        t.peer d = { own := s.peerAddr, ports := fld32 v 0 8, valid := bit32 v 8 } ∧ (∀ e, e ≠ d → t.peer e = s.peer e) ∧
        t = { s with setup := t.setup, cv := { s.cv with peer := t.cv.peer } }))) ∧
    (∀ i, q = .ld i → s.setupOpen q → exec (.peerctlWrite q v) s = .next (s.accessError q 0 0xA060 4 true)) ∧
    (s.setupOpen q → reqOwns q p = true →
      ((∀ e ∈ s.cv.coll, e.p ≠ p ∨ e.h ≠ h) → Completes (exec (.handleWrite q p h 8 8 v64) s) (fun t =>
        t.rw32 (handleBase p h + 8) = v64.setWidth 32 ∧ t.rw32 (handleBase p h + 12) = (v64 >>> 32).setWidth 32 &&& 0x0001FF07 ∧
        Tab.find t.cv.inst (64 * p + h) = none ∧ t = { s with setup := t.setup, cv := { s.cv with inst := t.cv.inst } })) ∧
      ((∃ e ∈ s.cv.coll, e.p = p ∧ e.h = h) →
        exec (.handleWrite q p h 8 8 v64) s = .next (s.accessError q 0 (handleBase p h + 8) 8 true)))

/-- FLIT_TRANSFER moves the one waiting flit of a router whose route takes that output, to the neighbour when its queue has a
credit, from row 0 to the link when it has room, to the stall here, which answers the last flit of a request; else nothing
moves. ARCADE_BEAT with good parity and the expected sequence number moves the flit on, in narrow mode with its second beat, and
the number goes up by 1 modulo 256; a bad one stops the direction until REPLAY, which counts. LANE_TEST steers a bad lane onto a
free spare, otherwise the group is lost and the link narrows or retires. REMAP_DRAIN_DONE remaps columns once nothing of theirs
is under way. RETRAIN is for service processors on a narrow or retired link; RETRAIN_DONE gives its width. CAPABILITY_RECORD
takes the highest common version and the common features, or cuts the hall off. An ISLANDCLK write needs a service processor and
FSTEP 8 to 60; FLL_SLEW_DONE puts the step in effect. A sync beat leaves the timebase within E. It concludes that exec answers a
next state with the command's own effect for: islandclkWrite, fllSlewDone, flitTransfer, arcadeBeat, replay, laneTest,
remapDrainDone, retrain, retrainDone, capabilityRecord, timebaseSyncBeat. -/
def Obligations.AislesArcadesAndClocksMove : Prop :=
  ∀ (s : State) (q : Req) (n h r l d g : Nat) (v : W32) (out : Dir) (bad : List Nat) (sq : Byte) (strobe ok : Bool) (dn up : List Nat) (gr hr : CapRec),
    inReq q = true → n < 256 → h < 4 → r < 64 → l < 16 → d < 2 → g < 16 →
    let still := fun (c : Instr) => exec c s = .next s
    let x := s.link l
    let y := x.side d
    let off := stallBase n + 0x300
    -- clocks
    (s.blockOpen q n →
      (reqIsSp q = true → 8 ≤ fld32 v 0 6 → fld32 v 0 6 ≤ 60 → exec (.islandclkWrite q n v) s =
        .next (((s.awake n).setRw32 off (BitVec.ofNat 32 (fld32 v 0 6))).reslew n)) ∧
      (reqIsSp q = false ∨ fld32 v 0 6 < 8 ∨ 60 < fld32 v 0 6 → exec (.islandclkWrite q n v) s = .next (s.accessError q 0 off 4 true))) ∧
    ((s.stall n).clk.slewing = false → still (.fllSlewDone n)) ∧
    ((s.stall n).clk.slewing = true → Completes (exec (.fllSlewDone n) s) (fun t =>
      Observed (s.updStall n (fun z => { z with clk := { z.clk with
        cur := z.clk.target, slewing := false, base := s.cycle n, at_ := s.time } })) t)) ∧
    ((s.hall h).up = false → still (.timebaseSyncBeat h)) ∧
    ((s.hall h).up = true → Completes (exec (.timebaseSyncBeat h) s) (fun t =>
      let e : Int := if bitsOf (s.hall h).afeat 2 1 = 1 then 2 else 8
      (t.hall h).skew ≥ -e ∧ (t.hall h).skew ≤ e ∧
      t = { s.updHall h (fun z => { z with skew := (t.hall h).skew }) with freeCtr := s.freeCtr + 1 })) ∧
    -- routers
    (s.segsOn h = false → still (.flitTransfer h r out)) ∧
    (∀ c i f rest, s.segsOn h = true → i < 5 → s.inq (inqKey h r i c) = f :: rest → f.rsp = c →
      (∀ j < 5, ∀ c', ¬ (j = i ∧ c' = c) → s.inq (inqKey h r j c') = []) → Tab.get [] s.net.wait (2 * (64 * h + r) + ofBool c) = [] →
      let k := inqKey h r i c
      let moves := fun (P : State → Prop) => Completes (exec (.flitTransfer h r out) s) (fun t => t = { s with net := t.net } ∧ t.inq k = rest ∧ P t)
      let kept := fun (t : State) (l : List Nat) => ∀ a, a ∉ l → a ≠ k → t.inq a = s.inq a
      (s.routeOf h r f ≠ out → still (.flitTransfer h r out)) ∧
      (s.routeOf h r f = out →
        (out = .here → (f.last = false ∨ c = true) → moves (fun t => kept t [] ∧ t.net.link = s.net.link ∧
          ∀ a, Tab.get 0 t.net.open_ a = if f.last = true ∧ f.kind < 2 ∧ a = openKey f.dst f.kind f.src then
            Tab.get 0 s.net.open_ a - 1 else Tab.get 0 s.net.open_ a)) ∧
        (out = .here → f.last = true → c = false →
          let k' := inqKey h r 0 true
          let w := 2 * (64 * h + r) + 1
          let g : Flit := { src := f.dst, dst := f.src, rsp := true, kind := f.kind, col := r % 8 }
          moves (fun t => kept t [k'] ∧ t.net.link = s.net.link ∧ t.inq k' ++ Tab.get [] t.net.wait w =
            Tab.get [] s.net.wait w ++ (List.range (1 + f.len)).map (fun i => { g with head := i = 0, last := i = f.len }))) ∧
        (∀ r' j, neighbour r out = some (r', j) →
          let k' := inqKey h r' j c
          (s.credits h c ≤ (s.inq k').length → still (.flitTransfer h r out)) ∧
          ((s.inq k').length < s.credits h c → moves (fun t =>
            t.inq k' = s.inq k' ++ [f] ∧ kept t [k'] ∧ t.net.link = s.net.link))) ∧
        (let e := 4 * h + r / 2
         r < 8 → out = .south →
          (s.linkRoom e 1 f = false → still (.flitTransfer h r out)) ∧
          (s.linkRoom e 1 f = true → moves (fun t => kept t [] ∧ ((t.link e).side 1).buf = ((s.link e).side 1).buf ++ [f] ∧
            ∀ a, a ≠ e → t.link a = s.link a))))) ∧
    -- links
    (y.buf = [] ∨ x.state < 2 ∨ y.stop = true → still (.arcadeBeat l d bad sq)) ∧
    (∀ f rest, y.buf = f :: rest → 2 ≤ x.state → y.stop = false → s.injectorFor 6 (fun a => a % 16 = l) = none →
      let idle := fun (c : Nat) => Tab.get [] s.net.wait (2 * (256 + 8 * (l / 4) + c)) = [] ∧
        Tab.get [] s.net.wait (2 * (256 + 8 * (l / 4) + c) + 1) = []
      let next := fun (whole : Bool) => { y with
        buf := if whole then rest else y.buf, half := !whole, seq := (y.seq + 1) % 256, tries := 0 }
      let beat := fun (whole : Bool) (P : State → Prop) => Completes (exec (.arcadeBeat l d bad sq) s) (fun t =>
        t = { s with net := t.net, ledger := t.ledger } ∧ (t.link l).side d = next whole ∧ P t)
      (bad ≠ [] ∨ sq.toNat ≠ y.seq → exec (.arcadeBeat l d bad sq) s =
        .next (s.updLink l (fun x => x.updSide d (fun y => { y with stop := true, bad := bad.eraseDups, quiet := false })))) ∧
      (bad = [] → sq.toNat = y.seq → (∀ c < 8, idle c) →
        (x.beats ≠ 1 → y.half = false → beat false (fun t => t.net.inq = s.net.inq)) ∧
        (x.beats = 1 ∨ y.half = true →
          (d = 0 → beat true (fun t => t.inq (downKey l f) = s.inq (downKey l f) ++ [f] ∧
            ∀ a, a ≠ downKey l f → t.inq a = s.inq a)) ∧
          (d = 1 → (f.dst ≠ 256 ∧ (s.hall (endHall f.dst)).rails = false ∨ f.dst = 256 ∧ f.last = false) → beat true (fun t => t.net.inq = s.net.inq)) ∧
          (let e := gateEnd f
           let l' := 4 * endHall f.dst + (s.hall (endHall f.dst)).linkOf f.dcol
           d = 1 → f.dst ≠ 256 → (s.hall (endHall f.dst)).rails = true → s.exitHeld (endHall f.dst) f.dcol = false →
           s.linkRoom l' 0 f = true → Tab.get [] s.net.wait (2 * e + ofBool f.rsp) = [] → beat true (fun t => t.net.inq = s.net.inq ∧
            ((t.link l').side 0).buf = ((s.link l').side 0).buf ++ [f]))))) ∧
    (y.stop = false → still (.replay l d)) ∧
    (y.stop = true → Completes (exec (.replay l d) s) (fun t =>
      let z := (t.link l).side d
      (t.link l).replays = (if x.replays = BitVec.allOnes 32 then x.replays else x.replays + 1) ∧ (t.link l).state = x.state ∧
      z.stop = false ∧ z.bad = [] ∧ z.tries = y.tries + 1 ∧ z.buf = y.buf ∧ z.seq = y.seq ∧ z.lanes = y.lanes ∧
      (2 ≤ y.tries → y.quiet = false → ∀ a ∈ y.bad, NSet.has z.faulty a = true) ∧ t.mem = s.mem ∧ t.stalls = s.stalls)) ∧
    (NSet.has y.faulty g = false → still (.laneTest l d g bad strobe)) ∧
    (NSet.has y.faulty g = true →
      let old := Tab.get 0 y.lanes g
      let spare := bitsOf (s.hall (l / 4)).afeat 0 1 = 1
      let lane := fun (t : State) => Tab.get 0 ((t.link l).side d).lanes g
      let more := if x.replays = BitVec.allOnes 32 then x.replays else x.replays + 1
      (bad = [] → strobe = false → spare → Completes (exec (.laneTest l d g bad strobe) s) (fun t =>
        lane t = old ∧ (t.link l).replays = more ∧ NSet.has ((t.link l).side d).faulty g = false ∧ (t.link l).state = x.state)) ∧
      (∀ b, bad = [b] → strobe = false → spare → bitsOf old 6 1 = 0 → Completes (exec (.laneTest l d g bad strobe) s) (fun t =>
        lane t = old / 128 * 128 + 64 + b % 33 ∧ (t.link l).replays = more ∧ NSet.has ((t.link l).side d).faulty g = false ∧ (t.link l).state = x.state)) ∧
      ((strobe = true ∨ ¬ spare ∨ bitsOf old 6 1 = 1 ∧ bad ≠ [] ∨ 2 ≤ bad.length) → Completes (exec (.laneTest l d g bad strobe) s) (fun t =>
        lane t = old % 128 + 128 ∧ NSet.has ((t.link l).side d).faulty g = false ∧
        (x.carries = true → (t.link l).state = (t.link l).stateBy (bitsOf (s.hall (l / 4)).afeat 1 1 = 1)) ∧
        (x.carries = false → (t.link l).state = x.state)))) ∧
    (let w := s.wantedRemap h
     let moved := (List.range 8).filter (fun c => bitsOf w.toNat (2 * c) 2 ≠ (s.hall h).linkOf c)
     (s.drained h moved = true → Completes (exec (.remapDrainDone h) s) (fun t =>
       t = { s.updHall h (fun x => { x with remap := w }) with net := t.net } ∧
       ∀ a < 4, (t.link (4 * h + a)).state = if (s.link (4 * h + a)).retrain = true then 1 else (s.link (4 * h + a)).state)) ∧
     (s.drained h moved = false → still (.remapDrainDone h))) ∧
    (s.setupOpen q →
      (reqIsSp q = true → 3 ≤ x.state → x.state ≤ 5 →
        let s' := s.updLink l (fun x => { x with retrain := true })
        exec (.retrain q l) s = .next (if s'.wantedRemap (l / 4) = (s.hall (l / 4)).remap then
          s'.updLink l (fun z => { z with was := x.state, state := 1 }) else s')) ∧
      (reqIsSp q = false ∨ x.state < 3 ∨ 5 < x.state →
        exec (.retrain q l) s = .next (s.accessError q 0 (0x4010 + 0x40 * l) 4 true))) ∧
    (x.retrain = false ∨ x.state ≠ 1 → still (.retrainDone l ok dn up)) ∧
    (x.retrain = true → x.state = 1 →
      let lost := lostGroups dn up
      let lo := lost.any (fun k => k % 16 < 8)
      let hi := lost.any (fun k => 8 ≤ k % 16)
      (ok = false ∨ (lo = true ∧ hi = true) →
        Completes (exec (.retrainDone l ok dn up) s) (fun t => t.link l = { x with retrain := false, state := x.was })) ∧
      (ok = true → ¬ (lo = true ∧ hi = true) → Completes (exec (.retrainDone l ok dn up) s) (fun t =>
        let z := (t.link l).side d
        let b := Tab.get 0 y.lanes g
        (t.link l).retrain = false ∧
        (t.link l).state = (if lost = [] then 2 else if bitsOf (s.hall (l / 4)).afeat 1 1 = 0 then 5 else if lo = true then 4 else 3) ∧
        z.stop = false ∧ z.bad = [] ∧ z.faulty = [] ∧ z.buf = y.buf ∧ z.seq = y.seq ∧
        Tab.get 0 z.lanes g = if lost.contains (16 * d + g) = true then (if bitsOf b 7 1 = 1 then b else b % 128 + 128) else 0))) ∧
    ((s.hall h).rails = false → still (.capabilityRecord h gr hr)) ∧
    ((s.hall h).rails = true →
      let a := capOf gr
      let b := capOf hr
      (max a.vmin b.vmin ≤ min a.vmax b.vmax → exec (.capabilityRecord h gr hr) s = .next (s.updHall h (fun x => { x with
        gcap := a, hcap := b, agreed := min a.vmax b.vmax, afeat := a.feat &&& b.feat, nocommon := false }))) ∧
      (min a.vmax b.vmax < max a.vmin b.vmin → Completes (exec (.capabilityRecord h gr hr) s) (fun t =>
        (t.hall h).nocommon = true ∧ (t.hall h).agreed = 0 ∧ (t.hall h).cutoff = true ∧ (t.hall h).gcap = a ∧ (t.hall h).hcap = b ∧
        ∀ i < 4, (t.link (4 * h + i)).state = 0)))

/-- FAR_CACHE_ACCESS beyond usable far memory does nothing; without the cache it joins its channel's queue; in cache mode hint 2
allocates or refreshes the line, hint 1 and a read miss only queue, hint 3 drops a clean line. FAR_CHANNEL_ACCESS takes, of the
requests that the queue's depth holds, the first of its kind that no older one of its line precedes; a channel that loses its
training retires, a module that does not answer fails. FAR_REFRESH and MR4_POLL act on a powered module, the rate never below 1.
SPD_TEMP_POLL takes the temperature and its band. DISPLACE, POWERDOWN, POWERUP and RESTORE start when their checks pass and
otherwise only set LASTERR; POWERDOWN_DONE and POWERUP_DONE end them, POWERUP_DONE with the highest rate that passes and the SPD
allows; LINE_MOVE moves one line, the last ends the move, an uncorrectable or stranded line arrives poisoned. A presence change
and a power-good drop of 2 µs take the module out as its state says. It concludes that exec answers a next state with the
command's own effect for: farCacheAccess, farChannelAccess, mr4Poll, spdTempPoll, displace, powerdown, powerdownDone, powerup,
powerupDone, moduleRestore, lineMove, cammPresenceChange, cammPgDrop, farRefresh. -/
def Obligations.FarMemoryServesMovesAndDisplaces : Prop :=
  ∀ (s : State) (q : Req) (m ch rank rate o hint ns : Nat) (wr whole pres bad : Bool) (temp : Int) (f : ModFind),
    inReq q = true → m < 4 → ch < 32 → rank < 2 →
    let still := fun (c : Instr) => exec c s = .next s
    let x := s.module m
    let only := fun (c : Instr) (g : Module → Module) => exec c s = .next (s.updModule m g)
    let becomes := fun (c : Instr) (y : Module) => Completes (exec c s) (fun t =>
      t.module m = y ∧ (∀ i, i ≠ m → t.module i = s.module i) ∧ t.mem = s.mem ∧ t.stalls = s.stalls ∧ t.far.usable = s.far.usable)
    -- accesses
    let l := o / 256
    let c := (s.chanOf (l * 256)).1
    let queued : State := { s with far := { s.far with q := Tab.upd [] s.far.q c (fun a => a ++ [(l * 256, wr)]) } }
    let dropped := (wr = false ∧ NSet.has s.mem.farValid l = false) ∨ s.stranded (l * 256) = true
    let access := Instr.farCacheAccess o hint wr whole
    (s.usableFar ≤ o → still access) ∧
    (o < s.usableFar → s.cachePitch o = none →
      (dropped → still access) ∧ (¬ dropped → exec access s = .next queued)) ∧
    (∀ p, o < s.usableFar → s.cachePitch o = some p → s.setDead (setOf l) = false → ¬ dropped →
      let hnt := if hint % 4 = 0 then s.pt.active.defhint p else hint % 4
      let ways := Tab.get [] s.far.cache (setOf l)
      let rest := ways.filter (fun w => w.line ≠ l)
      let cached := fun (u : State) (a : List CWay) => exec access s = .next (u.setCache (setOf l) a)
      ((∀ w ∈ ways, w.line ≠ l) →
        (hnt ≠ 2 → exec access s = .next queued) ∧
        (∀ w, hnt = 2 → w < 12 → NSet.has s.far.dis (setOf l * 12 + w) = false → (∀ a ∈ ways, a.way ≠ w) →
          (∀ j < w, NSet.has s.far.dis (setOf l * 12 + j) = true ∨ ∃ a ∈ ways, a.way = j) →
          (wr = false → cached queued (⟨w, l, false⟩ :: ways)) ∧
          (wr = true → whole = true → cached s (⟨w, l, true⟩ :: ways)))) ∧
      (∀ w, ways.find? (fun w => w.line = l) = some w →
        (wr = false → hnt = 1 → still access) ∧ (wr = false → hnt = 2 → cached s (w :: rest)) ∧
        (wr = false → hnt = 3 → w.dirty = false → cached s rest) ∧
        (wr = true → hnt = 2 → cached s ({ w with dirty := true } :: rest)))) ∧
    (let a := Tab.get [] s.far.q ch
     (∀ (i : Nat) (e : Nat × Bool), a[i]? = some e → e.2 = wr → (∀ (j : Nat) (b : Nat × Bool), j < i → a[j]? = some b → b.1 ≠ e.1) →
       ((a.take i).filter (fun b => b.2 = wr)).length < (if wr = true then 32 else 64) →
       (∀ (j : Nat) (b : Nat × Bool), j < i → a[j]? = some b → b.2 = wr → ∃ (k : Nat) (b' : Nat × Bool), k < j ∧ a[k]? = some b' ∧ b'.1 = b.1) → exec (.farChannelAccess ch ⟨wr, .served⟩) s =
        .next { s with far := { s.far with q := Tab.set s.far.q ch (a.erase e) }, out := .reg (BitVec.ofNat 64 e.1) }) ∧
     ((∀ e ∈ a, e.2 ≠ wr) → still (.farChannelAccess ch ⟨wr, .served⟩)) ∧
     (let y := s.module (ch / 8)
      (bitsOf y.retch (ch % 8) 1 = 1 → still (.farChannelAccess ch ⟨wr, .lostTraining⟩)) ∧
      (bitsOf y.retch (ch % 8) 1 = 0 → Completes (exec (.farChannelAccess ch ⟨wr, .lostTraining⟩) s) (fun t =>
        (t.module (ch / 8)).retch = y.retch + 2 ^ (ch % 8) ∧ t.mem = s.mem ∧ t.stalls = s.stalls)) ∧
      (y.inUse = false → still (.farChannelAccess ch ⟨wr, .noAnswer⟩)) ∧
      (y.inUse = true → Completes (exec (.farChannelAccess ch ⟨wr, .noAnswer⟩) s) (fun t => (t.module (ch / 8)).lost = true ∧
        ((t.module (ch / 8)).state = 7 ∨ (t.module (ch / 8)).state = 4) ∧ t.mem = s.mem ∧ t.stalls = s.stalls)))) ∧
    -- refresh and heat
    (x.power = true → only (.mr4Poll m ch rank rate) (fun x => { x with mr4 := Tab.set x.mr4 (2 * (ch % 8) + rank) (max rate 1) })) ∧
    (x.power = false → still (.mr4Poll m ch rank rate) ∧ still (.spdTempPoll m temp) ∧ still (.cammPgDrop m ns)) ∧
    ((s.module (ch / 8)).power = true → exec (.farRefresh ch rank) s =
      .next { s with far := { s.far with refn := Tab.upd 0 s.far.refn (2 * ch + rank) (fun n => (n + 1) % 16) } }) ∧
    ((s.module (ch / 8)).power = false → still (.farRefresh ch rank)) ∧
    (x.power = true →
      (temp ≤ 95 → only (.spdTempPoll m temp) (fun x => { x with temp := temp, throttle := 0 })) ∧
      (95 < temp → temp ≤ 105 → only (.spdTempPoll m temp) (fun x => { x with temp := temp, throttle := 1 })) ∧
      (105 < temp → x.throttle = 2 → only (.spdTempPoll m temp) (fun x => { x with temp := temp })) ∧
      (105 < temp → x.throttle ≠ 2 → Completes (exec (.spdTempPoll m temp) s) (fun t =>
        t.module m = { x with temp := temp, throttle := 2 } ∧ t.cool.next = (s.cool.next + 1) % 64 ∧
        ∃ e, Tab.find t.cool.log s.cool.next = some e ∧ e.time = s.time ∧ e.reading = temp * 100))) ∧
    -- commands
    (s.setupOpen q → (s.published = false ∨ ∃ i, q = .ld i) →
      ∀ i ∈ [Instr.displace q m, .powerdown q m, .powerup q m, .moduleRestore q m],
        exec i s = .next (s.accessError q 0 (modCmdOff m) 4 true)) ∧
    (s.setupOpen q → s.published = true → (∀ i, q ≠ .ld i) →
      (bitsOf s.fw.disable 5 1 = 1 → ∀ i ∈ [Instr.displace q m, .powerdown q m, .powerup q m, .moduleRestore q m],
        only i (fun x => { x with lasterr := 0x23 })) ∧
      (bitsOf s.fw.disable 5 1 = 0 →
        let busy := fun (c : Instr) => only c (fun x => { x with lasterr := 0x24 })
        (∀ e, s.displaceCheck m = some e → only (.displace q m) (fun x => { x with lasterr := e })) ∧
        (s.displaceCheck m = none → Completes (exec (.displace q m) s) (fun t =>
          t.module m = (if x.state = 7 ∧ x.left ≠ 0 then { x with state := 4 }
            else { x with state := 4, left := s.far.moveLines, total := s.far.moveLines, back := 0 }) ∧
          t.far.usable = s.far.units (mlCount s.far.ml - 1) ∧ t.mem = s.mem ∧ t.stalls = s.stalls)) ∧
        (x.state = 5 → x.busy = 0 → only (.powerdown q m) (fun x => { x with busy := 1 })) ∧
        (x.state ≠ 5 ∨ x.busy ≠ 0 → busy (.powerdown q m) ∧ busy (.moduleRestore q m)) ∧
        (x.state = 1 → x.present = true → becomes (.powerup q m) { x with state := 2, power := true }) ∧
        (x.state ≠ 1 ∨ x.present = false → busy (.powerup q m)) ∧
        (x.state = 5 → x.busy = 0 → x.trained = true → becomes (.moduleRestore q m) (if bitsOf s.far.used m 1 = 0 then { x with state := 3 }
          else { x with state := 6, left := s.far.moveLines, total := s.far.moveLines, back := 0 })) ∧
        (x.trained = false → busy (.moduleRestore q m)))) ∧
    (x.busy ≠ 1 → still (.powerdownDone m)) ∧
    (x.busy = 1 → becomes (.powerdownDone m) { x with busy := 0, state := 1, power := false, trained := false, rate := 0, mr4 := [] }) ∧
    (x.state ≠ 2 → still (.powerupDone m f)) ∧
    (x.state = 2 →
      let fits := ∃ k, chcapOf f.rawBytes = some k ∧ s.far.chcap ≤ k
      let opts := f.supported = true ∧ (f.ranks = 1 ∨ f.ranks = 2)
      let may := fun r => 1 ≤ r ∧ r ≤ 5 ∧ r ∈ f.passes ∧ r ≤ f.spdMax
      (¬ opts ∨ ¬ fits → becomes (.powerupDone m f) { x with state := 1, power := false, lasterr := 0x23, rate := 0 }) ∧
      (opts → fits → ((∀ r, ¬ may r) ∨ f.tested = false) →
        becomes (.powerupDone m f) { x with state := 1, power := false, lasterr := 0x10, rate := 0 }) ∧
      (∀ r, opts → fits → may r → (∀ k, may k → k ≤ r) → f.tested = true → becomes (.powerupDone m f) { x with
        raw := f.rawBytes, ranks := f.ranks, serial := f.serial, supported := true, rate := r,
        state := 5, trained := true, lost := false, retch := if f.serial = x.serial then x.retch else 0 })) ∧
    -- moves
    ((x.state ≠ 4 ∧ x.state ≠ 6) ∨ x.left = 0 → still (.lineMove m bad)) ∧
    (let i := s.moveLine m (x.total - x.left)
     (x.state = 4 ∨ x.state = 6 → 1 < x.left →
       ((NSet.has s.mem.farValid i = false ∨ bad = false) ∧ s.stranded (i * 256) = false →
         only (.lineMove m bad) (fun x => { x with left := x.left - 1 })) ∧
       ((NSet.has s.mem.farValid i = true ∧ bad = true) ∨ s.stranded (i * 256) = true → Completes (exec (.lineMove m bad) s) (fun t =>
         (t.module m).left = x.left - 1 ∧ (∀ b, Mem.rd t.mem.far b = if b / 256 = i then 0 else Mem.rd s.mem.far b) ∧
         (∀ w < 8, NSet.has t.mem.farPois (8 * i + w) = true) ∧ t.mem.slice = s.mem.slice ∧ t.stalls = s.stalls))) ∧
     (x.left = 1 → bad = false → s.stranded (i * 256) = false →
       (x.state = 4 → Completes (exec (.lineMove m bad) s) (fun t =>
         t.module m = { x with left := 0, state := 5, trained := x.trained && !x.lost } ∧ t.far.disp = s.far.disp ||| 2 ^ m ∧
         t.mem = s.mem)) ∧
       (x.state = 6 → Completes (exec (.lineMove m bad) s) (fun t' => ∃ t : State, t' = t.autoDisplace ∧
         let lo := unit256 * s.far.units (mlCount s.far.ml - 1)
         let hi := unit256 * s.far.units (mlCount s.far.ml)
         t.module m = { x with left := 0, state := 3 } ∧ t.far.disp = s.far.disp ^^^ 2 ^ m ∧
         t.far.usable = s.far.units (mlCount s.far.ml) ∧
         (∀ b, lo ≤ b → b < hi → Mem.rd t.mem.far b = 0) ∧ ∀ b, b < lo ∨ hi ≤ b → Mem.rd t.mem.far b = Mem.rd s.mem.far b)))) ∧
    -- pins
    (x.present = pres → still (.cammPresenceChange m pres)) ∧
    (x.present = false → pres = true → becomes (.cammPresenceChange m pres) { x with present := true, state := max x.state 1 }) ∧
    (x.present = true → pres = false →
      (x.state = 1 → becomes (.cammPresenceChange m pres)
        { x with present := false, state := if bitsOf s.far.used m 1 = 0 then 0 else 1 }) ∧
      (x.state = 5 → becomes (.cammPresenceChange m pres) { x with present := false, trained := false }) ∧
      (x.state = 2 → becomes (.cammPresenceChange m pres) { x with present := false, state := 1, power := false, lasterr := 0x10 }) ∧
      (x.state = 0 → becomes (.cammPresenceChange m pres) { x with present := false }) ∧
      (x.inUse = true → Completes (exec (.cammPresenceChange m pres) s) (fun t =>
        (t.module m).present = false ∧ (t.module m).lost = true ∧ ((t.module m).state = 7 ∨ (t.module m).state = 4) ∧ t.mem = s.mem))) ∧
    (ns < 2000 → still (.cammPgDrop m ns)) ∧
    (2000 ≤ ns → x.power = true →
      (x.state = 5 → becomes (.cammPgDrop m ns) { x with trained := false, power := false }) ∧
      (x.state = 2 → becomes (.cammPgDrop m ns) { x with state := 1, power := false, lasterr := 0x10 }) ∧
      (x.state = 0 ∨ x.state = 1 → becomes (.cammPgDrop m ns) { x with power := false }) ∧
      (x.inUse = true → Completes (exec (.cammPgDrop m ns) s) (fun t => (t.module m).power = false ∧ (t.module m).lost = true ∧
        ((t.module m).state = 7 ∨ (t.module m).state = 4) ∧ t.mem = s.mem)))

/-- STALL_GATE gates an idle stall without NOGATE; STALL_WAKE wakes it. VSET is for a service processor within its bounds: uncovered
steps fall before the rail is written; a rail read back at VSET covers it. RAIL_LIMITED lowers the cap of a VHL rail to 4 below
its highest effective step, by 4 more where it is limited already, to no less than 8; RAIL_CAP_RISE, once the hold time has
passed since the last limiting and the last rise, raises it by 4 until 60 ends the limit, each with an entry of the power log. A
domain estimate adds its energy and, every 1,000th, gives the 1 ms average. Above L the governor lowers its cap by 2 to no less
than 8; after 1 ms below 0.95 L it raises it by 1; a grant lifts L to PEXC. Every change of a cap sends the stalls' clocks to
their effective step. A supply below the droop level stretches every cycle, 10 mV above it the stretch ends. It concludes that
exec answers a next state with the command's own effect for: stallGate, stallWake, vsetWrite, railRead, domainEstimate,
governorTick, droopDetect, stretchRelease, railLimited, railCapRise, regulatorStatusAlert. -/
def Obligations.PowerGovernsRailsAndClocks : Prop :=
  ∀ (s : State) (q : Req) (n r d mv da uw p1 p10 p1s : Nat) (v : W32) (on : Bool), inReq q = true → n < 256 → r < 5 → d < 1096 →
    let still := fun (c : Instr) => exec c s = .next s
    let x := s.rail r
    let heads := fun (t : State) (m : Nat) => (if (t.stall m).clk.slewing = true then (t.stall m).clk.target else (t.stall m).clk.cur) = t.effStep m
    let hallHeads := fun (t : State) => r < 4 → ∀ i < 64, heads t (64 * r + i)
    let same := fun (t : State) => t.mem = s.mem ∧ t.tally = s.tally ∧ t.rings.items = s.rings.items ∧ ∀ m k, t.thread m k = s.thread m k
    let others := fun (t : State) => ∀ i, i ≠ r → t.rail i = s.rail i
    let logged := fun (t : State) (cause cap : Nat) => t.pwr.next = (s.pwr.next + 1) % 64 ∧
      Tab.find t.pwr.log s.pwr.next = some { time := s.time, cause := cause, rail := r, cap := cap, amps := min (x.iread / 10) 255 }
    -- stalls
    (s.pwrState n = 1 → bit32 (s.rw32 (stallPwrOff n)) 2 = false →
      exec (.stallGate n) s = .next (s.updStall n (fun x => { x with gated := true }))) ∧
    (s.pwrState n ≠ 1 ∨ bit32 (s.rw32 (stallPwrOff n)) 2 = true → still (.stallGate n)) ∧
    ((s.stall n).gated = true → exec (.stallWake n) s = .next (s.updStall n (fun x => { x with gated := false }))) ∧
    ((s.stall n).gated = false → still (.stallWake n)) ∧
    -- rails
    (s.setupOpen q →
      let m := fld32 v 0 16
      let good := if r < 4 then 600 ≤ m ∧ m ≤ 880 else 700 ≤ m ∧ m ≤ 850
      (reqIsSp q = false ∨ ¬ good → exec (.vsetWrite q r v) s = .next (s.accessError q 0 (0x202110 + 8 * r) 4 true)) ∧
      (reqIsSp q = true → good → Completes (exec (.vsetWrite q r v) s) (fun t =>
        t.rw32 (0x202110 + 8 * r) = BitVec.ofNat 32 m ∧ t.rail r = { x with cov := min x.cov m } ∧ others t ∧ hallHeads t ∧ same t ∧
        t.outbox = s.outbox ++ [.avs r m]))) ∧
    (Completes (exec (.railRead r mv da) s) (fun t =>
      t.rail r = { x with
        vread := min mv 0xFFFF, iread := min da 0xFFFF, cov := if s.vset r ≤ mv then s.vset r else x.cov } ∧
      others t ∧ hallHeads t ∧ same t ∧ t.outbox = s.outbox)) ∧
    (let top := ((List.range 64).map (fun i => s.effStep (64 * r + i))).foldl max 0
     Completes (exec (.railLimited r) s) (fun t =>
      (t.rail r).lim = true ∧ (t.rail r).limited = some s.time ∧ others t ∧ same t ∧
      (r = 4 → (t.rail r).cap = x.cap ∧ logged t 1 60) ∧
      (r < 4 → x.cap ≤ 8 → (t.rail r).cap = x.cap ∧ logged t 2 x.cap) ∧
      (r < 4 → 8 < x.cap → (t.rail r).cap = max 8 ((if x.lim = true then x.cap else top) - 4) ∧ hallHeads t ∧
        logged t 1 (max 8 ((if x.lim = true then x.cap else top) - 4))))) ∧
    (let due := max (x.limited.getD 0) (x.rose.getD 0) + x.holdNow s.time * 1000000000
     (x.lim = false ∨ s.time < due → still (.railCapRise r)) ∧
     (x.lim = true → due ≤ s.time →
      let cap := if r < 4 then min 60 (x.cap + 4) else 60
      Completes (exec (.railCapRise r) s) (fun t =>
        t.rail r = { x with cap := cap, lim := decide (cap < 60), rose := some s.time } ∧ others t ∧ hallHeads t ∧ same t ∧ logged t 3 cap))) ∧
    exec (.regulatorStatusAlert r on) s = .next (s.updRail r (fun r => { r with alert := on })) ∧
    -- the weighbridge
    (let y := s.domain d
     Completes (exec (.domainEstimate d uw) s) (fun t =>
      (t.domain d).uj = y.uj + BitVec.ofNat 48 ((y.frac + uw) / 1000000) ∧ (t.domain d).frac = (y.frac + uw) % 1000000 ∧
      (y.n + 1 = 1000 → (t.domain d).mw = min ((y.sum + uw) / 1000000) 0xFFFF ∧ (t.domain d).sum = 0 ∧ (t.domain d).n = 0) ∧
      (y.n + 1 ≠ 1000 → (t.domain d).mw = y.mw ∧ (t.domain d).sum = y.sum + uw ∧ (t.domain d).n = y.n + 1) ∧
      (∀ e, e ≠ d → t.domain e = s.domain e) ∧ t.mem = s.mem ∧ t.stalls = s.stalls)) ∧
    -- the governor
    (p1 ≤ 0xFFFF → p10 ≤ 0xFFFF → p1s ≤ 0xFFFF →
      let ticks := fun (P : State → Prop) => Completes (exec (.governorTick p1 p10 p1s) s) (fun t =>
        t.pwr.p1 = p1 ∧ t.pwr.p10 = p10 ∧ t.pwr.p1s = p1s ∧ same t ∧ P t)
      (s.cool.grant = none →
        (s.plimit < p1 → ticks (fun t => t.pwr.cap = max 8 (s.pwr.cap - 2) ∧ ∀ m < 256, heads t m)) ∧
        (∀ t0, 100 * p1 < 95 * s.plimit → s.pwr.cap < 60 → s.pwr.quiet = some t0 → t0 + 1000000 ≤ s.time → s.pwr.rose + 1000000 ≤ s.time →
          ticks (fun t => t.pwr.cap = s.pwr.cap + 1 ∧ t.pwr.rose = s.time ∧ ∀ m < 256, heads t m)) ∧
        (p1 ≤ s.plimit → 95 * s.plimit ≤ 100 * p1 ∨ 60 ≤ s.pwr.cap ∨ s.pwr.quiet = none →
          ticks (fun t => t.pwr.cap = s.pwr.cap ∧ t.stalls = s.stalls))) ∧
      (s.cool.grant.isSome = true → s.pwr.capped = false → (∀ t0, s.pwr.exc = some t0 → s.time < t0 + 10000000) → p1s < s.plimit →
        s.plimit < p1 → p1 ≤ s.pexc → ticks (fun t => s.pwr.cap ≤ t.pwr.cap))) ∧
    -- droop
    (let c := (s.stall n).clk
     let sets := fun (c : Instr) (b : Bool) => Completes (exec c s) (fun t => Observed
      (s.updStall n (fun x => { x with clk := { x.clk with stretch := b, base := s.cycle n, at_ := s.time } })) t)
     (mv < s.droopLevel n → sets (.droopDetect n mv) true) ∧ (s.droopLevel n ≤ mv → still (.droopDetect n mv)) ∧
     (c.stretch = true → s.droopLevel n + 10 ≤ mv → sets (.stretchRelease n mv) false) ∧
     (c.stretch = false ∨ mv < s.droopLevel n + 10 → still (.stretchRelease n mv)))

/-- Temperatures are stored as converted; an impossible thermistor sets SENSFAULT, ends a grant and drives the pumps at 255; valid
readings for its time clear it. The low-flow condition sets and clears LOWFLOW. The layer model runs while the hall's rails are
up, anchored to its diode; a layer whose estimate left the band it was about to be lowered to starts its stay anew. A forecast
sets the requirement, never lowering the demand; FLOW_DEMAND_LOWER lowers it to the last requirement; without an update, or with
any fault, FAILSAFE drives 255. HEAT_FORECAST sends one message while the controller is enabled. An accepted GRANT is in force
for VALID ms, a refused or unanswered one is not; expiry ends it. COOLANT_STATUS gives the flows. THERMCAP of a hot hall falls
by 2, to no less than 8, of a cool one rises by 1 after 100 ms, and stays at most 40 under a fault. CLAMP caps a hall at step 8,
counts, logs and ends a grant; its release is logged. It concludes that exec answers a next state with the command's own effect
for: diodeConversion, thermistorConversion, sensfaultTimer, lowflowTimer, layerModelTick, forecastTick, flowDemandLower,
forecastUpdateTimeout, heatForecast, grantMsg, grantRequestTimeout, grantExpiry, coolantStatus, ctrlseenExpiry, thermcapTick,
clampHall, clampRelease. -/
def Obligations.HeatIsMeasuredForecastAndThrottled : Prop :=
  ∀ (s : State) (h valid : Nat) (t0 t1 inlet : Int) (flows dram idle : List Nat) (items : List FItem) (sq : Byte) (pump leak low acc : Bool), h < 4 →
    let still := fun (c : Instr) => exec c s = .next s
    let c := s.cool
    let x := s.hall h
    let ends := fun (i : Instr) (P : State → Prop) => Completes (exec i s) (fun t =>
      t.mem = s.mem ∧ t.tally = s.tally ∧ t.rings.items = s.rings.items ∧ (∀ m k, t.thread m k = s.thread m k) ∧ P t)
    let heads := fun (t : State) => ∀ i < 64, let clk := (t.stall (64 * h + i)).clk
      (if clk.slewing = true then clk.target else clk.cur) = t.effStep (64 * h + i)
    let forced := fun (c : CoolSt) => c.stale || c.sensfault || c.lowflow || c.gtrip || threads4.any (fun h => (s.hall h).clamp || (s.hall h).tripped)
    let driven := fun (t : State) => t.cool.failsafe = forced t.cool ∧ t.cool.duty = if t.cool.failsafe = true then 255 else 17 * t.cool.k
    let logged := fun (t : State) (cause : Nat) (r : Int) => ∃ e, Tab.find t.cool.log c.next = some e ∧ e.time = s.time ∧ e.cause = cause ∧
      e.hall = h ∧ e.reading = r
    let ctl := bit32 (s.rw32 0x20C40C) 8
    -- sensors
    ends (.diodeConversion h t0) (fun t => t.hall h = { x with diode := t0 } ∧ (∀ i, i ≠ h → t.hall i = s.hall i) ∧ t.cool = c) ∧
    (thermistorOk t0 = true → thermistorOk t1 = true → c.lowflow = true →
      exec (.thermistorConversion t0 t1) s = .next { s with cool := { c with tin := t0, tout := t1 } }) ∧
    (thermistorOk t0 = false ∨ thermistorOk t1 = false → c.lowflow = true → ends (.thermistorConversion t0 t1) (fun t =>
      t.cool.tin = t0 ∧ t.cool.tout = t1 ∧ t.cool.sensfault = true ∧
      (c.sensfault = false → t.cool.grant = none ∧ driven t ∧ (s.pairActive 1 = true → (t.hall h).cap = min x.cap 40)))) ∧
    (c.sensfault = true → c.valid = false → still .sensfaultTimer) ∧
    (c.sensfault = true → c.valid = true → ends .sensfaultTimer (fun t => t.cool.sensfault = false ∧ driven t)) ∧
    (c.sensfault = false → c.tin ≤ c.tout + 200 → still .sensfaultTimer) ∧
    (c.sensfault = false → c.tout + 200 < c.tin → ends .sensfaultTimer (fun t => t.cool.sensfault = true ∧ t.cool.grant = none ∧ driven t)) ∧
    (c.lowflow = false ∨ s.lowFlowNow = true → still .lowflowTimer) ∧
    (c.lowflow = true → s.lowFlowNow = false → ends .lowflowTimer (fun t => t.cool.lowflow = false ∧ driven t)) ∧
    (x.rails = false → still (.layerModelTick h dram)) ∧
    (x.rails = true → dram.length = 8 → ends (.layerModelTick h dram) (fun t =>
      let p := ((1000 * s.hallPower h : Nat) : Int) :: dram.map (fun (v : Nat) => (v : Int))
      let u := thermalStep h (s.flowOf h) s.coolantTemp p x.nodes
      t = s.updHall h (fun y => { y with
        temp := (t.hall h).temp, dram := dram, throttle := (t.hall h).throttle, lowerOk := (t.hall h).lowerOk }) ∧
      (∀ e, e ∈ (t.hall h).lowerOk ↔ e ∈ x.lowerOk ∧ lowerBand (t.layerEst h e.1) ≤ e.2) ∧
      Tab.get 0 (t.hall h).temp 0 = x.diode * centi ∧
      (∀ i < 10, Tab.get 0 (t.hall h).temp i = u.getD i 0 + (x.diode * centi - u.getD 0 0) * (9 - (i : Int)) / 9) ∧
      ∀ l < 8, (t.hall h).throttle.getLsbD l = decide (105 * nano < t.layerEst h l))) ∧
    -- the forecaster and the flow
    (s.jisanRuns = false → s.pairActive 1 = false → still (.forecastTick items idle)) ∧
    (s.jisanRuns = true ∨ s.pairActive 1 = true → ends (.forecastTick items idle) (fun t =>
      t.cool.stale = false ∧ t.cool.reactive = (!s.jisanRuns) ∧ t.cool.k = max c.k t.cool.want ∧ driven t ∧ t.stalls = s.stalls ∧
      (∀ i, (t.hall i).cap = (s.hall i).cap ∧ (t.hall i).mult = (s.hall i).mult) ∧
      (s.jisanRuns = true → t.cool.fmw = threads4.map (fun h => (List.range 50).map (fun b => binPower items idle h b))))) ∧
    (c.k ≤ c.want → still .flowDemandLower) ∧
    (c.want < c.k → ends .flowDemandLower (fun t => t.cool.k = c.want ∧ driven t)) ∧
    ends .forecastUpdateTimeout (fun t => t.cool.stale = true ∧ t.cool.failsafe = true ∧ t.cool.duty = 255) ∧
    (ctl = false → still .heatForecast) ∧
    (ctl = true → ends .heatForecast (fun t => ∃ b, t = { s with
      cool := { c with seq := (c.seq + 1) % 256 }, outbox := s.outbox ++ [.mctp 1 (toLE 1 1 ++ toLE 1 c.seq ++ toLE 2 0 ++ b)] } ∧ b.length = 36)) ∧
    -- grants and the controller
    (c.pending = none ∨ valid = 0 ∨ 1000 < valid ∨ ctl = false → still (.grantMsg sq acc valid)) ∧
    (c.pending.isSome = true → 0 < valid → valid ≤ 1000 → ctl = true →
      (acc = false → exec (.grantMsg sq acc valid) s = .next { s with cool := { c with pending := none } }) ∧
      (acc = true → exec (.grantMsg sq acc valid) s = .next { s with cool := { c with
        pending := none, count := (c.count + 1) % 65536,
        grant := if c.sensfault = true ∨ c.lowflow = true then none else some (s.time + 1000000 * valid) } })) ∧
    exec .grantRequestTimeout s = .next { s with cool := { c with pending := none } } ∧
    exec .grantExpiry s = .next { s with cool := { c with grant := none, grantExc := false } } ∧
    (ctl = false → still (.coolantStatus flows inlet pump leak low)) ∧
    (ctl = true → c.lowflow = true → exec (.coolantStatus flows inlet pump leak low) s =
      .next { s with cool := { c with ctrlseen := true, flows := flows.take 4, fault := pump || leak } }) ∧
    (ctl = true → pump = true ∨ leak = true → ends (.coolantStatus flows inlet pump leak low) (fun t =>
      t.cool.lowflow = true ∧ t.cool.flows = flows.take 4 ∧ t.cool.ctrlseen = true)) ∧
    exec .ctrlseenExpiry s = .next { s with cool := { c with ctrlseen := false } } ∧
    -- throttling
    (s.pairActive 1 = false → still .thermcapTick) ∧
    (s.pairActive 1 = true → ends .thermcapTick (fun t =>
      let hot := 10000 < x.diode ∨ ∃ l < 8, 100 * nano < s.layerEst h l
      let cool := x.diode ≤ 9500 ∧ ∀ l < 8, s.layerEst h l ≤ 95 * nano
      let top := if c.sensfault = true ∨ c.lowflow = true then 40 else 60
      (x.rails = false → t.hall h = x) ∧
      (x.rails = true → heads t ∧
        (hot → (t.hall h).cap = min (max 8 (x.cap - 2)) top) ∧
        (¬ hot → ¬ cool → (t.hall h).cap = min x.cap top) ∧
        (cool → (∃ z, x.cool = some z ∧ z + 100000000 ≤ s.time) → (t.hall h).cap = min (min 60 (x.cap + 1)) top) ∧
        (cool → (∀ z, x.cool = some z → s.time < z + 100000000) → (t.hall h).cap = min x.cap top)))) ∧
    (x.clamp = true → still (.clampHall h)) ∧
    (x.clamp = false → ends (.clampHall h) (fun t => t.hall h = { x with clamp := true } ∧ t.cool.grant = none ∧ t.cool.failsafe = true ∧
      t.cool.duty = 255 ∧ heads t ∧ logged t 1 x.diode ∧ t.ledgerAt (hallRec h 3) = min (s.ledgerAt (hallRec h 3) + 1) (2 ^ 64 - 1))) ∧
    (x.clamp = false → still (.clampRelease h)) ∧
    (x.clamp = true → ends (.clampRelease h) (fun t => t.hall h = { x with clamp := false } ∧ heads t ∧ logged t 2 x.diode))

/-- TRIP and a power-good drop of 2 µs latch the hall, take its rails and links, fence its good stalls with cause 9, end a grant,
drive the pumps at 255; in a quiet device its slices, shelves and tallies are cleared and nothing else. REARM below 80 °C rearms
it and starts or withholds the return. RESTART is for a service processor once rearmed. HALL_RETURN brings the hall back, or
fails; HALL_PG_TIMEOUT fails it. GATEHOUSE_TRIP trips every hall and stops the device until GATEHOUSE_COOL_RESTART. SYS_PWRGD up
starts cold, with every device memory reading 0; down for 2 µs stops the device. PERST#, a hot reset and WARM start cold or
warm. A start ends published with FPGEN 2 under the start table, or in recovery at phase 15; host memory stays. BOOTCFG is
recorded; waiting records are written or leave DLFAULT; a nearly full list is compacted. It concludes that exec answers a next
state with the command's own effect for: tripHall, rearm, restart, hallReturn, gatehouseTrip, gatehouseCoolRestart,
sysPwrgdAssert, perstN, hotReset, warmReset, defectListRetry, defectListCompact, bootcfgWrite, sysPwrgdDrop, hallPgDrop,
hallPgTimeout. -/
def Obligations.HallsTripAndReturnAndStartsRun : Prop :=
  ∀ (s : State) (q : Req) (h ns : Nat) (v : W32) (f : Find) (g : HallFind) (ok : Bool), inReq q = true → h < 4 →
    let still := fun (c : Instr) => exec c s = .next s
    let x := s.hall h
    let logged := fun (t : State) (cause : Nat) => ∃ i e, Tab.find t.cool.log i = some e ∧ e.time = s.time ∧ e.cause = cause ∧ e.hall = h
    let mine := fun (n : Nat) => n < 256 ∧ n / 64 = h
    -- trips
    let tripped := fun (t : State) =>
      (t.hall h).tripped = true ∧ (t.hall h).rearmed = false ∧ (t.hall h).returning = false ∧ (t.hall h).rails = false ∧
      (t.hall h).up = false ∧ (t.hall h).tripTime = s.time ∧ (t.hall h).trips.head? = some s.time ∧ (∀ i, i ≠ h → t.hall i = s.hall i) ∧
      t.cool.grant = none ∧ t.cool.failsafe = true ∧ t.cool.duty = 255 ∧ logged t 3 ∧
      (∀ n, mine n → (s.fpOf n).state = 0 → t.fpOf n = { state := 3, cause := 9 }) ∧ (∀ n, ¬ mine n → t.fpOf n = s.fpOf n) ∧
      (s.pitchesQuiet → (∀ p, (s.jis1 p).slot = []) → s.tally.watches = [] → s.tally.flight = [] →
        (∀ b, b / unit256 < 256 → Mem.rd t.mem.slice b = if b / unit256 / 64 = h then 0 else Mem.rd s.mem.slice b) ∧
        (∀ b, b / 2097152 < 256 → Mem.rd t.mem.shelf b = if b / 2097152 / 64 = h then 0 else Mem.rd s.mem.shelf b) ∧
        t.mem.far = s.mem.far ∧ t.mem.host = s.mem.host ∧
        ∀ id, t.tallyVal id = if id / 65536 = h then 0 else s.tallyVal id)
    (x.tripped = true → x.returning = false → still (.tripHall h)) ∧
    (x.tripped = false ∨ x.returning = true → Completes (exec (.tripHall h) s) tripped) ∧
    (ns < 2000 ∨ x.rails = false → still (.hallPgDrop h ns)) ∧
    (2000 ≤ ns → x.rails = true → x.tripped = false → Completes (exec (.hallPgDrop h ns) s) (fun t => tripped t ∧
      ∃ e, Tab.find t.pwr.log s.pwr.next = some e ∧ e.cause = 4 ∧ e.rail = h)) ∧
    (x.tripped = false ∨ x.rearmed = true ∨ 8000 ≤ x.diode → still (.rearm h)) ∧
    (x.tripped = true → x.rearmed = false → x.diode < 8000 → Completes (exec (.rearm h) s) (fun t =>
      let auto := bit32 (s.rw32 (thctl h)) 1 = true ∧ s.cool.gtrip = false
      logged t 4 ∧ (∀ i, i ≠ h → t.hall i = s.hall i) ∧ t.mem = s.mem ∧ t.stalls = s.stalls ∧
      (¬ auto → t.hall h = { x with rearmed := true }) ∧
      (auto → s.trips24 h < 3 → t.hall h = { x with rearmed := true, returning := true }) ∧
      (auto → 3 ≤ s.trips24 h → t.hall h = { x with rearmed := true, withheld := true } ∧ logged t 11))) ∧
    -- returns
    (s.setupOpen q →
      (reqIsSp q = false ∨ s.published = false ∨ x.rearmed = false → exec (.restart q h) s = .next (s.accessError q 0 (thctl h) 4 true)) ∧
      (reqIsSp q = true → s.published = true → x.rearmed = true →
        (x.returning = true → still (.restart q h)) ∧
        (x.returning = false → Completes (exec (.restart q h) s) (fun t => t.hall h = { x with returning := true, withheld := false } ∧
          (∀ i, i ≠ h → t.hall i = s.hall i) ∧ t.mem = s.mem ∧ t.stalls = s.stalls ∧ t.boot.fpgen = s.boot.fpgen + 2)))) ∧
    (let fails := fun (c : Instr) => Completes (exec c s) (fun t => t.hall h = { x with returning := false, rails := false, up := false } ∧
       (∀ i, i ≠ h → t.hall i = s.hall i) ∧ logged t 6 ∧ t.mem = s.mem ∧ t.stalls = s.stalls)
     (x.returning = false → still (.hallPgTimeout h) ∧ still (.hallReturn h g)) ∧
     (x.returning = true → fails (.hallPgTimeout h)) ∧
     (x.returning = true → g.pg = false ∨ (∀ b ∈ g.links, b = false) → fails (.hallReturn h g)) ∧
     (x.returning = true → s.negotiate h g.cap = none → fails (.hallReturn h g)) ∧
     (∀ u, x.returning = true → g.pg = true → (∃ b ∈ g.links, b = true) → s.negotiate h g.cap = some u → u.returnFits h = true →
       let v := ((u.updHall h (fun y => { y with rails := true })).align h).trainLinks h g
       (v.linked h = false → Completes (exec (.hallReturn h g) s) (fun t =>
        (t.hall h).tripped = x.tripped ∧ (t.hall h).returning = false ∧ (t.hall h).rails = false ∧ (t.hall h).up = false ∧
        logged t 6 ∧ t.mem = s.mem ∧ t.fp = s.fp)) ∧
       (v.linked h = true → Completes (exec (.hallReturn h g) s) (fun t =>
        let good := g.router = none ∧ g.tallyBad = false
        (t.hall h).tripped = false ∧ (t.hall h).rearmed = false ∧ (t.hall h).returning = false ∧ (t.hall h).withheld = false ∧
        (t.hall h).rails = true ∧ (t.hall h).agreed = (u.hall h).agreed ∧ ((t.hall h).up = true ↔ good) ∧ ((t.hall h).cutoff = true ↔ ¬ good) ∧
        (∀ n, mine n → (s.fpOf n).state = 3 → (∀ e ∈ g.fail, e.1 ≠ n) → (∀ e ∈ g.bonds, e.1 ≠ n) → good → t.fpOf n = {}) ∧
        (∀ b, b / 2097152 < 256 → b / 2097152 / 64 = h → Mem.rd t.mem.shelf b = 0) ∧ logged t 5)))) ∧
    -- the gatehouse
    (s.cool.gtrip = true → still .gatehouseTrip) ∧
    (s.cool.gtrip = false → Completes (exec .gatehouseTrip s) (fun t =>
      t.cool.gtrip = true ∧ (∀ i < 4, (t.hall i).tripped = true) ∧ t.boot.phase = 0 ∧ t.fpValid = false ∧ t.port.memActive = false ∧
      t.cool.failsafe = true ∧ ∀ i e, Tab.find t.svc.sp i = some e → e.role = 5 ∨ e.role = 0)) ∧
    -- starts
    (let started := fun (t : State) => t.mem.host = s.mem.host ∧
       ((t.boot.phase = 9 ∧ t.fpValid = true ∧ t.boot.fpgen = 2 ∧ t.port.memActive = true ∧ t.pt.active = PTab.start t.far.usable ∧
          t.pt.shadow = t.pt.active ∧ t.boot.trained = true) ∨
        (t.boot.phase = 15 ∧ t.fw.recovery = true ∧ t.fw.jisan = false ∧ t.fw.disable = 0))
     let cold := fun (c : Instr) => Completes (exec c s) (fun t => started t ∧ t.boot.pwrgd = true ∧ t.time = 0 ∧
       t.mem.slice = [] ∧ t.mem.far = [] ∧ t.mem.shelf = [] ∧ (f.gsramBad = true → t.boot.phase = 15))
     let resets := fun (c : Instr) =>
       (s.boot.pwrgd = true → s.cool.gtrip = false → (s.warmKind = 0 → cold c) ∧
         (s.warmKind ≠ 0 → Completes (exec c s) (fun t => started t ∧ t.time = s.time ∧ (f.gsramBad = true → t.boot.phase = 15)))) ∧
       (s.boot.pwrgd = false ∨ s.cool.gtrip = true → still c)
     (s.boot.pwrgd = true → still (.sysPwrgdAssert f)) ∧ (s.boot.pwrgd = false → cold (.sysPwrgdAssert f)) ∧
     (s.cool.gtrip = false → still (.gatehouseCoolRestart f)) ∧ (s.cool.gtrip = true → cold (.gatehouseCoolRestart f)) ∧
     resets (.perstN f) ∧ (s.boot.phase = 0 → still (.hotReset f)) ∧ (s.boot.phase ≠ 0 → resets (.hotReset f)) ∧
     (s.setupOpen q → reqIsSp q = true → resets (.warmReset q f))) ∧
    (s.setupOpen q → reqIsSp q = false → exec (.warmReset q f) s = .next (s.accessError q 0 0x1018 4 true)) ∧
    (ns < 2000 ∨ s.boot.pwrgd = false → still (.sysPwrgdDrop ns)) ∧
    (2000 ≤ ns → s.boot.pwrgd = true → Completes (exec (.sysPwrgdDrop ns) s) (fun t =>
      t.boot = {} ∧ t.fpValid = false ∧ t.setup = [] ∧ t.stalls = [] ∧ t.rings = {} ∧ t.pt = {} ∧ t.tally = {} ∧ t.cool = {} ∧
      t.mem = { host := s.mem.host, hostPois := s.mem.hostPois } ∧ t.dl = { s.dl with held := [], fault := false } ∧
      t.ledger = { snap := s.ledger.snap } ∧ t.fw.rec_ = s.fw.rec_ ∧ t.fw.slot = s.fw.slot ∧
      ∀ i, (t.hall i).tripped = (s.hall i).tripped ∧ (t.hall i).rearmed = (s.hall i).rearmed)) ∧
    -- the defect list
    (s.dl.held = [] ∨ s.pairActive 1 = false → still (.defectListRetry ok)) ∧
    (s.dl.held ≠ [] → s.pairActive 1 = true → Completes (exec (.defectListRetry ok) s) (fun t =>
      t.dl = (if ok = true then { s.dl.write s.dl.held with held := [], fault := false } else { s.dl with fault := true }) ∧
      t = { s with dl := t.dl, boot := t.boot } ∧ t.boot.fpgen = if s.fpValid = true then s.boot.fpgen + 2 else s.boot.fpgen)) ∧
    (s.pairActive 1 = false ∨ s.dl.fault = true ∨ s.dl.cur.recs.length ≤ 2031608 → still .defectListCompact) ∧
    (s.pairActive 1 = true → s.dl.fault = false → 2031608 < s.dl.cur.recs.length → Completes (exec .defectListCompact s) (fun t =>
      t.dl.cur.recs = keptRecs (s.dl.cur.recs.filter recOk) ∧ t.dl.cur.gen = s.dl.cur.gen + 1 ∧ t.dl.inB = (!s.dl.inB) ∧
      t.dl.held = s.dl.held ∧ t = { s with dl := t.dl, boot := t.boot })) ∧
    (s.setupOpen q → (∃ i, q = .ld i) → exec (.bootcfgWrite q v) s = .next (s.accessError q 0 0x1008 4 true)) ∧
    (s.setupOpen q → (∀ i, q ≠ .ld i) → Completes (exec (.bootcfgWrite q v) s) (fun t =>
      t.rw32 0x1008 = v &&& 7 ∧ t = { s with setup := t.setup, dl := t.dl } ∧
      (s.dl.fault = true ∨ s.dl.held ≠ [] ∨ s.pairActive 1 = false →
        t.dl = { s.dl with held := s.dl.held ++ [bootoptRec 4 (v.toNat % 8)] }) ∧
      (s.dl.fault = false → s.dl.held = [] → s.pairActive 1 = true → t.dl = s.dl.write [bootoptRec 4 (v.toNat % 8)])))

/-- HB is the member's own. GO bits read 1 once set. HEARTBEAT_TIMEOUT after HBTIMEOUT, WATCHDOG_EXPIRY and FATAL_FAULT fail a
member that is standby or active, the third time in 24 h for good; the standby takes over: role, owner, a committed checkpoint,
Jisan's slots from the checkpoint or, in a blank takeover, none. CHECKPOINT writes the buffer not named last. SP_RESTART_DONE
gives a standby, an active member where none is, or a retired one. RETIRECMD retires a stall with cause 11, waits for a step of
Jisan, or is refused with 0x24. SALVAGE starts on its conditions; SALVAGE_DONE has copied the valid lines, poisoned the bad ones
and written nothing else of the slices. A snapshot goes to slot n mod 128 and a failed one is retried; FLUSH is taken once a
minute; LEDGER_SAMPLE, BONDQ_ACCUMULATE and LIFE_UPDATE count and rate, every counter sticking at 2^64 - 1. It concludes that
exec answers a next state with the command's own effect for: heartbeat, heartbeatTimeout, watchdogExpiry, fatalFault,
checkpoint, spRestartDone, retireCmd, salvage, ledgerSnapshot, ledgerFlush, ledgerRetry, ledgerSample, bondqAccumulate,
lifeUpdate, salvageDone. -/
def Obligations.ServiceProcessorsFailTakeOverAndCount : Prop :=
  ∀ (s : State) (q : Req) (i c ce : Nat) (v : W32) (bad uw : List Nat) (ok : Bool), inReq q = true → i < 4 → c < 2 →
    let still := fun (x : Instr) => exec x s = .next s
    let x := s.sp i
    let o := otherSp i
    let sat := fun (a b : Nat) => min (2 ^ 64 - 1) (a + b)
    let others := fun (t : State) (j : Nat) => ∀ m, m ≠ i → m ≠ j → t.sp m = s.sp m
    -- heartbeats and failures
    (x.role ≠ 2 → x.role ≠ 3 → still (.heartbeat i) ∧ still (.heartbeatTimeout i) ∧ still (.watchdogExpiry i) ∧ still (.fatalFault i)) ∧
    (s.time < x.hb + s.hbTimeout → still (.heartbeatTimeout i)) ∧
    (x.role = 2 ∨ x.role = 3 → Completes (exec (.heartbeat i) s) (fun t =>
      t = { s with svc := t.svc, setup := t.setup } ∧ t.sp i = { x with hb := s.time } ∧ others t i ∧ t.rw32 (0x2000 + 32 * i) = 0x10000)) ∧
    (∀ (e : Instr), (e = .heartbeatTimeout i ∧ x.hb + s.hbTimeout ≤ s.time) ∨ e = .watchdogExpiry i ∨ e = .fatalFault i →
      let lost := fun (t : State) => (t.sp i).role = (if 2 ≤ s.fails24 i then 5 else 4) ∧ (t.sp i).fails.head? = some s.time ∧
        t.ledgerAt (spRec i 2) = sat (s.ledgerAt (spRec i 2)) 1
      let takes := fun (t : State) => lost t ∧ (t.sp o).role = 3 ∧ (t.sp o).hb = s.time ∧ others t o ∧ (t.pair (i / 2)).owner = o % 2 ∧
        (t.pair (i / 2)).none_ = false ∧ (t.pair (i / 2)).cgen = (s.pair (i / 2)).cgen + 1 ∧ (t.pair (i / 2)).last = 1 - (s.pair (i / 2)).last ∧
        t.ledgerAt (spRec o 3) = sat (s.ledgerAt (spRec o 3)) 1
      (x.role = 2 → Completes (exec e s) (fun t => lost t ∧ others t i ∧ t = { s with svc := t.svc, ledger := t.ledger } ∧
        ((s.sp o).role = 3 → (t.pair (i / 2)).simplex = decide (2 ≤ s.fails24 i)))) ∧
      (x.role = 3 → (s.sp o).role ≠ 2 → (s.sp o).role ≠ 3 → Completes (exec e s) (fun t => lost t ∧ others t i ∧
        (t.pair (i / 2)).none_ = true ∧ (2 ≤ i → t.jis = s.jis ∧ t.rings.items = s.rings.items) ∧
        (i < 2 → s.pairActive 1 = true → ∀ p < 16, (t.jis1 p).slot = [] ∧ (t.jis1 p).sess = []))) ∧
      (x.role = 3 → (s.sp o).role = 2 → 2 ≤ i → Completes (exec e s) (fun t => takes t ∧
        t.mem = s.mem ∧ t.stalls = s.stalls ∧ t.jis = s.jis ∧ t.rings.items = s.rings.items ∧
        (s.fw.upd = 1 ∨ s.fw.upd = 2 → t.fw.upd = 0 ∧ t.fw.pldm = 0))) ∧
      (x.role = 3 → (s.sp o).role = 2 → i < 2 → s.rings.items = [] → (∀ n, s.stallOut n = false) →
        let fmt := fun (k : Option Nat) => k.map (fun k => imgCkptfmt (s.imageOf (2 + k)))
        Completes (exec e s) (fun t => takes t ∧ t.fw.jslot = (s.sp o).img ∧
          ((s.pair 0).latest = none ∨ fmt s.fw.jslot ≠ fmt (s.sp o).img →
            (t.pair 0).blank = true ∧ ∀ p < 16, (t.jis1 p).slot = [] ∧ (t.jis1 p).sess = []) ∧
          (∀ k, (s.pair 0).latest = some k → fmt s.fw.jslot = fmt (s.sp o).img → (t.pair 0).blank = false ∧
            ∀ p < 16, (t.jis1 p).slot = if Tab.get 0 k.preset p = (s.pctl p).presetgen then (Tab.get {} k.jis p : JPitch).slot else [])))) ∧
    -- checkpoints and restarts
    (s.pairActive c = false → still (.checkpoint c)) ∧
    (s.pairActive c = true → Completes (exec (.checkpoint c) s) (fun t =>
      let y := t.pair c
      let k := if (s.pair c).last = 0 then y.b else y.a
      t = { s with svc := t.svc, jis := t.jis } ∧ t.svc.sp = s.svc.sp ∧ t.pair (1 - c) = s.pair (1 - c) ∧
      y.cgen = (s.pair c).cgen + 1 ∧ y.last = 1 - (s.pair c).last ∧
      (if (s.pair c).last = 0 then y.a = (s.pair c).a else y.b = (s.pair c).b) ∧
      (∃ z, k = some z ∧ z.gen = y.cgen ∧ z.jpos = s.svc.jnext - 1 ∧ (∀ p < 16, Tab.get 0 z.preset p = (s.pctl p).presetgen) ∧
        z.jis = if c = 0 then s.jis else []) ∧
      (∀ p, (t.jis1 p).slot = (s.jis1 p).slot ∧ (t.jis1 p).sess = (s.jis1 p).sess) ∧
      (c = 0 → t.svc.jr = s.svc.jr.filter (fun e => (s.item e.pitch e.ring e.seq).isSome || !serialLt e.jseq (s.svc.jnext - 1))))) ∧
    (x.role ≠ 4 ∧ x.role ≠ 1 ∨ s.pairActive (1 - i / 2) = false → still (.spRestartDone i ok)) ∧
    (x.role = 4 ∨ x.role = 1 → s.pairActive (1 - i / 2) = true → Completes (exec (.spRestartDone i ok) s) (fun t =>
      t.ledgerAt (spRec i 4) = sat (s.ledgerAt (spRec i 4)) 1 ∧ (s.svc.online = some i → t.svc.online = none) ∧
      (ok = false → (t.sp i).role = 5 ∧ others t i ∧ t = { s with svc := t.svc, ledger := t.ledger }) ∧
      (ok = true → s.svc.online = some i → (t.sp i).role = 3 ∧ (t.sp o).role = 1 ∧ others t o ∧ (t.pair (i / 2)).owner = i % 2) ∧
      (ok = true → s.svc.online ≠ some i → s.pairActive (i / 2) = true → (t.sp i).role = 2 ∧ (t.sp i).hb = s.time ∧ others t i ∧
        t = { s with svc := t.svc, ledger := t.ledger, fw := t.fw }) ∧
      (ok = true → s.svc.online ≠ some i → s.pairActive (i / 2) = false → (t.sp i).role = 3 ∧ (t.pair (i / 2)).owner = i % 2 ∧
        (t.pair (i / 2)).none_ = false))) ∧
    -- retirement and salvage
    (let n := fld32 v 0 8
     let free := s.hostKernel n = false ∧ (s.fpOf n).state ≠ 1 ∧ (s.fpOf n).state ≠ 2 ∧ s.svc.retire.contains n = false
     s.setupOpen q →
     (svcWriter q = false ∨ s.published = false → exec (.retireCmd q v) s = .next (s.accessError q 0 0x2118 4 true) ∧
       exec (.salvage q v) s = .next (s.accessError q 0 0x2110 4 true)) ∧
     (svcWriter q = true → s.published = true →
       (bit32 v 8 = false → exec (.retireCmd q v) s = .next (s.setRw32 0x2118 (BitVec.ofNat 32 n ||| (s.rw32 0x2118 &&& 0x100)))) ∧
       (bit32 v 8 = true → Completes (exec (.retireCmd q v) s) (fun t => t.rw32 0x2118 = BitVec.ofNat 32 n ||| 0x100 ∧
         (¬ free → t.svc.retStat = 0x24 ∧ t = { s with svc := t.svc, setup := t.setup } ∧ t.svc.retire = s.svc.retire) ∧
         (free → s.inStep n = true → t.svc.retStat = 0 ∧ t.svc.retire = s.svc.retire ++ [n] ∧ t = { s with svc := t.svc, setup := t.setup }) ∧
         (free → s.inStep n = false → t.svc.retStat = 0 ∧ t.fpOf n = { state := 2, cause := 11 } ∧ (∀ m, m ≠ n → t.fpOf m = s.fpOf m) ∧
           t.ledgerAt (stallRec n 6) = 11 ∧
           (s.pitchesQuiet → (∀ p, (s.jis1 p).slot = []) → t.mem.slice = s.mem.slice ∧ t.mem.far = s.mem.far)))) ∧
       (s.svc.salvBusy = true → still (.salvage q v)) ∧
       (s.svc.salvBusy = false → Completes (exec (.salvage q v) s) (fun t => t.rw32 0x2110 = BitVec.ofNat 32 (fld32 v 0 16) ||| ((s.rw32 0x2110 ||| v) &&& 0x10000) ∧
         t = { s with svc := t.svc, setup := t.setup } ∧
         t.svc = (if bit32 v 16 = false then s.svc
           else if s.salvageOk (fld32 v 0 8) (fld32 v 8 8) = true then { s.svc with salvBusy := true } else { s.svc with salvStat := 0x24 }))))) ∧
    (s.svc.salvBusy = false → still (.salvageDone ce bad)) ∧
    (let src := fld32 (s.rw32 0x2110) 0 8
     let dst := fld32 (s.rw32 0x2110) 8 8
     let top := min 1048576 (min (s.sliceOf src).u (s.sliceOf dst).u / 256)
     let valid := fun (l : Nat) => l < top ∧ NSet.has s.mem.sliceValid (1048576 * src + l) = true
     let poor := fun (l : Nat) => bad.contains l = true ∨ (s.sliceFault (unit256 * src + l * 256) 256).isSome = true
     s.svc.salvBusy = true →
     (s.salvageOk src dst = false → exec (.salvageDone ce bad) s = .next { s with svc := { s.svc with salvBusy := false, salvStat := 0x10 } }) ∧
     (s.salvageOk src dst = true → Completes (exec (.salvageDone ce bad) s) (fun t => t = { s with svc := t.svc, mem := t.mem } ∧
       t.svc.salvBusy = false ∧
       ((∃ l, valid l ∧ poor l) → t.svc.salvStat = 0x10) ∧ (¬ (∃ l, valid l ∧ poor l) → t.svc.salvStat = if ce = 0 then 0 else 1) ∧
       (∀ l b, b < 256 → valid l → ¬ poor l → (∀ a, a / 256 = 1048576 * dst + l → s.dropsSlice a = false) →
         Mem.rd t.mem.slice (unit256 * dst + l * 256 + b) = Mem.rd s.mem.slice (unit256 * src + l * 256 + b) ∧
         NSet.has t.mem.sliceValid (1048576 * dst + l) = true ∧ NSet.has t.mem.slicePois ((unit256 * dst + l * 256 + b) / 32) = false) ∧
       (∀ l b, b < 256 → valid l → poor l → (∀ a, a / 256 = 1048576 * dst + l → s.dropsSlice a = false) → NSet.has t.mem.slicePois ((unit256 * dst + l * 256 + b) / 32) = true ∧
         NSet.has t.mem.sliceValid (1048576 * dst + l) = true) ∧
       (∀ a, (∀ l, valid l → a / 256 ≠ 1048576 * dst + l) → Mem.rd t.mem.slice a = Mem.rd s.mem.slice a) ∧
       t.mem.far = s.mem.far ∧ t.mem.shelf = s.mem.shelf ∧ t.mem.host = s.mem.host))) ∧
    -- the ledger
    (let l := s.ledger
     let k := l.seq % 128
     let shot := fun (x : Instr) =>
       (ok = true → exec x s = .next { s with ledger := { l with
          snap := Tab.set l.snap k { seq := l.seq, cal := s.calendar, time := s.time, cnt := l.cnt, flags := l.flags }
          seq := l.seq + 1, fault := false, due := false } }) ∧
       (ok = false → exec x s = .next { s with ledger := { l with snap := Tab.del l.snap k, fault := true } })
     (s.pairActive 1 = false → still (.ledgerSnapshot ok) ∧ still (.ledgerRetry ok)) ∧ (l.fault = false → still (.ledgerRetry ok)) ∧
     (s.pairActive 1 = true → shot (.ledgerSnapshot ok) ∧ (l.fault = true → shot (.ledgerRetry ok))) ∧
     (s.setupOpen q →
       (svcWriter q = false → exec (.ledgerFlush q) s = .next (s.accessError q 0 0x2100 4 true)) ∧
       (svcWriter q = true → (∃ u, l.flushed = some u ∧ s.time < u + 60000000000) → still (.ledgerFlush q)) ∧
       (svcWriter q = true → (∀ u, l.flushed = some u → u + 60000000000 ≤ s.time) →
         exec (.ledgerFlush q) s = .next { s with ledger := { l with due := true, flushed := some s.time } }))) ∧
    (s.boot.pwrgd = false → still .ledgerSample) ∧
    (s.boot.pwrgd = true → Completes (exec .ledgerSample s) (fun t => t = { s with ledger := t.ledger } ∧
      let up := fun (off : Nat) (b : Bool) => t.ledgerAt off = sat (s.ledgerAt off) (ofBool b)
      up 0x50 true ∧
      (∀ n < 256, up (stallRec n 0) ((s.hall (n / 64)).rails && decide (s.pwrState n < 2)) ∧
        up (stallRec n 1) ((s.hall (n / 64)).rails && decide (s.pwrState n = 0)) ∧ up (stallRec n 3) (decide (9500 < (s.hall (n / 64)).diode)) ∧
        t.ledgerAt (stallRec n 5) = s.ledgerAt (stallRec n 5)) ∧
      (∀ r < 1024, up (regionRec r 0) (s.hall (r / 256)).rails ∧ t.ledgerAt (regionRec r 2) = s.ledgerAt (regionRec r 2)) ∧
      (∀ h < 4, up (hallRec h 0) (s.hall h).rails ∧ up (hallRec h 4) (decide (10000 < (s.hall h).diode)) ∧
        ∀ e, Tab.find s.ledger.cyc (hallRec h 1) = some e →
          let d := (s.hall h).diode
          up (hallRec h 1) (decide (e.1 + 2000 ≤ e.2 ∧ d + 2000 ≤ e.2)) ∧
          Tab.find t.ledger.cyc (hallRec h 1) =
            some (if e.1 + 2000 ≤ e.2 ∧ d + 2000 ≤ e.2 ∨ d < e.1 then (d, d) else (e.1, max e.2 d))) ∧
      (∀ k < 16, up (linkRec k 0) (decide ((s.link k).state ≠ 0 ∧ (s.link k).state ≠ 5))) ∧
      ∀ m < 4, up (spRec m 0) (decide (1 ≤ (s.sp m).role ∧ (s.sp m).role ≤ 3)) ∧ up (spRec m 1) (decide ((s.sp m).role = 3)))) ∧
    Completes (exec (.bondqAccumulate uw) s) (fun t => t = { s with ledger := t.ledger } ∧
      ∀ n k, n < 256 → k < 4 →
        let r := 4 * n + k
        let f := Tab.get 0 s.ledger.frac r + s.bondCharge n k uw
        if (s.hall (n / 64)).rails = true then
          Tab.get 0 t.ledger.frac r = f % 1000000000 ∧ t.ledgerAt (regionRec r 2) = sat (s.ledgerAt (regionRec r 2)) (f / 1000000000)
        else Tab.get 0 t.ledger.frac r = Tab.get 0 s.ledger.frac r ∧ t.ledgerAt (regionRec r 2) = s.ledgerAt (regionRec r 2)) ∧
    Completes (exec .lifeUpdate s) (fun t => t = { s with ledger := { s.ledger with life := t.ledger.life } } ∧
      ∀ h < 4, ∃ w, Tab.find t.ledger.life h = some w ∧
        (∀ r < 1024, r / 256 = h →
          min 65535 (s.ledgerAt (regionRec r 2) * 1000 / bondRated h) ≤ bitsOf w.toNat 0 16 ∧
          min 65535 (s.ledgerAt (regionRec r 1) * 1000 / tcRated h) ≤ bitsOf w.toNat 16 16) ∧
        (bitsOf w.toNat 0 16 = 0 ∨ ∃ r < 1024, r / 256 = h ∧ bitsOf w.toNat 0 16 = min 65535 (s.ledgerAt (regionRec r 2) * 1000 / bondRated h)) ∧
        (1000 ≤ bitsOf w.toNat 0 16 ∨ 1000 ≤ bitsOf w.toNat 16 16 ∨ 1000 ≤ bitsOf w.toNat 32 16 → bitsOf w.toNat 48 16 = 0))

/-- A PLDM command to a device whose endpoint is down has no effect; one at a wrong stage is answered 0x80 or 0x84. REQUEST_UPDATE
opens a session unless an update is busy; UPDATE_COMPONENT erases and marks the inactive slot and asks for the first block; the
block asked for is programmed after those received, any other is dropped; TRANSFER_COMPLETE verifies: slot state 2, or 0 with
the reason in LASTERR; ACTIVATE_FIRMWARE makes each verified slot pending with three tries. A cancel by PLDM, by FWCTL or by the
agent's silence leaves LASTERR 0x30 and the slot invalid. Confirmation makes the pending slot the running one and raises SVNMIN.
TRANSFER_FW and ACTIVATE_FW do the same by the mailbox. The completion codes are the standards' (log entry 28). It concludes
that exec answers a next state with the command's own effect for: transferFw, activateFw, queryDeviceIdentifiers,
getFirmwareParameters, requestUpdate, passComponentTable, updateComponent, requestFirmwareData, transferComplete,
verifyComplete, applyComplete, activateFirmware, getStatus, cancelUpdate, fwCancel, updateAgentTimeout, fwConfirm,
autoconfirmExpiry. -/
def Obligations.FirmwareUpdatesTransferVerifyAndActivate : Prop :=
  ∀ (s : State) (q : Req) (ld slot off comp size : Nat) (comps : List Nat) (data : List Byte) (act : XferAct) (online : Bool),
    inReq q = true → ld < 16 →
    let still := fun (x : Instr) => exec x s = .next s
    let tells := fun (x : Instr) (cc : Nat) (d : List Byte) => exec x s = .next { s with out := .resp cc d }
    let mbox := fun (x : Instr) (rc : Nat) => exec x s = .next { s with out := .mbox rc [] }
    let w := s.fw
    let r := w.rec_
    let failed := fun (t : State) (e : Nat) => t.fw.upd = 0 ∧ t.fw.pldm = 0 ∧ t.fw.ready = [] ∧ t.fw.lasterr = e ∧ t.fw.slot = w.slot ∧
      t.fw.rec_ = if w.upd = 1 ∨ w.upd = 2 then { r with slots := r.slots.set w.upSlot 0, gen := r.gen + 1 } else r
    let verified := fun (t : State) (i : Nat) (e : Option Nat) =>
      (e = none → t.fw.upd = 3 ∧ t.fw.lasterr = w.lasterr) ∧ (∀ c, e = some c → t.fw.upd = 0 ∧ t.fw.lasterr = c) ∧
      t.fw.rec_.slots.getD i 9 = if i < r.slots.length then (if e = none then 2 else 0) else 9
    -- PLDM
    (s.mctpUp = false → still .queryDeviceIdentifiers ∧ still .getFirmwareParameters ∧ still .requestUpdate ∧ still (.passComponentTable comps) ∧
      still (.updateComponent comp size) ∧ still (.requestFirmwareData off data) ∧ still .transferComplete ∧ still .verifyComplete ∧
      still .applyComplete ∧ still .activateFirmware ∧ still .getStatus ∧ still .cancelUpdate) ∧
    (s.mctpUp = true →
      tells .queryDeviceIdentifiers 0 (toLE 8 Config.ident.toNat) ∧
      tells .getStatus 0 (toLE 1 w.pldm ++ toLE 1 s.updCode ++ toLE 1 w.lasterr) ∧
      tells .getFirmwareParameters 0
        (toLE 2 1 ++ toLE 4 (s.versionIn 0 w.gslot) ++ toLE 4 (s.versionIn 0 (some (r.pend.getD 0 255))) ++
         (toLE 2 2 ++ toLE 4 (s.versionIn 1 w.jslot) ++ toLE 4 (s.versionIn 1 (some (r.pend.getD 1 255))))) ∧
      (s.updBusy = true ∨ w.pldm ≠ 0 → exec .requestUpdate s = .next { s with fw := { w with lasterr := 0x24 }, out := .resp 0x81 [] }) ∧
      (s.updBusy = false → w.pldm = 0 →
        exec .requestUpdate s = .next { s with fw := { w with pldm := 1, ready := [], upMbox := false }, out := .resp 0 [] }) ∧
      (w.pldm = 0 → tells (.passComponentTable comps) 0x80 [] ∧ tells (.updateComponent comp size) 0x80 [] ∧ tells .activateFirmware 0x80 [] ∧
        tells .cancelUpdate 0x80 []) ∧
      (w.pldm ≠ 0 → w.pldm ≠ 1 → tells (.passComponentTable comps) 0x84 []) ∧
      (w.pldm ≠ 0 → w.pldm ≠ 2 → tells (.updateComponent comp size) 0x84 [] ∧ tells .activateFirmware 0x84 []) ∧
      (w.pldm = 1 → exec (.passComponentTable comps) s = .next { s with
          fw := { w with pldm := 2 }
          out := .resp 0 (comps.map (fun c => if c = 1 ∨ c = 2 then 0 else 1)) }) ∧
      (w.pldm = 2 → (comp ≠ 1 → comp ≠ 2 → tells (.updateComponent comp size) 0 [1]) ∧
        (comp = 1 ∨ comp = 2 →
          let i := 2 * (comp - 1) + s.inactive (comp - 1)
          (slotBytes i < size → Completes (exec (.updateComponent comp size) s) (fun t => t.fw.pldm = 0 ∧ t.fw.lasterr = 0x21 ∧
            t.fw.rec_ = { r with slots := r.slots.set i 0, gen := r.gen + 1 } ∧ t.out = .resp 0 [1] ∧ t.fw.slot = w.slot)) ∧
          (size ≤ slotBytes i → Completes (exec (.updateComponent comp size) s) (fun t =>
            t = { s with fw := t.fw, outbox := t.outbox, out := .resp 0 [0] } ∧ t.fw.upd = 1 ∧ t.fw.pldm = 3 ∧ t.fw.upSlot = i ∧
            t.fw.upLen = size ∧ t.fw.upGot = 0 ∧ t.imageOf i = [] ∧ (∀ j, j ≠ i → t.imageOf j = s.imageOf j) ∧
            t.fw.rec_ = { r with slots := r.slots.set i 1, gen := r.gen + 1 } ∧
            t.outbox = s.outbox ++ (if size = 0 then [] else [.pldm (toLE 1 0x15 ++ toLE 4 0 ++ toLE 4 (min 4096 size))]))))) ∧
      (let fits := w.pldm = 3 ∧ w.upd = 1 ∧ off = w.upGot ∧ data.length = min 4096 (w.upLen - w.upGot) ∧ data ≠ []
       (¬ fits → still (.requestFirmwareData off data)) ∧
       (fits → Completes (exec (.requestFirmwareData off data) s) (fun t => t.imageOf w.upSlot = s.imageOf w.upSlot ++ data ∧
         (∀ j, j ≠ w.upSlot → t.imageOf j = s.imageOf j) ∧
         t = { s with outbox := t.outbox, fw := { w with slot := t.fw.slot, upGot := w.upGot + data.length } } ∧
         (w.upGot + data.length < w.upLen → ∃ d, t.outbox = s.outbox ++ [.pldm d]) ∧
         (w.upLen ≤ w.upGot + data.length → t.outbox = s.outbox)))) ∧
      (¬ (w.pldm = 3 ∧ w.upd = 1 ∧ w.upLen ≤ w.upGot) → still .transferComplete) ∧
      (w.pldm = 3 → w.upd = 1 → w.upLen ≤ w.upGot → Completes (exec .transferComplete s) (fun t => verified t w.upSlot (s.verifyImage w.upSlot) ∧
        t.fw.pldm = 4 ∧ t.fw.ready = (if s.verifyImage w.upSlot = none then w.ready ++ [w.upSlot] else w.ready) ∧ t.fw.slot = w.slot ∧
        t = { s with fw := t.fw, outbox := s.outbox ++ [.pldm [0x16, 0]] })) ∧
      (w.pldm ≠ 4 → still .verifyComplete) ∧
      (w.pldm = 4 → exec .verifyComplete s = .next { s with
          fw := if w.upd = 3 then { w with pldm := 5 } else { w with pldm := 0, ready := [] }
          outbox := s.outbox ++ [.pldm [0x17, if w.upd = 3 then 0 else 1]] }) ∧
      (w.pldm ≠ 5 → still .applyComplete) ∧
      (w.pldm = 5 → exec .applyComplete s = .next { s with fw := { w with pldm := 2 }, outbox := s.outbox ++ [.pldm [0x18, 0]] }) ∧
      (w.pldm = 2 → w.ready = [] → tells .activateFirmware 0x85 []) ∧
      (w.pldm = 2 → w.ready ≠ [] → Completes (exec .activateFirmware s) (fun t => t.fw.pldm = 0 ∧ t.fw.ready = [] ∧ t.out = .resp 0 [0, 0] ∧
        t = { s with fw := t.fw, svc := t.svc, out := t.out } ∧ t.fw.slot = w.slot ∧ t.fw.rec_.slots = r.slots ∧ t.fw.rec_.run = r.run ∧
        (∀ i ∈ w.ready, i < 4 → r.pend.length = 2 → r.tries.length = 2 → (∀ j ∈ w.ready, j / 2 = i / 2 → j = i) →
          t.fw.rec_.pend.getD (i / 2) 9 = i % 2 ∧ t.fw.rec_.tries.getD (i / 2) 9 = 3) ∧
        ((∀ i ∈ w.ready, i < 2) ∨ s.onlineOff = true → t.svc = s.svc) ∧
        (∀ k < 2, (∃ i ∈ w.ready, 2 ≤ i) → s.onlineOff = false → (s.sp k).role = 2 → (∀ j < k, (s.sp j).role ≠ 2) →
          t.svc.online = some k ∧ (t.sp k).role = 1))) ∧
      (w.pldm ≠ 0 → Completes (exec .cancelUpdate s) (fun t => failed t 0x30 ∧ t = { s with fw := t.fw, out := .resp 0 [] }))) ∧
    -- FWCTL and the agent
    (let busy := w.upd = 1 ∨ w.upd = 2 ∨ w.pldm ≠ 0
     (¬ busy → still .updateAgentTimeout) ∧ (busy → Completes (exec .updateAgentTimeout s) (fun t => failed t 0x30 ∧ t = { s with fw := t.fw })) ∧
     (s.isReq q = true →
       (fwWriter q = false → exec (.fwCancel q) s = .next (s.accessError q 0 0x1108 4 true) ∧
         exec (.fwConfirm q) s = .next (s.accessError q 0 0x1108 4 true)) ∧
       (fwWriter q = true → ¬ busy → exec (.fwCancel q) s = .next (s.orRw32 0x1108 4)) ∧
       (fwWriter q = true → busy → Completes (exec (.fwCancel q) s) (fun t => failed t 0x30 ∧ t = { s.orRw32 0x1108 4 with fw := t.fw })) ∧
       (fwWriter q = true → s.published = false → still (.fwConfirm q)))) ∧
    (let auto := bit32 (s.rw32 0x1108) 1 = true ∧ s.published = true ∧ ∀ h < 4, (s.hall h).tripped = false
     let confirms := fun (x : Instr) (ok : Nat → Bool) => Completes (exec x s) (fun t => t = { s with fw := t.fw } ∧ w.svnmin ≤ t.fw.svnmin ∧
       t.fw.slot = w.slot ∧ t.fw.rec_.slots = r.slots ∧ t.fw.rec_.tries = r.tries ∧
       ∀ c < 2,
        let k := r.pend.getD c 255
        (s.trial c = true → ok c = true → r.run.length = 2 → r.pend.length = 2 →
          t.fw.rec_.run.getD c 9 = k ∧ t.fw.rec_.pend.getD c 9 = 255 ∧ imgSecver (flashAt (s.imageOf (2 * c + k)) 0 512) ≤ t.fw.svnmin) ∧
        (s.trial c = false ∨ ok c = false → t.fw.rec_.run.getD c 9 = r.run.getD c 9 ∧ t.fw.rec_.pend.getD c 9 = r.pend.getD c 9))
     (¬ auto → still .autoconfirmExpiry) ∧ (auto → confirms .autoconfirmExpiry (fun c => c = 0 || !w.jfailed && s.jisanRuns)) ∧
     (s.isReq q = true → fwWriter q = true → s.published = true → confirms (.fwConfirm q) (fun _ => true))) ∧
    -- the mailbox
    (let x := Instr.transferFw ld slot act off data
     let y := Instr.activateFw ld slot online
     let i := slot - 1
     let mine := w.upd = 1 ∧ w.upMbox = true ∧ w.upSlot = i
     let more := act = .next ∨ act = .last
     let first := act = .full ∨ act = .first
     let mirror := { s with fw := { w with slot := Tab.set w.slot i ((if first then [] else s.imageOf i) ++ data) } }
     let e := mirror.verifyImage i
     (s.hasMbox ld = false → still x ∧ still y) ∧
     (s.hasMbox ld = true → s.fwMbox ld = false → mbox x 3 ∧ mbox y 3) ∧
     (s.hasMbox ld = true → s.fwMbox ld = true →
       (act = .abort → ¬ mine → mbox x 2) ∧
       (act = .abort → mine → Completes (exec x s) (fun t => failed t 0x30 ∧ t = { s with fw := t.fw, out := .mbox 0 [] })) ∧
       (more → ¬ mine → s.updBusy = false → mbox x 9) ∧
       ((more ∧ ¬ mine ∧ s.updBusy = true) ∨ (first ∧ (s.updBusy = true ∨ w.pldm ≠ 0)) →
         exec x s = .next { s with fw := { w with lasterr := 0x24 }, out := .mbox 6 [] }) ∧
       (more → mine → off ≠ w.upGot → mbox x 9) ∧
       (more → mine → off = w.upGot → slotBytes i < w.upGot + data.length → Completes (exec x s) (fun t => failed t 0x21 ∧ t.out = .mbox 2 [])) ∧
       (first → s.updBusy = false → w.pldm = 0 → slot = 0 ∨ 4 < slot ∨ s.inactive (i / 2) ≠ i % 2 → mbox x 0xB) ∧
       ((more ∧ mine ∧ off = w.upGot ∧ w.upGot + data.length ≤ slotBytes i) ∨
        (first ∧ s.updBusy = false ∧ w.pldm = 0 ∧ off = 0 ∧ 1 ≤ slot ∧ slot ≤ 4 ∧ s.inactive (i / 2) = i % 2 ∧ data.length ≤ slotBytes i) →
         Completes (exec x s) (fun t => t = { s with fw := t.fw, out := t.out } ∧ t.imageOf i = mirror.imageOf i ∧
           (∀ j, j ≠ i → t.imageOf j = s.imageOf j) ∧ t.fw.upGot = (if first then 0 else w.upGot) + data.length ∧ t.fw.upMbox = true ∧
           (act = .next ∨ act = .first → t.fw.upd = 1 ∧ t.out = .mbox 0 []) ∧
           (act = .last ∨ act = .full → verified t i e ∧ t.out = .mbox (if e = none then 0 else 0xA) []))) ∧
       -- Activate FW
       (slot = 0 ∨ 4 < slot ∨ r.slots.getD i 0 ≠ 2 → mbox y 0xB) ∧
       (1 ≤ slot → slot ≤ 4 → r.slots.getD i 0 = 2 →
         (online = true → i < 2 → mbox y 2) ∧ (online = true → 2 ≤ i → s.onlineOff = true → mbox y 3) ∧
         (online = false ∨ (2 ≤ i ∧ s.onlineOff = false) → Completes (exec y s) (fun t =>
           t.fw = { w with rec_ := { r with gen := r.gen + 1, pend := r.pend.set (i / 2) (i % 2), tries := r.tries.set (i / 2) 3 } } ∧
           t = { s with fw := t.fw, svc := t.svc, out := t.out } ∧
           (online = false → t.svc = s.svc ∧ t.out = .mbox 0 []) ∧
           (online = true → (∀ k < 2, (s.sp k).role ≠ 2) → t.svc = s.svc ∧ t.out = .mbox 0xD []) ∧
           (∀ k < 2, online = true → (s.sp k).role = 2 → (∀ j < k, (s.sp j).role ≠ 2) → t.out = .mbox 0 [] ∧ t.svc.online = some k ∧
             (t.sp k).role = 1 ∧ ∀ m, m ≠ k → t.sp m = s.sp m))))))

/-- Software writes a monitor's MCFG and MWIN and then 1 to MCOMMIT. The commit is refused and ERR set when SRC is not accepted by
the monitor, WIDTH is 0 with LOG2 0, WLEN is outside 1 to 1,000,000, or SPER is 0 for a level source. Otherwise CFGGEN
increments modulo 2^16 and PENDING is set; the settings wait. At the next boundary they take effect and PENDING clears; a commit
before it replaces what waited, so the first generation never takes effect and no window carries it. It concludes that exec
answers a next state with the command's own effect for: mcommit, windowBoundary. -/
def Obligations.MonitorCommitsTakeEffectAtTheBoundary : Prop :=
  ∀ (s : State) (q : Req) (m : Nat) (v : W32), inReq q = true → s.setupOpen q → fwWriter q = true → m < 576 → bit32 v 0 = true →
    let x := s.monitor m
    let cfg := s.rw64 (monBase m)
    let win := s.rw64 (monBase m + 8)
    let src := fld cfg 0 8
    let level := src = 3 ∨ src = 5 ∨ src = 6 ∨ src = 0x21 ∨ src = 0x25 ∨ src = 0x26 ∨ src = 0x28
    let bad := (m < 512 ∧ ¬ (1 ≤ src ∧ src ≤ 6)) ∨ (512 ≤ m ∧ ¬ (0x20 ≤ src ∧ src ≤ 0x29)) ∨ (fld win 0 16 = 0 ∧ bit cfg 8 = false) ∨
      fld win 16 20 < 1 ∨ 1000000 < fld win 16 20 ∨ (level ∧ fld win 36 16 = 0)
    (bad → Completes (exec (.mcommit q m v) s) (fun t => t.monitor m = { x with err := true } ∧ t = { s with obs := t.obs } ∧
      ∀ j, j ≠ m → t.monitor j = s.monitor j)) ∧
    (¬ bad → Completes (exec (.mcommit q m v) s) (fun t =>
      (t.monitor m).gen = (x.gen + 1) % 65536 ∧ (t.monitor m).pending = true ∧ (t.monitor m).cfg = x.cfg ∧ (t.monitor m).win = x.win ∧
      (t.monitor m).live = x.live ∧ (t.monitor m).res = x.res ∧ t = { s with obs := t.obs } ∧ (∀ j, j ≠ m → t.monitor j = s.monitor j) ∧
      Completes (exec (.windowBoundary m) t) (fun u => (u.monitor m).cfg = cfg ∧ (u.monitor m).win = win ∧ (u.monitor m).pending = false ∧
        (u.monitor m).gen = (x.gen + 1) % 65536 ∧ (u.monitor m).live.gen = (x.gen + 1) % 65536 ∧ (u.monitor m).res.gen = x.live.gen))) ∧
    (x.pending = false → Completes (exec (.windowBoundary m) s) (fun u => (u.monitor m).cfg = x.cfg ∧ (u.monitor m).win = x.win ∧
      (u.monitor m).pending = false ∧ (u.monitor m).live.gen = x.live.gen))

/-- SCALES_SAMPLE counts the value of an event source, or what a level source reads, its sum, extremes and exactly one bin,
sticking; WINDOW_BOUNDARY moves the accumulators to the result bank. ARM latches the settings and traces at once for start code
0, beginning with "trace start" and a SYNC, or sets ERR; TRACE_START, TRACE_STOP, STOP and DISARM move the event machine, those
of a time once GTIME has reached it; the bits of SELCTL read 1 once set. SELOG_SYNC, SYNCINT after the last, adds a SYNC that
starts at a multiple of 64. SELOG_FLUSH moves what the sink takes to the shelf or the host ring, wrapping, and leaves the rest;
a full sink under STOPFULL ends the trace. SELRPTR_WRITE makes room. UNLOCK is a service processor's; while locked nobody else's
jostle write is taken; expiry puts every jostle register at its reset value; gatehouse SRAM takes single-bit errors only. It
concludes that exec answers a next state with the command's own effect for: mcommit, windowBoundary, scalesSample, selArm,
selStop, selDisarm, traceStart, traceStop, selogSync, selogFlush, selrptrWrite, jostleUnlock, jostleExpiry, jinjcfgWrite. -/
def Obligations.MonitorsTracersAndInjectorsRun : Prop :=
  ∀ (s : State) (q : Req) (n m i v : Nat) (d : W32) (z : Word), inReq q = true → n < 256 → m < 576 → i < 4 →
    let still := fun (c : Instr) => exec c s = .next s
    -- monitors
    (let x := s.monitor m
     let a := x.live
     let src := fld x.cfg 0 8
     let r := (s.level m x).getD v
     let w := min r 0xFFFFFFFF
     let base := fld x.cfg 32 32
     let e := w - base
     let bin := if bit x.cfg 8 = true then (if e ≤ 1 then e else 2 * Nat.log2 e + bitsOf e (Nat.log2 e - 1) 1)
       else min 64 (e / max 1 (fld x.win 0 16))
     let up := fun (c : W32) => min 0xFFFFFFFF (c.toNat + 1)
     (bit x.cfg 9 = false → still (.scalesSample m v)) ∧
     (bit x.cfg 9 = true → Completes (exec (.scalesSample m v) s) (fun t =>
       let y := (t.monitor m).live
       t = { s with obs := t.obs } ∧ (∀ j, j ≠ m → t.monitor j = s.monitor j) ∧ 
       t.monitor m = { x with live := y, prev := if src = 6 then (s.link (4 * (m / 128) + fld x.cfg 16 2)).replays else x.prev } ∧
       (srcLevel src = false → r = v) ∧ (src = 0x26 → r = s.pwr.p1) ∧ (src = 0x25 → r = (s.domain (fld x.cfg 16 11)).mw) ∧
       y.count = a.count + 1 ∧ y.sum = a.sum + w ∧ y.max.toNat = max a.max.toNat w ∧
       y.min.toNat = (if a.count = 0 then w else min a.min.toNat w) ∧
       y.start = a.start ∧ y.short = a.short ∧ y.gen = a.gen ∧ (a.sat = true → y.sat = true) ∧
       (w < base → y.under.toNat = up a.under ∧ y.overBin = a.overBin ∧ y.bin = a.bin) ∧
       (base ≤ w → bin = 64 → y.overBin.toNat = up a.overBin ∧ y.under = a.under ∧ y.bin = a.bin) ∧
       (base ≤ w → bin ≠ 64 → y.under = a.under ∧ y.overBin = a.overBin ∧
         (Tab.get (0 : W32) y.bin bin).toNat = up (Tab.get (0 : W32) a.bin bin) ∧
         ∀ j, j ≠ bin → Tab.get (0 : W32) y.bin j = Tab.get (0 : W32) a.bin j))) ∧
     Completes (exec (.windowBoundary m) s) (fun t =>
       let y := t.monitor m
       t = { s with obs := t.obs } ∧ (∀ j, j ≠ m → t.monitor j = s.monitor j) ∧ y.rseq = x.rseq + 2 ∧ y.pending = false ∧
       y.res = { a with min := if a.count = 0 then 0xFFFFFFFF else a.min } ∧
       y.live.count = 0 ∧ y.live.sum = 0 ∧ y.live.bin = [] ∧ y.live.under = 0 ∧ y.live.overBin = 0 ∧ y.live.start = s.monTime m ∧
       (x.pending = false → y.cfg = x.cfg ∧ y.win = x.win ∧ y.live.short = false)) ∧
     (s.setupOpen q → bit32 d 0 = false → fwWriter q = true → still (.mcommit q m d)) ∧
     (s.setupOpen q → fwWriter q = false → exec (.mcommit q m d) s = .next (s.accessError q 0 (monBase m + 0x10) 4 true))) ∧
    -- the event machine
    (let x := s.sel n
     let a := s.awake n
     let ctl := stallBase n + 0x428
     let active := x.st = 1 ∨ x.st = 2
     let repeats := bit x.cfg 6 = true
     let begins := fun (t : State) => (t.sel n).st = 2 ∧ (t.sel n).pairs = 0 ∧ t.mem = s.mem ∧
       (x.buf = [] → x.lost = 0 → (t.sel n).buf.take 3 = [7, 6, 0] ∧
         (x.wptr.toNat % 64 = 0 → ((t.sel n).buf.drop 64).take 3 = [0x01, 0x53, 0x4C]))
     (s.blockOpen q n →
      (active → exec (.selArm q n) s = .next (a.orRw32 ctl 1)) ∧
      (¬ active → s.selSink n = none → exec (.selArm q n) s = .next ((a.orRw32 ctl 1).updSel n (fun y => { y with err := true }))) ∧
      (∀ b, ¬ active → s.selSink n = some b → Completes (exec (.selArm q n) s) (fun t =>
        let y := t.sel n
        let r := fun (o : Nat) => s.rw64 (stallBase n + o)
        y.err = false ∧ y.cfg = r 0x400 ∧ y.trig = r 0x408 ∧ y.stopAt = r 0x410 ∧ y.sink = r 0x418 ∧ y.hoff = r 0x420 ∧ y.base = b ∧
        (∀ k, t.thread n k = s.thread n k) ∧ (fld y.cfg 8 2 = 0 → begins t) ∧
        (fld y.cfg 8 2 ≠ 0 → y.st = 1 ∧ y.buf = x.buf ∧ ∀ j, j ≠ n → t.stall j = s.stall j))) ∧
      (¬ active → exec (.selStop q n) s = .next (a.orRw32 ctl 2)) ∧
      (active → Completes (exec (.selStop q n) s) (fun t => (¬ repeats → (t.sel n).st = 3) ∧
        (repeats → (t.sel n).st = if fld x.cfg 8 2 = 0 then 2 else 1) ∧ ∀ k, t.thread n k = s.thread n k)) ∧
      exec (.selDisarm q n) s = .next ((s.updStall n (fun y => { y with
        gated := false
        sel := { y.sel with st := 0, buf := [], lost := 0, open_ := [], last := [], rep := [] } })).orRw32 ctl 4) ∧
      (x.buf.length < 2048 → x.st ≠ 3 ∨ x.buf = [] →
        exec (.selrptrWrite q n z) s = .next (a.updSel n (fun y => { y with rptr := z }))) ∧
      Completes (exec (.selrptrWrite q n z) s) (fun t => (t.sel n).rptr = z ∧ ∀ k, t.thread n k = s.thread n k)) ∧
     (let gt := s.copyTime (n / 64) s.time
      let starts := x.st = 1 ∧ (fld x.cfg 8 2 = 3 → x.trig.toNat ≤ gt)
      (¬ starts → still (.traceStart n)) ∧ (starts → Completes (exec (.traceStart n) s) begins)) ∧
     (let c := fld x.cfg 10 3
      let stops := x.st = 2 ∧ c ≠ 0 ∧ (c = 3 → x.stopAt.toNat ≤ x.pairs) ∧
        (c = 4 → x.stopAt.toNat ≤ s.copyTime (n / 64) s.time)
      (¬ stops → still (.traceStop n)) ∧
      (stops → Completes (exec (.traceStop n) s) (fun t => (¬ repeats → (t.sel n).st = 3) ∧
        (repeats → (t.sel n).st = if fld x.cfg 8 2 = 0 then 2 else 1) ∧ ∀ k, t.thread n k = s.thread n k))) ∧
     (let late := x.sync + 4096 * max 1 (fld x.cfg 16 16) ≤ s.cycle n
      (x.st ≠ 2 ∨ ¬ late → still (.selogSync n)) ∧
      (x.st = 2 → late → (s.syncBytes n).length ≤ 4096 - x.buf.length → (x.wptr.toNat + x.buf.length + (s.syncBytes n).length) % 64 = 25 ∧
       exec (.selogSync n) s = .next (s.updSel n (fun y => { y with
         buf := y.buf ++ s.syncBytes n
         cyc := s.cycle n
         sync := s.cycle n })))) ∧
     -- the sinks
     (let due := (2048 ≤ x.buf.length ∨ x.st = 3) ∧ ((s.stall n).porter 1).busy = false ∧ (s.stall n).saving = false ∧ (s.stall n).halting = false
      let size := 2 ^ fld x.sink 26 5
      let room := if bit x.cfg 4 = true ∨ bit x.cfg 5 = true then size - (x.wptr.toNat - x.rptr.toNat) else x.buf.length
      let k := min x.buf.length room
      let place := fun (j : Nat) => x.base + (x.wptr.toNat + j) % size
      (¬ due → still (.selogFlush n)) ∧
      (due → x.st = 2 → bit x.cfg 5 = true → bit x.cfg 4 = false → k < x.buf.length → ¬ repeats →
        Completes (exec (.selogFlush n) s) (fun t => (t.sel n).st = 3)) ∧
      (due → x.lost = 0 → x.st = 3 ∨ bit x.cfg 5 = false → k ≤ size →
        (bit x.cfg 4 = false → size ≤ 2097152 → (∀ b, NSet.has s.mem.shelfPois (shelfAddr n b / 8) = false) →
          Completes (exec (.selogFlush n) s) (fun t =>
            t = { s.updSel n (fun y => { y with buf := y.buf.drop k, wptr := y.wptr + BitVec.ofNat 64 k }) with mem := t.mem } ∧
            (∀ j < k, Mem.rd t.mem.shelf (shelfAddr n (place j)) = x.buf.getD j 0) ∧
            (∀ b, (∀ j < k, b ≠ shelfAddr n (place j)) → Mem.rd t.mem.shelf b = Mem.rd s.mem.shelf b) ∧
            t.mem.slice = s.mem.slice ∧ t.mem.far = s.mem.far ∧ t.mem.host = s.mem.host)) ∧
        (bit x.cfg 4 = true → s.bme (s.fnOf ((s.pitchOf n).getD 0)) = true → Completes (exec (.selogFlush n) s) (fun t =>
            t = { s.updSel n (fun y => { y with buf := y.buf.drop k, wptr := y.wptr + BitVec.ofNat 64 k }) with mem := t.mem } ∧
            (∀ j < k, Mem.rd t.mem.host (place j) = x.buf.getD j 0) ∧
            (∀ b, (∀ j < k, b ≠ place j) → Mem.rd t.mem.host b = Mem.rd s.mem.host b) ∧
            t.mem.slice = s.mem.slice ∧ t.mem.far = s.mem.far ∧ t.mem.shelf = s.mem.shelf))))) ∧
    -- jostle
    (s.setupOpen q →
      let open_ := s.unlocked = true ∧ ∀ p, q ≠ .ld p
      let takes := open_ ∨ (reqIsSp q = true ∧ bit32 d 0 = true)
      let cfg := z &&& 0xFFFF01FFFFFFFF7F
      let good := fld z 0 4 = 8 → bit z 16 = false ∧ bit z 40 = false
      (¬ takes → exec (.jostleUnlock q d) s = .next (s.accessError q 0 0x380000 4 true)) ∧
      (takes → Completes (exec (.jostleUnlock q d) s) (fun t => t = { s with setup := t.setup } ∧
        t.unlocked = (if reqIsSp q = true then bit32 d 0 else s.unlocked) ∧ fld32 (t.rw32 0x380000) 8 8 = fld32 d 8 8 ∧
        ∀ o, o / 4 ≠ 0xE0000 → t.rw32 o = s.rw32 o)) ∧
      (¬ (open_ ∧ good) → exec (.jinjcfgWrite q i z) s = .next (s.accessError q 0 (injOff i) 8 true)) ∧
      (open_ ∧ good → Completes (exec (.jinjcfgWrite q i z) s) (fun t => t = { s with setup := t.setup } ∧ t.rw64 (injOff i) = cfg ∧
        ∀ o, o / 4 ≠ injOff i / 4 → o / 4 ≠ injOff i / 4 + 1 → t.rw32 o = s.rw32 o))) ∧
    Completes (exec .jostleExpiry s) (fun t => t = { s with setup := t.setup, obs := { s.obs with inj := [] } } ∧
      (∀ o, 0x380000 ≤ o → o < 0x381000 → t.rw32 o = rwReset o) ∧ (∀ o, o < 0x380000 ∨ 0x381000 ≤ o → t.rw32 o = s.rw32 o))

/-- An access of a bad size is recorded and a read of it answers Unsupported Request. A read the requester may not make answers 0; a
64-bit read returns the register, a low-half read latches the high half, which a high-half read then returns; an overrun or
error count clears as it is read. A write the requester may not make changes nothing and is recorded once; read-only registers
ignore it; table, map, ring, window and doorbell writes act. A crier write sets the register of every stall of its set, and with
one stall is that stall's own; a crier read returns the lowest one's. Messages over MCTP do the same for the active platform
member and answer status 0, 0x20 or 0x22, recording no error. Training, configuration requests and decoder commits answer: the
identity, BARs of their size, Memory_Active and two decoders are read there, and Bus Master Enable cleared. A decoder gives the
device its chunks of an interleaved range in order. A served CXL.mem read returns the granule, zeros where never written, poison
where unreadable or unbacked; a write stores 64 bytes or those enabled, and nothing else. It concludes that exec answers a next
state with the command's own effect for: readClear, lowHalfRead, setupRegisterWrite, barAccessBadSize, linkTraining,
hdmDecoderCommit, cxlMemRead, cxlMemWrite, memWrPtl, crierWrite, crierRead, regRead, regWriteMsg, configurationRequest. -/
def Obligations.RegistersAndPortsAnswer : Prop :=
  ∀ (s : State) (q : Req) (bar off size bytes n p r dec ld : Nat) (wr apn sw rs : Bool) (v : Word) (f : Find) (d : HdmSet) (data : Row) (be : Word)
    (sq : Byte) (cv : W32), inReq q = true → inBar bar off = true → n < 256 → p < 16 → r < 64 → dec < 2 → ld < 16 →
    let still := fun (c : Instr) => exec c s = .next s
    let reads := fun (c : Instr) (w : Word) => Completes (exec c s) (fun t => t.out = .reg w ∧ t.setup = s.setup ∧ t.mem = s.mem ∧ t.rings.items = s.rings.items)
    let reach := s.isReq q = true ∧ (bar = 0 ∨ reqIsHost q = true)
    let wr0 := fun (o z : Nat) (x : Word) => Instr.setupRegisterWrite q 0 o z x f
    let plain := inCrier off = false
    -- bad accesses
    (¬ reach → still (.readClear q bar off size) ∧ still (.lowHalfRead q bar off) ∧ still (.barAccessBadSize q bar off bytes wr) ∧
      (s.isReq q = true → still (.setupRegisterWrite q bar off size v f))) ∧
    (s.isReq q = false → exec (.setupRegisterWrite q bar off size v f) s = .next (s.foreignWrite q) ∧
      ((∀ i, q = .sp i → (s.sp i).role ≠ 2) → s.foreignWrite q = s) ∧ (s.foreignWrite q).setup = s.setup ∧ (s.foreignWrite q).mem = s.mem) ∧
    (goodSize off bytes = true → still (.barAccessBadSize q bar off bytes wr)) ∧
    (reach → goodSize off bytes = false →
      let e := fun (w : Bool) => s.accessError q bar off bytes w
      exec (.barAccessBadSize q bar off bytes true) s = .next (e true) ∧
      exec (.barAccessBadSize q bar off bytes false) s = .next { e false with out := .ur } ∧
      exec (.readClear q bar off bytes) s = .next { e false with out := .ur } ∧
      (bar ≠ 0 ∨ plain → exec (.setupRegisterWrite q bar off bytes v f) s = .next (e true)) ∧
      ((e wr).reqSt q).cnt.toNat = min 0xFFFFFFFF ((s.reqSt q).cnt.toNat + 1) ∧
      ((s.reqSt q).cnt ≠ 0 → ((e wr).reqSt q).info = (s.reqSt q).info) ∧ (e wr).setup = s.setup ∧ (e wr).mem = s.mem ∧
      ((s.reqSt q).cnt = 0 → ((e wr).reqSt q).info = pack [(off, 0, 26), (ofBool wr, 26, 1), (sizeCode bytes, 27, 3), (barCode bar, 30, 2)])) ∧
    -- reads
    (s.isReq q = true → plain → off < 0x4000000 →
      (goodSize off size = true → s.mayRead q off = false → (size = 8 → s.mayRead q (off + 4) = false) → exec (.readClear q 0 off size) s = .next { s with out := .reg 0 }) ∧
      (s.mayRead q off = true → off % 4 = 0 →
        (s.regWide q (off / 8 * 8) = none → reads (.lowHalfRead q 0 off) (((s.regNarrow q off).getD 0).setWidth 64)) ∧
        (∀ w, off % 8 = 0 → s.regWide q off = some w → reads (.readClear q 0 off 8) w ∧
          Completes (exec (.readClear q 0 off 8) s) (fun t => Tab.get 0 t.shadow (shadowKey q 0 off) = (w >>> 32).setWidth 32) ∧
          Completes (exec (.lowHalfRead q 0 off) s) (fun t => t.out = .reg (w &&& 0xFFFFFFFF) ∧
            Tab.get 0 t.shadow (shadowKey q 0 off) = (w >>> 32).setWidth 32)) ∧
        (∀ w, off % 8 = 4 → s.regWide q (off - 4) = some w →
          exec (.lowHalfRead q 0 off) s = .next { s with out := .reg ((Tab.get 0 s.shadow (shadowKey q 0 (off - 4))).setWidth 64) }))) ∧
    (s.setupOpen q → reqIsSp q = true ∨ q = .host →
      reads (.readClear q 0 0x28 4) ((s.reqSt q).cnt.setWidth 64) ∧
      Completes (exec (.readClear q 0 0x28 4) s) (fun t => (t.reqSt q).cnt = 0) ∧
      Completes (exec (.readClear q 0 0x6000 4) s) (fun t => t.integ = { s.integ with overrun := 0 }) ∧
      Completes (exec (.readClear q 0 0x202180 4) s) (fun t => t.pwr = { s.pwr with overrun := 0 }) ∧
      Completes (exec (.readClear q 0 0x20C500 4) s) (fun t => t.cool = { s.cool with overrun := 0 }) ∧
      Completes (exec (.readClear q 0 0x100 8) s) (fun t => t.out = .reg (BitVec.ofNat 64 s.time))) ∧
    -- writes
    (s.setupOpen q →
      (plain → bar = 0 → goodSize off size = true → s.mayWrite q off = false → exec (wr0 off size v) s = .next (s.accessError q 0 off size true)) ∧
      (reqIsSp q = true ∨ q = .host → still (wr0 0 8 v) ∧ still (wr0 8 8 v) ∧ still (wr0 0x100 8 v) ∧
        (s.ptWriter q = false → exec (wr0 (0x102000 + 4 * n) 4 v) s = .next (s.accessError q 0 (0x102000 + 4 * n) 4 true)) ∧
        (s.ptWriter q = true → Completes (exec (wr0 (0x102000 + 4 * n) 4 v) s) (fun t => t = { s with pt := t.pt } ∧ t.pt.active = s.pt.active ∧
          t.pt.shadow.mapOf n = v.setWidth 32 &&& 0xFFF1 ∧ ∀ m, m ≠ n → t.pt.shadow.mapOf m = s.pt.shadow.mapOf m))) ∧
      (reqIsHost q = true → ∀ k i, k < msixCount q → i < 3 →
        Completes (exec (wr0 (0xF0000 + 16 * k + 4 * i) 4 v) s) (fun t => t = { s with port := t.port } ∧
          s.msixDw (msixFn q) k 3 = t.msixDw (msixFn q) k 3 ∧
          t.msixDw (msixFn q) k i = if i = 0 then v.setWidth 32 &&& 0xFFFFFFFC else v.setWidth 32)) ∧
      (let b := 0x180000 + 0x8000 * p + 0x100 * r
       (∀ j, q = .ld j → j = p) →
        ((s.ring p r).enable = true → still (wr0 b 8 v) ∧ still (wr0 (b + 8) 8 v)) ∧
        Completes (exec (wr0 (b + 0x10) 4 v) s) (fun t => t = { s with setup := t.setup } ∧
         t.rw32 (b + 0x10) = (if (s.ring p r).enable = true then (v.setWidth 32 &&& 0xFFFFFF00) ||| (s.rw32 (b + 0x10) &&& 0x1F)
           else v.setWidth 32 &&& 0xFFFFFF1F) ∧ ∀ o, o / 4 ≠ b / 4 + 4 → t.rw32 o = s.rw32 o)) ∧
      (q = .host → (size = 4 ∨ size = 8) →
        let w := fun (o z : Nat) => Instr.setupRegisterWrite .host 4 (0x40000 * p + 0x1000 * r + o) z v f
        exec (.setupRegisterWrite .host 2 (0x1000 * p + 8 * r) size v f) s = exec (.tailDoorbell .host p r (v.setWidth 32) []) s ∧
        exec (.setupRegisterWrite .host 2 (0x1000 * p + 0x200 + 8 * r) size v f) s = exec (.headDoorbell .host p r (v.setWidth 32)) s ∧
        exec (w 0x38 size) s = (if s.windowMode p = true then exec (.wabort .host p r (v.setWidth 32)) s else .next s) ∧
        (s.windowMode p = false → still (w 0 8)) ∧
        (s.windowMode p = true → (s.slot p r).busy = true → exec (w 0 8) s = .next (s.winErr p) ∧ exec (w 0x28 8) s = .next (s.winErr p)) ∧
        (s.windowMode p = true → (s.slot p r).busy = false → exec (w 0 8) s = .next (s.updSlot p r (fun x => { x with target := v })) ∧
          exec (w 0x10 8) s = .next (s.updSlot p r (fun x => { x with value := v }))) ∧
        (s.windowMode p = true → reads (.readClear .host 4 (0x40000 * p + 0x1000 * r + 0x30) 8) (s.slot p r).result))) ∧
    -- criers
    (s.setupOpen q → inCrier off = true → goodSize off size = true →
      (s.crierAt off = none → still (.crierWrite q off size v) ∧ exec (.crierRead q off size) s = .next { s with out := .reg 0 }) ∧
      (∀ l x, s.crierAt off = some (l, x) →
        (s.crierOk q x size = false → exec (.crierWrite q off size v) s = .next (s.accessError q 0 off size true)) ∧
        (s.crierSet q l = [] → exec (.crierRead q off size) s = .next { s with out := .reg 0 } ∧
          (s.crierOk q x size = true → still (.crierWrite q off size v))) ∧
        (∀ m t, s.crierSet q l = [m] → s.crierOk q x size = true → s.tryWrite q {} (stallBase m + x) size v = some t →
          exec (.crierWrite q off size v) s = .next t) ∧
        (∀ m l', s.crierSet q l = m :: l' → size = 4 → s.stallWide m (x / 8 * 8) = none →
          exec (.crierRead q off 4) s = .next { s.awake m with out := .reg ((s.stallDword m x).setWidth 64) }))) ∧
    (s.setupOpen q → Completes (exec (.crierWrite q 0x3C00310 4 v) s) (fun t =>
      (∀ m < 256, m ∈ s.crierSet q allStalls → t.rw32 (stallPwrOff m) = v.setWidth 32 &&& 0xFF04) ∧
      (∀ m < 256, m ∉ s.crierSet q allStalls → t.rw32 (stallPwrOff m) = s.rw32 (stallPwrOff m)) ∧ t.mem = s.mem)) ∧
    -- over MCTP
    (s.platform = none → still (.regRead sq off size rs) ∧ still (.regWriteMsg sq off size v rs f)) ∧
    (∀ i, s.platform = some i →
      let ok := regFormat off size rs
      let can := s.regReach (.sp i) off size
      let answer := fun (st : Nat) (w : Word) => Msg.mctp 0x22 (toLE 1 0x22 ++ [sq] ++ zeros 2 ++ toLE 1 st ++ zeros 7 ++ toLE 8 w.toNat)
      let tells := fun (c : Instr) (st : Nat) => exec c s = .next { s with outbox := s.outbox ++ [answer st 0] }
      (ok = false → tells (.regRead sq off size rs) 0x20 ∧ tells (.regWriteMsg sq off size v rs f) 0x20) ∧
      (ok = true → can = false → tells (.regRead sq off size rs) 0x22 ∧ tells (.regWriteMsg sq off size v rs f) 0x22) ∧
      (∀ w, ok = true → can = true → plain → size = 3 → s.mayRead (.sp i) off = true → s.regWide (.sp i) off = some w →
        Completes (exec (.regRead sq off size rs) s) (fun t => t.outbox = s.outbox ++ [answer 0 w] ∧ t.out = s.out ∧ t.setup = s.setup ∧
          t.mem = s.mem)) ∧
      (ok = true → can = true → plain →
        (s.tryWrite (.sp i) f off (2 ^ size) v = none → tells (.regWriteMsg sq off size v rs f) 0x22) ∧
        (∀ t, s.tryWrite (.sp i) f off (2 ^ size) v = some t →
          exec (.regWriteMsg sq off size v rs f) s = .next { t with outbox := t.outbox ++ [answer 0 0] }))) ∧
    -- the host port
    (let good := s.boot.phase ≠ 0 ∧ (n = 1 ∨ n = 2 ∨ n = 4 ∨ n = 8 ∨ n = 16) ∧ 1 ≤ r ∧ r ≤ 5
     let cxl := apn && decide (3 ≤ r)
     (¬ good → still (.linkTraining n r apn sw)) ∧
     (good → exec (.linkTraining n r apn sw) s = .next { s with port := { s.port with
        width := n, speed := r, cxl := cxl, pcieOnly := !cxl, mld := cxl && sw
        hdm := if cxl = true then s.port.hdm else [] } })) ∧
    (s.boot.pwrgd = false → still (.configurationRequest ld off (if wr = true then some cv else none))) ∧
    (s.boot.pwrgd = true →
      (s.boot.phase = 0 → exec (.configurationRequest ld off (if wr = true then some cv else none)) s = .next { s with out := .crs }) ∧
      (s.boot.phase ≠ 0 → s.isFn ld = false → exec (.configurationRequest ld off (if wr = true then some cv else none)) s = .next { s with out := .ur }) ∧
      (s.boot.phase ≠ 0 → s.isFn ld = true →
        exec (.configurationRequest ld 0 none) s = .next { s.used with out := .reg (Config.ident &&& 0xFFFFFFFF) } ∧
        exec (.configurationRequest ld off none) s = .next { s.used with out := .reg ((s.cfgDword ld (off % 4096 / 4 * 4)).setWidth 64) } ∧
        (∀ i < 3, s.cfgHeader ld (0x10 + 8 * i) &&& 0xF = 4 ∧ ∀ a, (barLow cv (s.barBytes i)).getLsbD a = true → a = 2 ∨ 2 ^ a ≥ s.barBytes i) ∧
        bit32 (s.cfgDvsec ld 0x1C) 1 = s.port.memActive ∧ bit32 (s.cfgDvsec ld 0x2C) 1 = s.port.memActive ∧ fld32 (s.cfgDvsec ld 8) 20 2 = 2 ∧
        (bit32 cv 2 = false → Completes (exec (.configurationRequest ld 4 (some cv)) s) (fun t =>
          s.bme ld = true → t.bme ld = false ∧ t.mem = s.mem ∧ t.rings = s.rings)) ∧
        (∀ i < 3, off = 0x10 + 8 * i → off ≠ Config.capBase 0 + 8 → Completes (exec (.configurationRequest ld off (some cv)) s) (fun t =>
          t = { s with port := t.port, out := .none } ∧ t.cfgHeader ld off = barLow cv (s.barBytes i))))) ∧
    (let here := s.port.cxl = true ∧ s.isLd ld = true
     let locked := ∃ x, Tab.find s.port.hdm (2 * ld + dec) = some x ∧ x.lock = true
     (¬ here → still (.hdmDecoderCommit ld dec d)) ∧
     (here → locked ∨ s.hdmOk ld d = false → exec (.hdmDecoderCommit ld dec d) s = .next { s with out := .resp 1 [] }) ∧
     (here → ¬ locked → s.hdmOk ld d = true → exec (.hdmDecoderCommit ld dec d) s = .next { s with
        port := { s.port with hdm := Tab.set s.port.hdm (2 * ld + dec) d }
        out := .resp 0 [] })) ∧
    -- CXL.mem
    (s.cxlServed ld = false ∨ s.hpaDpa ld off = none →
      still (.cxlMemRead ld off) ∧ still (.cxlMemWrite ld off data) ∧ still (.memWrPtl ld off data be)) ∧
    (Tab.find s.port.hdm (2 * ld) = some d → 0 < d.gran → 0 < d.ways → ∀ k < d.size,
      s.hpaDpa ld (d.hpa + k / d.gran * (d.gran * d.ways) + k % d.gran) = some (d.base + k)) ∧
    (∀ b, s.cxlServed ld = true → s.hpaDpa ld off = some b →
      let a := b / 64 * 64
      let pl := s.placeDpa ld a
      let rl := s.loadOf pl false
      let wl := s.loadOf pl true
      rl < 4 ∧ wl < 4 ∧
      (s.backed pl = false →
        Completes (exec (.cxlMemRead ld off) s) (fun t => t.out = .line 0 true 0 ∧ t.mem = s.mem) ∧
        Completes (exec (.cxlMemWrite ld off data) s) (fun t => t.out = .resp 0 [] ∧ t.mem = s.mem) ∧
        Completes (exec (.memWrPtl ld off data be) s) (fun t => t.out = .resp 0 [] ∧ t.mem = s.mem)) ∧
      (s.backed pl = true →
        ((s.placeFault pl 64).isSome = true → Completes (exec (.cxlMemRead ld off) s) (fun t =>
          t.out = .line 0 true (if s.placeValid pl = true then rl else 0) ∧ t.mem = s.mem ∧ (ld, a) ∈ t.port.poison)) ∧
        (s.placeFault pl 64 = none → s.placeValid pl = false →
          exec (.cxlMemRead ld off) s = .next { s.cxlTouch pl false with out := .line 0 false 0 }) ∧
        (s.placeFault pl 64 = none → s.placeValid pl = true →
          exec (.cxlMemRead ld off) s = .next { s.cxlTouch pl false with out := .line (rowOf (s.rdPlace pl 64)) false rl }) ∧
        (s.placeHeld pl = true → Completes (exec (.cxlMemWrite ld off data) s) (fun t => t.mem = s.mem ∧ t.out = .resp wl []) ∧
          Completes (exec (.memWrPtl ld off data be) s) (fun t => t.mem = s.mem ∧ t.out = .resp wl [])) ∧
        (s.placeHeld pl = false → s.placeHeld (pl.plus 32) = false →
          let else_ := fun (t : State) => t.out = .resp wl [] ∧ t.placeFault pl 64 = none ∧ t.mem.host = s.mem.host ∧ t.mem.shelf = s.mem.shelf ∧
            (∀ b, (∀ m o, pl = .slice m o → b < unit256 * m + o ∨ unit256 * m + o + 64 ≤ b) → Mem.rd t.mem.slice b = Mem.rd s.mem.slice b) ∧
            ∀ b, (∀ o, pl = .far o → b < o ∨ o + 64 ≤ b) → Mem.rd t.mem.far b = Mem.rd s.mem.far b
          Completes (exec (.cxlMemWrite ld off data) s) (fun t => else_ t ∧ t.rdPlace pl 64 = rowBytes data ∧ t.placeValid pl = true ∧
            (ld, a) ∉ t.port.poison) ∧
          (s.placeFault pl 64 = none → Completes (exec (.memWrPtl ld off data be) s) (fun t => else_ t ∧
            ∀ j < 64, (t.rdPlace pl 64).getD j 0 = if bit be j = true then (rowBytes data).getD j 0 else (s.rdPlace pl 64).getD j 0)))))

/-- A logical device without a mailbox is not heard; in recovery these commands are unsupported. Event records are returned and the
oldest n cleared, no other; the interrupt policy reads as set. SET_TIMESTAMP makes the calendar the host's time, so that
GET_TIMESTAMP returns it, and clears UNSYNCED. GET_LOG returns bytes of the Command Effects Log alone. INJECT_POISON makes a
backed granule unreadable and lists it; CLEAR_POISON stores the data, makes it readable and takes it off the list, and stores
nothing else. Any opcode not listed is unsupported. GET_LD_INFO and GET_LD_ALLOCATIONS report the active table;
SET_LD_ALLOCATIONS and SET_QOS_CONTROL are unsupported and change nothing. Return codes and payload layouts are the model's (log
entries 28, 29). It concludes that exec answers a next state with the command's own effect for: getEventRecords,
clearEventRecords, getEventInterruptPolicy, setEventInterruptPolicy, getFwInfo, getTimestamp, setTimestamp, getSupportedLogs,
getLog, identifyMemoryDevice, getHealthInfo, getPoisonList, injectPoison, clearPoison, unsupportedMailboxCommand, getLdInfo,
getLdAllocations, getQosControl, setLdAllocations, setQosControl. -/
def Obligations.MailboxAndFabricManagerAnswer : Prop :=
  ∀ (s : State) (ld log n dpa len off opcode : Nat) (pol : W32) (ns : Word) (cel : Bool) (data : Row), ld < 16 →
    let still := fun (c : Instr) => exec c s = .next s
    let tells := fun (c : Instr) (rc : Nat) (d : List Byte) => exec c s = .next { s with out := .mbox rc d }
    let has := s.hasMbox ld = true
    let here := has ∧ s.fw.recovery = false
    let both := fun (P : Instr → Prop) =>
      P (.getEventRecords ld log) ∧ P (.clearEventRecords ld log n) ∧ P (.getEventInterruptPolicy ld) ∧ P (.setEventInterruptPolicy ld pol) ∧
      P (.getFwInfo ld) ∧ P (.getTimestamp ld) ∧ P (.setTimestamp ld ns) ∧ P (.getSupportedLogs ld) ∧ P (.getLog ld cel off len) ∧
      P (.identifyMemoryDevice ld) ∧ P (.getHealthInfo ld) ∧ P (.getPoisonList ld dpa len) ∧ P (.injectPoison ld dpa) ∧ P (.clearPoison ld dpa data)
    (¬ has → both still ∧ still (.unsupportedMailboxCommand ld opcode)) ∧
    (has → s.fw.recovery = true → both (fun c => tells c 3 [])) ∧
    (has → ¬ (opcode = 0x201 ∨ opcode = 0x202 ∨ opcode ∈ s.celRows.map Prod.fst) → tells (.unsupportedMailboxCommand ld opcode) 3 []) ∧
    (here →
      -- event logs
      (3 < log → tells (.getEventRecords ld log) 2 [] ∧ tells (.clearEventRecords ld log n) 2 []) ∧
      (log ≤ 3 →
        let l := s.recsOf ld log
        tells (.getEventRecords ld log) 0 (toLE 2 l.length ++ l.flatMap (fun r => toLE 2 r.handle ++ r.ent.bytes)) ∧
        (l.length < n → tells (.clearEventRecords ld log n) 0xE []) ∧
        (n ≤ l.length → Completes (exec (.clearEventRecords ld log n) s) (fun t =>
          t = { s with port := { s.port with recs := t.port.recs }, out := .mbox 0 [] } ∧
          ∀ r, r ∈ t.port.recs ↔ r ∈ s.port.recs ∧ r ∉ l.take n))) ∧
      tells (.getEventInterruptPolicy ld) 0 (toLE 4 (Tab.get (0 : W32) s.port.policy ld).toNat) ∧
      ((∃ i < 4, 2 ≤ fld32 pol (8 * i) 2) → tells (.setEventInterruptPolicy ld pol) 2 []) ∧
      ((∀ i < 4, fld32 pol (8 * i) 2 < 2) → Completes (exec (.setEventInterruptPolicy ld pol) s) (fun t =>
        t = { s with port := { s.port with policy := t.port.policy }, out := .mbox 0 [] } ∧
        (∀ k, k ≠ ld → Tab.get (0 : W32) t.port.policy k = Tab.get (0 : W32) s.port.policy k) ∧
        Completes (exec (.getEventInterruptPolicy ld) t) (fun u => u.out = .mbox 0 (toLE 4 pol.toNat)))) ∧
      -- firmware, calendar, logs
      tells (.getFwInfo ld) 0 ([4] ++ [if s.fw.gslot.isSome = true then BitVec.ofNat 8 (s.fw.gslot.getD 0 + 1) else 255] ++
        [if s.fw.jslot.isSome = true then BitVec.ofNat 8 (s.fw.jslot.getD 0 + 3) else 255] ++
        [0, 1, 2, 3].flatMap (fun i => toLE 4 (imgVersion (flashAt (s.imageOf i) 0 512)))) ∧
      tells (.getTimestamp ld) 0 (toLE 8 ((s.time : Int) + s.ledger.offset).toNat) ∧
      Completes (exec (.setTimestamp ld ns) s) (fun t => t = { s with ledger := t.ledger, out := .mbox 0 [] } ∧ t.calendar = ns.toNat ∧
        t.ledger.unsynced = false ∧ t.ledgerAt 0x60 = ns.toNat ∧ (∀ o, o / 8 ≠ 12 → t.ledgerAt o = s.ledgerAt o) ∧
        Completes (exec (.getTimestamp ld) t) (fun u => u.out = .mbox 0 (toLE 8 ns.toNat))) ∧
      tells (.getSupportedLogs ld) 0 (toLE 2 1 ++ celUuid ++ toLE 4 s.celBytes.length) ∧
      (cel = false ∨ s.celBytes.length < off + len → tells (.getLog ld cel off len) 2 []) ∧
      (cel = true → off + len ≤ s.celBytes.length → Completes (exec (.getLog ld cel off len) s) (fun t => t = { s with out := t.out } ∧
        ∃ d, t.out = .mbox 0 d ∧ d.length = len ∧ ∀ i < len, d.getD i 0 = s.celBytes.getD (off + i) 0)) ∧
      -- the memory device
      (s.port.mld = false → tells (.identifyMemoryDevice ld) 0
        (toLE 8 (((List.range 256).map s.usableOf).foldl (· + ·) 0 + unit256 * s.far.usable) ++ toLE 8 0)) ∧
      (s.port.mld = true → tells (.identifyMemoryDevice ld) 0 (toLE 8 (s.volatileBytes ld) ++ toLE 8 0)) ∧
      Completes (exec (.getHealthInfo ld) s) (fun t => ∃ d : Int, t = { s with out := .mbox 0 (toLE 2 ((d / 100) % 65536).toNat) } ∧
        (∃ h < 4, d = (s.hall h).diode) ∧ ∀ h < 4, (s.hall h).diode ≤ d) ∧
      (let l := s.port.poison.filter (fun x => x.1 = ld && decide (dpa ≤ x.2 ∧ x.2 < dpa + len))
       tells (.getPoisonList ld dpa len) 0 (toLE 2 l.length ++ l.flatMap (fun x => toLE 8 x.2))) ∧
      (let pl := s.placeDpa ld dpa
       (dpa % 64 ≠ 0 → tells (.injectPoison ld dpa) 2 [] ∧ tells (.clearPoison ld dpa data) 2 []) ∧
       (dpa % 64 = 0 → s.backed pl = false → tells (.injectPoison ld dpa) 0xF [] ∧ tells (.clearPoison ld dpa data) 0xF []) ∧
       (dpa % 64 = 0 → s.backed pl = true →
        let rest := fun (t : State) =>
          (∀ b, (∀ m o, pl = .slice m o → b < unit256 * m + o ∨ unit256 * m + o + 64 ≤ b) → Mem.rd t.mem.slice b = Mem.rd s.mem.slice b) ∧
          (∀ b, (∀ o, pl = .far o → b < o ∨ o + 64 ≤ b) → Mem.rd t.mem.far b = Mem.rd s.mem.far b) ∧
          t.mem.host = s.mem.host ∧ t.mem.shelf = s.mem.shelf ∧ t.out = .mbox 0 []
        Completes (exec (.injectPoison ld dpa) s) (fun t => rest t ∧ (ld, dpa) ∈ t.port.poison ∧ (t.placeFault pl 64).isSome = true ∧
          ∀ x, x ≠ (ld, dpa) → (x ∈ t.port.poison ↔ x ∈ s.port.poison)) ∧
        (s.placeHeld pl = true → tells (.clearPoison ld dpa data) 0x11 []) ∧
        (s.placeHeld pl = false → s.placeHeld (pl.plus 32) = false → Completes (exec (.clearPoison ld dpa data) s) (fun t => rest t ∧
          t.rdPlace pl 64 = rowBytes data ∧ t.placeFault pl 64 = none ∧ (ld, dpa) ∉ t.port.poison ∧
          ∀ x, x ≠ (ld, dpa) → (x ∈ t.port.poison ↔ x ∈ s.port.poison)))))) ∧
    -- the Fabric Manager
    (s.boot.phase ≠ 9 → still .getLdInfo ∧ still .getLdAllocations ∧ still .getQosControl ∧ still .setLdAllocations ∧ still .setQosControl) ∧
    (s.boot.phase = 9 →
      tells .getLdInfo 0 (toLE 2 16 ++ (List.range 16).flatMap (fun p => toLE 8 (s.ldBytes p))) ∧
      tells .getLdAllocations 0 (toLE 1 16 ++ (List.range 16).flatMap (fun p =>
        toLE 8 (s.pt.active.stallsOf p).length ++ toLE 8 (s.pt.active.farsize p))) ∧
      tells .setLdAllocations 3 [] ∧ tells .setQosControl 3 [] ∧
      Completes (exec .getQosControl s) (fun t => (∃ d, t.out = .mbox 0 d ∧ d.length = 8) ∧ t = { s with out := t.out, freeCtr := t.freeCtr }))
end

