-- ==== Sys2Proof/Laws/Tab.lean ====
section
/-!
SUPPORT. Laws of the sparse tables and of byte memory: what a read gives after a write, and that every memory operation keeps
the canonical form.
-/
namespace Sys2Proof.Machine

/-! ## Tables -/

@[simp] theorem Tab.find_set_same {α : Type} (t : Tab α) (a : Nat) (v : α) : Tab.find (Tab.set t a v) a = some v := by
  induction t with
  | nil => simp [Tab.set, Tab.find]
  | cons e t ih =>
    obtain ⟨k, w⟩ := e
    simp only [Tab.set]
    split
    · simp [Tab.find]
    · split
      · simp [Tab.find]
      · rename_i h _
        simp [Tab.find, Ne.symm h, ih]

theorem Tab.find_set_ne {α : Type} (t : Tab α) {a b : Nat} (v : α) (h : b ≠ a) : Tab.find (Tab.set t a v) b = Tab.find t b := by
  induction t with
  | nil => simp [Tab.set, Tab.find, Ne.symm h]
  | cons e t ih =>
    obtain ⟨k, w⟩ := e
    simp only [Tab.set]
    split
    · rename_i e; subst e; simp [Tab.find, Ne.symm h]
    · split
      · simp [Tab.find, Ne.symm h]
      · simp [Tab.find, ih]

@[simp] theorem Tab.get_set_same {α : Type} (d : α) (t : Tab α) (a : Nat) (v : α) : Tab.get d (Tab.set t a v) a = v := by
  simp [Tab.get]

theorem Tab.get_set_ne {α : Type} (d : α) (t : Tab α) {a b : Nat} (v : α) (h : b ≠ a) :
    Tab.get d (Tab.set t a v) b = Tab.get d t b := by
  simp [Tab.get, Tab.find_set_ne t v h]

/-- A read of a table after a write to it. -/
theorem Tab.get_set {α : Type} (d : α) (t : Tab α) (a b : Nat) (v : α) :
    Tab.get d (Tab.set t a v) b = if b = a then v else Tab.get d t b := by
  split
  · rename_i h; subst h; simp
  · exact Tab.get_set_ne d t v ‹_›

@[simp] theorem Tab.set_set {α : Type} (t : Tab α) (a : Nat) (v w : α) : Tab.set (Tab.set t a v) a w = Tab.set t a w := by
  induction t with
  | nil => simp [Tab.set]
  | cons e t ih =>
    obtain ⟨k, x⟩ := e
    simp only [Tab.set]
    split
    · simp [Tab.set]
    · split
      · simp [Tab.set]
      · rename_i h1 h2; simp [Tab.set, h1, h2, ih]

/-! ## Bytes -/

theorem Mem.rd_filter_ne (m : Mem) {a b : Nat} (h : b ≠ a) : Mem.rd (m.filter (fun e => e.1 ≠ a)) b = Mem.rd m b := by
  induction m with
  | nil => rfl
  | cons e m ih =>
    obtain ⟨k, v⟩ := e
    by_cases hk : k = a
    · subst hk; simp [Mem.rd, Ne.symm h]; simpa using ih
    · rw [List.filter_cons_of_pos (by simpa using hk)]
      simp only [Mem.rd, ih]

theorem Mem.rd_filter_same (m : Mem) (a : Nat) : Mem.rd (m.filter (fun e => e.1 ≠ a)) a = 0 := by
  induction m with
  | nil => rfl
  | cons e m ih =>
    obtain ⟨k, v⟩ := e
    by_cases hk : k = a
    · subst hk; simpa using ih
    · simpa [List.filter_cons, hk, Mem.rd] using ih

theorem Mem.rd_put (m : Mem) (a b : Nat) (v : BitVec 8) : Mem.rd (Mem.put m a v) b = if b = a then v else Mem.rd m b := by
  induction m with
  | nil =>
    by_cases h : b = a
    · subst h; simp [Mem.put, Mem.rd]
    · simp [Mem.put, Mem.rd, h, Ne.symm h]
  | cons e m ih =>
    obtain ⟨k, w⟩ := e
    simp only [Mem.put]
    split
    · rename_i e; subst e
      by_cases h : b = a
      · subst h; simp [Mem.rd]
      · simp [Mem.rd, h, Ne.symm h]
    · split
      · by_cases h : b = a
        · subst h; simp [Mem.rd]
        · simp [Mem.rd, h, Ne.symm h]
      · rename_i h1 h2
        by_cases h : b = a
        · subst h; simp [Mem.rd, ih, Ne.symm h1]
        · simp [Mem.rd, ih, h]

/-- A read of a byte after a write of one. -/
theorem Mem.rd_wr (m : Mem) (a b : Nat) (v : BitVec 8) : Mem.rd (Mem.wr m a v) b = if b = a then v else Mem.rd m b := by
  unfold Mem.wr
  split
  · rename_i h; subst h
    by_cases hb : b = a
    · subst hb; simpa using Mem.rd_filter_same m b
    · simpa [hb] using Mem.rd_filter_ne m hb
  · exact Mem.rd_put m a b v

/-- Bytes below or above a written range read as before. -/
theorem Mem.rd_wrBytes_out (m : Mem) (a b : Nat) (l : List (BitVec 8)) (h : b < a ∨ a + l.length ≤ b) :
    Mem.rd (Mem.wrBytes m a l) b = Mem.rd m b := by
  induction l generalizing m a with
  | nil => rfl
  | cons x l ih =>
    simp only [List.length_cons] at h
    simp only [Mem.wrBytes]
    rw [ih _ _ (by omega), Mem.rd_wr, if_neg (by omega)]

/-- The bytes of a written range read as written. -/
theorem Mem.rdBytes_wrBytes (m : Mem) (a : Nat) (l : List (BitVec 8)) : Mem.rdBytes (Mem.wrBytes m a l) a l.length = l := by
  induction l generalizing m a with
  | nil => rfl
  | cons x l ih =>
    simp only [Mem.wrBytes, List.length_cons, Mem.rdBytes]
    rw [ih, Mem.rd_wrBytes_out _ _ _ _ (by omega), Mem.rd_wr, if_pos rfl]

theorem Mem.rd_clear (m : Mem) (a n b : Nat) :
    Mem.rd (Mem.clear m a n) b = if a ≤ b ∧ b < a + n then 0 else Mem.rd m b := by
  unfold Mem.clear
  induction m with
  | nil => simp [Mem.rd]
  | cons e m ih =>
    obtain ⟨k, v⟩ := e
    by_cases hk : k < a ∨ a + n ≤ k
    · rw [List.filter_cons_of_pos (by simpa using hk)]
      simp only [Mem.rd, ih]
      by_cases h : k = b
      · subst h; simp; omega
      · simp [h]
    · rw [List.filter_cons_of_neg (by simpa using hk), ih]
      by_cases h : k = b
      · subst h; have : a ≤ k ∧ k < a + n := by omega
        simp [this]
      · simp [Mem.rd, h]

/-! ## The canonical form -/

theorem Tab.sorted_iff {α : Type} (t : Tab α) : Tab.sorted t = true ↔ List.Pairwise (fun x y => x.1 < y.1) t := by
  induction t with
  | nil => simp [Tab.sorted]
  | cons e t ih =>
    obtain ⟨a, x⟩ := e
    cases t with
    | nil => simp [Tab.sorted]
    | cons f t =>
      obtain ⟨b, y⟩ := f
      rw [Tab.sorted, Bool.and_eq_true, ih]
      constructor
      · rintro ⟨h, p⟩
        refine List.Pairwise.cons ?_ p
        intro z hz
        have hab : a < b := by simpa using h
        rcases List.mem_cons.1 hz with rfl | hz
        · exact hab
        · exact Nat.lt_trans hab ((List.pairwise_cons.1 p).1 z hz)
      · intro p
        have q := List.pairwise_cons.1 p
        exact ⟨by simpa using q.1 (b, y) (by simp), q.2⟩

theorem Mem.wf_iff (m : Mem) : Mem.wf m = true ↔ List.Pairwise (fun x y => x.1 < y.1) m ∧ ∀ e ∈ m, e.2 ≠ 0 := by
  simp [Mem.wf, Tab.sorted_iff]

theorem Mem.wf_filter (m : Mem) (p : Nat × BitVec 8 → Bool) (h : Mem.wf m = true) : Mem.wf (m.filter p) = true := by
  rw [Mem.wf_iff] at h ⊢
  exact ⟨h.1.filter _, fun e he => h.2 e (List.mem_filter.1 he).1⟩

theorem Mem.mem_put (m : Mem) (a : Nat) (v : BitVec 8) (e : Nat × BitVec 8) (h : e ∈ Mem.put m a v) : e = (a, v) ∨ e ∈ m := by
  induction m with
  | nil => simpa [Mem.put] using h
  | cons f m ih =>
    obtain ⟨k, w⟩ := f
    simp only [Mem.put] at h
    split at h
    · rcases List.mem_cons.1 h with h | h
      · exact .inl h
      · exact .inr (List.mem_cons_of_mem _ h)
    · split at h
      · rcases List.mem_cons.1 h with h | h
        · exact .inl h
        · exact .inr h
      · rcases List.mem_cons.1 h with h | h
        · exact .inr (by simp [h])
        · rcases ih h with h | h
          · exact .inl h
          · exact .inr (List.mem_cons_of_mem _ h)

theorem Mem.wf_put (m : Mem) (a : Nat) (v : BitVec 8) (hv : v ≠ 0) (h : Mem.wf m = true) : Mem.wf (Mem.put m a v) = true := by
  rw [Mem.wf_iff] at h ⊢
  refine ⟨?_, ?_⟩
  · replace h := h.1
    induction m with
    | nil => simp [Mem.put]
    | cons f m ih =>
      obtain ⟨k, w⟩ := f
      have q := List.pairwise_cons.1 h
      simp only [Mem.put]
      split
      · rename_i e; subst e
        exact List.Pairwise.cons (fun z hz => q.1 z hz) q.2
      · split
        · refine List.Pairwise.cons ?_ h
          intro z hz
          rcases List.mem_cons.1 hz with rfl | hz
          · assumption
          · exact Nat.lt_trans ‹_› (q.1 z hz)
        · refine List.Pairwise.cons ?_ (ih q.2)
          intro z hz
          rcases Mem.mem_put m a v z hz with rfl | hz
          · show k < a; omega
          · exact q.1 z hz
  · intro e he
    rcases Mem.mem_put m a v e he with rfl | he
    · exact hv
    · exact h.2 e he

/-- Every memory operation keeps the canonical form. -/
@[simp] theorem Mem.wf_wr (m : Mem) (a : Nat) (v : BitVec 8) (h : Mem.wf m = true) : Mem.wf (Mem.wr m a v) = true := by
  unfold Mem.wr
  split
  · exact Mem.wf_filter m _ h
  · exact Mem.wf_put m a v ‹_› h

@[simp] theorem Mem.wf_wrBytes (m : Mem) (a : Nat) (l : List (BitVec 8)) (h : Mem.wf m = true) : Mem.wf (Mem.wrBytes m a l) = true := by
  induction l generalizing m a with
  | nil => exact h
  | cons x l ih => exact ih _ _ (Mem.wf_wr m a x h)

@[simp] theorem Mem.wf_clear (m : Mem) (a n : Nat) (h : Mem.wf m = true) : Mem.wf (Mem.clear m a n) = true := Mem.wf_filter m _ h

end Sys2Proof.Machine
end

