-- ==== Sys2Proof/Laws/MemoryOps.lean ====
section
/-!
SUPPORT. The operations of Ops.lean leave memory as it is, or keep its canonical form.
-/
namespace Sys2Proof.Machine

theorem MemSt.wf_iff (m : MemSt) :
    m.wf = true ↔ Mem.wf m.slice = true ∧ Mem.wf m.far = true ∧ Mem.wf m.shelf = true ∧ Mem.wf m.host = true := by
  simp [MemSt.wf, and_assoc]

@[simp] theorem foldl_mem {α : Type} (f : State → α → State) (h : ∀ s a, (f s a).mem = s.mem) (l : List α) (s : State) :
    (l.foldl f s).mem = s.mem := by
  induction l generalizing s with
  | nil => rfl
  | cons a l ih => simp [ih, h]

@[simp] theorem foldr_mem {α : Type} (f : α → State → State) (h : ∀ a s, (f a s).mem = s.mem) (l : List α) (s : State) :
    (l.foldr f s).mem = s.mem := by
  induction l with
  | nil => rfl
  | cons a l ih => simp [ih, h]

theorem foldl_memWf {α : Type} (f : State → α → State) (h : ∀ s a, s.mem.wf = true → (f s a).mem.wf = true) (l : List α) (s : State)
    (hs : s.mem.wf = true) : (l.foldl f s).mem.wf = true := by
  induction l generalizing s with
  | nil => exact hs
  | cons a l ih => exact ih _ (h s a hs)

theorem foldl_memW {β α : Type} (π : β → State) (f : β → α → β) (h : ∀ b a, (π b).mem.wf = true → (π (f b a)).mem.wf = true) (l : List α)
    (b : β) (hb : (π b).mem.wf = true) : (π (l.foldl f b)).mem.wf = true := by
  induction l generalizing b with
  | nil => exact hb
  | cons a l ih => exact ih _ (h b a hb)

theorem foldr_memWf {α : Type} (f : α → State → State) (h : ∀ a s, s.mem.wf = true → (f a s).mem.wf = true) (l : List α) (s : State)
    (hs : s.mem.wf = true) : (l.foldr f s).mem.wf = true := by
  induction l with
  | nil => exact hs
  | cons a l ih => exact h a _ ih

@[simp] theorem ite_mem (c : Prop) [Decidable c] (a b : State) : (if c then a else b).mem = if c then a.mem else b.mem := by split <;> rfl

theorem foldl_memP {β α : Type} (π : β → State) (f : β → α → β) (h : ∀ b a, (π (f b a)).mem = (π b).mem) (l : List α) (b : β) :
    (π (l.foldl f b)).mem = (π b).mem := by
  induction l generalizing b with
  | nil => rfl
  | cons a l ih => simp [ih, h]

@[simp] theorem Mem.wf_nil : Mem.wf [] = true := rfl

/-- Only the bytes have a canonical form. -/
theorem MemSt.wf_core (m : MemSt) (sv fv lo sp fp hp hp2 su fu hu sb fb : NSet) :
    MemSt.wf { m with
      sliceValid := sv, farValid := fv, lost := lo, slicePois := sp, farPois := fp, shelfPois := hp, hostPois := hp2, sliceUe := su,
      farUe := fu, shelfUe := hu, sliceBack := sb, farBack := fb } = m.wf := rfl

/-- Marking stalls lost changes no byte. -/
@[simp] theorem MemSt.wf_lost (m : MemSt) (l : NSet) : MemSt.wf { m with lost := l } = m.wf := rfl

@[simp] theorem Mem.wf_wrShelf (m : Mem) (n off : Nat) (b : List Byte) (h : Mem.wf m = true) : Mem.wf (Mem.wrShelf m n off b) = true := by
  induction b generalizing m off with
  | nil => exact h
  | cons x b ih => exact ih _ _ (Mem.wf_wr m _ x h)

@[simp] theorem State.setStall_mem (s : State) (n : Nat) (st : Stall) :
    (State.setStall s n st).mem = s.mem := by
  unfold State.setStall
  repeat' first
    | with_reducible rfl
    | (simp; done)
    | split
    | intro _
    | simp

@[simp] theorem State.updStall_mem (s : State) (n : Nat) (f : Stall → Stall) :
    (State.updStall s n f).mem = s.mem := by
  unfold State.updStall
  repeat' first
    | with_reducible rfl
    | (simp; done)
    | split
    | intro _
    | simp

@[simp] theorem State.setThread_mem (s : State) (n k : Nat) (t : Thread) :
    (State.setThread s n k t).mem = s.mem := by
  unfold State.setThread
  repeat' first
    | with_reducible rfl
    | (simp; done)
    | split
    | intro _
    | simp

@[simp] theorem State.updThread_mem (s : State) (n k : Nat) (f : Thread → Thread) :
    (State.updThread s n k f).mem = s.mem := by
  unfold State.updThread
  repeat' first
    | with_reducible rfl
    | (simp; done)
    | split
    | intro _
    | simp

@[simp] theorem State.updHall_mem (s : State) (h : Nat) (f : HallSt → HallSt) :
    (State.updHall s h f).mem = s.mem := by
  unfold State.updHall
  repeat' first
    | with_reducible rfl
    | (simp; done)
    | split
    | intro _
    | simp

@[simp] theorem State.updSlice_mem (s : State) (n : Nat) (f : SliceSt → SliceSt) :
    (State.updSlice s n f).mem = s.mem := by
  unfold State.updSlice
  repeat' first
    | with_reducible rfl
    | (simp; done)
    | split
    | intro _
    | simp

@[simp] theorem State.updRing_mem (s : State) (p r : Nat) (f : Ring → Ring) :
    (State.updRing s p r f).mem = s.mem := by
  unfold State.updRing
  repeat' first
    | with_reducible rfl
    | (simp; done)
    | split
    | intro _
    | simp

@[simp] theorem State.updPring_mem (s : State) (p : Nat) (f : PRing → PRing) :
    (State.updPring s p f).mem = s.mem := by
  unfold State.updPring
  repeat' first
    | with_reducible rfl
    | (simp; done)
    | split
    | intro _
    | simp

@[simp] theorem State.updSlot_mem (s : State) (p n : Nat) (f : Slot → Slot) :
    (State.updSlot s p n f).mem = s.mem := by
  unfold State.updSlot
  repeat' first
    | with_reducible rfl
    | (simp; done)
    | split
    | intro _
    | simp

@[simp] theorem State.updPctl_mem (s : State) (p : Nat) (f : PCtl → PCtl) :
    (State.updPctl s p f).mem = s.mem := by
  unfold State.updPctl
  repeat' first
    | with_reducible rfl
    | (simp; done)
    | split
    | intro _
    | simp

@[simp] theorem State.updModule_mem (s : State) (m : Nat) (f : Module → Module) :
    (State.updModule s m f).mem = s.mem := by
  unfold State.updModule
  repeat' first
    | with_reducible rfl
    | (simp; done)
    | split
    | intro _
    | simp

@[simp] theorem State.updReq_mem (s : State) (q : Req) (f : ReqSt → ReqSt) :
    (State.updReq s q f).mem = s.mem := by
  unfold State.updReq
  repeat' first
    | with_reducible rfl
    | (simp; done)
    | split
    | intro _
    | simp

@[simp] theorem State.setRw32_mem (s : State) (off : Nat) (v : W32) :
    (State.setRw32 s off v).mem = s.mem := by
  unfold State.setRw32
  repeat' first
    | with_reducible rfl
    | (simp; done)
    | split
    | intro _
    | simp

@[simp] theorem State.orRw32_mem (s : State) (off : Nat) (v : W32) :
    (State.orRw32 s off v).mem = s.mem := by
  unfold State.orRw32
  repeat' first
    | with_reducible rfl
    | (simp; done)
    | split
    | intro _
    | simp

@[simp] theorem State.setRw64_mem (s : State) (off : Nat) (v : Word) :
    (State.setRw64 s off v).mem = s.mem := by
  unfold State.setRw64
  repeat' first
    | with_reducible rfl
    | (simp; done)
    | split
    | intro _
    | simp

@[simp] theorem State.resetRw_mem (s : State) (off n : Nat) :
    (State.resetRw s off n).mem = s.mem := by
  unfold State.resetRw
  repeat' first
    | with_reducible rfl
    | (simp; done)
    | split
    | intro _
    | simp

@[simp] theorem State.used_mem (s : State) :
    (State.used s).mem = s.mem := by
  unfold State.used
  repeat' first
    | with_reducible rfl
    | (simp; done)
    | split
    | intro _
    | simp

@[simp] theorem State.wrSliceWord_memWf (s : State) (a : Nat) (b : List Byte)  (hw_ : s.mem.wf = true) :
    (State.wrSliceWord s a b).s.mem.wf = true := by
  have hw := hw_
  rw [MemSt.wf_iff] at hw
  obtain ⟨h1, h2, h3, h4⟩ := hw
  unfold State.wrSliceWord
  dsimp only
  repeat' split
  all_goals first | exact hw_ | (rw [MemSt.wf_iff]; simp [h1, h2, h3, h4])

@[simp] theorem State.wrFarWord_memWf (s : State) (o : Nat) (b : List Byte)  (hw_ : s.mem.wf = true) :
    (State.wrFarWord s o b).s.mem.wf = true := by
  have hw := hw_
  rw [MemSt.wf_iff] at hw
  obtain ⟨h1, h2, h3, h4⟩ := hw
  unfold State.wrFarWord
  dsimp only
  repeat' split
  all_goals first | exact hw_ | (rw [MemSt.wf_iff]; simp [h1, h2, h3, h4])

@[simp] theorem State.wrPieces_mem (f : State → Nat → List Byte → WrRes) (s : State) (l : List (Nat × List Byte)) (hf : ∀ x0 x1 x2, (f x0 x1 x2).s.mem = x0.mem) :
    (State.wrPieces f s l).s.mem = s.mem := by
  unfold State.wrPieces
  exact foldl_memP (fun r : WrRes => r.s) _ (fun r x => by simp [hf]) _ _

@[simp] theorem State.wrPieces_memWf (f : State → Nat → List Byte → WrRes) (s : State) (l : List (Nat × List Byte)) (hf : ∀ x0 x1 x2, x0.mem.wf = true → (f x0 x1 x2).s.mem.wf = true) (hw_ : s.mem.wf = true) :
    (State.wrPieces f s l).s.mem.wf = true := by
  unfold State.wrPieces
  refine foldl_memW (fun r : WrRes => r.s) _ ?_ _ _ ?_
  · intro r x h
    exact hf _ _ _ h
  · exact hw_

@[simp] theorem State.wrSlice_memWf (s : State) (a : Nat) (b : List Byte)  (hw_ : s.mem.wf = true) :
    (State.wrSlice s a b).s.mem.wf = true := by
  unfold State.wrSlice
  exact State.wrPieces_memWf State.wrSliceWord s _ (fun x a b h => State.wrSliceWord_memWf x a b h) hw_

@[simp] theorem State.wrFar_memWf (s : State) (o : Nat) (b : List Byte)  (hw_ : s.mem.wf = true) :
    (State.wrFar s o b).s.mem.wf = true := by
  unfold State.wrFar
  exact State.wrPieces_memWf State.wrFarWord s _ (fun x a b h => State.wrFarWord_memWf x a b h) hw_

@[simp] theorem State.poisSlice_memWf (s : State) (a : Nat)  (hw_ : s.mem.wf = true) :
    (State.poisSlice s a).mem.wf = true := by
  unfold State.poisSlice
  dsimp only
  split
  · exact hw_
  · rw [MemSt.wf_iff] at hw_ ⊢
    obtain ⟨h1, h2, h3, h4⟩ := hw_
    simp [h1, h2, h3, h4]

@[simp] theorem State.poisFar_memWf (s : State) (o : Nat)  (hw_ : s.mem.wf = true) :
    (State.poisFar s o).mem.wf = true := by
  unfold State.poisFar
  dsimp only
  split
  · exact hw_
  · rw [MemSt.wf_iff] at hw_ ⊢
    obtain ⟨h1, h2, h3, h4⟩ := hw_
    simp [h1, h2, h3, h4]

@[simp] theorem State.clearSliceLines_memWf (s : State) (l n : Nat)  (hw_ : s.mem.wf = true) :
    (State.clearSliceLines s l n).mem.wf = true := by
  rw [MemSt.wf_iff] at hw_ ⊢
  obtain ⟨h1, h2, h3, h4⟩ := hw_
  simp [State.clearSliceLines, h1, h2, h3, h4]

@[simp] theorem State.clearFarLines_memWf (s : State) (l n : Nat)  (hw_ : s.mem.wf = true) :
    (State.clearFarLines s l n).mem.wf = true := by
  rw [MemSt.wf_iff] at hw_ ⊢
  obtain ⟨h1, h2, h3, h4⟩ := hw_
  simp [State.clearFarLines, h1, h2, h3, h4]

@[simp] theorem State.clearSlice_memWf (s : State) (n : Nat)  (hw_ : s.mem.wf = true) :
    (State.clearSlice s n).mem.wf = true := by
  unfold State.clearSlice
  exact State.clearSliceLines_memWf s _ _ hw_

@[simp] theorem State.wrShelf_memWf (s : State) (n off : Nat) (b : List Byte)  (hw_ : s.mem.wf = true) :
    (State.wrShelf s n off b).mem.wf = true := by
  rw [MemSt.wf_iff] at hw_ ⊢
  obtain ⟨h1, h2, h3, h4⟩ := hw_
  refine ⟨h1, h2, ?_, h4⟩
  simp only [State.wrShelf]
  generalize pieces 8 (b.length + 1) off b = l
  generalize s.mem.shelfPois = q
  clear h1 h2 h4
  generalize s.mem.shelf = t at h3 ⊢
  induction l generalizing t with
  | nil => exact h3
  | cons x l ih =>
    rw [List.foldl_cons]
    split
    · exact ih _ h3
    · exact ih _ (Mem.wf_wrShelf _ _ _ _ h3)

@[simp] theorem State.clearShelf_memWf (s : State) (n : Nat)  (hw_ : s.mem.wf = true) :
    (State.clearShelf s n).mem.wf = true := by
  rw [MemSt.wf_iff] at hw_ ⊢
  obtain ⟨h1, h2, h3, h4⟩ := hw_
  simp [State.clearShelf, h1, h2, h3, h4]

@[simp] theorem State.wrHost_memWf (s : State) (a : Nat) (b : List Byte)  (hw_ : s.mem.wf = true) :
    (State.wrHost s a b).mem.wf = true := by
  rw [MemSt.wf_iff] at hw_ ⊢
  obtain ⟨h1, h2, h3, h4⟩ := hw_
  simp [State.wrHost, h1, h2, h3, h4]

end Sys2Proof.Machine
end

