-- ==== Sys2Proof/Laws/MemoryFlags.lean ====
section
/-!
SUPPORT. The operations of Flags.lean leave memory as it is, or keep its canonical form.
-/
namespace Sys2Proof.Machine

@[simp] theorem State.send_mem (s : State) (m : Msg) :
    (State.send s m).mem = s.mem := by
  unfold State.send
  repeat' first
    | with_reducible rfl
    | (simp; done)
    | split
    | intro _
    | simp

@[simp] theorem State.signalVec_mem (s : State) (fn v : Nat) :
    (State.signalVec s fn v).mem = s.mem := by
  unfold State.signalVec
  repeat' first
    | with_reducible rfl
    | (simp; done)
    | split
    | intro _
    | simp

@[simp] theorem State.fire_mem (s : State) (fn v : Nat) :
    (State.fire s fn v).mem = s.mem := by
  unfold State.fire
  repeat' first
    | with_reducible rfl
    | (simp; done)
    | split
    | intro _
    | simp

@[simp] theorem State.raiseEvent_mem (s : State) (p : Nat) :
    (State.raiseEvent s p).mem = s.mem := by
  unfold State.raiseEvent
  repeat' first
    | with_reducible rfl
    | (simp; done)
    | split
    | intro _
    | simp

@[simp] theorem State.raiseAll_mem (s : State) :
    (State.raiseAll s).mem = s.mem := by
  unfold State.raiseAll
  repeat' first
    | with_reducible rfl
    | (simp; done)
    | split
    | intro _
    | (with_reducible refine (foldl_mem _ ?_ _ _).trans ?_)
    | simp

@[simp] theorem State.fpEvent_mem (s : State) :
    (State.fpEvent s).mem = s.mem := by
  unfold State.fpEvent
  repeat' first
    | with_reducible rfl
    | (simp; done)
    | split
    | intro _
    | simp

@[simp] theorem State.count_mem (s : State) (n b k : Nat) :
    (State.count s n b k).mem = s.mem := by
  unfold State.count
  repeat' first
    | with_reducible rfl
    | (simp; done)
    | split
    | intro _
    | simp

@[simp] theorem State.globalOvf_mem (s : State) (b : Nat) :
    (State.globalOvf s b).mem = s.mem := by
  unfold State.globalOvf
  repeat' first
    | with_reducible rfl
    | (simp; done)
    | split
    | intro _
    | simp

@[simp] theorem State.accessError_mem (s : State) (q : Req) (bar off bytes : Nat) (wr : Bool) :
    (State.accessError s q bar off bytes wr).mem = s.mem := by
  unfold State.accessError
  repeat' first
    | with_reducible rfl
    | (simp; done)
    | split
    | intro _
    | simp

@[simp] theorem State.cxlRecord_mem (s : State) (ld log : Nat) (e : LogEnt) :
    (State.cxlRecord s ld log e).mem = s.mem := by
  unfold State.cxlRecord
  repeat' first
    | with_reducible rfl
    | (simp; done)
    | split
    | intro _
    | simp

@[simp] theorem State.logEvent_mem (s : State) (e : LogEnt) (lds : List Nat) :
    (State.logEvent s e lds).mem = s.mem := by
  unfold State.logEvent
  repeat' first
    | with_reducible rfl
    | (simp; done)
    | split
    | intro _
    | (with_reducible refine (foldl_mem _ ?_ _ _).trans ?_)
    | simp

@[simp] theorem State.logFree_mem (s : State) :
    (State.logFree s).mem = s.mem := by
  unfold State.logFree
  repeat' first
    | with_reducible rfl
    | (simp; done)
    | split
    | intro _
    | simp

@[simp] theorem State.foreignWrite_mem (s : State) (y_ : Req) :
    (State.foreignWrite s y_).mem = s.mem := by
  unfold State.foreignWrite
  repeat' first
    | with_reducible rfl
    | (simp; done)
    | split
    | intro _
    | simp

@[simp] theorem State.setupTry_mem (s : State) (q : Req) (off bytes : Nat) (ok : Bool) (f : State → State) (hf : ∀ x0, (f x0).mem = x0.mem) :
    (State.setupTry s q off bytes ok f).mem = s.mem := by
  unfold State.setupTry
  repeat' first
    | with_reducible rfl
    | exact hf ..
    | (simp; done)
    | split
    | intro _
    | simp

@[simp] theorem State.setupTry_memWf (s : State) (q : Req) (off bytes : Nat) (ok : Bool) (f : State → State) (hf : ∀ x0, x0.mem.wf = true → (f x0).mem.wf = true) (hw_ : s.mem.wf = true) :
    (State.setupTry s q off bytes ok f).mem.wf = true := by
  unfold State.setupTry
  repeat' first
    | with_reducible assumption
    | (with_reducible refine hf _ ?_)
    | (with_reducible refine hf _ _ ?_)
    | (with_reducible refine hf _ _ _ ?_)
    | (simp (maxDischargeDepth := 12) [*]; done)
    | split
    | intro _
    | (simp_all [MemSt.wf_iff]; done)
    | simp (maxDischargeDepth := 12) [*]

@[simp] theorem State.stallTry_mem (s : State) (q : Req) (n off bytes : Nat) (ok : Bool) (f : State → State) (hf : ∀ x0, (f x0).mem = x0.mem) :
    (State.stallTry s q n off bytes ok f).mem = s.mem := by
  unfold State.stallTry
  repeat' first
    | with_reducible rfl
    | exact hf ..
    | (simp; done)
    | split
    | intro _
    | simp

@[simp] theorem State.stallTry_memWf (s : State) (q : Req) (n off bytes : Nat) (ok : Bool) (f : State → State) (hf : ∀ x0, x0.mem.wf = true → (f x0).mem.wf = true) (hw_ : s.mem.wf = true) :
    (State.stallTry s q n off bytes ok f).mem.wf = true := by
  unfold State.stallTry
  repeat' first
    | with_reducible assumption
    | (with_reducible refine hf _ ?_)
    | (with_reducible refine hf _ _ ?_)
    | (with_reducible refine hf _ _ _ ?_)
    | (simp (maxDischargeDepth := 12) [*]; done)
    | split
    | intro _
    | (simp_all [MemSt.wf_iff]; done)
    | simp (maxDischargeDepth := 12) [*]

@[simp] theorem State.logUe_mem (s : State) (e : LogEnt) (lds : List Nat) :
    (State.logUe s e lds).mem = s.mem := by
  unfold State.logUe
  repeat' first
    | with_reducible rfl
    | (simp; done)
    | split
    | intro _
    | simp

@[simp] theorem State.dbErr_mem (s : State) (p : Nat) :
    (State.dbErr s p).mem = s.mem := by
  unfold State.dbErr
  repeat' first
    | with_reducible rfl
    | (simp; done)
    | split
    | intro _
    | simp

@[simp] theorem State.injected_mem (s : State) (i : Nat) :
    (State.injected s i).mem = s.mem := by
  unfold State.injected
  repeat' first
    | with_reducible rfl
    | (simp; done)
    | split
    | intro _
    | simp

@[simp] theorem State.injectedBy_mem (s : State) (i : Option Nat) :
    (State.injectedBy s i).mem = s.mem := by
  unfold State.injectedBy
  repeat' first
    | with_reducible rfl
    | (simp; done)
    | split
    | intro _
    | simp

@[simp] theorem State.ledgerSet_mem (s : State) (off v : Nat) :
    (State.ledgerSet s off v).mem = s.mem := by
  unfold State.ledgerSet
  repeat' first
    | with_reducible rfl
    | (simp; done)
    | split
    | intro _
    | simp

@[simp] theorem State.ledgerAdd_mem (s : State) (off n : Nat) :
    (State.ledgerAdd s off n).mem = s.mem := by
  unfold State.ledgerAdd
  repeat' first
    | with_reducible rfl
    | (simp; done)
    | split
    | intro _
    | simp

end Sys2Proof.Machine
end

