-- ==== Sys2Proof/Laws/MemorySelog.lean ====
section
/-!
SUPPORT. The operations of Selog.lean leave memory as it is, or keep its canonical form.
-/
namespace Sys2Proof.Machine

@[simp] theorem State.updSel_mem (s : State) (n : Nat) (f : Tracer → Tracer) :
    (State.updSel s n f).mem = s.mem := by
  unfold State.updSel
  repeat' first
    | with_reducible rfl
    | (simp; done)
    | split
    | intro _
    | simp

@[simp] theorem State.selPut_mem (s : State) (n : Nat) (b : List Byte) (cyc : Nat) :
    (State.selPut s n b cyc).mem = s.mem := by
  unfold State.selPut
  repeat' first
    | with_reducible rfl
    | (simp; done)
    | split
    | intro _
    | simp

@[simp] theorem State.selSync_mem (s : State) (n : Nat) :
    (State.selSync s n).mem = s.mem := by
  unfold State.selSync
  repeat' first
    | with_reducible rfl
    | (simp; done)
    | split
    | intro _
    | simp

@[simp] theorem State.selOvf_mem (s : State) (n : Nat) :
    (State.selOvf s n).mem = s.mem := by
  unfold State.selOvf
  repeat' first
    | with_reducible rfl
    | (simp; done)
    | split
    | intro _
    | simp

@[simp] theorem State.selEmit_mem (s : State) (n th ty : Nat) (body : List Byte) (c : Nat) :
    (State.selEmit s n th ty body c).mem = s.mem := by
  unfold State.selEmit
  repeat' first
    | with_reducible rfl
    | (simp; done)
    | split
    | intro _
    | simp

@[simp] theorem State.selRep_mem (s : State) (n k : Nat) :
    (State.selRep s n k).mem = s.mem := by
  unfold State.selRep
  repeat' first
    | with_reducible rfl
    | (simp; done)
    | split
    | intro _
    | simp

@[simp] theorem State.selBr_mem (s : State) (n k : Nat) :
    (State.selBr s n k).mem = s.mem := by
  unfold State.selBr
  repeat' first
    | with_reducible rfl
    | (simp; done)
    | split
    | intro _
    | simp

@[simp] theorem State.selBranch_mem (s : State) (n k : Nat) (taken : Bool) :
    (State.selBranch s n k taken).mem = s.mem := by
  unfold State.selBranch
  repeat' first
    | with_reducible rfl
    | (simp; done)
    | split
    | intro _
    | simp

@[simp] theorem State.selThread_mem (s : State) (n k ty : Nat) (body : List Byte) :
    (State.selThread s n k ty body).mem = s.mem := by
  unfold State.selThread
  repeat' first
    | with_reducible rfl
    | (simp; done)
    | split
    | intro _
    | simp

@[simp] theorem State.selPacket_mem (s : State) (n k ty : Nat) (body : List Byte) :
    (State.selPacket s n k ty body).mem = s.mem := by
  unfold State.selPacket
  repeat' first
    | with_reducible rfl
    | (simp; done)
    | split
    | intro _
    | simp

@[simp] theorem State.selPc_mem (s : State) (n k reason : Nat) (pc : Word) :
    (State.selPc s n k reason pc).mem = s.mem := by
  unfold State.selPc
  repeat' first
    | with_reducible rfl
    | (simp; done)
    | split
    | intro _
    | simp

@[simp] theorem State.selEvent_mem (s : State) (n code : Nat) :
    (State.selEvent s n code).mem = s.mem := by
  unfold State.selEvent
  repeat' first
    | with_reducible rfl
    | (simp; done)
    | split
    | intro _
    | simp

@[simp] theorem State.selFreq_mem (s : State) (n old : Nat) :
    (State.selFreq s n old).mem = s.mem := by
  unfold State.selFreq
  repeat' first
    | with_reducible rfl
    | (simp; done)
    | split
    | intro _
    | simp

@[simp] theorem State.selSyncOn_mem (s : State) (n : Nat) :
    (State.selSyncOn s n).mem = s.mem := by
  unfold State.selSyncOn
  repeat' first
    | with_reducible rfl
    | (simp; done)
    | split
    | intro _
    | simp

@[simp] theorem State.selRetire_mem (s : State) (n k : Nat) (t : Thread) :
    (State.selRetire s n k t).mem = s.mem := by
  unfold State.selRetire
  repeat' first
    | with_reducible rfl
    | (simp; done)
    | split
    | intro _
    | simp

@[simp] theorem State.selWide_mem (s : State) (n k wop : Nat) (w : WF) (outcome iters cycles : Nat) :
    (State.selWide s n k wop w outcome iters cycles).mem = s.mem := by
  unfold State.selWide
  repeat' first
    | with_reducible rfl
    | (simp; done)
    | split
    | intro _
    | simp

@[simp] theorem State.selOp_mem (s : State) (n : Nat) (o : WOp) (outcome : Nat) :
    (State.selOp s n o outcome).mem = s.mem := by
  unfold State.selOp
  repeat' first
    | with_reducible rfl
    | (simp; done)
    | split
    | intro _
    | (with_reducible refine (foldl_mem _ ?_ _ _).trans ?_)
    | simp

@[simp] theorem State.traced_mem (s : State) (n k wop : Nat) (w : WF) (f : State → State) (hf : ∀ x0, (f x0).mem = x0.mem) :
    (State.traced s n k wop w f).mem = s.mem := by
  unfold State.traced
  repeat' first
    | with_reducible rfl
    | exact hf ..
    | (simp; done)
    | split
    | intro _
    | simp

@[simp] theorem State.traced_memWf (s : State) (n k wop : Nat) (w : WF) (f : State → State) (hf : ∀ x0, x0.mem.wf = true → (f x0).mem.wf = true) (hw_ : s.mem.wf = true) :
    (State.traced s n k wop w f).mem.wf = true := by
  unfold State.traced
  repeat' first
    | with_reducible assumption
    | (with_reducible refine hf _ ?_)
    | (with_reducible refine hf _ _ ?_)
    | (with_reducible refine hf _ _ _ ?_)
    | (simp (maxDischargeDepth := 12) [*]; done)
    | split
    | intro _
    | (simp_all [MemSt.wf_iff]; done)
    | simp (maxDischargeDepth := 12) [*]

@[simp] theorem State.selReset_mem (s : State) (n : Nat) :
    (State.selReset s n).mem = s.mem := by
  unfold State.selReset
  repeat' first
    | with_reducible rfl
    | (simp; done)
    | split
    | intro _
    | simp

@[simp] theorem State.selDrop_mem (s : State) (n : Nat) :
    (State.selDrop s n).mem = s.mem := by
  unfold State.selDrop
  repeat' first
    | with_reducible rfl
    | (simp; done)
    | split
    | intro _
    | simp

end Sys2Proof.Machine
end

