-- ==== Sys2Proof/Laws/MemoryFarPath.lean ====
section
/-!
SUPPORT. The operations of FarPath.lean leave memory as it is, or keep its canonical form.
-/
namespace Sys2Proof.Machine

@[simp] theorem State.enqueue_mem (s : State) (l : Nat) (wr : Bool) :
    (State.enqueue s l wr).mem = s.mem := by
  unfold State.enqueue
  repeat' first
    | with_reducible rfl
    | (simp; done)
    | split
    | intro _
    | simp

@[simp] theorem State.addPoison_mem (s : State) (l : List (Nat × Nat)) :
    (State.addPoison s l).mem = s.mem := by
  unfold State.addPoison
  repeat' first
    | with_reducible rfl
    | (simp; done)
    | split
    | intro _
    | simp

@[simp] theorem State.writeBack_mem (s : State) (l : Nat) :
    (State.writeBack s l).mem = s.mem := by
  unfold State.writeBack
  repeat' first
    | with_reducible rfl
    | (simp; done)
    | split
    | intro _
    | simp

@[simp] theorem State.setCache_mem (s : State) (set : Nat) (l : List CWay) :
    (State.setCache s set l).mem = s.mem := by
  unfold State.setCache
  repeat' first
    | with_reducible rfl
    | (simp; done)
    | split
    | intro _
    | simp

@[simp] theorem State.allocate_mem (s : State) (set line : Nat) (dirty : Bool) :
    (State.allocate s set line dirty).mem = s.mem := by
  unfold State.allocate
  repeat' first
    | with_reducible rfl
    | (simp; done)
    | split
    | intro _
    | simp

@[simp] theorem State.cacheAccess_mem (s : State) (l hint : Nat) (wr whole : Bool) :
    (State.cacheAccess s l hint wr whole).mem = s.mem := by
  unfold State.cacheAccess
  repeat' first
    | with_reducible rfl
    | (simp; done)
    | split
    | intro _
    | simp

@[simp] theorem State.farAccess_mem (s : State) (t : PTab) (o hint : Nat) (wr whole : Bool) :
    (State.farAccess s t o hint wr whole).mem = s.mem := by
  unfold State.farAccess
  repeat' first
    | with_reducible rfl
    | (simp; done)
    | split
    | intro _
    | simp

@[simp] theorem State.farTouch_mem (s : State) (t : PTab) (o n hint : Nat) (wr : Bool) :
    (State.farTouch s t o n hint wr).mem = s.mem := by
  unfold State.farTouch
  repeat' first
    | with_reducible rfl
    | (simp; done)
    | split
    | intro _
    | (with_reducible refine (foldl_mem _ ?_ _ _).trans ?_)
    | simp

end Sys2Proof.Machine
end

