-- ==== Sys2Proof/Laws/MemoryConvoy.lean ====
section
/-!
SUPPORT. The operations of Convoy.lean leave memory as it is, or keep its canonical form.
-/
namespace Sys2Proof.Machine

@[simp] theorem State.updConv_mem (s : State) (peer port : Nat) (f : Convoy → Convoy) :
    (State.updConv s peer port f).mem = s.mem := by
  unfold State.updConv
  repeat' first
    | with_reducible rfl
    | (simp; done)
    | split
    | intro _
    | simp

@[simp] theorem State.cvEmit_mem (s : State) (peer port : Nat) (q : CvPkt) :
    (State.cvEmit s peer port q).mem = s.mem := by
  unfold State.cvEmit
  repeat' first
    | with_reducible rfl
    | (simp; done)
    | split
    | intro _
    | simp

@[simp] theorem State.cvHello_mem (s : State) (peer port kind : Nat) :
    (State.cvHello s peer port kind).mem = s.mem := by
  unfold State.cvHello
  repeat' first
    | with_reducible rfl
    | (simp; done)
    | split
    | intro _
    | simp

@[simp] theorem State.cvBare_mem (s : State) (peer port kind flags : Nat) :
    (State.cvBare s peer port kind flags).mem = s.mem := by
  unfold State.cvBare
  repeat' first
    | with_reducible rfl
    | (simp; done)
    | split
    | intro _
    | simp

theorem State.cvRoom_mem (s : State) {t_ : State}  (hx_ : State.cvRoom s = some t_) :
    t_.mem = s.mem := by
  unfold State.cvRoom at hx_
  repeat' (first | split at hx_ | (cases hx_; done) | cases hx_)
  all_goals repeat' first
    | with_reducible rfl
    | (simp; done)
    | split
    | intro _
    | (with_reducible refine (foldl_mem _ ?_ _ _).trans ?_)
    | simp

@[simp] theorem State.cvPump_mem (s : State) (peer port : Nat) :
    (State.cvPump s peer port).mem = s.mem := by
  unfold State.cvPump
  repeat' first
    | with_reducible rfl
    | (simp; done)
    | split
    | intro _
    | (with_reducible refine (foldl_mem _ ?_ _ _).trans ?_)
    | (with_reducible refine (State.cvRoom_mem (hx_ := ‹_›) ..).trans ?_)
    | simp

@[simp] theorem State.cvWake_mem (s : State) :
    (State.cvWake s).mem = s.mem := by
  unfold State.cvWake
  repeat' first
    | with_reducible rfl
    | (simp; done)
    | split
    | intro _
    | (with_reducible refine (foldl_mem _ ?_ _ _).trans ?_)
    | simp

@[simp] theorem State.cvPut_mem (s : State) (peer port msg : Nat) (l : List CvPkt) :
    (State.cvPut s peer port msg l).mem = s.mem := by
  unfold State.cvPut
  repeat' first
    | with_reducible rfl
    | (simp; done)
    | split
    | intro _
    | simp

@[simp] theorem State.cvSubmit_mem (s : State) (d : Nat) (op : CvOp) (l : List CvPkt) :
    (State.cvSubmit s d op l).mem = s.mem := by
  unfold State.cvSubmit
  repeat' first
    | with_reducible rfl
    | (simp; done)
    | split
    | intro _
    | simp

@[simp] theorem State.cvReply_mem (s : State) (peer port : Nat) (q : CvPkt) :
    (State.cvReply s peer port q).mem = s.mem := by
  unfold State.cvReply
  repeat' first
    | with_reducible rfl
    | (simp; done)
    | split
    | intro _
    | simp

@[simp] theorem State.opWithdraw_mem (s : State) (peer port : Nat) (o : CvOp) (st : Nat) :
    (State.opWithdraw s peer port o st).mem = s.mem := by
  unfold State.opWithdraw
  repeat' first
    | with_reducible rfl
    | (simp; done)
    | split
    | intro _
    | simp

@[simp] theorem State.waitsWithdraw_mem (s : State) (f : TOwner → Bool) (st : Nat) :
    (State.waitsWithdraw s f st).mem = s.mem := by
  unfold State.waitsWithdraw
  repeat' first
    | with_reducible rfl
    | (simp; done)
    | split
    | intro _
    | (with_reducible refine (foldl_mem _ ?_ _ _).trans ?_)
    | simp

@[simp] theorem State.cvTally_mem (s : State) (p d : Nat) (owner : TOwner) (id top cmp : Nat) (x : W32) (ra : Word) :
    (State.cvTally s p d owner id top cmp x ra).mem = s.mem := by
  unfold State.cvTally
  repeat' first
    | with_reducible rfl
    | (simp; done)
    | split
    | intro _
    | simp

end Sys2Proof.Machine
end

