-- ==== Sys2Proof/Laws/MemoryOperands.lean ====
section
/-!
SUPPORT. The operations of Operands.lean leave memory as it is, or keep its canonical form.
-/
namespace Sys2Proof.Machine

@[simp] theorem State.fenceLog_mem (s : State) (n agent th : Nat) (wr : Bool) (addr : Word) (target : Option Nat) :
    (State.fenceLog s n agent th wr addr target).mem = s.mem := by
  unfold State.fenceLog
  repeat' first
    | with_reducible rfl
    | (simp; done)
    | split
    | intro _
    | simp

@[simp] theorem State.tgtPath_mem (s : State) (n hint : Nat) (t : Tgt) (len : Nat) (wr : Bool) :
    (State.tgtPath s n hint t len wr).mem = s.mem := by
  unfold State.tgtPath
  repeat' first
    | with_reducible rfl
    | (simp; done)
    | split
    | intro _
    | simp

@[simp] theorem State.stallRead_mem (s : State) (n agent th a len : Nat) (hint : Nat := 0) :
    (State.stallRead s n agent th a len hint).s.mem = s.mem := by
  unfold State.stallRead
  repeat' first
    | with_reducible rfl
    | (simp; done)
    | split
    | intro _
    | simp

@[simp] theorem State.tgtWrite_memWf (s : State) (n agent : Nat) (t : Tgt) (b : List Byte)  (hw_ : s.mem.wf = true) :
    (State.tgtWrite s n agent t b).s.mem.wf = true := by
  unfold State.tgtWrite
  repeat' first
    | with_reducible assumption
    | (with_reducible refine State.wrSlice_memWf (hw_ := ?_) ..)
    | (with_reducible refine State.wrFar_memWf (hw_ := ?_) ..)
    | (with_reducible refine State.wrShelf_memWf (hw_ := ?_) ..)
    | (with_reducible refine JWr.slice_memWf (hw_ := ?_) ..)
    | (with_reducible refine JWr.far_memWf (hw_ := ?_) ..)
    | (simp (maxDischargeDepth := 12) [*]; done)
    | split
    | intro _
    | (simp_all [MemSt.wf_iff]; done)
    | simp (maxDischargeDepth := 12) [*]

@[simp] theorem State.stallWrite_memWf (s : State) (n agent th a : Nat) (b : List Byte) (hint : Nat := 0)  (hw_ : s.mem.wf = true) :
    (State.stallWrite s n agent th a b hint).s.mem.wf = true := by
  unfold State.stallWrite
  repeat' first
    | with_reducible assumption
    | (with_reducible refine State.tgtWrite_memWf (hw_ := ?_) ..)
    | (simp (maxDischargeDepth := 12) [*]; done)
    | split
    | intro _
    | (simp_all [MemSt.wf_iff]; done)
    | simp (maxDischargeDepth := 12) [*]

@[simp] theorem State.poisTgt_memWf (s : State) (t : Tgt)  (hw_ : s.mem.wf = true) :
    (State.poisTgt s t).mem.wf = true := by
  unfold State.poisTgt
  split
  · exact State.poisSlice_memWf _ _ hw_
  · exact State.poisFar_memWf _ _ hw_
  · rw [MemSt.wf_iff] at hw_ ⊢
    obtain ⟨h1, h2, h3, h4⟩ := hw_
    simp [h1, h2, h3, h4]
  · exact hw_

@[simp] theorem Move.granule_memWf (m : Move) (n th hint : Nat)  (hw_ : m.s.mem.wf = true) :
    (Move.granule m n th hint).s.mem.wf = true := by
  unfold Move.granule
  repeat' first
    | with_reducible assumption
    | (with_reducible refine State.stallWrite_memWf (hw_ := ?_) ..)
    | (with_reducible refine State.poisTgt_memWf (hw_ := ?_) ..)
    | (simp (maxDischargeDepth := 12) [*]; done)
    | split
    | intro _
    | (simp_all [MemSt.wf_iff]; done)
    | simp (maxDischargeDepth := 12) [*]

@[simp] theorem State.porterRun_memWf (s : State) (n i g : Nat)  (hw_ : s.mem.wf = true) :
    (State.porterRun s n i g).s.mem.wf = true := by
  unfold State.porterRun
  exact foldl_memW (fun m : Move => m.s) _ (fun m _ h => Move.granule_memWf (hw_ := h) ..) _ _ hw_

@[simp] theorem State.porterStop_memWf (s : State) (n i : Nat)  (hw_ : s.mem.wf = true) :
    (State.porterStop s n i).mem.wf = true := by
  unfold State.porterStop
  repeat' first
    | with_reducible assumption
    | (with_reducible refine State.porterRun_memWf (hw_ := ?_) ..)
    | (simp (maxDischargeDepth := 12) [*]; done)
    | split
    | intro _
    | (simp_all [MemSt.wf_iff]; done)
    | simp (maxDischargeDepth := 12) [*]

@[simp] theorem State.orphan_mem (s : State) (f : TOwner → Bool) :
    (State.orphan s f).mem = s.mem := by
  unfold State.orphan
  repeat' first
    | with_reducible rfl
    | (simp; done)
    | split
    | intro _
    | simp

@[simp] theorem State.reown_mem (s : State) (f : TOwner → TOwner) :
    (State.reown s f).mem = s.mem := by
  unfold State.reown
  repeat' first
    | with_reducible rfl
    | (simp; done)
    | split
    | intro _
    | simp

@[simp] theorem State.boundary_mem (s : State) (n : Nat) :
    (State.boundary s n).mem = s.mem := by
  unfold State.boundary
  repeat' first
    | with_reducible rfl
    | (simp; done)
    | split
    | intro _
    | simp

@[simp] theorem State.halt_memWf (s : State) (n : Nat)  (hw_ : s.mem.wf = true) :
    (State.halt s n).mem.wf = true := by
  unfold State.halt
  repeat' first
    | with_reducible assumption
    | (with_reducible refine State.porterStop_memWf (hw_ := ?_) ..)
    | (simp (maxDischargeDepth := 12) [*]; done)
    | split
    | intro _
    | (simp_all [MemSt.wf_iff]; done)
    | simp (maxDischargeDepth := 12) [*]

@[simp] theorem State.haltWork_memWf (s : State) (w : Work)  (hw_ : s.mem.wf = true) :
    (State.haltWork s w).mem.wf = true := by
  unfold State.haltWork
  repeat' first
    | with_reducible assumption
    | (with_reducible refine State.halt_memWf (hw_ := ?_) ..)
    | (with_reducible refine foldl_memWf _ ?_ _ _ ?_)
    | (with_reducible refine foldl_memW (fun r : Acs => r.s) _ (fun b_ a_ h_ => ?_) _ _ ?_ <;> try dsimp only at *)
    | (with_reducible refine foldl_memW (fun r : Got => r.s) _ (fun b_ a_ h_ => ?_) _ _ ?_ <;> try dsimp only at *)
    | (with_reducible refine foldl_memW (fun r : InjRead => r.s) _ (fun b_ a_ h_ => ?_) _ _ ?_ <;> try dsimp only at *)
    | (with_reducible refine foldl_memW (fun r : JForm => r.s) _ (fun b_ a_ h_ => ?_) _ _ ?_ <;> try dsimp only at *)
    | (with_reducible refine foldl_memW (fun r : JWr => r.s) _ (fun b_ a_ h_ => ?_) _ _ ?_ <;> try dsimp only at *)
    | (with_reducible refine foldl_memW (fun r : Move => r.s) _ (fun b_ a_ h_ => ?_) _ _ ?_ <;> try dsimp only at *)
    | (with_reducible refine foldl_memW (fun r : NearRes => r.s) _ (fun b_ a_ h_ => ?_) _ _ ?_ <;> try dsimp only at *)
    | (with_reducible refine foldl_memW (fun r : Res => r.s) _ (fun b_ a_ h_ => ?_) _ _ ?_ <;> try dsimp only at *)
    | (with_reducible refine foldl_memW (fun r : WrRes => r.s) _ (fun b_ a_ h_ => ?_) _ _ ?_ <;> try dsimp only at *)
    | (with_reducible refine foldl_memW (fun r : State × _ => r.1) _ (fun b_ a_ h_ => ?_) _ _ ?_ <;> try dsimp only at *)
    | (simp (maxDischargeDepth := 12) [*]; done)
    | split
    | intro _
    | (simp_all [MemSt.wf_iff]; done)
    | simp (maxDischargeDepth := 12) [*]

@[simp] theorem State.updItem_mem (s : State) (p r : Nat) (seq : W32) (f : Item → Item) :
    (State.updItem s p r seq f).mem = s.mem := by
  unfold State.updItem
  repeat' first
    | with_reducible rfl
    | (simp; done)
    | split
    | intro _
    | simp

@[simp] theorem State.unhandled_memWf (s : State) (n cause : Nat)  (hw_ : s.mem.wf = true) :
    (State.unhandled s n cause).mem.wf = true := by
  unfold State.unhandled
  repeat' first
    | with_reducible assumption
    | (with_reducible refine State.halt_memWf (hw_ := ?_) ..)
    | (with_reducible refine State.haltWork_memWf (hw_ := ?_) ..)
    | (simp (maxDischargeDepth := 12) [*]; done)
    | split
    | intro _
    | (simp_all [MemSt.wf_iff]; done)
    | simp (maxDischargeDepth := 12) [*]

@[simp] theorem State.haltCheck_memWf (s : State) (n : Nat)  (hw_ : s.mem.wf = true) :
    (State.haltCheck s n).mem.wf = true := by
  unfold State.haltCheck
  repeat' first
    | with_reducible assumption
    | (with_reducible refine State.halt_memWf (hw_ := ?_) ..)
    | (simp (maxDischargeDepth := 12) [*]; done)
    | split
    | intro _
    | (simp_all [MemSt.wf_iff]; done)
    | simp (maxDischargeDepth := 12) [*]

@[simp] theorem State.raiseExc_memWf (s : State) (n k cause : Nat) (addr : Word) (half fetch group : Bool)  (hw_ : s.mem.wf = true) :
    (State.raiseExc s n k cause addr half fetch group).mem.wf = true := by
  unfold State.raiseExc
  repeat' first
    | with_reducible assumption
    | (with_reducible refine State.unhandled_memWf (hw_ := ?_) ..)
    | (with_reducible refine State.haltCheck_memWf (hw_ := ?_) ..)
    | (simp (maxDischargeDepth := 12) [*]; done)
    | split
    | intro _
    | (simp_all [MemSt.wf_iff]; done)
    | simp (maxDischargeDepth := 12) [*]

@[simp] theorem State.scalar_memWf (s : State) (n k : Nat) (f : Thread → State) (hf : ∀ x0, s.mem.wf = true → (f x0).mem.wf = true) (hw_ : s.mem.wf = true) :
    (State.scalar s n k f).mem.wf = true := by
  unfold State.scalar
  repeat' first
    | with_reducible assumption
    | (with_reducible refine State.raiseExc_memWf (hw_ := ?_) ..)
    | (with_reducible refine hf _ ?_)
    | (with_reducible refine hf _ _ ?_)
    | (with_reducible refine hf _ _ _ ?_)
    | (simp (maxDischargeDepth := 12) [*]; done)
    | split
    | intro _
    | (simp_all [MemSt.wf_iff]; done)
    | simp (maxDischargeDepth := 12) [*]

@[simp] theorem State.scalarDone_mem (s : State) (n k : Nat) (t : Thread) (next : Word) :
    (State.scalarDone s n k t next).mem = s.mem := by
  unfold State.scalarDone
  repeat' first
    | with_reducible rfl
    | (simp; done)
    | split
    | intro _
    | simp

@[simp] theorem State.scalarExc_memWf (s : State) (n k cause : Nat) (addr : Word)  (hw_ : s.mem.wf = true) :
    (State.scalarExc s n k cause addr).mem.wf = true := by
  unfold State.scalarExc
  repeat' first
    | with_reducible assumption
    | (with_reducible refine State.raiseExc_memWf (hw_ := ?_) ..)
    | (simp (maxDischargeDepth := 12) [*]; done)
    | split
    | intro _
    | (simp_all [MemSt.wf_iff]; done)
    | simp (maxDischargeDepth := 12) [*]

@[simp] theorem State.atStop_memWf (s : State) (n k : Nat)  (hw_ : s.mem.wf = true) :
    (State.atStop s n k).mem.wf = true := by
  unfold State.atStop
  repeat' first
    | with_reducible assumption
    | (with_reducible refine State.raiseExc_memWf (hw_ := ?_) ..)
    | (with_reducible refine State.haltCheck_memWf (hw_ := ?_) ..)
    | (simp (maxDischargeDepth := 12) [*]; done)
    | split
    | intro _
    | (simp_all [MemSt.wf_iff]; done)
    | simp (maxDischargeDepth := 12) [*]

@[simp] theorem State.retirePair_memWf (s : State) (n k : Nat)  (hw_ : s.mem.wf = true) :
    (State.retirePair s n k).mem.wf = true := by
  unfold State.retirePair
  repeat' first
    | with_reducible assumption
    | (with_reducible refine State.atStop_memWf (hw_ := ?_) ..)
    | (simp (maxDischargeDepth := 12) [*]; done)
    | split
    | intro _
    | (simp_all [MemSt.wf_iff]; done)
    | simp (maxDischargeDepth := 12) [*]

@[simp] theorem State.syncRelease_mem (s : State) (n : Nat) :
    (State.syncRelease s n).mem = s.mem := by
  unfold State.syncRelease
  repeat' first
    | with_reducible rfl
    | (simp; done)
    | split
    | intro _
    | (with_reducible refine (foldl_mem _ ?_ _ _).trans ?_)
    | simp

@[simp] theorem State.raiseGroup_memWf (s : State) (n : Nat)  (hw_ : s.mem.wf = true) :
    (State.raiseGroup s n).mem.wf = true := by
  unfold State.raiseGroup
  repeat' first
    | with_reducible assumption
    | (with_reducible refine State.raiseExc_memWf (hw_ := ?_) ..)
    | (with_reducible refine foldl_memWf _ ?_ _ _ ?_)
    | (with_reducible refine foldl_memW (fun r : Acs => r.s) _ (fun b_ a_ h_ => ?_) _ _ ?_ <;> try dsimp only at *)
    | (with_reducible refine foldl_memW (fun r : Got => r.s) _ (fun b_ a_ h_ => ?_) _ _ ?_ <;> try dsimp only at *)
    | (with_reducible refine foldl_memW (fun r : InjRead => r.s) _ (fun b_ a_ h_ => ?_) _ _ ?_ <;> try dsimp only at *)
    | (with_reducible refine foldl_memW (fun r : JForm => r.s) _ (fun b_ a_ h_ => ?_) _ _ ?_ <;> try dsimp only at *)
    | (with_reducible refine foldl_memW (fun r : JWr => r.s) _ (fun b_ a_ h_ => ?_) _ _ ?_ <;> try dsimp only at *)
    | (with_reducible refine foldl_memW (fun r : Move => r.s) _ (fun b_ a_ h_ => ?_) _ _ ?_ <;> try dsimp only at *)
    | (with_reducible refine foldl_memW (fun r : NearRes => r.s) _ (fun b_ a_ h_ => ?_) _ _ ?_ <;> try dsimp only at *)
    | (with_reducible refine foldl_memW (fun r : Res => r.s) _ (fun b_ a_ h_ => ?_) _ _ ?_ <;> try dsimp only at *)
    | (with_reducible refine foldl_memW (fun r : WrRes => r.s) _ (fun b_ a_ h_ => ?_) _ _ ?_ <;> try dsimp only at *)
    | (with_reducible refine foldl_memW (fun r : State × _ => r.1) _ (fun b_ a_ h_ => ?_) _ _ ?_ <;> try dsimp only at *)
    | (simp (maxDischargeDepth := 12) [*]; done)
    | split
    | intro _
    | (simp_all [MemSt.wf_iff]; done)
    | simp (maxDischargeDepth := 12) [*]

@[simp] theorem State.groupExc_memWf (s : State) (n : Nat) (parts : List Nat) (cause : Nat) (addr : Word)  (hw_ : s.mem.wf = true) :
    (State.groupExc s n parts cause addr).mem.wf = true := by
  unfold State.groupExc
  repeat' first
    | with_reducible assumption
    | (with_reducible refine State.raiseExc_memWf (hw_ := ?_) ..)
    | (with_reducible refine foldl_memWf _ ?_ _ _ ?_)
    | (with_reducible refine foldl_memW (fun r : Acs => r.s) _ (fun b_ a_ h_ => ?_) _ _ ?_ <;> try dsimp only at *)
    | (with_reducible refine foldl_memW (fun r : Got => r.s) _ (fun b_ a_ h_ => ?_) _ _ ?_ <;> try dsimp only at *)
    | (with_reducible refine foldl_memW (fun r : InjRead => r.s) _ (fun b_ a_ h_ => ?_) _ _ ?_ <;> try dsimp only at *)
    | (with_reducible refine foldl_memW (fun r : JForm => r.s) _ (fun b_ a_ h_ => ?_) _ _ ?_ <;> try dsimp only at *)
    | (with_reducible refine foldl_memW (fun r : JWr => r.s) _ (fun b_ a_ h_ => ?_) _ _ ?_ <;> try dsimp only at *)
    | (with_reducible refine foldl_memW (fun r : Move => r.s) _ (fun b_ a_ h_ => ?_) _ _ ?_ <;> try dsimp only at *)
    | (with_reducible refine foldl_memW (fun r : NearRes => r.s) _ (fun b_ a_ h_ => ?_) _ _ ?_ <;> try dsimp only at *)
    | (with_reducible refine foldl_memW (fun r : Res => r.s) _ (fun b_ a_ h_ => ?_) _ _ ?_ <;> try dsimp only at *)
    | (with_reducible refine foldl_memW (fun r : WrRes => r.s) _ (fun b_ a_ h_ => ?_) _ _ ?_ <;> try dsimp only at *)
    | (with_reducible refine foldl_memW (fun r : State × _ => r.1) _ (fun b_ a_ h_ => ?_) _ _ ?_ <;> try dsimp only at *)
    | (simp (maxDischargeDepth := 12) [*]; done)
    | split
    | intro _
    | (simp_all [MemSt.wf_iff]; done)
    | simp (maxDischargeDepth := 12) [*]

end Sys2Proof.Machine
end

