-- ==== Sys2Proof/Laws/MemoryRecords.lean ====
section
/-!
SUPPORT. The operations of Records.lean leave memory as it is, or keep its canonical form.
-/
namespace Sys2Proof.Machine

@[simp] theorem State.fireRing_mem (s : State) (p r : Nat) :
    (State.fireRing s p r).mem = s.mem := by
  unfold State.fireRing
  repeat' first
    | with_reducible rfl
    | (simp; done)
    | split
    | intro _
    | simp

@[simp] theorem State.moderate_mem (s : State) (i : Item) :
    (State.moderate s i).mem = s.mem := by
  unfold State.moderate
  repeat' first
    | with_reducible rfl
    | (simp; done)
    | split
    | intro _
    | simp

@[simp] theorem State.putRecord_memWf (s : State) (i : Item) (rt : Nat)  (hw_ : s.mem.wf = true) :
    (State.putRecord s i rt).mem.wf = true := by
  unfold State.putRecord
  repeat' first
    | with_reducible assumption
    | (with_reducible refine State.wrHost_memWf (hw_ := ?_) ..)
    | (simp (maxDischargeDepth := 12) [*]; done)
    | split
    | intro _
    | (simp_all [MemSt.wf_iff]; done)
    | simp (maxDischargeDepth := 12) [*]

@[simp] theorem State.writeRecord_memWf (s : State) (i : Item)  (hw_ : s.mem.wf = true) :
    (State.writeRecord s i).mem.wf = true := by
  unfold State.writeRecord
  repeat' first
    | with_reducible assumption
    | (with_reducible refine State.putRecord_memWf (hw_ := ?_) ..)
    | (simp (maxDischargeDepth := 12) [*]; done)
    | split
    | intro _
    | (simp_all [MemSt.wf_iff]; done)
    | simp (maxDischargeDepth := 12) [*]

@[simp] theorem State.journal_mem (s : State) (i : Item) (stage : Stage) :
    (State.journal s i stage).mem = s.mem := by
  unfold State.journal
  repeat' first
    | with_reducible rfl
    | (simp; done)
    | split
    | intro _
    | simp

@[simp] theorem State.toStage_mem (s : State) (p r : Nat) (seq : W32) (g : Stage) :
    (State.toStage s p r seq g).mem = s.mem := by
  unfold State.toStage
  repeat' first
    | with_reducible rfl
    | (simp; done)
    | split
    | intro _
    | simp

@[simp] theorem State.finish_memWf (s : State) (p r : Nat) (seq : W32)  (hw_ : s.mem.wf = true) :
    (State.finish s p r seq).mem.wf = true := by
  unfold State.finish
  repeat' first
    | with_reducible assumption
    | (with_reducible refine State.writeRecord_memWf (hw_ := ?_) ..)
    | (simp (maxDischargeDepth := 12) [*]; done)
    | split
    | intro _
    | (simp_all [MemSt.wf_iff]; done)
    | simp (maxDischargeDepth := 12) [*]

@[simp] theorem State.reject_memWf (s : State) (p r : Nat) (seq : W32) (st result : Nat)  (hw_ : s.mem.wf = true) :
    (State.reject s p r seq st result).mem.wf = true := by
  unfold State.reject
  repeat' first
    | with_reducible assumption
    | (with_reducible refine State.finish_memWf (hw_ := ?_) ..)
    | (simp (maxDischargeDepth := 12) [*]; done)
    | split
    | intro _
    | (simp_all [MemSt.wf_iff]; done)
    | simp (maxDischargeDepth := 12) [*]

@[simp] theorem State.revertOne_memWf (s : State) (u : Undo)  (hw_ : s.mem.wf = true) :
    (State.revertOne s u).mem.wf = true := by
  have hw := hw_
  rw [MemSt.wf_iff] at hw
  obtain ⟨h1, h2, h3, h4⟩ := hw
  unfold State.revertOne
  dsimp only
  split
  · exact hw_
  split
  · rw [MemSt.wf_iff]; simp [h1, h2, h3, h4]
  split
  · rw [MemSt.wf_iff]; simp [h1, h2, h3, h4]
  split
  · exact State.wrHost_memWf _ _ _ hw_
  · rw [MemSt.wf_iff]; simp [h1, h2, h3, h4]

@[simp] theorem State.indeterminate_memWf (s : State) (l : List Undo)  (hw_ : s.mem.wf = true) :
    (State.indeterminate s l).mem.wf = true := by
  unfold State.indeterminate
  repeat' first
    | with_reducible assumption
    | (with_reducible refine State.revertOne_memWf (hw_ := ?_) ..)
    | (with_reducible refine foldl_memWf _ ?_ _ _ ?_)
    | (with_reducible refine foldl_memW (fun r : Acs => r.s) _ (fun b_ a_ h_ => ?_) _ _ ?_ <;> try dsimp only at *)
    | (with_reducible refine foldl_memW (fun r : Got => r.s) _ (fun b_ a_ h_ => ?_) _ _ ?_ <;> try dsimp only at *)
    | (with_reducible refine foldl_memW (fun r : InjRead => r.s) _ (fun b_ a_ h_ => ?_) _ _ ?_ <;> try dsimp only at *)
    | (with_reducible refine foldl_memW (fun r : JForm => r.s) _ (fun b_ a_ h_ => ?_) _ _ ?_ <;> try dsimp only at *)
    | (with_reducible refine foldl_memW (fun r : JWr => r.s) _ (fun b_ a_ h_ => ?_) _ _ ?_ <;> try dsimp only at *)
    | (with_reducible refine foldl_memW (fun r : Move => r.s) _ (fun b_ a_ h_ => ?_) _ _ ?_ <;> try dsimp only at *)
    | (with_reducible refine foldl_memW (fun r : NearRes => r.s) _ (fun b_ a_ h_ => ?_) _ _ ?_ <;> try dsimp only at *)
    | (with_reducible refine foldl_memW (fun r : Res => r.s) _ (fun b_ a_ h_ => ?_) _ _ ?_ <;> try dsimp only at *)
    | (with_reducible refine foldl_memW (fun r : WrRes => r.s) _ (fun b_ a_ h_ => ?_) _ _ ?_ <;> try dsimp only at *)
    | (with_reducible refine foldl_memW (fun r : State × _ => r.1) _ (fun b_ a_ h_ => ?_) _ _ ?_ <;> try dsimp only at *)
    | (simp (maxDischargeDepth := 12) [*]; done)
    | split
    | intro _
    | (simp_all [MemSt.wf_iff]; done)
    | simp (maxDischargeDepth := 12) [*]

end Sys2Proof.Machine
end

