-- ==== Sys2Proof/Laws/MemoryNear.lean ====
section
/-!
SUPPORT. The operations of Near.lean leave memory as it is, or keep its canonical form.
-/
namespace Sys2Proof.Machine

@[simp] theorem State.nearReport_mem (s : State) (p ty a : Nat) :
    (State.nearReport s p ty a).mem = s.mem := by
  unfold State.nearReport
  repeat' first
    | with_reducible rfl
    | (simp; done)
    | split
    | intro _
    | simp

@[simp] theorem NearRes.write_memWf (r : NearRes) (p ld d : Nat) (b : List Byte)  (hw_ : r.s.mem.wf = true) :
    (NearRes.write r p ld d b).s.mem.wf = true := by
  unfold NearRes.write
  repeat' first
    | with_reducible assumption
    | (with_reducible refine State.wrSlice_memWf (hw_ := ?_) ..)
    | (simp (maxDischargeDepth := 12) [*]; done)
    | split
    | intro _
    | (simp_all [MemSt.wf_iff]; done)
    | simp (maxDischargeDepth := 12) [*]

@[simp] theorem State.nearRead_mem (s : State) (p ld d n : Nat) :
    (State.nearRead s p ld d n).1.mem = s.mem := by
  unfold State.nearRead
  repeat' first
    | with_reducible rfl
    | (simp; done)
    | split
    | intro _
    | simp

@[simp] theorem State.nearFill_memWf (s : State) (p ld : Nat) (w : Near)  (hw_ : s.mem.wf = true) :
    (State.nearFill s p ld w).s.mem.wf = true := by
  unfold State.nearFill
  refine foldl_memW (fun r : NearRes => r.s) _ (fun r x h => ?_) _ _ hw_
  dsimp only
  split
  · simp [h]
  · exact foldl_memW (fun r : NearRes => r.s) _ (fun r y h => by simp [h]) _ _ h

@[simp] theorem State.nearAddReduce_memWf (s : State) (p ld : Nat) (w : Near) (data : List Byte)  (hw_ : s.mem.wf = true) :
    (State.nearAddReduce s p ld w data).s.mem.wf = true := by
  unfold State.nearAddReduce
  exact foldl_memW (fun r : NearRes => r.s) _ (fun r x h => by dsimp only; split <;> simp [h]) _ _ hw_

@[simp] theorem State.nearGather_mem (s : State) (p ld : Nat) (w : Near) (data : List Byte) :
    (State.nearGather s p ld w data).s.mem = s.mem := by
  unfold State.nearGather
  dsimp only
  exact foldl_memP (fun r : State × Option Nat × List (Option (List W32)) => r.1) _
    (fun r x => foldl_memP (fun r : State × Option Nat × List (Option (List W32)) => r.1) _ (fun r x => by simp) _ _) _ _

@[simp] theorem State.nearCompare_mem (s : State) (p ld : Nat) (w : Near) :
    (State.nearCompare s p ld w).s.mem = s.mem := by
  unfold State.nearCompare
  exact foldl_memP (fun r : NearRes => r.s) _ (fun r x => by dsimp only; split <;> simp) _ _

@[simp] theorem State.nearRun_memWf (s : State) (p ld : Nat) (w : Near) (data : List Byte)  (hw_ : s.mem.wf = true) :
    (State.nearRun s p ld w data).s.mem.wf = true := by
  unfold State.nearRun
  repeat' first
    | with_reducible assumption
    | (with_reducible refine State.nearFill_memWf (hw_ := ?_) ..)
    | (with_reducible refine State.nearAddReduce_memWf (hw_ := ?_) ..)
    | (simp (maxDischargeDepth := 12) [*]; done)
    | split
    | intro _
    | (simp_all [MemSt.wf_iff]; done)
    | simp (maxDischargeDepth := 12) [*]

end Sys2Proof.Machine
end

