-- ==== Sys2Proof/Laws/MemoryBuffers.lean ====
section
/-!
SUPPORT. The operations of Buffers.lean leave memory as it is, or keep its canonical form.
-/
namespace Sys2Proof.Machine

@[simp] theorem State.spaceTouch_mem (s : State) (ld kind a n hint : Nat) (wr : Bool) :
    (State.spaceTouch s ld kind a n hint wr).mem = s.mem := by
  unfold State.spaceTouch
  repeat' first
    | with_reducible rfl
    | (simp; done)
    | split
    | intro _
    | simp

@[simp] theorem State.granWrite_memWf (s : State) (ld kind a : Nat) (b : List Byte) (hint : Nat := 0)  (hw_ : s.mem.wf = true) :
    (State.granWrite s ld kind a b hint).s.mem.wf = true := by
  unfold State.granWrite
  repeat' first
    | with_reducible assumption
    | (with_reducible refine State.wrSlice_memWf (hw_ := ?_) ..)
    | (with_reducible refine State.wrFar_memWf (hw_ := ?_) ..)
    | (with_reducible refine State.wrHost_memWf (hw_ := ?_) ..)
    | (with_reducible refine JWr.slice_memWf (hw_ := ?_) ..)
    | (with_reducible refine JWr.far_memWf (hw_ := ?_) ..)
    | (simp (maxDischargeDepth := 12) [*]; done)
    | split
    | intro _
    | (simp_all [MemSt.wf_iff]; done)
    | simp (maxDischargeDepth := 12) [*]

@[simp] theorem State.granPoison_memWf (s : State) (ld kind a : Nat)  (hw_ : s.mem.wf = true) :
    (State.granPoison s ld kind a).mem.wf = true := by
  unfold State.granPoison
  split
  · have h := State.wrHost_memWf s (a / 64 * 64) (zeros 64) hw_
    dsimp only
    generalize s.wrHost (a / 64 * 64) (zeros 64) = u at h ⊢
    rw [MemSt.wf_iff] at h ⊢
    exact h
  · split
    · simp [*]
    · simp [*]
    · exact hw_

@[simp] theorem State.spaceReport_mem (s : State) (p ty req kind a : Nat) :
    (State.spaceReport s p ty req kind a).mem = s.mem := by
  unfold State.spaceReport
  repeat' first
    | with_reducible rfl
    | (simp; done)
    | split
    | intro _
    | simp

@[simp] theorem State.itemWrite_memWf (s : State) (p r : Nat) (seq : W32) (req kind a : Nat) (b : List Byte) (hint : Nat := 0)  (hw_ : s.mem.wf = true) :
    (State.itemWrite s p r seq req kind a b hint).mem.wf = true := by
  unfold State.itemWrite
  repeat' first
    | with_reducible assumption
    | (with_reducible refine State.granWrite_memWf (hw_ := ?_) ..)
    | (with_reducible refine foldl_memWf _ ?_ _ _ ?_)
    | (with_reducible refine foldl_memW (fun r : Acs => r.s) _ (fun b_ a_ h_ => ?_) _ _ ?_ <;> try dsimp only at *)
    | (with_reducible refine foldl_memW (fun r : Got => r.s) _ (fun b_ a_ h_ => ?_) _ _ ?_ <;> try dsimp only at *)
    | (with_reducible refine foldl_memW (fun r : InjRead => r.s) _ (fun b_ a_ h_ => ?_) _ _ ?_ <;> try dsimp only at *)
    | (with_reducible refine foldl_memW (fun r : JForm => r.s) _ (fun b_ a_ h_ => ?_) _ _ ?_ <;> try dsimp only at *)
    | (with_reducible refine foldl_memW (fun r : JWr => r.s) _ (fun b_ a_ h_ => ?_) _ _ ?_ <;> try dsimp only at *)
    | (with_reducible refine foldl_memW (fun r : Move => r.s) _ (fun b_ a_ h_ => ?_) _ _ ?_ <;> try dsimp only at *)
    | (with_reducible refine foldl_memW (fun r : NearRes => r.s) _ (fun b_ a_ h_ => ?_) _ _ ?_ <;> try dsimp only at *)
    | (with_reducible refine foldl_memW (fun r : Res => r.s) _ (fun b_ a_ h_ => ?_) _ _ ?_ <;> try dsimp only at *)
    | (with_reducible refine foldl_memW (fun r : WrRes => r.s) _ (fun b_ a_ h_ => ?_) _ _ ?_ <;> try dsimp only at *)
    | (with_reducible refine foldl_memW (fun r : State × _ => r.1) _ (fun b_ a_ h_ => ?_) _ _ ?_ <;> try dsimp only at *)
    | (simp (maxDischargeDepth := 12) [*]; done)
    | split
    | intro _
    | (simp_all [MemSt.wf_iff]; done)
    | simp (maxDischargeDepth := 12) [*]

@[simp] theorem State.itemCopy_memWf (s0 : State) (p r : Nat) (seq : W32) (req : Nat) (ks sa kd da n : Nat) (hostFail : Option Nat) (hint : Nat)  (hw_ : s0.mem.wf = true) :
    (State.itemCopy s0 p r seq req ks sa kd da n hostFail hint).mem.wf = true := by
  unfold State.itemCopy
  repeat' first
    | with_reducible assumption
    | (with_reducible refine State.granPoison_memWf (hw_ := ?_) ..)
    | (with_reducible refine State.itemWrite_memWf (hw_ := ?_) ..)
    | (with_reducible refine foldl_memWf _ ?_ _ _ ?_)
    | (with_reducible refine foldl_memW (fun r : Acs => r.s) _ (fun b_ a_ h_ => ?_) _ _ ?_ <;> try dsimp only at *)
    | (with_reducible refine foldl_memW (fun r : Got => r.s) _ (fun b_ a_ h_ => ?_) _ _ ?_ <;> try dsimp only at *)
    | (with_reducible refine foldl_memW (fun r : InjRead => r.s) _ (fun b_ a_ h_ => ?_) _ _ ?_ <;> try dsimp only at *)
    | (with_reducible refine foldl_memW (fun r : JForm => r.s) _ (fun b_ a_ h_ => ?_) _ _ ?_ <;> try dsimp only at *)
    | (with_reducible refine foldl_memW (fun r : JWr => r.s) _ (fun b_ a_ h_ => ?_) _ _ ?_ <;> try dsimp only at *)
    | (with_reducible refine foldl_memW (fun r : Move => r.s) _ (fun b_ a_ h_ => ?_) _ _ ?_ <;> try dsimp only at *)
    | (with_reducible refine foldl_memW (fun r : NearRes => r.s) _ (fun b_ a_ h_ => ?_) _ _ ?_ <;> try dsimp only at *)
    | (with_reducible refine foldl_memW (fun r : Res => r.s) _ (fun b_ a_ h_ => ?_) _ _ ?_ <;> try dsimp only at *)
    | (with_reducible refine foldl_memW (fun r : WrRes => r.s) _ (fun b_ a_ h_ => ?_) _ _ ?_ <;> try dsimp only at *)
    | (with_reducible refine foldl_memW (fun r : State × _ => r.1) _ (fun b_ a_ h_ => ?_) _ _ ?_ <;> try dsimp only at *)
    | (simp (maxDischargeDepth := 12) [*]; done)
    | split
    | intro _
    | (simp_all [MemSt.wf_iff]; done)
    | simp (maxDischargeDepth := 12) [*]

end Sys2Proof.Machine
end

