-- ==== Sys2Proof/Laws/MemoryCollect.lean ====
section
/-!
SUPPORT. The operations of Collect.lean leave memory as it is, or keep its canonical form.
-/
namespace Sys2Proof.Machine

@[simp] theorem foldr_revertOne_memWf (l : List Undo) (s : State) (h : s.mem.wf = true) :
    (l.foldr (fun x y => y.revertOne x) s).mem.wf = true :=
  foldr_memWf _ (fun _ _ h => State.revertOne_memWf _ _ h) _ _ h


@[simp] theorem State.updColl_mem (s : State) (p r : Nat) (seq : W32) (f : Coll → Coll) :
    (State.updColl s p r seq f).mem = s.mem := by
  unfold State.updColl
  repeat' first
    | with_reducible rfl
    | (simp; done)
    | split
    | intro _
    | simp

@[simp] theorem State.cvMsg_mem (s : State) (d : Nat) :
    (State.cvMsg s d).1.mem = s.mem := by
  unfold State.cvMsg
  repeat' first
    | with_reducible rfl
    | (simp; done)
    | split
    | intro _
    | simp

@[simp] theorem State.collSend_mem (s : State) (c : Coll) (peer port msg step : Nat) (b : List Byte) :
    (State.collSend s c peer port msg step b).mem = s.mem := by
  unfold State.collSend
  repeat' first
    | with_reducible rfl
    | (simp; done)
    | split
    | intro _
    | simp

@[simp] theorem State.collBegin_mem (s : State) (c : Coll) :
    (State.collBegin s c).mem = s.mem := by
  unfold State.collBegin
  repeat' first
    | with_reducible rfl
    | (simp; done)
    | split
    | intro _
    | simp

@[simp] theorem State.collTake_mem (s : State) (x : Coll) :
    (State.collTake s x).mem = s.mem := by
  unfold State.collTake
  repeat' first
    | with_reducible rfl
    | (simp; done)
    | split
    | intro _
    | simp

@[simp] theorem State.collNext_mem (s : State) (p h : Nat) :
    (State.collNext s p h).mem = s.mem := by
  unfold State.collNext
  repeat' first
    | with_reducible rfl
    | (simp; done)
    | split
    | intro _
    | simp

@[simp] theorem State.collLeave_mem (s : State) (c : Coll) :
    (State.collLeave s c).mem = s.mem := by
  unfold State.collLeave
  repeat' first
    | with_reducible rfl
    | (simp; done)
    | split
    | intro _
    | simp

@[simp] theorem State.cvAbort_mem (s : State) (peer port msg st : Nat) :
    (State.cvAbort s peer port msg st).mem = s.mem := by
  unfold State.cvAbort
  repeat' first
    | with_reducible rfl
    | (simp; done)
    | split
    | intro _
    | simp

@[simp] theorem State.collAbort_mem (s : State) (c : Coll) (st : Nat) :
    (State.collAbort s c st).mem = s.mem := by
  unfold State.collAbort
  repeat' first
    | with_reducible rfl
    | (simp; done)
    | split
    | intro _
    | simp

@[simp] theorem State.collWrite_memWf (s : State) (c : Coll) (q : Nat) (b : List Byte)  (hw_ : s.mem.wf = true) :
    (State.collWrite s c q b).mem.wf = true := by
  unfold State.collWrite
  repeat' first
    | with_reducible assumption
    | (with_reducible refine State.itemWrite_memWf (hw_ := ?_) ..)
    | (simp (maxDischargeDepth := 12) [*]; done)
    | split
    | intro _
    | (simp_all [MemSt.wf_iff]; done)
    | simp (maxDischargeDepth := 12) [*]

@[simp] theorem State.collDone_memWf (s : State) (c : Coll)  (hw_ : s.mem.wf = true) :
    (State.collDone s c).mem.wf = true := by
  unfold State.collDone
  repeat' first
    | with_reducible assumption
    | (with_reducible refine State.finish_memWf (hw_ := ?_) ..)
    | (with_reducible refine State.indeterminate_memWf (hw_ := ?_) ..)
    | (simp (maxDischargeDepth := 12) [*]; done)
    | split
    | intro _
    | (simp_all [MemSt.wf_iff]; done)
    | simp (maxDischargeDepth := 12) [*]

@[simp] theorem State.collStep_memWf (s : State) (c : Coll)  (hw_ : s.mem.wf = true) :
    (State.collStep s c).mem.wf = true := by
  unfold State.collStep
  repeat' first
    | with_reducible assumption
    | (with_reducible refine State.collWrite_memWf (hw_ := ?_) ..)
    | (with_reducible refine State.collDone_memWf (hw_ := ?_) ..)
    | (simp (maxDischargeDepth := 12) [*]; done)
    | split
    | intro _
    | (simp_all [MemSt.wf_iff]; done)
    | simp (maxDischargeDepth := 12) [*]

@[simp] theorem State.collRun_memWf (s : State) (p r : Nat) (seq : W32) (y_ : Nat)  (hw_ : s.mem.wf = true) :
    (State.collRun s p r seq y_).mem.wf = true := by
  induction y_ generalizing s with
  | zero => exact ‹_›
  | succ n ih =>
    unfold State.collRun
    repeat' first
      | with_reducible rfl
      | (simp [ih, *]; done)
      | split
      | simp [ih, *]

@[simp] theorem State.collStop_memWf (s : State) (c : Coll) (st : Nat) (tell : List (Nat × Nat × Nat))  (hw_ : s.mem.wf = true) :
    (State.collStop s c st tell).mem.wf = true := by
  unfold State.collStop
  repeat' first
    | with_reducible assumption
    | (with_reducible refine State.finish_memWf (hw_ := ?_) ..)
    | (with_reducible refine State.revertOne_memWf (hw_ := ?_) ..)
    | (with_reducible refine State.indeterminate_memWf (hw_ := ?_) ..)
    | (with_reducible refine foldl_memWf _ ?_ _ _ ?_)
    | (with_reducible refine foldl_memW (fun r : Acs => r.s) _ (fun b_ a_ h_ => ?_) _ _ ?_ <;> try dsimp only at *)
    | (with_reducible refine foldl_memW (fun r : Got => r.s) _ (fun b_ a_ h_ => ?_) _ _ ?_ <;> try dsimp only at *)
    | (with_reducible refine foldl_memW (fun r : InjRead => r.s) _ (fun b_ a_ h_ => ?_) _ _ ?_ <;> try dsimp only at *)
    | (with_reducible refine foldl_memW (fun r : JForm => r.s) _ (fun b_ a_ h_ => ?_) _ _ ?_ <;> try dsimp only at *)
    | (with_reducible refine foldl_memW (fun r : JWr => r.s) _ (fun b_ a_ h_ => ?_) _ _ ?_ <;> try dsimp only at *)
    | (with_reducible refine foldl_memW (fun r : Move => r.s) _ (fun b_ a_ h_ => ?_) _ _ ?_ <;> try dsimp only at *)
    | (with_reducible refine foldl_memW (fun r : NearRes => r.s) _ (fun b_ a_ h_ => ?_) _ _ ?_ <;> try dsimp only at *)
    | (with_reducible refine foldl_memW (fun r : Res => r.s) _ (fun b_ a_ h_ => ?_) _ _ ?_ <;> try dsimp only at *)
    | (with_reducible refine foldl_memW (fun r : WrRes => r.s) _ (fun b_ a_ h_ => ?_) _ _ ?_ <;> try dsimp only at *)
    | (with_reducible refine foldl_memW (fun r : State × _ => r.1) _ (fun b_ a_ h_ => ?_) _ _ ?_ <;> try dsimp only at *)
    | (simp (maxDischargeDepth := 12) [*]; done)
    | split
    | intro _
    | (simp_all [MemSt.wf_iff]; done)
    | simp (maxDischargeDepth := 12) [*]

@[simp] theorem State.collStart_memWf (s : State) (c : Coll)  (hw_ : s.mem.wf = true) :
    (State.collStart s c).mem.wf = true := by
  unfold State.collStart
  repeat' first
    | with_reducible assumption
    | (with_reducible refine State.collWrite_memWf (hw_ := ?_) ..)
    | (with_reducible refine State.collDone_memWf (hw_ := ?_) ..)
    | (with_reducible refine State.collRun_memWf (hw_ := ?_) ..)
    | (with_reducible refine State.collStop_memWf (hw_ := ?_) ..)
    | (simp (maxDischargeDepth := 12) [*]; done)
    | split
    | intro _
    | (simp_all [MemSt.wf_iff]; done)
    | simp (maxDischargeDepth := 12) [*]

@[simp] theorem State.collReject_memWf (s : State) (c : Coll)  (hw_ : s.mem.wf = true) :
    (State.collReject s c).mem.wf = true := by
  unfold State.collReject
  repeat' first
    | with_reducible assumption
    | (with_reducible refine State.finish_memWf (hw_ := ?_) ..)
    | (with_reducible refine State.revertOne_memWf (hw_ := ?_) ..)
    | (with_reducible refine foldl_memWf _ ?_ _ _ ?_)
    | (with_reducible refine foldl_memW (fun r : Acs => r.s) _ (fun b_ a_ h_ => ?_) _ _ ?_ <;> try dsimp only at *)
    | (with_reducible refine foldl_memW (fun r : Got => r.s) _ (fun b_ a_ h_ => ?_) _ _ ?_ <;> try dsimp only at *)
    | (with_reducible refine foldl_memW (fun r : InjRead => r.s) _ (fun b_ a_ h_ => ?_) _ _ ?_ <;> try dsimp only at *)
    | (with_reducible refine foldl_memW (fun r : JForm => r.s) _ (fun b_ a_ h_ => ?_) _ _ ?_ <;> try dsimp only at *)
    | (with_reducible refine foldl_memW (fun r : JWr => r.s) _ (fun b_ a_ h_ => ?_) _ _ ?_ <;> try dsimp only at *)
    | (with_reducible refine foldl_memW (fun r : Move => r.s) _ (fun b_ a_ h_ => ?_) _ _ ?_ <;> try dsimp only at *)
    | (with_reducible refine foldl_memW (fun r : NearRes => r.s) _ (fun b_ a_ h_ => ?_) _ _ ?_ <;> try dsimp only at *)
    | (with_reducible refine foldl_memW (fun r : Res => r.s) _ (fun b_ a_ h_ => ?_) _ _ ?_ <;> try dsimp only at *)
    | (with_reducible refine foldl_memW (fun r : WrRes => r.s) _ (fun b_ a_ h_ => ?_) _ _ ?_ <;> try dsimp only at *)
    | (with_reducible refine foldl_memW (fun r : State × _ => r.1) _ (fun b_ a_ h_ => ?_) _ _ ?_ <;> try dsimp only at *)
    | (simp (maxDischargeDepth := 12) [*]; done)
    | split
    | intro _
    | (simp_all [MemSt.wf_iff]; done)
    | simp (maxDischargeDepth := 12) [*]

@[simp] theorem State.collPacket_memWf (s : State) (c : Coll) (e : CvEarly)  (hw_ : s.mem.wf = true) :
    (State.collPacket s c e).mem.wf = true := by
  unfold State.collPacket
  repeat' first
    | with_reducible assumption
    | (with_reducible refine State.collRun_memWf (hw_ := ?_) ..)
    | (with_reducible refine State.collStop_memWf (hw_ := ?_) ..)
    | (with_reducible refine State.collStart_memWf (hw_ := ?_) ..)
    | (with_reducible refine State.collReject_memWf (hw_ := ?_) ..)
    | (simp (maxDischargeDepth := 12) [*]; done)
    | split
    | intro _
    | (simp_all [MemSt.wf_iff]; done)
    | simp (maxDischargeDepth := 12) [*]

@[simp] theorem State.collDrain_memWf (s : State) (p h : Nat) (y_ : Nat)  (hw_ : s.mem.wf = true) :
    (State.collDrain s p h y_).mem.wf = true := by
  induction y_ generalizing s with
  | zero => exact ‹_›
  | succ n ih =>
    unfold State.collDrain
    repeat' first
      | with_reducible rfl
      | (simp [ih, *]; done)
      | split
      | simp [ih, *]

@[simp] theorem State.collArrive_memWf (s : State) (e : CvEarly)  (hw_ : s.mem.wf = true) :
    (State.collArrive s e).mem.wf = true := by
  unfold State.collArrive
  repeat' first
    | with_reducible assumption
    | (with_reducible refine State.collDrain_memWf (hw_ := ?_) ..)
    | (simp (maxDischargeDepth := 12) [*]; done)
    | split
    | intro _
    | (simp_all [MemSt.wf_iff]; done)
    | simp (maxDischargeDepth := 12) [*]

end Sys2Proof.Machine
end

