-- ==== Sys2Proof/Laws/MemoryTallies.lean ====
section
/-!
SUPPORT. The operations of Tallies.lean leave memory as it is, or keep its canonical form.
-/
namespace Sys2Proof.Machine

@[simp] theorem State.setTallyVal_mem (s : State) (id : Nat) (v : W32) :
    (State.setTallyVal s id v).mem = s.mem := by
  unfold State.setTallyVal
  repeat' first
    | with_reducible rfl
    | (simp; done)
    | split
    | intro _
    | simp

@[simp] theorem State.sigDone_mem (s : State) (n k : Nat) (fail : Option (Nat × Word)) :
    (State.sigDone s n k fail).mem = s.mem := by
  unfold State.sigDone
  repeat' first
    | with_reducible rfl
    | (simp; done)
    | split
    | intro _
    | simp

@[simp] theorem State.rxWatchDone_mem (s : State) (peer port msg : Nat) :
    (State.rxWatchDone s peer port msg).mem = s.mem := by
  unfold State.rxWatchDone
  repeat' first
    | with_reducible rfl
    | (simp; done)
    | split
    | intro _
    | simp

@[simp] theorem State.tallyGive_memWf (s : State) (o : TOwner) (op : Nat) (v : W32)  (hw_ : s.mem.wf = true) :
    (State.tallyGive s o op v).mem.wf = true := by
  unfold State.tallyGive
  repeat' first
    | with_reducible assumption
    | (with_reducible refine State.finish_memWf (hw_ := ?_) ..)
    | (simp (maxDischargeDepth := 12) [*]; done)
    | split
    | intro _
    | (simp_all [MemSt.wf_iff]; done)
    | simp (maxDischargeDepth := 12) [*]

@[simp] theorem State.tallyFail_memWf (s : State) (o : TOwner) (op id st : Nat)  (hw_ : s.mem.wf = true) :
    (State.tallyFail s o op id st).mem.wf = true := by
  unfold State.tallyFail
  repeat' first
    | with_reducible assumption
    | (with_reducible refine State.finish_memWf (hw_ := ?_) ..)
    | (simp (maxDischargeDepth := 12) [*]; done)
    | split
    | intro _
    | (simp_all [MemSt.wf_iff]; done)
    | simp (maxDischargeDepth := 12) [*]

@[simp] theorem State.failWatches_memWf (s : State) (id st : Nat) (keep : TOwner → Bool)  (hw_ : s.mem.wf = true) :
    (State.failWatches s id st keep).mem.wf = true := by
  unfold State.failWatches
  repeat' first
    | with_reducible assumption
    | (with_reducible refine State.tallyFail_memWf (hw_ := ?_) ..)
    | (with_reducible refine foldl_memWf _ ?_ _ _ ?_)
    | (with_reducible refine foldl_memW (fun r : Acs => r.s) _ (fun b_ a_ h_ => ?_) _ _ ?_ <;> try dsimp only at *)
    | (with_reducible refine foldl_memW (fun r : Got => r.s) _ (fun b_ a_ h_ => ?_) _ _ ?_ <;> try dsimp only at *)
    | (with_reducible refine foldl_memW (fun r : InjRead => r.s) _ (fun b_ a_ h_ => ?_) _ _ ?_ <;> try dsimp only at *)
    | (with_reducible refine foldl_memW (fun r : JForm => r.s) _ (fun b_ a_ h_ => ?_) _ _ ?_ <;> try dsimp only at *)
    | (with_reducible refine foldl_memW (fun r : JWr => r.s) _ (fun b_ a_ h_ => ?_) _ _ ?_ <;> try dsimp only at *)
    | (with_reducible refine foldl_memW (fun r : Move => r.s) _ (fun b_ a_ h_ => ?_) _ _ ?_ <;> try dsimp only at *)
    | (with_reducible refine foldl_memW (fun r : NearRes => r.s) _ (fun b_ a_ h_ => ?_) _ _ ?_ <;> try dsimp only at *)
    | (with_reducible refine foldl_memW (fun r : Res => r.s) _ (fun b_ a_ h_ => ?_) _ _ ?_ <;> try dsimp only at *)
    | (with_reducible refine foldl_memW (fun r : WrRes => r.s) _ (fun b_ a_ h_ => ?_) _ _ ?_ <;> try dsimp only at *)
    | (with_reducible refine foldl_memW (fun r : State × _ => r.1) _ (fun b_ a_ h_ => ?_) _ _ ?_ <;> try dsimp only at *)
    | (simp (maxDischargeDepth := 12) [*]; done)
    | split
    | intro _
    | (simp_all [MemSt.wf_iff]; done)
    | simp (maxDischargeDepth := 12) [*]

@[simp] theorem State.poisonTally_memWf (s : State) (id : Nat)  (hw_ : s.mem.wf = true) :
    (State.poisonTally s id).mem.wf = true := by
  unfold State.poisonTally
  repeat' first
    | with_reducible assumption
    | (with_reducible refine State.failWatches_memWf (hw_ := ?_) ..)
    | (simp (maxDischargeDepth := 12) [*]; done)
    | split
    | intro _
    | (simp_all [MemSt.wf_iff]; done)
    | simp (maxDischargeDepth := 12) [*]

@[simp] theorem State.wake_memWf (s : State) (id : Nat) (v : W32)  (hw_ : s.mem.wf = true) :
    (State.wake s id v).mem.wf = true := by
  unfold State.wake
  repeat' first
    | with_reducible assumption
    | (with_reducible refine State.tallyGive_memWf (hw_ := ?_) ..)
    | (with_reducible refine foldl_memWf _ ?_ _ _ ?_)
    | (with_reducible refine foldl_memW (fun r : Acs => r.s) _ (fun b_ a_ h_ => ?_) _ _ ?_ <;> try dsimp only at *)
    | (with_reducible refine foldl_memW (fun r : Got => r.s) _ (fun b_ a_ h_ => ?_) _ _ ?_ <;> try dsimp only at *)
    | (with_reducible refine foldl_memW (fun r : InjRead => r.s) _ (fun b_ a_ h_ => ?_) _ _ ?_ <;> try dsimp only at *)
    | (with_reducible refine foldl_memW (fun r : JForm => r.s) _ (fun b_ a_ h_ => ?_) _ _ ?_ <;> try dsimp only at *)
    | (with_reducible refine foldl_memW (fun r : JWr => r.s) _ (fun b_ a_ h_ => ?_) _ _ ?_ <;> try dsimp only at *)
    | (with_reducible refine foldl_memW (fun r : Move => r.s) _ (fun b_ a_ h_ => ?_) _ _ ?_ <;> try dsimp only at *)
    | (with_reducible refine foldl_memW (fun r : NearRes => r.s) _ (fun b_ a_ h_ => ?_) _ _ ?_ <;> try dsimp only at *)
    | (with_reducible refine foldl_memW (fun r : Res => r.s) _ (fun b_ a_ h_ => ?_) _ _ ?_ <;> try dsimp only at *)
    | (with_reducible refine foldl_memW (fun r : WrRes => r.s) _ (fun b_ a_ h_ => ?_) _ _ ?_ <;> try dsimp only at *)
    | (with_reducible refine foldl_memW (fun r : State × _ => r.1) _ (fun b_ a_ h_ => ?_) _ _ ?_ <;> try dsimp only at *)
    | (simp (maxDischargeDepth := 12) [*]; done)
    | split
    | intro _
    | (simp_all [MemSt.wf_iff]; done)
    | simp (maxDischargeDepth := 12) [*]

@[simp] theorem State.countTally_mem (s : State) (h : Nat) :
    (State.countTally s h).mem = s.mem := by
  unfold State.countTally
  repeat' first
    | with_reducible rfl
    | (simp; done)
    | split
    | intro _
    | simp

@[simp] theorem State.withdrawWait_memWf (s : State) (y_ : TOwner)  (hw_ : s.mem.wf = true) :
    (State.withdrawWait s y_).mem.wf = true := by
  unfold State.withdrawWait
  repeat' first
    | with_reducible assumption
    | (with_reducible refine State.atStop_memWf (hw_ := ?_) ..)
    | (simp (maxDischargeDepth := 12) [*]; done)
    | split
    | intro _
    | (simp_all [MemSt.wf_iff]; done)
    | simp (maxDischargeDepth := 12) [*]

@[simp] theorem State.tallyApply_memWf (s : State) (o : TOp)  (hw_ : s.mem.wf = true) :
    (State.tallyApply s o).mem.wf = true := by
  unfold State.tallyApply
  repeat' first
    | with_reducible assumption
    | (with_reducible refine State.tallyGive_memWf (hw_ := ?_) ..)
    | (with_reducible refine State.tallyFail_memWf (hw_ := ?_) ..)
    | (with_reducible refine State.wake_memWf (hw_ := ?_) ..)
    | (with_reducible refine State.withdrawWait_memWf (hw_ := ?_) ..)
    | (simp (maxDischargeDepth := 12) [*]; done)
    | split
    | intro _
    | (simp_all [MemSt.wf_iff]; done)
    | simp (maxDischargeDepth := 12) [*]

@[simp] theorem State.tallyArrive_memWf (s : State) (o : TOwner) (op : Nat)  (hw_ : s.mem.wf = true) :
    (State.tallyArrive s o op).mem.wf = true := by
  unfold State.tallyArrive
  repeat' first
    | with_reducible assumption
    | (with_reducible refine State.tallyApply_memWf (hw_ := ?_) ..)
    | (simp (maxDischargeDepth := 12) [*]; done)
    | split
    | intro _
    | (simp_all [MemSt.wf_iff]; done)
    | simp (maxDischargeDepth := 12) [*]

@[simp] theorem State.tallySend_mem (s : State) (o : TOp) :
    (State.tallySend s o).mem = s.mem := by
  unfold State.tallySend
  repeat' first
    | with_reducible rfl
    | (simp; done)
    | split
    | intro _
    | simp

@[simp] theorem State.tallyFence_mem (s : State) (n k op id : Nat) :
    (State.tallyFence s n k op id).mem = s.mem := by
  unfold State.tallyFence
  repeat' first
    | with_reducible rfl
    | (simp; done)
    | split
    | intro _
    | simp

@[simp] theorem State.tallyInstr_memWf (s : State) (n k : Nat) (rd ra rb : BitVec 5) (fn : BitVec 10) (op : Nat)  (hw_ : s.mem.wf = true) :
    (State.tallyInstr s n k rd ra rb fn op).mem.wf = true := by
  unfold State.tallyInstr
  repeat' first
    | with_reducible assumption
    | (with_reducible refine State.scalar_memWf (hf := ?_) (hw_ := ?_) ..)
    | (with_reducible refine State.scalarExc_memWf (hw_ := ?_) ..)
    | (simp (maxDischargeDepth := 12) [*]; done)
    | split
    | intro _
    | (simp_all [MemSt.wf_iff]; done)
    | simp (maxDischargeDepth := 12) [*]

@[simp] theorem State.respond_memWf (s : State) (n k : Nat)  (hw_ : s.mem.wf = true) :
    (State.respond s n k).mem.wf = true := by
  unfold State.respond
  repeat' first
    | with_reducible assumption
    | (with_reducible refine State.scalarExc_memWf (hw_ := ?_) ..)
    | (simp (maxDischargeDepth := 12) [*]; done)
    | split
    | intro _
    | (simp_all [MemSt.wf_iff]; done)
    | simp (maxDischargeDepth := 12) [*]

end Sys2Proof.Machine
end

