-- ==== Sys2Proof/Laws/MemoryEnds.lean ====
section
/-!
SUPPORT. The operations of Ends.lean leave memory as it is, or keep its canonical form.
-/
namespace Sys2Proof.Machine

@[simp] theorem State.updJis_mem (s : State) (p : Nat) (f : JPitch → JPitch) :
    (State.updJis s p f).mem = s.mem := by
  unfold State.updJis
  repeat' first
    | with_reducible rfl
    | (simp; done)
    | split
    | intro _
    | simp

@[simp] theorem State.serviceWrite_memWf (s : State) (p kind a : Nat) (b : List Byte)  (hw_ : s.mem.wf = true) :
    (State.serviceWrite s p kind a b).mem.wf = true := by
  unfold State.serviceWrite
  repeat' first
    | with_reducible assumption
    | (with_reducible refine State.granWrite_memWf (hw_ := ?_) ..)
    | (with_reducible refine foldl_memWf _ ?_ _ _ ?_)
    | (with_reducible refine foldl_memW (fun r : Acs => r.s) _ (fun b_ a_ h_ => ?_) _ _ ?_ <;> try dsimp only at *)
    | (with_reducible refine foldl_memW (fun r : Got => r.s) _ (fun b_ a_ h_ => ?_) _ _ ?_ <;> try dsimp only at *)
    | (with_reducible refine foldl_memW (fun r : InjRead => r.s) _ (fun b_ a_ h_ => ?_) _ _ ?_ <;> try dsimp only at *)
    | (with_reducible refine foldl_memW (fun r : JForm => r.s) _ (fun b_ a_ h_ => ?_) _ _ ?_ <;> try dsimp only at *)
    | (with_reducible refine foldl_memW (fun r : JWr => r.s) _ (fun b_ a_ h_ => ?_) _ _ ?_ <;> try dsimp only at *)
    | (with_reducible refine foldl_memW (fun r : Move => r.s) _ (fun b_ a_ h_ => ?_) _ _ ?_ <;> try dsimp only at *)
    | (with_reducible refine foldl_memW (fun r : NearRes => r.s) _ (fun b_ a_ h_ => ?_) _ _ ?_ <;> try dsimp only at *)
    | (with_reducible refine foldl_memW (fun r : Res => r.s) _ (fun b_ a_ h_ => ?_) _ _ ?_ <;> try dsimp only at *)
    | (with_reducible refine foldl_memW (fun r : WrRes => r.s) _ (fun b_ a_ h_ => ?_) _ _ ?_ <;> try dsimp only at *)
    | (with_reducible refine foldl_memW (fun r : State × _ => r.1) _ (fun b_ a_ h_ => ?_) _ _ ?_ <;> try dsimp only at *)
    | (simp (maxDischargeDepth := 12) [*]; done)
    | split
    | intro _
    | (simp_all [MemSt.wf_iff]; done)
    | simp (maxDischargeDepth := 12) [*]

@[simp] theorem State.progress_memWf (s : State) (p : Nat) (q : JReq) (final : Bool)  (hw_ : s.mem.wf = true) :
    (State.progress s p q final).mem.wf = true := by
  unfold State.progress
  repeat' first
    | with_reducible assumption
    | (with_reducible refine State.serviceWrite_memWf (hw_ := ?_) ..)
    | (simp (maxDischargeDepth := 12) [*]; done)
    | split
    | intro _
    | (simp_all [MemSt.wf_iff]; done)
    | simp (maxDischargeDepth := 12) [*]

@[simp] theorem State.jDrop_mem (s : State) (p r : Nat) (seq : W32) :
    (State.jDrop s p r seq).mem = s.mem := by
  unfold State.jDrop
  repeat' first
    | with_reducible rfl
    | (simp; done)
    | split
    | intro _
    | simp

@[simp] theorem State.jEnd_memWf (s : State) (p r : Nat) (seq : W32) (st reason : Nat)  (hw_ : s.mem.wf = true) :
    (State.jEnd s p r seq st reason).mem.wf = true := by
  unfold State.jEnd
  repeat' first
    | with_reducible assumption
    | (with_reducible refine State.progress_memWf (hw_ := ?_) ..)
    | (simp (maxDischargeDepth := 12) [*]; done)
    | split
    | intro _
    | (simp_all [MemSt.wf_iff]; done)
    | simp (maxDischargeDepth := 12) [*]

@[simp] theorem State.cvOpsEnd_mem (s : State) (p r : Nat) (seq : W32) (st : Nat) :
    (State.cvOpsEnd s p r seq st).mem = s.mem := by
  unfold State.cvOpsEnd
  repeat' first
    | with_reducible rfl
    | (simp; done)
    | split
    | intro _
    | (with_reducible refine (foldl_mem _ ?_ _ _).trans ?_)
    | simp

@[simp] theorem State.collEnd_memWf (s : State) (p r : Nat) (seq : W32) (st : Nat)  (hw_ : s.mem.wf = true) :
    (State.collEnd s p r seq st).mem.wf = true := by
  unfold State.collEnd
  repeat' first
    | with_reducible assumption
    | (with_reducible refine State.collDrain_memWf (hw_ := ?_) ..)
    | (simp (maxDischargeDepth := 12) [*]; done)
    | split
    | intro _
    | (simp_all [MemSt.wf_iff]; done)
    | simp (maxDischargeDepth := 12) [*]

@[simp] theorem State.landReport_mem (s : State) (p : Nat) (l : Landing) :
    (State.landReport s p l).mem = s.mem := by
  unfold State.landReport
  repeat' first
    | with_reducible rfl
    | (simp; done)
    | split
    | intro _
    | simp

@[simp] theorem State.rxEnd_mem (s : State) (peer port : Nat) (x : CvRx) (st : Nat) :
    (State.rxEnd s peer port x st).mem = s.mem := by
  unfold State.rxEnd
  repeat' first
    | with_reducible rfl
    | (simp; done)
    | split
    | intro _
    | simp

@[simp] theorem State.cvRefuse_mem (s : State) (peer port msg st : Nat) :
    (State.cvRefuse s peer port msg st).mem = s.mem := by
  unfold State.cvRefuse
  repeat' first
    | with_reducible rfl
    | (simp; done)
    | split
    | intro _
    | simp

@[simp] theorem State.settleDest_memWf (s : State) (p r : Nat) (seq : W32)  (hw_ : s.mem.wf = true) :
    (State.settleDest s p r seq).mem.wf = true := by
  unfold State.settleDest
  repeat' first
    | with_reducible assumption
    | (with_reducible refine State.indeterminate_memWf (hw_ := ?_) ..)
    | (simp (maxDischargeDepth := 12) [*]; done)
    | split
    | intro _
    | (simp_all [MemSt.wf_iff]; done)
    | simp (maxDischargeDepth := 12) [*]

@[simp] theorem State.freeStalls_mem (s : State) (i : Item) :
    (State.freeStalls s i).mem = s.mem := by
  unfold State.freeStalls
  repeat' first
    | with_reducible rfl
    | (simp; done)
    | split
    | intro _
    | (with_reducible refine (foldl_mem _ ?_ _ _).trans ?_)
    | simp

@[simp] theorem State.endItemAs_memWf (s : State) (p r : Nat) (seq : W32) (st reason : Nat)  (hw_ : s.mem.wf = true) :
    (State.endItemAs s p r seq st reason).mem.wf = true := by
  unfold State.endItemAs
  repeat' first
    | with_reducible assumption
    | (with_reducible refine State.haltWork_memWf (hw_ := ?_) ..)
    | (with_reducible refine State.finish_memWf (hw_ := ?_) ..)
    | (with_reducible refine State.jEnd_memWf (hw_ := ?_) ..)
    | (with_reducible refine State.collEnd_memWf (hw_ := ?_) ..)
    | (with_reducible refine State.settleDest_memWf (hw_ := ?_) ..)
    | (simp (maxDischargeDepth := 12) [*]; done)
    | split
    | intro _
    | (simp_all [MemSt.wf_iff]; done)
    | simp (maxDischargeDepth := 12) [*]

@[simp] theorem State.endItem_memWf (s : State) (p r : Nat) (seq : W32) (st : Nat)  (hw_ : s.mem.wf = true) :
    (State.endItem s p r seq st).mem.wf = true := by
  unfold State.endItem
  repeat' first
    | with_reducible assumption
    | (with_reducible refine State.endItemAs_memWf (hw_ := ?_) ..)
    | (simp (maxDischargeDepth := 12) [*]; done)
    | split
    | intro _
    | (simp_all [MemSt.wf_iff]; done)
    | simp (maxDischargeDepth := 12) [*]

@[simp] theorem State.endItemSoft_memWf (s : State) (p r : Nat) (seq : W32) (st : Nat)  (hw_ : s.mem.wf = true) :
    (State.endItemSoft s p r seq st).mem.wf = true := by
  unfold State.endItemSoft
  repeat' first
    | with_reducible assumption
    | (with_reducible refine State.endItem_memWf (hw_ := ?_) ..)
    | (simp (maxDischargeDepth := 12) [*]; done)
    | split
    | intro _
    | (simp_all [MemSt.wf_iff]; done)
    | simp (maxDischargeDepth := 12) [*]

@[simp] theorem State.endItems_memWf (s : State) (f : Item → Bool) (st : Nat)  (hw_ : s.mem.wf = true) :
    (State.endItems s f st).mem.wf = true := by
  unfold State.endItems
  repeat' first
    | with_reducible assumption
    | (with_reducible refine State.endItem_memWf (hw_ := ?_) ..)
    | (with_reducible refine foldl_memWf _ ?_ _ _ ?_)
    | (with_reducible refine foldl_memW (fun r : Acs => r.s) _ (fun b_ a_ h_ => ?_) _ _ ?_ <;> try dsimp only at *)
    | (with_reducible refine foldl_memW (fun r : Got => r.s) _ (fun b_ a_ h_ => ?_) _ _ ?_ <;> try dsimp only at *)
    | (with_reducible refine foldl_memW (fun r : InjRead => r.s) _ (fun b_ a_ h_ => ?_) _ _ ?_ <;> try dsimp only at *)
    | (with_reducible refine foldl_memW (fun r : JForm => r.s) _ (fun b_ a_ h_ => ?_) _ _ ?_ <;> try dsimp only at *)
    | (with_reducible refine foldl_memW (fun r : JWr => r.s) _ (fun b_ a_ h_ => ?_) _ _ ?_ <;> try dsimp only at *)
    | (with_reducible refine foldl_memW (fun r : Move => r.s) _ (fun b_ a_ h_ => ?_) _ _ ?_ <;> try dsimp only at *)
    | (with_reducible refine foldl_memW (fun r : NearRes => r.s) _ (fun b_ a_ h_ => ?_) _ _ ?_ <;> try dsimp only at *)
    | (with_reducible refine foldl_memW (fun r : Res => r.s) _ (fun b_ a_ h_ => ?_) _ _ ?_ <;> try dsimp only at *)
    | (with_reducible refine foldl_memW (fun r : WrRes => r.s) _ (fun b_ a_ h_ => ?_) _ _ ?_ <;> try dsimp only at *)
    | (with_reducible refine foldl_memW (fun r : State × _ => r.1) _ (fun b_ a_ h_ => ?_) _ _ ?_ <;> try dsimp only at *)
    | (simp (maxDischargeDepth := 12) [*]; done)
    | split
    | intro _
    | (simp_all [MemSt.wf_iff]; done)
    | simp (maxDischargeDepth := 12) [*]

end Sys2Proof.Machine
end

