-- ==== Sys2Proof/Laws/MemoryRings.lean ====
section
/-!
SUPPORT. The operations of Rings.lean leave memory as it is, or keep its canonical form.
-/
namespace Sys2Proof.Machine

@[simp] theorem State.ringWrite_mem (s : State) (q : Req) (p r : Nat) (f : State → State) (hf : ∀ x0, (f x0).mem = x0.mem) :
    (State.ringWrite s q p r f).mem = s.mem := by
  unfold State.ringWrite
  repeat' first
    | with_reducible rfl
    | exact hf ..
    | (simp; done)
    | split
    | intro _
    | (with_reducible refine (State.setupTry_mem (hf := ?_) ..).trans ?_)
    | simp

@[simp] theorem State.ringWrite_memWf (s : State) (q : Req) (p r : Nat) (f : State → State) (hf : ∀ x0, x0.mem.wf = true → (f x0).mem.wf = true) (hw_ : s.mem.wf = true) :
    (State.ringWrite s q p r f).mem.wf = true := by
  unfold State.ringWrite
  repeat' first
    | with_reducible assumption
    | (with_reducible refine State.setupTry_memWf (hf := ?_) (hw_ := ?_) ..)
    | (with_reducible refine hf _ ?_)
    | (with_reducible refine hf _ _ ?_)
    | (with_reducible refine hf _ _ _ ?_)
    | (simp (maxDischargeDepth := 12) [*]; done)
    | split
    | intro _
    | (simp_all [MemSt.wf_iff]; done)
    | simp (maxDischargeDepth := 12) [*]

@[simp] theorem State.cfgErr_mem (s : State) (p r : Nat) :
    (State.cfgErr s p r).mem = s.mem := by
  unfold State.cfgErr
  repeat' first
    | with_reducible rfl
    | (simp; done)
    | split
    | intro _
    | simp

@[simp] theorem State.enableRing_mem (s : State) (p r : Nat) :
    (State.enableRing s p r).mem = s.mem := by
  unfold State.enableRing
  repeat' first
    | with_reducible rfl
    | (simp; done)
    | split
    | intro _
    | simp

@[simp] theorem State.tailWrite_mem (s : State) (p r : Nat) (v : W32) :
    (State.tailWrite s p r v).mem = s.mem := by
  unfold State.tailWrite
  repeat' first
    | with_reducible rfl
    | (simp; done)
    | split
    | intro _
    | simp

@[simp] theorem State.headWrite_mem (s : State) (p r : Nat) (v : W32) :
    (State.headWrite s p r v).mem = s.mem := by
  unfold State.headWrite
  repeat' first
    | with_reducible rfl
    | (simp; done)
    | split
    | intro _
    | simp

@[simp] theorem State.turnDone_mem (s : State) (p r : Nat) :
    (State.turnDone s p r).mem = s.mem := by
  unfold State.turnDone
  repeat' first
    | with_reducible rfl
    | (simp; done)
    | split
    | intro _
    | simp

@[simp] theorem State.fetchOne_mem (s : State) (p r : Nat) :
    (State.fetchOne s p r).mem = s.mem := by
  unfold State.fetchOne
  repeat' first
    | with_reducible rfl
    | (simp; done)
    | split
    | intro _
    | simp

@[simp] theorem State.fetchSome_mem (s : State) (p r : Nat) (y_ : Nat) :
    (State.fetchSome s p r y_).mem = s.mem := by
  induction y_ generalizing s with
  | zero => rfl
  | succ n ih =>
    unfold State.fetchSome
    repeat' first
      | with_reducible rfl
      | (simp [ih, *]; done)
      | split
      | simp [ih, *]

@[simp] theorem State.fetchFailed_mem (s : State) (p r : Nat) :
    (State.fetchFailed s p r).mem = s.mem := by
  unfold State.fetchFailed
  repeat' first
    | with_reducible rfl
    | (simp; done)
    | split
    | intro _
    | simp

@[simp] theorem State.fetchRead_mem (s : State) (p r n : Nat) :
    (State.fetchRead s p r n).1.mem = s.mem := by
  unfold State.fetchRead
  repeat' first
    | with_reducible rfl
    | (simp; done)
    | split
    | intro _
    | simp

@[simp] theorem State.fetchTurn_mem (s : State) (p r : Nat) (fail : Bool) :
    (State.fetchTurn s p r fail).mem = s.mem := by
  unfold State.fetchTurn
  repeat' first
    | with_reducible rfl
    | (simp; done)
    | split
    | intro _
    | simp

@[simp] theorem State.releaseWrite_memWf (s : State) (h : Held)  (hw_ : s.mem.wf = true) :
    (State.releaseWrite s h).mem.wf = true := by
  unfold State.releaseWrite
  repeat' first
    | with_reducible assumption
    | (with_reducible refine State.wrHost_memWf (hw_ := ?_) ..)
    | (with_reducible refine State.putRecord_memWf (hw_ := ?_) ..)
    | (simp (maxDischargeDepth := 12) [*]; done)
    | split
    | intro _
    | (simp_all [MemSt.wf_iff]; done)
    | simp (maxDischargeDepth := 12) [*]

@[simp] theorem State.releaseRaise_mem (s : State) (h : Held) :
    (State.releaseRaise s h).mem = s.mem := by
  unfold State.releaseRaise
  repeat' first
    | with_reducible rfl
    | (simp; done)
    | split
    | intro _
    | simp

@[simp] theorem State.release_memWf (s : State) (fn : Nat)  (hw_ : s.mem.wf = true) :
    (State.release s fn).mem.wf = true := by
  unfold State.release
  repeat' first
    | with_reducible assumption
    | (with_reducible refine State.releaseWrite_memWf (hw_ := ?_) ..)
    | (with_reducible refine foldl_memWf _ ?_ _ _ ?_)
    | (with_reducible refine foldl_memW (fun r : Acs => r.s) _ (fun b_ a_ h_ => ?_) _ _ ?_ <;> try dsimp only at *)
    | (with_reducible refine foldl_memW (fun r : Got => r.s) _ (fun b_ a_ h_ => ?_) _ _ ?_ <;> try dsimp only at *)
    | (with_reducible refine foldl_memW (fun r : InjRead => r.s) _ (fun b_ a_ h_ => ?_) _ _ ?_ <;> try dsimp only at *)
    | (with_reducible refine foldl_memW (fun r : JForm => r.s) _ (fun b_ a_ h_ => ?_) _ _ ?_ <;> try dsimp only at *)
    | (with_reducible refine foldl_memW (fun r : JWr => r.s) _ (fun b_ a_ h_ => ?_) _ _ ?_ <;> try dsimp only at *)
    | (with_reducible refine foldl_memW (fun r : Move => r.s) _ (fun b_ a_ h_ => ?_) _ _ ?_ <;> try dsimp only at *)
    | (with_reducible refine foldl_memW (fun r : NearRes => r.s) _ (fun b_ a_ h_ => ?_) _ _ ?_ <;> try dsimp only at *)
    | (with_reducible refine foldl_memW (fun r : Res => r.s) _ (fun b_ a_ h_ => ?_) _ _ ?_ <;> try dsimp only at *)
    | (with_reducible refine foldl_memW (fun r : WrRes => r.s) _ (fun b_ a_ h_ => ?_) _ _ ?_ <;> try dsimp only at *)
    | (with_reducible refine foldl_memW (fun r : State × _ => r.1) _ (fun b_ a_ h_ => ?_) _ _ ?_ <;> try dsimp only at *)
    | (simp (maxDischargeDepth := 12) [*]; done)
    | split
    | intro _
    | (simp_all [MemSt.wf_iff]; done)
    | simp (maxDischargeDepth := 12) [*]

@[simp] theorem State.collsResume_memWf (s : State)  (hw_ : s.mem.wf = true) :
    (State.collsResume s).mem.wf = true := by
  unfold State.collsResume
  repeat' first
    | with_reducible assumption
    | (with_reducible refine State.collDrain_memWf (hw_ := ?_) ..)
    | (with_reducible refine foldl_memWf _ ?_ _ _ ?_)
    | (with_reducible refine foldl_memW (fun r : Acs => r.s) _ (fun b_ a_ h_ => ?_) _ _ ?_ <;> try dsimp only at *)
    | (with_reducible refine foldl_memW (fun r : Got => r.s) _ (fun b_ a_ h_ => ?_) _ _ ?_ <;> try dsimp only at *)
    | (with_reducible refine foldl_memW (fun r : InjRead => r.s) _ (fun b_ a_ h_ => ?_) _ _ ?_ <;> try dsimp only at *)
    | (with_reducible refine foldl_memW (fun r : JForm => r.s) _ (fun b_ a_ h_ => ?_) _ _ ?_ <;> try dsimp only at *)
    | (with_reducible refine foldl_memW (fun r : JWr => r.s) _ (fun b_ a_ h_ => ?_) _ _ ?_ <;> try dsimp only at *)
    | (with_reducible refine foldl_memW (fun r : Move => r.s) _ (fun b_ a_ h_ => ?_) _ _ ?_ <;> try dsimp only at *)
    | (with_reducible refine foldl_memW (fun r : NearRes => r.s) _ (fun b_ a_ h_ => ?_) _ _ ?_ <;> try dsimp only at *)
    | (with_reducible refine foldl_memW (fun r : Res => r.s) _ (fun b_ a_ h_ => ?_) _ _ ?_ <;> try dsimp only at *)
    | (with_reducible refine foldl_memW (fun r : WrRes => r.s) _ (fun b_ a_ h_ => ?_) _ _ ?_ <;> try dsimp only at *)
    | (with_reducible refine foldl_memW (fun r : State × _ => r.1) _ (fun b_ a_ h_ => ?_) _ _ ?_ <;> try dsimp only at *)
    | (simp (maxDischargeDepth := 12) [*]; done)
    | split
    | intro _
    | (simp_all [MemSt.wf_iff]; done)
    | simp (maxDischargeDepth := 12) [*]

end Sys2Proof.Machine
end

