-- ==== Sys2Proof/Laws/MemoryItems.lean ====
section
/-!
SUPPORT. The operations of Items.lean leave memory as it is, or keep its canonical form.
-/
namespace Sys2Proof.Machine

@[simp] theorem State.checked_memWf {α : Type} (s : State) (i : Item) (c : Chk α) (f : α → State) (hf : ∀ x0, s.mem.wf = true → (f x0).mem.wf = true) (hw_ : s.mem.wf = true) :
    (State.checked s i c f).mem.wf = true := by
  unfold State.checked
  repeat' first
    | with_reducible assumption
    | (with_reducible refine State.finish_memWf (hw_ := ?_) ..)
    | (with_reducible refine State.reject_memWf (hw_ := ?_) ..)
    | (with_reducible refine State.pass_memWf (hw_ := ?_) ..)
    | (with_reducible refine hf _ ?_)
    | (with_reducible refine hf _ _ ?_)
    | (with_reducible refine hf _ _ _ ?_)
    | (simp (maxDischargeDepth := 12) [*]; done)
    | split
    | intro _
    | (simp_all [MemSt.wf_iff]; done)
    | simp (maxDischargeDepth := 12) [*]

@[simp] theorem State.startItem_mem (s : State) (i : Item) :
    (State.startItem s i).mem = s.mem := by
  unfold State.startItem
  repeat' first
    | with_reducible rfl
    | (simp; done)
    | split
    | intro _
    | (with_reducible refine (State.checked_mem (hf := ?_) ..).trans ?_)
    | simp

@[simp] theorem State.kernelStall_mem (s : State) (n : Nat) (w : Work) (mask : Nat) (pc : Word) (args : List Word) :
    (State.kernelStall s n w mask pc args).mem = s.mem := by
  unfold State.kernelStall
  repeat' first
    | with_reducible rfl
    | (simp; done)
    | split
    | intro _
    | simp

@[simp] theorem State.kernelStart_mem (s : State) (i : Item) (l : List Nat) :
    (State.kernelStart s i l).mem = s.mem := by
  unfold State.kernelStart
  repeat' first
    | with_reducible rfl
    | (simp; done)
    | split
    | intro _
    | (with_reducible refine (foldl_mem _ ?_ _ _).trans ?_)
    | (with_reducible refine (State.checked_mem (hf := ?_) ..).trans ?_)
    | simp

@[simp] theorem State.signalNow_memWf (s : State) (p r : Nat) (seq : W32) (id : Nat)  (hw_ : s.mem.wf = true) :
    (State.signalNow s p r seq id).1.mem.wf = true := by
  unfold State.signalNow
  repeat' first
    | with_reducible assumption
    | (with_reducible refine State.tallyApply_memWf (hw_ := ?_) ..)
    | (simp (maxDischargeDepth := 12) [*]; done)
    | split
    | intro _
    | (simp_all [MemSt.wf_iff]; done)
    | simp (maxDischargeDepth := 12) [*]

@[simp] theorem State.copyHostFail_memWf (s : State) (i : Item) (g : Nat)  (hw_ : s.mem.wf = true) :
    (State.copyHostFail s i g).mem.wf = true := by
  unfold State.copyHostFail
  repeat' first
    | with_reducible assumption
    | (with_reducible refine State.granPoison_memWf (hw_ := ?_) ..)
    | (with_reducible refine foldl_memWf _ ?_ _ _ ?_)
    | (with_reducible refine foldl_memW (fun r : Acs => r.s) _ (fun b_ a_ h_ => ?_) _ _ ?_ <;> try dsimp only at *)
    | (with_reducible refine foldl_memW (fun r : Got => r.s) _ (fun b_ a_ h_ => ?_) _ _ ?_ <;> try dsimp only at *)
    | (with_reducible refine foldl_memW (fun r : InjRead => r.s) _ (fun b_ a_ h_ => ?_) _ _ ?_ <;> try dsimp only at *)
    | (with_reducible refine foldl_memW (fun r : JForm => r.s) _ (fun b_ a_ h_ => ?_) _ _ ?_ <;> try dsimp only at *)
    | (with_reducible refine foldl_memW (fun r : JWr => r.s) _ (fun b_ a_ h_ => ?_) _ _ ?_ <;> try dsimp only at *)
    | (with_reducible refine foldl_memW (fun r : Move => r.s) _ (fun b_ a_ h_ => ?_) _ _ ?_ <;> try dsimp only at *)
    | (with_reducible refine foldl_memW (fun r : NearRes => r.s) _ (fun b_ a_ h_ => ?_) _ _ ?_ <;> try dsimp only at *)
    | (with_reducible refine foldl_memW (fun r : Res => r.s) _ (fun b_ a_ h_ => ?_) _ _ ?_ <;> try dsimp only at *)
    | (with_reducible refine foldl_memW (fun r : WrRes => r.s) _ (fun b_ a_ h_ => ?_) _ _ ?_ <;> try dsimp only at *)
    | (with_reducible refine foldl_memW (fun r : State × _ => r.1) _ (fun b_ a_ h_ => ?_) _ _ ?_ <;> try dsimp only at *)
    | (simp (maxDischargeDepth := 12) [*]; done)
    | split
    | intro _
    | (simp_all [MemSt.wf_iff]; done)
    | simp (maxDischargeDepth := 12) [*]

@[simp] theorem State.endOwn_memWf (s : State) (p r : Nat) (seq : W32) (ok : State → Item → State) (hf : ∀ x0 x1, x0.mem.wf = true → (ok x0 x1).mem.wf = true) (hw_ : s.mem.wf = true) :
    (State.endOwn s p r seq ok).mem.wf = true := by
  unfold State.endOwn
  repeat' first
    | with_reducible assumption
    | (with_reducible refine State.finish_memWf (hw_ := ?_) ..)
    | (with_reducible refine State.settleDest_memWf (hw_ := ?_) ..)
    | (with_reducible refine hf _ ?_)
    | (with_reducible refine hf _ _ ?_)
    | (with_reducible refine hf _ _ _ ?_)
    | (simp (maxDischargeDepth := 12) [*]; done)
    | split
    | intro _
    | (simp_all [MemSt.wf_iff]; done)
    | simp (maxDischargeDepth := 12) [*]

@[simp] theorem State.batchPoison_memWf (s : State) (i : Item) (w : Near) (b : Buf) (g : Nat)  (hw_ : s.mem.wf = true) :
    (State.batchPoison s i w b g).mem.wf = true := by
  unfold State.batchPoison
  repeat' first
    | with_reducible assumption
    | (with_reducible refine State.granPoison_memWf (hw_ := ?_) ..)
    | (with_reducible refine foldl_memWf _ ?_ _ _ ?_)
    | (with_reducible refine foldl_memW (fun r : Acs => r.s) _ (fun b_ a_ h_ => ?_) _ _ ?_ <;> try dsimp only at *)
    | (with_reducible refine foldl_memW (fun r : Got => r.s) _ (fun b_ a_ h_ => ?_) _ _ ?_ <;> try dsimp only at *)
    | (with_reducible refine foldl_memW (fun r : InjRead => r.s) _ (fun b_ a_ h_ => ?_) _ _ ?_ <;> try dsimp only at *)
    | (with_reducible refine foldl_memW (fun r : JForm => r.s) _ (fun b_ a_ h_ => ?_) _ _ ?_ <;> try dsimp only at *)
    | (with_reducible refine foldl_memW (fun r : JWr => r.s) _ (fun b_ a_ h_ => ?_) _ _ ?_ <;> try dsimp only at *)
    | (with_reducible refine foldl_memW (fun r : Move => r.s) _ (fun b_ a_ h_ => ?_) _ _ ?_ <;> try dsimp only at *)
    | (with_reducible refine foldl_memW (fun r : NearRes => r.s) _ (fun b_ a_ h_ => ?_) _ _ ?_ <;> try dsimp only at *)
    | (with_reducible refine foldl_memW (fun r : Res => r.s) _ (fun b_ a_ h_ => ?_) _ _ ?_ <;> try dsimp only at *)
    | (with_reducible refine foldl_memW (fun r : WrRes => r.s) _ (fun b_ a_ h_ => ?_) _ _ ?_ <;> try dsimp only at *)
    | (with_reducible refine foldl_memW (fun r : State × _ => r.1) _ (fun b_ a_ h_ => ?_) _ _ ?_ <;> try dsimp only at *)
    | (simp (maxDischargeDepth := 12) [*]; done)
    | split
    | intro _
    | (simp_all [MemSt.wf_iff]; done)
    | simp (maxDischargeDepth := 12) [*]

@[simp] theorem State.batchSums_memWf (s : State) (i : Item) (b : Buf) (sums : List (Option (List Byte)))  (hw_ : s.mem.wf = true) :
    (State.batchSums s i b sums).mem.wf = true := by
  unfold State.batchSums
  repeat' first
    | with_reducible assumption
    | (with_reducible refine State.granPoison_memWf (hw_ := ?_) ..)
    | (with_reducible refine State.itemWrite_memWf (hw_ := ?_) ..)
    | (with_reducible refine foldl_memWf _ ?_ _ _ ?_)
    | (with_reducible refine foldl_memW (fun r : Acs => r.s) _ (fun b_ a_ h_ => ?_) _ _ ?_ <;> try dsimp only at *)
    | (with_reducible refine foldl_memW (fun r : Got => r.s) _ (fun b_ a_ h_ => ?_) _ _ ?_ <;> try dsimp only at *)
    | (with_reducible refine foldl_memW (fun r : InjRead => r.s) _ (fun b_ a_ h_ => ?_) _ _ ?_ <;> try dsimp only at *)
    | (with_reducible refine foldl_memW (fun r : JForm => r.s) _ (fun b_ a_ h_ => ?_) _ _ ?_ <;> try dsimp only at *)
    | (with_reducible refine foldl_memW (fun r : JWr => r.s) _ (fun b_ a_ h_ => ?_) _ _ ?_ <;> try dsimp only at *)
    | (with_reducible refine foldl_memW (fun r : Move => r.s) _ (fun b_ a_ h_ => ?_) _ _ ?_ <;> try dsimp only at *)
    | (with_reducible refine foldl_memW (fun r : NearRes => r.s) _ (fun b_ a_ h_ => ?_) _ _ ?_ <;> try dsimp only at *)
    | (with_reducible refine foldl_memW (fun r : Res => r.s) _ (fun b_ a_ h_ => ?_) _ _ ?_ <;> try dsimp only at *)
    | (with_reducible refine foldl_memW (fun r : WrRes => r.s) _ (fun b_ a_ h_ => ?_) _ _ ?_ <;> try dsimp only at *)
    | (with_reducible refine foldl_memW (fun r : State × _ => r.1) _ (fun b_ a_ h_ => ?_) _ _ ?_ <;> try dsimp only at *)
    | (simp (maxDischargeDepth := 12) [*]; done)
    | split
    | intro _
    | (simp_all [MemSt.wf_iff]; done)
    | simp (maxDischargeDepth := 12) [*]

@[simp] theorem State.batchRun_memWf (s : State) (i : Item) (l : List Buf) (hostFail : Option Nat)  (hw_ : s.mem.wf = true) :
    (State.batchRun s i l hostFail).mem.wf = true := by
  unfold State.batchRun
  extract_lets w b da data bad s0
  have h0 : s0.mem.wf = true := by unfold s0; simp [hw_]
  clear_value s0
  split
  · rw [State.updItem_mem]; exact h0
  split
  · exact State.reject_memWf (hw_ := hw_) ..
  rename_i r s1 s2 _ _ _
  have h1 : s1.mem.wf = true := by unfold s1; rw [State.updItem_mem]; exact State.nearRun_memWf (hw_ := h0) ..
  have h2 : s2.mem.wf = true := by
    unfold s2
    split
    · rw [State.updItem_mem]; exact h1
    · exact h1
  clear_value s2
  split
  · exact State.batchSums_memWf (hw_ := h2) ..
  clear_value bad
  cases bad with
  | some g => exact State.batchPoison_memWf (hw_ := by rw [State.updItem_mem]; exact h2) ..
  | none => exact h2

end Sys2Proof.Machine
end

