-- ==== Sys2Proof/Laws/MemorySlices.lean ====
section
/-!
SUPPORT. The operations of Slices.lean leave memory as it is, or keep its canonical form.
-/
namespace Sys2Proof.Machine

@[simp] theorem State.frameBoundary_mem (s : State) (h : Nat) :
    (State.frameBoundary s h).mem = s.mem := by
  unfold State.frameBoundary
  repeat' first
    | with_reducible rfl
    | (simp; done)
    | split
    | intro _
    | (with_reducible refine (foldl_mem _ ?_ _ _).trans ?_)
    | simp

@[simp] theorem State.lineRequest_mem (s : State) (n off cyc : Nat) (k : AccKind) (near : Bool) :
    (State.lineRequest s n off cyc k near).mem = s.mem := by
  unfold State.lineRequest
  repeat' first
    | with_reducible rfl
    | (simp; done)
    | split
    | intro _
    | simp

end Sys2Proof.Machine
end

