-- ==== Sys2Proof/Laws/MemoryStallRegs.lean ====
section
/-!
SUPPORT. The operations of StallRegs.lean leave memory as it is, or keep its canonical form.
-/
namespace Sys2Proof.Machine

@[simp] theorem State.keepBlock_mem (s : State) (n : Nat) :
    (State.keepBlock s n).mem = s.mem := by
  unfold State.keepBlock
  repeat' first
    | with_reducible rfl
    | (simp; done)
    | split
    | intro _
    | simp

end Sys2Proof.Machine
end

