-- ==== Sys2Proof/Laws/MemoryFloor.lean ====
section
/-!
SUPPORT. The operations of Floor.lean leave memory as it is, or keep its canonical form.
-/
namespace Sys2Proof.Machine

@[simp] theorem State.coolMsg_mem (s : State) (cmd : Nat) (data : List Byte) :
    (State.coolMsg s cmd data).mem = s.mem := by
  unfold State.coolMsg
  repeat' first
    | with_reducible rfl
    | (simp; done)
    | split
    | intro _
    | simp

@[simp] theorem State.thLog_mem (s : State) (cause hall : Nat) (reading : Int) :
    (State.thLog s cause hall reading).mem = s.mem := by
  unfold State.thLog
  repeat' first
    | with_reducible rfl
    | (simp; done)
    | split
    | intro _
    | simp

@[simp] theorem State.updRail_mem (s : State) (r : Nat) (f : Rail → Rail) :
    (State.updRail s r f).mem = s.mem := by
  unfold State.updRail
  repeat' first
    | with_reducible rfl
    | (simp; done)
    | split
    | intro _
    | simp

@[simp] theorem State.pwrLog_mem (s : State) (cause rail cap : Nat) :
    (State.pwrLog s cause rail cap).mem = s.mem := by
  unfold State.pwrLog
  repeat' first
    | with_reducible rfl
    | (simp; done)
    | split
    | intro _
    | simp

@[simp] theorem State.dlAppend_mem (s : State) (r : Word) :
    (State.dlAppend s r).mem = s.mem := by
  unfold State.dlAppend
  repeat' first
    | with_reducible rfl
    | (simp; done)
    | split
    | intro _
    | simp

@[simp] theorem State.reslew_mem (s : State) (n : Nat) :
    (State.reslew s n).mem = s.mem := by
  unfold State.reslew
  repeat' first
    | with_reducible rfl
    | (simp; done)
    | split
    | intro _
    | simp

@[simp] theorem State.reslewHall_mem (s : State) (h : Nat) :
    (State.reslewHall s h).mem = s.mem := by
  unfold State.reslewHall
  repeat' first
    | with_reducible rfl
    | (simp; done)
    | split
    | intro _
    | (with_reducible refine (foldl_mem _ ?_ _ _).trans ?_)
    | simp

@[simp] theorem State.reslewAll_mem (s : State) :
    (State.reslewAll s).mem = s.mem := by
  unfold State.reslewAll
  repeat' first
    | with_reducible rfl
    | (simp; done)
    | split
    | intro _
    | (with_reducible refine (foldl_mem _ ?_ _ _).trans ?_)
    | simp

@[simp] theorem State.setClk_mem (s : State) (n : Nat) (f : ClkSt → ClkSt) :
    (State.setClk s n f).mem = s.mem := by
  unfold State.setClk
  repeat' first
    | with_reducible rfl
    | (simp; done)
    | split
    | intro _
    | simp

@[simp] theorem State.slotStale_memWf (s : State) (p k st : Nat)  (hw_ : s.mem.wf = true) :
    (State.slotStale s p k st).mem.wf = true := by
  unfold State.slotStale
  repeat' first
    | with_reducible assumption
    | (with_reducible refine State.haltWork_memWf (hw_ := ?_) ..)
    | (with_reducible refine State.endItems_memWf (hw_ := ?_) ..)
    | (simp (maxDischargeDepth := 12) [*]; done)
    | split
    | intro _
    | (simp_all [MemSt.wf_iff]; done)
    | simp (maxDischargeDepth := 12) [*]

@[simp] theorem State.loadEnds_mem (s : State) (p k st : Nat) :
    (State.loadEnds s p k st).mem = s.mem := by
  unfold State.loadEnds
  repeat' first
    | with_reducible rfl
    | (simp; done)
    | split
    | intro _
    | simp

@[simp] theorem State.migrate_memWf (s : State) (p k i n : Nat)  (hw_ : s.mem.wf = true) :
    (State.migrate s p k i n).mem.wf = true := by
  unfold State.migrate
  repeat' first
    | with_reducible assumption
    | (with_reducible refine State.haltWork_memWf (hw_ := ?_) ..)
    | (with_reducible refine State.slotStale_memWf (hw_ := ?_) ..)
    | (simp (maxDischargeDepth := 12) [*]; done)
    | split
    | intro _
    | (simp_all [MemSt.wf_iff]; done)
    | simp (maxDischargeDepth := 12) [*]

@[simp] theorem State.jisStallGone_memWf (s : State) (n : Nat)  (hw_ : s.mem.wf = true) :
    (State.jisStallGone s n).mem.wf = true := by
  unfold State.jisStallGone
  repeat' first
    | with_reducible assumption
    | (with_reducible refine State.migrate_memWf (hw_ := ?_) ..)
    | (with_reducible refine foldl_memWf _ ?_ _ _ ?_)
    | (with_reducible refine foldl_memW (fun r : Acs => r.s) _ (fun b_ a_ h_ => ?_) _ _ ?_ <;> try dsimp only at *)
    | (with_reducible refine foldl_memW (fun r : Got => r.s) _ (fun b_ a_ h_ => ?_) _ _ ?_ <;> try dsimp only at *)
    | (with_reducible refine foldl_memW (fun r : InjRead => r.s) _ (fun b_ a_ h_ => ?_) _ _ ?_ <;> try dsimp only at *)
    | (with_reducible refine foldl_memW (fun r : JForm => r.s) _ (fun b_ a_ h_ => ?_) _ _ ?_ <;> try dsimp only at *)
    | (with_reducible refine foldl_memW (fun r : JWr => r.s) _ (fun b_ a_ h_ => ?_) _ _ ?_ <;> try dsimp only at *)
    | (with_reducible refine foldl_memW (fun r : Move => r.s) _ (fun b_ a_ h_ => ?_) _ _ ?_ <;> try dsimp only at *)
    | (with_reducible refine foldl_memW (fun r : NearRes => r.s) _ (fun b_ a_ h_ => ?_) _ _ ?_ <;> try dsimp only at *)
    | (with_reducible refine foldl_memW (fun r : Res => r.s) _ (fun b_ a_ h_ => ?_) _ _ ?_ <;> try dsimp only at *)
    | (with_reducible refine foldl_memW (fun r : WrRes => r.s) _ (fun b_ a_ h_ => ?_) _ _ ?_ <;> try dsimp only at *)
    | (with_reducible refine foldl_memW (fun r : State × _ => r.1) _ (fun b_ a_ h_ => ?_) _ _ ?_ <;> try dsimp only at *)
    | (simp (maxDischargeDepth := 12) [*]; done)
    | split
    | intro _
    | (simp_all [MemSt.wf_iff]; done)
    | simp (maxDischargeDepth := 12) [*]

@[simp] theorem State.stallEnds_memWf (s : State) (n st : Nat)  (hw_ : s.mem.wf = true) :
    (State.stallEnds s n st).mem.wf = true := by
  unfold State.stallEnds
  repeat' first
    | with_reducible assumption
    | (with_reducible refine State.endItems_memWf (hw_ := ?_) ..)
    | (with_reducible refine State.slotsEnd_memWf (hw_ := ?_) ..)
    | (simp (maxDischargeDepth := 12) [*]; done)
    | split
    | intro _
    | (simp_all [MemSt.wf_iff]; done)
    | simp (maxDischargeDepth := 12) [*]

@[simp] theorem State.retireStall_memWf (s : State) (n cause : Nat)  (hw_ : s.mem.wf = true) :
    (State.retireStall s n cause).mem.wf = true := by
  have a1 : ∀ (u : State), u.mem.wf = true → ({ u with fp := Tab.set u.fp n { state := 2, cause := cause } }.keepBlock n).mem.wf = true :=
    fun u h => by rw [State.keepBlock_mem]; exact h
  have a3 : ∀ (u : State), u.mem.wf = true →
      ((u.jisStallGone n).logEvent (mkEnt 11 0 5 (u.pt.active.owner n) n (unit256 * n)) (u.ldFor (u.pt.active.owner n))).mem.wf = true :=
    fun u h => by rw [State.logEvent_mem]; exact State.jisStallGone_memWf (hw_ := h) ..
  have a4 : ∀ (u : State), u.mem.wf = true →
      ((u.ledgerSet (stallRec n 5) u.retireTime).ledgerSet (stallRec n 6) cause).mem.wf = true :=
    fun u h => by rw [State.ledgerSet_mem, State.ledgerSet_mem]; exact h
  have a5 : ∀ (u : State), u.mem.wf = true → ((u.dlAppend (stallRecord 4 n cause)).fpEvent).mem.wf = true :=
    fun u h => by rw [State.fpEvent_mem, State.dlAppend_mem]; exact h
  rw [State.retireStall]
  split
  · exact hw_
  · exact a5 _ (a4 _ (a3 _ (a1 _ (State.halt_memWf (hw_ := State.stallEnds_memWf (hw_ := hw_) ..) ..))))

@[simp] theorem State.fenceHall_memWf (s : State) (h cause st : Nat)  (hw_ : s.mem.wf = true) :
    (State.fenceHall s h cause st).mem.wf = true := by
  unfold State.fenceHall
  repeat' first
    | with_reducible assumption
    | (with_reducible refine State.halt_memWf (hw_ := ?_) ..)
    | (with_reducible refine State.endItems_memWf (hw_ := ?_) ..)
    | (with_reducible refine State.slotsEnd_memWf (hw_ := ?_) ..)
    | (with_reducible refine State.slotStale_memWf (hw_ := ?_) ..)
    | (with_reducible refine foldl_memWf _ ?_ _ _ ?_)
    | (with_reducible refine foldl_memW (fun r : Acs => r.s) _ (fun b_ a_ h_ => ?_) _ _ ?_ <;> try dsimp only at *)
    | (with_reducible refine foldl_memW (fun r : Got => r.s) _ (fun b_ a_ h_ => ?_) _ _ ?_ <;> try dsimp only at *)
    | (with_reducible refine foldl_memW (fun r : InjRead => r.s) _ (fun b_ a_ h_ => ?_) _ _ ?_ <;> try dsimp only at *)
    | (with_reducible refine foldl_memW (fun r : JForm => r.s) _ (fun b_ a_ h_ => ?_) _ _ ?_ <;> try dsimp only at *)
    | (with_reducible refine foldl_memW (fun r : JWr => r.s) _ (fun b_ a_ h_ => ?_) _ _ ?_ <;> try dsimp only at *)
    | (with_reducible refine foldl_memW (fun r : Move => r.s) _ (fun b_ a_ h_ => ?_) _ _ ?_ <;> try dsimp only at *)
    | (with_reducible refine foldl_memW (fun r : NearRes => r.s) _ (fun b_ a_ h_ => ?_) _ _ ?_ <;> try dsimp only at *)
    | (with_reducible refine foldl_memW (fun r : Res => r.s) _ (fun b_ a_ h_ => ?_) _ _ ?_ <;> try dsimp only at *)
    | (with_reducible refine foldl_memW (fun r : WrRes => r.s) _ (fun b_ a_ h_ => ?_) _ _ ?_ <;> try dsimp only at *)
    | (with_reducible refine foldl_memW (fun r : State × _ => r.1) _ (fun b_ a_ h_ => ?_) _ _ ?_ <;> try dsimp only at *)
    | (simp (maxDischargeDepth := 12) [*]; done)
    | split
    | intro _
    | (simp_all [MemSt.wf_iff]; done)
    | simp (maxDischargeDepth := 12) [*]

@[simp] theorem State.hallWatches_memWf (s : State) (h st : Nat) (keep : TOwner → Bool)  (hw_ : s.mem.wf = true) :
    (State.hallWatches s h st keep).mem.wf = true := by
  unfold State.hallWatches
  repeat' first
    | with_reducible assumption
    | (with_reducible refine State.tallyFail_memWf (hw_ := ?_) ..)
    | (with_reducible refine State.failWatches_memWf (hw_ := ?_) ..)
    | (with_reducible refine foldl_memWf _ ?_ _ _ ?_)
    | (with_reducible refine foldl_memW (fun r : Acs => r.s) _ (fun b_ a_ h_ => ?_) _ _ ?_ <;> try dsimp only at *)
    | (with_reducible refine foldl_memW (fun r : Got => r.s) _ (fun b_ a_ h_ => ?_) _ _ ?_ <;> try dsimp only at *)
    | (with_reducible refine foldl_memW (fun r : InjRead => r.s) _ (fun b_ a_ h_ => ?_) _ _ ?_ <;> try dsimp only at *)
    | (with_reducible refine foldl_memW (fun r : JForm => r.s) _ (fun b_ a_ h_ => ?_) _ _ ?_ <;> try dsimp only at *)
    | (with_reducible refine foldl_memW (fun r : JWr => r.s) _ (fun b_ a_ h_ => ?_) _ _ ?_ <;> try dsimp only at *)
    | (with_reducible refine foldl_memW (fun r : Move => r.s) _ (fun b_ a_ h_ => ?_) _ _ ?_ <;> try dsimp only at *)
    | (with_reducible refine foldl_memW (fun r : NearRes => r.s) _ (fun b_ a_ h_ => ?_) _ _ ?_ <;> try dsimp only at *)
    | (with_reducible refine foldl_memW (fun r : Res => r.s) _ (fun b_ a_ h_ => ?_) _ _ ?_ <;> try dsimp only at *)
    | (with_reducible refine foldl_memW (fun r : WrRes => r.s) _ (fun b_ a_ h_ => ?_) _ _ ?_ <;> try dsimp only at *)
    | (with_reducible refine foldl_memW (fun r : State × _ => r.1) _ (fun b_ a_ h_ => ?_) _ _ ?_ <;> try dsimp only at *)
    | (simp (maxDischargeDepth := 12) [*]; done)
    | split
    | intro _
    | (simp_all [MemSt.wf_iff]; done)
    | simp (maxDischargeDepth := 12) [*]

@[simp] theorem State.cutOff_memWf (s : State) (h : Nat)  (hw_ : s.mem.wf = true) :
    (State.cutOff s h).mem.wf = true := by
  unfold State.cutOff
  repeat' first
    | with_reducible assumption
    | (with_reducible refine State.fenceHall_memWf (hw_ := ?_) ..)
    | (with_reducible refine State.hallWatches_memWf (hw_ := ?_) ..)
    | (simp (maxDischargeDepth := 12) [*]; done)
    | split
    | intro _
    | (simp_all [MemSt.wf_iff]; done)
    | simp (maxDischargeDepth := 12) [*]

@[simp] theorem State.updPair_mem (s : State) (q : Nat) (f : PairSt → PairSt) :
    (State.updPair s q f).mem = s.mem := by
  unfold State.updPair
  repeat' first
    | with_reducible rfl
    | (simp; done)
    | split
    | intro _
    | simp

@[simp] theorem State.freeJournal_mem (s : State) (jpos : W32) :
    (State.freeJournal s jpos).mem = s.mem := by
  unfold State.freeJournal
  repeat' first
    | with_reducible rfl
    | (simp; done)
    | split
    | intro _
    | simp

@[simp] theorem State.commitCkpt_mem (s : State) (q : Nat) :
    (State.commitCkpt s q).mem = s.mem := by
  unfold State.commitCkpt
  repeat' first
    | with_reducible rfl
    | (simp; done)
    | split
    | intro _
    | simp

end Sys2Proof.Machine
end

