-- ==== Sys2Proof/Laws/MemoryIntegrity.lean ====
section
/-!
SUPPORT. The operations of Integrity.lean leave memory as it is, or keep its canonical form.
-/
namespace Sys2Proof.Machine

theorem MemSt.poisonBlock_wf (m : MemSt) (far : Bool) (blk : Nat) (h : m.wf = true) : (m.poisonBlock far blk).wf = true := by
  rw [MemSt.wf_iff] at h ⊢
  obtain ⟨h1, h2, h3, h4⟩ := h
  cases far <;> simp [MemSt.poisonBlock, h1, h2, h3, h4]


@[simp] theorem State.storeUnit_memWf (s : State) (u : EUnit) (b : List Byte)  (hw_ : s.mem.wf = true) :
    (State.storeUnit s u b).mem.wf = true := by
  unfold State.storeUnit
  repeat' first
    | with_reducible assumption
    | (with_reducible refine JWr.slice_memWf (hw_ := ?_) ..)
    | (with_reducible refine JWr.far_memWf (hw_ := ?_) ..)
    | (simp (maxDischargeDepth := 12) [*]; done)
    | split
    | intro _
    | (simp_all [MemSt.wf_iff]; done)
    | simp (maxDischargeDepth := 12) [*]

@[simp] theorem State.rewritten_memWf (s : State) (u : EUnit) (e : List (Nat × BitVec 16))  (hw_ : s.mem.wf = true) :
    (State.rewritten s u e).mem.wf = true := by
  unfold State.rewritten
  repeat' first
    | with_reducible assumption
    | (with_reducible refine State.storeUnit_memWf (hw_ := ?_) ..)
    | (simp (maxDischargeDepth := 12) [*]; done)
    | split
    | intro _
    | (simp_all [MemSt.wf_iff]; done)
    | simp (maxDischargeDepth := 12) [*]

@[simp] theorem State.poisonBlock_memWf (s : State) (far : Bool) (blk : Nat)  (hw_ : s.mem.wf = true) :
    (State.poisonBlock s far blk).mem.wf = true := by
  exact MemSt.poisonBlock_wf _ _ _ hw_

@[simp] theorem State.poisonUnit_memWf (s : State) (u : EUnit)  (hw_ : s.mem.wf = true) :
    (State.poisonUnit s u).mem.wf = true := by
  unfold State.poisonUnit
  repeat' first
    | with_reducible assumption
    | (with_reducible refine State.poisonTally_memWf (hw_ := ?_) ..)
    | (with_reducible refine JWr.slice_memWf (hw_ := ?_) ..)
    | (with_reducible refine JWr.far_memWf (hw_ := ?_) ..)
    | (with_reducible refine State.poisonBlock_memWf (hw_ := ?_) ..)
    | (simp (maxDischargeDepth := 12) [*]; done)
    | split
    | intro _
    | (simp_all [MemSt.wf_iff]; done)
    | simp (maxDischargeDepth := 12) [*]

@[simp] theorem State.injRead_mem (s : State) (u : EUnit) (e : List (Nat × BitVec 16)) :
    (State.injRead s u e).s.mem = s.mem := by
  have h : ∀ (c : Prop) [Decidable c] (a b : InjRead), a.s.mem = s.mem → b.s.mem = s.mem →
      (if c then a else b).s.mem = s.mem := by
    intro c _ a b ha hb
    split <;> assumption
  unfold State.injRead
  cases s.injector u with
  | none => rfl
  | some i => exact h _ _ _ (State.injected_mem ..) (h _ _ _ (State.injected_mem ..) rfl)

@[simp] theorem State.countHit_mem (s : State) (h : Hit) :
    (State.countHit s h).mem = s.mem := by
  unfold State.countHit
  repeat' first
    | with_reducible rfl
    | (simp; done)
    | split
    | intro _
    | simp

@[simp] theorem State.dropHits_mem (s : State) (f : Hit → Bool) :
    (State.dropHits s f).mem = s.mem := by
  unfold State.dropHits
  repeat' first
    | with_reducible rfl
    | (simp; done)
    | split
    | intro _
    | simp

@[simp] theorem State.retireRow_mem (s : State) (n row : Nat) :
    (State.retireRow s n row).mem = s.mem := by
  unfold State.retireRow
  repeat' first
    | with_reducible rfl
    | (simp; done)
    | split
    | intro _
    | simp

@[simp] theorem State.eraseBond_memWf (s : State) (n port sym : Nat)  (hw_ : s.mem.wf = true) :
    (State.eraseBond s n port sym).mem.wf = true := by
  unfold State.eraseBond
  repeat' first
    | with_reducible assumption
    | (with_reducible refine State.retireStall_memWf (hw_ := ?_) ..)
    | (simp (maxDischargeDepth := 12) [*]; done)
    | split
    | intro _
    | (simp_all [MemSt.wf_iff]; done)
    | simp (maxDischargeDepth := 12) [*]

@[simp] theorem State.failModule_memWf (s : State) (m : Nat)  (hw_ : s.mem.wf = true) :
    (State.failModule s m).mem.wf = true := by
  unfold State.failModule
  repeat' first
    | with_reducible assumption
    | (simp (maxDischargeDepth := 12) [*]; done)
    | split
    | intro _
    | (simp_all [MemSt.wf_iff]; done)
    | simp (maxDischargeDepth := 12) [*]

@[simp] theorem State.retireChannel_memWf (s : State) (ch : Nat)  (hw_ : s.mem.wf = true) :
    (State.retireChannel s ch).mem.wf = true := by
  unfold State.retireChannel
  repeat' first
    | with_reducible assumption
    | (with_reducible refine State.failModule_memWf (hw_ := ?_) ..)
    | (simp (maxDischargeDepth := 12) [*]; done)
    | split
    | intro _
    | (simp_all [MemSt.wf_iff]; done)
    | simp (maxDischargeDepth := 12) [*]

@[simp] theorem State.remapFarRow_memWf (s : State) (ch row off : Nat)  (hw_ : s.mem.wf = true) :
    (State.remapFarRow s ch row off).mem.wf = true := by
  unfold State.remapFarRow
  repeat' first
    | with_reducible assumption
    | (with_reducible refine State.retireChannel_memWf (hw_ := ?_) ..)
    | (with_reducible refine JWr.far_memWf (hw_ := ?_) ..)
    | (simp (maxDischargeDepth := 12) [*]; done)
    | split
    | intro _
    | (simp_all [MemSt.wf_iff]; done)
    | simp (maxDischargeDepth := 12) [*]

@[simp] theorem State.disableWay_mem (s : State) (set way : Nat) :
    (State.disableWay s set way).mem = s.mem := by
  unfold State.disableWay
  repeat' first
    | with_reducible rfl
    | (simp; done)
    | split
    | intro _
    | simp

@[simp] theorem State.hardEvent_memWf (s : State) (u : EUnit) (ue : Bool) (sym : Nat)  (hw_ : s.mem.wf = true) :
    (State.hardEvent s u ue sym).mem.wf = true := by
  unfold State.hardEvent
  repeat' first
    | with_reducible assumption
    | (with_reducible refine State.retireStall_memWf (hw_ := ?_) ..)
    | (with_reducible refine State.eraseBond_memWf (hw_ := ?_) ..)
    | (with_reducible refine State.retireChannel_memWf (hw_ := ?_) ..)
    | (with_reducible refine State.remapFarRow_memWf (hw_ := ?_) ..)
    | (with_reducible refine JWr.slice_memWf (hw_ := ?_) ..)
    | (with_reducible refine JWr.far_memWf (hw_ := ?_) ..)
    | (simp (maxDischargeDepth := 12) [*]; done)
    | split
    | intro _
    | (simp_all [MemSt.wf_iff]; done)
    | simp (maxDischargeDepth := 12) [*]

@[simp] theorem State.logUnit_mem (s : State) (ty : Nat) (u : EUnit) (who : EReq) (sym : Nat) (synd count : Nat) (pois : Bool) :
    (State.logUnit s ty u who sym synd count pois).mem = s.mem := by
  unfold State.logUnit
  repeat' first
    | with_reducible rfl
    | (simp; done)
    | split
    | intro _
    | simp

@[simp] theorem State.countCe_mem (s : State) (who : EReq) :
    (State.countCe s who).mem = s.mem := by
  unfold State.countCe
  repeat' first
    | with_reducible rfl
    | (simp; done)
    | split
    | intro _
    | simp

@[simp] theorem State.reportUe_memWf (s : State) (u : EUnit) (who : EReq)  (hw_ : s.mem.wf = true) :
    (State.reportUe s u who).mem.wf = true := by
  unfold State.reportUe
  repeat' first
    | with_reducible assumption
    | (with_reducible refine State.raiseExc_memWf (hw_ := ?_) ..)
    | (with_reducible refine State.groupExc_memWf (hw_ := ?_) ..)
    | (simp (maxDischargeDepth := 12) [*]; done)
    | split
    | intro _
    | (simp_all [MemSt.wf_iff]; done)
    | simp (maxDischargeDepth := 12) [*]

@[simp] theorem State.markReported_mem (s : State) (u : EUnit) (who : EReq) :
    (State.markReported s u who).mem = s.mem := by
  unfold State.markReported
  repeat' first
    | with_reducible rfl
    | (simp; done)
    | split
    | intro _
    | simp

@[simp] theorem State.retryFrom_memWf (u : EUnit) (who : EReq) (x : InjRead) (e2 e3 rb : List (Nat × BitVec 16))  (hw_ : x.s.mem.wf = true) :
    (State.retryFrom u who x e2 e3 rb).mem.wf = true := by
  unfold State.retryFrom
  repeat' first
    | with_reducible assumption
    | (with_reducible refine State.poisonUnit_memWf (hw_ := ?_) ..)
    | (with_reducible refine State.hardEvent_memWf (hw_ := ?_) ..)
    | (with_reducible refine State.reportUe_memWf (hw_ := ?_) ..)
    | (simp (maxDischargeDepth := 12) [*]; done)
    | split
    | intro _
    | (simp_all [MemSt.wf_iff]; done)
    | simp (maxDischargeDepth := 12) [*]

@[simp] theorem State.retried_memWf (s : State) (u : EUnit) (who : EReq) (e1 e2 e3 rb : List (Nat × BitVec 16))  (hw_ : s.mem.wf = true) :
    (State.retried s u who e1 e2 e3 rb).mem.wf = true := by
  unfold State.retried
  repeat' first
    | with_reducible assumption
    | (with_reducible refine State.retryFrom_memWf (hw_ := ?_) ..)
    | (simp (maxDischargeDepth := 12) [*]; done)
    | split
    | intro _
    | (simp_all [MemSt.wf_iff]; done)
    | simp (maxDischargeDepth := 12) [*]

@[simp] theorem State.softCe_mem (s : State) (u : EUnit) (who : EReq) (i synd : Nat) :
    (State.softCe s u who i synd).mem = s.mem := by
  unfold State.softCe
  repeat' first
    | with_reducible rfl
    | (simp; done)
    | split
    | intro _
    | simp

@[simp] theorem State.hardCe_memWf (s : State) (u : EUnit) (who : EReq) (i synd : Nat) (counts : Bool)  (hw_ : s.mem.wf = true) :
    (State.hardCe s u who i synd counts).mem.wf = true := by
  unfold State.hardCe
  repeat' first
    | with_reducible assumption
    | (with_reducible refine State.hardEvent_memWf (hw_ := ?_) ..)
    | (simp (maxDischargeDepth := 12) [*]; done)
    | split
    | intro _
    | (simp_all [MemSt.wf_iff]; done)
    | simp (maxDischargeDepth := 12) [*]

@[simp] theorem State.reread_memWf (u : EUnit) (who : EReq) (x : InjRead) (y_ : List (List (Nat × BitVec 16)))  (hw_ : x.s.mem.wf = true) :
    (State.reread u who x y_).mem.wf = true := by
  have hr : ∀ (v : State) (e) (i : Nat) (t : State), v.rewrite u e = some (i, t) → v.mem.wf = true → t.mem.wf = true := by
    intro v e i t h hv
    unfold State.rewrite at h
    repeat' split at h
    all_goals first | (cases h; done) | (simp only [Option.some.injEq, Prod.mk.injEq] at h; obtain ⟨-, rfl⟩ := h; simp [hv])
  induction y_ generalizing x with
  | nil =>
    unfold State.reread
    split
    · rename_i i t h
      simp [hr _ _ _ _ h hw_]
    · exact hw_
  | cons e2 rest ih =>
    unfold State.reread
    split
    · rename_i i t h
      extract_lets r
      have hr' : r.s.mem.wf = true := by unfold r; rw [State.injRead_mem]; exact hr _ _ _ _ h hw_
      split
      · simp [hr']
      · split
        · exact State.hardCe_memWf (hw_ := hr') ..
        · exact ih _ (by simpa using hr')
      · exact State.retryFrom_memWf (hw_ := State.hardCe_memWf (hw_ := hr') ..) ..
    · exact hw_

@[simp] theorem State.corrected_memWf (s : State) (u : EUnit) (who : EReq) (e1 : List (Nat × BitVec 16)) (es : List (List (Nat × BitVec 16)))  (hw_ : s.mem.wf = true) :
    (State.corrected s u who e1 es).mem.wf = true := by
  unfold State.corrected
  repeat' first
    | with_reducible assumption
    | (with_reducible refine State.reread_memWf (hw_ := ?_) ..)
    | (simp (maxDischargeDepth := 12) [*]; done)
    | split
    | intro _
    | (simp_all [MemSt.wf_iff]; done)
    | simp (maxDischargeDepth := 12) [*]

@[simp] theorem State.clearUe_memWf (s : State) (u : EUnit)  (hw_ : s.mem.wf = true) :
    (State.clearUe s u).mem.wf = true := by
  unfold State.clearUe
  repeat' first
    | with_reducible assumption
    | (with_reducible refine JWr.slice_memWf (hw_ := ?_) ..)
    | (with_reducible refine JWr.far_memWf (hw_ := ?_) ..)
    | (simp (maxDischargeDepth := 12) [*]; done)
    | split
    | intro _
    | (simp_all [MemSt.wf_iff]; done)
    | simp (maxDischargeDepth := 12) [*]

@[simp] theorem State.readBack_memWf (s : State) (u : EUnit) (who : EReq) (rb : List (Nat × BitVec 16)) (es : List (List (Nat × BitVec 16)))  (hw_ : s.mem.wf = true) :
    (State.readBack s u who rb es).mem.wf = true := by
  unfold State.readBack
  repeat' first
    | with_reducible assumption
    | (with_reducible refine State.poisonUnit_memWf (hw_ := ?_) ..)
    | (with_reducible refine State.hardEvent_memWf (hw_ := ?_) ..)
    | (with_reducible refine State.reportUe_memWf (hw_ := ?_) ..)
    | (with_reducible refine State.corrected_memWf (hw_ := ?_) ..)
    | (with_reducible refine State.clearUe_memWf (hw_ := ?_) ..)
    | (with_reducible refine State.reread_memWf (hw_ := ?_) ..)
    | (simp (maxDischargeDepth := 12) [*]; done)
    | split
    | intro _
    | (simp_all [MemSt.wf_iff]; done)
    | simp (maxDischargeDepth := 12) [*]

@[simp] theorem State.rowCopyDone_mem (s : State) (n row : Nat) :
    (State.rowCopyDone s n row).mem = s.mem := by
  unfold State.rowCopyDone
  repeat' first
    | with_reducible rfl
    | (simp; done)
    | split
    | intro _
    | simp

@[simp] theorem State.packetTold_memWf (s : State) (k : PktUse)  (hw_ : s.mem.wf = true) :
    (State.packetTold s k).mem.wf = true := by
  unfold State.packetTold
  repeat' first
    | with_reducible assumption
    | (with_reducible refine State.tallyFail_memWf (hw_ := ?_) ..)
    | (with_reducible refine State.reportUe_memWf (hw_ := ?_) ..)
    | (simp (maxDischargeDepth := 12) [*]; done)
    | split
    | intro _
    | (simp_all [MemSt.wf_iff]; done)
    | simp (maxDischargeDepth := 12) [*]

@[simp] theorem State.packetLost_memWf (s : State) (src dst : Nat) (k : PktUse) (counts : Bool)  (hw_ : s.mem.wf = true) :
    (State.packetLost s src dst k counts).mem.wf = true := by
  unfold State.packetLost
  repeat' first
    | with_reducible assumption
    | (with_reducible refine State.cutOff_memWf (hw_ := ?_) ..)
    | (with_reducible refine State.packetTold_memWf (hw_ := ?_) ..)
    | (with_reducible refine foldl_memWf _ ?_ _ _ ?_)
    | (with_reducible refine foldl_memW (fun r : Acs => r.s) _ (fun b_ a_ h_ => ?_) _ _ ?_ <;> try dsimp only at *)
    | (with_reducible refine foldl_memW (fun r : Got => r.s) _ (fun b_ a_ h_ => ?_) _ _ ?_ <;> try dsimp only at *)
    | (with_reducible refine foldl_memW (fun r : InjRead => r.s) _ (fun b_ a_ h_ => ?_) _ _ ?_ <;> try dsimp only at *)
    | (with_reducible refine foldl_memW (fun r : JForm => r.s) _ (fun b_ a_ h_ => ?_) _ _ ?_ <;> try dsimp only at *)
    | (with_reducible refine foldl_memW (fun r : JWr => r.s) _ (fun b_ a_ h_ => ?_) _ _ ?_ <;> try dsimp only at *)
    | (with_reducible refine foldl_memW (fun r : Move => r.s) _ (fun b_ a_ h_ => ?_) _ _ ?_ <;> try dsimp only at *)
    | (with_reducible refine foldl_memW (fun r : NearRes => r.s) _ (fun b_ a_ h_ => ?_) _ _ ?_ <;> try dsimp only at *)
    | (with_reducible refine foldl_memW (fun r : Res => r.s) _ (fun b_ a_ h_ => ?_) _ _ ?_ <;> try dsimp only at *)
    | (with_reducible refine foldl_memW (fun r : WrRes => r.s) _ (fun b_ a_ h_ => ?_) _ _ ?_ <;> try dsimp only at *)
    | (with_reducible refine foldl_memW (fun r : State × _ => r.1) _ (fun b_ a_ h_ => ?_) _ _ ?_ <;> try dsimp only at *)
    | (simp (maxDischargeDepth := 12) [*]; done)
    | split
    | intro _
    | (simp_all [MemSt.wf_iff]; done)
    | simp (maxDischargeDepth := 12) [*]

@[simp] theorem State.packetResend_memWf (s : State) (src dst id : Nat) (k : PktUse) (b : List Byte)  (hw_ : s.mem.wf = true) :
    (State.packetResend s src dst id k b).mem.wf = true := by
  unfold State.packetResend
  repeat' first
    | with_reducible assumption
    | (with_reducible refine State.packetLost_memWf (hw_ := ?_) ..)
    | (simp (maxDischargeDepth := 12) [*]; done)
    | split
    | intro _
    | (simp_all [MemSt.wf_iff]; done)
    | simp (maxDischargeDepth := 12) [*]

@[simp] theorem State.scrubbed_memWf (s : State) (u : Nat → EUnit) (w : List (Nat × List (List (Nat × BitVec 16))))  (hw_ : s.mem.wf = true) :
    (State.scrubbed s u w).mem.wf = true := by
  unfold State.scrubbed
  repeat' first
    | with_reducible assumption
    | (with_reducible refine State.corrected_memWf (hw_ := ?_) ..)
    | (with_reducible refine State.retried_memWf (hw_ := ?_) ..)
    | (with_reducible refine State.reread_memWf (hw_ := ?_) ..)
    | (with_reducible refine foldl_memWf _ ?_ _ _ ?_)
    | (with_reducible refine foldl_memW (fun r : Acs => r.s) _ (fun b_ a_ h_ => ?_) _ _ ?_ <;> try dsimp only at *)
    | (with_reducible refine foldl_memW (fun r : Got => r.s) _ (fun b_ a_ h_ => ?_) _ _ ?_ <;> try dsimp only at *)
    | (with_reducible refine foldl_memW (fun r : InjRead => r.s) _ (fun b_ a_ h_ => ?_) _ _ ?_ <;> try dsimp only at *)
    | (with_reducible refine foldl_memW (fun r : JForm => r.s) _ (fun b_ a_ h_ => ?_) _ _ ?_ <;> try dsimp only at *)
    | (with_reducible refine foldl_memW (fun r : JWr => r.s) _ (fun b_ a_ h_ => ?_) _ _ ?_ <;> try dsimp only at *)
    | (with_reducible refine foldl_memW (fun r : Move => r.s) _ (fun b_ a_ h_ => ?_) _ _ ?_ <;> try dsimp only at *)
    | (with_reducible refine foldl_memW (fun r : NearRes => r.s) _ (fun b_ a_ h_ => ?_) _ _ ?_ <;> try dsimp only at *)
    | (with_reducible refine foldl_memW (fun r : Res => r.s) _ (fun b_ a_ h_ => ?_) _ _ ?_ <;> try dsimp only at *)
    | (with_reducible refine foldl_memW (fun r : WrRes => r.s) _ (fun b_ a_ h_ => ?_) _ _ ?_ <;> try dsimp only at *)
    | (with_reducible refine foldl_memW (fun r : State × _ => r.1) _ (fun b_ a_ h_ => ?_) _ _ ?_ <;> try dsimp only at *)
    | (simp (maxDischargeDepth := 12) [*]; done)
    | split
    | intro _
    | (simp_all [MemSt.wf_iff]; done)
    | simp (maxDischargeDepth := 12) [*]

@[simp] theorem State.sliceScrub_memWf (s : State) (n port : Nat) (w : List (Nat × List (List (Nat × BitVec 16))))  (hw_ : s.mem.wf = true) :
    (State.sliceScrub s n port w).mem.wf = true := by
  unfold State.sliceScrub
  repeat' first
    | with_reducible assumption
    | (with_reducible refine JWr.slice_memWf (hw_ := ?_) ..)
    | (with_reducible refine State.scrubbed_memWf (hw_ := ?_) ..)
    | (simp (maxDischargeDepth := 12) [*]; done)
    | split
    | intro _
    | (simp_all [MemSt.wf_iff]; done)
    | simp (maxDischargeDepth := 12) [*]

@[simp] theorem State.farScrub_memWf (s : State) (ch : Nat) (w : List (Nat × List (List (Nat × BitVec 16))))  (hw_ : s.mem.wf = true) :
    (State.farScrub s ch w).mem.wf = true := by
  unfold State.farScrub
  repeat' first
    | with_reducible assumption
    | (with_reducible refine JWr.far_memWf (hw_ := ?_) ..)
    | (with_reducible refine State.scrubbed_memWf (hw_ := ?_) ..)
    | (with_reducible refine foldl_memWf _ ?_ _ _ ?_)
    | (with_reducible refine foldl_memW (fun r : Acs => r.s) _ (fun b_ a_ h_ => ?_) _ _ ?_ <;> try dsimp only at *)
    | (with_reducible refine foldl_memW (fun r : Got => r.s) _ (fun b_ a_ h_ => ?_) _ _ ?_ <;> try dsimp only at *)
    | (with_reducible refine foldl_memW (fun r : InjRead => r.s) _ (fun b_ a_ h_ => ?_) _ _ ?_ <;> try dsimp only at *)
    | (with_reducible refine foldl_memW (fun r : JForm => r.s) _ (fun b_ a_ h_ => ?_) _ _ ?_ <;> try dsimp only at *)
    | (with_reducible refine foldl_memW (fun r : JWr => r.s) _ (fun b_ a_ h_ => ?_) _ _ ?_ <;> try dsimp only at *)
    | (with_reducible refine foldl_memW (fun r : Move => r.s) _ (fun b_ a_ h_ => ?_) _ _ ?_ <;> try dsimp only at *)
    | (with_reducible refine foldl_memW (fun r : NearRes => r.s) _ (fun b_ a_ h_ => ?_) _ _ ?_ <;> try dsimp only at *)
    | (with_reducible refine foldl_memW (fun r : Res => r.s) _ (fun b_ a_ h_ => ?_) _ _ ?_ <;> try dsimp only at *)
    | (with_reducible refine foldl_memW (fun r : WrRes => r.s) _ (fun b_ a_ h_ => ?_) _ _ ?_ <;> try dsimp only at *)
    | (with_reducible refine foldl_memW (fun r : State × _ => r.1) _ (fun b_ a_ h_ => ?_) _ _ ?_ <;> try dsimp only at *)
    | (simp (maxDischargeDepth := 12) [*]; done)
    | split
    | intro _
    | (simp_all [MemSt.wf_iff]; done)
    | simp (maxDischargeDepth := 12) [*]

@[simp] theorem State.backUp_memWf (s : State) (far : Bool) (n : Nat)  (hw_ : s.mem.wf = true) :
    (State.backUp s far n).mem.wf = true := by
  unfold State.backUp
  repeat' first
    | with_reducible assumption
    | (with_reducible refine JWr.far_memWf (hw_ := ?_) ..)
    | (simp (maxDischargeDepth := 12) [*]; done)
    | split
    | intro _
    | (simp_all [MemSt.wf_iff]; done)
    | simp (maxDischargeDepth := 12) [*]

@[simp] theorem State.entryRead_mem (s : State) (q : Req) (i : Nat) :
    (State.entryRead s q i).mem = s.mem := by
  unfold State.entryRead
  repeat' first
    | with_reducible rfl
    | (simp; done)
    | split
    | intro _
    | simp

end Sys2Proof.Machine
end

