-- ==== Sys2Proof/Laws/MemoryClocks.lean ====
section
/-!
SUPPORT. The operations of Clocks.lean leave memory as it is, or keep its canonical form.
-/
namespace Sys2Proof.Machine

@[simp] theorem State.align_mem (s : State) (h : Nat) :
    (State.align s h).mem = s.mem := by
  unfold State.align
  repeat' first
    | with_reducible rfl
    | (simp; done)
    | split
    | intro _
    | simp

end Sys2Proof.Machine
end

