-- ==== Sys2Proof/Laws/MemoryAisle.lean ====
section
/-!
SUPPORT. The operations of Aisle.lean leave memory as it is, or keep its canonical form.
-/
namespace Sys2Proof.Machine

@[simp] theorem State.updLink_mem (s : State) (l : Nat) (f : ArcLink → ArcLink) :
    (State.updLink s l f).mem = s.mem := by
  unfold State.updLink
  repeat' first
    | with_reducible rfl
    | (simp; done)
    | split
    | intro _
    | simp

@[simp] theorem State.uncut_mem (s : State) (h : Nat) :
    (State.uncut s h).mem = s.mem := by
  unfold State.uncut
  repeat' first
    | with_reducible rfl
    | (simp; done)
    | split
    | intro _
    | (with_reducible refine (foldl_mem _ ?_ _ _).trans ?_)
    | simp

@[simp] theorem State.linkChanged_memWf (s : State) (h : Nat)  (hw_ : s.mem.wf = true) :
    (State.linkChanged s h).mem.wf = true := by
  unfold State.linkChanged
  repeat' first
    | with_reducible assumption
    | (with_reducible refine State.cutOff_memWf (hw_ := ?_) ..)
    | (simp (maxDischargeDepth := 12) [*]; done)
    | split
    | intro _
    | (simp_all [MemSt.wf_iff]; done)
    | simp (maxDischargeDepth := 12) [*]

@[simp] theorem State.setInq_mem (s : State) (k : Nat) (l : List Flit) :
    (State.setInq s k l).mem = s.mem := by
  unfold State.setInq
  repeat' first
    | with_reducible rfl
    | (simp; done)
    | split
    | intro _
    | simp

@[simp] theorem State.linkPush_mem (s : State) (l d : Nat) (f : Flit) :
    (State.linkPush s l d f).mem = s.mem := by
  unfold State.linkPush
  repeat' first
    | with_reducible rfl
    | (simp; done)
    | split
    | intro _
    | simp

@[simp] theorem State.bumpOpen_mem (s : State) (k : Nat) (f : Nat → Nat) :
    (State.bumpOpen s k f).mem = s.mem := by
  unfold State.bumpOpen
  repeat' first
    | with_reducible rfl
    | (simp; done)
    | split
    | intro _
    | simp

theorem State.enter_mem (s : State) (e : Nat) (f : Flit) {t_ : State}  (hx_ : State.enter s e f = some t_) :
    t_.mem = s.mem := by
  unfold State.enter at hx_
  dsimp only at hx_
  repeat' split at hx_
  all_goals first | (cases hx_; done) | (cases hx_; simp; done)

@[simp] theorem State.fill_mem (s : State) (e : Nat) (rsp : Bool) (y_ : Nat) :
    (State.fill s e rsp y_).mem = s.mem := by
  induction y_ generalizing s with
  | zero => rfl
  | succ n ih =>
    unfold State.fill
    dsimp only
    split
    · rfl
    · split
      · rfl
      · rename_i h
        simp [ih, State.enter_mem (hx_ := h)]

@[simp] theorem State.netSend_mem (s : State) (e : Nat) (f : Flit) (data : Nat) :
    (State.netSend s e f data).mem = s.mem := by
  unfold State.netSend
  repeat' first
    | with_reducible rfl
    | (simp; done)
    | split
    | intro _
    | simp

@[simp] theorem State.consume_mem (s : State) (at_ : Option Nat) (f : Flit) :
    (State.consume s at_ f).mem = s.mem := by
  unfold State.consume
  repeat' first
    | with_reducible rfl
    | (simp; done)
    | split
    | intro _
    | simp

theorem State.forward_mem (s : State) (h r : Nat) (out : Dir) (f : Flit) {t_ : State}  (hx_ : State.forward s h r out f = some t_) :
    t_.mem = s.mem := by
  unfold State.forward at hx_
  dsimp only at hx_
  repeat' split at hx_
  all_goals first | (cases hx_; done) | (cases hx_; simp; done)

theorem State.serve_mem (s : State) (h r : Nat) (out : Dir) (rsp : Bool) {t_ : State}  (hx_ : State.serve s h r out rsp = some t_) :
    t_.mem = s.mem := by
  unfold State.serve at hx_
  dsimp only at hx_
  split at hx_
  · cases hx_
  · split at hx_
    · cases hx_
    · obtain ⟨u, hu, rfl⟩ := Option.map_eq_some_iff.mp hx_
      simp [State.forward_mem (hx_ := hu)]

@[simp] theorem State.inject_mem (s : State) (n dst kind data back : Nat) :
    (State.inject s n dst kind data back).mem = s.mem := by
  unfold State.inject
  repeat' first
    | with_reducible rfl
    | (simp; done)
    | split
    | intro _
    | simp

@[simp] theorem State.farEgress_mem (s : State) (n k agent : Nat) (wr : Bool) (addr : Word) :
    (State.farEgress s n k agent wr addr).mem = s.mem := by
  unfold State.farEgress
  repeat' first
    | with_reducible rfl
    | (simp; done)
    | split
    | intro _
    | simp

@[simp] theorem State.deliver_mem (s : State) (l d : Nat) (f : Flit) :
    (State.deliver s l d f).mem = s.mem := by
  unfold State.deliver
  split
  · split
    · exact State.consume_mem ..
    · split
      · rfl
      · exact State.fill_mem ..
  · exact State.setInq_mem ..

@[simp] theorem State.refill_mem (s : State) (l : Nat) :
    (State.refill s l).mem = s.mem := by
  unfold State.refill
  repeat' first
    | with_reducible rfl
    | (simp; done)
    | split
    | intro _
    | (with_reducible refine (foldl_mem _ ?_ _ _).trans ?_)
    | simp

@[simp] theorem State.countBeat_mem (s : State) (l : Nat) :
    (State.countBeat s l).mem = s.mem := by
  unfold State.countBeat
  repeat' first
    | with_reducible rfl
    | (simp; done)
    | split
    | intro _
    | simp

@[simp] theorem State.arcadeBeat_mem (s : State) (l d : Nat) (own : List Nat) (seq : Nat) :
    (State.arcadeBeat s l d own seq).mem = s.mem := by
  unfold State.arcadeBeat
  extract_lets x y inj cfg bad
  split
  · rfl
  split
  · rfl
  split
  · exact (State.updLink_mem ..).trans (State.injectedBy_mem ..)
  · refine (State.refill_mem ..).trans ((State.countBeat_mem ..).trans ?_)
    split
    · exact (State.deliver_mem ..).trans (State.updLink_mem ..)
    · exact State.updLink_mem ..

@[simp] theorem State.replay_mem (s : State) (l d : Nat) :
    (State.replay s l d).mem = s.mem := by
  unfold State.replay
  repeat' first
    | with_reducible rfl
    | (simp; done)
    | split
    | intro _
    | (with_reducible refine (foldl_mem _ ?_ _ _).trans ?_)
    | simp

@[simp] theorem State.laneMark_mem (s : State) (source l d g lane : Nat) (lost : Bool) :
    (State.laneMark s source l d g lane lost).mem = s.mem := by
  unfold State.laneMark
  repeat' first
    | with_reducible rfl
    | (simp; done)
    | split
    | intro _
    | simp

@[simp] theorem State.linkWidth_memWf (s : State) (l : Nat)  (hw_ : s.mem.wf = true) :
    (State.linkWidth s l).mem.wf = true := by
  unfold State.linkWidth
  repeat' first
    | with_reducible assumption
    | (with_reducible refine State.linkChanged_memWf (hw_ := ?_) ..)
    | (simp (maxDischargeDepth := 12) [*]; done)
    | split
    | intro _
    | (simp_all [MemSt.wf_iff]; done)
    | simp (maxDischargeDepth := 12) [*]

@[simp] theorem State.resumeLink_mem (s : State) (l d : Nat) :
    (State.resumeLink s l d).mem = s.mem := by
  unfold State.resumeLink
  repeat' first
    | with_reducible rfl
    | (simp; done)
    | split
    | intro _
    | simp

@[simp] theorem State.laneTest_memWf (s : State) (l d g : Nat) (bad : List Nat) (strobe : Bool)  (hw_ : s.mem.wf = true) :
    (State.laneTest s l d g bad strobe).mem.wf = true := by
  unfold State.laneTest
  dsimp only
  split
  · exact hw_
  · split
    · split
      · simp [hw_]
      · exact State.linkWidth_memWf (hw_ := by simp [hw_]) ..
    · split
      · simp [hw_]
      · exact State.linkWidth_memWf (hw_ := by simp [hw_]) ..
    · exact State.linkWidth_memWf (hw_ := by simp [hw_]) ..

@[simp] theorem State.remapDone_mem (s : State) (h : Nat) :
    (State.remapDone s h).mem = s.mem := by
  unfold State.remapDone
  repeat' first
    | with_reducible rfl
    | (simp; done)
    | split
    | intro _
    | (with_reducible refine (foldl_mem _ ?_ _ _).trans ?_)
    | simp

@[simp] theorem State.retrainLink_mem (s : State) (l : Nat) :
    (State.retrainLink s l).mem = s.mem := by
  unfold State.retrainLink
  repeat' first
    | with_reducible rfl
    | (simp; done)
    | split
    | intro _
    | simp

@[simp] theorem State.remark_mem (s : State) (l : Nat) (lost : List Nat) :
    (State.remark s l lost).mem = s.mem := by
  unfold State.remark
  repeat' first
    | with_reducible rfl
    | (simp; done)
    | split
    | intro _
    | (with_reducible refine (foldl_mem _ ?_ _ _).trans ?_)
    | simp

@[simp] theorem State.retrainDone_memWf (s : State) (l : Nat) (ok : Bool) (lost : List Nat)  (hw_ : s.mem.wf = true) :
    (State.retrainDone s l ok lost).mem.wf = true := by
  unfold State.retrainDone
  repeat' first
    | with_reducible assumption
    | (with_reducible refine State.linkChanged_memWf (hw_ := ?_) ..)
    | (simp (maxDischargeDepth := 12) [*]; done)
    | split
    | intro _
    | (simp_all [MemSt.wf_iff]; done)
    | simp (maxDischargeDepth := 12) [*]

@[simp] theorem State.capability_memWf (s : State) (h : Nat) (g r : CapRec)  (hw_ : s.mem.wf = true) :
    (State.capability s h g r).mem.wf = true := by
  unfold State.capability
  repeat' first
    | with_reducible assumption
    | (with_reducible refine State.cutOff_memWf (hw_ := ?_) ..)
    | (with_reducible refine foldl_memWf _ ?_ _ _ ?_)
    | (with_reducible refine foldl_memW (fun r : Acs => r.s) _ (fun b_ a_ h_ => ?_) _ _ ?_ <;> try dsimp only at *)
    | (with_reducible refine foldl_memW (fun r : Got => r.s) _ (fun b_ a_ h_ => ?_) _ _ ?_ <;> try dsimp only at *)
    | (with_reducible refine foldl_memW (fun r : InjRead => r.s) _ (fun b_ a_ h_ => ?_) _ _ ?_ <;> try dsimp only at *)
    | (with_reducible refine foldl_memW (fun r : JForm => r.s) _ (fun b_ a_ h_ => ?_) _ _ ?_ <;> try dsimp only at *)
    | (with_reducible refine foldl_memW (fun r : JWr => r.s) _ (fun b_ a_ h_ => ?_) _ _ ?_ <;> try dsimp only at *)
    | (with_reducible refine foldl_memW (fun r : Move => r.s) _ (fun b_ a_ h_ => ?_) _ _ ?_ <;> try dsimp only at *)
    | (with_reducible refine foldl_memW (fun r : NearRes => r.s) _ (fun b_ a_ h_ => ?_) _ _ ?_ <;> try dsimp only at *)
    | (with_reducible refine foldl_memW (fun r : Res => r.s) _ (fun b_ a_ h_ => ?_) _ _ ?_ <;> try dsimp only at *)
    | (with_reducible refine foldl_memW (fun r : WrRes => r.s) _ (fun b_ a_ h_ => ?_) _ _ ?_ <;> try dsimp only at *)
    | (with_reducible refine foldl_memW (fun r : State × _ => r.1) _ (fun b_ a_ h_ => ?_) _ _ ?_ <;> try dsimp only at *)
    | (simp (maxDischargeDepth := 12) [*]; done)
    | split
    | intro _
    | (simp_all [MemSt.wf_iff]; done)
    | simp (maxDischargeDepth := 12) [*]

end Sys2Proof.Machine
end

