-- ==== Sys2Proof/Laws/MemoryFar.lean ====
section
/-!
SUPPORT. The operations of Far.lean leave memory as it is, or keep its canonical form.
-/
namespace Sys2Proof.Machine

@[simp] theorem State.channelAccess_mem (s : State) (ch : Nat) (wr : Bool) :
    (State.channelAccess s ch wr).mem = s.mem := by
  unfold State.channelAccess
  repeat' first
    | with_reducible rfl
    | (simp; done)
    | split
    | intro _
    | simp

@[simp] theorem State.channelEnd_memWf (s : State) (ch : Nat) (wr : Bool) (r : ChanRes)  (hw_ : s.mem.wf = true) :
    (State.channelEnd s ch wr r).mem.wf = true := by
  unfold State.channelEnd
  repeat' first
    | with_reducible assumption
    | (with_reducible refine State.failModule_memWf (hw_ := ?_) ..)
    | (with_reducible refine State.retireChannel_memWf (hw_ := ?_) ..)
    | (simp (maxDischargeDepth := 12) [*]; done)
    | split
    | intro _
    | (simp_all [MemSt.wf_iff]; done)
    | simp (maxDischargeDepth := 12) [*]

@[simp] theorem State.thLogFree_mem (s : State) (hall : Nat) (reading : Int) :
    (State.thLogFree s hall reading).mem = s.mem := by
  unfold State.thLogFree
  repeat' first
    | with_reducible rfl
    | (simp; done)
    | split
    | intro _
    | simp

@[simp] theorem State.spdTemp_mem (s : State) (m : Nat) (t : Int) :
    (State.spdTemp s m t).mem = s.mem := by
  unfold State.spdTemp
  repeat' first
    | with_reducible rfl
    | (simp; done)
    | split
    | intro _
    | simp

@[simp] theorem State.modCmd_mem (s : State) (q : Req) (m : Nat) (check : Option Nat) (f : State → State) (hf : ∀ x0, (f x0).mem = x0.mem) :
    (State.modCmd s q m check f).mem = s.mem := by
  unfold State.modCmd
  repeat' first
    | with_reducible rfl
    | exact hf ..
    | (simp; done)
    | split
    | intro _
    | (with_reducible refine (State.setupTry_mem (hf := ?_) ..).trans ?_)
    | simp

@[simp] theorem State.modCmd_memWf (s : State) (q : Req) (m : Nat) (check : Option Nat) (f : State → State) (hf : ∀ x0, x0.mem.wf = true → (f x0).mem.wf = true) (hw_ : s.mem.wf = true) :
    (State.modCmd s q m check f).mem.wf = true := by
  unfold State.modCmd
  repeat' first
    | with_reducible assumption
    | (with_reducible refine State.setupTry_memWf (hf := ?_) (hw_ := ?_) ..)
    | (with_reducible refine hf _ ?_)
    | (with_reducible refine hf _ _ ?_)
    | (with_reducible refine hf _ _ _ ?_)
    | (simp (maxDischargeDepth := 12) [*]; done)
    | split
    | intro _
    | (simp_all [MemSt.wf_iff]; done)
    | simp (maxDischargeDepth := 12) [*]

@[simp] theorem State.powerupDone_mem (s : State) (m : Nat) (f : ModFind) :
    (State.powerupDone s m f).mem = s.mem := by
  unfold State.powerupDone
  repeat' first
    | with_reducible rfl
    | (simp; done)
    | split
    | intro _
    | simp

@[simp] theorem State.restore_mem (s : State) (m : Nat) :
    (State.restore s m).mem = s.mem := by
  unfold State.restore
  repeat' first
    | with_reducible rfl
    | (simp; done)
    | split
    | intro _
    | simp

@[simp] theorem State.moveEnd_memWf (s : State) (m : Nat)  (hw_ : s.mem.wf = true) :
    (State.moveEnd s m).mem.wf = true := by
  unfold State.moveEnd
  repeat' first
    | with_reducible assumption
    | (with_reducible refine State.clearFarLines_memWf (hw_ := ?_) ..)
    | (with_reducible refine JWr.far_memWf (hw_ := ?_) ..)
    | (simp (maxDischargeDepth := 12) [*]; done)
    | split
    | intro _
    | (simp_all [MemSt.wf_iff]; done)
    | simp (maxDischargeDepth := 12) [*]

@[simp] theorem State.lineMove_memWf (s : State) (m : Nat) (bad : Bool)  (hw_ : s.mem.wf = true) :
    (State.lineMove s m bad).mem.wf = true := by
  unfold State.lineMove
  repeat' first
    | with_reducible assumption
    | (with_reducible refine State.poisonFarLine_memWf (hw_ := ?_) ..)
    | (with_reducible refine State.moveEnd_memWf (hw_ := ?_) ..)
    | (simp (maxDischargeDepth := 12) [*]; done)
    | split
    | intro _
    | (simp_all [MemSt.wf_iff]; done)
    | simp (maxDischargeDepth := 12) [*]

@[simp] theorem State.moduleGone_memWf (s : State) (m : Nat)  (hw_ : s.mem.wf = true) :
    (State.moduleGone s m).mem.wf = true := by
  unfold State.moduleGone
  repeat' first
    | with_reducible assumption
    | (with_reducible refine State.failModule_memWf (hw_ := ?_) ..)
    | (simp (maxDischargeDepth := 12) [*]; done)
    | split
    | intro _
    | (simp_all [MemSt.wf_iff]; done)
    | simp (maxDischargeDepth := 12) [*]

@[simp] theorem State.presence_memWf (s : State) (m : Nat) (present : Bool)  (hw_ : s.mem.wf = true) :
    (State.presence s m present).mem.wf = true := by
  unfold State.presence
  repeat' first
    | with_reducible assumption
    | (with_reducible refine State.moduleGone_memWf (hw_ := ?_) ..)
    | (with_reducible refine JWr.far_memWf (hw_ := ?_) ..)
    | (simp (maxDischargeDepth := 12) [*]; done)
    | split
    | intro _
    | (simp_all [MemSt.wf_iff]; done)
    | simp (maxDischargeDepth := 12) [*]

end Sys2Proof.Machine
end

