-- ==== Sys2Proof/Laws/MemoryPower.lean ====
section
/-!
SUPPORT. The operations of Power.lean leave memory as it is, or keep its canonical form.
-/
namespace Sys2Proof.Machine

@[simp] theorem State.railSlew_mem (s : State) (r : Nat) :
    (State.railSlew s r).mem = s.mem := by
  unfold State.railSlew
  repeat' first
    | with_reducible rfl
    | (simp; done)
    | split
    | intro _
    | simp

@[simp] theorem State.railLimited_mem (s : State) (r : Nat) :
    (State.railLimited s r).mem = s.mem := by
  unfold State.railLimited
  repeat' first
    | with_reducible rfl
    | (simp; done)
    | split
    | intro _
    | (with_reducible refine (foldl_mem _ ?_ _ _).trans ?_)
    | simp

@[simp] theorem State.energy_mem (s : State) (n uj : Nat) :
    (State.energy s n uj).mem = s.mem := by
  unfold State.energy
  repeat' first
    | with_reducible rfl
    | (simp; done)
    | split
    | intro _
    | simp

@[simp] theorem State.domainEstimate_mem (s : State) (d uw : Nat) :
    (State.domainEstimate s d uw).mem = s.mem := by
  unfold State.domainEstimate
  repeat' first
    | with_reducible rfl
    | (simp; done)
    | split
    | intro _
    | simp

@[simp] theorem State.excursion_mem (s : State) :
    (State.excursion s).mem = s.mem := by
  unfold State.excursion
  repeat' first
    | with_reducible rfl
    | (simp; done)
    | split
    | intro _
    | simp

@[simp] theorem State.governor_mem (s : State) (p1 p10 p1s : Nat) :
    (State.governor s p1 p10 p1s).mem = s.mem := by
  unfold State.governor
  repeat' first
    | with_reducible rfl
    | (simp; done)
    | split
    | intro _
    | simp

end Sys2Proof.Machine
end

