-- ==== Sys2Proof/Laws/MemoryThermal.lean ====
section
/-!
SUPPORT. The operations of Thermal.lean leave memory as it is, or keep its canonical form.
-/
namespace Sys2Proof.Machine

@[simp] theorem State.tempStart_mem (s : State) (h : Nat) :
    (State.tempStart s h).mem = s.mem := by
  unfold State.tempStart
  repeat' first
    | with_reducible rfl
    | (simp; done)
    | split
    | intro _
    | simp

@[simp] theorem State.thLogRead_mem (s : State) (cause hall : Nat) :
    (State.thLogRead s cause hall).mem = s.mem := by
  unfold State.thLogRead
  repeat' first
    | with_reducible rfl
    | (simp; done)
    | split
    | intro _
    | simp

@[simp] theorem State.flowUpdate_mem (s : State) :
    (State.flowUpdate s).mem = s.mem := by
  unfold State.flowUpdate
  repeat' first
    | with_reducible rfl
    | (simp; done)
    | split
    | intro _
    | simp

@[simp] theorem State.endGrant_mem (s : State) :
    (State.endGrant s).mem = s.mem := by
  unfold State.endGrant
  repeat' first
    | with_reducible rfl
    | (simp; done)
    | split
    | intro _
    | simp

@[simp] theorem State.cap40_mem (s : State) :
    (State.cap40 s).mem = s.mem := by
  unfold State.cap40
  repeat' first
    | with_reducible rfl
    | (simp; done)
    | split
    | intro _
    | (with_reducible refine (foldl_mem _ ?_ _ _).trans ?_)
    | simp

@[simp] theorem State.sensFault_mem (s : State) :
    (State.sensFault s).mem = s.mem := by
  unfold State.sensFault
  repeat' first
    | with_reducible rfl
    | (simp; done)
    | split
    | intro _
    | simp

@[simp] theorem State.lowFlow_mem (s : State) :
    (State.lowFlow s).mem = s.mem := by
  unfold State.lowFlow
  repeat' first
    | with_reducible rfl
    | (simp; done)
    | split
    | intro _
    | simp

@[simp] theorem State.raiseAhead_mem (s : State) (h : Nat) (bins : List (List Int)) :
    (State.raiseAhead s h bins).mem = s.mem := by
  unfold State.raiseAhead
  repeat' first
    | with_reducible rfl
    | (simp; done)
    | split
    | intro _
    | (with_reducible refine (foldl_mem _ ?_ _ _).trans ?_)
    | simp

@[simp] theorem State.seekGrant_mem (s : State) (pk : List Nat) :
    (State.seekGrant s pk).mem = s.mem := by
  unfold State.seekGrant
  repeat' first
    | with_reducible rfl
    | (simp; done)
    | split
    | intro _
    | simp

@[simp] theorem State.forecast_mem (s : State) (items : List FItem) (idle : List Nat) :
    (State.forecast s items idle).mem = s.mem := by
  unfold State.forecast
  repeat' first
    | with_reducible rfl
    | (simp; done)
    | split
    | intro _
    | (with_reducible refine (foldl_mem _ ?_ _ _).trans ?_)
    | simp

@[simp] theorem State.heatMessage_mem (s : State) :
    (State.heatMessage s).mem = s.mem := by
  unfold State.heatMessage
  repeat' first
    | with_reducible rfl
    | (simp; done)
    | split
    | intro _
    | simp

@[simp] theorem State.takeGrant_mem (s : State) (accept : Bool) (valid : Nat) :
    (State.takeGrant s accept valid).mem = s.mem := by
  unfold State.takeGrant
  repeat' first
    | with_reducible rfl
    | (simp; done)
    | split
    | intro _
    | simp

@[simp] theorem State.thermcap_mem (s : State) (h : Nat) :
    (State.thermcap s h).mem = s.mem := by
  unfold State.thermcap
  repeat' first
    | with_reducible rfl
    | (simp; done)
    | split
    | intro _
    | simp

@[simp] theorem State.clampOn_mem (s : State) (h : Nat) :
    (State.clampOn s h).mem = s.mem := by
  unfold State.clampOn
  repeat' first
    | with_reducible rfl
    | (simp; done)
    | split
    | intro _
    | simp

@[simp] theorem State.hallLost_memWf (s : State) (h : Nat)  (hw_ : s.mem.wf = true) :
    (State.hallLost s h).mem.wf = true := by
  rw [State.hallLost]
  dsimp only
  with_reducible refine foldl_memWf _ (fun s n h => ?_) _ _ hw_
  rw [State.updStall_mem, State.selReset_mem]
  exact State.clearShelf_memWf (hw_ := State.clearSliceLines_memWf (hw_ := h) ..) ..

@[simp] theorem State.trip_memWf (s : State) (h : Nat)  (hw_ : s.mem.wf = true) :
    (State.trip s h).mem.wf = true := by
  unfold State.trip
  repeat' first
    | with_reducible assumption
    | (with_reducible refine State.fenceHall_memWf (hw_ := ?_) ..)
    | (with_reducible refine State.hallWatches_memWf (hw_ := ?_) ..)
    | (with_reducible refine State.hallLost_memWf (hw_ := ?_) ..)
    | (simp (maxDischargeDepth := 12) [*]; done)
    | split
    | intro _
    | (simp_all [MemSt.wf_iff]; done)
    | simp (maxDischargeDepth := 12) [*]

@[simp] theorem State.rearm1_mem (s : State) (h : Nat) :
    (State.rearm1 s h).mem = s.mem := by
  unfold State.rearm1
  repeat' first
    | with_reducible rfl
    | (simp; done)
    | split
    | intro _
    | simp

@[simp] theorem State.failTest_mem (s : State) (n cause unit : Nat) :
    (State.failTest s n cause unit).mem = s.mem := by
  unfold State.failTest
  repeat' first
    | with_reducible rfl
    | (simp; done)
    | split
    | intro _
    | simp

@[simp] theorem State.failBond_mem (s : State) (source n port sym : Nat) :
    (State.failBond s source n port sym).mem = s.mem := by
  unfold State.failBond
  repeat' first
    | with_reducible rfl
    | (simp; done)
    | split
    | intro _
    | simp

@[simp] theorem State.testHall_mem (s : State) (h : Nat) (f : HallFind) :
    (State.testHall s h f).mem = s.mem := by
  unfold State.testHall
  repeat' first
    | with_reducible rfl
    | (simp; done)
    | split
    | intro _
    | (with_reducible refine (foldl_mem _ ?_ _ _).trans ?_)
    | simp

@[simp] theorem State.laneFinds_mem (s : State) (h : Nat) (l : List (Nat × Nat × Nat × Nat)) :
    (State.laneFinds s h l).mem = s.mem := by
  unfold State.laneFinds
  repeat' first
    | with_reducible rfl
    | (simp; done)
    | split
    | intro _
    | (with_reducible refine (foldl_mem _ ?_ _ _).trans ?_)
    | simp

@[simp] theorem State.parityFinds_mem (s : State) (h : Nat) (l : List (Nat × Nat × Nat)) :
    (State.parityFinds s h l).mem = s.mem := by
  unfold State.parityFinds
  repeat' first
    | with_reducible rfl
    | (simp; done)
    | split
    | intro _
    | (with_reducible refine (foldl_mem _ ?_ _ _).trans ?_)
    | simp

@[simp] theorem State.fitLinks_mem (s : State) (h : Nat) :
    (State.fitLinks s h).mem = s.mem := by
  unfold State.fitLinks
  repeat' first
    | with_reducible rfl
    | (simp; done)
    | split
    | intro _
    | (with_reducible refine (foldl_mem _ ?_ _ _).trans ?_)
    | simp

@[simp] theorem State.trainLinks_mem (s : State) (h : Nat) (f : HallFind) :
    (State.trainLinks s h f).mem = s.mem := by
  unfold State.trainLinks
  repeat' first
    | with_reducible rfl
    | (simp; done)
    | split
    | intro _
    | (with_reducible refine (foldl_mem _ ?_ _ _).trans ?_)
    | simp

@[simp] theorem State.refreshStart_mem (s : State) (h : Nat) :
    (State.refreshStart s h).mem = s.mem := by
  unfold State.refreshStart
  repeat' first
    | with_reducible rfl
    | (simp; done)
    | split
    | intro _
    | simp

@[simp] theorem State.returnFails_mem (s : State) (h : Nat) :
    (State.returnFails s h).mem = s.mem := by
  unfold State.returnFails
  repeat' first
    | with_reducible rfl
    | (simp; done)
    | split
    | intro _
    | simp

theorem State.negotiate_mem (s : State) (h : Nat) (r : CapRec) {t_ : State}  (hx_ : State.negotiate s h r = some t_) :
    t_.mem = s.mem := by
  unfold State.negotiate at hx_
  obtain ⟨v, _, rfl⟩ := Option.map_eq_some_iff.mp hx_
  simp

@[simp] theorem State.hallBack_mem (s : State) (h : Nat) :
    (State.hallBack s h).mem = s.mem := by
  unfold State.hallBack
  repeat' first
    | with_reducible rfl
    | (simp; done)
    | split
    | intro _
    | (with_reducible refine (foldl_mem _ ?_ _ _).trans ?_)
    | simp

@[simp] theorem State.hallReturn_memWf (s : State) (h : Nat) (f : HallFind)  (hw_ : s.mem.wf = true) :
    (State.hallReturn s h f).mem.wf = true := by
  unfold State.hallReturn
  split
  · exact hw_
  split
  · rw [State.returnFails_mem]; exact hw_
  split
  · rw [State.returnFails_mem]; exact hw_
  rename_i t ht
  have h0 : t.mem.wf = true := by rw [State.negotiate_mem (hx_ := ht)]; exact hw_
  split
  · rw [State.returnFails_mem]; exact hw_
  extract_lets t1
  have h1 : t1.mem.wf = true := by unfold t1; simp [h0]
  clear_value t1
  split
  · rw [State.returnFails_mem]; exact h1
  rename_i t2 t3 t4 _
  have h3 : t3.mem.wf = true := by unfold t3 t2; simp [h1]
  have h4 : t4.mem.wf = true := by
    unfold t4
    clear_value t3
    with_reducible refine foldl_memWf _ (fun u n hu => ?_) _ _ h3
    dsimp only
    rw [MemSt.wf_lost, State.updSlice_mem]
    exact State.clearShelf_memWf (hw_ := hu) ..
  clear_value t4
  simp [h4]

@[simp] theorem State.gatehouseTrip_memWf (s : State)  (hw_ : s.mem.wf = true) :
    (State.gatehouseTrip s).mem.wf = true := by
  unfold State.gatehouseTrip
  repeat' first
    | with_reducible assumption
    | (with_reducible refine State.trip_memWf (hw_ := ?_) ..)
    | (with_reducible refine foldl_memWf _ ?_ _ _ ?_)
    | (with_reducible refine foldl_memW (fun r : Acs => r.s) _ (fun b_ a_ h_ => ?_) _ _ ?_ <;> try dsimp only at *)
    | (with_reducible refine foldl_memW (fun r : Got => r.s) _ (fun b_ a_ h_ => ?_) _ _ ?_ <;> try dsimp only at *)
    | (with_reducible refine foldl_memW (fun r : InjRead => r.s) _ (fun b_ a_ h_ => ?_) _ _ ?_ <;> try dsimp only at *)
    | (with_reducible refine foldl_memW (fun r : JForm => r.s) _ (fun b_ a_ h_ => ?_) _ _ ?_ <;> try dsimp only at *)
    | (with_reducible refine foldl_memW (fun r : JWr => r.s) _ (fun b_ a_ h_ => ?_) _ _ ?_ <;> try dsimp only at *)
    | (with_reducible refine foldl_memW (fun r : Move => r.s) _ (fun b_ a_ h_ => ?_) _ _ ?_ <;> try dsimp only at *)
    | (with_reducible refine foldl_memW (fun r : NearRes => r.s) _ (fun b_ a_ h_ => ?_) _ _ ?_ <;> try dsimp only at *)
    | (with_reducible refine foldl_memW (fun r : Res => r.s) _ (fun b_ a_ h_ => ?_) _ _ ?_ <;> try dsimp only at *)
    | (with_reducible refine foldl_memW (fun r : WrRes => r.s) _ (fun b_ a_ h_ => ?_) _ _ ?_ <;> try dsimp only at *)
    | (with_reducible refine foldl_memW (fun r : State × _ => r.1) _ (fun b_ a_ h_ => ?_) _ _ ?_ <;> try dsimp only at *)
    | (simp (maxDischargeDepth := 12) [*]; done)
    | split
    | intro _
    | (simp_all [MemSt.wf_iff]; done)
    | simp (maxDischargeDepth := 12) [*]

end Sys2Proof.Machine
end

