-- ==== Sys2Proof/Laws/MemoryStart.lean ====
section
/-!
SUPPORT. The operations of Start.lean leave memory as it is, or keep its canonical form.
-/
namespace Sys2Proof.Machine

theorem MemSt.warm_wf (m : MemSt) (bad : List Nat) (h : m.wf = true) : (m.warm bad).wf = true := by
  unfold MemSt.warm
  have h' : MemSt.wf { m with sliceBack := m.sliceValid, farBack := m.farValid } = true := h
  generalize { m with sliceBack := m.sliceValid, farBack := m.farValid } = v at h'
  induction bad generalizing v with
  | nil => exact h'
  | cons b l ih =>
    refine ih _ ?_
    dsimp only
    split <;> exact MemSt.poisonBlock_wf _ _ _ h'

@[simp] theorem State.powerOff_memWf (s : State)  (hw_ : s.mem.wf = true) :
    (State.powerOff s).mem.wf = true := by
  rw [MemSt.wf_iff] at hw_ ⊢
  exact ⟨rfl, rfl, rfl, hw_.2.2.2⟩

@[simp] theorem State.coldBase_memWf (s : State) (f : Find)  (hw_ : s.mem.wf = true) :
    (State.coldBase s f).mem.wf = true := by
  unfold State.coldBase
  repeat' first
    | with_reducible assumption
    | (with_reducible refine State.powerOff_memWf (hw_ := ?_) ..)
    | (with_reducible refine State.load_memWf (hw_ := ?_) ..)
    | (simp (maxDischargeDepth := 12) [*]; done)
    | split
    | intro _
    | (simp_all [MemSt.wf_iff]; done)
    | simp (maxDischargeDepth := 12) [*]

@[simp] theorem State.warmBase_memWf (s : State) (f : Find) (kind : Nat)  (hw_ : s.mem.wf = true) :
    (State.warmBase s f kind).mem.wf = true := by
  unfold State.warmBase
  dsimp only
  refine MemSt.warm_wf _ _ ?_
  with_reducible refine foldl_memWf _ (fun s n h => ?_) _ _ ?_
  · exact State.clearFarLines_memWf (hw_ := h) ..
  with_reducible refine foldl_memWf _ (fun s n h => ?_) _ _ hw_
  split
  · exact State.emptyStall_memWf (hw_ := h) ..
  · exact h

@[simp] theorem State.bootWrite_mem (s : State) (f : BootRec → BootRec) :
    (State.bootWrite s f).mem = s.mem := by
  unfold State.bootWrite
  repeat' first
    | with_reducible rfl
    | (simp; done)
    | split
    | intro _
    | simp

@[simp] theorem State.chooseSlot_mem (s : State) (c : Nat) (bad : State → Nat → Bool) :
    (State.chooseSlot s c bad).1.mem = s.mem := by
  unfold State.chooseSlot
  repeat' first
    | with_reducible rfl
    | (simp; done)
    | split
    | intro _
    | simp

@[simp] theorem State.loadImages_mem (s : State) :
    (State.loadImages s).mem = s.mem := by
  unfold State.loadImages
  repeat' first
    | with_reducible rfl
    | (simp; done)
    | split
    | intro _
    | simp

@[simp] theorem State.startLinks_mem (s : State) (f : Find) (fast : Bool) (h : Nat) :
    (State.startLinks s f fast h).mem = s.mem := by
  unfold State.startLinks
  repeat' first
    | with_reducible rfl
    | (simp; done)
    | split
    | intro _
    | (with_reducible refine (foldl_mem _ ?_ _ _).trans ?_)
    | (with_reducible refine (State.negotiate_mem (hx_ := ‹_›) ..).trans ?_)
    | simp

@[simp] theorem State.startTests_memWf (s : State) (f : Find) (full : Bool) (h : Nat)  (hw_ : s.mem.wf = true) :
    (State.startTests s f full h).mem.wf = true := by
  unfold State.startTests
  repeat' first
    | with_reducible assumption
    | (with_reducible refine State.clearShelf_memWf (hw_ := ?_) ..)
    | (with_reducible refine foldl_memWf _ ?_ _ _ ?_)
    | (with_reducible refine foldl_memW (fun r : Acs => r.s) _ (fun b_ a_ h_ => ?_) _ _ ?_ <;> try dsimp only at *)
    | (with_reducible refine foldl_memW (fun r : Got => r.s) _ (fun b_ a_ h_ => ?_) _ _ ?_ <;> try dsimp only at *)
    | (with_reducible refine foldl_memW (fun r : InjRead => r.s) _ (fun b_ a_ h_ => ?_) _ _ ?_ <;> try dsimp only at *)
    | (with_reducible refine foldl_memW (fun r : JForm => r.s) _ (fun b_ a_ h_ => ?_) _ _ ?_ <;> try dsimp only at *)
    | (with_reducible refine foldl_memW (fun r : JWr => r.s) _ (fun b_ a_ h_ => ?_) _ _ ?_ <;> try dsimp only at *)
    | (with_reducible refine foldl_memW (fun r : Move => r.s) _ (fun b_ a_ h_ => ?_) _ _ ?_ <;> try dsimp only at *)
    | (with_reducible refine foldl_memW (fun r : NearRes => r.s) _ (fun b_ a_ h_ => ?_) _ _ ?_ <;> try dsimp only at *)
    | (with_reducible refine foldl_memW (fun r : Res => r.s) _ (fun b_ a_ h_ => ?_) _ _ ?_ <;> try dsimp only at *)
    | (with_reducible refine foldl_memW (fun r : WrRes => r.s) _ (fun b_ a_ h_ => ?_) _ _ ?_ <;> try dsimp only at *)
    | (with_reducible refine foldl_memW (fun r : State × _ => r.1) _ (fun b_ a_ h_ => ?_) _ _ ?_ <;> try dsimp only at *)
    | (simp (maxDischargeDepth := 12) [*]; done)
    | split
    | intro _
    | (simp_all [MemSt.wf_iff]; done)
    | simp (maxDischargeDepth := 12) [*]

@[simp] theorem State.marchTest_mem (s : State) (f : Find) :
    (State.marchTest s f).mem = s.mem := by
  unfold State.marchTest
  repeat' first
    | with_reducible rfl
    | (simp; done)
    | split
    | intro _
    | (with_reducible refine (foldl_mem _ ?_ _ _).trans ?_)
    | simp

@[simp] theorem State.startModid_mem (s : State) (f : Find) (m : Nat) :
    (State.startModid s f m).mem = s.mem := by
  unfold State.startModid
  repeat' first
    | with_reducible rfl
    | (simp; done)
    | split
    | intro _
    | simp

@[simp] theorem State.badChannels_mem (s : State) (l : List Nat) :
    (State.badChannels s l).mem = s.mem := by
  unfold State.badChannels
  repeat' first
    | with_reducible rfl
    | (simp; done)
    | split
    | intro _
    | (with_reducible refine (foldl_mem _ ?_ _ _).trans ?_)
    | simp

@[simp] theorem State.startModule_mem (s : State) (f : Find) (live : List Nat) (m : Nat) :
    (State.startModule s f live m).mem = s.mem := by
  unfold State.startModule
  repeat' first
    | with_reducible rfl
    | (simp; done)
    | split
    | intro _
    | simp

@[simp] theorem State.chooseLayout_memWf (s : State) (f : Find) (cold : Bool)  (hw_ : s.mem.wf = true) :
    (State.chooseLayout s f cold).mem.wf = true := by
  unfold State.chooseLayout
  dsimp only
  split
  · rw [foldl_mem]
    · exact hw_
    · simp
  · dsimp only
    rw [MemSt.wf_iff, foldl_mem]
    · rw [MemSt.wf_iff] at hw_
      exact ⟨hw_.1, rfl, hw_.2.2.1, hw_.2.2.2⟩
    · simp

@[simp] theorem State.startFar_memWf (s : State) (f : Find) (cold : Bool)  (hw_ : s.mem.wf = true) :
    (State.startFar s f cold).mem.wf = true := by
  unfold State.startFar
  repeat' first
    | with_reducible assumption
    | (with_reducible refine State.chooseLayout_memWf (hw_ := ?_) ..)
    | (with_reducible refine JWr.far_memWf (hw_ := ?_) ..)
    | (with_reducible refine foldl_memWf _ ?_ _ _ ?_)
    | (with_reducible refine foldl_memW (fun r : Acs => r.s) _ (fun b_ a_ h_ => ?_) _ _ ?_ <;> try dsimp only at *)
    | (with_reducible refine foldl_memW (fun r : Got => r.s) _ (fun b_ a_ h_ => ?_) _ _ ?_ <;> try dsimp only at *)
    | (with_reducible refine foldl_memW (fun r : InjRead => r.s) _ (fun b_ a_ h_ => ?_) _ _ ?_ <;> try dsimp only at *)
    | (with_reducible refine foldl_memW (fun r : JForm => r.s) _ (fun b_ a_ h_ => ?_) _ _ ?_ <;> try dsimp only at *)
    | (with_reducible refine foldl_memW (fun r : JWr => r.s) _ (fun b_ a_ h_ => ?_) _ _ ?_ <;> try dsimp only at *)
    | (with_reducible refine foldl_memW (fun r : Move => r.s) _ (fun b_ a_ h_ => ?_) _ _ ?_ <;> try dsimp only at *)
    | (with_reducible refine foldl_memW (fun r : NearRes => r.s) _ (fun b_ a_ h_ => ?_) _ _ ?_ <;> try dsimp only at *)
    | (with_reducible refine foldl_memW (fun r : Res => r.s) _ (fun b_ a_ h_ => ?_) _ _ ?_ <;> try dsimp only at *)
    | (with_reducible refine foldl_memW (fun r : WrRes => r.s) _ (fun b_ a_ h_ => ?_) _ _ ?_ <;> try dsimp only at *)
    | (with_reducible refine foldl_memW (fun r : State × _ => r.1) _ (fun b_ a_ h_ => ?_) _ _ ?_ <;> try dsimp only at *)
    | (simp (maxDischargeDepth := 12) [*]; done)
    | split
    | intro _
    | (simp_all [MemSt.wf_iff]; done)
    | simp (maxDischargeDepth := 12) [*]

@[simp] theorem State.startFarAll_memWf (s : State) (f : Find) (cold : Bool)  (hw_ : s.mem.wf = true) :
    (State.startFarAll s f cold).mem.wf = true := by
  unfold State.startFarAll
  repeat' first
    | with_reducible assumption
    | (with_reducible refine State.startFar_memWf (hw_ := ?_) ..)
    | (with_reducible refine JWr.far_memWf (hw_ := ?_) ..)
    | (simp (maxDischargeDepth := 12) [*]; done)
    | split
    | intro _
    | (simp_all [MemSt.wf_iff]; done)
    | simp (maxDischargeDepth := 12) [*]

@[simp] theorem State.startSlices_memWf (s : State) (cold : Bool) (rows : List (Nat × Nat))  (hw_ : s.mem.wf = true) :
    (State.startSlices s cold rows).mem.wf = true := by
  unfold State.startSlices
  repeat' first
    | with_reducible assumption
    | (with_reducible refine State.clearSliceLines_memWf (hw_ := ?_) ..)
    | (with_reducible refine foldl_memWf _ ?_ _ _ ?_)
    | (with_reducible refine foldl_memW (fun r : Acs => r.s) _ (fun b_ a_ h_ => ?_) _ _ ?_ <;> try dsimp only at *)
    | (with_reducible refine foldl_memW (fun r : Got => r.s) _ (fun b_ a_ h_ => ?_) _ _ ?_ <;> try dsimp only at *)
    | (with_reducible refine foldl_memW (fun r : InjRead => r.s) _ (fun b_ a_ h_ => ?_) _ _ ?_ <;> try dsimp only at *)
    | (with_reducible refine foldl_memW (fun r : JForm => r.s) _ (fun b_ a_ h_ => ?_) _ _ ?_ <;> try dsimp only at *)
    | (with_reducible refine foldl_memW (fun r : JWr => r.s) _ (fun b_ a_ h_ => ?_) _ _ ?_ <;> try dsimp only at *)
    | (with_reducible refine foldl_memW (fun r : Move => r.s) _ (fun b_ a_ h_ => ?_) _ _ ?_ <;> try dsimp only at *)
    | (with_reducible refine foldl_memW (fun r : NearRes => r.s) _ (fun b_ a_ h_ => ?_) _ _ ?_ <;> try dsimp only at *)
    | (with_reducible refine foldl_memW (fun r : Res => r.s) _ (fun b_ a_ h_ => ?_) _ _ ?_ <;> try dsimp only at *)
    | (with_reducible refine foldl_memW (fun r : WrRes => r.s) _ (fun b_ a_ h_ => ?_) _ _ ?_ <;> try dsimp only at *)
    | (with_reducible refine foldl_memW (fun r : State × _ => r.1) _ (fun b_ a_ h_ => ?_) _ _ ?_ <;> try dsimp only at *)
    | (simp (maxDischargeDepth := 12) [*]; done)
    | split
    | intro _
    | (simp_all [MemSt.wf_iff]; done)
    | simp (maxDischargeDepth := 12) [*]

@[simp] theorem State.startStalls_mem (s : State) :
    (State.startStalls s).mem = s.mem := by
  unfold State.startStalls
  repeat' first
    | with_reducible rfl
    | (simp; done)
    | split
    | intro _
    | (with_reducible refine (foldl_mem _ ?_ _ _).trans ?_)
    | simp

@[simp] theorem State.startFences_mem (s : State) :
    (State.startFences s).mem = s.mem := by
  unfold State.startFences
  repeat' first
    | with_reducible rfl
    | (simp; done)
    | split
    | intro _
    | (with_reducible refine (foldl_mem _ ?_ _ _).trans ?_)
    | simp

@[simp] theorem State.startList_mem (s : State) (ok : Bool) :
    (State.startList s ok).mem = s.mem := by
  unfold State.startList
  repeat' first
    | with_reducible rfl
    | (simp; done)
    | split
    | intro _
    | simp

@[simp] theorem State.startRoles_mem (s : State) (l : List Bool) :
    (State.startRoles s l).mem = s.mem := by
  unfold State.startRoles
  repeat' first
    | with_reducible rfl
    | (simp; done)
    | split
    | intro _
    | simp

@[simp] theorem State.publish_mem (s : State) (f : Find) :
    (State.publish s f).mem = s.mem := by
  unfold State.publish
  repeat' first
    | with_reducible rfl
    | (simp; done)
    | split
    | intro _
    | simp

@[simp] theorem State.recover_mem (s : State) (f : Find) :
    (State.recover s f).mem = s.mem := by
  unfold State.recover
  repeat' first
    | with_reducible rfl
    | (simp; done)
    | split
    | intro _
    | simp

@[simp] theorem State.startBootcfg_mem (s : State) :
    (State.startBootcfg s).mem = s.mem := by
  unfold State.startBootcfg
  repeat' first
    | with_reducible rfl
    | (simp; done)
    | split
    | intro _
    | simp

@[simp] theorem State.startReturns_mem (s : State) :
    (State.startReturns s).mem = s.mem := by
  unfold State.startReturns
  repeat' first
    | with_reducible rfl
    | (simp; done)
    | split
    | intro _
    | (with_reducible refine (foldl_mem _ ?_ _ _).trans ?_)
    | simp

@[simp] theorem State.phases_memWf (s : State) (f : Find) (kind : Nat)  (hw_ : s.mem.wf = true) :
    (State.phases s f kind).mem.wf = true := by
  unfold State.phases
  extract_lets cold fast powered s1 back s2 s3 s4
  have h4 : s4.mem.wf = true := by
    have h1 : s1.mem = s.mem := by unfold s1; split <;> simp
    have h2 : s2.mem = s1.mem := foldl_mem _ (fun s a => by split <;> simp) _ _
    have h3 : s3.mem = s2.mem := State.loadImages_mem ..
    have h : s4.mem = s3.mem := by unfold s4; split <;> simp
    rw [h, h3, h2, h1]; exact hw_
  clear_value s4
  split
  · rw [State.recover_mem]; exact h4
  rename_i t1 cfg march rows tm t2 t3 _ t4 t5 t6 _ _ _ t7 t8 _
  have h1 : t1.mem.wf = true := foldl_memWf _ (fun s a h => State.startTests_memWf (hw_ := h) ..) _ _ h4
  clear_value t1
  have h2 : t2.mem = t1.mem := by
    unfold t2 tm
    split
    · split <;> simp
    · rfl
  have h3 : t3.mem.wf = true := State.startFarAll_memWf (hw_ := by rw [h2]; exact h1) ..
  clear_value t3
  have h5 : t5.mem.wf = true := by
    unfold t5 t4
    split
    · rw [State.logEvent_mem]; exact h3
    · exact h3
  clear_value t5
  have h6 : t6.mem.wf = true := by
    unfold t6
    rw [State.startList_mem, State.startFences_mem]
    exact State.startSlices_memWf (hw_ := h5) ..
  clear_value t6
  rw [State.startReturns_mem, State.publish_mem]
  unfold t8 t7
  rw [State.ledgerAdd_mem, State.startRoles_mem, State.used_mem]
  exact h6

@[simp] theorem State.coldStart_memWf (s : State) (f : Find)  (hw_ : s.mem.wf = true) :
    (State.coldStart s f).mem.wf = true := by
  unfold State.coldStart
  repeat' first
    | with_reducible assumption
    | (with_reducible refine State.coldBase_memWf (hw_ := ?_) ..)
    | (with_reducible refine State.phases_memWf (hw_ := ?_) ..)
    | (simp (maxDischargeDepth := 12) [*]; done)
    | split
    | intro _
    | (simp_all [MemSt.wf_iff]; done)
    | simp (maxDischargeDepth := 12) [*]

@[simp] theorem State.resetStart_memWf (s : State) (f : Find)  (hw_ : s.mem.wf = true) :
    (State.resetStart s f).mem.wf = true := by
  unfold State.resetStart
  repeat' first
    | with_reducible assumption
    | (with_reducible refine State.warmBase_memWf (hw_ := ?_) ..)
    | (with_reducible refine State.phases_memWf (hw_ := ?_) ..)
    | (with_reducible refine State.coldStart_memWf (hw_ := ?_) ..)
    | (simp (maxDischargeDepth := 12) [*]; done)
    | split
    | intro _
    | (simp_all [MemSt.wf_iff]; done)
    | simp (maxDischargeDepth := 12) [*]

@[simp] theorem State.fpTouch_mem (s : State) :
    (State.fpTouch s).mem = s.mem := by
  unfold State.fpTouch
  repeat' first
    | with_reducible rfl
    | (simp; done)
    | split
    | intro _
    | simp

@[simp] theorem State.compact_mem (s : State) :
    (State.compact s).mem = s.mem := by
  unfold State.compact
  repeat' first
    | with_reducible rfl
    | (simp; done)
    | split
    | intro _
    | simp

end Sys2Proof.Machine
end

