-- ==== Sys2Proof/Laws/MemoryService.lean ====
section
/-!
SUPPORT. The operations of Service.lean leave memory as it is, or keep its canonical form.
-/
namespace Sys2Proof.Machine

@[simp] theorem State.updSp_mem (s : State) (i : Nat) (f : SpSt → SpSt) :
    (State.updSp s i f).mem = s.mem := by
  unfold State.updSp
  repeat' first
    | with_reducible rfl
    | (simp; done)
    | split
    | intro _
    | simp

@[simp] theorem State.retryItem_memWf (s : State) (i : Item)  (hw_ : s.mem.wf = true) :
    (State.retryItem s i).mem.wf = true := by
  unfold State.retryItem
  repeat' first
    | with_reducible assumption
    | (with_reducible refine State.haltWork_memWf (hw_ := ?_) ..)
    | (with_reducible refine State.retried_memWf (hw_ := ?_) ..)
    | (simp (maxDischargeDepth := 12) [*]; done)
    | split
    | intro _
    | (simp_all [MemSt.wf_iff]; done)
    | simp (maxDischargeDepth := 12) [*]

@[simp] theorem State.settleFirm_memWf (s : State) (c : Option CkPt) (blank : Bool) (i : Item)  (hw_ : s.mem.wf = true) :
    (State.settleFirm s c blank i).mem.wf = true := by
  unfold State.settleFirm
  repeat' first
    | with_reducible assumption
    | (with_reducible refine State.endItem_memWf (hw_ := ?_) ..)
    | (with_reducible refine State.retryItem_memWf (hw_ := ?_) ..)
    | (simp (maxDischargeDepth := 12) [*]; done)
    | split
    | intro _
    | (simp_all [MemSt.wf_iff]; done)
    | simp (maxDischargeDepth := 12) [*]

@[simp] theorem State.loadJis_mem (s : State) (c : CkPt) :
    (State.loadJis s c).mem = s.mem := by
  unfold State.loadJis
  repeat' first
    | with_reducible rfl
    | (simp; done)
    | split
    | intro _
    | simp

@[simp] theorem State.blankJis_mem (s : State) :
    (State.blankJis s).mem = s.mem := by
  unfold State.blankJis
  repeat' first
    | with_reducible rfl
    | (simp; done)
    | split
    | intro _
    | (with_reducible refine (foldl_mem _ ?_ _ _).trans ?_)
    | simp

@[simp] theorem State.jisCatchUp_memWf (s : State)  (hw_ : s.mem.wf = true) :
    (State.jisCatchUp s).mem.wf = true := by
  unfold State.jisCatchUp
  repeat' first
    | with_reducible assumption
    | (with_reducible refine State.slotStale_memWf (hw_ := ?_) ..)
    | (with_reducible refine State.jisStallGone_memWf (hw_ := ?_) ..)
    | (with_reducible refine foldl_memWf _ ?_ _ _ ?_)
    | (with_reducible refine foldl_memW (fun r : Acs => r.s) _ (fun b_ a_ h_ => ?_) _ _ ?_ <;> try dsimp only at *)
    | (with_reducible refine foldl_memW (fun r : Got => r.s) _ (fun b_ a_ h_ => ?_) _ _ ?_ <;> try dsimp only at *)
    | (with_reducible refine foldl_memW (fun r : InjRead => r.s) _ (fun b_ a_ h_ => ?_) _ _ ?_ <;> try dsimp only at *)
    | (with_reducible refine foldl_memW (fun r : JForm => r.s) _ (fun b_ a_ h_ => ?_) _ _ ?_ <;> try dsimp only at *)
    | (with_reducible refine foldl_memW (fun r : JWr => r.s) _ (fun b_ a_ h_ => ?_) _ _ ?_ <;> try dsimp only at *)
    | (with_reducible refine foldl_memW (fun r : Move => r.s) _ (fun b_ a_ h_ => ?_) _ _ ?_ <;> try dsimp only at *)
    | (with_reducible refine foldl_memW (fun r : NearRes => r.s) _ (fun b_ a_ h_ => ?_) _ _ ?_ <;> try dsimp only at *)
    | (with_reducible refine foldl_memW (fun r : Res => r.s) _ (fun b_ a_ h_ => ?_) _ _ ?_ <;> try dsimp only at *)
    | (with_reducible refine foldl_memW (fun r : WrRes => r.s) _ (fun b_ a_ h_ => ?_) _ _ ?_ <;> try dsimp only at *)
    | (with_reducible refine foldl_memW (fun r : State × _ => r.1) _ (fun b_ a_ h_ => ?_) _ _ ?_ <;> try dsimp only at *)
    | (simp (maxDischargeDepth := 12) [*]; done)
    | split
    | intro _
    | (simp_all [MemSt.wf_iff]; done)
    | simp (maxDischargeDepth := 12) [*]

@[simp] theorem State.settleAll_memWf (s : State) (c : Option CkPt) (blank : Bool)  (hw_ : s.mem.wf = true) :
    (State.settleAll s c blank).mem.wf = true := by
  unfold State.settleAll
  repeat' first
    | with_reducible assumption
    | (with_reducible refine State.haltWork_memWf (hw_ := ?_) ..)
    | (with_reducible refine State.settleFirm_memWf (hw_ := ?_) ..)
    | (with_reducible refine State.jisCatchUp_memWf (hw_ := ?_) ..)
    | (with_reducible refine foldl_memWf _ ?_ _ _ ?_)
    | (with_reducible refine foldl_memW (fun r : Acs => r.s) _ (fun b_ a_ h_ => ?_) _ _ ?_ <;> try dsimp only at *)
    | (with_reducible refine foldl_memW (fun r : Got => r.s) _ (fun b_ a_ h_ => ?_) _ _ ?_ <;> try dsimp only at *)
    | (with_reducible refine foldl_memW (fun r : InjRead => r.s) _ (fun b_ a_ h_ => ?_) _ _ ?_ <;> try dsimp only at *)
    | (with_reducible refine foldl_memW (fun r : JForm => r.s) _ (fun b_ a_ h_ => ?_) _ _ ?_ <;> try dsimp only at *)
    | (with_reducible refine foldl_memW (fun r : JWr => r.s) _ (fun b_ a_ h_ => ?_) _ _ ?_ <;> try dsimp only at *)
    | (with_reducible refine foldl_memW (fun r : Move => r.s) _ (fun b_ a_ h_ => ?_) _ _ ?_ <;> try dsimp only at *)
    | (with_reducible refine foldl_memW (fun r : NearRes => r.s) _ (fun b_ a_ h_ => ?_) _ _ ?_ <;> try dsimp only at *)
    | (with_reducible refine foldl_memW (fun r : Res => r.s) _ (fun b_ a_ h_ => ?_) _ _ ?_ <;> try dsimp only at *)
    | (with_reducible refine foldl_memW (fun r : WrRes => r.s) _ (fun b_ a_ h_ => ?_) _ _ ?_ <;> try dsimp only at *)
    | (with_reducible refine foldl_memW (fun r : State × _ => r.1) _ (fun b_ a_ h_ => ?_) _ _ ?_ <;> try dsimp only at *)
    | (simp (maxDischargeDepth := 12) [*]; done)
    | split
    | intro _
    | (simp_all [MemSt.wf_iff]; done)
    | simp (maxDischargeDepth := 12) [*]

@[simp] theorem State.pairFlags_mem (s : State) (q : Nat) :
    (State.pairFlags s q).mem = s.mem := by
  unfold State.pairFlags
  repeat' first
    | with_reducible rfl
    | (simp; done)
    | split
    | intro _
    | simp

@[simp] theorem State.runImage_mem (s : State) (i : Nat) :
    (State.runImage s i).mem = s.mem := by
  unfold State.runImage
  repeat' first
    | with_reducible rfl
    | (simp; done)
    | split
    | intro _
    | simp

@[simp] theorem State.takeOver_memWf (s : State) (i : Nat)  (hw_ : s.mem.wf = true) :
    (State.takeOver s i).mem.wf = true := by
  unfold State.takeOver
  repeat' first
    | with_reducible assumption
    | (with_reducible refine State.settleAll_memWf (hw_ := ?_) ..)
    | (simp (maxDischargeDepth := 12) [*]; done)
    | split
    | intro _
    | (simp_all [MemSt.wf_iff]; done)
    | simp (maxDischargeDepth := 12) [*]

@[simp] theorem State.retireSp_mem (s : State) (i : Nat) :
    (State.retireSp s i).mem = s.mem := by
  unfold State.retireSp
  repeat' first
    | with_reducible rfl
    | (simp; done)
    | split
    | intro _
    | simp

@[simp] theorem State.declareFailed_memWf (s : State) (i : Nat)  (hw_ : s.mem.wf = true) :
    (State.declareFailed s i).mem.wf = true := by
  unfold State.declareFailed
  repeat' first
    | with_reducible assumption
    | (with_reducible refine State.settleAll_memWf (hw_ := ?_) ..)
    | (with_reducible refine State.takeOver_memWf (hw_ := ?_) ..)
    | (simp (maxDischargeDepth := 12) [*]; done)
    | split
    | intro _
    | (simp_all [MemSt.wf_iff]; done)
    | simp (maxDischargeDepth := 12) [*]

@[simp] theorem State.restartImage_mem (s : State) (i : Nat) :
    (State.restartImage s i).mem = s.mem := by
  unfold State.restartImage
  repeat' first
    | with_reducible rfl
    | (simp; done)
    | split
    | intro _
    | simp

@[simp] theorem State.restarted_memWf (s : State) (i : Nat) (ok : Bool)  (hw_ : s.mem.wf = true) :
    (State.restarted s i ok).mem.wf = true := by
  unfold State.restarted
  repeat' first
    | with_reducible assumption
    | (with_reducible refine State.takeOver_memWf (hw_ := ?_) ..)
    | (simp (maxDischargeDepth := 12) [*]; done)
    | split
    | intro _
    | (simp_all [MemSt.wf_iff]; done)
    | simp (maxDischargeDepth := 12) [*]

@[simp] theorem State.retireCmd_memWf (s : State) (v : W32)  (hw_ : s.mem.wf = true) :
    (State.retireCmd s v).mem.wf = true := by
  unfold State.retireCmd
  repeat' first
    | with_reducible assumption
    | (with_reducible refine State.retireStall_memWf (hw_ := ?_) ..)
    | (with_reducible refine State.retire_memWf (hw_ := ?_) ..)
    | (simp (maxDischargeDepth := 12) [*]; done)
    | split
    | intro _
    | (simp_all [MemSt.wf_iff]; done)
    | simp (maxDischargeDepth := 12) [*]

@[simp] theorem State.salvageCmd_mem (s : State) (v : W32) :
    (State.salvageCmd s v).mem = s.mem := by
  unfold State.salvageCmd
  repeat' first
    | with_reducible rfl
    | (simp; done)
    | split
    | intro _
    | simp

@[simp] theorem State.salvageLine_memWf (s : State) (src dst l : Nat) (bad : Bool)  (hw_ : s.mem.wf = true) :
    (State.salvageLine s src dst l bad).mem.wf = true := by
  unfold State.salvageLine
  repeat' first
    | with_reducible assumption
    | (with_reducible refine State.wrSlice_memWf (hw_ := ?_) ..)
    | (with_reducible refine State.poisSlice_memWf (hw_ := ?_) ..)
    | (with_reducible refine JWr.slice_memWf (hw_ := ?_) ..)
    | (with_reducible refine foldl_memWf _ ?_ _ _ ?_)
    | (with_reducible refine foldl_memW (fun r : Acs => r.s) _ (fun b_ a_ h_ => ?_) _ _ ?_ <;> try dsimp only at *)
    | (with_reducible refine foldl_memW (fun r : Got => r.s) _ (fun b_ a_ h_ => ?_) _ _ ?_ <;> try dsimp only at *)
    | (with_reducible refine foldl_memW (fun r : InjRead => r.s) _ (fun b_ a_ h_ => ?_) _ _ ?_ <;> try dsimp only at *)
    | (with_reducible refine foldl_memW (fun r : JForm => r.s) _ (fun b_ a_ h_ => ?_) _ _ ?_ <;> try dsimp only at *)
    | (with_reducible refine foldl_memW (fun r : JWr => r.s) _ (fun b_ a_ h_ => ?_) _ _ ?_ <;> try dsimp only at *)
    | (with_reducible refine foldl_memW (fun r : Move => r.s) _ (fun b_ a_ h_ => ?_) _ _ ?_ <;> try dsimp only at *)
    | (with_reducible refine foldl_memW (fun r : NearRes => r.s) _ (fun b_ a_ h_ => ?_) _ _ ?_ <;> try dsimp only at *)
    | (with_reducible refine foldl_memW (fun r : Res => r.s) _ (fun b_ a_ h_ => ?_) _ _ ?_ <;> try dsimp only at *)
    | (with_reducible refine foldl_memW (fun r : WrRes => r.s) _ (fun b_ a_ h_ => ?_) _ _ ?_ <;> try dsimp only at *)
    | (with_reducible refine foldl_memW (fun r : State × _ => r.1) _ (fun b_ a_ h_ => ?_) _ _ ?_ <;> try dsimp only at *)
    | (simp (maxDischargeDepth := 12) [*]; done)
    | split
    | intro _
    | (simp_all [MemSt.wf_iff]; done)
    | simp (maxDischargeDepth := 12) [*]

@[simp] theorem State.salvaged_memWf (s : State) (ce : Nat) (bad : List Nat)  (hw_ : s.mem.wf = true) :
    (State.salvaged s ce bad).mem.wf = true := by
  unfold State.salvaged
  repeat' first
    | with_reducible assumption
    | (with_reducible refine State.salvageLine_memWf (hw_ := ?_) ..)
    | (with_reducible refine foldl_memWf _ ?_ _ _ ?_)
    | (with_reducible refine foldl_memW (fun r : Acs => r.s) _ (fun b_ a_ h_ => ?_) _ _ ?_ <;> try dsimp only at *)
    | (with_reducible refine foldl_memW (fun r : Got => r.s) _ (fun b_ a_ h_ => ?_) _ _ ?_ <;> try dsimp only at *)
    | (with_reducible refine foldl_memW (fun r : InjRead => r.s) _ (fun b_ a_ h_ => ?_) _ _ ?_ <;> try dsimp only at *)
    | (with_reducible refine foldl_memW (fun r : JForm => r.s) _ (fun b_ a_ h_ => ?_) _ _ ?_ <;> try dsimp only at *)
    | (with_reducible refine foldl_memW (fun r : JWr => r.s) _ (fun b_ a_ h_ => ?_) _ _ ?_ <;> try dsimp only at *)
    | (with_reducible refine foldl_memW (fun r : Move => r.s) _ (fun b_ a_ h_ => ?_) _ _ ?_ <;> try dsimp only at *)
    | (with_reducible refine foldl_memW (fun r : NearRes => r.s) _ (fun b_ a_ h_ => ?_) _ _ ?_ <;> try dsimp only at *)
    | (with_reducible refine foldl_memW (fun r : Res => r.s) _ (fun b_ a_ h_ => ?_) _ _ ?_ <;> try dsimp only at *)
    | (with_reducible refine foldl_memW (fun r : WrRes => r.s) _ (fun b_ a_ h_ => ?_) _ _ ?_ <;> try dsimp only at *)
    | (with_reducible refine foldl_memW (fun r : State × _ => r.1) _ (fun b_ a_ h_ => ?_) _ _ ?_ <;> try dsimp only at *)
    | (simp (maxDischargeDepth := 12) [*]; done)
    | split
    | intro _
    | (simp_all [MemSt.wf_iff]; done)
    | simp (maxDischargeDepth := 12) [*]

@[simp] theorem State.snapshot_mem (s : State) (ok : Bool) :
    (State.snapshot s ok).mem = s.mem := by
  unfold State.snapshot
  repeat' first
    | with_reducible rfl
    | (simp; done)
    | split
    | intro _
    | simp

@[simp] theorem State.thermalCycle_mem (s : State) (off : Nat) (r : Int) :
    (State.thermalCycle s off r).mem = s.mem := by
  unfold State.thermalCycle
  repeat' first
    | with_reducible rfl
    | (simp; done)
    | split
    | intro _
    | simp

@[simp] theorem State.sampleStall_mem (s : State) (n : Nat) :
    (State.sampleStall s n).mem = s.mem := by
  unfold State.sampleStall
  repeat' first
    | with_reducible rfl
    | (simp; done)
    | split
    | intro _
    | (with_reducible refine (foldl_mem _ ?_ _ _).trans ?_)
    | simp

@[simp] theorem State.ledgerSample_mem (s : State) :
    (State.ledgerSample s).mem = s.mem := by
  unfold State.ledgerSample
  repeat' first
    | with_reducible rfl
    | (simp; done)
    | split
    | intro _
    | (with_reducible refine (foldl_mem _ ?_ _ _).trans ?_)
    | simp

@[simp] theorem State.bondq_mem (s : State) (layerUw : List Nat) :
    (State.bondq s layerUw).mem = s.mem := by
  unfold State.bondq
  repeat' first
    | with_reducible rfl
    | (simp; done)
    | split
    | intro _
    | (with_reducible refine (foldl_mem _ ?_ _ _).trans ?_)
    | simp

end Sys2Proof.Machine
end

