-- ==== Sys2Proof/Laws/MemoryFirmware.lean ====
section
/-!
SUPPORT. The operations of Firmware.lean leave memory as it is, or keep its canonical form.
-/
namespace Sys2Proof.Machine

@[simp] theorem State.slotState_mem (s : State) (i v : Nat) :
    (State.slotState s i v).mem = s.mem := by
  unfold State.slotState
  repeat' first
    | with_reducible rfl
    | (simp; done)
    | split
    | intro _
    | simp

@[simp] theorem State.failUpdate_mem (s : State) (code : Nat) :
    (State.failUpdate s code).mem = s.mem := by
  unfold State.failUpdate
  repeat' first
    | with_reducible rfl
    | (simp; done)
    | split
    | intro _
    | simp

@[simp] theorem State.beginDownload_mem (s : State) (i len : Nat) (mbox : Bool) :
    (State.beginDownload s i len mbox).mem = s.mem := by
  unfold State.beginDownload
  repeat' first
    | with_reducible rfl
    | (simp; done)
    | split
    | intro _
    | simp

@[simp] theorem State.program_mem (s : State) (data : List Byte) :
    (State.program s data).mem = s.mem := by
  unfold State.program
  repeat' first
    | with_reducible rfl
    | (simp; done)
    | split
    | intro _
    | simp

@[simp] theorem State.verify_mem (s : State) :
    (State.verify s).mem = s.mem := by
  unfold State.verify
  repeat' first
    | with_reducible rfl
    | (simp; done)
    | split
    | intro _
    | simp

@[simp] theorem State.activate_mem (s : State) (i : Nat) :
    (State.activate s i).mem = s.mem := by
  unfold State.activate
  repeat' first
    | with_reducible rfl
    | (simp; done)
    | split
    | intro _
    | simp

theorem State.onlineStart_mem (s : State) {t_ : State}  (hx_ : State.onlineStart s = some t_) :
    t_.mem = s.mem := by
  unfold State.onlineStart at hx_
  obtain ⟨v, _, rfl⟩ := Option.map_eq_some_iff.mp hx_
  simp

@[simp] theorem State.mbox_mem (s : State) (rc : Nat) (data : List Byte) :
    (State.mbox s rc data).mem = s.mem := by
  unfold State.mbox
  repeat' first
    | with_reducible rfl
    | (simp; done)
    | split
    | intro _
    | simp

@[simp] theorem State.transferPart_mem (s : State) (off : Nat) (data : List Byte) (last : Bool) :
    (State.transferPart s off data last).mem = s.mem := by
  unfold State.transferPart
  repeat' first
    | with_reducible rfl
    | (simp; done)
    | split
    | intro _
    | simp

@[simp] theorem State.transferFw_mem (s : State) (slot : Nat) (act : XferAct) (off : Nat) (data : List Byte) :
    (State.transferFw s slot act off data).mem = s.mem := by
  unfold State.transferFw
  split <;> simp [State.transferFw.start]

@[simp] theorem State.activateFw_mem (s : State) (slot : Nat) (online : Bool) :
    (State.activateFw s slot online).mem = s.mem := by
  unfold State.activateFw
  repeat' first
    | with_reducible rfl
    | (simp; done)
    | split
    | intro _
    | (with_reducible refine (State.onlineStart_mem (hx_ := ‹_›) ..).trans ?_)
    | simp

@[simp] theorem State.pldm_mem (s : State) (cc : Nat) (data : List Byte) :
    (State.pldm s cc data).mem = s.mem := by
  unfold State.pldm
  repeat' first
    | with_reducible rfl
    | (simp; done)
    | split
    | intro _
    | simp

@[simp] theorem State.pldmTry_mem (s : State) (f : State → State) (hf : ∀ x0, (f x0).mem = x0.mem) :
    (State.pldmTry s f).mem = s.mem := by
  unfold State.pldmTry
  repeat' first
    | with_reducible rfl
    | exact hf ..
    | (simp; done)
    | split
    | intro _
    | simp

@[simp] theorem State.pldmTry_memWf (s : State) (f : State → State) (hf : ∀ x0, x0.mem.wf = true → (f x0).mem.wf = true) (hw_ : s.mem.wf = true) :
    (State.pldmTry s f).mem.wf = true := by
  unfold State.pldmTry
  repeat' first
    | with_reducible assumption
    | (with_reducible refine hf _ ?_)
    | (with_reducible refine hf _ _ ?_)
    | (with_reducible refine hf _ _ _ ?_)
    | (simp (maxDischargeDepth := 12) [*]; done)
    | split
    | intro _
    | (simp_all [MemSt.wf_iff]; done)
    | simp (maxDischargeDepth := 12) [*]

@[simp] theorem State.pldmAt_mem (s : State) (n : Nat) (f : State → State) (hf : ∀ x0, (f x0).mem = x0.mem) :
    (State.pldmAt s n f).mem = s.mem := by
  unfold State.pldmAt
  repeat' first
    | with_reducible rfl
    | exact hf ..
    | (simp; done)
    | split
    | intro _
    | (with_reducible refine (State.pldmTry_mem (hf := ?_) ..).trans ?_)
    | simp

@[simp] theorem State.pldmAt_memWf (s : State) (n : Nat) (f : State → State) (hf : ∀ x0, x0.mem.wf = true → (f x0).mem.wf = true) (hw_ : s.mem.wf = true) :
    (State.pldmAt s n f).mem.wf = true := by
  unfold State.pldmAt
  repeat' first
    | with_reducible assumption
    | (with_reducible refine State.pldmTry_memWf (hf := ?_) (hw_ := ?_) ..)
    | (with_reducible refine hf _ ?_)
    | (with_reducible refine hf _ _ ?_)
    | (with_reducible refine hf _ _ _ ?_)
    | (simp (maxDischargeDepth := 12) [*]; done)
    | split
    | intro _
    | (simp_all [MemSt.wf_iff]; done)
    | simp (maxDischargeDepth := 12) [*]

@[simp] theorem State.askBlock_mem (s : State) :
    (State.askBlock s).mem = s.mem := by
  unfold State.askBlock
  repeat' first
    | with_reducible rfl
    | (simp; done)
    | split
    | intro _
    | simp

@[simp] theorem State.cancelUpdate_mem (s : State) :
    (State.cancelUpdate s).mem = s.mem := by
  unfold State.cancelUpdate
  repeat' first
    | with_reducible rfl
    | (simp; done)
    | split
    | intro _
    | simp

@[simp] theorem State.confirmOne_mem (s : State) (c : Nat) (ok : Bool) :
    (State.confirmOne s c ok).mem = s.mem := by
  unfold State.confirmOne
  repeat' first
    | with_reducible rfl
    | (simp; done)
    | split
    | intro _
    | simp

@[simp] theorem State.confirm_mem (s : State) :
    (State.confirm s).mem = s.mem := by
  unfold State.confirm
  repeat' first
    | with_reducible rfl
    | (simp; done)
    | split
    | intro _
    | simp

end Sys2Proof.Machine
end

