-- ==== Sys2Proof/Laws/MemoryAttach.lean ====
section
/-!
SUPPORT. The operations of Attach.lean leave memory as it is, or keep its canonical form.
-/
namespace Sys2Proof.Machine

@[simp] theorem State.cxlTouch_mem (s : State) (pl : Place) (wr : Bool) :
    (State.cxlTouch s pl wr).mem = s.mem := by
  unfold State.cxlTouch
  repeat' first
    | with_reducible rfl
    | (simp; done)
    | split
    | intro _
    | simp

@[simp] theorem State.cxlPoisoned_mem (s : State) (ld dpa : Nat) (pl : Place) (pois : Bool) :
    (State.cxlPoisoned s ld dpa pl pois).mem = s.mem := by
  unfold State.cxlPoisoned
  repeat' first
    | with_reducible rfl
    | (simp; done)
    | split
    | intro _
    | simp

@[simp] theorem State.cxlRead_mem (s : State) (ld addr : Nat) :
    (State.cxlRead s ld addr).mem = s.mem := by
  unfold State.cxlRead
  repeat' first
    | with_reducible rfl
    | (simp; done)
    | split
    | intro _
    | simp

@[simp] theorem State.cxlAt_mem (s : State) (ld hpa : Nat) (f : State → Nat → State) (hf : ∀ x0 x1, (f x0 x1).mem = x0.mem) :
    (State.cxlAt s ld hpa f).mem = s.mem := by
  unfold State.cxlAt
  repeat' first
    | with_reducible rfl
    | exact hf ..
    | (simp; done)
    | split
    | intro _
    | simp

@[simp] theorem State.cxlAt_memWf (s : State) (ld hpa : Nat) (f : State → Nat → State) (hf : ∀ x0 x1, x0.mem.wf = true → (f x0 x1).mem.wf = true) (hw_ : s.mem.wf = true) :
    (State.cxlAt s ld hpa f).mem.wf = true := by
  unfold State.cxlAt
  repeat' first
    | with_reducible assumption
    | (with_reducible refine hf _ ?_)
    | (with_reducible refine hf _ _ ?_)
    | (with_reducible refine hf _ _ _ ?_)
    | (simp (maxDischargeDepth := 12) [*]; done)
    | split
    | intro _
    | (simp_all [MemSt.wf_iff]; done)
    | simp (maxDischargeDepth := 12) [*]

@[simp] theorem State.wrPlace_memWf (s : State) (pl : Place) (b : List Byte)  (hw_ : s.mem.wf = true) :
    (State.wrPlace s pl b).s.mem.wf = true := by
  unfold State.wrPlace
  repeat' first
    | with_reducible assumption
    | (with_reducible refine State.wrSlice_memWf (hw_ := ?_) ..)
    | (with_reducible refine State.wrFar_memWf (hw_ := ?_) ..)
    | (with_reducible refine JWr.slice_memWf (hw_ := ?_) ..)
    | (with_reducible refine JWr.far_memWf (hw_ := ?_) ..)
    | (simp (maxDischargeDepth := 12) [*]; done)
    | split
    | intro _
    | (simp_all [MemSt.wf_iff]; done)
    | simp (maxDischargeDepth := 12) [*]

@[simp] theorem State.unlist_mem (s : State) (ld dpa : Nat) (pl : Place) :
    (State.unlist s ld dpa pl).mem = s.mem := by
  unfold State.unlist
  repeat' first
    | with_reducible rfl
    | (simp; done)
    | split
    | intro _
    | simp

@[simp] theorem State.cxlStore_memWf (s : State) (ld addr : Nat) (f : State → Place → State) (hf : ∀ x0 x1, x0.mem.wf = true → (f x0 x1).mem.wf = true) (hw_ : s.mem.wf = true) :
    (State.cxlStore s ld addr f).mem.wf = true := by
  unfold State.cxlStore
  repeat' first
    | with_reducible assumption
    | (with_reducible refine hf _ ?_)
    | (with_reducible refine hf _ _ ?_)
    | (with_reducible refine hf _ _ _ ?_)
    | (simp (maxDischargeDepth := 12) [*]; done)
    | split
    | intro _
    | (simp_all [MemSt.wf_iff]; done)
    | simp (maxDischargeDepth := 12) [*]

@[simp] theorem State.partWord_memWf (s : State) (ld dpa : Nat) (pl : Place) (data : List Byte) (be : Word) (w : Nat)  (hw_ : s.mem.wf = true) :
    (State.partWord s ld dpa pl data be w).mem.wf = true := by
  unfold State.partWord
  repeat' first
    | with_reducible assumption
    | (with_reducible refine State.wrPlace_memWf (hw_ := ?_) ..)
    | (simp (maxDischargeDepth := 12) [*]; done)
    | split
    | intro _
    | (simp_all [MemSt.wf_iff]; done)
    | simp (maxDischargeDepth := 12) [*]

end Sys2Proof.Machine
end

