-- ==== Sys2Proof/Laws/MemoryMailbox.lean ====
section
/-!
SUPPORT. The operations of Mailbox.lean leave memory as it is, or keep its canonical form.
-/
namespace Sys2Proof.Machine

@[simp] theorem State.mboxTry_mem (s : State) (ld : Nat) (f : State → State) (hf : ∀ x0, (f x0).mem = x0.mem) :
    (State.mboxTry s ld f).mem = s.mem := by
  unfold State.mboxTry
  repeat' first
    | with_reducible rfl
    | exact hf ..
    | (simp; done)
    | split
    | intro _
    | simp

@[simp] theorem State.mboxTry_memWf (s : State) (ld : Nat) (f : State → State) (hf : ∀ x0, x0.mem.wf = true → (f x0).mem.wf = true) (hw_ : s.mem.wf = true) :
    (State.mboxTry s ld f).mem.wf = true := by
  unfold State.mboxTry
  repeat' first
    | with_reducible assumption
    | (with_reducible refine hf _ ?_)
    | (with_reducible refine hf _ _ ?_)
    | (with_reducible refine hf _ _ _ ?_)
    | (simp (maxDischargeDepth := 12) [*]; done)
    | split
    | intro _
    | (simp_all [MemSt.wf_iff]; done)
    | simp (maxDischargeDepth := 12) [*]

@[simp] theorem State.fmTry_mem (s : State) (f : State → State) (hf : ∀ x0, (f x0).mem = x0.mem) :
    (State.fmTry s f).mem = s.mem := by
  unfold State.fmTry
  repeat' first
    | with_reducible rfl
    | exact hf ..
    | (simp; done)
    | split
    | intro _
    | simp

@[simp] theorem State.fmTry_memWf (s : State) (f : State → State) (hf : ∀ x0, x0.mem.wf = true → (f x0).mem.wf = true) (hw_ : s.mem.wf = true) :
    (State.fmTry s f).mem.wf = true := by
  unfold State.fmTry
  repeat' first
    | with_reducible assumption
    | (with_reducible refine hf _ ?_)
    | (with_reducible refine hf _ _ ?_)
    | (with_reducible refine hf _ _ _ ?_)
    | (simp (maxDischargeDepth := 12) [*]; done)
    | split
    | intro _
    | (simp_all [MemSt.wf_iff]; done)
    | simp (maxDischargeDepth := 12) [*]

end Sys2Proof.Machine
end

