-- ==== Sys2Proof/Laws/MemoryTiles.lean ====
section
/-!
SUPPORT. The operations of Tiles.lean leave memory as it is, or keep its canonical form.
-/
namespace Sys2Proof.Machine

@[simp] theorem State.wide_mem (s : State) (n k : Nat) (f : Thread → State) (hf : ∀ x0, (f x0).mem = s.mem) :
    (State.wide s n k f).mem = s.mem := by
  unfold State.wide
  repeat' first
    | with_reducible rfl
    | exact hf ..
    | (simp; done)
    | split
    | intro _
    | simp

@[simp] theorem State.wide_memWf (s : State) (n k : Nat) (f : Thread → State) (hf : ∀ x0, s.mem.wf = true → (f x0).mem.wf = true) (hw_ : s.mem.wf = true) :
    (State.wide s n k f).mem.wf = true := by
  unfold State.wide
  repeat' first
    | with_reducible assumption
    | (with_reducible refine hf _ ?_)
    | (with_reducible refine hf _ _ ?_)
    | (with_reducible refine hf _ _ _ ?_)
    | (simp (maxDischargeDepth := 12) [*]; done)
    | split
    | intro _
    | (simp_all [MemSt.wf_iff]; done)
    | simp (maxDischargeDepth := 12) [*]

@[simp] theorem State.wideExc_memWf (s : State) (n k cause : Nat) (addr : Word)  (hw_ : s.mem.wf = true) :
    (State.wideExc s n k cause addr).mem.wf = true := by
  unfold State.wideExc
  repeat' first
    | with_reducible assumption
    | (with_reducible refine State.raiseExc_memWf (hw_ := ?_) ..)
    | (simp (maxDischargeDepth := 12) [*]; done)
    | split
    | intro _
    | (simp_all [MemSt.wf_iff]; done)
    | simp (maxDischargeDepth := 12) [*]

@[simp] theorem State.wideUse_memWf (s : State) (n k : Nat) (rest : WF) (f : Thread → State) (hf : ∀ x0, s.mem.wf = true → (f x0).mem.wf = true) (hw_ : s.mem.wf = true) :
    (State.wideUse s n k rest f).mem.wf = true := by
  unfold State.wideUse
  repeat' first
    | with_reducible assumption
    | (with_reducible refine State.wide_memWf (hf := ?_) (hw_ := ?_) ..)
    | (with_reducible refine State.wideExc_memWf (hw_ := ?_) ..)
    | (with_reducible refine hf _ ?_)
    | (with_reducible refine hf _ _ ?_)
    | (with_reducible refine hf _ _ _ ?_)
    | (simp (maxDischargeDepth := 12) [*]; done)
    | split
    | intro _
    | (simp_all [MemSt.wf_iff]; done)
    | simp (maxDischargeDepth := 12) [*]

@[simp] theorem State.setRow_mem (s : State) (n t r : Nat) (v : Row) :
    (State.setRow s n t r v).mem = s.mem := by
  unfold State.setRow
  repeat' first
    | with_reducible rfl
    | (simp; done)
    | split
    | intro _
    | simp

@[simp] theorem State.rowReport_mem (s : State) (n : Nat) :
    (State.rowReport s n).mem = s.mem := by
  unfold State.rowReport
  repeat' first
    | with_reducible rfl
    | (simp; done)
    | split
    | intro _
    | simp

@[simp] theorem seqRes_mem {α : Type} (f : State → α → Res) (s : State) (l : List α) (hf : ∀ x0 x1, (f x0 x1).s.mem = x0.mem) :
    (seqRes f s l).s.mem = s.mem := by
  unfold seqRes
  exact foldl_memP (fun r : Res => r.s) _ (fun r x => by split <;> first | rfl | exact hf ..) _ _

@[simp] theorem seqRes_memWf {α : Type} (f : State → α → Res) (s : State) (l : List α) (hf : ∀ x0 x1, x0.mem.wf = true → (f x0 x1).s.mem.wf = true) (hw_ : s.mem.wf = true) :
    (seqRes f s l).s.mem.wf = true := by
  unfold seqRes
  refine foldl_memW (fun r : Res => r.s) _ (fun r x h => ?_) _ _ hw_
  split
  · exact h
  · exact hf _ _ h

@[simp] theorem State.loopBase_mem (s : State) (n k : Nat) (g : LoopRegs) (loop : BitVec 2) (i : Nat) :
    (State.loopBase s n k g loop i).1.mem = s.mem := by
  unfold State.loopBase
  split
  · rfl
  · rfl
  · dsimp only; split <;> simp

end Sys2Proof.Machine
end

