-- ==== Sys2Proof/Laws/MemoryGroup.lean ====
section
/-!
SUPPORT. The operations of Group.lean leave memory as it is, or keep its canonical form.
-/
namespace Sys2Proof.Machine

@[simp] theorem State.retireAll_memWf (s : State) (n : Nat) (parts : List Nat)  (hw_ : s.mem.wf = true) :
    (State.retireAll s n parts).mem.wf = true := by
  unfold State.retireAll
  repeat' first
    | with_reducible assumption
    | (with_reducible refine State.retirePair_memWf (hw_ := ?_) ..)
    | (with_reducible refine foldl_memWf _ ?_ _ _ ?_)
    | (with_reducible refine foldl_memW (fun r : Acs => r.s) _ (fun b_ a_ h_ => ?_) _ _ ?_ <;> try dsimp only at *)
    | (with_reducible refine foldl_memW (fun r : Got => r.s) _ (fun b_ a_ h_ => ?_) _ _ ?_ <;> try dsimp only at *)
    | (with_reducible refine foldl_memW (fun r : InjRead => r.s) _ (fun b_ a_ h_ => ?_) _ _ ?_ <;> try dsimp only at *)
    | (with_reducible refine foldl_memW (fun r : JForm => r.s) _ (fun b_ a_ h_ => ?_) _ _ ?_ <;> try dsimp only at *)
    | (with_reducible refine foldl_memW (fun r : JWr => r.s) _ (fun b_ a_ h_ => ?_) _ _ ?_ <;> try dsimp only at *)
    | (with_reducible refine foldl_memW (fun r : Move => r.s) _ (fun b_ a_ h_ => ?_) _ _ ?_ <;> try dsimp only at *)
    | (with_reducible refine foldl_memW (fun r : NearRes => r.s) _ (fun b_ a_ h_ => ?_) _ _ ?_ <;> try dsimp only at *)
    | (with_reducible refine foldl_memW (fun r : Res => r.s) _ (fun b_ a_ h_ => ?_) _ _ ?_ <;> try dsimp only at *)
    | (with_reducible refine foldl_memW (fun r : WrRes => r.s) _ (fun b_ a_ h_ => ?_) _ _ ?_ <;> try dsimp only at *)
    | (with_reducible refine foldl_memW (fun r : State × _ => r.1) _ (fun b_ a_ h_ => ?_) _ _ ?_ <;> try dsimp only at *)
    | (simp (maxDischargeDepth := 12) [*]; done)
    | split
    | intro _
    | (simp_all [MemSt.wf_iff]; done)
    | simp (maxDischargeDepth := 12) [*]

@[simp] theorem State.tstartAll_mem (s : State) (n : Nat) (parts : List Nat) (v : Word) :
    (State.tstartAll s n parts v).mem = s.mem := by
  unfold State.tstartAll
  repeat' first
    | with_reducible rfl
    | (simp; done)
    | split
    | intro _
    | (with_reducible refine (foldl_mem _ ?_ _ _).trans ?_)
    | simp

@[simp] theorem State.wopExc_memWf (s : State) (n : Nat) (o : WOp) (cause addr : Nat)  (hw_ : s.mem.wf = true) :
    (State.wopExc s n o cause addr).mem.wf = true := by
  unfold State.wopExc
  repeat' first
    | with_reducible assumption
    | (with_reducible refine State.groupExc_memWf (hw_ := ?_) ..)
    | (simp (maxDischargeDepth := 12) [*]; done)
    | split
    | intro _
    | (simp_all [MemSt.wf_iff]; done)
    | simp (maxDischargeDepth := 12) [*]

@[simp] theorem State.wopStart_mem (s : State) (n : Nat) (op : GOp) (w : WF) (t : Thread) (parts : List Nat) (at_ : Nat × Nat) :
    (State.wopStart s n op w t parts at_).mem = s.mem := by
  unfold State.wopStart
  repeat' first
    | with_reducible rfl
    | (simp; done)
    | split
    | intro _
    | simp

@[simp] theorem State.issueMwld_memWf (s : State) (n : Nat) (w : WF) (parts : List Nat)  (hw_ : s.mem.wf = true) :
    (State.issueMwld s n w parts).mem.wf = true := by
  unfold State.issueMwld
  repeat' first
    | with_reducible assumption
    | (with_reducible refine State.groupExc_memWf (hw_ := ?_) ..)
    | (with_reducible refine State.retireAll_memWf (hw_ := ?_) ..)
    | (simp (maxDischargeDepth := 12) [*]; done)
    | split
    | intro _
    | (simp_all [MemSt.wf_iff]; done)
    | simp (maxDischargeDepth := 12) [*]

@[simp] theorem State.issueMstrm_memWf (s : State) (n : Nat) (w : WF) (t : Thread) (parts : List Nat)  (hw_ : s.mem.wf = true) :
    (State.issueMstrm s n w t parts).mem.wf = true := by
  unfold State.issueMstrm
  repeat' first
    | with_reducible assumption
    | (with_reducible refine State.groupExc_memWf (hw_ := ?_) ..)
    | (with_reducible refine State.retireAll_memWf (hw_ := ?_) ..)
    | (simp (maxDischargeDepth := 12) [*]; done)
    | split
    | intro _
    | (simp_all [MemSt.wf_iff]; done)
    | simp (maxDischargeDepth := 12) [*]

@[simp] theorem State.issueMfill_memWf (s : State) (n : Nat) (w : WF) (t : Thread) (parts : List Nat)  (hw_ : s.mem.wf = true) :
    (State.issueMfill s n w t parts).mem.wf = true := by
  unfold State.issueMfill
  repeat' first
    | with_reducible assumption
    | (with_reducible refine State.groupExc_memWf (hw_ := ?_) ..)
    | (with_reducible refine State.retireAll_memWf (hw_ := ?_) ..)
    | (simp (maxDischargeDepth := 12) [*]; done)
    | split
    | intro _
    | (simp_all [MemSt.wf_iff]; done)
    | simp (maxDischargeDepth := 12) [*]

@[simp] theorem State.issueHmv_memWf (s : State) (n : Nat) (w : WF) (t : Thread) (parts : List Nat)  (hw_ : s.mem.wf = true) :
    (State.issueHmv s n w t parts).mem.wf = true := by
  unfold State.issueHmv
  repeat' first
    | with_reducible assumption
    | (with_reducible refine State.groupExc_memWf (hw_ := ?_) ..)
    | (with_reducible refine State.retireAll_memWf (hw_ := ?_) ..)
    | (simp (maxDischargeDepth := 12) [*]; done)
    | split
    | intro _
    | (simp_all [MemSt.wf_iff]; done)
    | simp (maxDischargeDepth := 12) [*]

@[simp] theorem State.groupCheck_memWf (s : State) (n : Nat)  (hw_ : s.mem.wf = true) :
    (State.groupCheck s n).mem.wf = true := by
  unfold State.groupCheck
  repeat' first
    | with_reducible assumption
    | (with_reducible refine State.raiseGroup_memWf (hw_ := ?_) ..)
    | (with_reducible refine State.issueMwld_memWf (hw_ := ?_) ..)
    | (with_reducible refine State.issueMstrm_memWf (hw_ := ?_) ..)
    | (with_reducible refine State.issueMfill_memWf (hw_ := ?_) ..)
    | (with_reducible refine State.issueHmv_memWf (hw_ := ?_) ..)
    | (simp (maxDischargeDepth := 12) [*]; done)
    | split
    | intro _
    | (simp_all [MemSt.wf_iff]; done)
    | simp (maxDischargeDepth := 12) [*]

@[simp] theorem State.groupOp_memWf (s : State) (n k : Nat) (op : GOp) (w : WF)  (hw_ : s.mem.wf = true) :
    (State.groupOp s n k op w).mem.wf = true := by
  unfold State.groupOp
  repeat' first
    | with_reducible assumption
    | (with_reducible refine State.wide_memWf (hf := ?_) (hw_ := ?_) ..)
    | (with_reducible refine State.atStop_memWf (hw_ := ?_) ..)
    | (with_reducible refine State.groupCheck_memWf (hw_ := ?_) ..)
    | (simp (maxDischargeDepth := 12) [*]; done)
    | split
    | intro _
    | (simp_all [MemSt.wf_iff]; done)
    | simp (maxDischargeDepth := 12) [*]

@[simp] theorem State.retire_memWf (s : State) (n k : Nat)  (hw_ : s.mem.wf = true) :
    (State.retire s n k).mem.wf = true := by
  unfold State.retire
  repeat' first
    | with_reducible assumption
    | (with_reducible refine State.retirePair_memWf (hw_ := ?_) ..)
    | (with_reducible refine State.groupCheck_memWf (hw_ := ?_) ..)
    | (simp (maxDischargeDepth := 12) [*]; done)
    | split
    | intro _
    | (simp_all [MemSt.wf_iff]; done)
    | simp (maxDischargeDepth := 12) [*]

end Sys2Proof.Machine
end

