-- ==== Sys2Proof/Laws/MemoryWide.lean ====
section
/-!
SUPPORT. The operations of Wide.lean leave memory as it is, or keep its canonical form.
-/
namespace Sys2Proof.Machine

@[simp] theorem State.ldRow_mem (s : State) (n k t h : Nat) (a : Word) (gs : Word) (r : Nat) :
    (State.ldRow s n k t h a gs r).s.mem = s.mem := by
  unfold State.ldRow
  repeat' first
    | with_reducible rfl
    | (simp; done)
    | split
    | intro _
    | simp

@[simp] theorem State.stRow_memWf (s : State) (n k t h : Nat) (a : Word) (gs : Word) (r : Nat)  (hw_ : s.mem.wf = true) :
    (State.stRow s n k t h a gs r).s.mem.wf = true := by
  unfold State.stRow
  repeat' first
    | with_reducible assumption
    | (with_reducible refine State.stallWrite_memWf (hw_ := ?_) ..)
    | (simp (maxDischargeDepth := 12) [*]; done)
    | split
    | intro _
    | (simp_all [MemSt.wf_iff]; done)
    | simp (maxDischargeDepth := 12) [*]

@[simp] theorem State.ldStIter_memWf (s : State) (n k : Nat) (st : Bool) (w : WF) (g : LoopRegs) (i : Nat)  (hw_ : s.mem.wf = true) :
    (State.ldStIter s n k st w g i).s.mem.wf = true := by
  unfold State.ldStIter
  repeat' first
    | with_reducible assumption
    | (with_reducible refine seqRes_memWf (hw_ := ?_) ..)
    | (with_reducible refine State.stRow_memWf (hw_ := ?_) ..)
    | (simp (maxDischargeDepth := 12) [*]; done)
    | split
    | intro _
    | (simp_all [MemSt.wf_iff]; done)
    | simp (maxDischargeDepth := 12) [*]

@[simp] theorem State.ldSt_memWf (s : State) (n k : Nat) (st : Bool) (w : WF)  (hw_ : s.mem.wf = true) :
    (State.ldSt s n k st w).mem.wf = true := by
  unfold State.ldSt
  repeat' first
    | with_reducible assumption
    | (with_reducible refine State.wideUse_memWf (hf := ?_) (hw_ := ?_) ..)
    | (with_reducible refine State.wideExc_memWf (hw_ := ?_) ..)
    | (with_reducible refine seqRes_memWf (hw_ := ?_) ..)
    | (with_reducible refine State.retire_memWf (hw_ := ?_) ..)
    | (with_reducible refine State.ldStIter_memWf (hw_ := ?_) ..)
    | (simp (maxDischargeDepth := 12) [*]; done)
    | split
    | intro _
    | (simp_all [MemSt.wf_iff]; done)
    | simp (maxDischargeDepth := 12) [*]

@[simp] theorem State.porterFree_memWf (s : State) (n i : Nat)  (hw_ : s.mem.wf = true) :
    (State.porterFree s n i).mem.wf = true := by
  unfold State.porterFree
  repeat' first
    | with_reducible assumption
    | (with_reducible refine State.retire_memWf (hw_ := ?_) ..)
    | (with_reducible refine foldl_memWf _ ?_ _ _ ?_)
    | (with_reducible refine foldl_memW (fun r : Acs => r.s) _ (fun b_ a_ h_ => ?_) _ _ ?_ <;> try dsimp only at *)
    | (with_reducible refine foldl_memW (fun r : Got => r.s) _ (fun b_ a_ h_ => ?_) _ _ ?_ <;> try dsimp only at *)
    | (with_reducible refine foldl_memW (fun r : InjRead => r.s) _ (fun b_ a_ h_ => ?_) _ _ ?_ <;> try dsimp only at *)
    | (with_reducible refine foldl_memW (fun r : JForm => r.s) _ (fun b_ a_ h_ => ?_) _ _ ?_ <;> try dsimp only at *)
    | (with_reducible refine foldl_memW (fun r : JWr => r.s) _ (fun b_ a_ h_ => ?_) _ _ ?_ <;> try dsimp only at *)
    | (with_reducible refine foldl_memW (fun r : Move => r.s) _ (fun b_ a_ h_ => ?_) _ _ ?_ <;> try dsimp only at *)
    | (with_reducible refine foldl_memW (fun r : NearRes => r.s) _ (fun b_ a_ h_ => ?_) _ _ ?_ <;> try dsimp only at *)
    | (with_reducible refine foldl_memW (fun r : Res => r.s) _ (fun b_ a_ h_ => ?_) _ _ ?_ <;> try dsimp only at *)
    | (with_reducible refine foldl_memW (fun r : WrRes => r.s) _ (fun b_ a_ h_ => ?_) _ _ ?_ <;> try dsimp only at *)
    | (with_reducible refine foldl_memW (fun r : State × _ => r.1) _ (fun b_ a_ h_ => ?_) _ _ ?_ <;> try dsimp only at *)
    | (simp (maxDischargeDepth := 12) [*]; done)
    | split
    | intro _
    | (simp_all [MemSt.wf_iff]; done)
    | simp (maxDischargeDepth := 12) [*]

@[simp] theorem State.porterEnd_memWf (s : State) (n i : Nat)  (hw_ : s.mem.wf = true) :
    (State.porterEnd s n i).mem.wf = true := by
  unfold State.porterEnd
  repeat' first
    | with_reducible assumption
    | (with_reducible refine State.porterRun_memWf (hw_ := ?_) ..)
    | (with_reducible refine State.porterFree_memWf (hw_ := ?_) ..)
    | (simp (maxDischargeDepth := 12) [*]; done)
    | split
    | intro _
    | (simp_all [MemSt.wf_iff]; done)
    | simp (maxDischargeDepth := 12) [*]

end Sys2Proof.Machine
end

