-- ==== Sys2Proof/Laws/MemoryObserve.lean ====
section
/-!
SUPPORT. The operations of Observe.lean leave memory as it is, or keep its canonical form.
-/
namespace Sys2Proof.Machine

@[simp] theorem State.updMonitor_mem (s : State) (m : Nat) (f : Monitor → Monitor) :
    (State.updMonitor s m f).mem = s.mem := by
  unfold State.updMonitor
  repeat' first
    | with_reducible rfl
    | (simp; done)
    | split
    | intro _
    | simp

@[simp] theorem State.monCommit_mem (s : State) (m : Nat) :
    (State.monCommit s m).mem = s.mem := by
  unfold State.monCommit
  repeat' first
    | with_reducible rfl
    | (simp; done)
    | split
    | intro _
    | simp

@[simp] theorem State.sinkWrite_memWf (s : State) (n off : Nat) (b : List Byte)  (hw_ : s.mem.wf = true) :
    (State.sinkWrite s n off b).mem.wf = true := by
  unfold State.sinkWrite
  repeat' first
    | with_reducible assumption
    | (with_reducible refine State.wrShelf_memWf (hw_ := ?_) ..)
    | (with_reducible refine State.wrHost_memWf (hw_ := ?_) ..)
    | (simp (maxDischargeDepth := 12) [*]; done)
    | split
    | intro _
    | (simp_all [MemSt.wf_iff]; done)
    | simp (maxDischargeDepth := 12) [*]

@[simp] theorem State.sinkMove_memWf (s : State) (n : Nat)  (hw_ : s.mem.wf = true) :
    (State.sinkMove s n).mem.wf = true := by
  unfold State.sinkMove
  repeat' first
    | with_reducible assumption
    | (with_reducible refine State.sinkWrite_memWf (hw_ := ?_) ..)
    | (simp (maxDischargeDepth := 12) [*]; done)
    | split
    | intro _
    | (simp_all [MemSt.wf_iff]; done)
    | simp (maxDischargeDepth := 12) [*]

@[simp] theorem State.selStart_mem (s : State) (n : Nat) :
    (State.selStart s n).mem = s.mem := by
  unfold State.selStart
  repeat' first
    | with_reducible rfl
    | (simp; done)
    | split
    | intro _
    | (with_reducible refine (foldl_mem _ ?_ _ _).trans ?_)
    | simp

@[simp] theorem State.selArmed_mem (s : State) (n : Nat) :
    (State.selArmed s n).mem = s.mem := by
  unfold State.selArmed
  repeat' first
    | with_reducible rfl
    | (simp; done)
    | split
    | intro _
    | simp

@[simp] theorem State.selDone_memWf (s : State) (n : Nat)  (hw_ : s.mem.wf = true) :
    (State.selDone s n).mem.wf = true := by
  unfold State.selDone
  repeat' first
    | with_reducible assumption
    | (with_reducible refine State.sinkMove_memWf (hw_ := ?_) ..)
    | (with_reducible refine foldl_memWf _ ?_ _ _ ?_)
    | (with_reducible refine foldl_memW (fun r : Acs => r.s) _ (fun b_ a_ h_ => ?_) _ _ ?_ <;> try dsimp only at *)
    | (with_reducible refine foldl_memW (fun r : Got => r.s) _ (fun b_ a_ h_ => ?_) _ _ ?_ <;> try dsimp only at *)
    | (with_reducible refine foldl_memW (fun r : InjRead => r.s) _ (fun b_ a_ h_ => ?_) _ _ ?_ <;> try dsimp only at *)
    | (with_reducible refine foldl_memW (fun r : JForm => r.s) _ (fun b_ a_ h_ => ?_) _ _ ?_ <;> try dsimp only at *)
    | (with_reducible refine foldl_memW (fun r : JWr => r.s) _ (fun b_ a_ h_ => ?_) _ _ ?_ <;> try dsimp only at *)
    | (with_reducible refine foldl_memW (fun r : Move => r.s) _ (fun b_ a_ h_ => ?_) _ _ ?_ <;> try dsimp only at *)
    | (with_reducible refine foldl_memW (fun r : NearRes => r.s) _ (fun b_ a_ h_ => ?_) _ _ ?_ <;> try dsimp only at *)
    | (with_reducible refine foldl_memW (fun r : Res => r.s) _ (fun b_ a_ h_ => ?_) _ _ ?_ <;> try dsimp only at *)
    | (with_reducible refine foldl_memW (fun r : WrRes => r.s) _ (fun b_ a_ h_ => ?_) _ _ ?_ <;> try dsimp only at *)
    | (with_reducible refine foldl_memW (fun r : State × _ => r.1) _ (fun b_ a_ h_ => ?_) _ _ ?_ <;> try dsimp only at *)
    | (simp (maxDischargeDepth := 12) [*]; done)
    | split
    | intro _
    | (simp_all [MemSt.wf_iff]; done)
    | simp (maxDischargeDepth := 12) [*]

@[simp] theorem State.selFlush_memWf (s : State) (n : Nat)  (hw_ : s.mem.wf = true) :
    (State.selFlush s n).mem.wf = true := by
  unfold State.selFlush
  repeat' first
    | with_reducible assumption
    | (with_reducible refine State.sinkMove_memWf (hw_ := ?_) ..)
    | (with_reducible refine State.selDone_memWf (hw_ := ?_) ..)
    | (simp (maxDischargeDepth := 12) [*]; done)
    | split
    | intro _
    | (simp_all [MemSt.wf_iff]; done)
    | simp (maxDischargeDepth := 12) [*]

@[simp] theorem State.selArm_mem (s : State) (n : Nat) :
    (State.selArm s n).mem = s.mem := by
  unfold State.selArm
  repeat' first
    | with_reducible rfl
    | (simp; done)
    | split
    | intro _
    | simp

@[simp] theorem State.selCtl_mem (s : State) (q : Req) (n : Nat) (v : W32) (f : State → State) (hf : ∀ x0, (f x0).mem = x0.mem) :
    (State.selCtl s q n v f).mem = s.mem := by
  unfold State.selCtl
  repeat' first
    | with_reducible rfl
    | exact hf ..
    | (simp; done)
    | split
    | intro _
    | (with_reducible refine (State.stallTry_mem (hf := ?_) ..).trans ?_)
    | simp

@[simp] theorem State.selCtl_memWf (s : State) (q : Req) (n : Nat) (v : W32) (f : State → State) (hf : ∀ x0, x0.mem.wf = true → (f x0).mem.wf = true) (hw_ : s.mem.wf = true) :
    (State.selCtl s q n v f).mem.wf = true := by
  unfold State.selCtl
  repeat' first
    | with_reducible assumption
    | (with_reducible refine State.stallTry_memWf (hf := ?_) (hw_ := ?_) ..)
    | (with_reducible refine hf _ ?_)
    | (with_reducible refine hf _ _ ?_)
    | (with_reducible refine hf _ _ _ ?_)
    | (simp (maxDischargeDepth := 12) [*]; done)
    | split
    | intro _
    | (simp_all [MemSt.wf_iff]; done)
    | simp (maxDischargeDepth := 12) [*]

@[simp] theorem State.selStop_memWf (s : State) (n : Nat)  (hw_ : s.mem.wf = true) :
    (State.selStop s n).mem.wf = true := by
  unfold State.selStop
  repeat' first
    | with_reducible assumption
    | (with_reducible refine State.selDone_memWf (hw_ := ?_) ..)
    | (simp (maxDischargeDepth := 12) [*]; done)
    | split
    | intro _
    | (simp_all [MemSt.wf_iff]; done)
    | simp (maxDischargeDepth := 12) [*]

@[simp] theorem State.selDisarm_mem (s : State) (n : Nat) :
    (State.selDisarm s n).mem = s.mem := by
  unfold State.selDisarm
  repeat' first
    | with_reducible rfl
    | (simp; done)
    | split
    | intro _
    | simp

@[simp] theorem State.selRptr_memWf (s : State) (n : Nat) (v : Word)  (hw_ : s.mem.wf = true) :
    (State.selRptr s n v).mem.wf = true := by
  unfold State.selRptr
  repeat' first
    | with_reducible assumption
    | (with_reducible refine State.selFlush_memWf (hw_ := ?_) ..)
    | (simp (maxDischargeDepth := 12) [*]; done)
    | split
    | intro _
    | (simp_all [MemSt.wf_iff]; done)
    | simp (maxDischargeDepth := 12) [*]

@[simp] theorem State.jctl_mem (s : State) (q : Req) (v : W32) :
    (State.jctl s q v).mem = s.mem := by
  unfold State.jctl
  repeat' first
    | with_reducible rfl
    | (simp; done)
    | split
    | intro _
    | simp

@[simp] theorem State.jostleClear_mem (s : State) :
    (State.jostleClear s).mem = s.mem := by
  unfold State.jostleClear
  repeat' first
    | with_reducible rfl
    | (simp; done)
    | split
    | intro _
    | simp

end Sys2Proof.Machine
end

