-- ==== Sys2Proof/Laws/MemoryVector.lean ====
section
/-!
SUPPORT. The operations of Vector.lean leave memory as it is, or keep its canonical form.
-/
namespace Sys2Proof.Machine

@[simp] theorem State.vecRow_mem (s : State) (n : Nat) (srcs : List Nat) (td : Nat) (g : Nat → List Row → Row) (r : Nat) :
    (State.vecRow s n srcs td g r).s.mem = s.mem := by
  unfold State.vecRow
  repeat' first
    | with_reducible rfl
    | (simp; done)
    | split
    | intro _
    | simp

@[simp] theorem State.vecRun_memWf (s : State) (n k : Nat) (srcs : List Nat) (td : Nat) (g : Nat → List Row → Row)  (hw_ : s.mem.wf = true) :
    (State.vecRun s n k srcs td g).mem.wf = true := by
  unfold State.vecRun
  repeat' first
    | with_reducible assumption
    | (with_reducible refine State.wideExc_memWf (hw_ := ?_) ..)
    | (with_reducible refine seqRes_memWf (hw_ := ?_) ..)
    | (with_reducible refine State.retire_memWf (hw_ := ?_) ..)
    | (simp (maxDischargeDepth := 12) [*]; done)
    | split
    | intro _
    | (simp_all [MemSt.wf_iff]; done)
    | simp (maxDischargeDepth := 12) [*]

@[simp] theorem State.vop_memWf (s : State) (n k : Nat) (w : WF)  (hw_ : s.mem.wf = true) :
    (State.vop s n k w).mem.wf = true := by
  unfold State.vop
  repeat' first
    | with_reducible assumption
    | (with_reducible refine State.wideUse_memWf (hf := ?_) (hw_ := ?_) ..)
    | (with_reducible refine State.wideExc_memWf (hw_ := ?_) ..)
    | (with_reducible refine State.vecRun_memWf (hw_ := ?_) ..)
    | (simp (maxDischargeDepth := 12) [*]; done)
    | split
    | intro _
    | (simp_all [MemSt.wf_iff]; done)
    | simp (maxDischargeDepth := 12) [*]

@[simp] theorem State.vfma_memWf (s : State) (n k : Nat) (w : WF)  (hw_ : s.mem.wf = true) :
    (State.vfma s n k w).mem.wf = true := by
  unfold State.vfma
  repeat' first
    | with_reducible assumption
    | (with_reducible refine State.wideUse_memWf (hf := ?_) (hw_ := ?_) ..)
    | (with_reducible refine State.wideExc_memWf (hw_ := ?_) ..)
    | (with_reducible refine State.vecRun_memWf (hw_ := ?_) ..)
    | (simp (maxDischargeDepth := 12) [*]; done)
    | split
    | intro _
    | (simp_all [MemSt.wf_iff]; done)
    | simp (maxDischargeDepth := 12) [*]

@[simp] theorem State.vcvt_memWf (s : State) (n k : Nat) (w : WF)  (hw_ : s.mem.wf = true) :
    (State.vcvt s n k w).mem.wf = true := by
  unfold State.vcvt
  repeat' first
    | with_reducible assumption
    | (with_reducible refine State.wideUse_memWf (hf := ?_) (hw_ := ?_) ..)
    | (with_reducible refine State.wideExc_memWf (hw_ := ?_) ..)
    | (with_reducible refine State.vecRun_memWf (hw_ := ?_) ..)
    | (simp (maxDischargeDepth := 12) [*]; done)
    | split
    | intro _
    | (simp_all [MemSt.wf_iff]; done)
    | simp (maxDischargeDepth := 12) [*]

@[simp] theorem State.vfun_memWf (s : State) (n k : Nat) (w rest : WF) (bad : Bool) (f : Fmt → Nat → Nat → Nat)  (hw_ : s.mem.wf = true) :
    (State.vfun s n k w rest bad f).mem.wf = true := by
  unfold State.vfun
  repeat' first
    | with_reducible assumption
    | (with_reducible refine State.wideUse_memWf (hf := ?_) (hw_ := ?_) ..)
    | (with_reducible refine State.wideExc_memWf (hw_ := ?_) ..)
    | (with_reducible refine State.vecRun_memWf (hw_ := ?_) ..)
    | (simp (maxDischargeDepth := 12) [*]; done)
    | split
    | intro _
    | (simp_all [MemSt.wf_iff]; done)
    | simp (maxDischargeDepth := 12) [*]

@[simp] theorem State.vred_memWf (s : State) (n k : Nat) (w : WF)  (hw_ : s.mem.wf = true) :
    (State.vred s n k w).mem.wf = true := by
  unfold State.vred
  repeat' first
    | with_reducible assumption
    | (with_reducible refine State.wideUse_memWf (hf := ?_) (hw_ := ?_) ..)
    | (with_reducible refine State.wideExc_memWf (hw_ := ?_) ..)
    | (with_reducible refine State.vecRun_memWf (hw_ := ?_) ..)
    | (simp (maxDischargeDepth := 12) [*]; done)
    | split
    | intro _
    | (simp_all [MemSt.wf_iff]; done)
    | simp (maxDischargeDepth := 12) [*]

@[simp] theorem State.vscl_memWf (s : State) (n k : Nat) (w : WF)  (hw_ : s.mem.wf = true) :
    (State.vscl s n k w).mem.wf = true := by
  unfold State.vscl
  repeat' first
    | with_reducible assumption
    | (with_reducible refine State.wideUse_memWf (hf := ?_) (hw_ := ?_) ..)
    | (with_reducible refine State.wideExc_memWf (hw_ := ?_) ..)
    | (with_reducible refine State.vecRun_memWf (hw_ := ?_) ..)
    | (simp (maxDischargeDepth := 12) [*]; done)
    | split
    | intro _
    | (simp_all [MemSt.wf_iff]; done)
    | simp (maxDischargeDepth := 12) [*]

@[simp] theorem State.vcmp_memWf (s : State) (n k : Nat) (w : WF)  (hw_ : s.mem.wf = true) :
    (State.vcmp s n k w).mem.wf = true := by
  unfold State.vcmp
  repeat' first
    | with_reducible assumption
    | (with_reducible refine State.wideUse_memWf (hf := ?_) (hw_ := ?_) ..)
    | (with_reducible refine State.wideExc_memWf (hw_ := ?_) ..)
    | (with_reducible refine State.vecRun_memWf (hw_ := ?_) ..)
    | (simp (maxDischargeDepth := 12) [*]; done)
    | split
    | intro _
    | (simp_all [MemSt.wf_iff]; done)
    | simp (maxDischargeDepth := 12) [*]

end Sys2Proof.Machine
end

