-- ==== Sys2Proof/Laws/MemoryJisan.lean ====
section
/-!
SUPPORT. The operations of Jisan.lean leave memory as it is, or keep its canonical form.
-/
namespace Sys2Proof.Machine

@[simp] theorem State.queueReq_mem (s : State) (i : Item) (l : List Buf) (par : List Byte) :
    (State.queueReq s i l par).mem = s.mem := by
  unfold State.queueReq
  repeat' first
    | with_reducible rfl
    | (simp; done)
    | split
    | intro _
    | (with_reducible refine (State.checked_mem (hf := ?_) ..).trans ?_)
    | simp

@[simp] theorem State.passReq_memWf (s : State) (i : Item) (l : List Buf) (par : List Byte)  (hw_ : s.mem.wf = true) :
    (State.passReq s i l par).mem.wf = true := by
  unfold State.passReq
  repeat' first
    | with_reducible assumption
    | (with_reducible refine State.checked_memWf (hf := ?_) (hw_ := ?_) ..)
    | (with_reducible refine State.finish_memWf (hw_ := ?_) ..)
    | (simp (maxDischargeDepth := 12) [*]; done)
    | split
    | intro _
    | (simp_all [MemSt.wf_iff]; done)
    | simp (maxDischargeDepth := 12) [*]

@[simp] theorem State.endWaiting_memWf (s : State) (i : Item) (st : Nat)  (hw_ : s.mem.wf = true) :
    (State.endWaiting s i st).mem.wf = true := by
  unfold State.endWaiting
  repeat' first
    | with_reducible assumption
    | (with_reducible refine State.reject_memWf (hw_ := ?_) ..)
    | (simp (maxDischargeDepth := 12) [*]; done)
    | split
    | intro _
    | (simp_all [MemSt.wf_iff]; done)
    | simp (maxDischargeDepth := 12) [*]

@[simp] theorem State.admitRequest_memWf (s : State) (p : Nat) (q : JReq) (i : Item) (hostFail : Option Nat)  (hw_ : s.mem.wf = true) :
    (State.admitRequest s p q i hostFail).mem.wf = true := by
  unfold State.admitRequest
  extract_lets j x cont h have_ need
  split
  · exact State.endWaiting_memWf (hw_ := hw_) ..
  split
  · exact State.endWaiting_memWf (hw_ := hw_) ..
  split
  · exact hw_
  split
  · exact State.sessRoom_memWf (hw_ := hw_) ..
  extract_lets t s1 s2 inp q' s3 s4 s5 s6
  have h1 : t.1.mem.wf = true := by unfold t; simp [hw_]
  have h2 : s1.mem.wf = true := by
    unfold s1
    split
    · exact State.blocksIn_memWf (hw_ := h1) ..
    · exact h1
  have h3 : s2.mem.wf = true := by
    unfold s2
    split
    · rw [State.updJis_mem]; exact h2
    · exact h2
  have h4 : s3.mem.wf = true := by
    unfold s3
    split
    · exact h3
    · exact h3
  have h6 : s6.mem.wf = true := by
    unfold s6 s5 s4
    rw [State.spaceTouch_mem, State.toStage_mem, State.toStage_mem, State.startItem_mem, State.updJis_mem]; exact h4
  clear_value s6
  split
  · exact State.inputFails_memWf (hw_ := h6) ..
  · exact h6

@[simp] theorem State.admission_memWf (s : State) (p : Nat) (hostFail : Option Nat)  (hw_ : s.mem.wf = true) :
    (State.admission s p hostFail).mem.wf = true := by
  unfold State.admission
  repeat' first
    | with_reducible assumption
    | (with_reducible refine State.admitRequest_memWf (hw_ := ?_) ..)
    | (simp (maxDischargeDepth := 12) [*]; done)
    | split
    | intro _
    | (simp_all [MemSt.wf_iff]; done)
    | simp (maxDischargeDepth := 12) [*]

@[simp] theorem JForm.place_memWf (f : JForm) (p k chunk : Nat) (q0 : JReq)  (hw_ : f.s.mem.wf = true) :
    (JForm.place f p k chunk q0).s.mem.wf = true := by
  unfold JForm.place
  repeat' first
    | with_reducible assumption
    | (with_reducible refine State.kvRoom_memWf (hw_ := ?_) ..)
    | (simp (maxDischargeDepth := 12) [*]; done)
    | split
    | intro _
    | (simp_all [MemSt.wf_iff]; done)
    | simp (maxDischargeDepth := 12) [*]

@[simp] theorem State.stepStart_memWf (s : State) (p k : Nat)  (hw_ : s.mem.wf = true) :
    (State.stepStart s p k).mem.wf = true := by
  unfold State.stepStart
  repeat' first
    | with_reducible assumption
    | (with_reducible refine JWr.slice_memWf (hw_ := ?_) ..)
    | (with_reducible refine JForm.place_memWf (hw_ := ?_) ..)
    | (with_reducible refine foldl_memWf _ ?_ _ _ ?_)
    | (with_reducible refine foldl_memW (fun r : Acs => r.s) _ (fun b_ a_ h_ => ?_) _ _ ?_ <;> try dsimp only at *)
    | (with_reducible refine foldl_memW (fun r : Got => r.s) _ (fun b_ a_ h_ => ?_) _ _ ?_ <;> try dsimp only at *)
    | (with_reducible refine foldl_memW (fun r : InjRead => r.s) _ (fun b_ a_ h_ => ?_) _ _ ?_ <;> try dsimp only at *)
    | (with_reducible refine foldl_memW (fun r : JForm => r.s) _ (fun b_ a_ h_ => ?_) _ _ ?_ <;> try dsimp only at *)
    | (with_reducible refine foldl_memW (fun r : JWr => r.s) _ (fun b_ a_ h_ => ?_) _ _ ?_ <;> try dsimp only at *)
    | (with_reducible refine foldl_memW (fun r : Move => r.s) _ (fun b_ a_ h_ => ?_) _ _ ?_ <;> try dsimp only at *)
    | (with_reducible refine foldl_memW (fun r : NearRes => r.s) _ (fun b_ a_ h_ => ?_) _ _ ?_ <;> try dsimp only at *)
    | (with_reducible refine foldl_memW (fun r : Res => r.s) _ (fun b_ a_ h_ => ?_) _ _ ?_ <;> try dsimp only at *)
    | (with_reducible refine foldl_memW (fun r : WrRes => r.s) _ (fun b_ a_ h_ => ?_) _ _ ?_ <;> try dsimp only at *)
    | (with_reducible refine foldl_memW (fun r : State × _ => r.1) _ (fun b_ a_ h_ => ?_) _ _ ?_ <;> try dsimp only at *)
    | (simp (maxDischargeDepth := 12) [*]; done)
    | split
    | intro _
    | (simp_all [MemSt.wf_iff]; done)
    | simp (maxDischargeDepth := 12) [*]

@[simp] theorem State.stepRetire_memWf (s : State) (x : JSlot)  (hw_ : s.mem.wf = true) :
    (State.stepRetire s x).mem.wf = true := by
  unfold State.stepRetire
  repeat' first
    | with_reducible assumption
    | (with_reducible refine State.retireStall_memWf (hw_ := ?_) ..)
    | (with_reducible refine State.retire_memWf (hw_ := ?_) ..)
    | (with_reducible refine foldl_memWf _ ?_ _ _ ?_)
    | (with_reducible refine foldl_memW (fun r : Acs => r.s) _ (fun b_ a_ h_ => ?_) _ _ ?_ <;> try dsimp only at *)
    | (with_reducible refine foldl_memW (fun r : Got => r.s) _ (fun b_ a_ h_ => ?_) _ _ ?_ <;> try dsimp only at *)
    | (with_reducible refine foldl_memW (fun r : InjRead => r.s) _ (fun b_ a_ h_ => ?_) _ _ ?_ <;> try dsimp only at *)
    | (with_reducible refine foldl_memW (fun r : JForm => r.s) _ (fun b_ a_ h_ => ?_) _ _ ?_ <;> try dsimp only at *)
    | (with_reducible refine foldl_memW (fun r : JWr => r.s) _ (fun b_ a_ h_ => ?_) _ _ ?_ <;> try dsimp only at *)
    | (with_reducible refine foldl_memW (fun r : Move => r.s) _ (fun b_ a_ h_ => ?_) _ _ ?_ <;> try dsimp only at *)
    | (with_reducible refine foldl_memW (fun r : NearRes => r.s) _ (fun b_ a_ h_ => ?_) _ _ ?_ <;> try dsimp only at *)
    | (with_reducible refine foldl_memW (fun r : Res => r.s) _ (fun b_ a_ h_ => ?_) _ _ ?_ <;> try dsimp only at *)
    | (with_reducible refine foldl_memW (fun r : WrRes => r.s) _ (fun b_ a_ h_ => ?_) _ _ ?_ <;> try dsimp only at *)
    | (with_reducible refine foldl_memW (fun r : State × _ => r.1) _ (fun b_ a_ h_ => ?_) _ _ ?_ <;> try dsimp only at *)
    | (simp (maxDischargeDepth := 12) [*]; done)
    | split
    | intro _
    | (simp_all [MemSt.wf_iff]; done)
    | simp (maxDischargeDepth := 12) [*]

@[simp] theorem State.stepLeaves_mem (s : State) (p : Nat) :
    (State.stepLeaves s p).mem = s.mem := by
  unfold State.stepLeaves
  repeat' first
    | with_reducible rfl
    | (simp; done)
    | split
    | intro _
    | (with_reducible refine (foldl_mem _ ?_ _ _).trans ?_)
    | simp

@[simp] theorem State.stepReqsEnd_memWf (s : State) (p : Nat) (l : List JPart) (st : Nat)  (hw_ : s.mem.wf = true) :
    (State.stepReqsEnd s p l st).mem.wf = true := by
  unfold State.stepReqsEnd
  repeat' first
    | with_reducible assumption
    | (with_reducible refine State.endItem_memWf (hw_ := ?_) ..)
    | (with_reducible refine foldl_memWf _ ?_ _ _ ?_)
    | (with_reducible refine foldl_memW (fun r : Acs => r.s) _ (fun b_ a_ h_ => ?_) _ _ ?_ <;> try dsimp only at *)
    | (with_reducible refine foldl_memW (fun r : Got => r.s) _ (fun b_ a_ h_ => ?_) _ _ ?_ <;> try dsimp only at *)
    | (with_reducible refine foldl_memW (fun r : InjRead => r.s) _ (fun b_ a_ h_ => ?_) _ _ ?_ <;> try dsimp only at *)
    | (with_reducible refine foldl_memW (fun r : JForm => r.s) _ (fun b_ a_ h_ => ?_) _ _ ?_ <;> try dsimp only at *)
    | (with_reducible refine foldl_memW (fun r : JWr => r.s) _ (fun b_ a_ h_ => ?_) _ _ ?_ <;> try dsimp only at *)
    | (with_reducible refine foldl_memW (fun r : Move => r.s) _ (fun b_ a_ h_ => ?_) _ _ ?_ <;> try dsimp only at *)
    | (with_reducible refine foldl_memW (fun r : NearRes => r.s) _ (fun b_ a_ h_ => ?_) _ _ ?_ <;> try dsimp only at *)
    | (with_reducible refine foldl_memW (fun r : Res => r.s) _ (fun b_ a_ h_ => ?_) _ _ ?_ <;> try dsimp only at *)
    | (with_reducible refine foldl_memW (fun r : WrRes => r.s) _ (fun b_ a_ h_ => ?_) _ _ ?_ <;> try dsimp only at *)
    | (with_reducible refine foldl_memW (fun r : State × _ => r.1) _ (fun b_ a_ h_ => ?_) _ _ ?_ <;> try dsimp only at *)
    | (simp (maxDischargeDepth := 12) [*]; done)
    | split
    | intro _
    | (simp_all [MemSt.wf_iff]; done)
    | simp (maxDischargeDepth := 12) [*]

@[simp] theorem State.stepFails_memWf (s : State) (p : Nat) (r : JRun) (cause stall : Nat) (limit : Bool) (st : Nat)  (hw_ : s.mem.wf = true) :
    (State.stepFails s p r cause stall limit st).mem.wf = true := by
  unfold State.stepFails
  repeat' first
    | with_reducible assumption
    | (with_reducible refine State.haltWork_memWf (hw_ := ?_) ..)
    | (with_reducible refine State.stepRetire_memWf (hw_ := ?_) ..)
    | (with_reducible refine State.stepReqsEnd_memWf (hw_ := ?_) ..)
    | (simp (maxDischargeDepth := 12) [*]; done)
    | split
    | intro _
    | (simp_all [MemSt.wf_iff]; done)
    | simp (maxDischargeDepth := 12) [*]

@[simp] theorem State.countToken_mem (s : State) (p : Nat) :
    (State.countToken s p).mem = s.mem := by
  unfold State.countToken
  repeat' first
    | with_reducible rfl
    | (simp; done)
    | split
    | intro _
    | simp

@[simp] theorem State.jisanDone_memWf (s : State) (p : Nat) (q : JReq) (reason : Nat)  (hw_ : s.mem.wf = true) :
    (State.jisanDone s p q reason).mem.wf = true := by
  unfold State.jisanDone
  repeat' first
    | with_reducible assumption
    | (with_reducible refine State.finish_memWf (hw_ := ?_) ..)
    | (with_reducible refine State.progress_memWf (hw_ := ?_) ..)
    | (simp (maxDischargeDepth := 12) [*]; done)
    | split
    | intro _
    | (simp_all [MemSt.wf_iff]; done)
    | simp (maxDischargeDepth := 12) [*]

@[simp] theorem State.tokenWrite_memWf (s : State) (p : Nat) (q : JReq) (n tok : Nat)  (hw_ : s.mem.wf = true) :
    (State.tokenWrite s p q n tok).s.mem.wf = true := by
  unfold State.tokenWrite
  repeat' first
    | with_reducible assumption
    | (with_reducible refine State.granWrite_memWf (hw_ := ?_) ..)
    | (simp (maxDischargeDepth := 12) [*]; done)
    | split
    | intro _
    | (simp_all [MemSt.wf_iff]; done)
    | simp (maxDischargeDepth := 12) [*]

@[simp] theorem State.tokenOut_memWf (s : State) (p : Nat) (q : JReq) (x : JSlot) (tok : Nat)  (hw_ : s.mem.wf = true) :
    (State.tokenOut s p q x tok).mem.wf = true := by
  unfold State.tokenOut
  repeat' first
    | with_reducible assumption
    | (with_reducible refine State.progress_memWf (hw_ := ?_) ..)
    | (with_reducible refine State.endItem_memWf (hw_ := ?_) ..)
    | (with_reducible refine State.jisanDone_memWf (hw_ := ?_) ..)
    | (with_reducible refine State.tokenWrite_memWf (hw_ := ?_) ..)
    | (simp (maxDischargeDepth := 12) [*]; done)
    | split
    | intro _
    | (simp_all [MemSt.wf_iff]; done)
    | simp (maxDischargeDepth := 12) [*]

@[simp] theorem State.partEnd_memWf (s : State) (p : Nat) (x : JSlot) (idx : Nat) (y : JPart)  (hw_ : s.mem.wf = true) :
    (State.partEnd s p x idx y).mem.wf = true := by
  unfold State.partEnd
  repeat' first
    | with_reducible assumption
    | (with_reducible refine State.endItem_memWf (hw_ := ?_) ..)
    | (with_reducible refine JWr.slice_memWf (hw_ := ?_) ..)
    | (with_reducible refine State.tokenOut_memWf (hw_ := ?_) ..)
    | (simp (maxDischargeDepth := 12) [*]; done)
    | split
    | intro _
    | (simp_all [MemSt.wf_iff]; done)
    | simp (maxDischargeDepth := 12) [*]

@[simp] theorem State.stepEnds_memWf (s : State) (p ce : Nat) (bad : Bool)  (hw_ : s.mem.wf = true) :
    (State.stepEnds s p ce bad).mem.wf = true := by
  unfold State.stepEnds
  repeat' first
    | with_reducible assumption
    | (with_reducible refine State.stepRetire_memWf (hw_ := ?_) ..)
    | (with_reducible refine State.stepReqsEnd_memWf (hw_ := ?_) ..)
    | (with_reducible refine State.stepFails_memWf (hw_ := ?_) ..)
    | (with_reducible refine State.partEnd_memWf (hw_ := ?_) ..)
    | (with_reducible refine foldl_memWf _ ?_ _ _ ?_)
    | (with_reducible refine foldl_memW (fun r : Acs => r.s) _ (fun b_ a_ h_ => ?_) _ _ ?_ <;> try dsimp only at *)
    | (with_reducible refine foldl_memW (fun r : Got => r.s) _ (fun b_ a_ h_ => ?_) _ _ ?_ <;> try dsimp only at *)
    | (with_reducible refine foldl_memW (fun r : InjRead => r.s) _ (fun b_ a_ h_ => ?_) _ _ ?_ <;> try dsimp only at *)
    | (with_reducible refine foldl_memW (fun r : JForm => r.s) _ (fun b_ a_ h_ => ?_) _ _ ?_ <;> try dsimp only at *)
    | (with_reducible refine foldl_memW (fun r : JWr => r.s) _ (fun b_ a_ h_ => ?_) _ _ ?_ <;> try dsimp only at *)
    | (with_reducible refine foldl_memW (fun r : Move => r.s) _ (fun b_ a_ h_ => ?_) _ _ ?_ <;> try dsimp only at *)
    | (with_reducible refine foldl_memW (fun r : NearRes => r.s) _ (fun b_ a_ h_ => ?_) _ _ ?_ <;> try dsimp only at *)
    | (with_reducible refine foldl_memW (fun r : Res => r.s) _ (fun b_ a_ h_ => ?_) _ _ ?_ <;> try dsimp only at *)
    | (with_reducible refine foldl_memW (fun r : WrRes => r.s) _ (fun b_ a_ h_ => ?_) _ _ ?_ <;> try dsimp only at *)
    | (with_reducible refine foldl_memW (fun r : State × _ => r.1) _ (fun b_ a_ h_ => ?_) _ _ ?_ <;> try dsimp only at *)
    | (simp (maxDischargeDepth := 12) [*]; done)
    | split
    | intro _
    | (simp_all [MemSt.wf_iff]; done)
    | simp (maxDischargeDepth := 12) [*]

@[simp] theorem State.policyStep_mem (s : State) (n f : Nat) :
    (State.policyStep s n f).mem = s.mem := by
  unfold State.policyStep
  repeat' first
    | with_reducible rfl
    | (simp; done)
    | split
    | intro _
    | simp

@[simp] theorem State.policyMult_mem (s : State) (h : Nat) (v : W32) :
    (State.policyMult s h v).mem = s.mem := by
  unfold State.policyMult
  repeat' first
    | with_reducible rfl
    | (simp; done)
    | split
    | intro _
    | simp

@[simp] theorem State.policyBatch_mem (s : State) (p n : Nat) :
    (State.policyBatch s p n).mem = s.mem := by
  unfold State.policyBatch
  repeat' first
    | with_reducible rfl
    | (simp; done)
    | split
    | intro _
    | simp

@[simp] theorem State.policyPark_memWf (s : State) (p : Nat)  (hw_ : s.mem.wf = true) :
    (State.policyPark s p).mem.wf = true := by
  unfold State.policyPark
  repeat' first
    | with_reducible assumption
    | (with_reducible refine JWr.far_memWf (hw_ := ?_) ..)
    | (with_reducible refine State.parkReq_memWf (hw_ := ?_) ..)
    | (with_reducible refine State.parkSess_memWf (hw_ := ?_) ..)
    | (simp (maxDischargeDepth := 12) [*]; done)
    | split
    | intro _
    | (simp_all [MemSt.wf_iff]; done)
    | simp (maxDischargeDepth := 12) [*]

end Sys2Proof.Machine
end

