-- ==== Sys2Proof/Laws/MemoryCaravan.lean ====
section
/-!
SUPPORT. The operations of Caravan.lean leave memory as it is, or keep its canonical form.
-/
namespace Sys2Proof.Machine

@[simp] theorem State.cvWrite_memWf (s : State) (p a : Nat) (b : List Byte)  (hw_ : s.mem.wf = true) :
    (State.cvWrite s p a b).s.mem.wf = true := by
  unfold State.cvWrite
  repeat' first
    | with_reducible assumption
    | (with_reducible refine JWr.slice_memWf (hw_ := ?_) ..)
    | (with_reducible refine JWr.far_memWf (hw_ := ?_) ..)
    | (with_reducible refine foldl_memWf _ ?_ _ _ ?_)
    | (with_reducible refine foldl_memW (fun r : Acs => r.s) _ (fun b_ a_ h_ => ?_) _ _ ?_ <;> try dsimp only at *)
    | (with_reducible refine foldl_memW (fun r : Got => r.s) _ (fun b_ a_ h_ => ?_) _ _ ?_ <;> try dsimp only at *)
    | (with_reducible refine foldl_memW (fun r : InjRead => r.s) _ (fun b_ a_ h_ => ?_) _ _ ?_ <;> try dsimp only at *)
    | (with_reducible refine foldl_memW (fun r : JForm => r.s) _ (fun b_ a_ h_ => ?_) _ _ ?_ <;> try dsimp only at *)
    | (with_reducible refine foldl_memW (fun r : JWr => r.s) _ (fun b_ a_ h_ => ?_) _ _ ?_ <;> try dsimp only at *)
    | (with_reducible refine foldl_memW (fun r : Move => r.s) _ (fun b_ a_ h_ => ?_) _ _ ?_ <;> try dsimp only at *)
    | (with_reducible refine foldl_memW (fun r : NearRes => r.s) _ (fun b_ a_ h_ => ?_) _ _ ?_ <;> try dsimp only at *)
    | (with_reducible refine foldl_memW (fun r : Res => r.s) _ (fun b_ a_ h_ => ?_) _ _ ?_ <;> try dsimp only at *)
    | (with_reducible refine foldl_memW (fun r : WrRes => r.s) _ (fun b_ a_ h_ => ?_) _ _ ?_ <;> try dsimp only at *)
    | (with_reducible refine foldl_memW (fun r : State × _ => r.1) _ (fun b_ a_ h_ => ?_) _ _ ?_ <;> try dsimp only at *)
    | (simp (maxDischargeDepth := 12) [*]; done)
    | split
    | intro _
    | (simp_all [MemSt.wf_iff]; done)
    | simp (maxDischargeDepth := 12) [*]

@[simp] theorem State.cvPoison_memWf (s : State) (p a : Nat)  (hw_ : s.mem.wf = true) :
    (State.cvPoison s p a).mem.wf = true := by
  unfold State.cvPoison
  repeat' first
    | with_reducible assumption
    | (with_reducible refine State.poisSlice_memWf (hw_ := ?_) ..)
    | (with_reducible refine State.poisFar_memWf (hw_ := ?_) ..)
    | (with_reducible refine JWr.slice_memWf (hw_ := ?_) ..)
    | (with_reducible refine JWr.far_memWf (hw_ := ?_) ..)
    | (simp (maxDischargeDepth := 12) [*]; done)
    | split
    | intro _
    | (simp_all [MemSt.wf_iff]; done)
    | simp (maxDischargeDepth := 12) [*]

@[simp] theorem State.cvSignal_memWf (s : State) (o : TOwner) (sig : W32)  (hw_ : s.mem.wf = true) :
    (State.cvSignal s o sig).1.mem.wf = true := by
  unfold State.cvSignal
  repeat' first
    | with_reducible assumption
    | (with_reducible refine State.tallyApply_memWf (hw_ := ?_) ..)
    | (simp (maxDischargeDepth := 12) [*]; done)
    | split
    | intro _
    | (simp_all [MemSt.wf_iff]; done)
    | simp (maxDischargeDepth := 12) [*]

@[simp] theorem State.cvStart_mem (s : State) (i : Item) (l : List Buf) :
    (State.cvStart s i l).mem = s.mem := by
  unfold State.cvStart
  repeat' first
    | with_reducible rfl
    | (simp; done)
    | split
    | intro _
    | simp

@[simp] theorem State.localWrite_memWf (s : State) (i : Item) (b : Buf) (hostFail : Option Nat)  (hw_ : s.mem.wf = true) :
    (State.localWrite s i b hostFail).mem.wf = true := by
  unfold State.localWrite
  repeat' first
    | with_reducible assumption
    | (with_reducible refine State.finish_memWf (hw_ := ?_) ..)
    | (with_reducible refine State.reject_memWf (hw_ := ?_) ..)
    | (with_reducible refine State.cvWrite_memWf (hw_ := ?_) ..)
    | (with_reducible refine State.cvPoison_memWf (hw_ := ?_) ..)
    | (with_reducible refine State.cvSignal_memWf (hw_ := ?_) ..)
    | (with_reducible refine foldl_memWf _ ?_ _ _ ?_)
    | (with_reducible refine foldl_memW (fun r : Acs => r.s) _ (fun b_ a_ h_ => ?_) _ _ ?_ <;> try dsimp only at *)
    | (with_reducible refine foldl_memW (fun r : Got => r.s) _ (fun b_ a_ h_ => ?_) _ _ ?_ <;> try dsimp only at *)
    | (with_reducible refine foldl_memW (fun r : InjRead => r.s) _ (fun b_ a_ h_ => ?_) _ _ ?_ <;> try dsimp only at *)
    | (with_reducible refine foldl_memW (fun r : JForm => r.s) _ (fun b_ a_ h_ => ?_) _ _ ?_ <;> try dsimp only at *)
    | (with_reducible refine foldl_memW (fun r : JWr => r.s) _ (fun b_ a_ h_ => ?_) _ _ ?_ <;> try dsimp only at *)
    | (with_reducible refine foldl_memW (fun r : Move => r.s) _ (fun b_ a_ h_ => ?_) _ _ ?_ <;> try dsimp only at *)
    | (with_reducible refine foldl_memW (fun r : NearRes => r.s) _ (fun b_ a_ h_ => ?_) _ _ ?_ <;> try dsimp only at *)
    | (with_reducible refine foldl_memW (fun r : Res => r.s) _ (fun b_ a_ h_ => ?_) _ _ ?_ <;> try dsimp only at *)
    | (with_reducible refine foldl_memW (fun r : WrRes => r.s) _ (fun b_ a_ h_ => ?_) _ _ ?_ <;> try dsimp only at *)
    | (with_reducible refine foldl_memW (fun r : State × _ => r.1) _ (fun b_ a_ h_ => ?_) _ _ ?_ <;> try dsimp only at *)
    | (simp (maxDischargeDepth := 12) [*]; done)
    | split
    | intro _
    | (simp_all [MemSt.wf_iff]; done)
    | simp (maxDischargeDepth := 12) [*]

@[simp] theorem State.sendWrite_memWf (s : State) (i : Item) (b : Buf) (hostFail : Option Nat)  (hw_ : s.mem.wf = true) :
    (State.sendWrite s i b hostFail).mem.wf = true := by
  unfold State.sendWrite
  repeat' first
    | with_reducible assumption
    | (with_reducible refine State.endItem_memWf (hw_ := ?_) ..)
    | (simp (maxDischargeDepth := 12) [*]; done)
    | split
    | intro _
    | (simp_all [MemSt.wf_iff]; done)
    | simp (maxDischargeDepth := 12) [*]

@[simp] theorem State.collJoin_memWf (s : State) (i : Item) (a b : Buf) (hostFail : Option Nat)  (hw_ : s.mem.wf = true) :
    (State.collJoin s i a b hostFail).mem.wf = true := by
  unfold State.collJoin
  repeat' first
    | with_reducible assumption
    | (with_reducible refine State.collDrain_memWf (hw_ := ?_) ..)
    | (simp (maxDischargeDepth := 12) [*]; done)
    | split
    | intro _
    | (simp_all [MemSt.wf_iff]; done)
    | simp (maxDischargeDepth := 12) [*]

@[simp] theorem State.opLost_memWf (s : State) (o : CvOp)  (hw_ : s.mem.wf = true) :
    (State.opLost s o).mem.wf = true := by
  unfold State.opLost
  repeat' first
    | with_reducible assumption
    | (with_reducible refine State.endItem_memWf (hw_ := ?_) ..)
    | (simp (maxDischargeDepth := 12) [*]; done)
    | split
    | intro _
    | (simp_all [MemSt.wf_iff]; done)
    | simp (maxDischargeDepth := 12) [*]

@[simp] theorem State.convLost_memWf (s : State) (peer port : Nat)  (hw_ : s.mem.wf = true) :
    (State.convLost s peer port).mem.wf = true := by
  unfold State.convLost
  repeat' first
    | with_reducible assumption
    | (with_reducible refine State.collStop_memWf (hw_ := ?_) ..)
    | (with_reducible refine State.opLost_memWf (hw_ := ?_) ..)
    | (with_reducible refine foldl_memWf _ ?_ _ _ ?_)
    | (with_reducible refine foldl_memW (fun r : Acs => r.s) _ (fun b_ a_ h_ => ?_) _ _ ?_ <;> try dsimp only at *)
    | (with_reducible refine foldl_memW (fun r : Got => r.s) _ (fun b_ a_ h_ => ?_) _ _ ?_ <;> try dsimp only at *)
    | (with_reducible refine foldl_memW (fun r : InjRead => r.s) _ (fun b_ a_ h_ => ?_) _ _ ?_ <;> try dsimp only at *)
    | (with_reducible refine foldl_memW (fun r : JForm => r.s) _ (fun b_ a_ h_ => ?_) _ _ ?_ <;> try dsimp only at *)
    | (with_reducible refine foldl_memW (fun r : JWr => r.s) _ (fun b_ a_ h_ => ?_) _ _ ?_ <;> try dsimp only at *)
    | (with_reducible refine foldl_memW (fun r : Move => r.s) _ (fun b_ a_ h_ => ?_) _ _ ?_ <;> try dsimp only at *)
    | (with_reducible refine foldl_memW (fun r : NearRes => r.s) _ (fun b_ a_ h_ => ?_) _ _ ?_ <;> try dsimp only at *)
    | (with_reducible refine foldl_memW (fun r : Res => r.s) _ (fun b_ a_ h_ => ?_) _ _ ?_ <;> try dsimp only at *)
    | (with_reducible refine foldl_memW (fun r : WrRes => r.s) _ (fun b_ a_ h_ => ?_) _ _ ?_ <;> try dsimp only at *)
    | (with_reducible refine foldl_memW (fun r : State × _ => r.1) _ (fun b_ a_ h_ => ?_) _ _ ?_ <;> try dsimp only at *)
    | (simp (maxDischargeDepth := 12) [*]; done)
    | split
    | intro _
    | (simp_all [MemSt.wf_iff]; done)
    | simp (maxDischargeDepth := 12) [*]

@[simp] theorem State.convsLost_memWf (s : State) (f : Nat → Nat → Bool)  (hw_ : s.mem.wf = true) :
    (State.convsLost s f).mem.wf = true := by
  unfold State.convsLost
  repeat' first
    | with_reducible assumption
    | (with_reducible refine State.convLost_memWf (hw_ := ?_) ..)
    | (with_reducible refine foldl_memWf _ ?_ _ _ ?_)
    | (with_reducible refine foldl_memW (fun r : Acs => r.s) _ (fun b_ a_ h_ => ?_) _ _ ?_ <;> try dsimp only at *)
    | (with_reducible refine foldl_memW (fun r : Got => r.s) _ (fun b_ a_ h_ => ?_) _ _ ?_ <;> try dsimp only at *)
    | (with_reducible refine foldl_memW (fun r : InjRead => r.s) _ (fun b_ a_ h_ => ?_) _ _ ?_ <;> try dsimp only at *)
    | (with_reducible refine foldl_memW (fun r : JForm => r.s) _ (fun b_ a_ h_ => ?_) _ _ ?_ <;> try dsimp only at *)
    | (with_reducible refine foldl_memW (fun r : JWr => r.s) _ (fun b_ a_ h_ => ?_) _ _ ?_ <;> try dsimp only at *)
    | (with_reducible refine foldl_memW (fun r : Move => r.s) _ (fun b_ a_ h_ => ?_) _ _ ?_ <;> try dsimp only at *)
    | (with_reducible refine foldl_memW (fun r : NearRes => r.s) _ (fun b_ a_ h_ => ?_) _ _ ?_ <;> try dsimp only at *)
    | (with_reducible refine foldl_memW (fun r : Res => r.s) _ (fun b_ a_ h_ => ?_) _ _ ?_ <;> try dsimp only at *)
    | (with_reducible refine foldl_memW (fun r : WrRes => r.s) _ (fun b_ a_ h_ => ?_) _ _ ?_ <;> try dsimp only at *)
    | (with_reducible refine foldl_memW (fun r : State × _ => r.1) _ (fun b_ a_ h_ => ?_) _ _ ?_ <;> try dsimp only at *)
    | (simp (maxDischargeDepth := 12) [*]; done)
    | split
    | intro _
    | (simp_all [MemSt.wf_iff]; done)
    | simp (maxDischargeDepth := 12) [*]

@[simp] theorem State.opAcked_memWf (s : State) (peer port : Nat) (a : W32) (o : CvOp)  (hw_ : s.mem.wf = true) :
    (State.opAcked s peer port a o).mem.wf = true := by
  unfold State.opAcked
  extract_lets total k got drop
  have hd : ∀ s, s.mem.wf = true → (drop s).mem.wf = true := by
    intro s h; unfold drop; rw [State.updConv_mem]; exact h
  clear_value drop
  split
  · exact hw_
  split
  · exact hw_
  split
  · split
    · exact hd _ hw_
    · split
      · exact State.finish_memWf (hw_ := by rw [State.updItem_mem]; exact hd _ hw_) ..
      · exact State.withdrawWait_memWf (hw_ := hd _ hw_) ..
  split
  · split
    · split
      · exact State.finish_memWf (hw_ := hd _ (by rw [State.updItem_mem]; exact hw_)) ..
      · rw [State.updItem_mem]; exact hw_
    · exact hw_
  split
  · split
    · exact hd _ hw_
    · exact State.tallyGive_memWf (hw_ := hd _ hw_) ..
  · exact hw_

@[simp] theorem State.opsAcked_memWf (s : State) (peer port : Nat) (need a : W32)  (hw_ : s.mem.wf = true) :
    (State.opsAcked s peer port need a).mem.wf = true := by
  unfold State.opsAcked
  repeat' first
    | with_reducible assumption
    | (with_reducible refine State.opAcked_memWf (hw_ := ?_) ..)
    | (with_reducible refine foldl_memWf _ ?_ _ _ ?_)
    | (with_reducible refine foldl_memW (fun r : Acs => r.s) _ (fun b_ a_ h_ => ?_) _ _ ?_ <;> try dsimp only at *)
    | (with_reducible refine foldl_memW (fun r : Got => r.s) _ (fun b_ a_ h_ => ?_) _ _ ?_ <;> try dsimp only at *)
    | (with_reducible refine foldl_memW (fun r : InjRead => r.s) _ (fun b_ a_ h_ => ?_) _ _ ?_ <;> try dsimp only at *)
    | (with_reducible refine foldl_memW (fun r : JForm => r.s) _ (fun b_ a_ h_ => ?_) _ _ ?_ <;> try dsimp only at *)
    | (with_reducible refine foldl_memW (fun r : JWr => r.s) _ (fun b_ a_ h_ => ?_) _ _ ?_ <;> try dsimp only at *)
    | (with_reducible refine foldl_memW (fun r : Move => r.s) _ (fun b_ a_ h_ => ?_) _ _ ?_ <;> try dsimp only at *)
    | (with_reducible refine foldl_memW (fun r : NearRes => r.s) _ (fun b_ a_ h_ => ?_) _ _ ?_ <;> try dsimp only at *)
    | (with_reducible refine foldl_memW (fun r : Res => r.s) _ (fun b_ a_ h_ => ?_) _ _ ?_ <;> try dsimp only at *)
    | (with_reducible refine foldl_memW (fun r : WrRes => r.s) _ (fun b_ a_ h_ => ?_) _ _ ?_ <;> try dsimp only at *)
    | (with_reducible refine foldl_memW (fun r : State × _ => r.1) _ (fun b_ a_ h_ => ?_) _ _ ?_ <;> try dsimp only at *)
    | (simp (maxDischargeDepth := 12) [*]; done)
    | split
    | intro _
    | (simp_all [MemSt.wf_iff]; done)
    | simp (maxDischargeDepth := 12) [*]

@[simp] theorem State.opsDue_memWf (s : State) (peer port : Nat)  (hw_ : s.mem.wf = true) :
    (State.opsDue s peer port).mem.wf = true := by
  unfold State.opsDue
  repeat' first
    | with_reducible assumption
    | (with_reducible refine State.opsAcked_memWf (hw_ := ?_) ..)
    | (simp (maxDischargeDepth := 12) [*]; done)
    | split
    | intro _
    | (simp_all [MemSt.wf_iff]; done)
    | simp (maxDischargeDepth := 12) [*]

@[simp] theorem State.acked_memWf (s : State) (peer port : Nat) (a : W32) (ece : Bool)  (hw_ : s.mem.wf = true) :
    (State.acked s peer port a ece).mem.wf = true := by
  unfold State.acked
  repeat' first
    | with_reducible assumption
    | (simp (maxDischargeDepth := 12) [*]; done)
    | split
    | intro _
    | (simp_all [MemSt.wf_iff]; done)
    | simp (maxDischargeDepth := 12) [*]

@[simp] theorem State.cvAck_mem (s : State) (peer port : Nat) :
    (State.cvAck s peer port).mem = s.mem := by
  unfold State.cvAck
  repeat' first
    | with_reducible rfl
    | (simp; done)
    | split
    | intro _
    | simp

@[simp] theorem State.cvDrop_mem (s : State) :
    (State.cvDrop s).mem = s.mem := by
  unfold State.cvDrop
  repeat' first
    | with_reducible rfl
    | (simp; done)
    | split
    | intro _
    | simp

@[simp] theorem State.rxFails_mem (s : State) (f : Frame) (x : CvRx) (st : Nat) :
    (State.rxFails s f x st).mem = s.mem := by
  unfold State.rxFails
  repeat' first
    | with_reducible rfl
    | (simp; done)
    | split
    | intro _
    | simp

@[simp] theorem State.onStart_mem (s : State) (f : Frame) (addr len : Nat) (sig : W32) :
    (State.onStart s f addr len sig).mem = s.mem := by
  unfold State.onStart
  repeat' first
    | with_reducible rfl
    | (simp; done)
    | split
    | intro _
    | simp

@[simp] theorem State.rxDone_memWf (s : State) (f : Frame) (x : CvRx)  (hw_ : s.mem.wf = true) :
    (State.rxDone s f x).mem.wf = true := by
  unfold State.rxDone
  repeat' first
    | with_reducible assumption
    | (with_reducible refine State.cvSignal_memWf (hw_ := ?_) ..)
    | (simp (maxDischargeDepth := 12) [*]; done)
    | split
    | intro _
    | (simp_all [MemSt.wf_iff]; done)
    | simp (maxDischargeDepth := 12) [*]

@[simp] theorem State.onData_memWf (s : State) (f : Frame) (addr : Nat) (b : List Byte)  (hw_ : s.mem.wf = true) :
    (State.onData s f addr b).mem.wf = true := by
  unfold State.onData
  repeat' first
    | with_reducible assumption
    | (with_reducible refine State.cvWrite_memWf (hw_ := ?_) ..)
    | (with_reducible refine State.rxDone_memWf (hw_ := ?_) ..)
    | (simp (maxDischargeDepth := 12) [*]; done)
    | split
    | intro _
    | (simp_all [MemSt.wf_iff]; done)
    | simp (maxDischargeDepth := 12) [*]

@[simp] theorem State.onTally_memWf (s : State) (f : Frame) (id top cmp : Nat) (x : W32)  (hw_ : s.mem.wf = true) :
    (State.onTally s f id top cmp x).mem.wf = true := by
  unfold State.onTally
  repeat' first
    | with_reducible assumption
    | (with_reducible refine State.tallyApply_memWf (hw_ := ?_) ..)
    | (simp (maxDischargeDepth := 12) [*]; done)
    | split
    | intro _
    | (simp_all [MemSt.wf_iff]; done)
    | simp (maxDischargeDepth := 12) [*]

@[simp] theorem State.opTake_mem (s : State) (f : Frame) :
    (State.opTake s f).2.mem = s.mem := by
  unfold State.opTake
  repeat' first
    | with_reducible rfl
    | (simp; done)
    | split
    | intro _
    | simp

@[simp] theorem State.onResult_memWf (s : State) (f : Frame) (v : W32)  (hw_ : s.mem.wf = true) :
    (State.onResult s f v).mem.wf = true := by
  have e := State.opTake_mem s f
  unfold State.onResult
  split
  · rename_i h
    rw [h] at e
    dsimp only at e
    split
    · rw [e]; exact hw_
    · exact State.tallyGive_memWf (hw_ := by rw [e]; exact hw_) ..
  · exact hw_

@[simp] theorem State.onRefuse_memWf (s : State) (f : Frame) (st : Nat)  (hw_ : s.mem.wf = true) :
    (State.onRefuse s f st).mem.wf = true := by
  have e := State.opTake_mem s f
  unfold State.onRefuse
  split
  · exact hw_
  · rename_i h
    rw [h] at e
    dsimp only at e
    rw [← e] at hw_
    split
    · split
      · exact hw_
      · exact State.finish_memWf (hw_ := by rw [State.updItem_mem]; exact hw_) ..
    · exact State.opLost_memWf (hw_ := hw_) ..

@[simp] theorem State.onAbort_memWf (s : State) (f : Frame) (st : Nat)  (hw_ : s.mem.wf = true) :
    (State.onAbort s f st).mem.wf = true := by
  unfold State.onAbort
  repeat' first
    | with_reducible assumption
    | (with_reducible refine State.collStop_memWf (hw_ := ?_) ..)
    | (simp (maxDischargeDepth := 12) [*]; done)
    | split
    | intro _
    | (simp_all [MemSt.wf_iff]; done)
    | simp (maxDischargeDepth := 12) [*]

@[simp] theorem State.cvDeliver_memWf (s : State) (x : CvHeld)  (hw_ : s.mem.wf = true) :
    (State.cvDeliver s x).mem.wf = true := by
  unfold State.cvDeliver
  repeat' first
    | with_reducible assumption
    | (with_reducible refine State.collArrive_memWf (hw_ := ?_) ..)
    | (with_reducible refine State.onData_memWf (hw_ := ?_) ..)
    | (with_reducible refine State.onTally_memWf (hw_ := ?_) ..)
    | (with_reducible refine State.onResult_memWf (hw_ := ?_) ..)
    | (with_reducible refine State.onRefuse_memWf (hw_ := ?_) ..)
    | (with_reducible refine State.onAbort_memWf (hw_ := ?_) ..)
    | (simp (maxDischargeDepth := 12) [*]; done)
    | split
    | intro _
    | (simp_all [MemSt.wf_iff]; done)
    | simp (maxDischargeDepth := 12) [*]

@[simp] theorem State.cvAhead_memWf (s : State) (peer port : Nat) (y_ : Nat)  (hw_ : s.mem.wf = true) :
    (State.cvAhead s peer port y_).mem.wf = true := by
  induction y_ generalizing s with
  | zero => exact ‹_›
  | succ n ih =>
    unfold State.cvAhead
    repeat' first
      | with_reducible rfl
      | (simp [ih, *]; done)
      | split
      | simp [ih, *]

@[simp] theorem State.onPacket_memWf (s : State) (x : CvHeld)  (hw_ : s.mem.wf = true) :
    (State.onPacket s x).mem.wf = true := by
  unfold State.onPacket
  repeat' first
    | with_reducible assumption
    | (with_reducible refine State.acked_memWf (hw_ := ?_) ..)
    | (with_reducible refine State.cvDeliver_memWf (hw_ := ?_) ..)
    | (with_reducible refine State.cvAhead_memWf (hw_ := ?_) ..)
    | (with_reducible refine State.opsAcked_memWf (hw_ := ?_) ..)
    | (with_reducible refine State.opsDue_memWf (hw_ := ?_) ..)
    | (simp (maxDischargeDepth := 12) [*]; done)
    | split
    | intro _
    | (simp_all [MemSt.wf_iff]; done)
    | simp (maxDischargeDepth := 12) [*]

@[simp] theorem State.onBare_memWf (s : State) (f : Frame)  (hw_ : s.mem.wf = true) :
    (State.onBare s f).mem.wf = true := by
  unfold State.onBare
  repeat' first
    | with_reducible assumption
    | (with_reducible refine State.acked_memWf (hw_ := ?_) ..)
    | (with_reducible refine State.opsAcked_memWf (hw_ := ?_) ..)
    | (simp (maxDischargeDepth := 12) [*]; done)
    | split
    | intro _
    | (simp_all [MemSt.wf_iff]; done)
    | simp (maxDischargeDepth := 12) [*]

@[simp] theorem State.onOpen_memWf (s : State) (f : Frame) (epoch : W32)  (hw_ : s.mem.wf = true) :
    (State.onOpen s f epoch).mem.wf = true := by
  unfold State.onOpen
  split
  · simp [hw_]
  extract_lets c
  split
  · simp [hw_]
  rename_i t _
  have hu : t.mem.wf = true := by
    unfold t
    split
    · exact State.convLost_memWf (hw_ := hw_) ..
    · exact hw_
  clear_value t
  split
  · exact hu
  · rename_i v h
    have hv : v.mem.wf = true := by
      split at h
      · rw [State.cvRoom_mem (hx_ := h)]; exact hu
      · cases h; exact hu
    simp [hv]

@[simp] theorem State.onOpenAck_memWf (s : State) (f : Frame) (epoch : W32)  (hw_ : s.mem.wf = true) :
    (State.onOpenAck s f epoch).mem.wf = true := by
  unfold State.onOpenAck
  repeat' first
    | with_reducible assumption
    | (with_reducible refine State.restarted_memWf (hw_ := ?_) ..)
    | (with_reducible refine State.convLost_memWf (hw_ := ?_) ..)
    | (simp (maxDischargeDepth := 12) [*]; done)
    | split
    | intro _
    | (simp_all [MemSt.wf_iff]; done)
    | simp (maxDischargeDepth := 12) [*]

@[simp] theorem State.rtoExpire_mem (s : State) (peer port : Nat) :
    (State.rtoExpire s peer port).mem = s.mem := by
  unfold State.rtoExpire
  repeat' first
    | with_reducible rfl
    | (simp; done)
    | split
    | intro _
    | simp

@[simp] theorem State.portSet_mem (s : State) (k v : Nat) :
    (State.portSet s k v).mem = s.mem := by
  unfold State.portSet
  repeat' first
    | with_reducible rfl
    | (simp; done)
    | split
    | intro _
    | simp

@[simp] theorem State.portDown_memWf (s : State) (k : Nat)  (hw_ : s.mem.wf = true) :
    (State.portDown s k).mem.wf = true := by
  unfold State.portDown
  repeat' first
    | with_reducible assumption
    | (with_reducible refine State.convsLost_memWf (hw_ := ?_) ..)
    | (simp (maxDischargeDepth := 12) [*]; done)
    | split
    | intro _
    | (simp_all [MemSt.wf_iff]; done)
    | simp (maxDischargeDepth := 12) [*]

@[simp] theorem State.icmpSend_mem (s : State) (port dst type : Nat) (rest : List Byte) :
    (State.icmpSend s port dst type rest).mem = s.mem := by
  unfold State.icmpSend
  repeat' first
    | with_reducible rfl
    | (simp; done)
    | split
    | intro _
    | simp

@[simp] theorem State.learn_mem (s : State) (port : Nat) (a : BitVec 128) (m : BitVec 48) :
    (State.learn s port a m).mem = s.mem := by
  unfold State.learn
  repeat' first
    | with_reducible rfl
    | (simp; done)
    | split
    | intro _
    | simp

@[simp] theorem State.cvTry_mem (s : State) (q : Req) (off bytes : Nat) (ok : Bool) (f : State → State) (hf : ∀ x0, (f x0).mem = x0.mem) :
    (State.cvTry s q off bytes ok f).mem = s.mem := by
  unfold State.cvTry
  repeat' first
    | with_reducible rfl
    | exact hf ..
    | (simp; done)
    | split
    | intro _
    | (with_reducible refine (State.setupTry_mem (hf := ?_) ..).trans ?_)
    | simp

@[simp] theorem State.cvTry_memWf (s : State) (q : Req) (off bytes : Nat) (ok : Bool) (f : State → State) (hf : ∀ x0, x0.mem.wf = true → (f x0).mem.wf = true) (hw_ : s.mem.wf = true) :
    (State.cvTry s q off bytes ok f).mem.wf = true := by
  unfold State.cvTry
  repeat' first
    | with_reducible assumption
    | (with_reducible refine State.setupTry_memWf (hf := ?_) (hw_ := ?_) ..)
    | (with_reducible refine hf _ ?_)
    | (with_reducible refine hf _ _ ?_)
    | (with_reducible refine hf _ _ _ ?_)
    | (simp (maxDischargeDepth := 12) [*]; done)
    | split
    | intro _
    | (simp_all [MemSt.wf_iff]; done)
    | simp (maxDischargeDepth := 12) [*]

@[simp] theorem State.peerStore_memWf (s : State) (v : W32)  (hw_ : s.mem.wf = true) :
    (State.peerStore s v).mem.wf = true := by
  unfold State.peerStore
  repeat' first
    | with_reducible assumption
    | (with_reducible refine State.convsLost_memWf (hw_ := ?_) ..)
    | (simp (maxDischargeDepth := 12) [*]; done)
    | split
    | intro _
    | (simp_all [MemSt.wf_iff]; done)
    | simp (maxDischargeDepth := 12) [*]

@[simp] theorem State.peerLoad_mem (s : State) (v : W32) :
    (State.peerLoad s v).mem = s.mem := by
  unfold State.peerLoad
  repeat' first
    | with_reducible rfl
    | (simp; done)
    | split
    | intro _
    | simp

@[simp] theorem State.handleStore_mem (s : State) (p h off size : Nat) (v : Word) :
    (State.handleStore s p h off size v).mem = s.mem := by
  unfold State.handleStore
  repeat' first
    | with_reducible rfl
    | (simp; done)
    | split
    | intro _
    | simp

end Sys2Proof.Machine
end

