-- ==== Sys2Proof/Laws/MemoryConfigSpace.lean ====
section
/-!
SUPPORT. The operations of ConfigSpace.lean leave memory as it is, or keep its canonical form.
-/
namespace Sys2Proof.Machine

@[simp] theorem State.cfgWrite_memWf (s : State) (fn off : Nat) (v : W32)  (hw_ : s.mem.wf = true) :
    (State.cfgWrite s fn off v).mem.wf = true := by
  unfold State.cfgWrite
  repeat' first
    | with_reducible assumption
    | (with_reducible refine State.functionReset_memWf (hw_ := ?_) ..)
    | (with_reducible refine State.busMasterOn_memWf (hw_ := ?_) ..)
    | (simp (maxDischargeDepth := 12) [*]; done)
    | split
    | intro _
    | (simp_all [MemSt.wf_iff]; done)
    | simp (maxDischargeDepth := 12) [*]

end Sys2Proof.Machine
end

