-- ==== Sys2Proof/Laws/MemoryControl.lean ====
section
/-!
SUPPORT. The operations of Control.lean leave memory as it is, or keep its canonical form.
-/
namespace Sys2Proof.Machine

@[simp] theorem State.branch_memWf (s : State) (n k : Nat) (ra rb : BitVec 5) (off : BitVec 15) (c : Word → Word → Bool)  (hw_ : s.mem.wf = true) :
    (State.branch s n k ra rb off c).mem.wf = true := by
  unfold State.branch
  repeat' first
    | with_reducible assumption
    | (with_reducible refine State.scalar_memWf (hf := ?_) (hw_ := ?_) ..)
    | (simp (maxDischargeDepth := 12) [*]; done)
    | split
    | intro _
    | (simp_all [MemSt.wf_iff]; done)
    | simp (maxDischargeDepth := 12) [*]

@[simp] theorem State.dropBuffer_mem (s : State) (n : Nat) :
    (State.dropBuffer s n).mem = s.mem := by
  unfold State.dropBuffer
  repeat' first
    | with_reducible rfl
    | (simp; done)
    | split
    | intro _
    | simp

@[simp] theorem State.bufferLine_mem (s : State) (n : Nat) (line : Word) :
    (State.bufferLine s n line).mem = s.mem := by
  unfold State.bufferLine
  repeat' first
    | with_reducible rfl
    | (simp; done)
    | split
    | intro _
    | (with_reducible refine (foldl_mem _ ?_ _ _).trans ?_)
    | simp

@[simp] theorem State.fetchLine_memWf (s : State) (n k : Nat) (line : Word)  (hw_ : s.mem.wf = true) :
    (State.fetchLine s n k line).mem.wf = true := by
  unfold State.fetchLine
  repeat' first
    | with_reducible assumption
    | (with_reducible refine State.raiseExc_memWf (hw_ := ?_) ..)
    | (simp (maxDischargeDepth := 12) [*]; done)
    | split
    | intro _
    | (simp_all [MemSt.wf_iff]; done)
    | simp (maxDischargeDepth := 12) [*]

end Sys2Proof.Machine
end

