-- ==== Sys2Proof/Laws/MemoryMatrix.lean ====
section
/-!
SUPPORT. The operations of Matrix.lean leave memory as it is, or keep its canonical form.
-/
namespace Sys2Proof.Machine

@[simp] theorem State.setWop_mem (s : State) (n : Nat) (o : WOp) :
    (State.setWop s n o).mem = s.mem := by
  unfold State.setWop
  repeat' first
    | with_reducible rfl
    | (simp; done)
    | split
    | intro _
    | simp

@[simp] theorem State.passInput_mem (s : State) (n : Nat) (o : WOp) (a : Word) :
    (State.passInput s n o a).s.mem = s.mem := by
  unfold State.passInput
  repeat' first
    | with_reducible rfl
    | (simp; done)
    | split
    | intro _
    | simp

@[simp] theorem State.passOld_mem (s : State) (n : Nat) (o : WOp) :
    (State.passOld s n o).1.mem = s.mem := by
  unfold State.passOld
  repeat' first
    | with_reducible rfl
    | (simp; done)
    | split
    | intro _
    | simp

@[simp] theorem State.passWrite_memWf (s : State) (n : Nat) (o : WOp) (l : List W32)  (hw_ : s.mem.wf = true) :
    (State.passWrite s n o l).mem.wf = true := by
  unfold State.passWrite
  repeat' first
    | with_reducible assumption
    | (with_reducible refine State.wrShelf_memWf (hw_ := ?_) ..)
    | (simp (maxDischargeDepth := 12) [*]; done)
    | split
    | intro _
    | (simp_all [MemSt.wf_iff]; done)
    | simp (maxDischargeDepth := 12) [*]

@[simp] theorem State.wopBase_mem (s : State) (n : Nat) (o : WOp) :
    (State.wopBase s n o).1.mem = s.mem := by
  unfold State.wopBase
  repeat' first
    | with_reducible rfl
    | (simp; done)
    | split
    | intro _
    | simp

@[simp] theorem State.passRow_memWf (s : State) (n cyc : Nat) (o : WOp) (v : Word)  (hw_ : s.mem.wf = true) :
    (State.passRow s n cyc o v).mem.wf = true := by
  unfold State.passRow
  repeat' first
    | with_reducible assumption
    | (with_reducible refine State.wopExc_memWf (hw_ := ?_) ..)
    | (with_reducible refine State.passWrite_memWf (hw_ := ?_) ..)
    | (simp (maxDischargeDepth := 12) [*]; done)
    | split
    | intro _
    | (simp_all [MemSt.wf_iff]; done)
    | simp (maxDischargeDepth := 12) [*]

@[simp] theorem State.pass_memWf (s : State) (n cyc : Nat)  (hw_ : s.mem.wf = true) :
    (State.pass s n cyc).mem.wf = true := by
  unfold State.pass
  repeat' first
    | with_reducible assumption
    | (with_reducible refine State.wopExc_memWf (hw_ := ?_) ..)
    | (with_reducible refine State.passRow_memWf (hw_ := ?_) ..)
    | (simp (maxDischargeDepth := 12) [*]; done)
    | split
    | intro _
    | (simp_all [MemSt.wf_iff]; done)
    | simp (maxDischargeDepth := 12) [*]

@[simp] theorem State.hmvOut_mem (s : State) (n : Nat) (o : WOp) (v : Nat) (x : W32) :
    (State.hmvOut s n o v x).mem = s.mem := by
  unfold State.hmvOut
  repeat' first
    | with_reducible rfl
    | (simp; done)
    | split
    | intro _
    | simp

@[simp] theorem State.hmvRun_memWf (s : State) (n : Nat) (o : WOp) (f : AFmt) (v : Word)  (hw_ : s.mem.wf = true) :
    (State.hmvRun s n o f v).mem.wf = true := by
  unfold State.hmvRun
  repeat' first
    | with_reducible assumption
    | (with_reducible refine State.wopExc_memWf (hw_ := ?_) ..)
    | (with_reducible refine foldl_memWf _ ?_ _ _ ?_)
    | (with_reducible refine foldl_memW (fun r : Acs => r.s) _ (fun b_ a_ h_ => ?_) _ _ ?_ <;> try dsimp only at *)
    | (with_reducible refine foldl_memW (fun r : Got => r.s) _ (fun b_ a_ h_ => ?_) _ _ ?_ <;> try dsimp only at *)
    | (with_reducible refine foldl_memW (fun r : InjRead => r.s) _ (fun b_ a_ h_ => ?_) _ _ ?_ <;> try dsimp only at *)
    | (with_reducible refine foldl_memW (fun r : JForm => r.s) _ (fun b_ a_ h_ => ?_) _ _ ?_ <;> try dsimp only at *)
    | (with_reducible refine foldl_memW (fun r : JWr => r.s) _ (fun b_ a_ h_ => ?_) _ _ ?_ <;> try dsimp only at *)
    | (with_reducible refine foldl_memW (fun r : Move => r.s) _ (fun b_ a_ h_ => ?_) _ _ ?_ <;> try dsimp only at *)
    | (with_reducible refine foldl_memW (fun r : NearRes => r.s) _ (fun b_ a_ h_ => ?_) _ _ ?_ <;> try dsimp only at *)
    | (with_reducible refine foldl_memW (fun r : Res => r.s) _ (fun b_ a_ h_ => ?_) _ _ ?_ <;> try dsimp only at *)
    | (with_reducible refine foldl_memW (fun r : WrRes => r.s) _ (fun b_ a_ h_ => ?_) _ _ ?_ <;> try dsimp only at *)
    | (with_reducible refine foldl_memW (fun r : State × _ => r.1) _ (fun b_ a_ h_ => ?_) _ _ ?_ <;> try dsimp only at *)
    | (simp (maxDischargeDepth := 12) [*]; done)
    | split
    | intro _
    | (simp_all [MemSt.wf_iff]; done)
    | simp (maxDischargeDepth := 12) [*]

@[simp] theorem State.hmvBlock_memWf (s : State) (n : Nat) (y_ : Nat)  (hw_ : s.mem.wf = true) :
    (State.hmvBlock s n y_).mem.wf = true := by
  induction y_ generalizing s with
  | zero => exact ‹_›
  | succ n ih =>
    unfold State.hmvBlock
    repeat' first
      | with_reducible rfl
      | (simp [ih, *]; done)
      | split
      | simp [ih, *]

@[simp] theorem State.hawkStep_memWf (s : State) (n : Nat)  (hw_ : s.mem.wf = true) :
    (State.hawkStep s n).mem.wf = true := by
  unfold State.hawkStep
  repeat' first
    | with_reducible assumption
    | (with_reducible refine State.hmvBlock_memWf (hw_ := ?_) ..)
    | (with_reducible refine foldl_memWf _ ?_ _ _ ?_)
    | (with_reducible refine foldl_memW (fun r : Acs => r.s) _ (fun b_ a_ h_ => ?_) _ _ ?_ <;> try dsimp only at *)
    | (with_reducible refine foldl_memW (fun r : Got => r.s) _ (fun b_ a_ h_ => ?_) _ _ ?_ <;> try dsimp only at *)
    | (with_reducible refine foldl_memW (fun r : InjRead => r.s) _ (fun b_ a_ h_ => ?_) _ _ ?_ <;> try dsimp only at *)
    | (with_reducible refine foldl_memW (fun r : JForm => r.s) _ (fun b_ a_ h_ => ?_) _ _ ?_ <;> try dsimp only at *)
    | (with_reducible refine foldl_memW (fun r : JWr => r.s) _ (fun b_ a_ h_ => ?_) _ _ ?_ <;> try dsimp only at *)
    | (with_reducible refine foldl_memW (fun r : Move => r.s) _ (fun b_ a_ h_ => ?_) _ _ ?_ <;> try dsimp only at *)
    | (with_reducible refine foldl_memW (fun r : NearRes => r.s) _ (fun b_ a_ h_ => ?_) _ _ ?_ <;> try dsimp only at *)
    | (with_reducible refine foldl_memW (fun r : Res => r.s) _ (fun b_ a_ h_ => ?_) _ _ ?_ <;> try dsimp only at *)
    | (with_reducible refine foldl_memW (fun r : WrRes => r.s) _ (fun b_ a_ h_ => ?_) _ _ ?_ <;> try dsimp only at *)
    | (with_reducible refine foldl_memW (fun r : State × _ => r.1) _ (fun b_ a_ h_ => ?_) _ _ ?_ <;> try dsimp only at *)
    | (simp (maxDischargeDepth := 12) [*]; done)
    | split
    | intro _
    | (simp_all [MemSt.wf_iff]; done)
    | simp (maxDischargeDepth := 12) [*]

@[simp] theorem State.wopFinish_memWf (s : State) (n : Nat)  (hw_ : s.mem.wf = true) :
    (State.wopFinish s n).mem.wf = true := by
  unfold State.wopFinish
  repeat' first
    | with_reducible assumption
    | (with_reducible refine State.retireAll_memWf (hw_ := ?_) ..)
    | (simp (maxDischargeDepth := 12) [*]; done)
    | split
    | intro _
    | (simp_all [MemSt.wf_iff]; done)
    | simp (maxDischargeDepth := 12) [*]

end Sys2Proof.Machine
end

