-- ==== Sys2Proof/Laws/MemoryLoadStore.lean ====
section
/-!
SUPPORT. The operations of LoadStore.lean leave memory as it is, or keep its canonical form.
-/
namespace Sys2Proof.Machine

@[simp] theorem State.load_memWf (s : State) (n k : Nat) (rd ra : BitVec 5) (imm : BitVec 15) (sz : Nat) (signed : Bool)  (hw_ : s.mem.wf = true) :
    (State.load s n k rd ra imm sz signed).mem.wf = true := by
  unfold State.load
  repeat' first
    | with_reducible assumption
    | (with_reducible refine State.scalar_memWf (hf := ?_) (hw_ := ?_) ..)
    | (with_reducible refine State.scalarExc_memWf (hw_ := ?_) ..)
    | (simp (maxDischargeDepth := 12) [*]; done)
    | split
    | intro _
    | (simp_all [MemSt.wf_iff]; done)
    | simp (maxDischargeDepth := 12) [*]

@[simp] theorem State.store_memWf (s : State) (n k : Nat) (rb ra : BitVec 5) (imm : BitVec 15) (sz : Nat)  (hw_ : s.mem.wf = true) :
    (State.store s n k rb ra imm sz).mem.wf = true := by
  unfold State.store
  repeat' first
    | with_reducible assumption
    | (with_reducible refine State.scalar_memWf (hf := ?_) (hw_ := ?_) ..)
    | (with_reducible refine State.stallWrite_memWf (hw_ := ?_) ..)
    | (with_reducible refine State.scalarExc_memWf (hw_ := ?_) ..)
    | (simp (maxDischargeDepth := 12) [*]; done)
    | split
    | intro _
    | (simp_all [MemSt.wf_iff]; done)
    | simp (maxDischargeDepth := 12) [*]

end Sys2Proof.Machine
end

