-- ==== Sys2Proof/Laws/MemoryRegWrite.lean ====
section
/-!
SUPPORT. The operations of RegWrite.lean leave memory as it is, or keep its canonical form.
-/
namespace Sys2Proof.Machine

theorem after_run_memWf (s : State) (ok : Bool) (t : State) (hs : s.mem.wf = true) (h : t.mem.wf = true) :
    (after s (run ok t)).mem.wf = true := by
  unfold after run
  cases ok
  · exact hs
  · exact h

@[simp] theorem after_execBootcfgWrite_memWf (q : Req) (v : W32) (st : State) (hw_ : st.mem.wf = true) : (after st (execBootcfgWrite q v st)).mem.wf = true := by
  unfold execBootcfgWrite
  refine after_run_memWf _ _ _ hw_ ?_
  repeat' first
    | with_reducible assumption
    | (with_reducible refine State.setupTry_memWf (hf := ?_) (hw_ := ?_) ..)
    | (simp (maxDischargeDepth := 12) [*]; done)
    | split
    | intro _
    | (simp_all [MemSt.wf_iff]; done)
    | simp (maxDischargeDepth := 12) [*]

@[simp] theorem after_execDisplace_memWf (q : Req) (m : Nat) (st : State) (hw_ : st.mem.wf = true) : (after st (execDisplace q m st)).mem.wf = true := by
  unfold execDisplace
  refine after_run_memWf _ _ _ hw_ ?_
  repeat' first
    | with_reducible assumption
    | (with_reducible refine State.modCmd_memWf (hf := ?_) (hw_ := ?_) ..)
    | (simp (maxDischargeDepth := 12) [*]; done)
    | split
    | intro _
    | (simp_all [MemSt.wf_iff]; done)
    | simp (maxDischargeDepth := 12) [*]

@[simp] theorem after_execFwCancel_memWf (q : Req) (st : State) (hw_ : st.mem.wf = true) : (after st (execFwCancel q st)).mem.wf = true := by
  unfold execFwCancel
  refine after_run_memWf _ _ _ hw_ ?_
  repeat' first
    | with_reducible assumption
    | (with_reducible refine State.setupTry_memWf (hf := ?_) (hw_ := ?_) ..)
    | (simp (maxDischargeDepth := 12) [*]; done)
    | split
    | intro _
    | (simp_all [MemSt.wf_iff]; done)
    | simp (maxDischargeDepth := 12) [*]

@[simp] theorem after_execFwConfirm_memWf (q : Req) (st : State) (hw_ : st.mem.wf = true) : (after st (execFwConfirm q st)).mem.wf = true := by
  unfold execFwConfirm
  refine after_run_memWf _ _ _ hw_ ?_
  repeat' first
    | with_reducible assumption
    | (with_reducible refine State.setupTry_memWf (hf := ?_) (hw_ := ?_) ..)
    | (simp (maxDischargeDepth := 12) [*]; done)
    | split
    | intro _
    | (simp_all [MemSt.wf_iff]; done)
    | simp (maxDischargeDepth := 12) [*]

@[simp] theorem after_execHallRefCmd_memWf (q : Req) (h : Nat) (v : W32) (st : State) (hw_ : st.mem.wf = true) : (after st (execHallRefCmd q h v st)).mem.wf = true := by
  unfold execHallRefCmd
  refine after_run_memWf _ _ _ hw_ ?_
  repeat' first
    | with_reducible assumption
    | (with_reducible refine State.setupTry_memWf (hf := ?_) (hw_ := ?_) ..)
    | (simp (maxDischargeDepth := 12) [*]; done)
    | split
    | intro _
    | (simp_all [MemSt.wf_iff]; done)
    | simp (maxDischargeDepth := 12) [*]

@[simp] theorem after_execHandleWrite_memWf (q : Req) (p h off size : Nat) (v : Word) (st : State) (hw_ : st.mem.wf = true) : (after st (execHandleWrite q p h off size v st)).mem.wf = true := by
  unfold execHandleWrite
  refine after_run_memWf _ _ _ hw_ ?_
  repeat' first
    | with_reducible assumption
    | (with_reducible refine State.setupTry_memWf (hf := ?_) (hw_ := ?_) ..)
    | (simp (maxDischargeDepth := 12) [*]; done)
    | split
    | intro _
    | (simp_all [MemSt.wf_iff]; done)
    | simp (maxDischargeDepth := 12) [*]

@[simp] theorem after_execHeartbeat_memWf (i : Nat) (st : State) (hw_ : st.mem.wf = true) : (after st (execHeartbeat i st)).mem.wf = true := by
  unfold execHeartbeat
  refine after_run_memWf _ _ _ hw_ ?_
  repeat' first
    | with_reducible assumption
    | (simp (maxDischargeDepth := 12) [*]; done)
    | split
    | intro _
    | (simp_all [MemSt.wf_iff]; done)
    | simp (maxDischargeDepth := 12) [*]

@[simp] theorem after_execIslandclkWrite_memWf (q : Req) (s : Nat) (v : W32) (st : State) (hw_ : st.mem.wf = true) : (after st (execIslandclkWrite q s v st)).mem.wf = true := by
  unfold execIslandclkWrite
  refine after_run_memWf _ _ _ hw_ ?_
  repeat' first
    | with_reducible assumption
    | (with_reducible refine State.stallTry_memWf (hf := ?_) (hw_ := ?_) ..)
    | (simp (maxDischargeDepth := 12) [*]; done)
    | split
    | intro _
    | (simp_all [MemSt.wf_iff]; done)
    | simp (maxDischargeDepth := 12) [*]

@[simp] theorem after_execJcancel_memWf (q : Req) (p : Nat) (v : W32) (st : State) (hw_ : st.mem.wf = true) : (after st (execJcancel q p v st)).mem.wf = true := by
  unfold execJcancel
  refine after_run_memWf _ _ _ hw_ ?_
  repeat' first
    | with_reducible assumption
    | (with_reducible refine State.setupTry_memWf (hf := ?_) (hw_ := ?_) ..)
    | (with_reducible refine State.endItemAs_memWf (hw_ := ?_) ..)
    | (with_reducible refine foldl_memWf _ ?_ _ _ ?_)
    | (with_reducible refine foldl_memW (fun r : Acs => r.s) _ (fun b_ a_ h_ => ?_) _ _ ?_ <;> try dsimp only at *)
    | (with_reducible refine foldl_memW (fun r : Got => r.s) _ (fun b_ a_ h_ => ?_) _ _ ?_ <;> try dsimp only at *)
    | (with_reducible refine foldl_memW (fun r : InjRead => r.s) _ (fun b_ a_ h_ => ?_) _ _ ?_ <;> try dsimp only at *)
    | (with_reducible refine foldl_memW (fun r : JForm => r.s) _ (fun b_ a_ h_ => ?_) _ _ ?_ <;> try dsimp only at *)
    | (with_reducible refine foldl_memW (fun r : JWr => r.s) _ (fun b_ a_ h_ => ?_) _ _ ?_ <;> try dsimp only at *)
    | (with_reducible refine foldl_memW (fun r : Move => r.s) _ (fun b_ a_ h_ => ?_) _ _ ?_ <;> try dsimp only at *)
    | (with_reducible refine foldl_memW (fun r : NearRes => r.s) _ (fun b_ a_ h_ => ?_) _ _ ?_ <;> try dsimp only at *)
    | (with_reducible refine foldl_memW (fun r : Res => r.s) _ (fun b_ a_ h_ => ?_) _ _ ?_ <;> try dsimp only at *)
    | (with_reducible refine foldl_memW (fun r : WrRes => r.s) _ (fun b_ a_ h_ => ?_) _ _ ?_ <;> try dsimp only at *)
    | (with_reducible refine foldl_memW (fun r : State × _ => r.1) _ (fun b_ a_ h_ => ?_) _ _ ?_ <;> try dsimp only at *)
    | (simp (maxDischargeDepth := 12) [*]; done)
    | split
    | intro _
    | (simp_all [MemSt.wf_iff]; done)
    | simp (maxDischargeDepth := 12) [*]

@[simp] theorem after_execJinjcfgWrite_memWf (q : Req) (i : Nat) (v : Word) (st : State) (hw_ : st.mem.wf = true) : (after st (execJinjcfgWrite q i v st)).mem.wf = true := by
  unfold execJinjcfgWrite
  refine after_run_memWf _ _ _ hw_ ?_
  repeat' first
    | with_reducible assumption
    | (with_reducible refine State.setupTry_memWf (hf := ?_) (hw_ := ?_) ..)
    | (simp (maxDischargeDepth := 12) [*]; done)
    | split
    | intro _
    | (simp_all [MemSt.wf_iff]; done)
    | simp (maxDischargeDepth := 12) [*]

@[simp] theorem after_execJostleUnlock_memWf (q : Req) (v : W32) (st : State) (hw_ : st.mem.wf = true) : (after st (execJostleUnlock q v st)).mem.wf = true := by
  unfold execJostleUnlock
  refine after_run_memWf _ _ _ hw_ ?_
  repeat' first
    | with_reducible assumption
    | (with_reducible refine State.setupTry_memWf (hf := ?_) (hw_ := ?_) ..)
    | (simp (maxDischargeDepth := 12) [*]; done)
    | split
    | intro _
    | (simp_all [MemSt.wf_iff]; done)
    | simp (maxDischargeDepth := 12) [*]

@[simp] theorem after_execLedgerFlush_memWf (q : Req) (st : State) (hw_ : st.mem.wf = true) : (after st (execLedgerFlush q st)).mem.wf = true := by
  unfold execLedgerFlush
  refine after_run_memWf _ _ _ hw_ ?_
  repeat' first
    | with_reducible assumption
    | (with_reducible refine State.setupTry_memWf (hf := ?_) (hw_ := ?_) ..)
    | (simp (maxDischargeDepth := 12) [*]; done)
    | split
    | intro _
    | (simp_all [MemSt.wf_iff]; done)
    | simp (maxDischargeDepth := 12) [*]

@[simp] theorem after_execLoadModel_memWf (q : Req) (p : Nat) (v : Word) (st : State) (hw_ : st.mem.wf = true) : (after st (execLoadModel q p v st)).mem.wf = true := by
  unfold execLoadModel
  refine after_run_memWf _ _ _ hw_ ?_
  repeat' first
    | with_reducible assumption
    | (simp (maxDischargeDepth := 12) [*]; done)
    | split
    | intro _
    | (simp_all [MemSt.wf_iff]; done)
    | simp (maxDischargeDepth := 12) [*]

@[simp] theorem after_execMcommit_memWf (q : Req) (m : Nat) (v : W32) (st : State) (hw_ : st.mem.wf = true) : (after st (execMcommit q m v st)).mem.wf = true := by
  unfold execMcommit
  refine after_run_memWf _ _ _ hw_ ?_
  repeat' first
    | with_reducible assumption
    | (with_reducible refine State.setupTry_memWf (hf := ?_) (hw_ := ?_) ..)
    | (simp (maxDischargeDepth := 12) [*]; done)
    | split
    | intro _
    | (simp_all [MemSt.wf_iff]; done)
    | simp (maxDischargeDepth := 12) [*]

@[simp] theorem after_execModuleRestore_memWf (q : Req) (m : Nat) (st : State) (hw_ : st.mem.wf = true) : (after st (execModuleRestore q m st)).mem.wf = true := by
  unfold execModuleRestore
  refine after_run_memWf _ _ _ hw_ ?_
  repeat' first
    | with_reducible assumption
    | (with_reducible refine State.modCmd_memWf (hf := ?_) (hw_ := ?_) ..)
    | (simp (maxDischargeDepth := 12) [*]; done)
    | split
    | intro _
    | (simp_all [MemSt.wf_iff]; done)
    | simp (maxDischargeDepth := 12) [*]

@[simp] theorem after_execPeerctlWrite_memWf (q : Req) (v : W32) (st : State) (hw_ : st.mem.wf = true) : (after st (execPeerctlWrite q v st)).mem.wf = true := by
  unfold execPeerctlWrite
  refine after_run_memWf _ _ _ hw_ ?_
  repeat' first
    | with_reducible assumption
    | (with_reducible refine State.cvTry_memWf (hf := ?_) (hw_ := ?_) ..)
    | (with_reducible refine State.peerStore_memWf (hw_ := ?_) ..)
    | (simp (maxDischargeDepth := 12) [*]; done)
    | split
    | intro _
    | (simp_all [MemSt.wf_iff]; done)
    | simp (maxDischargeDepth := 12) [*]

@[simp] theorem after_execPeeridxWrite_memWf (q : Req) (v : W32) (st : State) (hw_ : st.mem.wf = true) : (after st (execPeeridxWrite q v st)).mem.wf = true := by
  unfold execPeeridxWrite
  refine after_run_memWf _ _ _ hw_ ?_
  repeat' first
    | with_reducible assumption
    | (with_reducible refine State.cvTry_memWf (hf := ?_) (hw_ := ?_) ..)
    | (simp (maxDischargeDepth := 12) [*]; done)
    | split
    | intro _
    | (simp_all [MemSt.wf_iff]; done)
    | simp (maxDischargeDepth := 12) [*]

@[simp] theorem after_execPitchReset_memWf (q : Req) (p : Nat) (scrub : Bool) (st : State) (hw_ : st.mem.wf = true) : (after st (execPitchReset q p scrub st)).mem.wf = true := by
  unfold execPitchReset
  refine after_run_memWf _ _ _ hw_ ?_
  repeat' first
    | with_reducible assumption
    | (with_reducible refine State.setupTry_memWf (hf := ?_) (hw_ := ?_) ..)
    | (with_reducible refine State.pitchReset_memWf (hw_ := ?_) ..)
    | (simp (maxDischargeDepth := 12) [*]; done)
    | split
    | intro _
    | (simp_all [MemSt.wf_iff]; done)
    | simp (maxDischargeDepth := 12) [*]

@[simp] theorem after_execPowerdown_memWf (q : Req) (m : Nat) (st : State) (hw_ : st.mem.wf = true) : (after st (execPowerdown q m st)).mem.wf = true := by
  unfold execPowerdown
  refine after_run_memWf _ _ _ hw_ ?_
  repeat' first
    | with_reducible assumption
    | (with_reducible refine State.modCmd_memWf (hf := ?_) (hw_ := ?_) ..)
    | (simp (maxDischargeDepth := 12) [*]; done)
    | split
    | intro _
    | (simp_all [MemSt.wf_iff]; done)
    | simp (maxDischargeDepth := 12) [*]

@[simp] theorem after_execPowerup_memWf (q : Req) (m : Nat) (st : State) (hw_ : st.mem.wf = true) : (after st (execPowerup q m st)).mem.wf = true := by
  unfold execPowerup
  refine after_run_memWf _ _ _ hw_ ?_
  repeat' first
    | with_reducible assumption
    | (with_reducible refine State.modCmd_memWf (hf := ?_) (hw_ := ?_) ..)
    | (simp (maxDischargeDepth := 12) [*]; done)
    | split
    | intro _
    | (simp_all [MemSt.wf_iff]; done)
    | simp (maxDischargeDepth := 12) [*]

@[simp] theorem after_execPtCommit_memWf (q : Req) (v : W32) (st : State) (hw_ : st.mem.wf = true) : (after st (execPtCommit q v st)).mem.wf = true := by
  unfold execPtCommit
  refine after_run_memWf _ _ _ hw_ ?_
  repeat' first
    | with_reducible assumption
    | (with_reducible refine State.setupTry_memWf (hf := ?_) (hw_ := ?_) ..)
    | (with_reducible refine State.commit_memWf (hw_ := ?_) ..)
    | (simp (maxDischargeDepth := 12) [*]; done)
    | split
    | intro _
    | (simp_all [MemSt.wf_iff]; done)
    | simp (maxDischargeDepth := 12) [*]

@[simp] theorem after_execPtRevert_memWf (q : Req) (v : W32) (st : State) (hw_ : st.mem.wf = true) : (after st (execPtRevert q v st)).mem.wf = true := by
  unfold execPtRevert
  refine after_run_memWf _ _ _ hw_ ?_
  repeat' first
    | with_reducible assumption
    | (with_reducible refine State.setupTry_memWf (hf := ?_) (hw_ := ?_) ..)
    | (simp (maxDischargeDepth := 12) [*]; done)
    | split
    | intro _
    | (simp_all [MemSt.wf_iff]; done)
    | simp (maxDischargeDepth := 12) [*]

@[simp] theorem after_execQuiesce_memWf (q : Req) (p : Nat) (on : Bool) (st : State) (hw_ : st.mem.wf = true) : (after st (execQuiesce q p on st)).mem.wf = true := by
  unfold execQuiesce
  refine after_run_memWf _ _ _ hw_ ?_
  repeat' first
    | with_reducible assumption
    | (with_reducible refine State.setupTry_memWf (hf := ?_) (hw_ := ?_) ..)
    | (simp (maxDischargeDepth := 12) [*]; done)
    | split
    | intro _
    | (simp_all [MemSt.wf_iff]; done)
    | simp (maxDischargeDepth := 12) [*]

@[simp] theorem after_execRestart_memWf (q : Req) (h : Nat) (st : State) (hw_ : st.mem.wf = true) : (after st (execRestart q h st)).mem.wf = true := by
  unfold execRestart
  refine after_run_memWf _ _ _ hw_ ?_
  repeat' first
    | with_reducible assumption
    | (with_reducible refine State.setupTry_memWf (hf := ?_) (hw_ := ?_) ..)
    | (simp (maxDischargeDepth := 12) [*]; done)
    | split
    | intro _
    | (simp_all [MemSt.wf_iff]; done)
    | simp (maxDischargeDepth := 12) [*]

@[simp] theorem after_execRetireCmd_memWf (q : Req) (v : W32) (st : State) (hw_ : st.mem.wf = true) : (after st (execRetireCmd q v st)).mem.wf = true := by
  unfold execRetireCmd
  refine after_run_memWf _ _ _ hw_ ?_
  repeat' first
    | with_reducible assumption
    | (with_reducible refine State.setupTry_memWf (hf := ?_) (hw_ := ?_) ..)
    | (with_reducible refine State.retireCmd_memWf (hw_ := ?_) ..)
    | (simp (maxDischargeDepth := 12) [*]; done)
    | split
    | intro _
    | (simp_all [MemSt.wf_iff]; done)
    | simp (maxDischargeDepth := 12) [*]

@[simp] theorem after_execRetrain_memWf (q : Req) (l : Nat) (st : State) (hw_ : st.mem.wf = true) : (after st (execRetrain q l st)).mem.wf = true := by
  unfold execRetrain
  refine after_run_memWf _ _ _ hw_ ?_
  repeat' first
    | with_reducible assumption
    | (with_reducible refine State.setupTry_memWf (hf := ?_) (hw_ := ?_) ..)
    | (simp (maxDischargeDepth := 12) [*]; done)
    | split
    | intro _
    | (simp_all [MemSt.wf_iff]; done)
    | simp (maxDischargeDepth := 12) [*]

@[simp] theorem after_execRingAbort_memWf (q : Req) (p r : Nat) (st : State) (hw_ : st.mem.wf = true) : (after st (execRingAbort q p r st)).mem.wf = true := by
  unfold execRingAbort
  refine after_run_memWf _ _ _ hw_ ?_
  repeat' first
    | with_reducible assumption
    | (with_reducible refine State.ringWrite_memWf (hf := ?_) (hw_ := ?_) ..)
    | (with_reducible refine State.endItemSoft_memWf (hw_ := ?_) ..)
    | (with_reducible refine foldl_memWf _ ?_ _ _ ?_)
    | (with_reducible refine foldl_memW (fun r : Acs => r.s) _ (fun b_ a_ h_ => ?_) _ _ ?_ <;> try dsimp only at *)
    | (with_reducible refine foldl_memW (fun r : Got => r.s) _ (fun b_ a_ h_ => ?_) _ _ ?_ <;> try dsimp only at *)
    | (with_reducible refine foldl_memW (fun r : InjRead => r.s) _ (fun b_ a_ h_ => ?_) _ _ ?_ <;> try dsimp only at *)
    | (with_reducible refine foldl_memW (fun r : JForm => r.s) _ (fun b_ a_ h_ => ?_) _ _ ?_ <;> try dsimp only at *)
    | (with_reducible refine foldl_memW (fun r : JWr => r.s) _ (fun b_ a_ h_ => ?_) _ _ ?_ <;> try dsimp only at *)
    | (with_reducible refine foldl_memW (fun r : Move => r.s) _ (fun b_ a_ h_ => ?_) _ _ ?_ <;> try dsimp only at *)
    | (with_reducible refine foldl_memW (fun r : NearRes => r.s) _ (fun b_ a_ h_ => ?_) _ _ ?_ <;> try dsimp only at *)
    | (with_reducible refine foldl_memW (fun r : Res => r.s) _ (fun b_ a_ h_ => ?_) _ _ ?_ <;> try dsimp only at *)
    | (with_reducible refine foldl_memW (fun r : WrRes => r.s) _ (fun b_ a_ h_ => ?_) _ _ ?_ <;> try dsimp only at *)
    | (with_reducible refine foldl_memW (fun r : State × _ => r.1) _ (fun b_ a_ h_ => ?_) _ _ ?_ <;> try dsimp only at *)
    | (simp (maxDischargeDepth := 12) [*]; done)
    | split
    | intro _
    | (simp_all [MemSt.wf_iff]; done)
    | simp (maxDischargeDepth := 12) [*]

@[simp] theorem after_execRingDisable_memWf (q : Req) (p r : Nat) (st : State) (hw_ : st.mem.wf = true) : (after st (execRingDisable q p r st)).mem.wf = true := by
  unfold execRingDisable
  refine after_run_memWf _ _ _ hw_ ?_
  repeat' first
    | with_reducible assumption
    | (with_reducible refine State.ringWrite_memWf (hf := ?_) (hw_ := ?_) ..)
    | (simp (maxDischargeDepth := 12) [*]; done)
    | split
    | intro _
    | (simp_all [MemSt.wf_iff]; done)
    | simp (maxDischargeDepth := 12) [*]

@[simp] theorem after_execRingEnable_memWf (q : Req) (p r : Nat) (st : State) (hw_ : st.mem.wf = true) : (after st (execRingEnable q p r st)).mem.wf = true := by
  unfold execRingEnable
  refine after_run_memWf _ _ _ hw_ ?_
  repeat' first
    | with_reducible assumption
    | (with_reducible refine State.ringWrite_memWf (hf := ?_) (hw_ := ?_) ..)
    | (simp (maxDischargeDepth := 12) [*]; done)
    | split
    | intro _
    | (simp_all [MemSt.wf_iff]; done)
    | simp (maxDischargeDepth := 12) [*]

@[simp] theorem after_execSalvage_memWf (q : Req) (v : W32) (st : State) (hw_ : st.mem.wf = true) : (after st (execSalvage q v st)).mem.wf = true := by
  unfold execSalvage
  refine after_run_memWf _ _ _ hw_ ?_
  repeat' first
    | with_reducible assumption
    | (with_reducible refine State.setupTry_memWf (hf := ?_) (hw_ := ?_) ..)
    | (simp (maxDischargeDepth := 12) [*]; done)
    | split
    | intro _
    | (simp_all [MemSt.wf_iff]; done)
    | simp (maxDischargeDepth := 12) [*]

@[simp] theorem after_execSelrptrWrite_memWf (q : Req) (s : Nat) (v : Word) (st : State) (hw_ : st.mem.wf = true) : (after st (execSelrptrWrite q s v st)).mem.wf = true := by
  unfold execSelrptrWrite
  refine after_run_memWf _ _ _ hw_ ?_
  repeat' first
    | with_reducible assumption
    | (with_reducible refine State.stallTry_memWf (hf := ?_) (hw_ := ?_) ..)
    | (with_reducible refine State.selRptr_memWf (hw_ := ?_) ..)
    | (simp (maxDischargeDepth := 12) [*]; done)
    | split
    | intro _
    | (simp_all [MemSt.wf_iff]; done)
    | simp (maxDischargeDepth := 12) [*]

@[simp] theorem after_execUnloadModel_memWf (q : Req) (p : Nat) (v : Word) (st : State) (hw_ : st.mem.wf = true) : (after st (execUnloadModel q p v st)).mem.wf = true := by
  unfold execUnloadModel
  refine after_run_memWf _ _ _ hw_ ?_
  repeat' first
    | with_reducible assumption
    | (simp (maxDischargeDepth := 12) [*]; done)
    | split
    | intro _
    | (simp_all [MemSt.wf_iff]; done)
    | simp (maxDischargeDepth := 12) [*]

@[simp] theorem after_execVsetWrite_memWf (q : Req) (rail : Nat) (v : W32) (st : State) (hw_ : st.mem.wf = true) : (after st (execVsetWrite q rail v st)).mem.wf = true := by
  unfold execVsetWrite
  refine after_run_memWf _ _ _ hw_ ?_
  repeat' first
    | with_reducible assumption
    | (with_reducible refine State.setupTry_memWf (hf := ?_) (hw_ := ?_) ..)
    | (simp (maxDischargeDepth := 12) [*]; done)
    | split
    | intro _
    | (simp_all [MemSt.wf_iff]; done)
    | simp (maxDischargeDepth := 12) [*]

@[simp] theorem after_execWarmReset_memWf (q : Req) (f : Find) (st : State) (hw_ : st.mem.wf = true) : (after st (execWarmReset q f st)).mem.wf = true := by
  unfold execWarmReset
  refine after_run_memWf _ _ _ hw_ ?_
  repeat' first
    | with_reducible assumption
    | (with_reducible refine State.setupTry_memWf (hf := ?_) (hw_ := ?_) ..)
    | (with_reducible refine State.resetStart_memWf (hw_ := ?_) ..)
    | (simp (maxDischargeDepth := 12) [*]; done)
    | split
    | intro _
    | (simp_all [MemSt.wf_iff]; done)
    | simp (maxDischargeDepth := 12) [*]

@[simp] theorem State.refuse_mem (s : State) (q : Req) (off : Nat) :
    (State.refuse s q off).mem = s.mem := by
  unfold State.refuse
  repeat' first
    | with_reducible rfl
    | (simp; done)
    | split
    | intro _
    | simp

@[simp] theorem orElse_mem (s : State) (q : Req) (off : Nat) (ok : Bool) (f : State → State) (hf : ∀ x0, (f x0).mem = x0.mem) :
    (orElse s q off ok f).mem = s.mem := by
  unfold orElse
  repeat' first
    | with_reducible rfl
    | exact hf ..
    | (simp; done)
    | split
    | intro _
    | simp

@[simp] theorem orElse_memWf (s : State) (q : Req) (off : Nat) (ok : Bool) (f : State → State) (hf : ∀ x0, x0.mem.wf = true → (f x0).mem.wf = true) (hw_ : s.mem.wf = true) :
    (orElse s q off ok f).mem.wf = true := by
  unfold orElse
  repeat' first
    | with_reducible assumption
    | (with_reducible refine hf _ ?_)
    | (with_reducible refine hf _ _ ?_)
    | (with_reducible refine hf _ _ _ ?_)
    | (simp (maxDischargeDepth := 12) [*]; done)
    | split
    | intro _
    | (simp_all [MemSt.wf_iff]; done)
    | simp (maxDischargeDepth := 12) [*]

@[simp] theorem State.store64_mem (s : State) (off : Nat) (v : Word) (lo hi : Bool) (mask : Word) :
    (State.store64 s off v lo hi mask).mem = s.mem := by
  unfold State.store64
  repeat' first
    | with_reducible rfl
    | (simp; done)
    | split
    | intro _
    | simp

@[simp] theorem State.cvcfgWrite_memWf (s : State) (v : Word)  (hw_ : s.mem.wf = true) :
    (State.cvcfgWrite s v).mem.wf = true := by
  unfold State.cvcfgWrite
  repeat' first
    | with_reducible assumption
    | (with_reducible refine State.convsLost_memWf (hw_ := ?_) ..)
    | (simp (maxDischargeDepth := 12) [*]; done)
    | split
    | intro _
    | (simp_all [MemSt.wf_iff]; done)
    | simp (maxDischargeDepth := 12) [*]

@[simp] theorem State.cvportWrite_memWf (s : State) (k : Nat) (v : W32)  (hw_ : s.mem.wf = true) :
    (State.cvportWrite s k v).mem.wf = true := by
  unfold State.cvportWrite
  repeat' first
    | with_reducible assumption
    | (with_reducible refine State.portDown_memWf (hw_ := ?_) ..)
    | (simp (maxDischargeDepth := 12) [*]; done)
    | split
    | intro _
    | (simp_all [MemSt.wf_iff]; done)
    | simp (maxDischargeDepth := 12) [*]

@[simp] theorem State.cvRegWrite_memWf (s : State) (q : Req) (off : Nat) (v : W32)  (hw_ : s.mem.wf = true) :
    (State.cvRegWrite s q off v).mem.wf = true := by
  unfold State.cvRegWrite
  repeat' first
    | with_reducible assumption
    | (with_reducible refine orElse_memWf (hf := ?_) (hw_ := ?_) ..)
    | (with_reducible refine after_execPeerctlWrite_memWf (hw_ := ?_) ..)
    | (with_reducible refine after_execPeeridxWrite_memWf (hw_ := ?_) ..)
    | (with_reducible refine State.cvportWrite_memWf (hw_ := ?_) ..)
    | (simp (maxDischargeDepth := 12) [*]; done)
    | split
    | intro _
    | (simp_all [MemSt.wf_iff]; done)
    | simp (maxDischargeDepth := 12) [*]

@[simp] theorem State.fwctlWrite_memWf (s : State) (q : Req) (v : W32)  (hw_ : s.mem.wf = true) :
    (State.fwctlWrite s q v).mem.wf = true := by
  unfold State.fwctlWrite
  repeat' first
    | with_reducible assumption
    | (with_reducible refine orElse_memWf (hf := ?_) (hw_ := ?_) ..)
    | (with_reducible refine after_execFwCancel_memWf (hw_ := ?_) ..)
    | (with_reducible refine after_execFwConfirm_memWf (hw_ := ?_) ..)
    | (simp (maxDischargeDepth := 12) [*]; done)
    | split
    | intro _
    | (simp_all [MemSt.wf_iff]; done)
    | simp (maxDischargeDepth := 12) [*]

@[simp] theorem State.ledgercfgWrite_memWf (s : State) (q : Req) (v : W32)  (hw_ : s.mem.wf = true) :
    (State.ledgercfgWrite s q v).mem.wf = true := by
  unfold State.ledgercfgWrite
  repeat' first
    | with_reducible assumption
    | (with_reducible refine orElse_memWf (hf := ?_) (hw_ := ?_) ..)
    | (with_reducible refine after_execLedgerFlush_memWf (hw_ := ?_) ..)
    | (simp (maxDischargeDepth := 12) [*]; done)
    | split
    | intro _
    | (simp_all [MemSt.wf_iff]; done)
    | simp (maxDischargeDepth := 12) [*]

@[simp] theorem State.gateWrite_memWf (s : State) (q : Req) (f : Find) (off : Nat) (v : W32)  (hw_ : s.mem.wf = true) :
    (State.gateWrite s q f off v).mem.wf = true := by
  unfold State.gateWrite
  repeat' first
    | with_reducible assumption
    | (with_reducible refine orElse_memWf (hf := ?_) (hw_ := ?_) ..)
    | (with_reducible refine after_execBootcfgWrite_memWf (hw_ := ?_) ..)
    | (with_reducible refine after_execHeartbeat_memWf (hw_ := ?_) ..)
    | (with_reducible refine after_execRetireCmd_memWf (hw_ := ?_) ..)
    | (with_reducible refine after_execRetrain_memWf (hw_ := ?_) ..)
    | (with_reducible refine after_execSalvage_memWf (hw_ := ?_) ..)
    | (with_reducible refine after_execWarmReset_memWf (hw_ := ?_) ..)
    | (with_reducible refine State.cvRegWrite_memWf (hw_ := ?_) ..)
    | (with_reducible refine State.fwctlWrite_memWf (hw_ := ?_) ..)
    | (with_reducible refine State.ledgercfgWrite_memWf (hw_ := ?_) ..)
    | (simp (maxDischargeDepth := 12) [*]; done)
    | split
    | intro _
    | (simp_all [MemSt.wf_iff]; done)
    | simp (maxDischargeDepth := 12) [*]

@[simp] theorem State.msixWrite_mem (s : State) (q : Req) (off : Nat) (v : W32) :
    (State.msixWrite s q off v).mem = s.mem := by
  unfold State.msixWrite
  repeat' first
    | with_reducible rfl
    | (simp; done)
    | split
    | intro _
    | simp

@[simp] theorem State.pctlWrite_memWf (s : State) (q : Req) (p : Nat) (v : W32)  (hw_ : s.mem.wf = true) :
    (State.pctlWrite s q p v).mem.wf = true := by
  unfold State.pctlWrite
  repeat' first
    | with_reducible assumption
    | (with_reducible refine after_execPitchReset_memWf (hw_ := ?_) ..)
    | (with_reducible refine after_execQuiesce_memWf (hw_ := ?_) ..)
    | (simp (maxDischargeDepth := 12) [*]; done)
    | split
    | intro _
    | (simp_all [MemSt.wf_iff]; done)
    | simp (maxDischargeDepth := 12) [*]

@[simp] theorem State.pitchWrite_memWf (s : State) (q : Req) (off : Nat) (v : W32)  (hw_ : s.mem.wf = true) :
    (State.pitchWrite s q off v).mem.wf = true := by
  unfold State.pitchWrite
  repeat' first
    | with_reducible assumption
    | (with_reducible refine orElse_memWf (hf := ?_) (hw_ := ?_) ..)
    | (with_reducible refine after_execPtCommit_memWf (hw_ := ?_) ..)
    | (with_reducible refine after_execPtRevert_memWf (hw_ := ?_) ..)
    | (with_reducible refine State.pctlWrite_memWf (hw_ := ?_) ..)
    | (simp (maxDischargeDepth := 12) [*]; done)
    | split
    | intro _
    | (simp_all [MemSt.wf_iff]; done)
    | simp (maxDischargeDepth := 12) [*]

@[simp] theorem State.pitchWrite64_mem (s : State) (q : Req) (off : Nat) (v : Word) (lo hi : Bool) :
    (State.pitchWrite64 s q off v lo hi).mem = s.mem := by
  unfold State.pitchWrite64
  repeat' first
    | with_reducible rfl
    | (simp; done)
    | split
    | intro _
    | (with_reducible refine (orElse_mem (hf := ?_) ..).trans ?_)
    | simp

@[simp] theorem State.ringctlWrite_memWf (s : State) (q : Req) (p r : Nat) (v : W32)  (hw_ : s.mem.wf = true) :
    (State.ringctlWrite s q p r v).mem.wf = true := by
  unfold State.ringctlWrite
  repeat' first
    | with_reducible assumption
    | (with_reducible refine after_execRingAbort_memWf (hw_ := ?_) ..)
    | (with_reducible refine after_execRingDisable_memWf (hw_ := ?_) ..)
    | (with_reducible refine after_execRingEnable_memWf (hw_ := ?_) ..)
    | (simp (maxDischargeDepth := 12) [*]; done)
    | split
    | intro _
    | (simp_all [MemSt.wf_iff]; done)
    | simp (maxDischargeDepth := 12) [*]

@[simp] theorem State.blockWrite_memWf (s : State) (q : Req) (p x : Nat) (v : W32)  (hw_ : s.mem.wf = true) :
    (State.blockWrite s q p x v).mem.wf = true := by
  unfold State.blockWrite
  repeat' first
    | with_reducible assumption
    | (with_reducible refine orElse_memWf (hf := ?_) (hw_ := ?_) ..)
    | (with_reducible refine after_execHandleWrite_memWf (hw_ := ?_) ..)
    | (with_reducible refine after_execJcancel_memWf (hw_ := ?_) ..)
    | (with_reducible refine State.ringctlWrite_memWf (hw_ := ?_) ..)
    | (simp (maxDischargeDepth := 12) [*]; done)
    | split
    | intro _
    | (simp_all [MemSt.wf_iff]; done)
    | simp (maxDischargeDepth := 12) [*]

@[simp] theorem State.blockWrite64_memWf (s : State) (q : Req) (p x : Nat) (v : Word) (lo hi : Bool)  (hw_ : s.mem.wf = true) :
    (State.blockWrite64 s q p x v lo hi).mem.wf = true := by
  unfold State.blockWrite64
  repeat' first
    | with_reducible assumption
    | (with_reducible refine orElse_memWf (hf := ?_) (hw_ := ?_) ..)
    | (with_reducible refine after_execLoadModel_memWf (hw_ := ?_) ..)
    | (with_reducible refine after_execUnloadModel_memWf (hw_ := ?_) ..)
    | (simp (maxDischargeDepth := 12) [*]; done)
    | split
    | intro _
    | (simp_all [MemSt.wf_iff]; done)
    | simp (maxDischargeDepth := 12) [*]

@[simp] theorem State.modcmdWrite_memWf (s : State) (q : Req) (m : Nat) (v : W32)  (hw_ : s.mem.wf = true) :
    (State.modcmdWrite s q m v).mem.wf = true := by
  unfold State.modcmdWrite
  split
  · exact after_execDisplace_memWf (hw_ := hw_) ..
  · exact after_execPowerdown_memWf (hw_ := hw_) ..
  · exact after_execPowerup_memWf (hw_ := hw_) ..
  · exact after_execModuleRestore_memWf (hw_ := hw_) ..
  · exact State.modCmd_memWf (hf := fun _ h => h) (hw_ := hw_) ..

@[simp] theorem State.thctlWrite_memWf (s : State) (q : Req) (h : Nat) (v : W32)  (hw_ : s.mem.wf = true) :
    (State.thctlWrite s q h v).mem.wf = true := by
  unfold State.thctlWrite
  repeat' first
    | with_reducible assumption
    | (with_reducible refine orElse_memWf (hf := ?_) (hw_ := ?_) ..)
    | (with_reducible refine after_execRestart_memWf (hw_ := ?_) ..)
    | (simp (maxDischargeDepth := 12) [*]; done)
    | split
    | intro _
    | (simp_all [MemSt.wf_iff]; done)
    | simp (maxDischargeDepth := 12) [*]

@[simp] theorem State.farWrite_memWf (s : State) (q : Req) (off : Nat) (v : W32)  (hw_ : s.mem.wf = true) :
    (State.farWrite s q off v).mem.wf = true := by
  unfold State.farWrite
  repeat' first
    | with_reducible assumption
    | (with_reducible refine orElse_memWf (hf := ?_) (hw_ := ?_) ..)
    | (with_reducible refine after_execHallRefCmd_memWf (hw_ := ?_) ..)
    | (with_reducible refine State.modcmdWrite_memWf (hw_ := ?_) ..)
    | (with_reducible refine State.thctlWrite_memWf (hw_ := ?_) ..)
    | (simp (maxDischargeDepth := 12) [*]; done)
    | split
    | intro _
    | (simp_all [MemSt.wf_iff]; done)
    | simp (maxDischargeDepth := 12) [*]

@[simp] theorem State.farWrite64_memWf (s : State) (q : Req) (off : Nat) (v : Word) (lo : Bool)  (hw_ : s.mem.wf = true) :
    (State.farWrite64 s q off v lo).mem.wf = true := by
  unfold State.farWrite64
  repeat' first
    | with_reducible assumption
    | (with_reducible refine after_execVsetWrite_memWf (hw_ := ?_) ..)
    | (simp (maxDischargeDepth := 12) [*]; done)
    | split
    | intro _
    | (simp_all [MemSt.wf_iff]; done)
    | simp (maxDischargeDepth := 12) [*]

@[simp] theorem State.jostleWrite_mem (s : State) (q : Req) (off : Nat) (v : W32) :
    (State.jostleWrite s q off v).mem = s.mem := by
  unfold State.jostleWrite
  repeat' first
    | with_reducible rfl
    | (simp; done)
    | split
    | intro _
    | (with_reducible refine (orElse_mem (hf := ?_) ..).trans ?_)
    | simp

@[simp] theorem State.obsWrite_memWf (s : State) (q : Req) (off : Nat) (v : W32)  (hw_ : s.mem.wf = true) :
    (State.obsWrite s q off v).mem.wf = true := by
  unfold State.obsWrite
  repeat' first
    | with_reducible assumption
    | (with_reducible refine after_execJostleUnlock_memWf (hw_ := ?_) ..)
    | (with_reducible refine after_execMcommit_memWf (hw_ := ?_) ..)
    | (with_reducible refine foldl_memWf _ ?_ _ _ ?_)
    | (with_reducible refine foldl_memW (fun r : Acs => r.s) _ (fun b_ a_ h_ => ?_) _ _ ?_ <;> try dsimp only at *)
    | (with_reducible refine foldl_memW (fun r : Got => r.s) _ (fun b_ a_ h_ => ?_) _ _ ?_ <;> try dsimp only at *)
    | (with_reducible refine foldl_memW (fun r : InjRead => r.s) _ (fun b_ a_ h_ => ?_) _ _ ?_ <;> try dsimp only at *)
    | (with_reducible refine foldl_memW (fun r : JForm => r.s) _ (fun b_ a_ h_ => ?_) _ _ ?_ <;> try dsimp only at *)
    | (with_reducible refine foldl_memW (fun r : JWr => r.s) _ (fun b_ a_ h_ => ?_) _ _ ?_ <;> try dsimp only at *)
    | (with_reducible refine foldl_memW (fun r : Move => r.s) _ (fun b_ a_ h_ => ?_) _ _ ?_ <;> try dsimp only at *)
    | (with_reducible refine foldl_memW (fun r : NearRes => r.s) _ (fun b_ a_ h_ => ?_) _ _ ?_ <;> try dsimp only at *)
    | (with_reducible refine foldl_memW (fun r : Res => r.s) _ (fun b_ a_ h_ => ?_) _ _ ?_ <;> try dsimp only at *)
    | (with_reducible refine foldl_memW (fun r : WrRes => r.s) _ (fun b_ a_ h_ => ?_) _ _ ?_ <;> try dsimp only at *)
    | (with_reducible refine foldl_memW (fun r : State × _ => r.1) _ (fun b_ a_ h_ => ?_) _ _ ?_ <;> try dsimp only at *)
    | (simp (maxDischargeDepth := 12) [*]; done)
    | split
    | intro _
    | (simp_all [MemSt.wf_iff]; done)
    | simp (maxDischargeDepth := 12) [*]

@[simp] theorem State.obsWrite64_memWf (s : State) (q : Req) (off : Nat) (v : Word) (lo hi : Bool)  (hw_ : s.mem.wf = true) :
    (State.obsWrite64 s q off v lo hi).mem.wf = true := by
  unfold State.obsWrite64
  repeat' first
    | with_reducible assumption
    | (with_reducible refine orElse_memWf (hf := ?_) (hw_ := ?_) ..)
    | (with_reducible refine after_execJinjcfgWrite_memWf (hw_ := ?_) ..)
    | (simp (maxDischargeDepth := 12) [*]; done)
    | split
    | intro _
    | (simp_all [MemSt.wf_iff]; done)
    | simp (maxDischargeDepth := 12) [*]

@[simp] theorem State.stallctl_memWf (s : State) (n : Nat) (v : W32)  (hw_ : s.mem.wf = true) :
    (State.stallctl s n v).mem.wf = true := by
  unfold State.stallctl
  repeat' first
    | with_reducible assumption
    | (with_reducible refine State.haltStall_memWf (hw_ := ?_) ..)
    | (with_reducible refine State.preemptStall_memWf (hw_ := ?_) ..)
    | (simp (maxDischargeDepth := 12) [*]; done)
    | split
    | intro _
    | (simp_all [MemSt.wf_iff]; done)
    | simp (maxDischargeDepth := 12) [*]

@[simp] theorem State.arraycfgWrite_mem (s : State) (n : Nat) (v : W32) :
    (State.arraycfgWrite s n v).mem = s.mem := by
  unfold State.arraycfgWrite
  repeat' first
    | with_reducible rfl
    | (simp; done)
    | split
    | intro _
    | simp

@[simp] theorem State.arrayseedWrite_mem (s : State) (n : Nat) (v : W32) :
    (State.arrayseedWrite s n v).mem = s.mem := by
  unfold State.arrayseedWrite
  repeat' first
    | with_reducible rfl
    | (simp; done)
    | split
    | intro _
    | simp

@[simp] theorem State.slicecfgWrite_mem (s : State) (n : Nat) (v : W32) :
    (State.slicecfgWrite s n v).mem = s.mem := by
  unfold State.slicecfgWrite
  repeat' first
    | with_reducible rfl
    | (simp; done)
    | split
    | intro _
    | simp

@[simp] theorem State.selctlWrite_memWf (s : State) (n : Nat) (v : W32)  (hw_ : s.mem.wf = true) :
    (State.selctlWrite s n v).mem.wf = true := by
  unfold State.selctlWrite
  repeat' first
    | with_reducible assumption
    | (with_reducible refine State.selStop_memWf (hw_ := ?_) ..)
    | (simp (maxDischargeDepth := 12) [*]; done)
    | split
    | intro _
    | (simp_all [MemSt.wf_iff]; done)
    | simp (maxDischargeDepth := 12) [*]

@[simp] theorem State.stallRegWrite_memWf (s : State) (q : Req) (n r : Nat) (v : W32)  (hw_ : s.mem.wf = true) :
    (State.stallRegWrite s q n r v).mem.wf = true := by
  unfold State.stallRegWrite
  repeat' first
    | with_reducible assumption
    | (with_reducible refine State.stallTry_memWf (hf := ?_) (hw_ := ?_) ..)
    | (with_reducible refine State.selCtl_memWf (hf := ?_) (hw_ := ?_) ..)
    | (with_reducible refine State.spOnly_memWf (hf := ?_) (hw_ := ?_) ..)
    | (with_reducible refine after_execIslandclkWrite_memWf (hw_ := ?_) ..)
    | (with_reducible refine State.stallctl_memWf (hw_ := ?_) ..)
    | (with_reducible refine State.selctlWrite_memWf (hw_ := ?_) ..)
    | (simp (maxDischargeDepth := 12) [*]; done)
    | split
    | intro _
    | (simp_all [MemSt.wf_iff]; done)
    | simp (maxDischargeDepth := 12) [*]

@[simp] theorem State.stallRegWrite64_memWf (s : State) (q : Req) (n r : Nat) (v : Word) (lo hi : Bool)  (hw_ : s.mem.wf = true) :
    (State.stallRegWrite64 s q n r v lo hi).mem.wf = true := by
  unfold State.stallRegWrite64
  repeat' first
    | with_reducible assumption
    | (with_reducible refine State.stallTry_memWf (hf := ?_) (hw_ := ?_) ..)
    | (with_reducible refine after_execSelrptrWrite_memWf (hw_ := ?_) ..)
    | (simp (maxDischargeDepth := 12) [*]; done)
    | split
    | intro _
    | (simp_all [MemSt.wf_iff]; done)
    | simp (maxDischargeDepth := 12) [*]

@[simp] theorem State.write32_memWf (s : State) (q : Req) (f : Find) (off : Nat) (v : W32)  (hw_ : s.mem.wf = true) :
    (State.write32 s q f off v).mem.wf = true := by
  unfold State.write32
  repeat' first
    | with_reducible assumption
    | (with_reducible refine State.gateWrite_memWf (hw_ := ?_) ..)
    | (with_reducible refine State.pitchWrite_memWf (hw_ := ?_) ..)
    | (with_reducible refine State.blockWrite_memWf (hw_ := ?_) ..)
    | (with_reducible refine State.farWrite_memWf (hw_ := ?_) ..)
    | (with_reducible refine State.obsWrite_memWf (hw_ := ?_) ..)
    | (with_reducible refine State.stallRegWrite_memWf (hw_ := ?_) ..)
    | (simp (maxDischargeDepth := 12) [*]; done)
    | split
    | intro _
    | (simp_all [MemSt.wf_iff]; done)
    | simp (maxDischargeDepth := 12) [*]

@[simp] theorem State.write64_memWf (s : State) (q : Req) (off : Nat) (v : Word) (lo hi : Bool)  (hw_ : s.mem.wf = true) :
    (State.write64 s q off v lo hi).mem.wf = true := by
  unfold State.write64
  repeat' first
    | with_reducible assumption
    | (with_reducible refine State.cvcfgWrite_memWf (hw_ := ?_) ..)
    | (with_reducible refine State.blockWrite64_memWf (hw_ := ?_) ..)
    | (with_reducible refine State.farWrite64_memWf (hw_ := ?_) ..)
    | (with_reducible refine State.obsWrite64_memWf (hw_ := ?_) ..)
    | (with_reducible refine State.stallRegWrite64_memWf (hw_ := ?_) ..)
    | (simp (maxDischargeDepth := 12) [*]; done)
    | split
    | intro _
    | (simp_all [MemSt.wf_iff]; done)
    | simp (maxDischargeDepth := 12) [*]

@[simp] theorem State.rawWrite_memWf (s : State) (q : Req) (f : Find) (off size : Nat) (v : Word)  (hw_ : s.mem.wf = true) :
    (State.rawWrite s q f off size v).mem.wf = true := by
  unfold State.rawWrite
  repeat' first
    | with_reducible assumption
    | (with_reducible refine State.write32_memWf (hw_ := ?_) ..)
    | (with_reducible refine State.write64_memWf (hw_ := ?_) ..)
    | (simp (maxDischargeDepth := 12) [*]; done)
    | split
    | intro _
    | (simp_all [MemSt.wf_iff]; done)
    | simp (maxDischargeDepth := 12) [*]

theorem State.tryWrite_memWf (s : State) (q : Req) (f : Find) (off size : Nat) (v : Word) {t_ : State}  (hx_ : State.tryWrite s q f off size v = some t_) (hw_ : s.mem.wf = true) :
    t_.mem.wf = true := by
  unfold State.tryWrite at hx_
  split at hx_
  · cases hx_
  extract_lets r t at hx_
  have ht : t.mem.wf = true := State.rawWrite_memWf (hw_ := by simp [hw_]) ..
  clear_value t
  split at hx_
  · cases hx_
  split at hx_
  · cases hx_; exact ht
  split at hx_
  · cases hx_; exact ht
  · cases hx_; exact ht

end Sys2Proof.Machine
end

