-- ==== Sys2Proof/Laws/MemoryRegs.lean ====
section
/-!
SUPPORT. The operations of Regs.lean leave memory as it is, or keep its canonical form.
-/
namespace Sys2Proof.Machine

@[simp] theorem after_execHeadDoorbell_memWf (q : Req) (p r : Nat) (v : W32) (st : State) (hw_ : st.mem.wf = true) : (after st (execHeadDoorbell q p r v st)).mem.wf = true := by
  unfold execHeadDoorbell
  refine after_run_memWf _ _ _ hw_ ?_
  repeat' first
    | with_reducible assumption
    | (simp (maxDischargeDepth := 12) [*]; done)
    | split
    | intro _
    | (simp_all [MemSt.wf_iff]; done)
    | simp (maxDischargeDepth := 12) [*]

@[simp] theorem after_execTailDoorbell_memWf (q : Req) (p r : Nat) (v : W32) (stores : List Host.Cell) (st : State) (hw_ : st.mem.wf = true) : (after st (execTailDoorbell q p r v stores st)).mem.wf = true := by
  unfold execTailDoorbell
  refine after_run_memWf _ _ _ hw_ ?_
  repeat' first
    | with_reducible assumption
    | (with_reducible refine State.wrHost_memWf (hw_ := ?_) ..)
    | (with_reducible refine foldl_memWf _ ?_ _ _ ?_)
    | (with_reducible refine foldl_memW (fun r : Acs => r.s) _ (fun b_ a_ h_ => ?_) _ _ ?_ <;> try dsimp only at *)
    | (with_reducible refine foldl_memW (fun r : Got => r.s) _ (fun b_ a_ h_ => ?_) _ _ ?_ <;> try dsimp only at *)
    | (with_reducible refine foldl_memW (fun r : InjRead => r.s) _ (fun b_ a_ h_ => ?_) _ _ ?_ <;> try dsimp only at *)
    | (with_reducible refine foldl_memW (fun r : JForm => r.s) _ (fun b_ a_ h_ => ?_) _ _ ?_ <;> try dsimp only at *)
    | (with_reducible refine foldl_memW (fun r : JWr => r.s) _ (fun b_ a_ h_ => ?_) _ _ ?_ <;> try dsimp only at *)
    | (with_reducible refine foldl_memW (fun r : Move => r.s) _ (fun b_ a_ h_ => ?_) _ _ ?_ <;> try dsimp only at *)
    | (with_reducible refine foldl_memW (fun r : NearRes => r.s) _ (fun b_ a_ h_ => ?_) _ _ ?_ <;> try dsimp only at *)
    | (with_reducible refine foldl_memW (fun r : Res => r.s) _ (fun b_ a_ h_ => ?_) _ _ ?_ <;> try dsimp only at *)
    | (with_reducible refine foldl_memW (fun r : WrRes => r.s) _ (fun b_ a_ h_ => ?_) _ _ ?_ <;> try dsimp only at *)
    | (with_reducible refine foldl_memW (fun r : State × _ => r.1) _ (fun b_ a_ h_ => ?_) _ _ ?_ <;> try dsimp only at *)
    | (simp (maxDischargeDepth := 12) [*]; done)
    | split
    | intro _
    | (simp_all [MemSt.wf_iff]; done)
    | simp (maxDischargeDepth := 12) [*]

@[simp] theorem after_execWabort_memWf (q : Req) (p n : Nat) (v : W32) (st : State) (hw_ : st.mem.wf = true) : (after st (execWabort q p n v st)).mem.wf = true := by
  unfold execWabort
  refine after_run_memWf _ _ _ hw_ ?_
  repeat' first
    | with_reducible assumption
    | (with_reducible refine State.slotFinish_memWf (hw_ := ?_) ..)
    | (simp (maxDischargeDepth := 12) [*]; done)
    | split
    | intro _
    | (simp_all [MemSt.wf_iff]; done)
    | simp (maxDischargeDepth := 12) [*]

@[simp] theorem State.readTouch_mem (s : State) (q : Req) (off : Nat) :
    (State.readTouch s q off).mem = s.mem := by
  unfold State.readTouch
  repeat' first
    | with_reducible rfl
    | (simp; done)
    | split
    | intro _
    | simp

@[simp] theorem State.readBar0_mem (s : State) (q : Req) (off size : Nat) :
    (State.readBar0 s q off size).1.mem = s.mem := by
  unfold State.readBar0
  repeat' first
    | with_reducible rfl
    | (simp; done)
    | split
    | intro _
    | (with_reducible refine (State.wide_mem (hf := ?_) ..).trans ?_)
    | simp

@[simp] theorem State.readBar4_mem (s : State) (q : Req) (off size : Nat) :
    (State.readBar4 s q off size).1.mem = s.mem := by
  unfold State.readBar4
  repeat' first
    | with_reducible rfl
    | (simp; done)
    | split
    | intro _
    | (with_reducible refine (State.wide_mem (hf := ?_) ..).trans ?_)
    | simp

@[simp] theorem State.writeBar4_memWf (s : State) (q : Req) (off size : Nat) (v : Word)  (hw_ : s.mem.wf = true) :
    (State.writeBar4 s q off size v).mem.wf = true := by
  unfold State.writeBar4
  split
  · exact hw_
  extract_lets n x d
  clear_value n x d
  split
  · exact hw_
  split
  · exact after_execWabort_memWf (hw_ := hw_) ..
  split
  · exact State.wcmd_memWf (hw_ := hw_) ..
  split
  · exact hw_
  split
  · rw [State.winErr_mem]; exact hw_
  split
  · exact hw_
  split
  · rw [State.updSlot_mem]; exact hw_
  split
  · rw [State.updSlot_mem]; exact hw_
  · rw [State.updSlot_mem]; exact hw_

@[simp] theorem State.writeBar2_memWf (s : State) (q : Req) (off : Nat) (v : Word)  (hw_ : s.mem.wf = true) :
    (State.writeBar2 s q off v).mem.wf = true := by
  unfold State.writeBar2
  repeat' first
    | with_reducible assumption
    | (with_reducible refine after_execHeadDoorbell_memWf (hw_ := ?_) ..)
    | (with_reducible refine after_execTailDoorbell_memWf (hw_ := ?_) ..)
    | (simp (maxDischargeDepth := 12) [*]; done)
    | split
    | intro _
    | (simp_all [MemSt.wf_iff]; done)
    | simp (maxDischargeDepth := 12) [*]

@[simp] theorem State.badAccess_mem (s : State) (q : Req) (bar off bytes : Nat) (wr : Bool) :
    (State.badAccess s q bar off bytes wr).mem = s.mem := by
  unfold State.badAccess
  repeat' first
    | with_reducible rfl
    | (simp; done)
    | split
    | intro _
    | simp

@[simp] theorem State.barRead_mem (s : State) (q : Req) (bar off size : Nat) :
    (State.barRead s q bar off size).mem = s.mem := by
  unfold State.barRead
  repeat' first
    | with_reducible rfl
    | (simp; done)
    | split
    | intro _
    | simp

@[simp] theorem State.bar0Write_memWf (s : State) (q : Req) (f : Find) (off size : Nat) (v : Word)  (hw_ : s.mem.wf = true) :
    (State.bar0Write s q f off size v).mem.wf = true := by
  unfold State.bar0Write
  repeat' first
    | with_reducible assumption
    | (with_reducible refine State.tryWrite_memWf (hx_ := ‹_›) (hw_ := ?_) ..)
    | (simp (maxDischargeDepth := 12) [*]; done)
    | split
    | intro _
    | (simp_all [MemSt.wf_iff]; done)
    | simp (maxDischargeDepth := 12) [*]

@[simp] theorem State.barWrite_memWf (s : State) (q : Req) (f : Find) (bar off size : Nat) (v : Word)  (hw_ : s.mem.wf = true) :
    (State.barWrite s q f bar off size v).mem.wf = true := by
  unfold State.barWrite
  split
  · rw [State.foreignWrite_mem]; exact hw_
  split
  · exact hw_
  split
  · rw [State.badAccess_mem]; exact hw_
  split
  · exact State.bar0Write_memWf (hw_ := hw_) ..
  split
  · exact State.writeBar4_memWf (hw_ := hw_) ..
  · exact State.writeBar2_memWf (hw_ := hw_) ..

@[simp] theorem State.crierRun_memWf (s : State) (q : Req) (f : Find) (r size : Nat) (v : Word) (l : List Nat)  (hw_ : s.mem.wf = true) :
    (State.crierRun s q f r size v l).1.mem.wf = true := by
  unfold State.crierRun
  repeat' first
    | with_reducible assumption
    | (with_reducible refine State.tryWrite_memWf (hx_ := ‹_›) (hw_ := ?_) ..)
    | (with_reducible refine foldl_memWf _ ?_ _ _ ?_)
    | (with_reducible refine foldl_memW (fun r : Acs => r.s) _ (fun b_ a_ h_ => ?_) _ _ ?_ <;> try dsimp only at *)
    | (with_reducible refine foldl_memW (fun r : Got => r.s) _ (fun b_ a_ h_ => ?_) _ _ ?_ <;> try dsimp only at *)
    | (with_reducible refine foldl_memW (fun r : InjRead => r.s) _ (fun b_ a_ h_ => ?_) _ _ ?_ <;> try dsimp only at *)
    | (with_reducible refine foldl_memW (fun r : JForm => r.s) _ (fun b_ a_ h_ => ?_) _ _ ?_ <;> try dsimp only at *)
    | (with_reducible refine foldl_memW (fun r : JWr => r.s) _ (fun b_ a_ h_ => ?_) _ _ ?_ <;> try dsimp only at *)
    | (with_reducible refine foldl_memW (fun r : Move => r.s) _ (fun b_ a_ h_ => ?_) _ _ ?_ <;> try dsimp only at *)
    | (with_reducible refine foldl_memW (fun r : NearRes => r.s) _ (fun b_ a_ h_ => ?_) _ _ ?_ <;> try dsimp only at *)
    | (with_reducible refine foldl_memW (fun r : Res => r.s) _ (fun b_ a_ h_ => ?_) _ _ ?_ <;> try dsimp only at *)
    | (with_reducible refine foldl_memW (fun r : WrRes => r.s) _ (fun b_ a_ h_ => ?_) _ _ ?_ <;> try dsimp only at *)
    | (with_reducible refine foldl_memW (fun r : State × _ => r.1) _ (fun b_ a_ h_ => ?_) _ _ ?_ <;> try dsimp only at *)
    | (simp (maxDischargeDepth := 12) [*]; done)
    | split
    | intro _
    | (simp_all [MemSt.wf_iff]; done)
    | simp (maxDischargeDepth := 12) [*]

@[simp] theorem State.crierWrite_memWf (s : State) (q : Req) (off size : Nat) (v : Word)  (hw_ : s.mem.wf = true) :
    (State.crierWrite s q off size v).mem.wf = true := by
  unfold State.crierWrite
  repeat' first
    | with_reducible assumption
    | (with_reducible refine State.crierRun_memWf (hw_ := ?_) ..)
    | (simp (maxDischargeDepth := 12) [*]; done)
    | split
    | intro _
    | (simp_all [MemSt.wf_iff]; done)
    | simp (maxDischargeDepth := 12) [*]

@[simp] theorem State.crierRead_mem (s : State) (q : Req) (off size : Nat) :
    (State.crierRead s q off size).mem = s.mem := by
  unfold State.crierRead
  repeat' first
    | with_reducible rfl
    | (simp; done)
    | split
    | intro _
    | simp

@[simp] theorem State.anyRead_mem (s : State) (q : Req) (bar off size : Nat) :
    (State.anyRead s q bar off size).mem = s.mem := by
  unfold State.anyRead
  repeat' first
    | with_reducible rfl
    | (simp; done)
    | split
    | intro _
    | simp

@[simp] theorem State.regResult_mem (s : State) (seq : Byte) (status : Nat) (v : Word) :
    (State.regResult s seq status v).mem = s.mem := by
  unfold State.regResult
  repeat' first
    | with_reducible rfl
    | (simp; done)
    | split
    | intro _
    | simp

end Sys2Proof.Machine
end

