-- ==== Sys2Proof/Laws/MemoryScalar.lean ====
section
/-!
SUPPORT. The operations of Scalar.lean leave memory as it is, or keep its canonical form.
-/
namespace Sys2Proof.Machine

@[simp] theorem State.alu_memWf (s : State) (n k : Nat) (rd ra rb : BitVec 5) (f : Word → Word → Word)  (hw_ : s.mem.wf = true) :
    (State.alu s n k rd ra rb f).mem.wf = true := by
  unfold State.alu
  repeat' first
    | with_reducible assumption
    | (with_reducible refine State.scalar_memWf (hf := ?_) (hw_ := ?_) ..)
    | (simp (maxDischargeDepth := 12) [*]; done)
    | split
    | intro _
    | (simp_all [MemSt.wf_iff]; done)
    | simp (maxDischargeDepth := 12) [*]

@[simp] theorem State.alu1_memWf (s : State) (n k : Nat) (rd ra rb : BitVec 5) (f : Word → Nat)  (hw_ : s.mem.wf = true) :
    (State.alu1 s n k rd ra rb f).mem.wf = true := by
  unfold State.alu1
  repeat' first
    | with_reducible assumption
    | (with_reducible refine State.scalar_memWf (hf := ?_) (hw_ := ?_) ..)
    | (with_reducible refine State.scalarExc_memWf (hw_ := ?_) ..)
    | (simp (maxDischargeDepth := 12) [*]; done)
    | split
    | intro _
    | (simp_all [MemSt.wf_iff]; done)
    | simp (maxDischargeDepth := 12) [*]

@[simp] theorem State.aluI_memWf (s : State) (n k : Nat) (rd ra : BitVec 5) (imm : BitVec 15) (f : Word → Word → Word)  (hw_ : s.mem.wf = true) :
    (State.aluI s n k rd ra imm f).mem.wf = true := by
  unfold State.aluI
  repeat' first
    | with_reducible assumption
    | (with_reducible refine State.scalar_memWf (hf := ?_) (hw_ := ?_) ..)
    | (simp (maxDischargeDepth := 12) [*]; done)
    | split
    | intro _
    | (simp_all [MemSt.wf_iff]; done)
    | simp (maxDischargeDepth := 12) [*]

@[simp] theorem State.shiftI_memWf (s : State) (n k : Nat) (rd ra : BitVec 5) (imm : BitVec 15) (f : Word → Nat → Word)  (hw_ : s.mem.wf = true) :
    (State.shiftI s n k rd ra imm f).mem.wf = true := by
  unfold State.shiftI
  repeat' first
    | with_reducible assumption
    | (with_reducible refine State.scalar_memWf (hf := ?_) (hw_ := ?_) ..)
    | (with_reducible refine State.scalarExc_memWf (hw_ := ?_) ..)
    | (simp (maxDischargeDepth := 12) [*]; done)
    | split
    | intro _
    | (simp_all [MemSt.wf_iff]; done)
    | simp (maxDischargeDepth := 12) [*]

end Sys2Proof.Machine
end

