-- ==== Sys2Proof/Laws/State.lean ====
section
/-!
SUPPORT. One law for each field and each basic update of State: what the update does not touch stays.
-/
namespace Sys2Proof.Machine

variable (s : State)

section
variable (n : Nat) (x : Stall)
@[simp] theorem State.setStall_at_pending : (s.setStall n x).pending = s.pending := rfl
@[simp] theorem State.setStall_at_freeCtr : (s.setStall n x).freeCtr = s.freeCtr := rfl
@[simp] theorem State.setStall_at_time : (s.setStall n x).time = s.time := rfl
@[simp] theorem State.setStall_at_out : (s.setStall n x).out = s.out := rfl
@[simp] theorem State.setStall_at_outbox : (s.setStall n x).outbox = s.outbox := rfl
@[simp] theorem State.setStall_at_setup : (s.setStall n x).setup = s.setup := rfl
@[simp] theorem State.setStall_at_shadow : (s.setStall n x).shadow = s.shadow := rfl
@[simp] theorem State.setStall_at_kept : (s.setStall n x).kept = s.kept := rfl
@[simp] theorem State.setStall_at_req : (s.setStall n x).req = s.req := rfl
@[simp] theorem State.setStall_at_port : (s.setStall n x).port = s.port := rfl
@[simp] theorem State.setStall_at_mem : (s.setStall n x).mem = s.mem := rfl
@[simp] theorem State.setStall_at_slices : (s.setStall n x).slices = s.slices := rfl
@[simp] theorem State.setStall_at_tally : (s.setStall n x).tally = s.tally := rfl
@[simp] theorem State.setStall_at_rings : (s.setStall n x).rings = s.rings := rfl
@[simp] theorem State.setStall_at_pt : (s.setStall n x).pt = s.pt := rfl
@[simp] theorem State.setStall_at_slots : (s.setStall n x).slots = s.slots := rfl
@[simp] theorem State.setStall_at_integ : (s.setStall n x).integ = s.integ := rfl
@[simp] theorem State.setStall_at_far : (s.setStall n x).far = s.far := rfl
@[simp] theorem State.setStall_at_net : (s.setStall n x).net = s.net := rfl
@[simp] theorem State.setStall_at_pwr : (s.setStall n x).pwr = s.pwr := rfl
@[simp] theorem State.setStall_at_cool : (s.setStall n x).cool = s.cool := rfl
@[simp] theorem State.setStall_at_boot : (s.setStall n x).boot = s.boot := rfl
@[simp] theorem State.setStall_at_dl : (s.setStall n x).dl = s.dl := rfl
@[simp] theorem State.setStall_at_ledger : (s.setStall n x).ledger = s.ledger := rfl
@[simp] theorem State.setStall_at_halls : (s.setStall n x).halls = s.halls := rfl
@[simp] theorem State.setStall_at_fp : (s.setStall n x).fp = s.fp := rfl
@[simp] theorem State.setStall_at_fpValid : (s.setStall n x).fpValid = s.fpValid := rfl
@[simp] theorem State.setStall_at_jfail : (s.setStall n x).jfail = s.jfail := rfl
@[simp] theorem State.setStall_at_jis : (s.setStall n x).jis = s.jis := rfl
@[simp] theorem State.setStall_at_svc : (s.setStall n x).svc = s.svc := rfl
@[simp] theorem State.setStall_at_cv : (s.setStall n x).cv = s.cv := rfl
@[simp] theorem State.setStall_at_fw : (s.setStall n x).fw = s.fw := rfl
@[simp] theorem State.setStall_at_obs : (s.setStall n x).obs = s.obs := rfl
end

section
variable (n : Nat) (f : Stall → Stall)
@[simp] theorem State.updStall_at_pending : (s.updStall n f).pending = s.pending := rfl
@[simp] theorem State.updStall_at_freeCtr : (s.updStall n f).freeCtr = s.freeCtr := rfl
@[simp] theorem State.updStall_at_time : (s.updStall n f).time = s.time := rfl
@[simp] theorem State.updStall_at_out : (s.updStall n f).out = s.out := rfl
@[simp] theorem State.updStall_at_outbox : (s.updStall n f).outbox = s.outbox := rfl
@[simp] theorem State.updStall_at_setup : (s.updStall n f).setup = s.setup := rfl
@[simp] theorem State.updStall_at_shadow : (s.updStall n f).shadow = s.shadow := rfl
@[simp] theorem State.updStall_at_kept : (s.updStall n f).kept = s.kept := rfl
@[simp] theorem State.updStall_at_req : (s.updStall n f).req = s.req := rfl
@[simp] theorem State.updStall_at_port : (s.updStall n f).port = s.port := rfl
@[simp] theorem State.updStall_at_mem : (s.updStall n f).mem = s.mem := rfl
@[simp] theorem State.updStall_at_slices : (s.updStall n f).slices = s.slices := rfl
@[simp] theorem State.updStall_at_tally : (s.updStall n f).tally = s.tally := rfl
@[simp] theorem State.updStall_at_rings : (s.updStall n f).rings = s.rings := rfl
@[simp] theorem State.updStall_at_pt : (s.updStall n f).pt = s.pt := rfl
@[simp] theorem State.updStall_at_slots : (s.updStall n f).slots = s.slots := rfl
@[simp] theorem State.updStall_at_integ : (s.updStall n f).integ = s.integ := rfl
@[simp] theorem State.updStall_at_far : (s.updStall n f).far = s.far := rfl
@[simp] theorem State.updStall_at_net : (s.updStall n f).net = s.net := rfl
@[simp] theorem State.updStall_at_pwr : (s.updStall n f).pwr = s.pwr := rfl
@[simp] theorem State.updStall_at_cool : (s.updStall n f).cool = s.cool := rfl
@[simp] theorem State.updStall_at_boot : (s.updStall n f).boot = s.boot := rfl
@[simp] theorem State.updStall_at_dl : (s.updStall n f).dl = s.dl := rfl
@[simp] theorem State.updStall_at_ledger : (s.updStall n f).ledger = s.ledger := rfl
@[simp] theorem State.updStall_at_halls : (s.updStall n f).halls = s.halls := rfl
@[simp] theorem State.updStall_at_fp : (s.updStall n f).fp = s.fp := rfl
@[simp] theorem State.updStall_at_fpValid : (s.updStall n f).fpValid = s.fpValid := rfl
@[simp] theorem State.updStall_at_jfail : (s.updStall n f).jfail = s.jfail := rfl
@[simp] theorem State.updStall_at_jis : (s.updStall n f).jis = s.jis := rfl
@[simp] theorem State.updStall_at_svc : (s.updStall n f).svc = s.svc := rfl
@[simp] theorem State.updStall_at_cv : (s.updStall n f).cv = s.cv := rfl
@[simp] theorem State.updStall_at_fw : (s.updStall n f).fw = s.fw := rfl
@[simp] theorem State.updStall_at_obs : (s.updStall n f).obs = s.obs := rfl
end

section
variable (n k : Nat) (t : Thread)
@[simp] theorem State.setThread_at_pending : (s.setThread n k t).pending = s.pending := rfl
@[simp] theorem State.setThread_at_freeCtr : (s.setThread n k t).freeCtr = s.freeCtr := rfl
@[simp] theorem State.setThread_at_time : (s.setThread n k t).time = s.time := rfl
@[simp] theorem State.setThread_at_out : (s.setThread n k t).out = s.out := rfl
@[simp] theorem State.setThread_at_outbox : (s.setThread n k t).outbox = s.outbox := rfl
@[simp] theorem State.setThread_at_setup : (s.setThread n k t).setup = s.setup := rfl
@[simp] theorem State.setThread_at_shadow : (s.setThread n k t).shadow = s.shadow := rfl
@[simp] theorem State.setThread_at_kept : (s.setThread n k t).kept = s.kept := rfl
@[simp] theorem State.setThread_at_req : (s.setThread n k t).req = s.req := rfl
@[simp] theorem State.setThread_at_port : (s.setThread n k t).port = s.port := rfl
@[simp] theorem State.setThread_at_mem : (s.setThread n k t).mem = s.mem := rfl
@[simp] theorem State.setThread_at_slices : (s.setThread n k t).slices = s.slices := rfl
@[simp] theorem State.setThread_at_tally : (s.setThread n k t).tally = s.tally := rfl
@[simp] theorem State.setThread_at_rings : (s.setThread n k t).rings = s.rings := rfl
@[simp] theorem State.setThread_at_pt : (s.setThread n k t).pt = s.pt := rfl
@[simp] theorem State.setThread_at_slots : (s.setThread n k t).slots = s.slots := rfl
@[simp] theorem State.setThread_at_integ : (s.setThread n k t).integ = s.integ := rfl
@[simp] theorem State.setThread_at_far : (s.setThread n k t).far = s.far := rfl
@[simp] theorem State.setThread_at_net : (s.setThread n k t).net = s.net := rfl
@[simp] theorem State.setThread_at_pwr : (s.setThread n k t).pwr = s.pwr := rfl
@[simp] theorem State.setThread_at_cool : (s.setThread n k t).cool = s.cool := rfl
@[simp] theorem State.setThread_at_boot : (s.setThread n k t).boot = s.boot := rfl
@[simp] theorem State.setThread_at_dl : (s.setThread n k t).dl = s.dl := rfl
@[simp] theorem State.setThread_at_ledger : (s.setThread n k t).ledger = s.ledger := rfl
@[simp] theorem State.setThread_at_halls : (s.setThread n k t).halls = s.halls := rfl
@[simp] theorem State.setThread_at_fp : (s.setThread n k t).fp = s.fp := rfl
@[simp] theorem State.setThread_at_fpValid : (s.setThread n k t).fpValid = s.fpValid := rfl
@[simp] theorem State.setThread_at_jfail : (s.setThread n k t).jfail = s.jfail := rfl
@[simp] theorem State.setThread_at_jis : (s.setThread n k t).jis = s.jis := rfl
@[simp] theorem State.setThread_at_svc : (s.setThread n k t).svc = s.svc := rfl
@[simp] theorem State.setThread_at_cv : (s.setThread n k t).cv = s.cv := rfl
@[simp] theorem State.setThread_at_fw : (s.setThread n k t).fw = s.fw := rfl
@[simp] theorem State.setThread_at_obs : (s.setThread n k t).obs = s.obs := rfl
end

section
variable (n k : Nat) (f : Thread → Thread)
@[simp] theorem State.updThread_at_pending : (s.updThread n k f).pending = s.pending := rfl
@[simp] theorem State.updThread_at_freeCtr : (s.updThread n k f).freeCtr = s.freeCtr := rfl
@[simp] theorem State.updThread_at_time : (s.updThread n k f).time = s.time := rfl
@[simp] theorem State.updThread_at_out : (s.updThread n k f).out = s.out := rfl
@[simp] theorem State.updThread_at_outbox : (s.updThread n k f).outbox = s.outbox := rfl
@[simp] theorem State.updThread_at_setup : (s.updThread n k f).setup = s.setup := rfl
@[simp] theorem State.updThread_at_shadow : (s.updThread n k f).shadow = s.shadow := rfl
@[simp] theorem State.updThread_at_kept : (s.updThread n k f).kept = s.kept := rfl
@[simp] theorem State.updThread_at_req : (s.updThread n k f).req = s.req := rfl
@[simp] theorem State.updThread_at_port : (s.updThread n k f).port = s.port := rfl
@[simp] theorem State.updThread_at_mem : (s.updThread n k f).mem = s.mem := rfl
@[simp] theorem State.updThread_at_slices : (s.updThread n k f).slices = s.slices := rfl
@[simp] theorem State.updThread_at_tally : (s.updThread n k f).tally = s.tally := rfl
@[simp] theorem State.updThread_at_rings : (s.updThread n k f).rings = s.rings := rfl
@[simp] theorem State.updThread_at_pt : (s.updThread n k f).pt = s.pt := rfl
@[simp] theorem State.updThread_at_slots : (s.updThread n k f).slots = s.slots := rfl
@[simp] theorem State.updThread_at_integ : (s.updThread n k f).integ = s.integ := rfl
@[simp] theorem State.updThread_at_far : (s.updThread n k f).far = s.far := rfl
@[simp] theorem State.updThread_at_net : (s.updThread n k f).net = s.net := rfl
@[simp] theorem State.updThread_at_pwr : (s.updThread n k f).pwr = s.pwr := rfl
@[simp] theorem State.updThread_at_cool : (s.updThread n k f).cool = s.cool := rfl
@[simp] theorem State.updThread_at_boot : (s.updThread n k f).boot = s.boot := rfl
@[simp] theorem State.updThread_at_dl : (s.updThread n k f).dl = s.dl := rfl
@[simp] theorem State.updThread_at_ledger : (s.updThread n k f).ledger = s.ledger := rfl
@[simp] theorem State.updThread_at_halls : (s.updThread n k f).halls = s.halls := rfl
@[simp] theorem State.updThread_at_fp : (s.updThread n k f).fp = s.fp := rfl
@[simp] theorem State.updThread_at_fpValid : (s.updThread n k f).fpValid = s.fpValid := rfl
@[simp] theorem State.updThread_at_jfail : (s.updThread n k f).jfail = s.jfail := rfl
@[simp] theorem State.updThread_at_jis : (s.updThread n k f).jis = s.jis := rfl
@[simp] theorem State.updThread_at_svc : (s.updThread n k f).svc = s.svc := rfl
@[simp] theorem State.updThread_at_cv : (s.updThread n k f).cv = s.cv := rfl
@[simp] theorem State.updThread_at_fw : (s.updThread n k f).fw = s.fw := rfl
@[simp] theorem State.updThread_at_obs : (s.updThread n k f).obs = s.obs := rfl
end

section
variable (h : Nat) (f : HallSt → HallSt)
@[simp] theorem State.updHall_at_pending : (s.updHall h f).pending = s.pending := rfl
@[simp] theorem State.updHall_at_freeCtr : (s.updHall h f).freeCtr = s.freeCtr := rfl
@[simp] theorem State.updHall_at_time : (s.updHall h f).time = s.time := rfl
@[simp] theorem State.updHall_at_out : (s.updHall h f).out = s.out := rfl
@[simp] theorem State.updHall_at_outbox : (s.updHall h f).outbox = s.outbox := rfl
@[simp] theorem State.updHall_at_setup : (s.updHall h f).setup = s.setup := rfl
@[simp] theorem State.updHall_at_shadow : (s.updHall h f).shadow = s.shadow := rfl
@[simp] theorem State.updHall_at_kept : (s.updHall h f).kept = s.kept := rfl
@[simp] theorem State.updHall_at_req : (s.updHall h f).req = s.req := rfl
@[simp] theorem State.updHall_at_port : (s.updHall h f).port = s.port := rfl
@[simp] theorem State.updHall_at_mem : (s.updHall h f).mem = s.mem := rfl
@[simp] theorem State.updHall_at_slices : (s.updHall h f).slices = s.slices := rfl
@[simp] theorem State.updHall_at_stalls : (s.updHall h f).stalls = s.stalls := rfl
@[simp] theorem State.updHall_at_tally : (s.updHall h f).tally = s.tally := rfl
@[simp] theorem State.updHall_at_rings : (s.updHall h f).rings = s.rings := rfl
@[simp] theorem State.updHall_at_pt : (s.updHall h f).pt = s.pt := rfl
@[simp] theorem State.updHall_at_slots : (s.updHall h f).slots = s.slots := rfl
@[simp] theorem State.updHall_at_integ : (s.updHall h f).integ = s.integ := rfl
@[simp] theorem State.updHall_at_far : (s.updHall h f).far = s.far := rfl
@[simp] theorem State.updHall_at_net : (s.updHall h f).net = s.net := rfl
@[simp] theorem State.updHall_at_pwr : (s.updHall h f).pwr = s.pwr := rfl
@[simp] theorem State.updHall_at_cool : (s.updHall h f).cool = s.cool := rfl
@[simp] theorem State.updHall_at_boot : (s.updHall h f).boot = s.boot := rfl
@[simp] theorem State.updHall_at_dl : (s.updHall h f).dl = s.dl := rfl
@[simp] theorem State.updHall_at_ledger : (s.updHall h f).ledger = s.ledger := rfl
@[simp] theorem State.updHall_at_fp : (s.updHall h f).fp = s.fp := rfl
@[simp] theorem State.updHall_at_fpValid : (s.updHall h f).fpValid = s.fpValid := rfl
@[simp] theorem State.updHall_at_jfail : (s.updHall h f).jfail = s.jfail := rfl
@[simp] theorem State.updHall_at_jis : (s.updHall h f).jis = s.jis := rfl
@[simp] theorem State.updHall_at_svc : (s.updHall h f).svc = s.svc := rfl
@[simp] theorem State.updHall_at_cv : (s.updHall h f).cv = s.cv := rfl
@[simp] theorem State.updHall_at_fw : (s.updHall h f).fw = s.fw := rfl
@[simp] theorem State.updHall_at_obs : (s.updHall h f).obs = s.obs := rfl
end

section
variable (n : Nat) (f : SliceSt → SliceSt)
@[simp] theorem State.updSlice_at_pending : (s.updSlice n f).pending = s.pending := rfl
@[simp] theorem State.updSlice_at_freeCtr : (s.updSlice n f).freeCtr = s.freeCtr := rfl
@[simp] theorem State.updSlice_at_time : (s.updSlice n f).time = s.time := rfl
@[simp] theorem State.updSlice_at_out : (s.updSlice n f).out = s.out := rfl
@[simp] theorem State.updSlice_at_outbox : (s.updSlice n f).outbox = s.outbox := rfl
@[simp] theorem State.updSlice_at_setup : (s.updSlice n f).setup = s.setup := rfl
@[simp] theorem State.updSlice_at_shadow : (s.updSlice n f).shadow = s.shadow := rfl
@[simp] theorem State.updSlice_at_kept : (s.updSlice n f).kept = s.kept := rfl
@[simp] theorem State.updSlice_at_req : (s.updSlice n f).req = s.req := rfl
@[simp] theorem State.updSlice_at_port : (s.updSlice n f).port = s.port := rfl
@[simp] theorem State.updSlice_at_mem : (s.updSlice n f).mem = s.mem := rfl
@[simp] theorem State.updSlice_at_stalls : (s.updSlice n f).stalls = s.stalls := rfl
@[simp] theorem State.updSlice_at_tally : (s.updSlice n f).tally = s.tally := rfl
@[simp] theorem State.updSlice_at_rings : (s.updSlice n f).rings = s.rings := rfl
@[simp] theorem State.updSlice_at_pt : (s.updSlice n f).pt = s.pt := rfl
@[simp] theorem State.updSlice_at_slots : (s.updSlice n f).slots = s.slots := rfl
@[simp] theorem State.updSlice_at_integ : (s.updSlice n f).integ = s.integ := rfl
@[simp] theorem State.updSlice_at_far : (s.updSlice n f).far = s.far := rfl
@[simp] theorem State.updSlice_at_net : (s.updSlice n f).net = s.net := rfl
@[simp] theorem State.updSlice_at_pwr : (s.updSlice n f).pwr = s.pwr := rfl
@[simp] theorem State.updSlice_at_cool : (s.updSlice n f).cool = s.cool := rfl
@[simp] theorem State.updSlice_at_boot : (s.updSlice n f).boot = s.boot := rfl
@[simp] theorem State.updSlice_at_dl : (s.updSlice n f).dl = s.dl := rfl
@[simp] theorem State.updSlice_at_ledger : (s.updSlice n f).ledger = s.ledger := rfl
@[simp] theorem State.updSlice_at_halls : (s.updSlice n f).halls = s.halls := rfl
@[simp] theorem State.updSlice_at_fp : (s.updSlice n f).fp = s.fp := rfl
@[simp] theorem State.updSlice_at_fpValid : (s.updSlice n f).fpValid = s.fpValid := rfl
@[simp] theorem State.updSlice_at_jfail : (s.updSlice n f).jfail = s.jfail := rfl
@[simp] theorem State.updSlice_at_jis : (s.updSlice n f).jis = s.jis := rfl
@[simp] theorem State.updSlice_at_svc : (s.updSlice n f).svc = s.svc := rfl
@[simp] theorem State.updSlice_at_cv : (s.updSlice n f).cv = s.cv := rfl
@[simp] theorem State.updSlice_at_fw : (s.updSlice n f).fw = s.fw := rfl
@[simp] theorem State.updSlice_at_obs : (s.updSlice n f).obs = s.obs := rfl
end

section
variable (p r : Nat) (f : Ring → Ring)
@[simp] theorem State.updRing_at_pending : (s.updRing p r f).pending = s.pending := rfl
@[simp] theorem State.updRing_at_freeCtr : (s.updRing p r f).freeCtr = s.freeCtr := rfl
@[simp] theorem State.updRing_at_time : (s.updRing p r f).time = s.time := rfl
@[simp] theorem State.updRing_at_out : (s.updRing p r f).out = s.out := rfl
@[simp] theorem State.updRing_at_outbox : (s.updRing p r f).outbox = s.outbox := rfl
@[simp] theorem State.updRing_at_setup : (s.updRing p r f).setup = s.setup := rfl
@[simp] theorem State.updRing_at_shadow : (s.updRing p r f).shadow = s.shadow := rfl
@[simp] theorem State.updRing_at_kept : (s.updRing p r f).kept = s.kept := rfl
@[simp] theorem State.updRing_at_req : (s.updRing p r f).req = s.req := rfl
@[simp] theorem State.updRing_at_port : (s.updRing p r f).port = s.port := rfl
@[simp] theorem State.updRing_at_mem : (s.updRing p r f).mem = s.mem := rfl
@[simp] theorem State.updRing_at_slices : (s.updRing p r f).slices = s.slices := rfl
@[simp] theorem State.updRing_at_stalls : (s.updRing p r f).stalls = s.stalls := rfl
@[simp] theorem State.updRing_at_tally : (s.updRing p r f).tally = s.tally := rfl
@[simp] theorem State.updRing_at_pt : (s.updRing p r f).pt = s.pt := rfl
@[simp] theorem State.updRing_at_slots : (s.updRing p r f).slots = s.slots := rfl
@[simp] theorem State.updRing_at_integ : (s.updRing p r f).integ = s.integ := rfl
@[simp] theorem State.updRing_at_far : (s.updRing p r f).far = s.far := rfl
@[simp] theorem State.updRing_at_net : (s.updRing p r f).net = s.net := rfl
@[simp] theorem State.updRing_at_pwr : (s.updRing p r f).pwr = s.pwr := rfl
@[simp] theorem State.updRing_at_cool : (s.updRing p r f).cool = s.cool := rfl
@[simp] theorem State.updRing_at_boot : (s.updRing p r f).boot = s.boot := rfl
@[simp] theorem State.updRing_at_dl : (s.updRing p r f).dl = s.dl := rfl
@[simp] theorem State.updRing_at_ledger : (s.updRing p r f).ledger = s.ledger := rfl
@[simp] theorem State.updRing_at_halls : (s.updRing p r f).halls = s.halls := rfl
@[simp] theorem State.updRing_at_fp : (s.updRing p r f).fp = s.fp := rfl
@[simp] theorem State.updRing_at_fpValid : (s.updRing p r f).fpValid = s.fpValid := rfl
@[simp] theorem State.updRing_at_jfail : (s.updRing p r f).jfail = s.jfail := rfl
@[simp] theorem State.updRing_at_jis : (s.updRing p r f).jis = s.jis := rfl
@[simp] theorem State.updRing_at_svc : (s.updRing p r f).svc = s.svc := rfl
@[simp] theorem State.updRing_at_cv : (s.updRing p r f).cv = s.cv := rfl
@[simp] theorem State.updRing_at_fw : (s.updRing p r f).fw = s.fw := rfl
@[simp] theorem State.updRing_at_obs : (s.updRing p r f).obs = s.obs := rfl
end

section
variable (p : Nat) (f : PRing → PRing)
@[simp] theorem State.updPring_at_pending : (s.updPring p f).pending = s.pending := rfl
@[simp] theorem State.updPring_at_freeCtr : (s.updPring p f).freeCtr = s.freeCtr := rfl
@[simp] theorem State.updPring_at_time : (s.updPring p f).time = s.time := rfl
@[simp] theorem State.updPring_at_out : (s.updPring p f).out = s.out := rfl
@[simp] theorem State.updPring_at_outbox : (s.updPring p f).outbox = s.outbox := rfl
@[simp] theorem State.updPring_at_setup : (s.updPring p f).setup = s.setup := rfl
@[simp] theorem State.updPring_at_shadow : (s.updPring p f).shadow = s.shadow := rfl
@[simp] theorem State.updPring_at_kept : (s.updPring p f).kept = s.kept := rfl
@[simp] theorem State.updPring_at_req : (s.updPring p f).req = s.req := rfl
@[simp] theorem State.updPring_at_port : (s.updPring p f).port = s.port := rfl
@[simp] theorem State.updPring_at_mem : (s.updPring p f).mem = s.mem := rfl
@[simp] theorem State.updPring_at_slices : (s.updPring p f).slices = s.slices := rfl
@[simp] theorem State.updPring_at_stalls : (s.updPring p f).stalls = s.stalls := rfl
@[simp] theorem State.updPring_at_tally : (s.updPring p f).tally = s.tally := rfl
@[simp] theorem State.updPring_at_pt : (s.updPring p f).pt = s.pt := rfl
@[simp] theorem State.updPring_at_slots : (s.updPring p f).slots = s.slots := rfl
@[simp] theorem State.updPring_at_integ : (s.updPring p f).integ = s.integ := rfl
@[simp] theorem State.updPring_at_far : (s.updPring p f).far = s.far := rfl
@[simp] theorem State.updPring_at_net : (s.updPring p f).net = s.net := rfl
@[simp] theorem State.updPring_at_pwr : (s.updPring p f).pwr = s.pwr := rfl
@[simp] theorem State.updPring_at_cool : (s.updPring p f).cool = s.cool := rfl
@[simp] theorem State.updPring_at_boot : (s.updPring p f).boot = s.boot := rfl
@[simp] theorem State.updPring_at_dl : (s.updPring p f).dl = s.dl := rfl
@[simp] theorem State.updPring_at_ledger : (s.updPring p f).ledger = s.ledger := rfl
@[simp] theorem State.updPring_at_halls : (s.updPring p f).halls = s.halls := rfl
@[simp] theorem State.updPring_at_fp : (s.updPring p f).fp = s.fp := rfl
@[simp] theorem State.updPring_at_fpValid : (s.updPring p f).fpValid = s.fpValid := rfl
@[simp] theorem State.updPring_at_jfail : (s.updPring p f).jfail = s.jfail := rfl
@[simp] theorem State.updPring_at_jis : (s.updPring p f).jis = s.jis := rfl
@[simp] theorem State.updPring_at_svc : (s.updPring p f).svc = s.svc := rfl
@[simp] theorem State.updPring_at_cv : (s.updPring p f).cv = s.cv := rfl
@[simp] theorem State.updPring_at_fw : (s.updPring p f).fw = s.fw := rfl
@[simp] theorem State.updPring_at_obs : (s.updPring p f).obs = s.obs := rfl
end

section
variable (p n : Nat) (f : Slot → Slot)
@[simp] theorem State.updSlot_at_pending : (s.updSlot p n f).pending = s.pending := rfl
@[simp] theorem State.updSlot_at_freeCtr : (s.updSlot p n f).freeCtr = s.freeCtr := rfl
@[simp] theorem State.updSlot_at_time : (s.updSlot p n f).time = s.time := rfl
@[simp] theorem State.updSlot_at_out : (s.updSlot p n f).out = s.out := rfl
@[simp] theorem State.updSlot_at_outbox : (s.updSlot p n f).outbox = s.outbox := rfl
@[simp] theorem State.updSlot_at_setup : (s.updSlot p n f).setup = s.setup := rfl
@[simp] theorem State.updSlot_at_shadow : (s.updSlot p n f).shadow = s.shadow := rfl
@[simp] theorem State.updSlot_at_kept : (s.updSlot p n f).kept = s.kept := rfl
@[simp] theorem State.updSlot_at_req : (s.updSlot p n f).req = s.req := rfl
@[simp] theorem State.updSlot_at_port : (s.updSlot p n f).port = s.port := rfl
@[simp] theorem State.updSlot_at_mem : (s.updSlot p n f).mem = s.mem := rfl
@[simp] theorem State.updSlot_at_slices : (s.updSlot p n f).slices = s.slices := rfl
@[simp] theorem State.updSlot_at_stalls : (s.updSlot p n f).stalls = s.stalls := rfl
@[simp] theorem State.updSlot_at_tally : (s.updSlot p n f).tally = s.tally := rfl
@[simp] theorem State.updSlot_at_rings : (s.updSlot p n f).rings = s.rings := rfl
@[simp] theorem State.updSlot_at_pt : (s.updSlot p n f).pt = s.pt := rfl
@[simp] theorem State.updSlot_at_integ : (s.updSlot p n f).integ = s.integ := rfl
@[simp] theorem State.updSlot_at_far : (s.updSlot p n f).far = s.far := rfl
@[simp] theorem State.updSlot_at_net : (s.updSlot p n f).net = s.net := rfl
@[simp] theorem State.updSlot_at_pwr : (s.updSlot p n f).pwr = s.pwr := rfl
@[simp] theorem State.updSlot_at_cool : (s.updSlot p n f).cool = s.cool := rfl
@[simp] theorem State.updSlot_at_boot : (s.updSlot p n f).boot = s.boot := rfl
@[simp] theorem State.updSlot_at_dl : (s.updSlot p n f).dl = s.dl := rfl
@[simp] theorem State.updSlot_at_ledger : (s.updSlot p n f).ledger = s.ledger := rfl
@[simp] theorem State.updSlot_at_halls : (s.updSlot p n f).halls = s.halls := rfl
@[simp] theorem State.updSlot_at_fp : (s.updSlot p n f).fp = s.fp := rfl
@[simp] theorem State.updSlot_at_fpValid : (s.updSlot p n f).fpValid = s.fpValid := rfl
@[simp] theorem State.updSlot_at_jfail : (s.updSlot p n f).jfail = s.jfail := rfl
@[simp] theorem State.updSlot_at_jis : (s.updSlot p n f).jis = s.jis := rfl
@[simp] theorem State.updSlot_at_svc : (s.updSlot p n f).svc = s.svc := rfl
@[simp] theorem State.updSlot_at_cv : (s.updSlot p n f).cv = s.cv := rfl
@[simp] theorem State.updSlot_at_fw : (s.updSlot p n f).fw = s.fw := rfl
@[simp] theorem State.updSlot_at_obs : (s.updSlot p n f).obs = s.obs := rfl
end

section
variable (p : Nat) (f : PCtl → PCtl)
@[simp] theorem State.updPctl_at_pending : (s.updPctl p f).pending = s.pending := rfl
@[simp] theorem State.updPctl_at_freeCtr : (s.updPctl p f).freeCtr = s.freeCtr := rfl
@[simp] theorem State.updPctl_at_time : (s.updPctl p f).time = s.time := rfl
@[simp] theorem State.updPctl_at_out : (s.updPctl p f).out = s.out := rfl
@[simp] theorem State.updPctl_at_outbox : (s.updPctl p f).outbox = s.outbox := rfl
@[simp] theorem State.updPctl_at_setup : (s.updPctl p f).setup = s.setup := rfl
@[simp] theorem State.updPctl_at_shadow : (s.updPctl p f).shadow = s.shadow := rfl
@[simp] theorem State.updPctl_at_kept : (s.updPctl p f).kept = s.kept := rfl
@[simp] theorem State.updPctl_at_req : (s.updPctl p f).req = s.req := rfl
@[simp] theorem State.updPctl_at_port : (s.updPctl p f).port = s.port := rfl
@[simp] theorem State.updPctl_at_mem : (s.updPctl p f).mem = s.mem := rfl
@[simp] theorem State.updPctl_at_slices : (s.updPctl p f).slices = s.slices := rfl
@[simp] theorem State.updPctl_at_stalls : (s.updPctl p f).stalls = s.stalls := rfl
@[simp] theorem State.updPctl_at_tally : (s.updPctl p f).tally = s.tally := rfl
@[simp] theorem State.updPctl_at_rings : (s.updPctl p f).rings = s.rings := rfl
@[simp] theorem State.updPctl_at_slots : (s.updPctl p f).slots = s.slots := rfl
@[simp] theorem State.updPctl_at_integ : (s.updPctl p f).integ = s.integ := rfl
@[simp] theorem State.updPctl_at_far : (s.updPctl p f).far = s.far := rfl
@[simp] theorem State.updPctl_at_net : (s.updPctl p f).net = s.net := rfl
@[simp] theorem State.updPctl_at_pwr : (s.updPctl p f).pwr = s.pwr := rfl
@[simp] theorem State.updPctl_at_cool : (s.updPctl p f).cool = s.cool := rfl
@[simp] theorem State.updPctl_at_boot : (s.updPctl p f).boot = s.boot := rfl
@[simp] theorem State.updPctl_at_dl : (s.updPctl p f).dl = s.dl := rfl
@[simp] theorem State.updPctl_at_ledger : (s.updPctl p f).ledger = s.ledger := rfl
@[simp] theorem State.updPctl_at_halls : (s.updPctl p f).halls = s.halls := rfl
@[simp] theorem State.updPctl_at_fp : (s.updPctl p f).fp = s.fp := rfl
@[simp] theorem State.updPctl_at_fpValid : (s.updPctl p f).fpValid = s.fpValid := rfl
@[simp] theorem State.updPctl_at_jfail : (s.updPctl p f).jfail = s.jfail := rfl
@[simp] theorem State.updPctl_at_jis : (s.updPctl p f).jis = s.jis := rfl
@[simp] theorem State.updPctl_at_svc : (s.updPctl p f).svc = s.svc := rfl
@[simp] theorem State.updPctl_at_cv : (s.updPctl p f).cv = s.cv := rfl
@[simp] theorem State.updPctl_at_fw : (s.updPctl p f).fw = s.fw := rfl
@[simp] theorem State.updPctl_at_obs : (s.updPctl p f).obs = s.obs := rfl
end

section
variable (m : Nat) (f : Module → Module)
@[simp] theorem State.updModule_at_pending : (s.updModule m f).pending = s.pending := rfl
@[simp] theorem State.updModule_at_freeCtr : (s.updModule m f).freeCtr = s.freeCtr := rfl
@[simp] theorem State.updModule_at_time : (s.updModule m f).time = s.time := rfl
@[simp] theorem State.updModule_at_out : (s.updModule m f).out = s.out := rfl
@[simp] theorem State.updModule_at_outbox : (s.updModule m f).outbox = s.outbox := rfl
@[simp] theorem State.updModule_at_setup : (s.updModule m f).setup = s.setup := rfl
@[simp] theorem State.updModule_at_shadow : (s.updModule m f).shadow = s.shadow := rfl
@[simp] theorem State.updModule_at_kept : (s.updModule m f).kept = s.kept := rfl
@[simp] theorem State.updModule_at_req : (s.updModule m f).req = s.req := rfl
@[simp] theorem State.updModule_at_port : (s.updModule m f).port = s.port := rfl
@[simp] theorem State.updModule_at_mem : (s.updModule m f).mem = s.mem := rfl
@[simp] theorem State.updModule_at_slices : (s.updModule m f).slices = s.slices := rfl
@[simp] theorem State.updModule_at_stalls : (s.updModule m f).stalls = s.stalls := rfl
@[simp] theorem State.updModule_at_tally : (s.updModule m f).tally = s.tally := rfl
@[simp] theorem State.updModule_at_rings : (s.updModule m f).rings = s.rings := rfl
@[simp] theorem State.updModule_at_pt : (s.updModule m f).pt = s.pt := rfl
@[simp] theorem State.updModule_at_slots : (s.updModule m f).slots = s.slots := rfl
@[simp] theorem State.updModule_at_integ : (s.updModule m f).integ = s.integ := rfl
@[simp] theorem State.updModule_at_net : (s.updModule m f).net = s.net := rfl
@[simp] theorem State.updModule_at_pwr : (s.updModule m f).pwr = s.pwr := rfl
@[simp] theorem State.updModule_at_cool : (s.updModule m f).cool = s.cool := rfl
@[simp] theorem State.updModule_at_boot : (s.updModule m f).boot = s.boot := rfl
@[simp] theorem State.updModule_at_dl : (s.updModule m f).dl = s.dl := rfl
@[simp] theorem State.updModule_at_ledger : (s.updModule m f).ledger = s.ledger := rfl
@[simp] theorem State.updModule_at_halls : (s.updModule m f).halls = s.halls := rfl
@[simp] theorem State.updModule_at_fp : (s.updModule m f).fp = s.fp := rfl
@[simp] theorem State.updModule_at_fpValid : (s.updModule m f).fpValid = s.fpValid := rfl
@[simp] theorem State.updModule_at_jfail : (s.updModule m f).jfail = s.jfail := rfl
@[simp] theorem State.updModule_at_jis : (s.updModule m f).jis = s.jis := rfl
@[simp] theorem State.updModule_at_svc : (s.updModule m f).svc = s.svc := rfl
@[simp] theorem State.updModule_at_cv : (s.updModule m f).cv = s.cv := rfl
@[simp] theorem State.updModule_at_fw : (s.updModule m f).fw = s.fw := rfl
@[simp] theorem State.updModule_at_obs : (s.updModule m f).obs = s.obs := rfl
end

section
variable (q : Req) (f : ReqSt → ReqSt)
@[simp] theorem State.updReq_at_pending : (s.updReq q f).pending = s.pending := rfl
@[simp] theorem State.updReq_at_freeCtr : (s.updReq q f).freeCtr = s.freeCtr := rfl
@[simp] theorem State.updReq_at_time : (s.updReq q f).time = s.time := rfl
@[simp] theorem State.updReq_at_out : (s.updReq q f).out = s.out := rfl
@[simp] theorem State.updReq_at_outbox : (s.updReq q f).outbox = s.outbox := rfl
@[simp] theorem State.updReq_at_setup : (s.updReq q f).setup = s.setup := rfl
@[simp] theorem State.updReq_at_shadow : (s.updReq q f).shadow = s.shadow := rfl
@[simp] theorem State.updReq_at_kept : (s.updReq q f).kept = s.kept := rfl
@[simp] theorem State.updReq_at_port : (s.updReq q f).port = s.port := rfl
@[simp] theorem State.updReq_at_mem : (s.updReq q f).mem = s.mem := rfl
@[simp] theorem State.updReq_at_slices : (s.updReq q f).slices = s.slices := rfl
@[simp] theorem State.updReq_at_stalls : (s.updReq q f).stalls = s.stalls := rfl
@[simp] theorem State.updReq_at_tally : (s.updReq q f).tally = s.tally := rfl
@[simp] theorem State.updReq_at_rings : (s.updReq q f).rings = s.rings := rfl
@[simp] theorem State.updReq_at_pt : (s.updReq q f).pt = s.pt := rfl
@[simp] theorem State.updReq_at_slots : (s.updReq q f).slots = s.slots := rfl
@[simp] theorem State.updReq_at_integ : (s.updReq q f).integ = s.integ := rfl
@[simp] theorem State.updReq_at_far : (s.updReq q f).far = s.far := rfl
@[simp] theorem State.updReq_at_net : (s.updReq q f).net = s.net := rfl
@[simp] theorem State.updReq_at_pwr : (s.updReq q f).pwr = s.pwr := rfl
@[simp] theorem State.updReq_at_cool : (s.updReq q f).cool = s.cool := rfl
@[simp] theorem State.updReq_at_boot : (s.updReq q f).boot = s.boot := rfl
@[simp] theorem State.updReq_at_dl : (s.updReq q f).dl = s.dl := rfl
@[simp] theorem State.updReq_at_ledger : (s.updReq q f).ledger = s.ledger := rfl
@[simp] theorem State.updReq_at_halls : (s.updReq q f).halls = s.halls := rfl
@[simp] theorem State.updReq_at_fp : (s.updReq q f).fp = s.fp := rfl
@[simp] theorem State.updReq_at_fpValid : (s.updReq q f).fpValid = s.fpValid := rfl
@[simp] theorem State.updReq_at_jfail : (s.updReq q f).jfail = s.jfail := rfl
@[simp] theorem State.updReq_at_jis : (s.updReq q f).jis = s.jis := rfl
@[simp] theorem State.updReq_at_svc : (s.updReq q f).svc = s.svc := rfl
@[simp] theorem State.updReq_at_cv : (s.updReq q f).cv = s.cv := rfl
@[simp] theorem State.updReq_at_fw : (s.updReq q f).fw = s.fw := rfl
@[simp] theorem State.updReq_at_obs : (s.updReq q f).obs = s.obs := rfl
end

section
variable (off : Nat) (v : W32)
@[simp] theorem State.setRw32_at_pending : (s.setRw32 off v).pending = s.pending := rfl
@[simp] theorem State.setRw32_at_freeCtr : (s.setRw32 off v).freeCtr = s.freeCtr := rfl
@[simp] theorem State.setRw32_at_time : (s.setRw32 off v).time = s.time := rfl
@[simp] theorem State.setRw32_at_out : (s.setRw32 off v).out = s.out := rfl
@[simp] theorem State.setRw32_at_outbox : (s.setRw32 off v).outbox = s.outbox := rfl
@[simp] theorem State.setRw32_at_shadow : (s.setRw32 off v).shadow = s.shadow := rfl
@[simp] theorem State.setRw32_at_kept : (s.setRw32 off v).kept = s.kept := rfl
@[simp] theorem State.setRw32_at_req : (s.setRw32 off v).req = s.req := rfl
@[simp] theorem State.setRw32_at_port : (s.setRw32 off v).port = s.port := rfl
@[simp] theorem State.setRw32_at_mem : (s.setRw32 off v).mem = s.mem := rfl
@[simp] theorem State.setRw32_at_slices : (s.setRw32 off v).slices = s.slices := rfl
@[simp] theorem State.setRw32_at_stalls : (s.setRw32 off v).stalls = s.stalls := rfl
@[simp] theorem State.setRw32_at_tally : (s.setRw32 off v).tally = s.tally := rfl
@[simp] theorem State.setRw32_at_rings : (s.setRw32 off v).rings = s.rings := rfl
@[simp] theorem State.setRw32_at_pt : (s.setRw32 off v).pt = s.pt := rfl
@[simp] theorem State.setRw32_at_slots : (s.setRw32 off v).slots = s.slots := rfl
@[simp] theorem State.setRw32_at_integ : (s.setRw32 off v).integ = s.integ := rfl
@[simp] theorem State.setRw32_at_far : (s.setRw32 off v).far = s.far := rfl
@[simp] theorem State.setRw32_at_net : (s.setRw32 off v).net = s.net := rfl
@[simp] theorem State.setRw32_at_pwr : (s.setRw32 off v).pwr = s.pwr := rfl
@[simp] theorem State.setRw32_at_cool : (s.setRw32 off v).cool = s.cool := rfl
@[simp] theorem State.setRw32_at_boot : (s.setRw32 off v).boot = s.boot := rfl
@[simp] theorem State.setRw32_at_dl : (s.setRw32 off v).dl = s.dl := rfl
@[simp] theorem State.setRw32_at_ledger : (s.setRw32 off v).ledger = s.ledger := rfl
@[simp] theorem State.setRw32_at_halls : (s.setRw32 off v).halls = s.halls := rfl
@[simp] theorem State.setRw32_at_fp : (s.setRw32 off v).fp = s.fp := rfl
@[simp] theorem State.setRw32_at_fpValid : (s.setRw32 off v).fpValid = s.fpValid := rfl
@[simp] theorem State.setRw32_at_jfail : (s.setRw32 off v).jfail = s.jfail := rfl
@[simp] theorem State.setRw32_at_jis : (s.setRw32 off v).jis = s.jis := rfl
@[simp] theorem State.setRw32_at_svc : (s.setRw32 off v).svc = s.svc := rfl
@[simp] theorem State.setRw32_at_cv : (s.setRw32 off v).cv = s.cv := rfl
@[simp] theorem State.setRw32_at_fw : (s.setRw32 off v).fw = s.fw := rfl
@[simp] theorem State.setRw32_at_obs : (s.setRw32 off v).obs = s.obs := rfl
end

section
variable (off : Nat) (v : Word)
@[simp] theorem State.setRw64_at_pending : (s.setRw64 off v).pending = s.pending := rfl
@[simp] theorem State.setRw64_at_freeCtr : (s.setRw64 off v).freeCtr = s.freeCtr := rfl
@[simp] theorem State.setRw64_at_time : (s.setRw64 off v).time = s.time := rfl
@[simp] theorem State.setRw64_at_out : (s.setRw64 off v).out = s.out := rfl
@[simp] theorem State.setRw64_at_outbox : (s.setRw64 off v).outbox = s.outbox := rfl
@[simp] theorem State.setRw64_at_shadow : (s.setRw64 off v).shadow = s.shadow := rfl
@[simp] theorem State.setRw64_at_kept : (s.setRw64 off v).kept = s.kept := rfl
@[simp] theorem State.setRw64_at_req : (s.setRw64 off v).req = s.req := rfl
@[simp] theorem State.setRw64_at_port : (s.setRw64 off v).port = s.port := rfl
@[simp] theorem State.setRw64_at_mem : (s.setRw64 off v).mem = s.mem := rfl
@[simp] theorem State.setRw64_at_slices : (s.setRw64 off v).slices = s.slices := rfl
@[simp] theorem State.setRw64_at_stalls : (s.setRw64 off v).stalls = s.stalls := rfl
@[simp] theorem State.setRw64_at_tally : (s.setRw64 off v).tally = s.tally := rfl
@[simp] theorem State.setRw64_at_rings : (s.setRw64 off v).rings = s.rings := rfl
@[simp] theorem State.setRw64_at_pt : (s.setRw64 off v).pt = s.pt := rfl
@[simp] theorem State.setRw64_at_slots : (s.setRw64 off v).slots = s.slots := rfl
@[simp] theorem State.setRw64_at_integ : (s.setRw64 off v).integ = s.integ := rfl
@[simp] theorem State.setRw64_at_far : (s.setRw64 off v).far = s.far := rfl
@[simp] theorem State.setRw64_at_net : (s.setRw64 off v).net = s.net := rfl
@[simp] theorem State.setRw64_at_pwr : (s.setRw64 off v).pwr = s.pwr := rfl
@[simp] theorem State.setRw64_at_cool : (s.setRw64 off v).cool = s.cool := rfl
@[simp] theorem State.setRw64_at_boot : (s.setRw64 off v).boot = s.boot := rfl
@[simp] theorem State.setRw64_at_dl : (s.setRw64 off v).dl = s.dl := rfl
@[simp] theorem State.setRw64_at_ledger : (s.setRw64 off v).ledger = s.ledger := rfl
@[simp] theorem State.setRw64_at_halls : (s.setRw64 off v).halls = s.halls := rfl
@[simp] theorem State.setRw64_at_fp : (s.setRw64 off v).fp = s.fp := rfl
@[simp] theorem State.setRw64_at_fpValid : (s.setRw64 off v).fpValid = s.fpValid := rfl
@[simp] theorem State.setRw64_at_jfail : (s.setRw64 off v).jfail = s.jfail := rfl
@[simp] theorem State.setRw64_at_jis : (s.setRw64 off v).jis = s.jis := rfl
@[simp] theorem State.setRw64_at_svc : (s.setRw64 off v).svc = s.svc := rfl
@[simp] theorem State.setRw64_at_cv : (s.setRw64 off v).cv = s.cv := rfl
@[simp] theorem State.setRw64_at_fw : (s.setRw64 off v).fw = s.fw := rfl
@[simp] theorem State.setRw64_at_obs : (s.setRw64 off v).obs = s.obs := rfl
end

section
variable (off n : Nat)
@[simp] theorem State.resetRw_at_pending : (s.resetRw off n).pending = s.pending := rfl
@[simp] theorem State.resetRw_at_freeCtr : (s.resetRw off n).freeCtr = s.freeCtr := rfl
@[simp] theorem State.resetRw_at_time : (s.resetRw off n).time = s.time := rfl
@[simp] theorem State.resetRw_at_out : (s.resetRw off n).out = s.out := rfl
@[simp] theorem State.resetRw_at_outbox : (s.resetRw off n).outbox = s.outbox := rfl
@[simp] theorem State.resetRw_at_shadow : (s.resetRw off n).shadow = s.shadow := rfl
@[simp] theorem State.resetRw_at_kept : (s.resetRw off n).kept = s.kept := rfl
@[simp] theorem State.resetRw_at_req : (s.resetRw off n).req = s.req := rfl
@[simp] theorem State.resetRw_at_port : (s.resetRw off n).port = s.port := rfl
@[simp] theorem State.resetRw_at_mem : (s.resetRw off n).mem = s.mem := rfl
@[simp] theorem State.resetRw_at_slices : (s.resetRw off n).slices = s.slices := rfl
@[simp] theorem State.resetRw_at_stalls : (s.resetRw off n).stalls = s.stalls := rfl
@[simp] theorem State.resetRw_at_tally : (s.resetRw off n).tally = s.tally := rfl
@[simp] theorem State.resetRw_at_rings : (s.resetRw off n).rings = s.rings := rfl
@[simp] theorem State.resetRw_at_pt : (s.resetRw off n).pt = s.pt := rfl
@[simp] theorem State.resetRw_at_slots : (s.resetRw off n).slots = s.slots := rfl
@[simp] theorem State.resetRw_at_integ : (s.resetRw off n).integ = s.integ := rfl
@[simp] theorem State.resetRw_at_far : (s.resetRw off n).far = s.far := rfl
@[simp] theorem State.resetRw_at_net : (s.resetRw off n).net = s.net := rfl
@[simp] theorem State.resetRw_at_pwr : (s.resetRw off n).pwr = s.pwr := rfl
@[simp] theorem State.resetRw_at_cool : (s.resetRw off n).cool = s.cool := rfl
@[simp] theorem State.resetRw_at_boot : (s.resetRw off n).boot = s.boot := rfl
@[simp] theorem State.resetRw_at_dl : (s.resetRw off n).dl = s.dl := rfl
@[simp] theorem State.resetRw_at_ledger : (s.resetRw off n).ledger = s.ledger := rfl
@[simp] theorem State.resetRw_at_halls : (s.resetRw off n).halls = s.halls := rfl
@[simp] theorem State.resetRw_at_fp : (s.resetRw off n).fp = s.fp := rfl
@[simp] theorem State.resetRw_at_fpValid : (s.resetRw off n).fpValid = s.fpValid := rfl
@[simp] theorem State.resetRw_at_jfail : (s.resetRw off n).jfail = s.jfail := rfl
@[simp] theorem State.resetRw_at_jis : (s.resetRw off n).jis = s.jis := rfl
@[simp] theorem State.resetRw_at_svc : (s.resetRw off n).svc = s.svc := rfl
@[simp] theorem State.resetRw_at_cv : (s.resetRw off n).cv = s.cv := rfl
@[simp] theorem State.resetRw_at_fw : (s.resetRw off n).fw = s.fw := rfl
@[simp] theorem State.resetRw_at_obs : (s.resetRw off n).obs = s.obs := rfl
end

section
@[simp] theorem State.used_at_pending : (s.used).pending = s.pending := rfl
@[simp] theorem State.used_at_time : (s.used).time = s.time := rfl
@[simp] theorem State.used_at_out : (s.used).out = s.out := rfl
@[simp] theorem State.used_at_outbox : (s.used).outbox = s.outbox := rfl
@[simp] theorem State.used_at_setup : (s.used).setup = s.setup := rfl
@[simp] theorem State.used_at_shadow : (s.used).shadow = s.shadow := rfl
@[simp] theorem State.used_at_kept : (s.used).kept = s.kept := rfl
@[simp] theorem State.used_at_req : (s.used).req = s.req := rfl
@[simp] theorem State.used_at_port : (s.used).port = s.port := rfl
@[simp] theorem State.used_at_mem : (s.used).mem = s.mem := rfl
@[simp] theorem State.used_at_slices : (s.used).slices = s.slices := rfl
@[simp] theorem State.used_at_stalls : (s.used).stalls = s.stalls := rfl
@[simp] theorem State.used_at_tally : (s.used).tally = s.tally := rfl
@[simp] theorem State.used_at_rings : (s.used).rings = s.rings := rfl
@[simp] theorem State.used_at_pt : (s.used).pt = s.pt := rfl
@[simp] theorem State.used_at_slots : (s.used).slots = s.slots := rfl
@[simp] theorem State.used_at_integ : (s.used).integ = s.integ := rfl
@[simp] theorem State.used_at_far : (s.used).far = s.far := rfl
@[simp] theorem State.used_at_net : (s.used).net = s.net := rfl
@[simp] theorem State.used_at_pwr : (s.used).pwr = s.pwr := rfl
@[simp] theorem State.used_at_cool : (s.used).cool = s.cool := rfl
@[simp] theorem State.used_at_boot : (s.used).boot = s.boot := rfl
@[simp] theorem State.used_at_dl : (s.used).dl = s.dl := rfl
@[simp] theorem State.used_at_ledger : (s.used).ledger = s.ledger := rfl
@[simp] theorem State.used_at_halls : (s.used).halls = s.halls := rfl
@[simp] theorem State.used_at_fp : (s.used).fp = s.fp := rfl
@[simp] theorem State.used_at_fpValid : (s.used).fpValid = s.fpValid := rfl
@[simp] theorem State.used_at_jfail : (s.used).jfail = s.jfail := rfl
@[simp] theorem State.used_at_jis : (s.used).jis = s.jis := rfl
@[simp] theorem State.used_at_svc : (s.used).svc = s.svc := rfl
@[simp] theorem State.used_at_cv : (s.used).cv = s.cv := rfl
@[simp] theorem State.used_at_fw : (s.used).fw = s.fw := rfl
@[simp] theorem State.used_at_obs : (s.used).obs = s.obs := rfl
end

section
variable (m : Msg)
@[simp] theorem State.send_at_pending : (s.send m).pending = s.pending := rfl
@[simp] theorem State.send_at_freeCtr : (s.send m).freeCtr = s.freeCtr := rfl
@[simp] theorem State.send_at_time : (s.send m).time = s.time := rfl
@[simp] theorem State.send_at_out : (s.send m).out = s.out := rfl
@[simp] theorem State.send_at_setup : (s.send m).setup = s.setup := rfl
@[simp] theorem State.send_at_shadow : (s.send m).shadow = s.shadow := rfl
@[simp] theorem State.send_at_kept : (s.send m).kept = s.kept := rfl
@[simp] theorem State.send_at_req : (s.send m).req = s.req := rfl
@[simp] theorem State.send_at_port : (s.send m).port = s.port := rfl
@[simp] theorem State.send_at_mem : (s.send m).mem = s.mem := rfl
@[simp] theorem State.send_at_slices : (s.send m).slices = s.slices := rfl
@[simp] theorem State.send_at_stalls : (s.send m).stalls = s.stalls := rfl
@[simp] theorem State.send_at_tally : (s.send m).tally = s.tally := rfl
@[simp] theorem State.send_at_rings : (s.send m).rings = s.rings := rfl
@[simp] theorem State.send_at_pt : (s.send m).pt = s.pt := rfl
@[simp] theorem State.send_at_slots : (s.send m).slots = s.slots := rfl
@[simp] theorem State.send_at_integ : (s.send m).integ = s.integ := rfl
@[simp] theorem State.send_at_far : (s.send m).far = s.far := rfl
@[simp] theorem State.send_at_net : (s.send m).net = s.net := rfl
@[simp] theorem State.send_at_pwr : (s.send m).pwr = s.pwr := rfl
@[simp] theorem State.send_at_cool : (s.send m).cool = s.cool := rfl
@[simp] theorem State.send_at_boot : (s.send m).boot = s.boot := rfl
@[simp] theorem State.send_at_dl : (s.send m).dl = s.dl := rfl
@[simp] theorem State.send_at_ledger : (s.send m).ledger = s.ledger := rfl
@[simp] theorem State.send_at_halls : (s.send m).halls = s.halls := rfl
@[simp] theorem State.send_at_fp : (s.send m).fp = s.fp := rfl
@[simp] theorem State.send_at_fpValid : (s.send m).fpValid = s.fpValid := rfl
@[simp] theorem State.send_at_jfail : (s.send m).jfail = s.jfail := rfl
@[simp] theorem State.send_at_jis : (s.send m).jis = s.jis := rfl
@[simp] theorem State.send_at_svc : (s.send m).svc = s.svc := rfl
@[simp] theorem State.send_at_cv : (s.send m).cv = s.cv := rfl
@[simp] theorem State.send_at_fw : (s.send m).fw = s.fw := rfl
@[simp] theorem State.send_at_obs : (s.send m).obs = s.obs := rfl
end

section
@[simp] theorem State.idleTick_at_pending : (s.idleTick).pending = s.pending := rfl
@[simp] theorem State.idleTick_at_freeCtr : (s.idleTick).freeCtr = s.freeCtr := rfl
@[simp] theorem State.idleTick_at_out : (s.idleTick).out = s.out := rfl
@[simp] theorem State.idleTick_at_outbox : (s.idleTick).outbox = s.outbox := rfl
@[simp] theorem State.idleTick_at_setup : (s.idleTick).setup = s.setup := rfl
@[simp] theorem State.idleTick_at_shadow : (s.idleTick).shadow = s.shadow := rfl
@[simp] theorem State.idleTick_at_kept : (s.idleTick).kept = s.kept := rfl
@[simp] theorem State.idleTick_at_req : (s.idleTick).req = s.req := rfl
@[simp] theorem State.idleTick_at_port : (s.idleTick).port = s.port := rfl
@[simp] theorem State.idleTick_at_mem : (s.idleTick).mem = s.mem := rfl
@[simp] theorem State.idleTick_at_slices : (s.idleTick).slices = s.slices := rfl
@[simp] theorem State.idleTick_at_stalls : (s.idleTick).stalls = s.stalls := rfl
@[simp] theorem State.idleTick_at_tally : (s.idleTick).tally = s.tally := rfl
@[simp] theorem State.idleTick_at_rings : (s.idleTick).rings = s.rings := rfl
@[simp] theorem State.idleTick_at_pt : (s.idleTick).pt = s.pt := rfl
@[simp] theorem State.idleTick_at_slots : (s.idleTick).slots = s.slots := rfl
@[simp] theorem State.idleTick_at_integ : (s.idleTick).integ = s.integ := rfl
@[simp] theorem State.idleTick_at_far : (s.idleTick).far = s.far := rfl
@[simp] theorem State.idleTick_at_net : (s.idleTick).net = s.net := rfl
@[simp] theorem State.idleTick_at_pwr : (s.idleTick).pwr = s.pwr := rfl
@[simp] theorem State.idleTick_at_cool : (s.idleTick).cool = s.cool := rfl
@[simp] theorem State.idleTick_at_boot : (s.idleTick).boot = s.boot := rfl
@[simp] theorem State.idleTick_at_dl : (s.idleTick).dl = s.dl := rfl
@[simp] theorem State.idleTick_at_ledger : (s.idleTick).ledger = s.ledger := rfl
@[simp] theorem State.idleTick_at_halls : (s.idleTick).halls = s.halls := rfl
@[simp] theorem State.idleTick_at_fp : (s.idleTick).fp = s.fp := rfl
@[simp] theorem State.idleTick_at_fpValid : (s.idleTick).fpValid = s.fpValid := rfl
@[simp] theorem State.idleTick_at_jfail : (s.idleTick).jfail = s.jfail := rfl
@[simp] theorem State.idleTick_at_jis : (s.idleTick).jis = s.jis := rfl
@[simp] theorem State.idleTick_at_svc : (s.idleTick).svc = s.svc := rfl
@[simp] theorem State.idleTick_at_cv : (s.idleTick).cv = s.cv := rfl
@[simp] theorem State.idleTick_at_fw : (s.idleTick).fw = s.fw := rfl
@[simp] theorem State.idleTick_at_obs : (s.idleTick).obs = s.obs := rfl
end

end Sys2Proof.Machine
end

