-- ==== Sys2Proof/Laws/Parts.lean ====
section
/-!
SUPPORT. What reading a part of the state gives after a write to a part of its kind.
-/
namespace Sys2Proof.Machine

variable (s : State)

theorem State.stall_setStall (n m : Nat) (x : Stall) : (s.setStall n x).stall m = if m = n then x else s.stall m := by
  simp [State.stall, State.setStall, Tab.get_set]

@[simp] theorem State.stall_setStall_same (n : Nat) (x : Stall) : (s.setStall n x).stall n = x := by simp [State.stall_setStall]

@[simp] theorem State.setStall_setStall (n : Nat) (x y : Stall) : (s.setStall n x).setStall n y = s.setStall n y := by
  simp [State.setStall]

theorem State.stall_updStall (n m : Nat) (f : Stall → Stall) :
    (s.updStall n f).stall m = if m = n then f (s.stall n) else s.stall m := by
  simp [State.updStall, State.stall_setStall]

@[simp] theorem State.stall_updStall_same (n : Nat) (f : Stall → Stall) : (s.updStall n f).stall n = f (s.stall n) := by
  simp [State.stall_updStall]

theorem State.thread_setThread (n k m j : Nat) (t : Thread) :
    (s.setThread n k t).thread m j = if m = n ∧ j = k then t else s.thread m j := by
  unfold State.thread State.setThread Stall.thread
  rw [State.stall_updStall]
  by_cases h : m = n
  · subst h
    by_cases hk : j = k
    · subst hk; simp
    · simp [hk, Tab.get_set_ne _ _ _ hk]
  · simp [h]

@[simp] theorem State.thread_setThread_same (n k : Nat) (t : Thread) : (s.setThread n k t).thread n k = t := by
  simp [State.thread_setThread]

/-- Nothing else of a stall changes with one of its threads. -/
theorem State.stall_setThread (n k m : Nat) (t : Thread) :
    (s.setThread n k t).stall m = if m = n then { s.stall n with th := Tab.set (s.stall n).th k t } else s.stall m := by
  simp [State.setThread, State.stall_updStall]

@[simp] theorem Thread.gr_zero (t : Thread) : t.gr 0 = 0 := by simp [Thread.gr]

theorem Thread.gr_setG (t : Thread) (i j : Nat) (v : Word) :
    (t.setG i v).gr j = if j = i ∧ i ≠ 0 then v else t.gr j := by
  unfold Thread.setG
  by_cases hi : i = 0
  · subst hi; simp
  · unfold Thread.gr
    by_cases hj : j = 0
    · subst hj; simp [Ne.symm hi]
    · by_cases h : j = i
      · subst h; simp [hj]
      · simp [hi, hj, h, Tab.get_set_ne _ _ _ h]

theorem State.hall_updHall (h k : Nat) (f : HallSt → HallSt) : (s.updHall h f).hall k = if k = h then f (s.hall h) else s.hall k := by
  simp [State.hall, State.updHall, Tab.get_set]

@[simp] theorem State.hall_updHall_same (h : Nat) (f : HallSt → HallSt) : (s.updHall h f).hall h = f (s.hall h) := by
  simp [State.hall_updHall]

theorem State.ring_updRing (p r p' r' : Nat) (f : Ring → Ring) :
    (s.updRing p r f).ring p' r' = if 64 * p' + r' = 64 * p + r then f (s.ring p r) else s.ring p' r' := by
  simp [State.ring, State.updRing, Tab.get_set]

theorem State.slot_updSlot (p n p' n' : Nat) (f : Slot → Slot) :
    (s.updSlot p n f).slot p' n' = if 64 * p' + n' = 64 * p + n then f (s.slot p n) else s.slot p' n' := by
  simp [State.slot, State.updSlot, Tab.get_set]

theorem State.module_updModule (m k : Nat) (f : Module → Module) :
    (s.updModule m f).module k = if k = m then f (s.module m) else s.module k := by
  simp [State.module, State.updModule, Tab.get_set]

theorem State.pctl_updPctl (p k : Nat) (f : PCtl → PCtl) : (s.updPctl p f).pctl k = if k = p then f (s.pctl p) else s.pctl k := by
  simp [State.pctl, State.updPctl, Tab.get_set]

theorem State.sliceOf_updSlice (n k : Nat) (f : SliceSt → SliceSt) :
    (s.updSlice n f).sliceOf k = if k = n then f (s.sliceOf n) else s.sliceOf k := by
  simp [State.sliceOf, State.updSlice, Tab.get_set]

/-- A set-up register read after a write of a dword. -/
theorem State.rw32_setRw32 (a b : Nat) (v : W32) :
    (s.setRw32 a v).rw32 b = if b / 4 = a / 4 then v else s.rw32 b := by
  simp [State.rw32, State.setRw32, Tab.get_set]

/-- The effect of a well-formed command. -/
@[simp] theorem run_true (t : State) : run true t = .next t := rfl

@[simp] theorem run_false (t : State) : run false t = .fault .noSuchUnit := rfl

/-- A meaning answers a next state exactly when its units exist. -/
theorem run_next {ok : Bool} {t u : State} : run ok t = .next u ↔ ok = true ∧ u = t := by
  cases ok <;> simp [run, eq_comm]

end Sys2Proof.Machine
end

