-- ==== Sys2Proof/Laws/Observed.lean ====
section
/-!
SUPPORT. What the tracer, the counters and event messages leave as it is: laws of Observed, and what it says of a thread.
-/
namespace Sys2Proof.Machine

theorem Observed.refl (s : State) : Observed s s := ⟨rfl, fun _ => rfl⟩

theorem Observed.trans {s t u : State} (h : Observed s t) (g : Observed t u) : Observed s u :=
  ⟨g.1.trans h.1, fun m => (g.2 m).trans (h.2 m)⟩

theorem Observed.th {s t : State} (h : Observed s t) (m : Nat) : (t.stall m).th = (s.stall m).th := by
  have e := congrArg Stall.th (h.2 m)
  exact e

theorem Observed.thread {s t : State} (h : Observed s t) (m j : Nat) : t.thread m j = s.thread m j := by
  unfold State.thread Stall.thread
  rw [h.th m]

theorem Observed.rows {s t : State} (h : Observed s t) (m : Nat) : (t.stall m).rows = (s.stall m).rows := by
  have e := congrArg Stall.rows (h.2 m)
  exact e

theorem Observed.saving {s t : State} (h : Observed s t) (m : Nat) : (t.stall m).saving = (s.stall m).saving :=
  by
  have e := congrArg Stall.saving (h.2 m)
  exact e

theorem Observed.halting {s t : State} (h : Observed s t) (m : Nat) : (t.stall m).halting = (s.stall m).halting := by
  have e := congrArg Stall.halting (h.2 m)
  exact e

/-- A stall that is not being halted is not halted by what its threads do. -/
theorem haltCheck_of_running {s : State} {n : Nat} (h : (s.stall n).halting = false) : s.haltCheck n = s := by
  unfold State.haltCheck
  rw [h]
  rfl

theorem Observed.mem {s t : State} (h : Observed s t) : t.mem = s.mem := by
  have e := congrArg State.mem h.1
  exact e

theorem Observed.setup {s t : State} (h : Observed s t) : t.setup = s.setup := by
  have e := congrArg State.setup h.1
  exact e

theorem Observed.tally {s t : State} (h : Observed s t) : t.tally = s.tally := by
  have e := congrArg State.tally h.1
  exact e

/-- An update of a stall that acts alike on stalls that differ only in what is observed. -/
theorem Observed.updStall {s t : State} (h : Observed s t) (n : Nat) (f g : Stall → Stall)
    (hf : ∀ x y : Stall, x.bare = y.bare → (f x).bare = (g y).bare) : Observed (s.updStall n g) (t.updStall n f) := by
  refine ⟨h.1, fun m => ?_⟩
  rw [State.stall_updStall, State.stall_updStall]
  split
  · exact hf _ _ (h.2 n)
  · exact h.2 m

theorem Observed.setThread {s t : State} (h : Observed s t) (n k : Nat) (x : Thread) :
    Observed (s.setThread n k x) (t.setThread n k x) := by
  refine h.updStall n _ _ (fun a b e => ?_)
  have e' := e
  unfold Stall.bare at e ⊢
  simp only [Stall.mk.injEq, true_and, and_true] at e ⊢
  rw [e.1]
  simp [e]

theorem updSel_observed (s : State) (n : Nat) (f : Tracer → Tracer) : Observed s (s.updSel n f) := by
  refine ⟨rfl, fun m => ?_⟩
  unfold State.updSel
  rw [State.stall_updStall]
  split
  · rename_i e; subst e; rfl
  · rfl

theorem fire_observed (s : State) (fn v : Nat) : Observed s (s.fire fn v) := by
  unfold State.fire State.signalVec State.send
  split
  · split <;> exact ⟨rfl, fun _ => rfl⟩
  · exact ⟨rfl, fun _ => rfl⟩

theorem raiseEvent_observed (s : State) (p : Nat) : Observed s (s.raiseEvent p) := fire_observed ..

theorem count_observed (s : State) (n b k : Nat) : Observed s (s.count n b k) := by
  have h : ∀ f : Stall → Stall, (∀ x, (f x).bare = x.bare) → Observed s (s.updStall n f) := by
    intro f hf
    refine ⟨rfl, fun m => ?_⟩
    rw [State.stall_updStall]
    split
    · rename_i e; subst e; exact hf _
    · rfl
  unfold State.count
  extract_lets v u
  have hu : Observed s u := h _ (fun _ => rfl)
  clear_value u
  split
  · split
    · exact hu.trans (raiseEvent_observed ..)
    · exact hu
  · exact hu

theorem selPut_observed (s : State) (n : Nat) (b : List Byte) (c : Nat) : Observed s (s.selPut n b c) := by
  unfold State.selPut
  split
  · exact updSel_observed ..
  · exact (count_observed ..).trans (updSel_observed ..)

theorem selSync_observed (s : State) (n : Nat) : Observed s (s.selSync n) := (selPut_observed ..).trans (updSel_observed ..)

theorem selOvf_observed (s : State) (n : Nat) : Observed s (s.selOvf n) := by
  unfold State.selOvf
  dsimp only
  split
  · exact ((selPut_observed ..).trans (updSel_observed ..)).trans (selSync_observed ..)
  · exact .refl s

theorem selEmit_observed (s : State) (n th ty : Nat) (b : List Byte) (c : Nat) : Observed s (s.selEmit n th ty b c) := by
  unfold State.selEmit
  dsimp only
  split
  · exact ((selOvf_observed ..).trans (selSync_observed ..)).trans (selPut_observed ..)
  · exact (selOvf_observed ..).trans (selPut_observed ..)

theorem selRep_observed (s : State) (n k : Nat) : Observed s (s.selRep n k) := by
  unfold State.selRep
  split
  · exact .refl s
  · exact (selEmit_observed ..).trans (updSel_observed ..)

theorem selBr_observed (s : State) (n k : Nat) : Observed s (s.selBr n k) := by
  unfold State.selBr
  split
  · exact .refl s
  · dsimp only
    split
    · split
      · exact ((updSel_observed ..).trans (updSel_observed ..)).trans (selRep_observed ..)
      · exact (updSel_observed ..).trans (updSel_observed ..)
    · exact (((updSel_observed ..).trans (selRep_observed ..)).trans (selEmit_observed ..)).trans (updSel_observed ..)

theorem selThread_observed (s : State) (n k ty : Nat) (b : List Byte) : Observed s (s.selThread n k ty b) :=
  (((selBr_observed ..).trans (selRep_observed ..)).trans (selEmit_observed ..)).trans (updSel_observed ..)

/-- A packet of a thread changes nothing but the tracer, counters and event messages. -/
theorem selPacket_observed (s : State) (n k ty : Nat) (b : List Byte) : Observed s (s.selPacket n k ty b) := by
  unfold State.selPacket
  split
  · exact selThread_observed ..
  · exact .refl s

theorem selPc_observed (s : State) (n k r : Nat) (pc : Word) : Observed s (s.selPc n k r pc) := selPacket_observed ..

theorem selBranch_observed (s : State) (n k : Nat) (b : Bool) : Observed s (s.selBranch n k b) := by
  unfold State.selBranch
  dsimp only
  split
  · exact (updSel_observed ..).trans (selBr_observed ..)
  · exact updSel_observed ..

theorem selRetire_observed (s : State) (n k : Nat) (t : Thread) : Observed s (s.selRetire n k t) := by
  unfold State.selRetire
  split
  · have h : ∀ u : State, Observed s u → Observed s (if t.ending = true then u.selThread n k 7 (toLE 2 2) else u) := by
      intro u hu
      split
      · exact hu.trans (selThread_observed ..)
      · exact hu
    refine h _ ?_
    split
    · exact (updSel_observed ..).trans (selBranch_observed ..)
    · split
      · exact (updSel_observed ..).trans (selPc_observed ..)
      · split
        · exact (updSel_observed ..).trans (selPc_observed ..)
        · exact updSel_observed ..
  · exact .refl s

theorem selWide_observed (s : State) (n k wop : Nat) (w : WF) (o i c : Nat) : Observed s (s.selWide n k wop w o i c) :=
  selPacket_observed ..

/-- A thread with a handler that is not in it takes it. -/
theorem raiseExc_handler (s : State) (n k cause : Nat) (addr : Word) (half fetch group : Bool) (h : s.handles n k) :
    EntersHandler s n k cause addr half fetch group (s.raiseExc n k cause addr half fetch group) := by
  unfold State.handles at h
  unfold State.raiseExc EntersHandler
  dsimp only
  rw [if_pos ⟨h.1, h.2.1⟩]
  have o := selPacket_observed s n k 6
    (toLE 1 cause ++ toLE 1 (ofBool half + 2 + 4 * ofBool fetch + 8 * ofBool group) ++ toLE 8 (s.thread n k).pc.toNat)
  have e : ((s.selPacket n k 6 (toLE 1 cause ++ toLE 1 (ofBool half + 2 + 4 * ofBool fetch + 8 * ofBool group) ++
      toLE 8 (s.thread n k).pc.toNat)).stall n).stopping = (s.stall n).saving := by
    unfold Stall.stopping
    rw [o.saving n, o.halting n, h.2.2, Bool.or_false]
  rw [e]
  have g := (o.trans (selPc_observed _ n k 3 (s.thread n k).evec)).setThread n k ((s.thread n k).handler cause addr
    (ofBool half + 2 + 4 * ofBool fetch + 8 * ofBool group) (s.stall n).saving)
  have c := haltCheck_of_running (n := n) ((g.halting n).trans (by unfold State.setThread; rw [State.stall_updStall, if_pos rfl]; exact h.2.2))
  rw [← c] at g
  cases half <;> cases fetch <;> cases group <;> exact g

end Sys2Proof.Machine
end

