-- ==== Sys2Proof/Laws/QueueOps.lean ====
section
/-!
SUPPORT. The operations of Ops.lean leave the queue of waiting commands as it is.
-/
namespace Sys2Proof.Machine

@[simp] theorem foldl_pending {α : Type} (f : State → α → State) (h : ∀ s a, (f s a).pending = s.pending) (l : List α) (s : State) :
    (l.foldl f s).pending = s.pending := by
  induction l generalizing s with
  | nil => rfl
  | cons a l ih => simp [ih, h]

theorem foldl_pend {β α : Type} (π : β → State) (f : β → α → β) (h : ∀ b a, (π (f b a)).pending = (π b).pending) (l : List α) (b : β) :
    (π (l.foldl f b)).pending = (π b).pending := by
  induction l generalizing b with
  | nil => rfl
  | cons a l ih => simp [ih, h]

@[simp] theorem foldr_pending {α : Type} (f : α → State → State) (h : ∀ a s, (f a s).pending = s.pending) (l : List α) (s : State) :
    (l.foldr f s).pending = s.pending := by
  induction l with
  | nil => rfl
  | cons a l ih => simp [ih, h]

@[simp] theorem ite_pending (c : Prop) [Decidable c] (a b : State) :
    (if c then a else b).pending = if c then a.pending else b.pending := by split <;> rfl

@[simp] theorem State.setStall_pending (s : State) (n : Nat) (st : Stall) :
    (State.setStall s n st).pending = s.pending := by
  unfold State.setStall
  repeat' first
    | with_reducible rfl
    | (simp; done)
    | split
    | intro _
    | simp

@[simp] theorem State.updStall_pending (s : State) (n : Nat) (f : Stall → Stall) :
    (State.updStall s n f).pending = s.pending := by
  unfold State.updStall
  repeat' first
    | with_reducible rfl
    | (simp; done)
    | split
    | intro _
    | simp

@[simp] theorem State.setThread_pending (s : State) (n k : Nat) (t : Thread) :
    (State.setThread s n k t).pending = s.pending := by
  unfold State.setThread
  repeat' first
    | with_reducible rfl
    | (simp; done)
    | split
    | intro _
    | simp

@[simp] theorem State.updThread_pending (s : State) (n k : Nat) (f : Thread → Thread) :
    (State.updThread s n k f).pending = s.pending := by
  unfold State.updThread
  repeat' first
    | with_reducible rfl
    | (simp; done)
    | split
    | intro _
    | simp

@[simp] theorem State.updHall_pending (s : State) (h : Nat) (f : HallSt → HallSt) :
    (State.updHall s h f).pending = s.pending := by
  unfold State.updHall
  repeat' first
    | with_reducible rfl
    | (simp; done)
    | split
    | intro _
    | simp

@[simp] theorem State.updSlice_pending (s : State) (n : Nat) (f : SliceSt → SliceSt) :
    (State.updSlice s n f).pending = s.pending := by
  unfold State.updSlice
  repeat' first
    | with_reducible rfl
    | (simp; done)
    | split
    | intro _
    | simp

@[simp] theorem State.updRing_pending (s : State) (p r : Nat) (f : Ring → Ring) :
    (State.updRing s p r f).pending = s.pending := by
  unfold State.updRing
  repeat' first
    | with_reducible rfl
    | (simp; done)
    | split
    | intro _
    | simp

@[simp] theorem State.updPring_pending (s : State) (p : Nat) (f : PRing → PRing) :
    (State.updPring s p f).pending = s.pending := by
  unfold State.updPring
  repeat' first
    | with_reducible rfl
    | (simp; done)
    | split
    | intro _
    | simp

@[simp] theorem State.updSlot_pending (s : State) (p n : Nat) (f : Slot → Slot) :
    (State.updSlot s p n f).pending = s.pending := by
  unfold State.updSlot
  repeat' first
    | with_reducible rfl
    | (simp; done)
    | split
    | intro _
    | simp

@[simp] theorem State.updPctl_pending (s : State) (p : Nat) (f : PCtl → PCtl) :
    (State.updPctl s p f).pending = s.pending := by
  unfold State.updPctl
  repeat' first
    | with_reducible rfl
    | (simp; done)
    | split
    | intro _
    | simp

@[simp] theorem State.updModule_pending (s : State) (m : Nat) (f : Module → Module) :
    (State.updModule s m f).pending = s.pending := by
  unfold State.updModule
  repeat' first
    | with_reducible rfl
    | (simp; done)
    | split
    | intro _
    | simp

@[simp] theorem State.updReq_pending (s : State) (q : Req) (f : ReqSt → ReqSt) :
    (State.updReq s q f).pending = s.pending := by
  unfold State.updReq
  repeat' first
    | with_reducible rfl
    | (simp; done)
    | split
    | intro _
    | simp

@[simp] theorem State.setRw32_pending (s : State) (off : Nat) (v : W32) :
    (State.setRw32 s off v).pending = s.pending := by
  unfold State.setRw32
  repeat' first
    | with_reducible rfl
    | (simp; done)
    | split
    | intro _
    | simp

@[simp] theorem State.orRw32_pending (s : State) (off : Nat) (v : W32) :
    (State.orRw32 s off v).pending = s.pending := by
  unfold State.orRw32
  repeat' first
    | with_reducible rfl
    | (simp; done)
    | split
    | intro _
    | simp

@[simp] theorem State.setRw64_pending (s : State) (off : Nat) (v : Word) :
    (State.setRw64 s off v).pending = s.pending := by
  unfold State.setRw64
  repeat' first
    | with_reducible rfl
    | (simp; done)
    | split
    | intro _
    | simp

@[simp] theorem State.resetRw_pending (s : State) (off n : Nat) :
    (State.resetRw s off n).pending = s.pending := by
  unfold State.resetRw
  repeat' first
    | with_reducible rfl
    | (simp; done)
    | split
    | intro _
    | simp

@[simp] theorem State.used_pending (s : State) :
    (State.used s).pending = s.pending := by
  unfold State.used
  repeat' first
    | with_reducible rfl
    | (simp; done)
    | split
    | intro _
    | simp

@[simp] theorem State.wrSliceWord_pending (s : State) (a : Nat) (b : List Byte) :
    (State.wrSliceWord s a b).s.pending = s.pending := by
  unfold State.wrSliceWord
  repeat' first
    | with_reducible rfl
    | (simp; done)
    | split
    | intro _
    | simp

@[simp] theorem State.wrFarWord_pending (s : State) (o : Nat) (b : List Byte) :
    (State.wrFarWord s o b).s.pending = s.pending := by
  unfold State.wrFarWord
  repeat' first
    | with_reducible rfl
    | (simp; done)
    | split
    | intro _
    | simp

@[simp] theorem State.wrPieces_pending (f : State → Nat → List Byte → WrRes) (s : State) (l : List (Nat × List Byte)) (hf : ∀ x0 x1 x2, (f x0 x1 x2).s.pending = x0.pending) :
    (State.wrPieces f s l).s.pending = s.pending := by
  unfold State.wrPieces
  exact foldl_pend (fun r : WrRes => r.s) _ (fun r x => by simp [hf]) _ _

@[simp] theorem State.wrSlice_pending (s : State) (a : Nat) (b : List Byte) :
    (State.wrSlice s a b).s.pending = s.pending := by
  unfold State.wrSlice
  repeat' first
    | with_reducible rfl
    | (simp; done)
    | split
    | intro _
    | (refine (State.wrPieces_pending (hf := ?_) ..).trans ?_)
    | simp

@[simp] theorem State.wrFar_pending (s : State) (o : Nat) (b : List Byte) :
    (State.wrFar s o b).s.pending = s.pending := by
  unfold State.wrFar
  repeat' first
    | with_reducible rfl
    | (simp; done)
    | split
    | intro _
    | (refine (State.wrPieces_pending (hf := ?_) ..).trans ?_)
    | simp

@[simp] theorem State.poisSlice_pending (s : State) (a : Nat) :
    (State.poisSlice s a).pending = s.pending := by
  unfold State.poisSlice
  repeat' first
    | with_reducible rfl
    | (simp; done)
    | split
    | intro _
    | simp

@[simp] theorem State.poisFar_pending (s : State) (o : Nat) :
    (State.poisFar s o).pending = s.pending := by
  unfold State.poisFar
  repeat' first
    | with_reducible rfl
    | (simp; done)
    | split
    | intro _
    | simp

@[simp] theorem State.clearSliceLines_pending (s : State) (l n : Nat) :
    (State.clearSliceLines s l n).pending = s.pending := by
  unfold State.clearSliceLines
  repeat' first
    | with_reducible rfl
    | (simp; done)
    | split
    | intro _
    | simp

@[simp] theorem State.clearFarLines_pending (s : State) (l n : Nat) :
    (State.clearFarLines s l n).pending = s.pending := by
  unfold State.clearFarLines
  repeat' first
    | with_reducible rfl
    | (simp; done)
    | split
    | intro _
    | simp

@[simp] theorem State.clearSlice_pending (s : State) (n : Nat) :
    (State.clearSlice s n).pending = s.pending := by
  unfold State.clearSlice
  repeat' first
    | with_reducible rfl
    | (simp; done)
    | split
    | intro _
    | simp

@[simp] theorem State.wrShelf_pending (s : State) (n off : Nat) (b : List Byte) :
    (State.wrShelf s n off b).pending = s.pending := by
  unfold State.wrShelf
  repeat' first
    | with_reducible rfl
    | (simp; done)
    | split
    | intro _
    | (refine (foldl_pending _ ?_ _ _).trans ?_)
    | simp

@[simp] theorem State.clearShelf_pending (s : State) (n : Nat) :
    (State.clearShelf s n).pending = s.pending := by
  unfold State.clearShelf
  repeat' first
    | with_reducible rfl
    | (simp; done)
    | split
    | intro _
    | simp

@[simp] theorem State.wrHost_pending (s : State) (a : Nat) (b : List Byte) :
    (State.wrHost s a b).pending = s.pending := by
  unfold State.wrHost
  repeat' first
    | with_reducible rfl
    | (simp; done)
    | split
    | intro _
    | (refine (foldl_pending _ ?_ _ _).trans ?_)
    | simp

end Sys2Proof.Machine
end

