-- ==== Sys2Proof/Laws/QueueFlags.lean ====
section
/-!
SUPPORT. The operations of Flags.lean leave the queue of waiting commands as it is.
-/
namespace Sys2Proof.Machine

@[simp] theorem State.send_pending (s : State) (m : Msg) :
    (State.send s m).pending = s.pending := by
  unfold State.send
  repeat' first
    | with_reducible rfl
    | (simp; done)
    | split
    | intro _
    | simp

@[simp] theorem State.signalVec_pending (s : State) (fn v : Nat) :
    (State.signalVec s fn v).pending = s.pending := by
  unfold State.signalVec
  repeat' first
    | with_reducible rfl
    | (simp; done)
    | split
    | intro _
    | simp

@[simp] theorem State.fire_pending (s : State) (fn v : Nat) :
    (State.fire s fn v).pending = s.pending := by
  unfold State.fire
  repeat' first
    | with_reducible rfl
    | (simp; done)
    | split
    | intro _
    | simp

@[simp] theorem State.raiseEvent_pending (s : State) (p : Nat) :
    (State.raiseEvent s p).pending = s.pending := by
  unfold State.raiseEvent
  repeat' first
    | with_reducible rfl
    | (simp; done)
    | split
    | intro _
    | simp

@[simp] theorem State.raiseAll_pending (s : State) :
    (State.raiseAll s).pending = s.pending := by
  unfold State.raiseAll
  repeat' first
    | with_reducible rfl
    | (simp; done)
    | split
    | intro _
    | (refine (foldl_pending _ ?_ _ _).trans ?_)
    | simp

@[simp] theorem State.fpEvent_pending (s : State) :
    (State.fpEvent s).pending = s.pending := by
  unfold State.fpEvent
  repeat' first
    | with_reducible rfl
    | (simp; done)
    | split
    | intro _
    | simp

@[simp] theorem State.count_pending (s : State) (n b k : Nat) :
    (State.count s n b k).pending = s.pending := by
  unfold State.count
  repeat' first
    | with_reducible rfl
    | (simp; done)
    | split
    | intro _
    | simp

@[simp] theorem State.globalOvf_pending (s : State) (b : Nat) :
    (State.globalOvf s b).pending = s.pending := by
  unfold State.globalOvf
  repeat' first
    | with_reducible rfl
    | (simp; done)
    | split
    | intro _
    | simp

@[simp] theorem State.accessError_pending (s : State) (q : Req) (bar off bytes : Nat) (wr : Bool) :
    (State.accessError s q bar off bytes wr).pending = s.pending := by
  unfold State.accessError
  repeat' first
    | with_reducible rfl
    | (simp; done)
    | split
    | intro _
    | simp

@[simp] theorem State.cxlRecord_pending (s : State) (ld log : Nat) (e : LogEnt) :
    (State.cxlRecord s ld log e).pending = s.pending := by
  unfold State.cxlRecord
  repeat' first
    | with_reducible rfl
    | (simp; done)
    | split
    | intro _
    | simp

@[simp] theorem State.logEvent_pending (s : State) (e : LogEnt) (lds : List Nat) :
    (State.logEvent s e lds).pending = s.pending := by
  unfold State.logEvent
  repeat' first
    | with_reducible rfl
    | (simp; done)
    | split
    | intro _
    | (refine (foldl_pending _ ?_ _ _).trans ?_)
    | simp

@[simp] theorem State.logFree_pending (s : State) :
    (State.logFree s).pending = s.pending := by
  unfold State.logFree
  repeat' first
    | with_reducible rfl
    | (simp; done)
    | split
    | intro _
    | simp

@[simp] theorem State.foreignWrite_pending (s : State) (y_ : Req) :
    (State.foreignWrite s y_).pending = s.pending := by
  unfold State.foreignWrite
  repeat' first
    | with_reducible rfl
    | (simp; done)
    | split
    | intro _
    | simp

@[simp] theorem State.setupTry_pending (s : State) (q : Req) (off bytes : Nat) (ok : Bool) (f : State → State) (hf : ∀ x0, (f x0).pending = x0.pending) :
    (State.setupTry s q off bytes ok f).pending = s.pending := by
  unfold State.setupTry
  repeat' first
    | with_reducible rfl
    | exact hf ..
    | (simp; done)
    | split
    | intro _
    | simp

@[simp] theorem State.stallTry_pending (s : State) (q : Req) (n off bytes : Nat) (ok : Bool) (f : State → State) (hf : ∀ x0, (f x0).pending = x0.pending) :
    (State.stallTry s q n off bytes ok f).pending = s.pending := by
  unfold State.stallTry
  repeat' first
    | with_reducible rfl
    | exact hf ..
    | (simp; done)
    | split
    | intro _
    | simp

@[simp] theorem State.logUe_pending (s : State) (e : LogEnt) (lds : List Nat) :
    (State.logUe s e lds).pending = s.pending := by
  unfold State.logUe
  repeat' first
    | with_reducible rfl
    | (simp; done)
    | split
    | intro _
    | simp

@[simp] theorem State.dbErr_pending (s : State) (p : Nat) :
    (State.dbErr s p).pending = s.pending := by
  unfold State.dbErr
  repeat' first
    | with_reducible rfl
    | (simp; done)
    | split
    | intro _
    | simp

@[simp] theorem State.injected_pending (s : State) (i : Nat) :
    (State.injected s i).pending = s.pending := by
  unfold State.injected
  repeat' first
    | with_reducible rfl
    | (simp; done)
    | split
    | intro _
    | simp

@[simp] theorem State.injectedBy_pending (s : State) (i : Option Nat) :
    (State.injectedBy s i).pending = s.pending := by
  unfold State.injectedBy
  repeat' first
    | with_reducible rfl
    | (simp; done)
    | split
    | intro _
    | simp

@[simp] theorem State.ledgerSet_pending (s : State) (off v : Nat) :
    (State.ledgerSet s off v).pending = s.pending := by
  unfold State.ledgerSet
  repeat' first
    | with_reducible rfl
    | (simp; done)
    | split
    | intro _
    | simp

@[simp] theorem State.ledgerAdd_pending (s : State) (off n : Nat) :
    (State.ledgerAdd s off n).pending = s.pending := by
  unfold State.ledgerAdd
  repeat' first
    | with_reducible rfl
    | (simp; done)
    | split
    | intro _
    | simp

end Sys2Proof.Machine
end

