-- ==== Sys2Proof/Laws/QueueSelog.lean ====
section
/-!
SUPPORT. The operations of Selog.lean leave the queue of waiting commands as it is.
-/
namespace Sys2Proof.Machine

@[simp] theorem State.updSel_pending (s : State) (n : Nat) (f : Tracer → Tracer) :
    (State.updSel s n f).pending = s.pending := by
  unfold State.updSel
  repeat' first
    | with_reducible rfl
    | (simp; done)
    | split
    | intro _
    | simp

@[simp] theorem State.selPut_pending (s : State) (n : Nat) (b : List Byte) (cyc : Nat) :
    (State.selPut s n b cyc).pending = s.pending := by
  unfold State.selPut
  repeat' first
    | with_reducible rfl
    | (simp; done)
    | split
    | intro _
    | simp

@[simp] theorem State.selSync_pending (s : State) (n : Nat) :
    (State.selSync s n).pending = s.pending := by
  unfold State.selSync
  repeat' first
    | with_reducible rfl
    | (simp; done)
    | split
    | intro _
    | simp

@[simp] theorem State.selOvf_pending (s : State) (n : Nat) :
    (State.selOvf s n).pending = s.pending := by
  unfold State.selOvf
  repeat' first
    | with_reducible rfl
    | (simp; done)
    | split
    | intro _
    | simp

@[simp] theorem State.selEmit_pending (s : State) (n th ty : Nat) (body : List Byte) (c : Nat) :
    (State.selEmit s n th ty body c).pending = s.pending := by
  unfold State.selEmit
  repeat' first
    | with_reducible rfl
    | (simp; done)
    | split
    | intro _
    | simp

@[simp] theorem State.selRep_pending (s : State) (n k : Nat) :
    (State.selRep s n k).pending = s.pending := by
  unfold State.selRep
  repeat' first
    | with_reducible rfl
    | (simp; done)
    | split
    | intro _
    | simp

@[simp] theorem State.selBr_pending (s : State) (n k : Nat) :
    (State.selBr s n k).pending = s.pending := by
  unfold State.selBr
  repeat' first
    | with_reducible rfl
    | (simp; done)
    | split
    | intro _
    | simp

@[simp] theorem State.selBranch_pending (s : State) (n k : Nat) (taken : Bool) :
    (State.selBranch s n k taken).pending = s.pending := by
  unfold State.selBranch
  repeat' first
    | with_reducible rfl
    | (simp; done)
    | split
    | intro _
    | simp

@[simp] theorem State.selThread_pending (s : State) (n k ty : Nat) (body : List Byte) :
    (State.selThread s n k ty body).pending = s.pending := by
  unfold State.selThread
  repeat' first
    | with_reducible rfl
    | (simp; done)
    | split
    | intro _
    | simp

@[simp] theorem State.selPacket_pending (s : State) (n k ty : Nat) (body : List Byte) :
    (State.selPacket s n k ty body).pending = s.pending := by
  unfold State.selPacket
  repeat' first
    | with_reducible rfl
    | (simp; done)
    | split
    | intro _
    | simp

@[simp] theorem State.selPc_pending (s : State) (n k reason : Nat) (pc : Word) :
    (State.selPc s n k reason pc).pending = s.pending := by
  unfold State.selPc
  repeat' first
    | with_reducible rfl
    | (simp; done)
    | split
    | intro _
    | simp

@[simp] theorem State.selEvent_pending (s : State) (n code : Nat) :
    (State.selEvent s n code).pending = s.pending := by
  unfold State.selEvent
  repeat' first
    | with_reducible rfl
    | (simp; done)
    | split
    | intro _
    | simp

@[simp] theorem State.selFreq_pending (s : State) (n old : Nat) :
    (State.selFreq s n old).pending = s.pending := by
  unfold State.selFreq
  repeat' first
    | with_reducible rfl
    | (simp; done)
    | split
    | intro _
    | simp

@[simp] theorem State.selSyncOn_pending (s : State) (n : Nat) :
    (State.selSyncOn s n).pending = s.pending := by
  unfold State.selSyncOn
  repeat' first
    | with_reducible rfl
    | (simp; done)
    | split
    | intro _
    | simp

@[simp] theorem State.selRetire_pending (s : State) (n k : Nat) (t : Thread) :
    (State.selRetire s n k t).pending = s.pending := by
  unfold State.selRetire
  repeat' first
    | with_reducible rfl
    | (simp; done)
    | split
    | intro _
    | simp

@[simp] theorem State.selWide_pending (s : State) (n k wop : Nat) (w : WF) (outcome iters cycles : Nat) :
    (State.selWide s n k wop w outcome iters cycles).pending = s.pending := by
  unfold State.selWide
  repeat' first
    | with_reducible rfl
    | (simp; done)
    | split
    | intro _
    | simp

@[simp] theorem State.selOp_pending (s : State) (n : Nat) (o : WOp) (outcome : Nat) :
    (State.selOp s n o outcome).pending = s.pending := by
  unfold State.selOp
  repeat' first
    | with_reducible rfl
    | (simp; done)
    | split
    | intro _
    | (refine (foldl_pending _ ?_ _ _).trans ?_)
    | simp

@[simp] theorem State.traced_pending (s : State) (n k wop : Nat) (w : WF) (f : State → State) (hf : ∀ x0, (f x0).pending = x0.pending) :
    (State.traced s n k wop w f).pending = s.pending := by
  unfold State.traced
  repeat' first
    | with_reducible rfl
    | exact hf ..
    | (simp; done)
    | split
    | intro _
    | simp

@[simp] theorem State.selReset_pending (s : State) (n : Nat) :
    (State.selReset s n).pending = s.pending := by
  unfold State.selReset
  repeat' first
    | with_reducible rfl
    | (simp; done)
    | split
    | intro _
    | simp

@[simp] theorem State.selDrop_pending (s : State) (n : Nat) :
    (State.selDrop s n).pending = s.pending := by
  unfold State.selDrop
  repeat' first
    | with_reducible rfl
    | (simp; done)
    | split
    | intro _
    | simp

end Sys2Proof.Machine
end

