-- ==== Sys2Proof/Laws/QueueFarPath.lean ====
section
/-!
SUPPORT. The operations of FarPath.lean leave the queue of waiting commands as it is.
-/
namespace Sys2Proof.Machine

@[simp] theorem State.enqueue_pending (s : State) (l : Nat) (wr : Bool) :
    (State.enqueue s l wr).pending = s.pending := by
  unfold State.enqueue
  repeat' first
    | with_reducible rfl
    | (simp; done)
    | split
    | intro _
    | simp

@[simp] theorem State.addPoison_pending (s : State) (l : List (Nat × Nat)) :
    (State.addPoison s l).pending = s.pending := by
  unfold State.addPoison
  repeat' first
    | with_reducible rfl
    | (simp; done)
    | split
    | intro _
    | simp

@[simp] theorem State.writeBack_pending (s : State) (l : Nat) :
    (State.writeBack s l).pending = s.pending := by
  unfold State.writeBack
  repeat' first
    | with_reducible rfl
    | (simp; done)
    | split
    | intro _
    | simp

@[simp] theorem State.setCache_pending (s : State) (set : Nat) (l : List CWay) :
    (State.setCache s set l).pending = s.pending := by
  unfold State.setCache
  repeat' first
    | with_reducible rfl
    | (simp; done)
    | split
    | intro _
    | simp

@[simp] theorem State.allocate_pending (s : State) (set line : Nat) (dirty : Bool) :
    (State.allocate s set line dirty).pending = s.pending := by
  unfold State.allocate
  repeat' first
    | with_reducible rfl
    | (simp; done)
    | split
    | intro _
    | simp

@[simp] theorem State.cacheAccess_pending (s : State) (l hint : Nat) (wr whole : Bool) :
    (State.cacheAccess s l hint wr whole).pending = s.pending := by
  unfold State.cacheAccess
  repeat' first
    | with_reducible rfl
    | (simp; done)
    | split
    | intro _
    | simp

@[simp] theorem State.farAccess_pending (s : State) (t : PTab) (o hint : Nat) (wr whole : Bool) :
    (State.farAccess s t o hint wr whole).pending = s.pending := by
  unfold State.farAccess
  repeat' first
    | with_reducible rfl
    | (simp; done)
    | split
    | intro _
    | simp

@[simp] theorem State.farTouch_pending (s : State) (t : PTab) (o n hint : Nat) (wr : Bool) :
    (State.farTouch s t o n hint wr).pending = s.pending := by
  unfold State.farTouch
  repeat' first
    | with_reducible rfl
    | (simp; done)
    | split
    | intro _
    | (refine (foldl_pending _ ?_ _ _).trans ?_)
    | simp

end Sys2Proof.Machine
end

