-- ==== Sys2Proof/Laws/QueueConvoy.lean ====
section
/-!
SUPPORT. The operations of Convoy.lean leave the queue of waiting commands as it is.
-/
namespace Sys2Proof.Machine

@[simp] theorem State.updConv_pending (s : State) (peer port : Nat) (f : Convoy → Convoy) :
    (State.updConv s peer port f).pending = s.pending := by
  unfold State.updConv
  repeat' first
    | with_reducible rfl
    | (simp; done)
    | split
    | intro _
    | simp

@[simp] theorem State.cvEmit_pending (s : State) (peer port : Nat) (q : CvPkt) :
    (State.cvEmit s peer port q).pending = s.pending := by
  unfold State.cvEmit
  repeat' first
    | with_reducible rfl
    | (simp; done)
    | split
    | intro _
    | simp

@[simp] theorem State.cvHello_pending (s : State) (peer port kind : Nat) :
    (State.cvHello s peer port kind).pending = s.pending := by
  unfold State.cvHello
  repeat' first
    | with_reducible rfl
    | (simp; done)
    | split
    | intro _
    | simp

@[simp] theorem State.cvBare_pending (s : State) (peer port kind flags : Nat) :
    (State.cvBare s peer port kind flags).pending = s.pending := by
  unfold State.cvBare
  repeat' first
    | with_reducible rfl
    | (simp; done)
    | split
    | intro _
    | simp

theorem State.cvRoom_pending (s : State) {t_ : State}  (hx_ : State.cvRoom s = some t_) :
    t_.pending = s.pending := by
  unfold State.cvRoom at hx_
  repeat' (first | split at hx_ | (cases hx_; done) | cases hx_)
  all_goals repeat' first
    | with_reducible rfl
    | (simp; done)
    | split
    | intro _
    | (refine (foldl_pending _ ?_ _ _).trans ?_)
    | simp

@[simp] theorem State.cvPump_pending (s : State) (peer port : Nat) :
    (State.cvPump s peer port).pending = s.pending := by
  unfold State.cvPump
  repeat' first
    | with_reducible rfl
    | (simp; done)
    | split
    | intro _
    | (refine (foldl_pending _ ?_ _ _).trans ?_)
    | (refine (State.cvRoom_pending (hx_ := ‹_›) ..).trans ?_)
    | simp

@[simp] theorem State.cvWake_pending (s : State) :
    (State.cvWake s).pending = s.pending := by
  unfold State.cvWake
  repeat' first
    | with_reducible rfl
    | (simp; done)
    | split
    | intro _
    | (refine (foldl_pending _ ?_ _ _).trans ?_)
    | simp

@[simp] theorem State.cvPut_pending (s : State) (peer port msg : Nat) (l : List CvPkt) :
    (State.cvPut s peer port msg l).pending = s.pending := by
  unfold State.cvPut
  repeat' first
    | with_reducible rfl
    | (simp; done)
    | split
    | intro _
    | simp

@[simp] theorem State.cvSubmit_pending (s : State) (d : Nat) (op : CvOp) (l : List CvPkt) :
    (State.cvSubmit s d op l).pending = s.pending := by
  unfold State.cvSubmit
  repeat' first
    | with_reducible rfl
    | (simp; done)
    | split
    | intro _
    | simp

@[simp] theorem State.cvReply_pending (s : State) (peer port : Nat) (q : CvPkt) :
    (State.cvReply s peer port q).pending = s.pending := by
  unfold State.cvReply
  repeat' first
    | with_reducible rfl
    | (simp; done)
    | split
    | intro _
    | simp

@[simp] theorem State.opWithdraw_pending (s : State) (peer port : Nat) (o : CvOp) (st : Nat) :
    (State.opWithdraw s peer port o st).pending = s.pending := by
  unfold State.opWithdraw
  repeat' first
    | with_reducible rfl
    | (simp; done)
    | split
    | intro _
    | simp

@[simp] theorem State.waitsWithdraw_pending (s : State) (f : TOwner → Bool) (st : Nat) :
    (State.waitsWithdraw s f st).pending = s.pending := by
  unfold State.waitsWithdraw
  repeat' first
    | with_reducible rfl
    | (simp; done)
    | split
    | intro _
    | (refine (foldl_pending _ ?_ _ _).trans ?_)
    | simp

@[simp] theorem State.cvTally_pending (s : State) (p d : Nat) (owner : TOwner) (id top cmp : Nat) (x : W32) (ra : Word) :
    (State.cvTally s p d owner id top cmp x ra).pending = s.pending := by
  unfold State.cvTally
  repeat' first
    | with_reducible rfl
    | (simp; done)
    | split
    | intro _
    | simp

end Sys2Proof.Machine
end

