-- ==== Sys2Proof/Laws/QueueOperands.lean ====
section
/-!
SUPPORT. The operations of Operands.lean leave the queue of waiting commands as it is.
-/
namespace Sys2Proof.Machine

@[simp] theorem State.fenceLog_pending (s : State) (n agent th : Nat) (wr : Bool) (addr : Word) (target : Option Nat) :
    (State.fenceLog s n agent th wr addr target).pending = s.pending := by
  unfold State.fenceLog
  repeat' first
    | with_reducible rfl
    | (simp; done)
    | split
    | intro _
    | simp

@[simp] theorem State.tgtPath_pending (s : State) (n hint : Nat) (t : Tgt) (len : Nat) (wr : Bool) :
    (State.tgtPath s n hint t len wr).pending = s.pending := by
  unfold State.tgtPath
  repeat' first
    | with_reducible rfl
    | (simp; done)
    | split
    | intro _
    | simp

@[simp] theorem State.stallRead_pending (s : State) (n agent th a len : Nat) (hint : Nat := 0) :
    (State.stallRead s n agent th a len hint).s.pending = s.pending := by
  unfold State.stallRead
  repeat' first
    | with_reducible rfl
    | (simp; done)
    | split
    | intro _
    | simp

@[simp] theorem State.tgtWrite_pending (s : State) (n agent : Nat) (t : Tgt) (b : List Byte) :
    (State.tgtWrite s n agent t b).s.pending = s.pending := by
  unfold State.tgtWrite
  repeat' first
    | with_reducible rfl
    | (simp; done)
    | split
    | intro _
    | simp

@[simp] theorem State.stallWrite_pending (s : State) (n agent th a : Nat) (b : List Byte) (hint : Nat := 0) :
    (State.stallWrite s n agent th a b hint).s.pending = s.pending := by
  unfold State.stallWrite
  repeat' first
    | with_reducible rfl
    | (simp; done)
    | split
    | intro _
    | simp

@[simp] theorem State.poisTgt_pending (s : State) (t : Tgt) :
    (State.poisTgt s t).pending = s.pending := by
  unfold State.poisTgt
  repeat' first
    | with_reducible rfl
    | (simp; done)
    | split
    | intro _
    | simp

@[simp] theorem Move.granule_pending (m : Move) (n th hint : Nat) :
    (Move.granule m n th hint).s.pending = m.s.pending := by
  unfold Move.granule
  repeat' first
    | with_reducible rfl
    | (simp; done)
    | split
    | intro _
    | simp

@[simp] theorem State.porterRun_pending (s : State) (n i g : Nat) :
    (State.porterRun s n i g).s.pending = s.pending := by
  unfold State.porterRun
  exact foldl_pend (fun m : Move => m.s) _ (fun m _ => by simp) _ _

@[simp] theorem State.porterStop_pending (s : State) (n i : Nat) :
    (State.porterStop s n i).pending = s.pending := by
  unfold State.porterStop
  repeat' first
    | with_reducible rfl
    | (simp; done)
    | split
    | intro _
    | simp

@[simp] theorem State.orphan_pending (s : State) (f : TOwner → Bool) :
    (State.orphan s f).pending = s.pending := by
  unfold State.orphan
  repeat' first
    | with_reducible rfl
    | (simp; done)
    | split
    | intro _
    | simp

@[simp] theorem State.reown_pending (s : State) (f : TOwner → TOwner) :
    (State.reown s f).pending = s.pending := by
  unfold State.reown
  repeat' first
    | with_reducible rfl
    | (simp; done)
    | split
    | intro _
    | simp

@[simp] theorem State.boundary_pending (s : State) (n : Nat) :
    (State.boundary s n).pending = s.pending := by
  unfold State.boundary
  repeat' first
    | with_reducible rfl
    | (simp; done)
    | split
    | intro _
    | simp

@[simp] theorem State.halt_pending (s : State) (n : Nat) :
    (State.halt s n).pending = s.pending := by
  unfold State.halt
  repeat' first
    | with_reducible rfl
    | (simp; done)
    | split
    | intro _
    | simp

@[simp] theorem State.haltWork_pending (s : State) (w : Work) :
    (State.haltWork s w).pending = s.pending := by
  unfold State.haltWork
  repeat' first
    | with_reducible rfl
    | (simp; done)
    | split
    | intro _
    | (refine (foldl_pending _ ?_ _ _).trans ?_)
    | simp

@[simp] theorem State.updItem_pending (s : State) (p r : Nat) (seq : W32) (f : Item → Item) :
    (State.updItem s p r seq f).pending = s.pending := by
  unfold State.updItem
  repeat' first
    | with_reducible rfl
    | (simp; done)
    | split
    | intro _
    | simp

@[simp] theorem State.unhandled_pending (s : State) (n cause : Nat) :
    (State.unhandled s n cause).pending = s.pending := by
  unfold State.unhandled
  repeat' first
    | with_reducible rfl
    | (simp; done)
    | split
    | intro _
    | simp

@[simp] theorem State.haltCheck_pending (s : State) (n : Nat) :
    (State.haltCheck s n).pending = s.pending := by
  unfold State.haltCheck
  repeat' first
    | with_reducible rfl
    | (simp; done)
    | split
    | intro _
    | simp

@[simp] theorem State.raiseExc_pending (s : State) (n k cause : Nat) (addr : Word) (half fetch group : Bool) :
    (State.raiseExc s n k cause addr half fetch group).pending = s.pending := by
  unfold State.raiseExc
  repeat' first
    | with_reducible rfl
    | (simp; done)
    | split
    | intro _
    | simp

@[simp] theorem State.scalar_pending (s : State) (n k : Nat) (f : Thread → State) (hf : ∀ x0, (f x0).pending = s.pending) :
    (State.scalar s n k f).pending = s.pending := by
  unfold State.scalar
  repeat' first
    | with_reducible rfl
    | exact hf ..
    | (simp; done)
    | split
    | intro _
    | simp

@[simp] theorem State.scalarDone_pending (s : State) (n k : Nat) (t : Thread) (next : Word) :
    (State.scalarDone s n k t next).pending = s.pending := by
  unfold State.scalarDone
  repeat' first
    | with_reducible rfl
    | (simp; done)
    | split
    | intro _
    | simp

@[simp] theorem State.scalarExc_pending (s : State) (n k cause : Nat) (addr : Word) :
    (State.scalarExc s n k cause addr).pending = s.pending := by
  unfold State.scalarExc
  repeat' first
    | with_reducible rfl
    | (simp; done)
    | split
    | intro _
    | simp

@[simp] theorem State.atStop_pending (s : State) (n k : Nat) :
    (State.atStop s n k).pending = s.pending := by
  unfold State.atStop
  repeat' first
    | with_reducible rfl
    | (simp; done)
    | split
    | intro _
    | simp

@[simp] theorem State.retirePair_pending (s : State) (n k : Nat) :
    (State.retirePair s n k).pending = s.pending := by
  unfold State.retirePair
  repeat' first
    | with_reducible rfl
    | (simp; done)
    | split
    | intro _
    | simp

@[simp] theorem State.syncRelease_pending (s : State) (n : Nat) :
    (State.syncRelease s n).pending = s.pending := by
  unfold State.syncRelease
  repeat' first
    | with_reducible rfl
    | (simp; done)
    | split
    | intro _
    | (refine (foldl_pending _ ?_ _ _).trans ?_)
    | simp

@[simp] theorem State.raiseGroup_pending (s : State) (n : Nat) :
    (State.raiseGroup s n).pending = s.pending := by
  unfold State.raiseGroup
  repeat' first
    | with_reducible rfl
    | (simp; done)
    | split
    | intro _
    | (refine (foldl_pending _ ?_ _ _).trans ?_)
    | simp

@[simp] theorem State.groupExc_pending (s : State) (n : Nat) (parts : List Nat) (cause : Nat) (addr : Word) :
    (State.groupExc s n parts cause addr).pending = s.pending := by
  unfold State.groupExc
  repeat' first
    | with_reducible rfl
    | (simp; done)
    | split
    | intro _
    | (refine (foldl_pending _ ?_ _ _).trans ?_)
    | simp

end Sys2Proof.Machine
end

