-- ==== Sys2Proof/Laws/QueueRecords.lean ====
section
/-!
SUPPORT. The operations of Records.lean leave the queue of waiting commands as it is.
-/
namespace Sys2Proof.Machine

@[simp] theorem State.fireRing_pending (s : State) (p r : Nat) :
    (State.fireRing s p r).pending = s.pending := by
  unfold State.fireRing
  repeat' first
    | with_reducible rfl
    | (simp; done)
    | split
    | intro _
    | simp

@[simp] theorem State.moderate_pending (s : State) (i : Item) :
    (State.moderate s i).pending = s.pending := by
  unfold State.moderate
  repeat' first
    | with_reducible rfl
    | (simp; done)
    | split
    | intro _
    | simp

@[simp] theorem State.putRecord_pending (s : State) (i : Item) (rt : Nat) :
    (State.putRecord s i rt).pending = s.pending := by
  unfold State.putRecord
  repeat' first
    | with_reducible rfl
    | (simp; done)
    | split
    | intro _
    | simp

@[simp] theorem State.writeRecord_pending (s : State) (i : Item) :
    (State.writeRecord s i).pending = s.pending := by
  unfold State.writeRecord
  repeat' first
    | with_reducible rfl
    | (simp; done)
    | split
    | intro _
    | simp

@[simp] theorem State.journal_pending (s : State) (i : Item) (stage : Stage) :
    (State.journal s i stage).pending = s.pending := by
  unfold State.journal
  repeat' first
    | with_reducible rfl
    | (simp; done)
    | split
    | intro _
    | simp

@[simp] theorem State.toStage_pending (s : State) (p r : Nat) (seq : W32) (g : Stage) :
    (State.toStage s p r seq g).pending = s.pending := by
  unfold State.toStage
  repeat' first
    | with_reducible rfl
    | (simp; done)
    | split
    | intro _
    | simp

@[simp] theorem State.finish_pending (s : State) (p r : Nat) (seq : W32) :
    (State.finish s p r seq).pending = s.pending := by
  unfold State.finish
  repeat' first
    | with_reducible rfl
    | (simp; done)
    | split
    | intro _
    | simp

@[simp] theorem State.reject_pending (s : State) (p r : Nat) (seq : W32) (st result : Nat) :
    (State.reject s p r seq st result).pending = s.pending := by
  unfold State.reject
  repeat' first
    | with_reducible rfl
    | (simp; done)
    | split
    | intro _
    | simp

@[simp] theorem State.revertOne_pending (s : State) (u : Undo) :
    (State.revertOne s u).pending = s.pending := by
  unfold State.revertOne
  repeat' first
    | with_reducible rfl
    | (simp; done)
    | split
    | intro _
    | (refine (foldl_pending _ ?_ _ _).trans ?_)
    | simp

@[simp] theorem State.indeterminate_pending (s : State) (l : List Undo) :
    (State.indeterminate s l).pending = s.pending := by
  unfold State.indeterminate
  repeat' first
    | with_reducible rfl
    | (simp; done)
    | split
    | intro _
    | (refine (foldl_pending _ ?_ _ _).trans ?_)
    | simp

end Sys2Proof.Machine
end

