-- ==== Sys2Proof/Laws/QueueNear.lean ====
section
/-!
SUPPORT. The operations of Near.lean leave the queue of waiting commands as it is.
-/
namespace Sys2Proof.Machine

@[simp] theorem State.nearReport_pending (s : State) (p ty a : Nat) :
    (State.nearReport s p ty a).pending = s.pending := by
  unfold State.nearReport
  repeat' first
    | with_reducible rfl
    | (simp; done)
    | split
    | intro _
    | simp

@[simp] theorem NearRes.write_pending (r : NearRes) (p ld d : Nat) (b : List Byte) :
    (NearRes.write r p ld d b).s.pending = r.s.pending := by
  unfold NearRes.write
  repeat' first
    | with_reducible rfl
    | (simp; done)
    | split
    | intro _
    | simp

@[simp] theorem State.nearRead_pending (s : State) (p ld d n : Nat) :
    (State.nearRead s p ld d n).1.pending = s.pending := by
  unfold State.nearRead
  repeat' first
    | with_reducible rfl
    | (simp; done)
    | split
    | intro _
    | simp

@[simp] theorem State.nearFill_pending (s : State) (p ld : Nat) (w : Near) :
    (State.nearFill s p ld w).s.pending = s.pending := by
  unfold State.nearFill
  refine foldl_pend (fun r : NearRes => r.s) _ (fun r x => ?_) _ _
  dsimp only
  split
  · simp
  · exact foldl_pend (fun r : NearRes => r.s) _ (fun r y => by simp) _ _

@[simp] theorem State.nearAddReduce_pending (s : State) (p ld : Nat) (w : Near) (data : List Byte) :
    (State.nearAddReduce s p ld w data).s.pending = s.pending := by
  unfold State.nearAddReduce
  exact foldl_pend (fun r : NearRes => r.s) _ (fun r x => by dsimp only; split <;> simp) _ _

@[simp] theorem State.nearGather_pending (s : State) (p ld : Nat) (w : Near) (data : List Byte) :
    (State.nearGather s p ld w data).s.pending = s.pending := by
  unfold State.nearGather
  dsimp only
  exact foldl_pend (fun r : State × Option Nat × List (Option (List W32)) => r.1) _
    (fun r x => foldl_pend (fun r : State × Option Nat × List (Option (List W32)) => r.1) _ (fun r x => by simp) _ _) _ _

@[simp] theorem State.nearCompare_pending (s : State) (p ld : Nat) (w : Near) :
    (State.nearCompare s p ld w).s.pending = s.pending := by
  unfold State.nearCompare
  exact foldl_pend (fun r : NearRes => r.s) _ (fun r x => by dsimp only; split <;> simp) _ _

@[simp] theorem State.nearRun_pending (s : State) (p ld : Nat) (w : Near) (data : List Byte) :
    (State.nearRun s p ld w data).s.pending = s.pending := by
  unfold State.nearRun
  repeat' first
    | with_reducible rfl
    | (simp; done)
    | split
    | intro _
    | simp

end Sys2Proof.Machine
end

