-- ==== Sys2Proof/Laws/QueueBuffers.lean ====
section
/-!
SUPPORT. The operations of Buffers.lean leave the queue of waiting commands as it is.
-/
namespace Sys2Proof.Machine

@[simp] theorem State.spaceTouch_pending (s : State) (ld kind a n hint : Nat) (wr : Bool) :
    (State.spaceTouch s ld kind a n hint wr).pending = s.pending := by
  unfold State.spaceTouch
  repeat' first
    | with_reducible rfl
    | (simp; done)
    | split
    | intro _
    | simp

@[simp] theorem State.granWrite_pending (s : State) (ld kind a : Nat) (b : List Byte) (hint : Nat := 0) :
    (State.granWrite s ld kind a b hint).s.pending = s.pending := by
  unfold State.granWrite
  repeat' first
    | with_reducible rfl
    | (simp; done)
    | split
    | intro _
    | simp

@[simp] theorem State.granPoison_pending (s : State) (ld kind a : Nat) :
    (State.granPoison s ld kind a).pending = s.pending := by
  unfold State.granPoison
  repeat' first
    | with_reducible rfl
    | (simp; done)
    | split
    | intro _
    | simp

@[simp] theorem State.spaceReport_pending (s : State) (p ty req kind a : Nat) :
    (State.spaceReport s p ty req kind a).pending = s.pending := by
  unfold State.spaceReport
  repeat' first
    | with_reducible rfl
    | (simp; done)
    | split
    | intro _
    | simp

@[simp] theorem State.itemWrite_pending (s : State) (p r : Nat) (seq : W32) (req kind a : Nat) (b : List Byte) (hint : Nat := 0) :
    (State.itemWrite s p r seq req kind a b hint).pending = s.pending := by
  unfold State.itemWrite
  repeat' first
    | with_reducible rfl
    | (simp; done)
    | split
    | intro _
    | (refine (foldl_pending _ ?_ _ _).trans ?_)
    | simp

@[simp] theorem State.itemCopy_pending (s0 : State) (p r : Nat) (seq : W32) (req : Nat) (ks sa kd da n : Nat) (hostFail : Option Nat) (hint : Nat) :
    (State.itemCopy s0 p r seq req ks sa kd da n hostFail hint).pending = s0.pending := by
  unfold State.itemCopy
  repeat' first
    | with_reducible rfl
    | (simp; done)
    | split
    | intro _
    | (refine (foldl_pending _ ?_ _ _).trans ?_)
    | simp

end Sys2Proof.Machine
end

