-- ==== Sys2Proof/Laws/QueueCollect.lean ====
section
/-!
SUPPORT. The operations of Collect.lean leave the queue of waiting commands as it is.
-/
namespace Sys2Proof.Machine

@[simp] theorem State.updColl_pending (s : State) (p r : Nat) (seq : W32) (f : Coll → Coll) :
    (State.updColl s p r seq f).pending = s.pending := by
  unfold State.updColl
  repeat' first
    | with_reducible rfl
    | (simp; done)
    | split
    | intro _
    | simp

@[simp] theorem State.cvMsg_pending (s : State) (d : Nat) :
    (State.cvMsg s d).1.pending = s.pending := by
  unfold State.cvMsg
  repeat' first
    | with_reducible rfl
    | (simp; done)
    | split
    | intro _
    | simp

@[simp] theorem State.collSend_pending (s : State) (c : Coll) (peer port msg step : Nat) (b : List Byte) :
    (State.collSend s c peer port msg step b).pending = s.pending := by
  unfold State.collSend
  repeat' first
    | with_reducible rfl
    | (simp; done)
    | split
    | intro _
    | simp

@[simp] theorem State.collBegin_pending (s : State) (c : Coll) :
    (State.collBegin s c).pending = s.pending := by
  unfold State.collBegin
  repeat' first
    | with_reducible rfl
    | (simp; done)
    | split
    | intro _
    | simp

@[simp] theorem State.collTake_pending (s : State) (x : Coll) :
    (State.collTake s x).pending = s.pending := by
  unfold State.collTake
  repeat' first
    | with_reducible rfl
    | (simp; done)
    | split
    | intro _
    | simp

@[simp] theorem State.collNext_pending (s : State) (p h : Nat) :
    (State.collNext s p h).pending = s.pending := by
  unfold State.collNext
  repeat' first
    | with_reducible rfl
    | (simp; done)
    | split
    | intro _
    | simp

@[simp] theorem State.collLeave_pending (s : State) (c : Coll) :
    (State.collLeave s c).pending = s.pending := by
  unfold State.collLeave
  repeat' first
    | with_reducible rfl
    | (simp; done)
    | split
    | intro _
    | simp

@[simp] theorem State.cvAbort_pending (s : State) (peer port msg st : Nat) :
    (State.cvAbort s peer port msg st).pending = s.pending := by
  unfold State.cvAbort
  repeat' first
    | with_reducible rfl
    | (simp; done)
    | split
    | intro _
    | simp

@[simp] theorem State.collAbort_pending (s : State) (c : Coll) (st : Nat) :
    (State.collAbort s c st).pending = s.pending := by
  unfold State.collAbort
  repeat' first
    | with_reducible rfl
    | (simp; done)
    | split
    | intro _
    | simp

@[simp] theorem State.collWrite_pending (s : State) (c : Coll) (q : Nat) (b : List Byte) :
    (State.collWrite s c q b).pending = s.pending := by
  unfold State.collWrite
  repeat' first
    | with_reducible rfl
    | (simp; done)
    | split
    | intro _
    | simp

@[simp] theorem State.collDone_pending (s : State) (c : Coll) :
    (State.collDone s c).pending = s.pending := by
  unfold State.collDone
  repeat' first
    | with_reducible rfl
    | (simp; done)
    | split
    | intro _
    | simp

@[simp] theorem State.collStep_pending (s : State) (c : Coll) :
    (State.collStep s c).pending = s.pending := by
  unfold State.collStep
  repeat' first
    | with_reducible rfl
    | (simp; done)
    | split
    | intro _
    | simp

@[simp] theorem State.collRun_pending (s : State) (p r : Nat) (seq : W32) (y_ : Nat) :
    (State.collRun s p r seq y_).pending = s.pending := by
  induction y_ generalizing s with
  | zero => rfl
  | succ n ih =>
    unfold State.collRun
    repeat' first
      | with_reducible rfl
      | (simp [ih]; done)
      | split
      | simp [ih]

@[simp] theorem State.collStop_pending (s : State) (c : Coll) (st : Nat) (tell : List (Nat × Nat × Nat)) :
    (State.collStop s c st tell).pending = s.pending := by
  unfold State.collStop
  repeat' first
    | with_reducible rfl
    | (simp; done)
    | split
    | intro _
    | (refine (foldl_pending _ ?_ _ _).trans ?_)
    | (refine (foldr_pending _ ?_ _ _).trans ?_)
    | simp

@[simp] theorem State.collStart_pending (s : State) (c : Coll) :
    (State.collStart s c).pending = s.pending := by
  unfold State.collStart
  repeat' first
    | with_reducible rfl
    | (simp; done)
    | split
    | intro _
    | simp

@[simp] theorem State.collReject_pending (s : State) (c : Coll) :
    (State.collReject s c).pending = s.pending := by
  unfold State.collReject
  repeat' first
    | with_reducible rfl
    | (simp; done)
    | split
    | intro _
    | (refine (foldl_pending _ ?_ _ _).trans ?_)
    | (refine (foldr_pending _ ?_ _ _).trans ?_)
    | simp

@[simp] theorem State.collPacket_pending (s : State) (c : Coll) (e : CvEarly) :
    (State.collPacket s c e).pending = s.pending := by
  unfold State.collPacket
  repeat' first
    | with_reducible rfl
    | (simp; done)
    | split
    | intro _
    | simp

@[simp] theorem State.collDrain_pending (s : State) (p h : Nat) (y_ : Nat) :
    (State.collDrain s p h y_).pending = s.pending := by
  induction y_ generalizing s with
  | zero => rfl
  | succ n ih =>
    unfold State.collDrain
    repeat' first
      | with_reducible rfl
      | (simp [ih]; done)
      | split
      | simp [ih]

@[simp] theorem State.collArrive_pending (s : State) (e : CvEarly) :
    (State.collArrive s e).pending = s.pending := by
  unfold State.collArrive
  repeat' first
    | with_reducible rfl
    | (simp; done)
    | split
    | intro _
    | simp

end Sys2Proof.Machine
end

