-- ==== Sys2Proof/Laws/QueueTallies.lean ====
section
/-!
SUPPORT. The operations of Tallies.lean leave the queue of waiting commands as it is.
-/
namespace Sys2Proof.Machine

@[simp] theorem State.setTallyVal_pending (s : State) (id : Nat) (v : W32) :
    (State.setTallyVal s id v).pending = s.pending := by
  unfold State.setTallyVal
  repeat' first
    | with_reducible rfl
    | (simp; done)
    | split
    | intro _
    | simp

@[simp] theorem State.sigDone_pending (s : State) (n k : Nat) (fail : Option (Nat × Word)) :
    (State.sigDone s n k fail).pending = s.pending := by
  unfold State.sigDone
  repeat' first
    | with_reducible rfl
    | (simp; done)
    | split
    | intro _
    | simp

@[simp] theorem State.rxWatchDone_pending (s : State) (peer port msg : Nat) :
    (State.rxWatchDone s peer port msg).pending = s.pending := by
  unfold State.rxWatchDone
  repeat' first
    | with_reducible rfl
    | (simp; done)
    | split
    | intro _
    | simp

@[simp] theorem State.tallyGive_pending (s : State) (o : TOwner) (op : Nat) (v : W32) :
    (State.tallyGive s o op v).pending = s.pending := by
  unfold State.tallyGive
  repeat' first
    | with_reducible rfl
    | (simp; done)
    | split
    | intro _
    | simp

@[simp] theorem State.tallyFail_pending (s : State) (o : TOwner) (op id st : Nat) :
    (State.tallyFail s o op id st).pending = s.pending := by
  unfold State.tallyFail
  repeat' first
    | with_reducible rfl
    | (simp; done)
    | split
    | intro _
    | simp

@[simp] theorem State.failWatches_pending (s : State) (id st : Nat) (keep : TOwner → Bool) :
    (State.failWatches s id st keep).pending = s.pending := by
  unfold State.failWatches
  repeat' first
    | with_reducible rfl
    | (simp; done)
    | split
    | intro _
    | (refine (foldl_pending _ ?_ _ _).trans ?_)
    | simp

@[simp] theorem State.poisonTally_pending (s : State) (id : Nat) :
    (State.poisonTally s id).pending = s.pending := by
  unfold State.poisonTally
  repeat' first
    | with_reducible rfl
    | (simp; done)
    | split
    | intro _
    | simp

@[simp] theorem State.wake_pending (s : State) (id : Nat) (v : W32) :
    (State.wake s id v).pending = s.pending := by
  unfold State.wake
  repeat' first
    | with_reducible rfl
    | (simp; done)
    | split
    | intro _
    | (refine (foldl_pending _ ?_ _ _).trans ?_)
    | simp

@[simp] theorem State.countTally_pending (s : State) (h : Nat) :
    (State.countTally s h).pending = s.pending := by
  unfold State.countTally
  repeat' first
    | with_reducible rfl
    | (simp; done)
    | split
    | intro _
    | simp

@[simp] theorem State.withdrawWait_pending (s : State) (y_ : TOwner) :
    (State.withdrawWait s y_).pending = s.pending := by
  unfold State.withdrawWait
  repeat' first
    | with_reducible rfl
    | (simp; done)
    | split
    | intro _
    | simp

@[simp] theorem State.tallyApply_pending (s : State) (o : TOp) :
    (State.tallyApply s o).pending = s.pending := by
  unfold State.tallyApply
  repeat' first
    | with_reducible rfl
    | (simp; done)
    | split
    | intro _
    | simp

@[simp] theorem State.tallyArrive_pending (s : State) (o : TOwner) (op : Nat) :
    (State.tallyArrive s o op).pending = s.pending := by
  unfold State.tallyArrive
  repeat' first
    | with_reducible rfl
    | (simp; done)
    | split
    | intro _
    | simp

@[simp] theorem State.tallySend_pending (s : State) (o : TOp) :
    (State.tallySend s o).pending = s.pending := by
  unfold State.tallySend
  repeat' first
    | with_reducible rfl
    | (simp; done)
    | split
    | intro _
    | simp

@[simp] theorem State.tallyFence_pending (s : State) (n k op id : Nat) :
    (State.tallyFence s n k op id).pending = s.pending := by
  unfold State.tallyFence
  repeat' first
    | with_reducible rfl
    | (simp; done)
    | split
    | intro _
    | simp

@[simp] theorem State.tallyInstr_pending (s : State) (n k : Nat) (rd ra rb : BitVec 5) (fn : BitVec 10) (op : Nat) :
    (State.tallyInstr s n k rd ra rb fn op).pending = s.pending := by
  unfold State.tallyInstr
  repeat' first
    | with_reducible rfl
    | (simp; done)
    | split
    | intro _
    | (refine (State.scalar_pending (hf := ?_) ..).trans ?_)
    | simp

@[simp] theorem State.respond_pending (s : State) (n k : Nat) :
    (State.respond s n k).pending = s.pending := by
  unfold State.respond
  repeat' first
    | with_reducible rfl
    | (simp; done)
    | split
    | intro _
    | simp

end Sys2Proof.Machine
end

