-- ==== Sys2Proof/Laws/QueueEnds.lean ====
section
/-!
SUPPORT. The operations of Ends.lean leave the queue of waiting commands as it is.
-/
namespace Sys2Proof.Machine

@[simp] theorem State.updJis_pending (s : State) (p : Nat) (f : JPitch → JPitch) :
    (State.updJis s p f).pending = s.pending := by
  unfold State.updJis
  repeat' first
    | with_reducible rfl
    | (simp; done)
    | split
    | intro _
    | simp

@[simp] theorem State.serviceWrite_pending (s : State) (p kind a : Nat) (b : List Byte) :
    (State.serviceWrite s p kind a b).pending = s.pending := by
  unfold State.serviceWrite
  repeat' first
    | with_reducible rfl
    | (simp; done)
    | split
    | intro _
    | (refine (foldl_pending _ ?_ _ _).trans ?_)
    | simp

@[simp] theorem State.progress_pending (s : State) (p : Nat) (q : JReq) (final : Bool) :
    (State.progress s p q final).pending = s.pending := by
  unfold State.progress
  repeat' first
    | with_reducible rfl
    | (simp; done)
    | split
    | intro _
    | simp

@[simp] theorem State.jDrop_pending (s : State) (p r : Nat) (seq : W32) :
    (State.jDrop s p r seq).pending = s.pending := by
  unfold State.jDrop
  repeat' first
    | with_reducible rfl
    | (simp; done)
    | split
    | intro _
    | simp

@[simp] theorem State.jEnd_pending (s : State) (p r : Nat) (seq : W32) (st reason : Nat) :
    (State.jEnd s p r seq st reason).pending = s.pending := by
  unfold State.jEnd
  repeat' first
    | with_reducible rfl
    | (simp; done)
    | split
    | intro _
    | simp

@[simp] theorem State.cvOpsEnd_pending (s : State) (p r : Nat) (seq : W32) (st : Nat) :
    (State.cvOpsEnd s p r seq st).pending = s.pending := by
  unfold State.cvOpsEnd
  repeat' first
    | with_reducible rfl
    | (simp; done)
    | split
    | intro _
    | (refine (foldl_pending _ ?_ _ _).trans ?_)
    | simp

@[simp] theorem State.collEnd_pending (s : State) (p r : Nat) (seq : W32) (st : Nat) :
    (State.collEnd s p r seq st).pending = s.pending := by
  unfold State.collEnd
  repeat' first
    | with_reducible rfl
    | (simp; done)
    | split
    | intro _
    | simp

@[simp] theorem State.landReport_pending (s : State) (p : Nat) (l : Landing) :
    (State.landReport s p l).pending = s.pending := by
  unfold State.landReport
  repeat' first
    | with_reducible rfl
    | (simp; done)
    | split
    | intro _
    | simp

@[simp] theorem State.rxEnd_pending (s : State) (peer port : Nat) (x : CvRx) (st : Nat) :
    (State.rxEnd s peer port x st).pending = s.pending := by
  unfold State.rxEnd
  repeat' first
    | with_reducible rfl
    | (simp; done)
    | split
    | intro _
    | simp

@[simp] theorem State.cvRefuse_pending (s : State) (peer port msg st : Nat) :
    (State.cvRefuse s peer port msg st).pending = s.pending := by
  unfold State.cvRefuse
  repeat' first
    | with_reducible rfl
    | (simp; done)
    | split
    | intro _
    | simp

@[simp] theorem State.settleDest_pending (s : State) (p r : Nat) (seq : W32) :
    (State.settleDest s p r seq).pending = s.pending := by
  unfold State.settleDest
  repeat' first
    | with_reducible rfl
    | (simp; done)
    | split
    | intro _
    | simp

@[simp] theorem State.freeStalls_pending (s : State) (i : Item) :
    (State.freeStalls s i).pending = s.pending := by
  unfold State.freeStalls
  repeat' first
    | with_reducible rfl
    | (simp; done)
    | split
    | intro _
    | (refine (foldl_pending _ ?_ _ _).trans ?_)
    | simp

@[simp] theorem State.endItemAs_pending (s : State) (p r : Nat) (seq : W32) (st reason : Nat) :
    (State.endItemAs s p r seq st reason).pending = s.pending := by
  unfold State.endItemAs
  repeat' first
    | with_reducible rfl
    | (simp; done)
    | split
    | intro _
    | simp

@[simp] theorem State.endItem_pending (s : State) (p r : Nat) (seq : W32) (st : Nat) :
    (State.endItem s p r seq st).pending = s.pending := by
  unfold State.endItem
  repeat' first
    | with_reducible rfl
    | (simp; done)
    | split
    | intro _
    | simp

@[simp] theorem State.endItemSoft_pending (s : State) (p r : Nat) (seq : W32) (st : Nat) :
    (State.endItemSoft s p r seq st).pending = s.pending := by
  unfold State.endItemSoft
  repeat' first
    | with_reducible rfl
    | (simp; done)
    | split
    | intro _
    | simp

@[simp] theorem State.endItems_pending (s : State) (f : Item → Bool) (st : Nat) :
    (State.endItems s f st).pending = s.pending := by
  unfold State.endItems
  repeat' first
    | with_reducible rfl
    | (simp; done)
    | split
    | intro _
    | (refine (foldl_pending _ ?_ _ _).trans ?_)
    | simp

end Sys2Proof.Machine
end

