-- ==== Sys2Proof/Laws/QueueWindow.lean ====
section
/-!
SUPPORT. The operations of Window.lean leave the queue of waiting commands as it is.
-/
namespace Sys2Proof.Machine

@[simp] theorem State.winErr_pending (s : State) (p : Nat) :
    (State.winErr s p).pending = s.pending := by
  unfold State.winErr
  repeat' first
    | with_reducible rfl
    | (simp; done)
    | split
    | intro _
    | simp

@[simp] theorem State.slotEnd_pending (s : State) (p n st : Nat) :
    (State.slotEnd s p n st).pending = s.pending := by
  unfold State.slotEnd
  repeat' first
    | with_reducible rfl
    | (simp; done)
    | split
    | intro _
    | simp

@[simp] theorem State.wcmd_pending (s : State) (p n : Nat) (v : Word) (wide : Bool) :
    (State.wcmd s p n v wide).pending = s.pending := by
  unfold State.wcmd
  repeat' first
    | with_reducible rfl
    | (simp; done)
    | split
    | intro _
    | (refine (foldl_pending _ ?_ _ _).trans ?_)
    | (refine (State.wide_pending (hf := ?_) ..).trans ?_)
    | simp

@[simp] theorem State.slotFinish_pending (s : State) (p n st ce : Nat) :
    (State.slotFinish s p n st ce).pending = s.pending := by
  unfold State.slotFinish
  repeat' first
    | with_reducible rfl
    | (simp; done)
    | split
    | intro _
    | simp

@[simp] theorem State.slotsEnd_pending (s : State) (st : Nat) (f : Nat → Bool) :
    (State.slotsEnd s st f).pending = s.pending := by
  unfold State.slotsEnd
  repeat' first
    | with_reducible rfl
    | (simp; done)
    | split
    | intro _
    | (refine (foldl_pending _ ?_ _ _).trans ?_)
    | simp

end Sys2Proof.Machine
end

