-- ==== Sys2Proof/Laws/QueueRings.lean ====
section
/-!
SUPPORT. The operations of Rings.lean leave the queue of waiting commands as it is.
-/
namespace Sys2Proof.Machine

@[simp] theorem State.ringWrite_pending (s : State) (q : Req) (p r : Nat) (f : State → State) (hf : ∀ x0, (f x0).pending = x0.pending) :
    (State.ringWrite s q p r f).pending = s.pending := by
  unfold State.ringWrite
  repeat' first
    | with_reducible rfl
    | exact hf ..
    | (simp; done)
    | split
    | intro _
    | (refine (State.setupTry_pending (hf := ?_) ..).trans ?_)
    | simp

@[simp] theorem State.cfgErr_pending (s : State) (p r : Nat) :
    (State.cfgErr s p r).pending = s.pending := by
  unfold State.cfgErr
  repeat' first
    | with_reducible rfl
    | (simp; done)
    | split
    | intro _
    | simp

@[simp] theorem State.enableRing_pending (s : State) (p r : Nat) :
    (State.enableRing s p r).pending = s.pending := by
  unfold State.enableRing
  repeat' first
    | with_reducible rfl
    | (simp; done)
    | split
    | intro _
    | simp

@[simp] theorem State.tailWrite_pending (s : State) (p r : Nat) (v : W32) :
    (State.tailWrite s p r v).pending = s.pending := by
  unfold State.tailWrite
  repeat' first
    | with_reducible rfl
    | (simp; done)
    | split
    | intro _
    | simp

@[simp] theorem State.headWrite_pending (s : State) (p r : Nat) (v : W32) :
    (State.headWrite s p r v).pending = s.pending := by
  unfold State.headWrite
  repeat' first
    | with_reducible rfl
    | (simp; done)
    | split
    | intro _
    | simp

@[simp] theorem State.turnDone_pending (s : State) (p r : Nat) :
    (State.turnDone s p r).pending = s.pending := by
  unfold State.turnDone
  repeat' first
    | with_reducible rfl
    | (simp; done)
    | split
    | intro _
    | simp

@[simp] theorem State.fetchOne_pending (s : State) (p r : Nat) :
    (State.fetchOne s p r).pending = s.pending := by
  unfold State.fetchOne
  repeat' first
    | with_reducible rfl
    | (simp; done)
    | split
    | intro _
    | simp

@[simp] theorem State.fetchSome_pending (s : State) (p r : Nat) (y_ : Nat) :
    (State.fetchSome s p r y_).pending = s.pending := by
  induction y_ generalizing s with
  | zero => rfl
  | succ n ih =>
    unfold State.fetchSome
    repeat' first
      | with_reducible rfl
      | (simp [ih]; done)
      | split
      | simp [ih]

@[simp] theorem State.fetchFailed_pending (s : State) (p r : Nat) :
    (State.fetchFailed s p r).pending = s.pending := by
  unfold State.fetchFailed
  repeat' first
    | with_reducible rfl
    | (simp; done)
    | split
    | intro _
    | simp

@[simp] theorem State.fetchRead_pending (s : State) (p r n : Nat) :
    (State.fetchRead s p r n).1.pending = s.pending := by
  unfold State.fetchRead
  repeat' first
    | with_reducible rfl
    | (simp; done)
    | split
    | intro _
    | simp

@[simp] theorem State.fetchTurn_pending (s : State) (p r : Nat) (fail : Bool) :
    (State.fetchTurn s p r fail).pending = s.pending := by
  unfold State.fetchTurn
  repeat' first
    | with_reducible rfl
    | (simp; done)
    | split
    | intro _
    | simp

@[simp] theorem State.releaseWrite_pending (s : State) (h : Held) :
    (State.releaseWrite s h).pending = s.pending := by
  unfold State.releaseWrite
  repeat' first
    | with_reducible rfl
    | (simp; done)
    | split
    | intro _
    | simp

@[simp] theorem State.releaseRaise_pending (s : State) (h : Held) :
    (State.releaseRaise s h).pending = s.pending := by
  unfold State.releaseRaise
  repeat' first
    | with_reducible rfl
    | (simp; done)
    | split
    | intro _
    | simp

@[simp] theorem State.release_pending (s : State) (fn : Nat) :
    (State.release s fn).pending = s.pending := by
  unfold State.release
  repeat' first
    | with_reducible rfl
    | (simp; done)
    | split
    | intro _
    | (refine (foldl_pending _ ?_ _ _).trans ?_)
    | simp

@[simp] theorem State.collsResume_pending (s : State) :
    (State.collsResume s).pending = s.pending := by
  unfold State.collsResume
  repeat' first
    | with_reducible rfl
    | (simp; done)
    | split
    | intro _
    | (refine (foldl_pending _ ?_ _ _).trans ?_)
    | simp

end Sys2Proof.Machine
end

