-- ==== Sys2Proof/Laws/QueueItems.lean ====
section
/-!
SUPPORT. The operations of Items.lean leave the queue of waiting commands as it is.
-/
namespace Sys2Proof.Machine

@[simp] theorem State.checked_pending {α : Type} (s : State) (i : Item) (c : Chk α) (f : α → State) (hf : ∀ x0, (f x0).pending = s.pending) :
    (State.checked s i c f).pending = s.pending := by
  unfold State.checked
  repeat' first
    | with_reducible rfl
    | exact hf ..
    | (simp; done)
    | split
    | intro _
    | simp

@[simp] theorem State.startItem_pending (s : State) (i : Item) :
    (State.startItem s i).pending = s.pending := by
  unfold State.startItem
  repeat' first
    | with_reducible rfl
    | (simp; done)
    | split
    | intro _
    | (refine (State.checked_pending (hf := ?_) ..).trans ?_)
    | simp

@[simp] theorem State.kernelStall_pending (s : State) (n : Nat) (w : Work) (mask : Nat) (pc : Word) (args : List Word) :
    (State.kernelStall s n w mask pc args).pending = s.pending := by
  unfold State.kernelStall
  repeat' first
    | with_reducible rfl
    | (simp; done)
    | split
    | intro _
    | simp

@[simp] theorem State.kernelStart_pending (s : State) (i : Item) (l : List Nat) :
    (State.kernelStart s i l).pending = s.pending := by
  unfold State.kernelStart
  repeat' first
    | with_reducible rfl
    | (simp; done)
    | split
    | intro _
    | (refine (foldl_pending _ ?_ _ _).trans ?_)
    | (refine (State.checked_pending (hf := ?_) ..).trans ?_)
    | simp

@[simp] theorem State.signalNow_pending (s : State) (p r : Nat) (seq : W32) (id : Nat) :
    (State.signalNow s p r seq id).1.pending = s.pending := by
  unfold State.signalNow
  repeat' first
    | with_reducible rfl
    | (simp; done)
    | split
    | intro _
    | simp

@[simp] theorem State.copyHostFail_pending (s : State) (i : Item) (g : Nat) :
    (State.copyHostFail s i g).pending = s.pending := by
  unfold State.copyHostFail
  repeat' first
    | with_reducible rfl
    | (simp; done)
    | split
    | intro _
    | (refine (foldl_pending _ ?_ _ _).trans ?_)
    | simp

@[simp] theorem State.endOwn_pending (s : State) (p r : Nat) (seq : W32) (ok : State → Item → State) (hf : ∀ x0 x1, (ok x0 x1).pending = x0.pending) :
    (State.endOwn s p r seq ok).pending = s.pending := by
  unfold State.endOwn
  repeat' first
    | with_reducible rfl
    | exact hf ..
    | (simp; done)
    | split
    | intro _
    | simp

@[simp] theorem State.batchPoison_pending (s : State) (i : Item) (w : Near) (b : Buf) (g : Nat) :
    (State.batchPoison s i w b g).pending = s.pending := by
  unfold State.batchPoison
  repeat' first
    | with_reducible rfl
    | (simp; done)
    | split
    | intro _
    | (refine (foldl_pending _ ?_ _ _).trans ?_)
    | simp

@[simp] theorem State.batchSums_pending (s : State) (i : Item) (b : Buf) (sums : List (Option (List Byte))) :
    (State.batchSums s i b sums).pending = s.pending := by
  unfold State.batchSums
  repeat' first
    | with_reducible rfl
    | (simp; done)
    | split
    | intro _
    | (refine (foldl_pending _ ?_ _ _).trans ?_)
    | simp

@[simp] theorem State.batchRun_pending (s : State) (i : Item) (l : List Buf) (hostFail : Option Nat) :
    (State.batchRun s i l hostFail).pending = s.pending := by
  unfold State.batchRun
  repeat' first
    | with_reducible rfl
    | (simp; done)
    | split
    | intro _
    | simp

end Sys2Proof.Machine
end

