-- ==== Sys2Proof/Laws/QueuePitches.lean ====
section
/-!
SUPPORT. The operations of Pitches.lean leave the queue of waiting commands as it is.
-/
namespace Sys2Proof.Machine

@[simp] theorem State.displace_pending (s : State) (m : Nat) :
    (State.displace s m).pending = s.pending := by
  unfold State.displace
  repeat' first
    | with_reducible rfl
    | (simp; done)
    | split
    | intro _
    | simp

@[simp] theorem State.autoDisplace_pending (s : State) :
    (State.autoDisplace s).pending = s.pending := by
  unfold State.autoDisplace
  repeat' first
    | with_reducible rfl
    | (simp; done)
    | split
    | intro _
    | simp

@[simp] theorem State.poisonFarLine_pending (s : State) (l : Nat) :
    (State.poisonFarLine s l).pending = s.pending := by
  unfold State.poisonFarLine
  repeat' first
    | with_reducible rfl
    | (simp; done)
    | split
    | intro _
    | simp

@[simp] theorem State.emptyStall_pending (s : State) (n : Nat) :
    (State.emptyStall s n).pending = s.pending := by
  unfold State.emptyStall
  repeat' first
    | with_reducible rfl
    | (simp; done)
    | split
    | intro _
    | simp

@[simp] theorem State.emptyMoved_pending (s : State) (n : Nat) :
    (State.emptyMoved s n).pending = s.pending := by
  unfold State.emptyMoved
  repeat' first
    | with_reducible rfl
    | (simp; done)
    | split
    | intro _
    | simp

@[simp] theorem State.applyGen_pending (s : State) (n : Nat) :
    (State.applyGen s n).pending = s.pending := by
  unfold State.applyGen
  repeat' first
    | with_reducible rfl
    | (simp; done)
    | split
    | intro _
    | simp

@[simp] theorem State.cacheFlush_pending (s : State) (o n : Nat) :
    (State.cacheFlush s o n).pending = s.pending := by
  unfold State.cacheFlush
  repeat' first
    | with_reducible rfl
    | (simp; done)
    | split
    | intro _
    | (refine (foldl_pending _ ?_ _ _).trans ?_)
    | simp

@[simp] theorem State.cacheDrop_pending (s : State) (o n : Nat) :
    (State.cacheDrop s o n).pending = s.pending := by
  unfold State.cacheDrop
  repeat' first
    | with_reducible rfl
    | (simp; done)
    | split
    | intro _
    | simp

@[simp] theorem State.clearFarLost_pending (s : State) (o t : PTab) (p : Nat) :
    (State.clearFarLost s o t p).pending = s.pending := by
  unfold State.clearFarLost
  repeat' first
    | with_reducible rfl
    | (simp; done)
    | split
    | intro _
    | (refine (foldl_pending _ ?_ _ _).trans ?_)
    | simp

@[simp] theorem State.clearTalliesLost_pending (s : State) (o t : PTab) (p : Nat) :
    (State.clearTalliesLost s o t p).pending = s.pending := by
  unfold State.clearTalliesLost
  repeat' first
    | with_reducible rfl
    | (simp; done)
    | split
    | intro _
    | simp

@[simp] theorem State.commitPitch_pending (s : State) (o t : PTab) (p : Nat) :
    (State.commitPitch s o t p).pending = s.pending := by
  unfold State.commitPitch
  repeat' first
    | with_reducible rfl
    | (simp; done)
    | split
    | intro _
    | simp

@[simp] theorem State.commit_pending (s : State) :
    (State.commit s).pending = s.pending := by
  unfold State.commit
  repeat' first
    | with_reducible rfl
    | (simp; done)
    | split
    | intro _
    | (refine (foldl_pending _ ?_ _ _).trans ?_)
    | simp

@[simp] theorem State.resetOutside_pending (s : State) (p : Nat) :
    (State.resetOutside s p).pending = s.pending := by
  unfold State.resetOutside
  repeat' first
    | with_reducible rfl
    | (simp; done)
    | split
    | intro _
    | (refine (foldl_pending _ ?_ _ _).trans ?_)
    | simp

@[simp] theorem State.resetWork_pending (s : State) (p : Nat) :
    (State.resetWork s p).pending = s.pending := by
  unfold State.resetWork
  repeat' first
    | with_reducible rfl
    | (simp; done)
    | split
    | intro _
    | (refine (foldl_pending _ ?_ _ _).trans ?_)
    | simp

@[simp] theorem State.resetState_pending (s : State) (p : Nat) :
    (State.resetState s p).pending = s.pending := by
  unfold State.resetState
  repeat' first
    | with_reducible rfl
    | (simp; done)
    | split
    | intro _
    | (refine (foldl_pending _ ?_ _ _).trans ?_)
    | simp

@[simp] theorem State.resetScrub_pending (s : State) (p : Nat) :
    (State.resetScrub s p).pending = s.pending := by
  unfold State.resetScrub
  repeat' first
    | with_reducible rfl
    | (simp; done)
    | split
    | intro _
    | (refine (foldl_pending _ ?_ _ _).trans ?_)
    | simp

@[simp] theorem State.pitchReset_pending (s : State) (p : Nat) (scrub : Bool) :
    (State.pitchReset s p scrub).pending = s.pending := by
  unfold State.pitchReset
  repeat' first
    | with_reducible rfl
    | (simp; done)
    | split
    | intro _
    | simp

@[simp] theorem State.flrRegs_pending (s : State) (p : Nat) :
    (State.flrRegs s p).pending = s.pending := by
  unfold State.flrRegs
  repeat' first
    | with_reducible rfl
    | (simp; done)
    | split
    | intro _
    | simp

@[simp] theorem State.functionReset_pending (s : State) (fn : Nat) :
    (State.functionReset s fn).pending = s.pending := by
  unfold State.functionReset
  repeat' first
    | with_reducible rfl
    | (simp; done)
    | split
    | intro _
    | (refine (foldl_pending _ ?_ _ _).trans ?_)
    | simp

end Sys2Proof.Machine
end

