-- ==== Sys2Proof/Laws/QueueSlices.lean ====
section
/-!
SUPPORT. The operations of Slices.lean leave the queue of waiting commands as it is.
-/
namespace Sys2Proof.Machine

@[simp] theorem State.frameBoundary_pending (s : State) (h : Nat) :
    (State.frameBoundary s h).pending = s.pending := by
  unfold State.frameBoundary
  repeat' first
    | with_reducible rfl
    | (simp; done)
    | split
    | intro _
    | (refine (foldl_pending _ ?_ _ _).trans ?_)
    | simp

@[simp] theorem State.lineRequest_pending (s : State) (n off cyc : Nat) (k : AccKind) (near : Bool) :
    (State.lineRequest s n off cyc k near).pending = s.pending := by
  unfold State.lineRequest
  repeat' first
    | with_reducible rfl
    | (simp; done)
    | split
    | intro _
    | simp

end Sys2Proof.Machine
end

