-- ==== Sys2Proof/Laws/QueueStallRegs.lean ====
section
/-!
SUPPORT. The operations of StallRegs.lean leave the queue of waiting commands as it is.
-/
namespace Sys2Proof.Machine

@[simp] theorem State.keepBlock_pending (s : State) (n : Nat) :
    (State.keepBlock s n).pending = s.pending := by
  unfold State.keepBlock
  repeat' first
    | with_reducible rfl
    | (simp; done)
    | split
    | intro _
    | simp

end Sys2Proof.Machine
end

