-- ==== Sys2Proof/Laws/QueueFloor.lean ====
section
/-!
SUPPORT. The operations of Floor.lean leave the queue of waiting commands as it is.
-/
namespace Sys2Proof.Machine

@[simp] theorem State.coolMsg_pending (s : State) (cmd : Nat) (data : List Byte) :
    (State.coolMsg s cmd data).pending = s.pending := by
  unfold State.coolMsg
  repeat' first
    | with_reducible rfl
    | (simp; done)
    | split
    | intro _
    | simp

@[simp] theorem State.thLog_pending (s : State) (cause hall : Nat) (reading : Int) :
    (State.thLog s cause hall reading).pending = s.pending := by
  unfold State.thLog
  repeat' first
    | with_reducible rfl
    | (simp; done)
    | split
    | intro _
    | simp

@[simp] theorem State.updRail_pending (s : State) (r : Nat) (f : Rail → Rail) :
    (State.updRail s r f).pending = s.pending := by
  unfold State.updRail
  repeat' first
    | with_reducible rfl
    | (simp; done)
    | split
    | intro _
    | simp

@[simp] theorem State.pwrLog_pending (s : State) (cause rail cap : Nat) :
    (State.pwrLog s cause rail cap).pending = s.pending := by
  unfold State.pwrLog
  repeat' first
    | with_reducible rfl
    | (simp; done)
    | split
    | intro _
    | simp

@[simp] theorem State.dlAppend_pending (s : State) (r : Word) :
    (State.dlAppend s r).pending = s.pending := by
  unfold State.dlAppend
  repeat' first
    | with_reducible rfl
    | (simp; done)
    | split
    | intro _
    | simp

@[simp] theorem State.reslew_pending (s : State) (n : Nat) :
    (State.reslew s n).pending = s.pending := by
  unfold State.reslew
  repeat' first
    | with_reducible rfl
    | (simp; done)
    | split
    | intro _
    | simp

@[simp] theorem State.reslewHall_pending (s : State) (h : Nat) :
    (State.reslewHall s h).pending = s.pending := by
  unfold State.reslewHall
  repeat' first
    | with_reducible rfl
    | (simp; done)
    | split
    | intro _
    | (refine (foldl_pending _ ?_ _ _).trans ?_)
    | simp

@[simp] theorem State.reslewAll_pending (s : State) :
    (State.reslewAll s).pending = s.pending := by
  unfold State.reslewAll
  repeat' first
    | with_reducible rfl
    | (simp; done)
    | split
    | intro _
    | (refine (foldl_pending _ ?_ _ _).trans ?_)
    | simp

@[simp] theorem State.setClk_pending (s : State) (n : Nat) (f : ClkSt → ClkSt) :
    (State.setClk s n f).pending = s.pending := by
  unfold State.setClk
  repeat' first
    | with_reducible rfl
    | (simp; done)
    | split
    | intro _
    | simp

@[simp] theorem State.slotStale_pending (s : State) (p k st : Nat) :
    (State.slotStale s p k st).pending = s.pending := by
  unfold State.slotStale
  repeat' first
    | with_reducible rfl
    | (simp; done)
    | split
    | intro _
    | simp

@[simp] theorem State.loadEnds_pending (s : State) (p k st : Nat) :
    (State.loadEnds s p k st).pending = s.pending := by
  unfold State.loadEnds
  repeat' first
    | with_reducible rfl
    | (simp; done)
    | split
    | intro _
    | simp

@[simp] theorem State.migrate_pending (s : State) (p k i n : Nat) :
    (State.migrate s p k i n).pending = s.pending := by
  unfold State.migrate
  repeat' first
    | with_reducible rfl
    | (simp; done)
    | split
    | intro _
    | simp

@[simp] theorem State.jisStallGone_pending (s : State) (n : Nat) :
    (State.jisStallGone s n).pending = s.pending := by
  unfold State.jisStallGone
  repeat' first
    | with_reducible rfl
    | (simp; done)
    | split
    | intro _
    | (refine (foldl_pending _ ?_ _ _).trans ?_)
    | simp

@[simp] theorem State.stallEnds_pending (s : State) (n st : Nat) :
    (State.stallEnds s n st).pending = s.pending := by
  unfold State.stallEnds
  repeat' first
    | with_reducible rfl
    | (simp; done)
    | split
    | intro _
    | simp

@[simp] theorem State.retireStall_pending (s : State) (n cause : Nat) :
    (State.retireStall s n cause).pending = s.pending := by
  unfold State.retireStall
  repeat' first
    | with_reducible rfl
    | (simp; done)
    | split
    | intro _
    | simp

@[simp] theorem State.fenceHall_pending (s : State) (h cause st : Nat) :
    (State.fenceHall s h cause st).pending = s.pending := by
  unfold State.fenceHall
  repeat' first
    | with_reducible rfl
    | (simp; done)
    | split
    | intro _
    | (refine (foldl_pending _ ?_ _ _).trans ?_)
    | simp

@[simp] theorem State.hallWatches_pending (s : State) (h st : Nat) (keep : TOwner → Bool) :
    (State.hallWatches s h st keep).pending = s.pending := by
  unfold State.hallWatches
  repeat' first
    | with_reducible rfl
    | (simp; done)
    | split
    | intro _
    | (refine (foldl_pending _ ?_ _ _).trans ?_)
    | simp

@[simp] theorem State.cutOff_pending (s : State) (h : Nat) :
    (State.cutOff s h).pending = s.pending := by
  unfold State.cutOff
  repeat' first
    | with_reducible rfl
    | (simp; done)
    | split
    | intro _
    | simp

@[simp] theorem State.updPair_pending (s : State) (q : Nat) (f : PairSt → PairSt) :
    (State.updPair s q f).pending = s.pending := by
  unfold State.updPair
  repeat' first
    | with_reducible rfl
    | (simp; done)
    | split
    | intro _
    | simp

@[simp] theorem State.freeJournal_pending (s : State) (jpos : W32) :
    (State.freeJournal s jpos).pending = s.pending := by
  unfold State.freeJournal
  repeat' first
    | with_reducible rfl
    | (simp; done)
    | split
    | intro _
    | simp

@[simp] theorem State.commitCkpt_pending (s : State) (q : Nat) :
    (State.commitCkpt s q).pending = s.pending := by
  unfold State.commitCkpt
  repeat' first
    | with_reducible rfl
    | (simp; done)
    | split
    | intro _
    | simp

end Sys2Proof.Machine
end

