-- ==== Sys2Proof/Laws/QueueIntegrity.lean ====
section
/-!
SUPPORT. The operations of Integrity.lean leave the queue of waiting commands as it is.
-/
namespace Sys2Proof.Machine

@[simp] theorem State.storeUnit_pending (s : State) (u : EUnit) (b : List Byte) :
    (State.storeUnit s u b).pending = s.pending := by
  unfold State.storeUnit
  repeat' first
    | with_reducible rfl
    | (simp; done)
    | split
    | intro _
    | simp

@[simp] theorem State.rewritten_pending (s : State) (u : EUnit) (e : List (Nat × BitVec 16)) :
    (State.rewritten s u e).pending = s.pending := by
  unfold State.rewritten
  repeat' first
    | with_reducible rfl
    | (simp; done)
    | split
    | intro _
    | simp

@[simp] theorem State.poisonBlock_pending (s : State) (far : Bool) (blk : Nat) :
    (State.poisonBlock s far blk).pending = s.pending := by
  unfold State.poisonBlock
  repeat' first
    | with_reducible rfl
    | (simp; done)
    | split
    | intro _
    | simp

@[simp] theorem State.poisonUnit_pending (s : State) (u : EUnit) :
    (State.poisonUnit s u).pending = s.pending := by
  unfold State.poisonUnit
  repeat' first
    | with_reducible rfl
    | (simp; done)
    | split
    | intro _
    | simp

@[simp] theorem State.injRead_pending (s : State) (u : EUnit) (e : List (Nat × BitVec 16)) :
    (State.injRead s u e).s.pending = s.pending := by
  have h : ∀ (c : Prop) [Decidable c] (a b : InjRead), a.s.pending = s.pending → b.s.pending = s.pending →
      (if c then a else b).s.pending = s.pending := by
    intro c _ a b ha hb
    split <;> assumption
  unfold State.injRead
  cases s.injector u with
  | none => rfl
  | some i => exact h _ _ _ (State.injected_pending ..) (h _ _ _ (State.injected_pending ..) rfl)

@[simp] theorem State.countHit_pending (s : State) (h : Hit) :
    (State.countHit s h).pending = s.pending := by
  unfold State.countHit
  repeat' first
    | with_reducible rfl
    | (simp; done)
    | split
    | intro _
    | simp

@[simp] theorem State.dropHits_pending (s : State) (f : Hit → Bool) :
    (State.dropHits s f).pending = s.pending := by
  unfold State.dropHits
  repeat' first
    | with_reducible rfl
    | (simp; done)
    | split
    | intro _
    | simp

@[simp] theorem State.retireRow_pending (s : State) (n row : Nat) :
    (State.retireRow s n row).pending = s.pending := by
  unfold State.retireRow
  repeat' first
    | with_reducible rfl
    | (simp; done)
    | split
    | intro _
    | simp

@[simp] theorem State.eraseBond_pending (s : State) (n port sym : Nat) :
    (State.eraseBond s n port sym).pending = s.pending := by
  unfold State.eraseBond
  repeat' first
    | with_reducible rfl
    | (simp; done)
    | split
    | intro _
    | simp

@[simp] theorem State.failModule_pending (s : State) (m : Nat) :
    (State.failModule s m).pending = s.pending := by
  unfold State.failModule
  repeat' first
    | with_reducible rfl
    | (simp; done)
    | split
    | intro _
    | simp

@[simp] theorem State.retireChannel_pending (s : State) (ch : Nat) :
    (State.retireChannel s ch).pending = s.pending := by
  unfold State.retireChannel
  repeat' first
    | with_reducible rfl
    | (simp; done)
    | split
    | intro _
    | simp

@[simp] theorem State.remapFarRow_pending (s : State) (ch row off : Nat) :
    (State.remapFarRow s ch row off).pending = s.pending := by
  unfold State.remapFarRow
  repeat' first
    | with_reducible rfl
    | (simp; done)
    | split
    | intro _
    | simp

@[simp] theorem State.disableWay_pending (s : State) (set way : Nat) :
    (State.disableWay s set way).pending = s.pending := by
  unfold State.disableWay
  repeat' first
    | with_reducible rfl
    | (simp; done)
    | split
    | intro _
    | simp

@[simp] theorem State.hardEvent_pending (s : State) (u : EUnit) (ue : Bool) (sym : Nat) :
    (State.hardEvent s u ue sym).pending = s.pending := by
  unfold State.hardEvent
  repeat' first
    | with_reducible rfl
    | (simp; done)
    | split
    | intro _
    | simp

@[simp] theorem State.logUnit_pending (s : State) (ty : Nat) (u : EUnit) (who : EReq) (sym : Nat) (synd count : Nat) (pois : Bool) :
    (State.logUnit s ty u who sym synd count pois).pending = s.pending := by
  unfold State.logUnit
  repeat' first
    | with_reducible rfl
    | (simp; done)
    | split
    | intro _
    | simp

@[simp] theorem State.countCe_pending (s : State) (who : EReq) :
    (State.countCe s who).pending = s.pending := by
  unfold State.countCe
  repeat' first
    | with_reducible rfl
    | (simp; done)
    | split
    | intro _
    | simp

@[simp] theorem State.reportUe_pending (s : State) (u : EUnit) (who : EReq) :
    (State.reportUe s u who).pending = s.pending := by
  unfold State.reportUe
  repeat' first
    | with_reducible rfl
    | (simp; done)
    | split
    | intro _
    | simp

@[simp] theorem State.markReported_pending (s : State) (u : EUnit) (who : EReq) :
    (State.markReported s u who).pending = s.pending := by
  unfold State.markReported
  repeat' first
    | with_reducible rfl
    | (simp; done)
    | split
    | intro _
    | simp

@[simp] theorem State.retryFrom_pending (u : EUnit) (who : EReq) (x : InjRead) (e2 e3 rb : List (Nat × BitVec 16)) :
    (State.retryFrom u who x e2 e3 rb).pending = x.s.pending := by
  unfold State.retryFrom
  repeat' first
    | with_reducible rfl
    | (simp; done)
    | split
    | intro _
    | simp

@[simp] theorem State.retried_pending (s : State) (u : EUnit) (who : EReq) (e1 e2 e3 rb : List (Nat × BitVec 16)) :
    (State.retried s u who e1 e2 e3 rb).pending = s.pending := by
  unfold State.retried
  repeat' first
    | with_reducible rfl
    | (simp; done)
    | split
    | intro _
    | simp

@[simp] theorem State.softCe_pending (s : State) (u : EUnit) (who : EReq) (i synd : Nat) :
    (State.softCe s u who i synd).pending = s.pending := by
  unfold State.softCe
  repeat' first
    | with_reducible rfl
    | (simp; done)
    | split
    | intro _
    | simp

@[simp] theorem State.hardCe_pending (s : State) (u : EUnit) (who : EReq) (i synd : Nat) (counts : Bool) :
    (State.hardCe s u who i synd counts).pending = s.pending := by
  unfold State.hardCe
  repeat' first
    | with_reducible rfl
    | (simp; done)
    | split
    | intro _
    | simp

@[simp] theorem State.reread_pending (u : EUnit) (who : EReq) (x : InjRead) (y_ : List (List (Nat × BitVec 16))) :
    (State.reread u who x y_).pending = x.s.pending := by
  have hr : ∀ (v : State) (e) (i : Nat) (t : State), v.rewrite u e = some (i, t) → t.pending = v.pending := by
    intro v e i t h
    unfold State.rewrite at h
    repeat' split at h
    all_goals first | (cases h; done) | (simp only [Option.some.injEq, Prod.mk.injEq] at h; obtain ⟨-, rfl⟩ := h; simp)
  induction y_ generalizing x with
  | nil =>
    unfold State.reread
    split
    · rename_i i t h
      simp [hr _ _ _ _ h]
    · rfl
  | cons e2 rest ih =>
    unfold State.reread
    split
    · rename_i i t h
      extract_lets r
      have hr' : r.s.pending = x.s.pending := (State.injRead_pending ..).trans (hr _ _ _ _ h)
      split
      · simp [hr']
      · split
        · simp [hr']
        · simp [ih, hr']
      · exact (State.retryFrom_pending ..).trans ((State.hardCe_pending ..).trans hr')
    · rfl

@[simp] theorem State.corrected_pending (s : State) (u : EUnit) (who : EReq) (e1 : List (Nat × BitVec 16)) (es : List (List (Nat × BitVec 16))) :
    (State.corrected s u who e1 es).pending = s.pending := by
  unfold State.corrected
  repeat' first
    | with_reducible rfl
    | (simp; done)
    | split
    | intro _
    | simp

@[simp] theorem State.clearUe_pending (s : State) (u : EUnit) :
    (State.clearUe s u).pending = s.pending := by
  unfold State.clearUe
  repeat' first
    | with_reducible rfl
    | (simp; done)
    | split
    | intro _
    | simp

@[simp] theorem State.readBack_pending (s : State) (u : EUnit) (who : EReq) (rb : List (Nat × BitVec 16)) (es : List (List (Nat × BitVec 16))) :
    (State.readBack s u who rb es).pending = s.pending := by
  unfold State.readBack
  repeat' first
    | with_reducible rfl
    | (simp; done)
    | split
    | intro _
    | simp

@[simp] theorem State.rowCopyDone_pending (s : State) (n row : Nat) :
    (State.rowCopyDone s n row).pending = s.pending := by
  unfold State.rowCopyDone
  repeat' first
    | with_reducible rfl
    | (simp; done)
    | split
    | intro _
    | simp

@[simp] theorem State.packetTold_pending (s : State) (k : PktUse) :
    (State.packetTold s k).pending = s.pending := by
  unfold State.packetTold
  repeat' first
    | with_reducible rfl
    | (simp; done)
    | split
    | intro _
    | simp

@[simp] theorem State.packetLost_pending (s : State) (src dst : Nat) (k : PktUse) (counts : Bool) :
    (State.packetLost s src dst k counts).pending = s.pending := by
  unfold State.packetLost
  repeat' first
    | with_reducible rfl
    | (simp; done)
    | split
    | intro _
    | (refine (foldl_pending _ ?_ _ _).trans ?_)
    | simp

@[simp] theorem State.packetResend_pending (s : State) (src dst id : Nat) (k : PktUse) (b : List Byte) :
    (State.packetResend s src dst id k b).pending = s.pending := by
  unfold State.packetResend
  repeat' first
    | with_reducible rfl
    | (simp; done)
    | split
    | intro _
    | simp

@[simp] theorem State.scrubbed_pending (s : State) (u : Nat → EUnit) (w : List (Nat × List (List (Nat × BitVec 16)))) :
    (State.scrubbed s u w).pending = s.pending := by
  unfold State.scrubbed
  repeat' first
    | with_reducible rfl
    | (simp; done)
    | split
    | intro _
    | (refine (foldl_pending _ ?_ _ _).trans ?_)
    | simp

@[simp] theorem State.sliceScrub_pending (s : State) (n port : Nat) (w : List (Nat × List (List (Nat × BitVec 16)))) :
    (State.sliceScrub s n port w).pending = s.pending := by
  unfold State.sliceScrub
  repeat' first
    | with_reducible rfl
    | (simp; done)
    | split
    | intro _
    | simp

@[simp] theorem State.farScrub_pending (s : State) (ch : Nat) (w : List (Nat × List (List (Nat × BitVec 16)))) :
    (State.farScrub s ch w).pending = s.pending := by
  unfold State.farScrub
  repeat' first
    | with_reducible rfl
    | (simp; done)
    | split
    | intro _
    | (refine (foldl_pending _ ?_ _ _).trans ?_)
    | simp

@[simp] theorem State.backUp_pending (s : State) (far : Bool) (n : Nat) :
    (State.backUp s far n).pending = s.pending := by
  unfold State.backUp
  repeat' first
    | with_reducible rfl
    | (simp; done)
    | split
    | intro _
    | simp

@[simp] theorem State.entryRead_pending (s : State) (q : Req) (i : Nat) :
    (State.entryRead s q i).pending = s.pending := by
  unfold State.entryRead
  repeat' first
    | with_reducible rfl
    | (simp; done)
    | split
    | intro _
    | simp

end Sys2Proof.Machine
end

