-- ==== Sys2Proof/Laws/QueueClocks.lean ====
section
/-!
SUPPORT. The operations of Clocks.lean leave the queue of waiting commands as it is.
-/
namespace Sys2Proof.Machine

@[simp] theorem State.align_pending (s : State) (h : Nat) :
    (State.align s h).pending = s.pending := by
  unfold State.align
  repeat' first
    | with_reducible rfl
    | (simp; done)
    | split
    | intro _
    | simp

end Sys2Proof.Machine
end

