-- ==== Sys2Proof/Laws/QueueAisle.lean ====
section
/-!
SUPPORT. The operations of Aisle.lean leave the queue of waiting commands as it is.
-/
namespace Sys2Proof.Machine

@[simp] theorem State.updLink_pending (s : State) (l : Nat) (f : ArcLink → ArcLink) :
    (State.updLink s l f).pending = s.pending := by
  unfold State.updLink
  repeat' first
    | with_reducible rfl
    | (simp; done)
    | split
    | intro _
    | simp

@[simp] theorem State.uncut_pending (s : State) (h : Nat) :
    (State.uncut s h).pending = s.pending := by
  unfold State.uncut
  repeat' first
    | with_reducible rfl
    | (simp; done)
    | split
    | intro _
    | (refine (foldl_pending _ ?_ _ _).trans ?_)
    | simp

@[simp] theorem State.linkChanged_pending (s : State) (h : Nat) :
    (State.linkChanged s h).pending = s.pending := by
  unfold State.linkChanged
  repeat' first
    | with_reducible rfl
    | (simp; done)
    | split
    | intro _
    | simp

@[simp] theorem State.setInq_pending (s : State) (k : Nat) (l : List Flit) :
    (State.setInq s k l).pending = s.pending := by
  unfold State.setInq
  repeat' first
    | with_reducible rfl
    | (simp; done)
    | split
    | intro _
    | simp

@[simp] theorem State.linkPush_pending (s : State) (l d : Nat) (f : Flit) :
    (State.linkPush s l d f).pending = s.pending := by
  unfold State.linkPush
  repeat' first
    | with_reducible rfl
    | (simp; done)
    | split
    | intro _
    | simp

@[simp] theorem State.bumpOpen_pending (s : State) (k : Nat) (f : Nat → Nat) :
    (State.bumpOpen s k f).pending = s.pending := by
  unfold State.bumpOpen
  repeat' first
    | with_reducible rfl
    | (simp; done)
    | split
    | intro _
    | simp

theorem State.enter_pending (s : State) (e : Nat) (f : Flit) {t_ : State}  (hx_ : State.enter s e f = some t_) :
    t_.pending = s.pending := by
  unfold State.enter at hx_
  dsimp only at hx_
  repeat' split at hx_
  all_goals first | (cases hx_; done) | (cases hx_; simp; done)

@[simp] theorem State.fill_pending (s : State) (e : Nat) (rsp : Bool) (y_ : Nat) :
    (State.fill s e rsp y_).pending = s.pending := by
  induction y_ generalizing s with
  | zero => rfl
  | succ n ih =>
    unfold State.fill
    dsimp only
    split
    · rfl
    · split
      · rfl
      · rename_i h
        simp [ih, State.enter_pending (hx_ := h)]

@[simp] theorem State.netSend_pending (s : State) (e : Nat) (f : Flit) (data : Nat) :
    (State.netSend s e f data).pending = s.pending := by
  unfold State.netSend
  repeat' first
    | with_reducible rfl
    | (simp; done)
    | split
    | intro _
    | simp

@[simp] theorem State.consume_pending (s : State) (at_ : Option Nat) (f : Flit) :
    (State.consume s at_ f).pending = s.pending := by
  unfold State.consume
  repeat' first
    | with_reducible rfl
    | (simp; done)
    | split
    | intro _
    | simp

theorem State.forward_pending (s : State) (h r : Nat) (out : Dir) (f : Flit) {t_ : State}  (hx_ : State.forward s h r out f = some t_) :
    t_.pending = s.pending := by
  unfold State.forward at hx_
  dsimp only at hx_
  repeat' split at hx_
  all_goals first | (cases hx_; done) | (cases hx_; simp; done)

theorem State.serve_pending (s : State) (h r : Nat) (out : Dir) (rsp : Bool) {t_ : State}  (hx_ : State.serve s h r out rsp = some t_) :
    t_.pending = s.pending := by
  unfold State.serve at hx_
  dsimp only at hx_
  split at hx_
  · cases hx_
  · split at hx_
    · cases hx_
    · obtain ⟨u, hu, rfl⟩ := Option.map_eq_some_iff.mp hx_
      simp [State.forward_pending (hx_ := hu)]

@[simp] theorem State.inject_pending (s : State) (n dst kind data back : Nat) :
    (State.inject s n dst kind data back).pending = s.pending := by
  unfold State.inject
  repeat' first
    | with_reducible rfl
    | (simp; done)
    | split
    | intro _
    | simp

@[simp] theorem State.farEgress_pending (s : State) (n k agent : Nat) (wr : Bool) (addr : Word) :
    (State.farEgress s n k agent wr addr).pending = s.pending := by
  unfold State.farEgress
  repeat' first
    | with_reducible rfl
    | (simp; done)
    | split
    | intro _
    | simp

@[simp] theorem State.deliver_pending (s : State) (l d : Nat) (f : Flit) :
    (State.deliver s l d f).pending = s.pending := by
  unfold State.deliver
  repeat' first
    | with_reducible rfl
    | (simp; done)
    | split
    | intro _
    | simp

@[simp] theorem State.refill_pending (s : State) (l : Nat) :
    (State.refill s l).pending = s.pending := by
  unfold State.refill
  repeat' first
    | with_reducible rfl
    | (simp; done)
    | split
    | intro _
    | (refine (foldl_pending _ ?_ _ _).trans ?_)
    | simp

@[simp] theorem State.countBeat_pending (s : State) (l : Nat) :
    (State.countBeat s l).pending = s.pending := by
  unfold State.countBeat
  repeat' first
    | with_reducible rfl
    | (simp; done)
    | split
    | intro _
    | simp

@[simp] theorem State.arcadeBeat_pending (s : State) (l d : Nat) (own : List Nat) (seq : Nat) :
    (State.arcadeBeat s l d own seq).pending = s.pending := by
  unfold State.arcadeBeat
  repeat' first
    | with_reducible rfl
    | (simp; done)
    | split
    | intro _
    | simp

@[simp] theorem State.replay_pending (s : State) (l d : Nat) :
    (State.replay s l d).pending = s.pending := by
  unfold State.replay
  repeat' first
    | with_reducible rfl
    | (simp; done)
    | split
    | intro _
    | (refine (foldl_pending _ ?_ _ _).trans ?_)
    | simp

@[simp] theorem State.laneMark_pending (s : State) (source l d g lane : Nat) (lost : Bool) :
    (State.laneMark s source l d g lane lost).pending = s.pending := by
  unfold State.laneMark
  repeat' first
    | with_reducible rfl
    | (simp; done)
    | split
    | intro _
    | simp

@[simp] theorem State.linkWidth_pending (s : State) (l : Nat) :
    (State.linkWidth s l).pending = s.pending := by
  unfold State.linkWidth
  repeat' first
    | with_reducible rfl
    | (simp; done)
    | split
    | intro _
    | simp

@[simp] theorem State.resumeLink_pending (s : State) (l d : Nat) :
    (State.resumeLink s l d).pending = s.pending := by
  unfold State.resumeLink
  repeat' first
    | with_reducible rfl
    | (simp; done)
    | split
    | intro _
    | simp

@[simp] theorem State.laneTest_pending (s : State) (l d g : Nat) (bad : List Nat) (strobe : Bool) :
    (State.laneTest s l d g bad strobe).pending = s.pending := by
  unfold State.laneTest
  repeat' first
    | with_reducible rfl
    | (simp; done)
    | split
    | intro _
    | simp

@[simp] theorem State.remapDone_pending (s : State) (h : Nat) :
    (State.remapDone s h).pending = s.pending := by
  unfold State.remapDone
  repeat' first
    | with_reducible rfl
    | (simp; done)
    | split
    | intro _
    | (refine (foldl_pending _ ?_ _ _).trans ?_)
    | simp

@[simp] theorem State.retrainLink_pending (s : State) (l : Nat) :
    (State.retrainLink s l).pending = s.pending := by
  unfold State.retrainLink
  repeat' first
    | with_reducible rfl
    | (simp; done)
    | split
    | intro _
    | simp

@[simp] theorem State.remark_pending (s : State) (l : Nat) (lost : List Nat) :
    (State.remark s l lost).pending = s.pending := by
  unfold State.remark
  repeat' first
    | with_reducible rfl
    | (simp; done)
    | split
    | intro _
    | (refine (foldl_pending _ ?_ _ _).trans ?_)
    | simp

@[simp] theorem State.retrainDone_pending (s : State) (l : Nat) (ok : Bool) (lost : List Nat) :
    (State.retrainDone s l ok lost).pending = s.pending := by
  unfold State.retrainDone
  repeat' first
    | with_reducible rfl
    | (simp; done)
    | split
    | intro _
    | simp

@[simp] theorem State.capability_pending (s : State) (h : Nat) (g r : CapRec) :
    (State.capability s h g r).pending = s.pending := by
  unfold State.capability
  repeat' first
    | with_reducible rfl
    | (simp; done)
    | split
    | intro _
    | (refine (foldl_pending _ ?_ _ _).trans ?_)
    | simp

end Sys2Proof.Machine
end

