-- ==== Sys2Proof/Laws/QueueFar.lean ====
section
/-!
SUPPORT. The operations of Far.lean leave the queue of waiting commands as it is.
-/
namespace Sys2Proof.Machine

@[simp] theorem State.channelAccess_pending (s : State) (ch : Nat) (wr : Bool) :
    (State.channelAccess s ch wr).pending = s.pending := by
  unfold State.channelAccess
  repeat' first
    | with_reducible rfl
    | (simp; done)
    | split
    | intro _
    | simp

@[simp] theorem State.channelEnd_pending (s : State) (ch : Nat) (wr : Bool) (r : ChanRes) :
    (State.channelEnd s ch wr r).pending = s.pending := by
  unfold State.channelEnd
  repeat' first
    | with_reducible rfl
    | (simp; done)
    | split
    | intro _
    | simp

@[simp] theorem State.thLogFree_pending (s : State) (hall : Nat) (reading : Int) :
    (State.thLogFree s hall reading).pending = s.pending := by
  unfold State.thLogFree
  repeat' first
    | with_reducible rfl
    | (simp; done)
    | split
    | intro _
    | simp

@[simp] theorem State.spdTemp_pending (s : State) (m : Nat) (t : Int) :
    (State.spdTemp s m t).pending = s.pending := by
  unfold State.spdTemp
  repeat' first
    | with_reducible rfl
    | (simp; done)
    | split
    | intro _
    | simp

@[simp] theorem State.modCmd_pending (s : State) (q : Req) (m : Nat) (check : Option Nat) (f : State → State) (hf : ∀ x0, (f x0).pending = x0.pending) :
    (State.modCmd s q m check f).pending = s.pending := by
  unfold State.modCmd
  repeat' first
    | with_reducible rfl
    | exact hf ..
    | (simp; done)
    | split
    | intro _
    | (refine (State.setupTry_pending (hf := ?_) ..).trans ?_)
    | simp

@[simp] theorem State.powerupDone_pending (s : State) (m : Nat) (f : ModFind) :
    (State.powerupDone s m f).pending = s.pending := by
  unfold State.powerupDone
  repeat' first
    | with_reducible rfl
    | (simp; done)
    | split
    | intro _
    | simp

@[simp] theorem State.restore_pending (s : State) (m : Nat) :
    (State.restore s m).pending = s.pending := by
  unfold State.restore
  repeat' first
    | with_reducible rfl
    | (simp; done)
    | split
    | intro _
    | simp

@[simp] theorem State.moveEnd_pending (s : State) (m : Nat) :
    (State.moveEnd s m).pending = s.pending := by
  unfold State.moveEnd
  repeat' first
    | with_reducible rfl
    | (simp; done)
    | split
    | intro _
    | simp

@[simp] theorem State.lineMove_pending (s : State) (m : Nat) (bad : Bool) :
    (State.lineMove s m bad).pending = s.pending := by
  unfold State.lineMove
  repeat' first
    | with_reducible rfl
    | (simp; done)
    | split
    | intro _
    | simp

@[simp] theorem State.moduleGone_pending (s : State) (m : Nat) :
    (State.moduleGone s m).pending = s.pending := by
  unfold State.moduleGone
  repeat' first
    | with_reducible rfl
    | (simp; done)
    | split
    | intro _
    | simp

@[simp] theorem State.presence_pending (s : State) (m : Nat) (present : Bool) :
    (State.presence s m present).pending = s.pending := by
  unfold State.presence
  repeat' first
    | with_reducible rfl
    | (simp; done)
    | split
    | intro _
    | simp

end Sys2Proof.Machine
end

