-- ==== Sys2Proof/Laws/QueuePower.lean ====
section
/-!
SUPPORT. The operations of Power.lean leave the queue of waiting commands as it is.
-/
namespace Sys2Proof.Machine

@[simp] theorem State.railSlew_pending (s : State) (r : Nat) :
    (State.railSlew s r).pending = s.pending := by
  unfold State.railSlew
  repeat' first
    | with_reducible rfl
    | (simp; done)
    | split
    | intro _
    | simp

@[simp] theorem State.railLimited_pending (s : State) (r : Nat) :
    (State.railLimited s r).pending = s.pending := by
  unfold State.railLimited
  repeat' first
    | with_reducible rfl
    | (simp; done)
    | split
    | intro _
    | (refine (foldl_pending _ ?_ _ _).trans ?_)
    | simp

@[simp] theorem State.energy_pending (s : State) (n uj : Nat) :
    (State.energy s n uj).pending = s.pending := by
  unfold State.energy
  repeat' first
    | with_reducible rfl
    | (simp; done)
    | split
    | intro _
    | simp

@[simp] theorem State.domainEstimate_pending (s : State) (d uw : Nat) :
    (State.domainEstimate s d uw).pending = s.pending := by
  unfold State.domainEstimate
  repeat' first
    | with_reducible rfl
    | (simp; done)
    | split
    | intro _
    | simp

@[simp] theorem State.excursion_pending (s : State) :
    (State.excursion s).pending = s.pending := by
  unfold State.excursion
  repeat' first
    | with_reducible rfl
    | (simp; done)
    | split
    | intro _
    | simp

@[simp] theorem State.governor_pending (s : State) (p1 p10 p1s : Nat) :
    (State.governor s p1 p10 p1s).pending = s.pending := by
  unfold State.governor
  dsimp only
  split
  · split <;> simp only [State.pwrLog_pending, State.used_pending, State.reslewAll_pending, State.excursion_pending]
  · split
    · split <;> simp only [State.reslewAll_pending, State.excursion_pending]
    · simp only [State.excursion_pending]

end Sys2Proof.Machine
end

