-- ==== Sys2Proof/Laws/QueueThermal.lean ====
section
/-!
SUPPORT. The operations of Thermal.lean leave the queue of waiting commands as it is.
-/
namespace Sys2Proof.Machine

@[simp] theorem State.tempStart_pending (s : State) (h : Nat) :
    (State.tempStart s h).pending = s.pending := by
  unfold State.tempStart
  repeat' first
    | with_reducible rfl
    | (simp; done)
    | split
    | intro _
    | simp

@[simp] theorem State.thLogRead_pending (s : State) (cause hall : Nat) :
    (State.thLogRead s cause hall).pending = s.pending := by
  unfold State.thLogRead
  repeat' first
    | with_reducible rfl
    | (simp; done)
    | split
    | intro _
    | simp

@[simp] theorem State.flowUpdate_pending (s : State) :
    (State.flowUpdate s).pending = s.pending := by
  unfold State.flowUpdate
  repeat' first
    | with_reducible rfl
    | (simp; done)
    | split
    | intro _
    | simp

@[simp] theorem State.endGrant_pending (s : State) :
    (State.endGrant s).pending = s.pending := by
  unfold State.endGrant
  repeat' first
    | with_reducible rfl
    | (simp; done)
    | split
    | intro _
    | simp

@[simp] theorem State.cap40_pending (s : State) :
    (State.cap40 s).pending = s.pending := by
  unfold State.cap40
  repeat' first
    | with_reducible rfl
    | (simp; done)
    | split
    | intro _
    | (refine (foldl_pending _ ?_ _ _).trans ?_)
    | simp

@[simp] theorem State.sensFault_pending (s : State) :
    (State.sensFault s).pending = s.pending := by
  unfold State.sensFault
  repeat' first
    | with_reducible rfl
    | (simp; done)
    | split
    | intro _
    | simp

@[simp] theorem State.lowFlow_pending (s : State) :
    (State.lowFlow s).pending = s.pending := by
  unfold State.lowFlow
  repeat' first
    | with_reducible rfl
    | (simp; done)
    | split
    | intro _
    | simp

@[simp] theorem State.raiseAhead_pending (s : State) (h : Nat) (bins : List (List Int)) :
    (State.raiseAhead s h bins).pending = s.pending := by
  unfold State.raiseAhead
  repeat' first
    | with_reducible rfl
    | (simp; done)
    | split
    | intro _
    | (refine (foldl_pending _ ?_ _ _).trans ?_)
    | simp

@[simp] theorem State.seekGrant_pending (s : State) (pk : List Nat) :
    (State.seekGrant s pk).pending = s.pending := by
  unfold State.seekGrant
  repeat' first
    | with_reducible rfl
    | (simp; done)
    | split
    | intro _
    | simp

@[simp] theorem State.forecast_pending (s : State) (items : List FItem) (idle : List Nat) :
    (State.forecast s items idle).pending = s.pending := by
  unfold State.forecast
  repeat' first
    | with_reducible rfl
    | (simp; done)
    | split
    | intro _
    | (refine (foldl_pending _ ?_ _ _).trans ?_)
    | simp

@[simp] theorem State.heatMessage_pending (s : State) :
    (State.heatMessage s).pending = s.pending := by
  unfold State.heatMessage
  repeat' first
    | with_reducible rfl
    | (simp; done)
    | split
    | intro _
    | simp

@[simp] theorem State.takeGrant_pending (s : State) (accept : Bool) (valid : Nat) :
    (State.takeGrant s accept valid).pending = s.pending := by
  unfold State.takeGrant
  repeat' first
    | with_reducible rfl
    | (simp; done)
    | split
    | intro _
    | simp

@[simp] theorem State.thermcap_pending (s : State) (h : Nat) :
    (State.thermcap s h).pending = s.pending := by
  unfold State.thermcap
  repeat' first
    | with_reducible rfl
    | (simp; done)
    | split
    | intro _
    | simp

@[simp] theorem State.clampOn_pending (s : State) (h : Nat) :
    (State.clampOn s h).pending = s.pending := by
  unfold State.clampOn
  repeat' first
    | with_reducible rfl
    | (simp; done)
    | split
    | intro _
    | simp

@[simp] theorem State.hallLost_pending (s : State) (h : Nat) :
    (State.hallLost s h).pending = s.pending := by
  unfold State.hallLost
  dsimp only
  exact foldl_pending _ (fun s n => by simp) _ _

@[simp] theorem State.trip_pending (s : State) (h : Nat) :
    (State.trip s h).pending = s.pending := by
  unfold State.trip
  repeat' first
    | with_reducible rfl
    | (simp; done)
    | split
    | intro _
    | simp

@[simp] theorem State.rearm1_pending (s : State) (h : Nat) :
    (State.rearm1 s h).pending = s.pending := by
  unfold State.rearm1
  repeat' first
    | with_reducible rfl
    | (simp; done)
    | split
    | intro _
    | simp

@[simp] theorem State.failTest_pending (s : State) (n cause unit : Nat) :
    (State.failTest s n cause unit).pending = s.pending := by
  unfold State.failTest
  repeat' first
    | with_reducible rfl
    | (simp; done)
    | split
    | intro _
    | simp

@[simp] theorem State.failBond_pending (s : State) (source n port sym : Nat) :
    (State.failBond s source n port sym).pending = s.pending := by
  unfold State.failBond
  repeat' first
    | with_reducible rfl
    | (simp; done)
    | split
    | intro _
    | simp

@[simp] theorem State.testHall_pending (s : State) (h : Nat) (f : HallFind) :
    (State.testHall s h f).pending = s.pending := by
  unfold State.testHall
  repeat' first
    | with_reducible rfl
    | (simp; done)
    | split
    | intro _
    | (refine (foldl_pending _ ?_ _ _).trans ?_)
    | simp

@[simp] theorem State.laneFinds_pending (s : State) (h : Nat) (l : List (Nat × Nat × Nat × Nat)) :
    (State.laneFinds s h l).pending = s.pending := by
  unfold State.laneFinds
  repeat' first
    | with_reducible rfl
    | (simp; done)
    | split
    | intro _
    | (refine (foldl_pending _ ?_ _ _).trans ?_)
    | simp

@[simp] theorem State.parityFinds_pending (s : State) (h : Nat) (l : List (Nat × Nat × Nat)) :
    (State.parityFinds s h l).pending = s.pending := by
  unfold State.parityFinds
  repeat' first
    | with_reducible rfl
    | (simp; done)
    | split
    | intro _
    | (refine (foldl_pending _ ?_ _ _).trans ?_)
    | simp

@[simp] theorem State.fitLinks_pending (s : State) (h : Nat) :
    (State.fitLinks s h).pending = s.pending := by
  unfold State.fitLinks
  repeat' first
    | with_reducible rfl
    | (simp; done)
    | split
    | intro _
    | (refine (foldl_pending _ ?_ _ _).trans ?_)
    | simp

@[simp] theorem State.trainLinks_pending (s : State) (h : Nat) (f : HallFind) :
    (State.trainLinks s h f).pending = s.pending := by
  unfold State.trainLinks
  repeat' first
    | with_reducible rfl
    | (simp; done)
    | split
    | intro _
    | (refine (foldl_pending _ ?_ _ _).trans ?_)
    | simp

@[simp] theorem State.refreshStart_pending (s : State) (h : Nat) :
    (State.refreshStart s h).pending = s.pending := by
  unfold State.refreshStart
  repeat' first
    | with_reducible rfl
    | (simp; done)
    | split
    | intro _
    | simp

@[simp] theorem State.returnFails_pending (s : State) (h : Nat) :
    (State.returnFails s h).pending = s.pending := by
  unfold State.returnFails
  repeat' first
    | with_reducible rfl
    | (simp; done)
    | split
    | intro _
    | simp

theorem State.negotiate_pending (s : State) (h : Nat) (r : CapRec) {t_ : State}  (hx_ : State.negotiate s h r = some t_) :
    t_.pending = s.pending := by
  unfold State.negotiate at hx_
  obtain ⟨v, _, rfl⟩ := Option.map_eq_some_iff.mp hx_
  simp

@[simp] theorem State.hallBack_pending (s : State) (h : Nat) :
    (State.hallBack s h).pending = s.pending := by
  unfold State.hallBack
  repeat' first
    | with_reducible rfl
    | (simp; done)
    | split
    | intro _
    | (refine (foldl_pending _ ?_ _ _).trans ?_)
    | simp

@[simp] theorem State.hallReturn_pending (s : State) (h : Nat) (f : HallFind) :
    (State.hallReturn s h f).pending = s.pending := by
  unfold State.hallReturn
  repeat' first
    | with_reducible rfl
    | (simp; done)
    | split
    | intro _
    | (refine (foldl_pending _ ?_ _ _).trans ?_)
    | (refine (State.negotiate_pending (hx_ := ‹_›) ..).trans ?_)
    | simp

@[simp] theorem State.gatehouseTrip_pending (s : State) :
    (State.gatehouseTrip s).pending = s.pending := by
  unfold State.gatehouseTrip
  repeat' first
    | with_reducible rfl
    | (simp; done)
    | split
    | intro _
    | (refine (foldl_pending _ ?_ _ _).trans ?_)
    | simp

end Sys2Proof.Machine
end

