-- ==== Sys2Proof/Laws/QueueStart.lean ====
section
/-!
SUPPORT. The operations of Start.lean leave the queue of waiting commands as it is.
-/
namespace Sys2Proof.Machine

@[simp] theorem State.powerOff_pending (s : State) :
    (State.powerOff s).pending = s.pending := by
  unfold State.powerOff
  repeat' first
    | with_reducible rfl
    | (simp; done)
    | split
    | intro _
    | simp

@[simp] theorem State.coldBase_pending (s : State) (f : Find) :
    (State.coldBase s f).pending = s.pending := by
  unfold State.coldBase
  repeat' first
    | with_reducible rfl
    | (simp; done)
    | split
    | intro _
    | simp

@[simp] theorem State.warmBase_pending (s : State) (f : Find) (kind : Nat) :
    (State.warmBase s f kind).pending = s.pending := by
  unfold State.warmBase
  repeat' first
    | with_reducible rfl
    | (simp; done)
    | split
    | intro _
    | (refine (foldl_pending _ ?_ _ _).trans ?_)
    | simp

@[simp] theorem State.bootWrite_pending (s : State) (f : BootRec → BootRec) :
    (State.bootWrite s f).pending = s.pending := by
  unfold State.bootWrite
  repeat' first
    | with_reducible rfl
    | (simp; done)
    | split
    | intro _
    | simp

@[simp] theorem State.chooseSlot_pending (s : State) (c : Nat) (bad : State → Nat → Bool) :
    (State.chooseSlot s c bad).1.pending = s.pending := by
  unfold State.chooseSlot
  repeat' first
    | with_reducible rfl
    | (simp; done)
    | split
    | intro _
    | simp

@[simp] theorem State.loadImages_pending (s : State) :
    (State.loadImages s).pending = s.pending := by
  unfold State.loadImages
  repeat' first
    | with_reducible rfl
    | (simp; done)
    | split
    | intro _
    | simp

@[simp] theorem State.startLinks_pending (s : State) (f : Find) (fast : Bool) (h : Nat) :
    (State.startLinks s f fast h).pending = s.pending := by
  unfold State.startLinks
  repeat' first
    | with_reducible rfl
    | (simp; done)
    | split
    | intro _
    | (refine (foldl_pending _ ?_ _ _).trans ?_)
    | (refine (State.negotiate_pending (hx_ := ‹_›) ..).trans ?_)
    | simp

@[simp] theorem State.startTests_pending (s : State) (f : Find) (full : Bool) (h : Nat) :
    (State.startTests s f full h).pending = s.pending := by
  unfold State.startTests
  repeat' first
    | with_reducible rfl
    | (simp; done)
    | split
    | intro _
    | (refine (foldl_pending _ ?_ _ _).trans ?_)
    | simp

@[simp] theorem State.marchTest_pending (s : State) (f : Find) :
    (State.marchTest s f).pending = s.pending := by
  unfold State.marchTest
  repeat' first
    | with_reducible rfl
    | (simp; done)
    | split
    | intro _
    | (refine (foldl_pending _ ?_ _ _).trans ?_)
    | simp

@[simp] theorem State.startModid_pending (s : State) (f : Find) (m : Nat) :
    (State.startModid s f m).pending = s.pending := by
  unfold State.startModid
  repeat' first
    | with_reducible rfl
    | (simp; done)
    | split
    | intro _
    | simp

@[simp] theorem State.badChannels_pending (s : State) (l : List Nat) :
    (State.badChannels s l).pending = s.pending := by
  unfold State.badChannels
  repeat' first
    | with_reducible rfl
    | (simp; done)
    | split
    | intro _
    | (refine (foldl_pending _ ?_ _ _).trans ?_)
    | simp

@[simp] theorem State.startModule_pending (s : State) (f : Find) (live : List Nat) (m : Nat) :
    (State.startModule s f live m).pending = s.pending := by
  unfold State.startModule
  repeat' first
    | with_reducible rfl
    | (simp; done)
    | split
    | intro _
    | simp

@[simp] theorem State.chooseLayout_pending (s : State) (f : Find) (cold : Bool) :
    (State.chooseLayout s f cold).pending = s.pending := by
  unfold State.chooseLayout
  repeat' first
    | with_reducible rfl
    | (simp; done)
    | split
    | intro _
    | (refine (foldl_pending _ ?_ _ _).trans ?_)
    | simp

@[simp] theorem State.startFar_pending (s : State) (f : Find) (cold : Bool) :
    (State.startFar s f cold).pending = s.pending := by
  unfold State.startFar
  repeat' first
    | with_reducible rfl
    | (simp; done)
    | split
    | intro _
    | (refine (foldl_pending _ ?_ _ _).trans ?_)
    | simp

@[simp] theorem State.startFarAll_pending (s : State) (f : Find) (cold : Bool) :
    (State.startFarAll s f cold).pending = s.pending := by
  unfold State.startFarAll
  repeat' first
    | with_reducible rfl
    | (simp; done)
    | split
    | intro _
    | simp

@[simp] theorem State.startSlices_pending (s : State) (cold : Bool) (rows : List (Nat × Nat)) :
    (State.startSlices s cold rows).pending = s.pending := by
  unfold State.startSlices
  repeat' first
    | with_reducible rfl
    | (simp; done)
    | split
    | intro _
    | (refine (foldl_pending _ ?_ _ _).trans ?_)
    | simp

@[simp] theorem State.startStalls_pending (s : State) :
    (State.startStalls s).pending = s.pending := by
  unfold State.startStalls
  repeat' first
    | with_reducible rfl
    | (simp; done)
    | split
    | intro _
    | (refine (foldl_pending _ ?_ _ _).trans ?_)
    | simp

@[simp] theorem State.startFences_pending (s : State) :
    (State.startFences s).pending = s.pending := by
  unfold State.startFences
  repeat' first
    | with_reducible rfl
    | (simp; done)
    | split
    | intro _
    | (refine (foldl_pending _ ?_ _ _).trans ?_)
    | simp

@[simp] theorem State.startList_pending (s : State) (ok : Bool) :
    (State.startList s ok).pending = s.pending := by
  unfold State.startList
  repeat' first
    | with_reducible rfl
    | (simp; done)
    | split
    | intro _
    | simp

@[simp] theorem State.startRoles_pending (s : State) (l : List Bool) :
    (State.startRoles s l).pending = s.pending := by
  unfold State.startRoles
  repeat' first
    | with_reducible rfl
    | (simp; done)
    | split
    | intro _
    | simp

@[simp] theorem State.publish_pending (s : State) (f : Find) :
    (State.publish s f).pending = s.pending := by
  unfold State.publish
  repeat' first
    | with_reducible rfl
    | (simp; done)
    | split
    | intro _
    | simp

@[simp] theorem State.recover_pending (s : State) (f : Find) :
    (State.recover s f).pending = s.pending := by
  unfold State.recover
  repeat' first
    | with_reducible rfl
    | (simp; done)
    | split
    | intro _
    | simp

@[simp] theorem State.startBootcfg_pending (s : State) :
    (State.startBootcfg s).pending = s.pending := by
  unfold State.startBootcfg
  repeat' first
    | with_reducible rfl
    | (simp; done)
    | split
    | intro _
    | simp

@[simp] theorem State.startReturns_pending (s : State) :
    (State.startReturns s).pending = s.pending := by
  unfold State.startReturns
  repeat' first
    | with_reducible rfl
    | (simp; done)
    | split
    | intro _
    | (refine (foldl_pending _ ?_ _ _).trans ?_)
    | simp

@[simp] theorem State.phases_pending (s : State) (f : Find) (kind : Nat) :
    (State.phases s f kind).pending = s.pending := by
  unfold State.phases
  repeat' first
    | with_reducible rfl
    | (simp; done)
    | split
    | intro _
    | (refine (foldl_pending _ ?_ _ _).trans ?_)
    | simp

@[simp] theorem State.coldStart_pending (s : State) (f : Find) :
    (State.coldStart s f).pending = s.pending := by
  unfold State.coldStart
  repeat' first
    | with_reducible rfl
    | (simp; done)
    | split
    | intro _
    | simp

@[simp] theorem State.resetStart_pending (s : State) (f : Find) :
    (State.resetStart s f).pending = s.pending := by
  unfold State.resetStart
  repeat' first
    | with_reducible rfl
    | (simp; done)
    | split
    | intro _
    | simp

@[simp] theorem State.fpTouch_pending (s : State) :
    (State.fpTouch s).pending = s.pending := by
  unfold State.fpTouch
  repeat' first
    | with_reducible rfl
    | (simp; done)
    | split
    | intro _
    | simp

@[simp] theorem State.compact_pending (s : State) :
    (State.compact s).pending = s.pending := by
  unfold State.compact
  repeat' first
    | with_reducible rfl
    | (simp; done)
    | split
    | intro _
    | simp

end Sys2Proof.Machine
end

