-- ==== Sys2Proof/Laws/QueueService.lean ====
section
/-!
SUPPORT. The operations of Service.lean leave the queue of waiting commands as it is.
-/
namespace Sys2Proof.Machine

@[simp] theorem State.updSp_pending (s : State) (i : Nat) (f : SpSt → SpSt) :
    (State.updSp s i f).pending = s.pending := by
  unfold State.updSp
  repeat' first
    | with_reducible rfl
    | (simp; done)
    | split
    | intro _
    | simp

@[simp] theorem State.retryItem_pending (s : State) (i : Item) :
    (State.retryItem s i).pending = s.pending := by
  unfold State.retryItem
  repeat' first
    | with_reducible rfl
    | (simp; done)
    | split
    | intro _
    | simp

@[simp] theorem State.settleFirm_pending (s : State) (c : Option CkPt) (blank : Bool) (i : Item) :
    (State.settleFirm s c blank i).pending = s.pending := by
  unfold State.settleFirm
  repeat' first
    | with_reducible rfl
    | (simp; done)
    | split
    | intro _
    | simp

@[simp] theorem State.loadJis_pending (s : State) (c : CkPt) :
    (State.loadJis s c).pending = s.pending := by
  unfold State.loadJis
  repeat' first
    | with_reducible rfl
    | (simp; done)
    | split
    | intro _
    | simp

@[simp] theorem State.blankJis_pending (s : State) :
    (State.blankJis s).pending = s.pending := by
  unfold State.blankJis
  repeat' first
    | with_reducible rfl
    | (simp; done)
    | split
    | intro _
    | (refine (foldl_pending _ ?_ _ _).trans ?_)
    | simp

@[simp] theorem State.jisCatchUp_pending (s : State) :
    (State.jisCatchUp s).pending = s.pending := by
  unfold State.jisCatchUp
  repeat' first
    | with_reducible rfl
    | (simp; done)
    | split
    | intro _
    | (refine (foldl_pending _ ?_ _ _).trans ?_)
    | simp

@[simp] theorem State.settleAll_pending (s : State) (c : Option CkPt) (blank : Bool) :
    (State.settleAll s c blank).pending = s.pending := by
  unfold State.settleAll
  repeat' first
    | with_reducible rfl
    | (simp; done)
    | split
    | intro _
    | (refine (foldl_pending _ ?_ _ _).trans ?_)
    | simp

@[simp] theorem State.pairFlags_pending (s : State) (q : Nat) :
    (State.pairFlags s q).pending = s.pending := by
  unfold State.pairFlags
  repeat' first
    | with_reducible rfl
    | (simp; done)
    | split
    | intro _
    | simp

@[simp] theorem State.runImage_pending (s : State) (i : Nat) :
    (State.runImage s i).pending = s.pending := by
  unfold State.runImage
  repeat' first
    | with_reducible rfl
    | (simp; done)
    | split
    | intro _
    | simp

@[simp] theorem State.takeOver_pending (s : State) (i : Nat) :
    (State.takeOver s i).pending = s.pending := by
  unfold State.takeOver
  repeat' first
    | with_reducible rfl
    | (simp; done)
    | split
    | intro _
    | simp

@[simp] theorem State.retireSp_pending (s : State) (i : Nat) :
    (State.retireSp s i).pending = s.pending := by
  unfold State.retireSp
  repeat' first
    | with_reducible rfl
    | (simp; done)
    | split
    | intro _
    | simp

@[simp] theorem State.declareFailed_pending (s : State) (i : Nat) :
    (State.declareFailed s i).pending = s.pending := by
  unfold State.declareFailed
  repeat' first
    | with_reducible rfl
    | (simp; done)
    | split
    | intro _
    | simp

@[simp] theorem State.restartImage_pending (s : State) (i : Nat) :
    (State.restartImage s i).pending = s.pending := by
  unfold State.restartImage
  repeat' first
    | with_reducible rfl
    | (simp; done)
    | split
    | intro _
    | simp

@[simp] theorem State.restarted_pending (s : State) (i : Nat) (ok : Bool) :
    (State.restarted s i ok).pending = s.pending := by
  unfold State.restarted
  repeat' first
    | with_reducible rfl
    | (simp; done)
    | split
    | intro _
    | simp

@[simp] theorem State.retireCmd_pending (s : State) (v : W32) :
    (State.retireCmd s v).pending = s.pending := by
  unfold State.retireCmd
  repeat' first
    | with_reducible rfl
    | (simp; done)
    | split
    | intro _
    | simp

@[simp] theorem State.salvageCmd_pending (s : State) (v : W32) :
    (State.salvageCmd s v).pending = s.pending := by
  unfold State.salvageCmd
  repeat' first
    | with_reducible rfl
    | (simp; done)
    | split
    | intro _
    | simp

@[simp] theorem State.salvageLine_pending (s : State) (src dst l : Nat) (bad : Bool) :
    (State.salvageLine s src dst l bad).pending = s.pending := by
  unfold State.salvageLine
  repeat' first
    | with_reducible rfl
    | (simp; done)
    | split
    | intro _
    | (refine (foldl_pending _ ?_ _ _).trans ?_)
    | simp

@[simp] theorem State.salvaged_pending (s : State) (ce : Nat) (bad : List Nat) :
    (State.salvaged s ce bad).pending = s.pending := by
  unfold State.salvaged
  repeat' first
    | with_reducible rfl
    | (simp; done)
    | split
    | intro _
    | (refine (foldl_pending _ ?_ _ _).trans ?_)
    | simp

@[simp] theorem State.snapshot_pending (s : State) (ok : Bool) :
    (State.snapshot s ok).pending = s.pending := by
  unfold State.snapshot
  repeat' first
    | with_reducible rfl
    | (simp; done)
    | split
    | intro _
    | simp

@[simp] theorem State.thermalCycle_pending (s : State) (off : Nat) (r : Int) :
    (State.thermalCycle s off r).pending = s.pending := by
  unfold State.thermalCycle
  repeat' first
    | with_reducible rfl
    | (simp; done)
    | split
    | intro _
    | simp

@[simp] theorem State.sampleStall_pending (s : State) (n : Nat) :
    (State.sampleStall s n).pending = s.pending := by
  unfold State.sampleStall
  repeat' first
    | with_reducible rfl
    | (simp; done)
    | split
    | intro _
    | (refine (foldl_pending _ ?_ _ _).trans ?_)
    | simp

@[simp] theorem State.ledgerSample_pending (s : State) :
    (State.ledgerSample s).pending = s.pending := by
  unfold State.ledgerSample
  repeat' first
    | with_reducible rfl
    | (simp; done)
    | split
    | intro _
    | (refine (foldl_pending _ ?_ _ _).trans ?_)
    | simp

@[simp] theorem State.bondq_pending (s : State) (layerUw : List Nat) :
    (State.bondq s layerUw).pending = s.pending := by
  unfold State.bondq
  repeat' first
    | with_reducible rfl
    | (simp; done)
    | split
    | intro _
    | (refine (foldl_pending _ ?_ _ _).trans ?_)
    | simp

end Sys2Proof.Machine
end

