-- ==== Sys2Proof/Laws/QueueFirmware.lean ====
section
/-!
SUPPORT. The operations of Firmware.lean leave the queue of waiting commands as it is.
-/
namespace Sys2Proof.Machine

@[simp] theorem State.slotState_pending (s : State) (i v : Nat) :
    (State.slotState s i v).pending = s.pending := by
  unfold State.slotState
  repeat' first
    | with_reducible rfl
    | (simp; done)
    | split
    | intro _
    | simp

@[simp] theorem State.failUpdate_pending (s : State) (code : Nat) :
    (State.failUpdate s code).pending = s.pending := by
  unfold State.failUpdate
  repeat' first
    | with_reducible rfl
    | (simp; done)
    | split
    | intro _
    | simp

@[simp] theorem State.beginDownload_pending (s : State) (i len : Nat) (mbox : Bool) :
    (State.beginDownload s i len mbox).pending = s.pending := by
  unfold State.beginDownload
  repeat' first
    | with_reducible rfl
    | (simp; done)
    | split
    | intro _
    | simp

@[simp] theorem State.program_pending (s : State) (data : List Byte) :
    (State.program s data).pending = s.pending := by
  unfold State.program
  repeat' first
    | with_reducible rfl
    | (simp; done)
    | split
    | intro _
    | simp

@[simp] theorem State.verify_pending (s : State) :
    (State.verify s).pending = s.pending := by
  unfold State.verify
  repeat' first
    | with_reducible rfl
    | (simp; done)
    | split
    | intro _
    | simp

@[simp] theorem State.activate_pending (s : State) (i : Nat) :
    (State.activate s i).pending = s.pending := by
  unfold State.activate
  repeat' first
    | with_reducible rfl
    | (simp; done)
    | split
    | intro _
    | simp

theorem State.onlineStart_pending (s : State) {t_ : State}  (hx_ : State.onlineStart s = some t_) :
    t_.pending = s.pending := by
  unfold State.onlineStart at hx_
  obtain ⟨v, _, rfl⟩ := Option.map_eq_some_iff.mp hx_
  simp

@[simp] theorem State.mbox_pending (s : State) (rc : Nat) (data : List Byte) :
    (State.mbox s rc data).pending = s.pending := by
  unfold State.mbox
  repeat' first
    | with_reducible rfl
    | (simp; done)
    | split
    | intro _
    | simp

@[simp] theorem State.transferPart_pending (s : State) (off : Nat) (data : List Byte) (last : Bool) :
    (State.transferPart s off data last).pending = s.pending := by
  unfold State.transferPart
  repeat' first
    | with_reducible rfl
    | (simp; done)
    | split
    | intro _
    | simp

@[simp] theorem State.transferFw_pending (s : State) (slot : Nat) (act : XferAct) (off : Nat) (data : List Byte) :
    (State.transferFw s slot act off data).pending = s.pending := by
  unfold State.transferFw
  split <;> simp [State.transferFw.start]

@[simp] theorem State.activateFw_pending (s : State) (slot : Nat) (online : Bool) :
    (State.activateFw s slot online).pending = s.pending := by
  unfold State.activateFw
  repeat' first
    | with_reducible rfl
    | (simp; done)
    | split
    | intro _
    | (refine (State.onlineStart_pending (hx_ := ‹_›) ..).trans ?_)
    | simp

@[simp] theorem State.pldm_pending (s : State) (cc : Nat) (data : List Byte) :
    (State.pldm s cc data).pending = s.pending := by
  unfold State.pldm
  repeat' first
    | with_reducible rfl
    | (simp; done)
    | split
    | intro _
    | simp

@[simp] theorem State.pldmTry_pending (s : State) (f : State → State) (hf : ∀ x0, (f x0).pending = x0.pending) :
    (State.pldmTry s f).pending = s.pending := by
  unfold State.pldmTry
  repeat' first
    | with_reducible rfl
    | exact hf ..
    | (simp; done)
    | split
    | intro _
    | simp

@[simp] theorem State.pldmAt_pending (s : State) (n : Nat) (f : State → State) (hf : ∀ x0, (f x0).pending = x0.pending) :
    (State.pldmAt s n f).pending = s.pending := by
  unfold State.pldmAt
  repeat' first
    | with_reducible rfl
    | exact hf ..
    | (simp; done)
    | split
    | intro _
    | (refine (State.pldmTry_pending (hf := ?_) ..).trans ?_)
    | simp

@[simp] theorem State.askBlock_pending (s : State) :
    (State.askBlock s).pending = s.pending := by
  unfold State.askBlock
  repeat' first
    | with_reducible rfl
    | (simp; done)
    | split
    | intro _
    | simp

@[simp] theorem State.cancelUpdate_pending (s : State) :
    (State.cancelUpdate s).pending = s.pending := by
  unfold State.cancelUpdate
  repeat' first
    | with_reducible rfl
    | (simp; done)
    | split
    | intro _
    | simp

@[simp] theorem State.confirmOne_pending (s : State) (c : Nat) (ok : Bool) :
    (State.confirmOne s c ok).pending = s.pending := by
  unfold State.confirmOne
  repeat' first
    | with_reducible rfl
    | (simp; done)
    | split
    | intro _
    | simp

@[simp] theorem State.confirm_pending (s : State) :
    (State.confirm s).pending = s.pending := by
  unfold State.confirm
  repeat' first
    | with_reducible rfl
    | (simp; done)
    | split
    | intro _
    | simp

end Sys2Proof.Machine
end

