-- ==== Sys2Proof/Laws/QueueAttach.lean ====
section
/-!
SUPPORT. The operations of Attach.lean leave the queue of waiting commands as it is.
-/
namespace Sys2Proof.Machine

@[simp] theorem State.cxlTouch_pending (s : State) (pl : Place) (wr : Bool) :
    (State.cxlTouch s pl wr).pending = s.pending := by
  unfold State.cxlTouch
  repeat' first
    | with_reducible rfl
    | (simp; done)
    | split
    | intro _
    | simp

@[simp] theorem State.cxlPoisoned_pending (s : State) (ld dpa : Nat) (pl : Place) (pois : Bool) :
    (State.cxlPoisoned s ld dpa pl pois).pending = s.pending := by
  unfold State.cxlPoisoned
  repeat' first
    | with_reducible rfl
    | (simp; done)
    | split
    | intro _
    | simp

@[simp] theorem State.cxlRead_pending (s : State) (ld addr : Nat) :
    (State.cxlRead s ld addr).pending = s.pending := by
  unfold State.cxlRead
  repeat' first
    | with_reducible rfl
    | (simp; done)
    | split
    | intro _
    | simp

@[simp] theorem State.cxlAt_pending (s : State) (ld hpa : Nat) (f : State → Nat → State) (hf : ∀ x0 x1, (f x0 x1).pending = x0.pending) :
    (State.cxlAt s ld hpa f).pending = s.pending := by
  unfold State.cxlAt
  repeat' first
    | with_reducible rfl
    | exact hf ..
    | (simp; done)
    | split
    | intro _
    | simp

@[simp] theorem State.wrPlace_pending (s : State) (pl : Place) (b : List Byte) :
    (State.wrPlace s pl b).s.pending = s.pending := by
  unfold State.wrPlace
  repeat' first
    | with_reducible rfl
    | (simp; done)
    | split
    | intro _
    | simp

@[simp] theorem State.unlist_pending (s : State) (ld dpa : Nat) (pl : Place) :
    (State.unlist s ld dpa pl).pending = s.pending := by
  unfold State.unlist
  repeat' first
    | with_reducible rfl
    | (simp; done)
    | split
    | intro _
    | simp

@[simp] theorem State.cxlStore_pending (s : State) (ld addr : Nat) (f : State → Place → State) (hf : ∀ x0 x1, (f x0 x1).pending = x0.pending) :
    (State.cxlStore s ld addr f).pending = s.pending := by
  unfold State.cxlStore
  dsimp only
  split
  · simp
  · split
    · simp
    · simp [hf]

@[simp] theorem State.partWord_pending (s : State) (ld dpa : Nat) (pl : Place) (data : List Byte) (be : Word) (w : Nat) :
    (State.partWord s ld dpa pl data be w).pending = s.pending := by
  unfold State.partWord
  repeat' first
    | with_reducible rfl
    | (simp; done)
    | split
    | intro _
    | simp

end Sys2Proof.Machine
end

