-- ==== Sys2Proof/Laws/QueueMailbox.lean ====
section
/-!
SUPPORT. The operations of Mailbox.lean leave the queue of waiting commands as it is.
-/
namespace Sys2Proof.Machine

@[simp] theorem State.mboxTry_pending (s : State) (ld : Nat) (f : State → State) (hf : ∀ x0, (f x0).pending = x0.pending) :
    (State.mboxTry s ld f).pending = s.pending := by
  unfold State.mboxTry
  repeat' first
    | with_reducible rfl
    | exact hf ..
    | (simp; done)
    | split
    | intro _
    | simp

@[simp] theorem State.fmTry_pending (s : State) (f : State → State) (hf : ∀ x0, (f x0).pending = x0.pending) :
    (State.fmTry s f).pending = s.pending := by
  unfold State.fmTry
  repeat' first
    | with_reducible rfl
    | exact hf ..
    | (simp; done)
    | split
    | intro _
    | simp

end Sys2Proof.Machine
end

