-- ==== Sys2Proof/Laws/QueueTiles.lean ====
section
/-!
SUPPORT. The operations of Tiles.lean leave the queue of waiting commands as it is.
-/
namespace Sys2Proof.Machine

@[simp] theorem State.wide_pending (s : State) (n k : Nat) (f : Thread → State) (hf : ∀ x0, (f x0).pending = s.pending) :
    (State.wide s n k f).pending = s.pending := by
  unfold State.wide
  repeat' first
    | with_reducible rfl
    | exact hf ..
    | (simp; done)
    | split
    | intro _
    | simp

@[simp] theorem State.wideExc_pending (s : State) (n k cause : Nat) (addr : Word) :
    (State.wideExc s n k cause addr).pending = s.pending := by
  unfold State.wideExc
  repeat' first
    | with_reducible rfl
    | (simp; done)
    | split
    | intro _
    | simp

@[simp] theorem State.wideUse_pending (s : State) (n k : Nat) (rest : WF) (f : Thread → State) (hf : ∀ x0, (f x0).pending = s.pending) :
    (State.wideUse s n k rest f).pending = s.pending := by
  unfold State.wideUse
  repeat' first
    | with_reducible rfl
    | exact hf ..
    | (simp; done)
    | split
    | intro _
    | (refine (State.wide_pending (hf := ?_) ..).trans ?_)
    | simp

@[simp] theorem State.setRow_pending (s : State) (n t r : Nat) (v : Row) :
    (State.setRow s n t r v).pending = s.pending := by
  unfold State.setRow
  repeat' first
    | with_reducible rfl
    | (simp; done)
    | split
    | intro _
    | simp

@[simp] theorem State.rowReport_pending (s : State) (n : Nat) :
    (State.rowReport s n).pending = s.pending := by
  unfold State.rowReport
  repeat' first
    | with_reducible rfl
    | (simp; done)
    | split
    | intro _
    | simp

@[simp] theorem seqRes_pending {α : Type} (f : State → α → Res) (s : State) (l : List α) (hf : ∀ x0 x1, (f x0 x1).s.pending = x0.pending) :
    (seqRes f s l).s.pending = s.pending := by
  unfold seqRes
  exact foldl_pend (fun r : Res => r.s) _ (fun r x => by split <;> first | rfl | exact hf ..) _ _

@[simp] theorem State.loopBase_pending (s : State) (n k : Nat) (g : LoopRegs) (loop : BitVec 2) (i : Nat) :
    (State.loopBase s n k g loop i).1.pending = s.pending := by
  unfold State.loopBase
  split
  · rfl
  · rfl
  · dsimp only; split <;> simp

end Sys2Proof.Machine
end

