-- ==== Sys2Proof/Laws/QueueGroup.lean ====
section
/-!
SUPPORT. The operations of Group.lean leave the queue of waiting commands as it is.
-/
namespace Sys2Proof.Machine

@[simp] theorem State.retireAll_pending (s : State) (n : Nat) (parts : List Nat) :
    (State.retireAll s n parts).pending = s.pending := by
  unfold State.retireAll
  repeat' first
    | with_reducible rfl
    | (simp; done)
    | split
    | intro _
    | (refine (foldl_pending _ ?_ _ _).trans ?_)
    | simp

@[simp] theorem State.tstartAll_pending (s : State) (n : Nat) (parts : List Nat) (v : Word) :
    (State.tstartAll s n parts v).pending = s.pending := by
  unfold State.tstartAll
  repeat' first
    | with_reducible rfl
    | (simp; done)
    | split
    | intro _
    | (refine (foldl_pending _ ?_ _ _).trans ?_)
    | simp

@[simp] theorem State.wopExc_pending (s : State) (n : Nat) (o : WOp) (cause addr : Nat) :
    (State.wopExc s n o cause addr).pending = s.pending := by
  unfold State.wopExc
  repeat' first
    | with_reducible rfl
    | (simp; done)
    | split
    | intro _
    | simp

@[simp] theorem State.wopStart_pending (s : State) (n : Nat) (op : GOp) (w : WF) (t : Thread) (parts : List Nat) (at_ : Nat × Nat) :
    (State.wopStart s n op w t parts at_).pending = s.pending := by
  unfold State.wopStart
  repeat' first
    | with_reducible rfl
    | (simp; done)
    | split
    | intro _
    | simp

@[simp] theorem State.issueMwld_pending (s : State) (n : Nat) (w : WF) (parts : List Nat) :
    (State.issueMwld s n w parts).pending = s.pending := by
  unfold State.issueMwld
  repeat' first
    | with_reducible rfl
    | (simp; done)
    | split
    | intro _
    | simp

@[simp] theorem State.issueMstrm_pending (s : State) (n : Nat) (w : WF) (t : Thread) (parts : List Nat) :
    (State.issueMstrm s n w t parts).pending = s.pending := by
  unfold State.issueMstrm
  repeat' first
    | with_reducible rfl
    | (simp; done)
    | split
    | intro _
    | simp

@[simp] theorem State.issueMfill_pending (s : State) (n : Nat) (w : WF) (t : Thread) (parts : List Nat) :
    (State.issueMfill s n w t parts).pending = s.pending := by
  unfold State.issueMfill
  repeat' first
    | with_reducible rfl
    | (simp; done)
    | split
    | intro _
    | simp

@[simp] theorem State.issueHmv_pending (s : State) (n : Nat) (w : WF) (t : Thread) (parts : List Nat) :
    (State.issueHmv s n w t parts).pending = s.pending := by
  unfold State.issueHmv
  repeat' first
    | with_reducible rfl
    | (simp; done)
    | split
    | intro _
    | simp

@[simp] theorem State.groupCheck_pending (s : State) (n : Nat) :
    (State.groupCheck s n).pending = s.pending := by
  unfold State.groupCheck
  repeat' first
    | with_reducible rfl
    | (simp; done)
    | split
    | intro _
    | simp

@[simp] theorem State.groupOp_pending (s : State) (n k : Nat) (op : GOp) (w : WF) :
    (State.groupOp s n k op w).pending = s.pending := by
  unfold State.groupOp
  repeat' first
    | with_reducible rfl
    | (simp; done)
    | split
    | intro _
    | (refine (State.wide_pending (hf := ?_) ..).trans ?_)
    | simp

@[simp] theorem State.retire_pending (s : State) (n k : Nat) :
    (State.retire s n k).pending = s.pending := by
  unfold State.retire
  repeat' first
    | with_reducible rfl
    | (simp; done)
    | split
    | intro _
    | simp

end Sys2Proof.Machine
end

