-- ==== Sys2Proof/Laws/QueueWide.lean ====
section
/-!
SUPPORT. The operations of Wide.lean leave the queue of waiting commands as it is.
-/
namespace Sys2Proof.Machine

@[simp] theorem State.ldRow_pending (s : State) (n k t h : Nat) (a : Word) (gs : Word) (r : Nat) :
    (State.ldRow s n k t h a gs r).s.pending = s.pending := by
  unfold State.ldRow
  repeat' first
    | with_reducible rfl
    | (simp; done)
    | split
    | intro _
    | simp

@[simp] theorem State.stRow_pending (s : State) (n k t h : Nat) (a : Word) (gs : Word) (r : Nat) :
    (State.stRow s n k t h a gs r).s.pending = s.pending := by
  unfold State.stRow
  repeat' first
    | with_reducible rfl
    | (simp; done)
    | split
    | intro _
    | simp

@[simp] theorem State.ldStIter_pending (s : State) (n k : Nat) (st : Bool) (w : WF) (g : LoopRegs) (i : Nat) :
    (State.ldStIter s n k st w g i).s.pending = s.pending := by
  unfold State.ldStIter
  repeat' first
    | with_reducible rfl
    | (simp; done)
    | split
    | intro _
    | simp

@[simp] theorem State.ldSt_pending (s : State) (n k : Nat) (st : Bool) (w : WF) :
    (State.ldSt s n k st w).pending = s.pending := by
  unfold State.ldSt
  repeat' first
    | with_reducible rfl
    | (simp; done)
    | split
    | intro _
    | (refine (State.wideUse_pending (hf := ?_) ..).trans ?_)
    | simp

@[simp] theorem State.porterFree_pending (s : State) (n i : Nat) :
    (State.porterFree s n i).pending = s.pending := by
  unfold State.porterFree
  repeat' first
    | with_reducible rfl
    | (simp; done)
    | split
    | intro _
    | (refine (foldl_pending _ ?_ _ _).trans ?_)
    | simp

@[simp] theorem State.porterEnd_pending (s : State) (n i : Nat) :
    (State.porterEnd s n i).pending = s.pending := by
  unfold State.porterEnd
  repeat' first
    | with_reducible rfl
    | (simp; done)
    | split
    | intro _
    | simp

end Sys2Proof.Machine
end

