-- ==== Sys2Proof/Laws/QueueObserve.lean ====
section
/-!
SUPPORT. The operations of Observe.lean leave the queue of waiting commands as it is.
-/
namespace Sys2Proof.Machine

@[simp] theorem State.updMonitor_pending (s : State) (m : Nat) (f : Monitor → Monitor) :
    (State.updMonitor s m f).pending = s.pending := by
  unfold State.updMonitor
  repeat' first
    | with_reducible rfl
    | (simp; done)
    | split
    | intro _
    | simp

@[simp] theorem State.monCommit_pending (s : State) (m : Nat) :
    (State.monCommit s m).pending = s.pending := by
  unfold State.monCommit
  repeat' first
    | with_reducible rfl
    | (simp; done)
    | split
    | intro _
    | simp

@[simp] theorem State.sinkWrite_pending (s : State) (n off : Nat) (b : List Byte) :
    (State.sinkWrite s n off b).pending = s.pending := by
  unfold State.sinkWrite
  repeat' first
    | with_reducible rfl
    | (simp; done)
    | split
    | intro _
    | simp

@[simp] theorem State.sinkMove_pending (s : State) (n : Nat) :
    (State.sinkMove s n).pending = s.pending := by
  unfold State.sinkMove
  repeat' first
    | with_reducible rfl
    | (simp; done)
    | split
    | intro _
    | simp

@[simp] theorem State.selStart_pending (s : State) (n : Nat) :
    (State.selStart s n).pending = s.pending := by
  unfold State.selStart
  repeat' first
    | with_reducible rfl
    | (simp; done)
    | split
    | intro _
    | (refine (foldl_pending _ ?_ _ _).trans ?_)
    | simp

@[simp] theorem State.selArmed_pending (s : State) (n : Nat) :
    (State.selArmed s n).pending = s.pending := by
  unfold State.selArmed
  repeat' first
    | with_reducible rfl
    | (simp; done)
    | split
    | intro _
    | simp

@[simp] theorem State.selDone_pending (s : State) (n : Nat) :
    (State.selDone s n).pending = s.pending := by
  unfold State.selDone
  repeat' first
    | with_reducible rfl
    | (simp; done)
    | split
    | intro _
    | (refine (foldl_pending _ ?_ _ _).trans ?_)
    | simp

@[simp] theorem State.selFlush_pending (s : State) (n : Nat) :
    (State.selFlush s n).pending = s.pending := by
  unfold State.selFlush
  repeat' first
    | with_reducible rfl
    | (simp; done)
    | split
    | intro _
    | simp

@[simp] theorem State.selArm_pending (s : State) (n : Nat) :
    (State.selArm s n).pending = s.pending := by
  unfold State.selArm
  repeat' first
    | with_reducible rfl
    | (simp; done)
    | split
    | intro _
    | simp

@[simp] theorem State.selCtl_pending (s : State) (q : Req) (n : Nat) (v : W32) (f : State → State) (hf : ∀ x0, (f x0).pending = x0.pending) :
    (State.selCtl s q n v f).pending = s.pending := by
  unfold State.selCtl
  repeat' first
    | with_reducible rfl
    | exact hf ..
    | (simp; done)
    | split
    | intro _
    | (refine (State.stallTry_pending (hf := ?_) ..).trans ?_)
    | simp

@[simp] theorem State.selStop_pending (s : State) (n : Nat) :
    (State.selStop s n).pending = s.pending := by
  unfold State.selStop
  repeat' first
    | with_reducible rfl
    | (simp; done)
    | split
    | intro _
    | simp

@[simp] theorem State.selDisarm_pending (s : State) (n : Nat) :
    (State.selDisarm s n).pending = s.pending := by
  unfold State.selDisarm
  repeat' first
    | with_reducible rfl
    | (simp; done)
    | split
    | intro _
    | simp

@[simp] theorem State.selRptr_pending (s : State) (n : Nat) (v : Word) :
    (State.selRptr s n v).pending = s.pending := by
  unfold State.selRptr
  repeat' first
    | with_reducible rfl
    | (simp; done)
    | split
    | intro _
    | simp

@[simp] theorem State.jctl_pending (s : State) (q : Req) (v : W32) :
    (State.jctl s q v).pending = s.pending := by
  unfold State.jctl
  repeat' first
    | with_reducible rfl
    | (simp; done)
    | split
    | intro _
    | simp

@[simp] theorem State.jostleClear_pending (s : State) :
    (State.jostleClear s).pending = s.pending := by
  unfold State.jostleClear
  repeat' first
    | with_reducible rfl
    | (simp; done)
    | split
    | intro _
    | simp

end Sys2Proof.Machine
end

