-- ==== Sys2Proof/Laws/QueueModels.lean ====
section
/-!
SUPPORT. The operations of Models.lean leave the queue of waiting commands as it is.
-/
namespace Sys2Proof.Machine

@[simp] theorem State.loadOutcome_pending (s : State) (p k st : Nat) :
    (State.loadOutcome s p k st).pending = s.pending := by
  unfold State.loadOutcome
  repeat' first
    | with_reducible rfl
    | (simp; done)
    | split
    | intro _
    | simp

@[simp] theorem State.loadRefused_pending (s : State) (p k st : Nat) :
    (State.loadRefused s p k st).pending = s.pending := by
  unfold State.loadRefused
  repeat' first
    | with_reducible rfl
    | (simp; done)
    | split
    | intro _
    | simp

@[simp] theorem State.loadCmd_pending (s : State) (p k buf : Nat) :
    (State.loadCmd s p k buf).pending = s.pending := by
  unfold State.loadCmd
  repeat' first
    | with_reducible rfl
    | (simp; done)
    | split
    | intro _
    | simp

@[simp] theorem State.loadResume_pending (s : State) (p : Nat) :
    (State.loadResume s p).pending = s.pending := by
  unfold State.loadResume
  repeat' first
    | with_reducible rfl
    | (simp; done)
    | split
    | intro _
    | simp

@[simp] theorem State.busMasterOn_pending (s : State) (fn : Nat) :
    (State.busMasterOn s fn).pending = s.pending := by
  unfold State.busMasterOn
  repeat' first
    | with_reducible rfl
    | (simp; done)
    | split
    | intro _
    | (refine (foldl_pending _ ?_ _ _).trans ?_)
    | simp

@[simp] theorem State.unloadCmd_pending (s : State) (p k : Nat) :
    (State.unloadCmd s p k).pending = s.pending := by
  unfold State.unloadCmd
  repeat' first
    | with_reducible rfl
    | (simp; done)
    | split
    | intro _
    | simp

@[simp] theorem State.jmodcmd_pending (s : State) (q : Req) (p : Nat) (v : Word) :
    (State.jmodcmd s q p v).pending = s.pending := by
  unfold State.jmodcmd
  repeat' first
    | with_reducible rfl
    | (simp; done)
    | split
    | intro _
    | (refine (State.setupTry_pending (hf := ?_) ..).trans ?_)
    | simp

@[simp] theorem JWr.slice_pending (w : JWr) (a : Nat) (b : List Byte) :
    (JWr.slice w a b).s.pending = w.s.pending := by
  unfold JWr.slice
  repeat' first
    | with_reducible rfl
    | (simp; done)
    | split
    | intro _
    | simp

@[simp] theorem JWr.far_pending (w : JWr) (o : Nat) (b : List Byte) :
    (JWr.far w o b).s.pending = w.s.pending := by
  unfold JWr.far
  repeat' first
    | with_reducible rfl
    | (simp; done)
    | split
    | intro _
    | simp

@[simp] theorem JWr.copy_pending (w0 : JWr) (p : Nat) (x : JSlot) (c : Nat × Nat × Nat × Nat) :
    (JWr.copy w0 p x c).s.pending = w0.s.pending := by
  unfold JWr.copy
  dsimp only
  split
  · simp
  · split
    · simp
    · refine (foldl_pend (fun w : JWr => w.s) _ (fun w e => by simp) _ _).trans ?_
      simp

@[simp] theorem State.loadDone_pending (s : State) (p k : Nat) (bad : Bool) :
    (State.loadDone s p k bad).pending = s.pending := by
  unfold State.loadDone
  dsimp only
  split
  · rfl
  · have h := fun l b => foldl_pend (fun w : JWr => w.s) (fun (w : JWr) c => w.copy p ((s.jis1 p).slotOf k) c) (fun w c => by simp) l ⟨s.used, b⟩
    split <;> simp [h]

@[simp] theorem State.moveBytes_pending (s : State) (src dst off n : Nat) :
    (State.moveBytes s src dst off n).pending = s.pending := by
  unfold State.moveBytes
  repeat' first
    | with_reducible rfl
    | (simp; done)
    | split
    | intro _
    | (refine (foldl_pending _ ?_ _ _).trans ?_)
    | simp

@[simp] theorem State.migrated_pending (s : State) (p : Nat) :
    (State.migrated s p).pending = s.pending := by
  unfold State.migrated
  repeat' first
    | with_reducible rfl
    | (simp; done)
    | split
    | intro _
    | (refine (foldl_pending _ ?_ _ _).trans ?_)
    | simp

end Sys2Proof.Machine
end

