-- ==== Sys2Proof/Laws/QueueKv.lean ====
section
/-!
SUPPORT. The operations of Kv.lean leave the queue of waiting commands as it is.
-/
namespace Sys2Proof.Machine

@[simp] theorem State.takeBlks_pending (s : State) (n : Nat) (l : List Nat) : (s.takeBlks n l).1.pending = s.pending := by
  induction n generalizing s l with
  | zero => rfl
  | succ n ih => simp [State.takeBlks, ih]

@[simp] theorem State.sliceToFar_pending (s : State) (a o n : Nat) :
    (State.sliceToFar s a o n).pending = s.pending := by
  unfold State.sliceToFar
  repeat' first
    | with_reducible rfl
    | (simp; done)
    | split
    | intro _
    | (refine (foldl_pending _ ?_ _ _).trans ?_)
    | simp

@[simp] theorem State.farToSlice_pending (s0 : State) (o a n : Nat) :
    (State.farToSlice s0 o a n).pending = s0.pending := by
  unfold State.farToSlice
  repeat' first
    | with_reducible rfl
    | (simp; done)
    | split
    | intro _
    | (refine (foldl_pending _ ?_ _ _).trans ?_)
    | simp

@[simp] theorem State.blocksOut_pending (s : State) (p : Nat) (x : JSlot) (l : List (Nat × Nat)) :
    (State.blocksOut s p x l).pending = s.pending := by
  unfold State.blocksOut
  repeat' first
    | with_reducible rfl
    | (simp; done)
    | split
    | intro _
    | (refine (foldl_pending _ ?_ _ _).trans ?_)
    | simp

@[simp] theorem State.blocksIn_pending (s : State) (p : Nat) (x : JSlot) (l : List (Nat × Nat)) :
    (State.blocksIn s p x l).pending = s.pending := by
  unfold State.blocksIn
  repeat' first
    | with_reducible rfl
    | (simp; done)
    | split
    | intro _
    | (refine (foldl_pending _ ?_ _ _).trans ?_)
    | simp

@[simp] theorem State.farRoom_pending (s : State) (p k n : Nat) (f : JSess → Bool) (y_ : Nat) :
    (State.farRoom s p k n f y_).pending = s.pending := by
  induction y_ generalizing s with
  | zero => rfl
  | succ n ih =>
    unfold State.farRoom
    repeat' first
      | with_reducible rfl
      | (simp [ih]; done)
      | split
      | simp [ih]

@[simp] theorem State.parkReq_pending (s : State) (p : Nat) (q : JReq) :
    (State.parkReq s p q).pending = s.pending := by
  simp [State.parkReq, State.takeBlks_pending]

@[simp] theorem State.parkSess_pending (s : State) (p : Nat) (y : JSess) :
    (State.parkSess s p y).pending = s.pending := by
  simp [State.parkSess]

@[simp] theorem State.sessRoom_pending (s : State) (p k n : Nat) (keep : W32) (y_ : Nat) :
    (State.sessRoom s p k n keep y_).pending = s.pending := by
  induction y_ generalizing s with
  | zero => rfl
  | succ n ih =>
    unfold State.sessRoom
    repeat' first
      | with_reducible rfl
      | (simp [ih]; done)
      | split
      | simp [ih]

@[simp] theorem State.kvRoom_pending (s : State) (p k n : Nat) :
    (State.kvRoom s p k n).pending = s.pending := by
  unfold State.kvRoom
  repeat' first
    | with_reducible rfl
    | (simp; done)
    | split
    | intro _
    | simp

@[simp] theorem State.inputFails_pending (s : State) (i : Item) (a : Nat) :
    (State.inputFails s i a).pending = s.pending := by
  unfold State.inputFails
  repeat' first
    | with_reducible rfl
    | (simp; done)
    | split
    | intro _
    | simp

@[simp] theorem State.resumeParked_pending (s : State) (p : Nat) (hostFail : Option Nat) :
    (State.resumeParked s p hostFail).pending = s.pending := by
  unfold State.resumeParked
  dsimp only
  repeat' first | rfl | split | (simp; done)

end Sys2Proof.Machine
end

