-- ==== Sys2Proof/Laws/QueueVector.lean ====
section
/-!
SUPPORT. The operations of Vector.lean leave the queue of waiting commands as it is.
-/
namespace Sys2Proof.Machine

@[simp] theorem State.vecRow_pending (s : State) (n : Nat) (srcs : List Nat) (td : Nat) (g : Nat → List Row → Row) (r : Nat) :
    (State.vecRow s n srcs td g r).s.pending = s.pending := by
  unfold State.vecRow
  repeat' first
    | with_reducible rfl
    | (simp; done)
    | split
    | intro _
    | simp

@[simp] theorem State.vecRun_pending (s : State) (n k : Nat) (srcs : List Nat) (td : Nat) (g : Nat → List Row → Row) :
    (State.vecRun s n k srcs td g).pending = s.pending := by
  unfold State.vecRun
  repeat' first
    | with_reducible rfl
    | (simp; done)
    | split
    | intro _
    | simp

@[simp] theorem State.vop_pending (s : State) (n k : Nat) (w : WF) :
    (State.vop s n k w).pending = s.pending := by
  unfold State.vop
  repeat' first
    | with_reducible rfl
    | (simp; done)
    | split
    | intro _
    | (refine (State.wideUse_pending (hf := ?_) ..).trans ?_)
    | simp

@[simp] theorem State.vfma_pending (s : State) (n k : Nat) (w : WF) :
    (State.vfma s n k w).pending = s.pending := by
  unfold State.vfma
  repeat' first
    | with_reducible rfl
    | (simp; done)
    | split
    | intro _
    | (refine (State.wideUse_pending (hf := ?_) ..).trans ?_)
    | simp

@[simp] theorem State.vcvt_pending (s : State) (n k : Nat) (w : WF) :
    (State.vcvt s n k w).pending = s.pending := by
  unfold State.vcvt
  repeat' first
    | with_reducible rfl
    | (simp; done)
    | split
    | intro _
    | (refine (State.wideUse_pending (hf := ?_) ..).trans ?_)
    | simp

@[simp] theorem State.vfun_pending (s : State) (n k : Nat) (w rest : WF) (bad : Bool) (f : Fmt → Nat → Nat → Nat) :
    (State.vfun s n k w rest bad f).pending = s.pending := by
  unfold State.vfun
  repeat' first
    | with_reducible rfl
    | (simp; done)
    | split
    | intro _
    | (refine (State.wideUse_pending (hf := ?_) ..).trans ?_)
    | simp

@[simp] theorem State.vred_pending (s : State) (n k : Nat) (w : WF) :
    (State.vred s n k w).pending = s.pending := by
  unfold State.vred
  repeat' first
    | with_reducible rfl
    | (simp; done)
    | split
    | intro _
    | (refine (State.wideUse_pending (hf := ?_) ..).trans ?_)
    | simp

@[simp] theorem State.vscl_pending (s : State) (n k : Nat) (w : WF) :
    (State.vscl s n k w).pending = s.pending := by
  unfold State.vscl
  repeat' first
    | with_reducible rfl
    | (simp; done)
    | split
    | intro _
    | (refine (State.wideUse_pending (hf := ?_) ..).trans ?_)
    | simp

@[simp] theorem State.vcmp_pending (s : State) (n k : Nat) (w : WF) :
    (State.vcmp s n k w).pending = s.pending := by
  unfold State.vcmp
  repeat' first
    | with_reducible rfl
    | (simp; done)
    | split
    | intro _
    | (refine (State.wideUse_pending (hf := ?_) ..).trans ?_)
    | simp

end Sys2Proof.Machine
end

