-- ==== Sys2Proof/Laws/QueueJisan.lean ====
section
/-!
SUPPORT. The operations of Jisan.lean leave the queue of waiting commands as it is.
-/
namespace Sys2Proof.Machine

@[simp] theorem State.queueReq_pending (s : State) (i : Item) (l : List Buf) (par : List Byte) :
    (State.queueReq s i l par).pending = s.pending := by
  unfold State.queueReq
  repeat' first
    | with_reducible rfl
    | (simp; done)
    | split
    | intro _
    | (refine (State.checked_pending (hf := ?_) ..).trans ?_)
    | simp

@[simp] theorem State.passReq_pending (s : State) (i : Item) (l : List Buf) (par : List Byte) :
    (State.passReq s i l par).pending = s.pending := by
  unfold State.passReq
  repeat' first
    | with_reducible rfl
    | (simp; done)
    | split
    | intro _
    | (refine (State.checked_pending (hf := ?_) ..).trans ?_)
    | simp

@[simp] theorem State.endWaiting_pending (s : State) (i : Item) (st : Nat) :
    (State.endWaiting s i st).pending = s.pending := by
  unfold State.endWaiting
  repeat' first
    | with_reducible rfl
    | (simp; done)
    | split
    | intro _
    | simp

@[simp] theorem State.admitRequest_pending (s : State) (p : Nat) (q : JReq) (i : Item) (hostFail : Option Nat) :
    (State.admitRequest s p q i hostFail).pending = s.pending := by
  unfold State.admitRequest
  dsimp only
  repeat' first | split | (simp; done) | simp

@[simp] theorem State.admission_pending (s : State) (p : Nat) (hostFail : Option Nat) :
    (State.admission s p hostFail).pending = s.pending := by
  unfold State.admission
  repeat' first
    | with_reducible rfl
    | (simp; done)
    | split
    | intro _
    | simp

@[simp] theorem JForm.place_pending (f : JForm) (p k chunk : Nat) (q0 : JReq) :
    (JForm.place f p k chunk q0).s.pending = f.s.pending := by
  unfold JForm.place
  dsimp only
  repeat' first | split | (simp; done)

@[simp] theorem State.stepStart_pending (s : State) (p k : Nat) :
    (State.stepStart s p k).pending = s.pending := by
  unfold State.stepStart
  dsimp only
  have h := fun l => foldl_pend (fun f : JForm => f.s) (fun (f : JForm) q => f.place p k (s.chunkMax p) q) (fun f q => by simp) l { s := s, size := 64, seqs := [] }
  have g := fun (a : JSlot → Nat → Nat) (b : List Byte) l w => foldl_pend (fun w : JWr => w.s) (fun (w : JWr) n => w.slice (a ((s.jis1 p).slotOf k) n) b) (fun w n => by simp) l w
  split
  · rfl
  · split
    · exact h _
    · simp only [State.updJis_pending]
      refine (foldl_pending _ (fun s n => by simp) _ _).trans ?_
      exact (g (fun x n => unit256 * n + x.stepoff) _ _ _).trans (h _)

@[simp] theorem State.stepRetire_pending (s : State) (x : JSlot) :
    (State.stepRetire s x).pending = s.pending := by
  unfold State.stepRetire
  repeat' first
    | with_reducible rfl
    | (simp; done)
    | split
    | intro _
    | (refine (foldl_pending _ ?_ _ _).trans ?_)
    | simp

@[simp] theorem State.stepLeaves_pending (s : State) (p : Nat) :
    (State.stepLeaves s p).pending = s.pending := by
  unfold State.stepLeaves
  repeat' first
    | with_reducible rfl
    | (simp; done)
    | split
    | intro _
    | (refine (foldl_pending _ ?_ _ _).trans ?_)
    | simp

@[simp] theorem State.stepReqsEnd_pending (s : State) (p : Nat) (l : List JPart) (st : Nat) :
    (State.stepReqsEnd s p l st).pending = s.pending := by
  unfold State.stepReqsEnd
  repeat' first
    | with_reducible rfl
    | (simp; done)
    | split
    | intro _
    | (refine (foldl_pending _ ?_ _ _).trans ?_)
    | simp

@[simp] theorem State.stepFails_pending (s : State) (p : Nat) (r : JRun) (cause stall : Nat) (limit : Bool) (st : Nat) :
    (State.stepFails s p r cause stall limit st).pending = s.pending := by
  unfold State.stepFails
  repeat' first
    | with_reducible rfl
    | (simp; done)
    | split
    | intro _
    | simp

@[simp] theorem State.countToken_pending (s : State) (p : Nat) :
    (State.countToken s p).pending = s.pending := by
  unfold State.countToken
  repeat' first
    | with_reducible rfl
    | (simp; done)
    | split
    | intro _
    | simp

@[simp] theorem State.jisanDone_pending (s : State) (p : Nat) (q : JReq) (reason : Nat) :
    (State.jisanDone s p q reason).pending = s.pending := by
  unfold State.jisanDone
  repeat' first
    | with_reducible rfl
    | (simp; done)
    | split
    | intro _
    | simp

@[simp] theorem State.tokenWrite_pending (s : State) (p : Nat) (q : JReq) (n tok : Nat) :
    (State.tokenWrite s p q n tok).s.pending = s.pending := by
  unfold State.tokenWrite
  repeat' first
    | with_reducible rfl
    | (simp; done)
    | split
    | intro _
    | simp

@[simp] theorem State.tokenOut_pending (s : State) (p : Nat) (q : JReq) (x : JSlot) (tok : Nat) :
    (State.tokenOut s p q x tok).pending = s.pending := by
  unfold State.tokenOut
  repeat' first
    | with_reducible rfl
    | (simp; done)
    | split
    | intro _
    | simp

@[simp] theorem State.partEnd_pending (s : State) (p : Nat) (x : JSlot) (idx : Nat) (y : JPart) :
    (State.partEnd s p x idx y).pending = s.pending := by
  unfold State.partEnd
  repeat' first
    | with_reducible rfl
    | (simp; done)
    | split
    | intro _
    | simp

@[simp] theorem State.stepEnds_pending (s : State) (p ce : Nat) (bad : Bool) :
    (State.stepEnds s p ce bad).pending = s.pending := by
  unfold State.stepEnds
  repeat' first
    | with_reducible rfl
    | (simp; done)
    | split
    | intro _
    | (refine (foldl_pending _ ?_ _ _).trans ?_)
    | simp

@[simp] theorem State.policyStep_pending (s : State) (n f : Nat) :
    (State.policyStep s n f).pending = s.pending := by
  unfold State.policyStep
  repeat' first
    | with_reducible rfl
    | (simp; done)
    | split
    | intro _
    | simp

@[simp] theorem State.policyMult_pending (s : State) (h : Nat) (v : W32) :
    (State.policyMult s h v).pending = s.pending := by
  unfold State.policyMult
  repeat' first
    | with_reducible rfl
    | (simp; done)
    | split
    | intro _
    | simp

@[simp] theorem State.policyBatch_pending (s : State) (p n : Nat) :
    (State.policyBatch s p n).pending = s.pending := by
  unfold State.policyBatch
  repeat' first
    | with_reducible rfl
    | (simp; done)
    | split
    | intro _
    | simp

@[simp] theorem State.policyPark_pending (s : State) (p : Nat) :
    (State.policyPark s p).pending = s.pending := by
  unfold State.policyPark
  repeat' first
    | with_reducible rfl
    | (simp; done)
    | split
    | intro _
    | simp

end Sys2Proof.Machine
end

