-- ==== Sys2Proof/Laws/QueueCaravan.lean ====
section
/-!
SUPPORT. The operations of Caravan.lean leave the queue of waiting commands as it is.
-/
namespace Sys2Proof.Machine

@[simp] theorem State.cvWrite_pending (s : State) (p a : Nat) (b : List Byte) :
    (State.cvWrite s p a b).s.pending = s.pending := by
  unfold State.cvWrite
  exact foldl_pend (fun w : JWr => w.s) _ (fun w x => by split <;> simp) _ _

@[simp] theorem State.cvPoison_pending (s : State) (p a : Nat) :
    (State.cvPoison s p a).pending = s.pending := by
  unfold State.cvPoison
  repeat' first
    | with_reducible rfl
    | (simp; done)
    | split
    | intro _
    | simp

@[simp] theorem State.cvSignal_pending (s : State) (o : TOwner) (sig : W32) :
    (State.cvSignal s o sig).1.pending = s.pending := by
  unfold State.cvSignal
  repeat' first
    | with_reducible rfl
    | (simp; done)
    | split
    | intro _
    | simp

@[simp] theorem State.cvStart_pending (s : State) (i : Item) (l : List Buf) :
    (State.cvStart s i l).pending = s.pending := by
  unfold State.cvStart
  repeat' first
    | with_reducible rfl
    | (simp; done)
    | split
    | intro _
    | simp

@[simp] theorem State.localWrite_pending (s : State) (i : Item) (b : Buf) (hostFail : Option Nat) :
    (State.localWrite s i b hostFail).pending = s.pending := by
  unfold State.localWrite
  repeat' first
    | with_reducible rfl
    | (simp; done)
    | split
    | intro _
    | (refine (foldl_pending _ ?_ _ _).trans ?_)
    | simp

@[simp] theorem State.sendWrite_pending (s : State) (i : Item) (b : Buf) (hostFail : Option Nat) :
    (State.sendWrite s i b hostFail).pending = s.pending := by
  unfold State.sendWrite
  repeat' first
    | with_reducible rfl
    | (simp; done)
    | split
    | intro _
    | simp

@[simp] theorem State.collJoin_pending (s : State) (i : Item) (a b : Buf) (hostFail : Option Nat) :
    (State.collJoin s i a b hostFail).pending = s.pending := by
  unfold State.collJoin
  repeat' first
    | with_reducible rfl
    | (simp; done)
    | split
    | intro _
    | simp

@[simp] theorem State.opLost_pending (s : State) (o : CvOp) :
    (State.opLost s o).pending = s.pending := by
  unfold State.opLost
  repeat' first
    | with_reducible rfl
    | (simp; done)
    | split
    | intro _
    | simp

@[simp] theorem State.convLost_pending (s : State) (peer port : Nat) :
    (State.convLost s peer port).pending = s.pending := by
  unfold State.convLost
  repeat' first
    | with_reducible rfl
    | (simp; done)
    | split
    | intro _
    | (refine (foldl_pending _ ?_ _ _).trans ?_)
    | simp

@[simp] theorem State.convsLost_pending (s : State) (f : Nat → Nat → Bool) :
    (State.convsLost s f).pending = s.pending := by
  unfold State.convsLost
  repeat' first
    | with_reducible rfl
    | (simp; done)
    | split
    | intro _
    | (refine (foldl_pending _ ?_ _ _).trans ?_)
    | simp

@[simp] theorem State.opAcked_pending (s : State) (peer port : Nat) (a : W32) (o : CvOp) :
    (State.opAcked s peer port a o).pending = s.pending := by
  unfold State.opAcked
  repeat' first
    | with_reducible rfl
    | (simp; done)
    | split
    | intro _
    | simp

@[simp] theorem State.opsAcked_pending (s : State) (peer port : Nat) (need a : W32) :
    (State.opsAcked s peer port need a).pending = s.pending := by
  unfold State.opsAcked
  repeat' first
    | with_reducible rfl
    | (simp; done)
    | split
    | intro _
    | (refine (foldl_pending _ ?_ _ _).trans ?_)
    | simp

@[simp] theorem State.opsDue_pending (s : State) (peer port : Nat) :
    (State.opsDue s peer port).pending = s.pending := by
  unfold State.opsDue
  repeat' first
    | with_reducible rfl
    | (simp; done)
    | split
    | intro _
    | simp

@[simp] theorem State.acked_pending (s : State) (peer port : Nat) (a : W32) (ece : Bool) :
    (State.acked s peer port a ece).pending = s.pending := by
  unfold State.acked
  repeat' first
    | with_reducible rfl
    | (simp; done)
    | split
    | intro _
    | simp

@[simp] theorem State.cvAck_pending (s : State) (peer port : Nat) :
    (State.cvAck s peer port).pending = s.pending := by
  unfold State.cvAck
  repeat' first
    | with_reducible rfl
    | (simp; done)
    | split
    | intro _
    | simp

@[simp] theorem State.cvDrop_pending (s : State) :
    (State.cvDrop s).pending = s.pending := by
  unfold State.cvDrop
  repeat' first
    | with_reducible rfl
    | (simp; done)
    | split
    | intro _
    | simp

@[simp] theorem State.rxFails_pending (s : State) (f : Frame) (x : CvRx) (st : Nat) :
    (State.rxFails s f x st).pending = s.pending := by
  unfold State.rxFails
  repeat' first
    | with_reducible rfl
    | (simp; done)
    | split
    | intro _
    | simp

@[simp] theorem State.onStart_pending (s : State) (f : Frame) (addr len : Nat) (sig : W32) :
    (State.onStart s f addr len sig).pending = s.pending := by
  unfold State.onStart
  repeat' first
    | with_reducible rfl
    | (simp; done)
    | split
    | intro _
    | simp

@[simp] theorem State.rxDone_pending (s : State) (f : Frame) (x : CvRx) :
    (State.rxDone s f x).pending = s.pending := by
  unfold State.rxDone
  repeat' first
    | with_reducible rfl
    | (simp; done)
    | split
    | intro _
    | simp

@[simp] theorem State.onData_pending (s : State) (f : Frame) (addr : Nat) (b : List Byte) :
    (State.onData s f addr b).pending = s.pending := by
  unfold State.onData
  repeat' first
    | with_reducible rfl
    | (simp; done)
    | split
    | intro _
    | simp

@[simp] theorem State.onTally_pending (s : State) (f : Frame) (id top cmp : Nat) (x : W32) :
    (State.onTally s f id top cmp x).pending = s.pending := by
  unfold State.onTally
  repeat' first
    | with_reducible rfl
    | (simp; done)
    | split
    | intro _
    | simp

@[simp] theorem State.opTake_pending (s : State) (f : Frame) :
    (State.opTake s f).2.pending = s.pending := by
  unfold State.opTake
  repeat' first
    | with_reducible rfl
    | (simp; done)
    | split
    | intro _
    | simp

@[simp] theorem State.onResult_pending (s : State) (f : Frame) (v : W32) :
    (State.onResult s f v).pending = s.pending := by
  unfold State.onResult
  have h := State.opTake_pending s f
  repeat' split
  all_goals first | rfl | (rename_i e; rw [e] at h; simpa using h) | (rename_i e _; rw [e] at h; simpa using h) | (rename_i e _ _; rw [e] at h; simpa using h) | (rename_i e _ _ _; rw [e] at h; simpa using h) | (rename_i e _ _ _ _; rw [e] at h; simpa using h) | (rename_i e _ _ _ _ _; rw [e] at h; simpa using h)

@[simp] theorem State.onRefuse_pending (s : State) (f : Frame) (st : Nat) :
    (State.onRefuse s f st).pending = s.pending := by
  unfold State.onRefuse
  have h := State.opTake_pending s f
  split
  · rfl
  · rename_i o s' e
    rw [e] at h
    repeat' split
    all_goals simpa using h

@[simp] theorem State.onAbort_pending (s : State) (f : Frame) (st : Nat) :
    (State.onAbort s f st).pending = s.pending := by
  unfold State.onAbort
  repeat' first
    | with_reducible rfl
    | (simp; done)
    | split
    | intro _
    | simp

@[simp] theorem State.cvDeliver_pending (s : State) (x : CvHeld) :
    (State.cvDeliver s x).pending = s.pending := by
  unfold State.cvDeliver
  repeat' first
    | with_reducible rfl
    | (simp; done)
    | split
    | intro _
    | simp

@[simp] theorem State.cvAhead_pending (s : State) (peer port : Nat) (y_ : Nat) :
    (State.cvAhead s peer port y_).pending = s.pending := by
  induction y_ generalizing s with
  | zero => rfl
  | succ n ih =>
    unfold State.cvAhead
    repeat' first
      | with_reducible rfl
      | (simp [ih]; done)
      | split
      | simp [ih]

@[simp] theorem State.onPacket_pending (s : State) (x : CvHeld) :
    (State.onPacket s x).pending = s.pending := by
  unfold State.onPacket
  repeat' first
    | with_reducible rfl
    | (simp; done)
    | split
    | intro _
    | simp

@[simp] theorem State.onBare_pending (s : State) (f : Frame) :
    (State.onBare s f).pending = s.pending := by
  unfold State.onBare
  repeat' first
    | with_reducible rfl
    | (simp; done)
    | split
    | intro _
    | simp

@[simp] theorem State.onOpen_pending (s : State) (f : Frame) (epoch : W32) :
    (State.onOpen s f epoch).pending = s.pending := by
  have key : ∀ u v : State, (if (u.conv f.src f.port).st = 0 then u.cvRoom else some u) = some v → v.pending = u.pending := by
    intro u v h
    split at h
    · exact State.cvRoom_pending (hx_ := h)
    · cases h; rfl
  unfold State.onOpen
  split
  · simp
  · dsimp only
    split
    · simp
    · generalize hu : (if (s.conv f.src f.port).st = 2 ∨ (s.conv f.src f.port).st = 1 ∧ (s.conv f.src f.port).restarted epoch = true then
        s.convLost f.src f.port else s) = u
      have hp : u.pending = s.pending := by rw [← hu]; split <;> simp
      split
      · exact hp
      · rename_i s' h
        simp [key _ _ h, hp]

@[simp] theorem State.onOpenAck_pending (s : State) (f : Frame) (epoch : W32) :
    (State.onOpenAck s f epoch).pending = s.pending := by
  unfold State.onOpenAck
  repeat' first
    | with_reducible rfl
    | (simp; done)
    | split
    | intro _
    | simp

@[simp] theorem State.rtoExpire_pending (s : State) (peer port : Nat) :
    (State.rtoExpire s peer port).pending = s.pending := by
  unfold State.rtoExpire
  repeat' first
    | with_reducible rfl
    | (simp; done)
    | split
    | intro _
    | simp

@[simp] theorem State.portSet_pending (s : State) (k v : Nat) :
    (State.portSet s k v).pending = s.pending := by
  unfold State.portSet
  repeat' first
    | with_reducible rfl
    | (simp; done)
    | split
    | intro _
    | simp

@[simp] theorem State.portDown_pending (s : State) (k : Nat) :
    (State.portDown s k).pending = s.pending := by
  unfold State.portDown
  repeat' first
    | with_reducible rfl
    | (simp; done)
    | split
    | intro _
    | simp

@[simp] theorem State.icmpSend_pending (s : State) (port dst type : Nat) (rest : List Byte) :
    (State.icmpSend s port dst type rest).pending = s.pending := by
  unfold State.icmpSend
  repeat' first
    | with_reducible rfl
    | (simp; done)
    | split
    | intro _
    | simp

@[simp] theorem State.learn_pending (s : State) (port : Nat) (a : BitVec 128) (m : BitVec 48) :
    (State.learn s port a m).pending = s.pending := by
  unfold State.learn
  repeat' first
    | with_reducible rfl
    | (simp; done)
    | split
    | intro _
    | simp

@[simp] theorem State.cvTry_pending (s : State) (q : Req) (off bytes : Nat) (ok : Bool) (f : State → State) (hf : ∀ x0, (f x0).pending = x0.pending) :
    (State.cvTry s q off bytes ok f).pending = s.pending := by
  unfold State.cvTry
  repeat' first
    | with_reducible rfl
    | exact hf ..
    | (simp; done)
    | split
    | intro _
    | (refine (State.setupTry_pending (hf := ?_) ..).trans ?_)
    | simp

@[simp] theorem State.peerStore_pending (s : State) (v : W32) :
    (State.peerStore s v).pending = s.pending := by
  unfold State.peerStore
  repeat' first
    | with_reducible rfl
    | (simp; done)
    | split
    | intro _
    | simp

@[simp] theorem State.peerLoad_pending (s : State) (v : W32) :
    (State.peerLoad s v).pending = s.pending := by
  unfold State.peerLoad
  repeat' first
    | with_reducible rfl
    | (simp; done)
    | split
    | intro _
    | simp

@[simp] theorem State.handleStore_pending (s : State) (p h off size : Nat) (v : Word) :
    (State.handleStore s p h off size v).pending = s.pending := by
  unfold State.handleStore
  repeat' first
    | with_reducible rfl
    | (simp; done)
    | split
    | intro _
    | simp

end Sys2Proof.Machine
end

