-- ==== Sys2Proof/Laws/QueueConfigSpace.lean ====
section
/-!
SUPPORT. The operations of ConfigSpace.lean leave the queue of waiting commands as it is.
-/
namespace Sys2Proof.Machine

@[simp] theorem State.cfgWrite_pending (s : State) (fn off : Nat) (v : W32) :
    (State.cfgWrite s fn off v).pending = s.pending := by
  unfold State.cfgWrite
  repeat' first
    | with_reducible rfl
    | (simp; done)
    | split
    | intro _
    | simp

end Sys2Proof.Machine
end

