-- ==== Sys2Proof/Laws/QueueControl.lean ====
section
/-!
SUPPORT. The operations of Control.lean leave the queue of waiting commands as it is.
-/
namespace Sys2Proof.Machine

@[simp] theorem State.branch_pending (s : State) (n k : Nat) (ra rb : BitVec 5) (off : BitVec 15) (c : Word → Word → Bool) :
    (State.branch s n k ra rb off c).pending = s.pending := by
  unfold State.branch
  repeat' first
    | with_reducible rfl
    | (simp; done)
    | split
    | intro _
    | (refine (State.scalar_pending (hf := ?_) ..).trans ?_)
    | simp

@[simp] theorem State.dropBuffer_pending (s : State) (n : Nat) :
    (State.dropBuffer s n).pending = s.pending := by
  unfold State.dropBuffer
  repeat' first
    | with_reducible rfl
    | (simp; done)
    | split
    | intro _
    | simp

@[simp] theorem State.bufferLine_pending (s : State) (n : Nat) (line : Word) :
    (State.bufferLine s n line).pending = s.pending := by
  unfold State.bufferLine
  repeat' first
    | with_reducible rfl
    | (simp; done)
    | split
    | intro _
    | (refine (foldl_pending _ ?_ _ _).trans ?_)
    | simp

@[simp] theorem State.fetchLine_pending (s : State) (n k : Nat) (line : Word) :
    (State.fetchLine s n k line).pending = s.pending := by
  unfold State.fetchLine
  repeat' first
    | with_reducible rfl
    | (simp; done)
    | split
    | intro _
    | simp

end Sys2Proof.Machine
end

