-- ==== Sys2Proof/Laws/QueueMatrix.lean ====
section
/-!
SUPPORT. The operations of Matrix.lean leave the queue of waiting commands as it is.
-/
namespace Sys2Proof.Machine

@[simp] theorem State.setWop_pending (s : State) (n : Nat) (o : WOp) :
    (State.setWop s n o).pending = s.pending := by
  unfold State.setWop
  repeat' first
    | with_reducible rfl
    | (simp; done)
    | split
    | intro _
    | simp

@[simp] theorem State.passInput_pending (s : State) (n : Nat) (o : WOp) (a : Word) :
    (State.passInput s n o a).s.pending = s.pending := by
  unfold State.passInput
  repeat' first
    | with_reducible rfl
    | (simp; done)
    | split
    | intro _
    | simp

@[simp] theorem State.passOld_pending (s : State) (n : Nat) (o : WOp) :
    (State.passOld s n o).1.pending = s.pending := by
  unfold State.passOld
  repeat' first
    | with_reducible rfl
    | (simp; done)
    | split
    | intro _
    | simp

@[simp] theorem State.passWrite_pending (s : State) (n : Nat) (o : WOp) (l : List W32) :
    (State.passWrite s n o l).pending = s.pending := by
  unfold State.passWrite
  repeat' first
    | with_reducible rfl
    | (simp; done)
    | split
    | intro _
    | simp

@[simp] theorem State.wopBase_pending (s : State) (n : Nat) (o : WOp) :
    (State.wopBase s n o).1.pending = s.pending := by
  unfold State.wopBase
  repeat' first
    | with_reducible rfl
    | (simp; done)
    | split
    | intro _
    | simp

@[simp] theorem State.passRow_pending (s : State) (n cyc : Nat) (o : WOp) (v : Word) :
    (State.passRow s n cyc o v).pending = s.pending := by
  unfold State.passRow
  repeat' first
    | with_reducible rfl
    | (simp; done)
    | split
    | intro _
    | simp

@[simp] theorem State.pass_pending (s : State) (n cyc : Nat) :
    (State.pass s n cyc).pending = s.pending := by
  unfold State.pass
  repeat' first
    | with_reducible rfl
    | (simp; done)
    | split
    | intro _
    | simp

@[simp] theorem State.hmvOut_pending (s : State) (n : Nat) (o : WOp) (v : Nat) (x : W32) :
    (State.hmvOut s n o v x).pending = s.pending := by
  unfold State.hmvOut
  repeat' first
    | with_reducible rfl
    | (simp; done)
    | split
    | intro _
    | simp

@[simp] theorem State.hmvRun_pending (s : State) (n : Nat) (o : WOp) (f : AFmt) (v : Word) :
    (State.hmvRun s n o f v).pending = s.pending := by
  unfold State.hmvRun
  repeat' first
    | with_reducible rfl
    | (simp; done)
    | split
    | intro _
    | (refine (foldl_pending _ ?_ _ _).trans ?_)
    | simp

@[simp] theorem State.hmvBlock_pending (s : State) (n : Nat) (y_ : Nat) :
    (State.hmvBlock s n y_).pending = s.pending := by
  induction y_ generalizing s with
  | zero => rfl
  | succ n ih =>
    unfold State.hmvBlock
    repeat' first
      | with_reducible rfl
      | (simp [ih]; done)
      | split
      | simp [ih]

@[simp] theorem State.hawkStep_pending (s : State) (n : Nat) :
    (State.hawkStep s n).pending = s.pending := by
  unfold State.hawkStep
  repeat' first
    | with_reducible rfl
    | (simp; done)
    | split
    | intro _
    | (refine (foldl_pending _ ?_ _ _).trans ?_)
    | simp

@[simp] theorem State.wopFinish_pending (s : State) (n : Nat) :
    (State.wopFinish s n).pending = s.pending := by
  unfold State.wopFinish
  repeat' first
    | with_reducible rfl
    | (simp; done)
    | split
    | intro _
    | simp

end Sys2Proof.Machine
end

