-- ==== Sys2Proof/Laws/QueueContext.lean ====
section
/-!
SUPPORT. The operations of Context.lean leave the queue of waiting commands as it is.
-/
namespace Sys2Proof.Machine

@[simp] theorem State.wopStop_pending (s : State) (n : Nat) :
    (State.wopStop s n).pending = s.pending := by
  unfold State.wopStop
  have h := foldl_pending (fun (s : State) (_ : Nat) => if (s.stall n).wop.any (fun o => o.op = .hmv && !o.done && o.blk ≠ 0) then s.hmvBlock n 1 else s)
    (fun s _ => by split <;> simp) (List.range 32) s
  dsimp only
  generalize List.foldl (fun (s : State) (_ : Nat) => if (s.stall n).wop.any (fun o => o.op = .hmv && !o.done && o.blk ≠ 0) then s.hmvBlock n 1 else s) s (List.range 32) = u at h ⊢
  split
  · exact h
  · split
    · simpa using h
    · refine (foldl_pending _ (fun s k => by simp) _ _).trans ?_
      simpa using h

@[simp] theorem State.threadStop_pending (s : State) (n k : Nat) :
    (State.threadStop s n k).pending = s.pending := by
  unfold State.threadStop
  repeat' first
    | with_reducible rfl
    | (simp; done)
    | split
    | intro _
    | simp

@[simp] theorem State.preemptStall_pending (s : State) (n slot : Nat) :
    (State.preemptStall s n slot).pending = s.pending := by
  unfold State.preemptStall
  repeat' first
    | with_reducible rfl
    | (simp; done)
    | split
    | intro _
    | (refine (foldl_pending _ ?_ _ _).trans ?_)
    | simp

@[simp] theorem State.haltStall_pending (s : State) (n : Nat) :
    (State.haltStall s n).pending = s.pending := by
  unfold State.haltStall
  repeat' first
    | with_reducible rfl
    | (simp; done)
    | split
    | intro _
    | (refine (foldl_pending _ ?_ _ _).trans ?_)
    | simp

@[simp] theorem State.spOnly_pending (s : State) (q : Req) (n : Nat) (f : State → State) (hf : ∀ x0, (f x0).pending = x0.pending) :
    (State.spOnly s q n f).pending = s.pending := by
  unfold State.spOnly
  repeat' first
    | with_reducible rfl
    | exact hf ..
    | (simp; done)
    | split
    | intro _
    | (refine (State.stallTry_pending (hf := ?_) ..).trans ?_)
    | simp

@[simp] theorem State.parkOps_pending (s : State) (n : Nat) :
    (State.parkOps s n).pending = s.pending := by
  unfold State.parkOps
  exact (State.reown_pending ..).trans (State.orphan_pending ..)

@[simp] theorem State.saveDone_pending (s : State) (n : Nat) :
    (State.saveDone s n).pending = s.pending := by
  unfold State.saveDone
  generalize slotAddr n (fld32 (s.rw32 (stallBase n + 8)) 3 1) = a
  generalize s.saveBytes n = b
  split
  · rw [State.boundary_pending, State.updStall_pending, State.parkOps_pending, State.selEvent_pending, State.used_pending,
      State.wrSlice_pending]
  · rfl

@[simp] theorem State.restoreStall_pending (s : State) (n slot : Nat) :
    (State.restoreStall s n slot).pending = s.pending := by
  unfold State.restoreStall
  repeat' first
    | with_reducible rfl
    | (simp; done)
    | split
    | intro _
    | (refine (foldl_pending _ ?_ _ _).trans ?_)
    | simp

end Sys2Proof.Machine
end

