-- ==== Sys2Proof/Laws/QueueLoadStore.lean ====
section
/-!
SUPPORT. The operations of LoadStore.lean leave the queue of waiting commands as it is.
-/
namespace Sys2Proof.Machine

@[simp] theorem State.load_pending (s : State) (n k : Nat) (rd ra : BitVec 5) (imm : BitVec 15) (sz : Nat) (signed : Bool) :
    (State.load s n k rd ra imm sz signed).pending = s.pending := by
  unfold State.load
  repeat' first
    | with_reducible rfl
    | (simp; done)
    | split
    | intro _
    | (refine (State.scalar_pending (hf := ?_) ..).trans ?_)
    | simp

@[simp] theorem State.store_pending (s : State) (n k : Nat) (rb ra : BitVec 5) (imm : BitVec 15) (sz : Nat) :
    (State.store s n k rb ra imm sz).pending = s.pending := by
  unfold State.store
  repeat' first
    | with_reducible rfl
    | (simp; done)
    | split
    | intro _
    | (refine (State.scalar_pending (hf := ?_) ..).trans ?_)
    | simp

end Sys2Proof.Machine
end

