-- ==== Sys2Proof/Laws/QueueRegWrite.lean ====
section
/-!
SUPPORT. The operations of RegWrite.lean leave the queue of waiting commands as it is.
-/
namespace Sys2Proof.Machine

@[simp] theorem after_run_pending (s : State) (ok : Bool) (t : State) (h : t.pending = s.pending) :
    (after s (run ok t)).pending = s.pending := by
  unfold after run
  cases ok
  · rfl
  · exact h

@[simp] theorem after_execBootcfgWrite_pending (q : Req) (v : W32) (st : State) : (after st (execBootcfgWrite q v st)).pending = st.pending := by
  unfold execBootcfgWrite
  refine after_run_pending _ _ _ ?_
  repeat' first
    | with_reducible rfl
    | (simp; done)
    | split
    | intro _
    | (refine (State.setupTry_pending (hf := ?_) ..).trans ?_)
    | simp

@[simp] theorem after_execDisplace_pending (q : Req) (m : Nat) (st : State) : (after st (execDisplace q m st)).pending = st.pending := by
  unfold execDisplace
  refine after_run_pending _ _ _ ?_
  repeat' first
    | with_reducible rfl
    | (simp; done)
    | split
    | intro _
    | (refine (State.modCmd_pending (hf := ?_) ..).trans ?_)
    | simp

@[simp] theorem after_execFwCancel_pending (q : Req) (st : State) : (after st (execFwCancel q st)).pending = st.pending := by
  unfold execFwCancel
  refine after_run_pending _ _ _ ?_
  repeat' first
    | with_reducible rfl
    | (simp; done)
    | split
    | intro _
    | (refine (State.setupTry_pending (hf := ?_) ..).trans ?_)
    | simp

@[simp] theorem after_execFwConfirm_pending (q : Req) (st : State) : (after st (execFwConfirm q st)).pending = st.pending := by
  unfold execFwConfirm
  refine after_run_pending _ _ _ ?_
  repeat' first
    | with_reducible rfl
    | (simp; done)
    | split
    | intro _
    | (refine (State.setupTry_pending (hf := ?_) ..).trans ?_)
    | simp

@[simp] theorem after_execHallRefCmd_pending (q : Req) (h : Nat) (v : W32) (st : State) : (after st (execHallRefCmd q h v st)).pending = st.pending := by
  unfold execHallRefCmd
  refine after_run_pending _ _ _ ?_
  repeat' first
    | with_reducible rfl
    | (simp; done)
    | split
    | intro _
    | (refine (State.setupTry_pending (hf := ?_) ..).trans ?_)
    | simp

@[simp] theorem after_execHandleWrite_pending (q : Req) (p h off size : Nat) (v : Word) (st : State) : (after st (execHandleWrite q p h off size v st)).pending = st.pending := by
  unfold execHandleWrite
  refine after_run_pending _ _ _ ?_
  repeat' first
    | with_reducible rfl
    | (simp; done)
    | split
    | intro _
    | (refine (State.setupTry_pending (hf := ?_) ..).trans ?_)
    | simp

@[simp] theorem after_execHeartbeat_pending (i : Nat) (st : State) : (after st (execHeartbeat i st)).pending = st.pending := by
  unfold execHeartbeat
  refine after_run_pending _ _ _ ?_
  repeat' first
    | with_reducible rfl
    | (simp; done)
    | split
    | intro _
    | simp

@[simp] theorem after_execIslandclkWrite_pending (q : Req) (s : Nat) (v : W32) (st : State) : (after st (execIslandclkWrite q s v st)).pending = st.pending := by
  unfold execIslandclkWrite
  refine after_run_pending _ _ _ ?_
  repeat' first
    | with_reducible rfl
    | (simp; done)
    | split
    | intro _
    | (refine (State.stallTry_pending (hf := ?_) ..).trans ?_)
    | simp

@[simp] theorem after_execJcancel_pending (q : Req) (p : Nat) (v : W32) (st : State) : (after st (execJcancel q p v st)).pending = st.pending := by
  unfold execJcancel
  refine after_run_pending _ _ _ ?_
  repeat' first
    | with_reducible rfl
    | (simp; done)
    | split
    | intro _
    | (refine (State.setupTry_pending (hf := ?_) ..).trans ?_)
    | simp

@[simp] theorem after_execJinjcfgWrite_pending (q : Req) (i : Nat) (v : Word) (st : State) : (after st (execJinjcfgWrite q i v st)).pending = st.pending := by
  unfold execJinjcfgWrite
  refine after_run_pending _ _ _ ?_
  repeat' first
    | with_reducible rfl
    | (simp; done)
    | split
    | intro _
    | (refine (State.setupTry_pending (hf := ?_) ..).trans ?_)
    | simp

@[simp] theorem after_execJostleUnlock_pending (q : Req) (v : W32) (st : State) : (after st (execJostleUnlock q v st)).pending = st.pending := by
  unfold execJostleUnlock
  refine after_run_pending _ _ _ ?_
  repeat' first
    | with_reducible rfl
    | (simp; done)
    | split
    | intro _
    | (refine (State.setupTry_pending (hf := ?_) ..).trans ?_)
    | simp

@[simp] theorem after_execLedgerFlush_pending (q : Req) (st : State) : (after st (execLedgerFlush q st)).pending = st.pending := by
  unfold execLedgerFlush
  refine after_run_pending _ _ _ ?_
  repeat' first
    | with_reducible rfl
    | (simp; done)
    | split
    | intro _
    | (refine (State.setupTry_pending (hf := ?_) ..).trans ?_)
    | simp

@[simp] theorem after_execLoadModel_pending (q : Req) (p : Nat) (v : Word) (st : State) : (after st (execLoadModel q p v st)).pending = st.pending := by
  unfold execLoadModel
  refine after_run_pending _ _ _ ?_
  repeat' first
    | with_reducible rfl
    | (simp; done)
    | split
    | intro _
    | simp

@[simp] theorem after_execMcommit_pending (q : Req) (m : Nat) (v : W32) (st : State) : (after st (execMcommit q m v st)).pending = st.pending := by
  unfold execMcommit
  refine after_run_pending _ _ _ ?_
  repeat' first
    | with_reducible rfl
    | (simp; done)
    | split
    | intro _
    | (refine (State.setupTry_pending (hf := ?_) ..).trans ?_)
    | simp

@[simp] theorem after_execModuleRestore_pending (q : Req) (m : Nat) (st : State) : (after st (execModuleRestore q m st)).pending = st.pending := by
  unfold execModuleRestore
  refine after_run_pending _ _ _ ?_
  repeat' first
    | with_reducible rfl
    | (simp; done)
    | split
    | intro _
    | (refine (State.modCmd_pending (hf := ?_) ..).trans ?_)
    | simp

@[simp] theorem after_execPeerctlWrite_pending (q : Req) (v : W32) (st : State) : (after st (execPeerctlWrite q v st)).pending = st.pending := by
  unfold execPeerctlWrite
  refine after_run_pending _ _ _ ?_
  repeat' first
    | with_reducible rfl
    | (simp; done)
    | split
    | intro _
    | (refine (State.cvTry_pending (hf := ?_) ..).trans ?_)
    | simp

@[simp] theorem after_execPeeridxWrite_pending (q : Req) (v : W32) (st : State) : (after st (execPeeridxWrite q v st)).pending = st.pending := by
  unfold execPeeridxWrite
  refine after_run_pending _ _ _ ?_
  repeat' first
    | with_reducible rfl
    | (simp; done)
    | split
    | intro _
    | (refine (State.cvTry_pending (hf := ?_) ..).trans ?_)
    | simp

@[simp] theorem after_execPitchReset_pending (q : Req) (p : Nat) (scrub : Bool) (st : State) : (after st (execPitchReset q p scrub st)).pending = st.pending := by
  unfold execPitchReset
  refine after_run_pending _ _ _ ?_
  repeat' first
    | with_reducible rfl
    | (simp; done)
    | split
    | intro _
    | (refine (State.setupTry_pending (hf := ?_) ..).trans ?_)
    | simp

@[simp] theorem after_execPowerdown_pending (q : Req) (m : Nat) (st : State) : (after st (execPowerdown q m st)).pending = st.pending := by
  unfold execPowerdown
  refine after_run_pending _ _ _ ?_
  repeat' first
    | with_reducible rfl
    | (simp; done)
    | split
    | intro _
    | (refine (State.modCmd_pending (hf := ?_) ..).trans ?_)
    | simp

@[simp] theorem after_execPowerup_pending (q : Req) (m : Nat) (st : State) : (after st (execPowerup q m st)).pending = st.pending := by
  unfold execPowerup
  refine after_run_pending _ _ _ ?_
  repeat' first
    | with_reducible rfl
    | (simp; done)
    | split
    | intro _
    | (refine (State.modCmd_pending (hf := ?_) ..).trans ?_)
    | simp

@[simp] theorem after_execPtCommit_pending (q : Req) (v : W32) (st : State) : (after st (execPtCommit q v st)).pending = st.pending := by
  unfold execPtCommit
  refine after_run_pending _ _ _ ?_
  repeat' first
    | with_reducible rfl
    | (simp; done)
    | split
    | intro _
    | (refine (State.setupTry_pending (hf := ?_) ..).trans ?_)
    | simp

@[simp] theorem after_execPtRevert_pending (q : Req) (v : W32) (st : State) : (after st (execPtRevert q v st)).pending = st.pending := by
  unfold execPtRevert
  refine after_run_pending _ _ _ ?_
  repeat' first
    | with_reducible rfl
    | (simp; done)
    | split
    | intro _
    | (refine (State.setupTry_pending (hf := ?_) ..).trans ?_)
    | simp

@[simp] theorem after_execQuiesce_pending (q : Req) (p : Nat) (on : Bool) (st : State) : (after st (execQuiesce q p on st)).pending = st.pending := by
  unfold execQuiesce
  refine after_run_pending _ _ _ ?_
  repeat' first
    | with_reducible rfl
    | (simp; done)
    | split
    | intro _
    | (refine (State.setupTry_pending (hf := ?_) ..).trans ?_)
    | simp

@[simp] theorem after_execRestart_pending (q : Req) (h : Nat) (st : State) : (after st (execRestart q h st)).pending = st.pending := by
  unfold execRestart
  refine after_run_pending _ _ _ ?_
  repeat' first
    | with_reducible rfl
    | (simp; done)
    | split
    | intro _
    | (refine (State.setupTry_pending (hf := ?_) ..).trans ?_)
    | simp

@[simp] theorem after_execRetireCmd_pending (q : Req) (v : W32) (st : State) : (after st (execRetireCmd q v st)).pending = st.pending := by
  unfold execRetireCmd
  refine after_run_pending _ _ _ ?_
  repeat' first
    | with_reducible rfl
    | (simp; done)
    | split
    | intro _
    | (refine (State.setupTry_pending (hf := ?_) ..).trans ?_)
    | simp

@[simp] theorem after_execRetrain_pending (q : Req) (l : Nat) (st : State) : (after st (execRetrain q l st)).pending = st.pending := by
  unfold execRetrain
  refine after_run_pending _ _ _ ?_
  repeat' first
    | with_reducible rfl
    | (simp; done)
    | split
    | intro _
    | (refine (State.setupTry_pending (hf := ?_) ..).trans ?_)
    | simp

@[simp] theorem after_execRingAbort_pending (q : Req) (p r : Nat) (st : State) : (after st (execRingAbort q p r st)).pending = st.pending := by
  unfold execRingAbort
  refine after_run_pending _ _ _ ?_
  repeat' first
    | with_reducible rfl
    | (simp; done)
    | split
    | intro _
    | (refine (State.ringWrite_pending (hf := ?_) ..).trans ?_)
    | simp

@[simp] theorem after_execRingDisable_pending (q : Req) (p r : Nat) (st : State) : (after st (execRingDisable q p r st)).pending = st.pending := by
  unfold execRingDisable
  refine after_run_pending _ _ _ ?_
  repeat' first
    | with_reducible rfl
    | (simp; done)
    | split
    | intro _
    | (refine (State.ringWrite_pending (hf := ?_) ..).trans ?_)
    | simp

@[simp] theorem after_execRingEnable_pending (q : Req) (p r : Nat) (st : State) : (after st (execRingEnable q p r st)).pending = st.pending := by
  unfold execRingEnable
  refine after_run_pending _ _ _ ?_
  repeat' first
    | with_reducible rfl
    | (simp; done)
    | split
    | intro _
    | (refine (State.ringWrite_pending (hf := ?_) ..).trans ?_)
    | simp

@[simp] theorem after_execSalvage_pending (q : Req) (v : W32) (st : State) : (after st (execSalvage q v st)).pending = st.pending := by
  unfold execSalvage
  refine after_run_pending _ _ _ ?_
  repeat' first
    | with_reducible rfl
    | (simp; done)
    | split
    | intro _
    | (refine (State.setupTry_pending (hf := ?_) ..).trans ?_)
    | simp

@[simp] theorem after_execSelrptrWrite_pending (q : Req) (s : Nat) (v : Word) (st : State) : (after st (execSelrptrWrite q s v st)).pending = st.pending := by
  unfold execSelrptrWrite
  refine after_run_pending _ _ _ ?_
  repeat' first
    | with_reducible rfl
    | (simp; done)
    | split
    | intro _
    | (refine (State.stallTry_pending (hf := ?_) ..).trans ?_)
    | simp

@[simp] theorem after_execUnloadModel_pending (q : Req) (p : Nat) (v : Word) (st : State) : (after st (execUnloadModel q p v st)).pending = st.pending := by
  unfold execUnloadModel
  refine after_run_pending _ _ _ ?_
  repeat' first
    | with_reducible rfl
    | (simp; done)
    | split
    | intro _
    | simp

@[simp] theorem after_execVsetWrite_pending (q : Req) (rail : Nat) (v : W32) (st : State) : (after st (execVsetWrite q rail v st)).pending = st.pending := by
  unfold execVsetWrite
  refine after_run_pending _ _ _ ?_
  repeat' first
    | with_reducible rfl
    | (simp; done)
    | split
    | intro _
    | (refine (State.setupTry_pending (hf := ?_) ..).trans ?_)
    | simp

@[simp] theorem after_execWarmReset_pending (q : Req) (f : Find) (st : State) : (after st (execWarmReset q f st)).pending = st.pending := by
  unfold execWarmReset
  refine after_run_pending _ _ _ ?_
  repeat' first
    | with_reducible rfl
    | (simp; done)
    | split
    | intro _
    | (refine (State.setupTry_pending (hf := ?_) ..).trans ?_)
    | simp

@[simp] theorem State.refuse_pending (s : State) (q : Req) (off : Nat) :
    (State.refuse s q off).pending = s.pending := by
  unfold State.refuse
  repeat' first
    | with_reducible rfl
    | (simp; done)
    | split
    | intro _
    | simp

@[simp] theorem orElse_pending (s : State) (q : Req) (off : Nat) (ok : Bool) (f : State → State) (hf : ∀ x0, (f x0).pending = x0.pending) :
    (orElse s q off ok f).pending = s.pending := by
  unfold orElse
  repeat' first
    | with_reducible rfl
    | exact hf ..
    | (simp; done)
    | split
    | intro _
    | simp

@[simp] theorem State.store64_pending (s : State) (off : Nat) (v : Word) (lo hi : Bool) (mask : Word) :
    (State.store64 s off v lo hi mask).pending = s.pending := by
  unfold State.store64
  repeat' first
    | with_reducible rfl
    | (simp; done)
    | split
    | intro _
    | simp

@[simp] theorem State.cvcfgWrite_pending (s : State) (v : Word) :
    (State.cvcfgWrite s v).pending = s.pending := by
  unfold State.cvcfgWrite
  repeat' first
    | with_reducible rfl
    | (simp; done)
    | split
    | intro _
    | simp

@[simp] theorem State.cvportWrite_pending (s : State) (k : Nat) (v : W32) :
    (State.cvportWrite s k v).pending = s.pending := by
  unfold State.cvportWrite
  repeat' first
    | with_reducible rfl
    | (simp; done)
    | split
    | intro _
    | simp

@[simp] theorem State.cvRegWrite_pending (s : State) (q : Req) (off : Nat) (v : W32) :
    (State.cvRegWrite s q off v).pending = s.pending := by
  unfold State.cvRegWrite
  repeat' first
    | with_reducible rfl
    | (simp; done)
    | split
    | intro _
    | (refine (orElse_pending (hf := ?_) ..).trans ?_)
    | simp

@[simp] theorem State.fwctlWrite_pending (s : State) (q : Req) (v : W32) :
    (State.fwctlWrite s q v).pending = s.pending := by
  unfold State.fwctlWrite
  repeat' first
    | with_reducible rfl
    | (simp; done)
    | split
    | intro _
    | (refine (orElse_pending (hf := ?_) ..).trans ?_)
    | simp

@[simp] theorem State.ledgercfgWrite_pending (s : State) (q : Req) (v : W32) :
    (State.ledgercfgWrite s q v).pending = s.pending := by
  unfold State.ledgercfgWrite
  repeat' first
    | with_reducible rfl
    | (simp; done)
    | split
    | intro _
    | (refine (orElse_pending (hf := ?_) ..).trans ?_)
    | simp

@[simp] theorem State.gateWrite_pending (s : State) (q : Req) (f : Find) (off : Nat) (v : W32) :
    (State.gateWrite s q f off v).pending = s.pending := by
  unfold State.gateWrite
  repeat' first
    | with_reducible rfl
    | (simp; done)
    | split
    | intro _
    | (refine (orElse_pending (hf := ?_) ..).trans ?_)
    | simp

@[simp] theorem State.msixWrite_pending (s : State) (q : Req) (off : Nat) (v : W32) :
    (State.msixWrite s q off v).pending = s.pending := by
  unfold State.msixWrite
  repeat' first
    | with_reducible rfl
    | (simp; done)
    | split
    | intro _
    | simp

@[simp] theorem State.pctlWrite_pending (s : State) (q : Req) (p : Nat) (v : W32) :
    (State.pctlWrite s q p v).pending = s.pending := by
  unfold State.pctlWrite
  repeat' first
    | with_reducible rfl
    | (simp; done)
    | split
    | intro _
    | simp

@[simp] theorem State.pitchWrite_pending (s : State) (q : Req) (off : Nat) (v : W32) :
    (State.pitchWrite s q off v).pending = s.pending := by
  unfold State.pitchWrite
  repeat' first
    | with_reducible rfl
    | (simp; done)
    | split
    | intro _
    | (refine (orElse_pending (hf := ?_) ..).trans ?_)
    | simp

@[simp] theorem State.pitchWrite64_pending (s : State) (q : Req) (off : Nat) (v : Word) (lo hi : Bool) :
    (State.pitchWrite64 s q off v lo hi).pending = s.pending := by
  unfold State.pitchWrite64
  repeat' first
    | with_reducible rfl
    | (simp; done)
    | split
    | intro _
    | (refine (orElse_pending (hf := ?_) ..).trans ?_)
    | simp

@[simp] theorem State.ringctlWrite_pending (s : State) (q : Req) (p r : Nat) (v : W32) :
    (State.ringctlWrite s q p r v).pending = s.pending := by
  unfold State.ringctlWrite
  repeat' first
    | with_reducible rfl
    | (simp; done)
    | split
    | intro _
    | simp

@[simp] theorem State.blockWrite_pending (s : State) (q : Req) (p x : Nat) (v : W32) :
    (State.blockWrite s q p x v).pending = s.pending := by
  unfold State.blockWrite
  repeat' first
    | with_reducible rfl
    | (simp; done)
    | split
    | intro _
    | (refine (orElse_pending (hf := ?_) ..).trans ?_)
    | simp

@[simp] theorem State.blockWrite64_pending (s : State) (q : Req) (p x : Nat) (v : Word) (lo hi : Bool) :
    (State.blockWrite64 s q p x v lo hi).pending = s.pending := by
  unfold State.blockWrite64
  repeat' first
    | with_reducible rfl
    | (simp; done)
    | split
    | intro _
    | (refine (orElse_pending (hf := ?_) ..).trans ?_)
    | simp

@[simp] theorem State.modcmdWrite_pending (s : State) (q : Req) (m : Nat) (v : W32) :
    (State.modcmdWrite s q m v).pending = s.pending := by
  unfold State.modcmdWrite
  repeat' first
    | with_reducible rfl
    | (simp; done)
    | split
    | intro _
    | (refine (State.modCmd_pending (hf := ?_) ..).trans ?_)
    | simp

@[simp] theorem State.thctlWrite_pending (s : State) (q : Req) (h : Nat) (v : W32) :
    (State.thctlWrite s q h v).pending = s.pending := by
  unfold State.thctlWrite
  repeat' first
    | with_reducible rfl
    | (simp; done)
    | split
    | intro _
    | (refine (orElse_pending (hf := ?_) ..).trans ?_)
    | simp

@[simp] theorem State.farWrite_pending (s : State) (q : Req) (off : Nat) (v : W32) :
    (State.farWrite s q off v).pending = s.pending := by
  unfold State.farWrite
  repeat' first
    | with_reducible rfl
    | (simp; done)
    | split
    | intro _
    | (refine (orElse_pending (hf := ?_) ..).trans ?_)
    | simp

@[simp] theorem State.farWrite64_pending (s : State) (q : Req) (off : Nat) (v : Word) (lo : Bool) :
    (State.farWrite64 s q off v lo).pending = s.pending := by
  unfold State.farWrite64
  repeat' first
    | with_reducible rfl
    | (simp; done)
    | split
    | intro _
    | simp

@[simp] theorem State.jostleWrite_pending (s : State) (q : Req) (off : Nat) (v : W32) :
    (State.jostleWrite s q off v).pending = s.pending := by
  unfold State.jostleWrite
  repeat' first
    | with_reducible rfl
    | (simp; done)
    | split
    | intro _
    | (refine (orElse_pending (hf := ?_) ..).trans ?_)
    | simp

@[simp] theorem State.obsWrite_pending (s : State) (q : Req) (off : Nat) (v : W32) :
    (State.obsWrite s q off v).pending = s.pending := by
  unfold State.obsWrite
  repeat' first
    | with_reducible rfl
    | (simp; done)
    | split
    | intro _
    | (refine (foldl_pending _ ?_ _ _).trans ?_)
    | simp

@[simp] theorem State.obsWrite64_pending (s : State) (q : Req) (off : Nat) (v : Word) (lo hi : Bool) :
    (State.obsWrite64 s q off v lo hi).pending = s.pending := by
  unfold State.obsWrite64
  repeat' first
    | with_reducible rfl
    | (simp; done)
    | split
    | intro _
    | (refine (orElse_pending (hf := ?_) ..).trans ?_)
    | simp

@[simp] theorem State.stallctl_pending (s : State) (n : Nat) (v : W32) :
    (State.stallctl s n v).pending = s.pending := by
  unfold State.stallctl
  repeat' first
    | with_reducible rfl
    | (simp; done)
    | split
    | intro _
    | simp

@[simp] theorem State.arraycfgWrite_pending (s : State) (n : Nat) (v : W32) :
    (State.arraycfgWrite s n v).pending = s.pending := by
  unfold State.arraycfgWrite
  repeat' first
    | with_reducible rfl
    | (simp; done)
    | split
    | intro _
    | simp

@[simp] theorem State.arrayseedWrite_pending (s : State) (n : Nat) (v : W32) :
    (State.arrayseedWrite s n v).pending = s.pending := by
  unfold State.arrayseedWrite
  repeat' first
    | with_reducible rfl
    | (simp; done)
    | split
    | intro _
    | simp

@[simp] theorem State.slicecfgWrite_pending (s : State) (n : Nat) (v : W32) :
    (State.slicecfgWrite s n v).pending = s.pending := by
  unfold State.slicecfgWrite
  repeat' first
    | with_reducible rfl
    | (simp; done)
    | split
    | intro _
    | simp

@[simp] theorem State.selctlWrite_pending (s : State) (n : Nat) (v : W32) :
    (State.selctlWrite s n v).pending = s.pending := by
  unfold State.selctlWrite
  repeat' first
    | with_reducible rfl
    | (simp; done)
    | split
    | intro _
    | simp

@[simp] theorem State.stallRegWrite_pending (s : State) (q : Req) (n r : Nat) (v : W32) :
    (State.stallRegWrite s q n r v).pending = s.pending := by
  unfold State.stallRegWrite
  repeat' first
    | with_reducible rfl
    | (simp; done)
    | split
    | intro _
    | (refine (State.stallTry_pending (hf := ?_) ..).trans ?_)
    | (refine (State.selCtl_pending (hf := ?_) ..).trans ?_)
    | (refine (State.spOnly_pending (hf := ?_) ..).trans ?_)
    | simp

@[simp] theorem State.stallRegWrite64_pending (s : State) (q : Req) (n r : Nat) (v : Word) (lo hi : Bool) :
    (State.stallRegWrite64 s q n r v lo hi).pending = s.pending := by
  unfold State.stallRegWrite64
  repeat' first
    | with_reducible rfl
    | (simp; done)
    | split
    | intro _
    | (refine (State.stallTry_pending (hf := ?_) ..).trans ?_)
    | simp

@[simp] theorem State.write32_pending (s : State) (q : Req) (f : Find) (off : Nat) (v : W32) :
    (State.write32 s q f off v).pending = s.pending := by
  unfold State.write32
  repeat' first
    | with_reducible rfl
    | (simp; done)
    | split
    | intro _
    | simp

@[simp] theorem State.write64_pending (s : State) (q : Req) (off : Nat) (v : Word) (lo hi : Bool) :
    (State.write64 s q off v lo hi).pending = s.pending := by
  unfold State.write64
  repeat' first
    | with_reducible rfl
    | (simp; done)
    | split
    | intro _
    | simp

@[simp] theorem State.rawWrite_pending (s : State) (q : Req) (f : Find) (off size : Nat) (v : Word) :
    (State.rawWrite s q f off size v).pending = s.pending := by
  unfold State.rawWrite
  repeat' first
    | with_reducible rfl
    | (simp; done)
    | split
    | intro _
    | simp

theorem State.tryWrite_pending (s : State) (q : Req) (f : Find) (off size : Nat) (v : Word) {t_ : State}  (hx_ : State.tryWrite s q f off size v = some t_) :
    t_.pending = s.pending := by
  unfold State.tryWrite at hx_
  dsimp only at hx_
  split at hx_
  · cases hx_
  · repeat' split at hx_
    all_goals first | (cases hx_; simp; done) | cases hx_

end Sys2Proof.Machine
end

