-- ==== Sys2Proof/Laws/QueueRegs.lean ====
section
/-!
SUPPORT. The operations of Regs.lean leave the queue of waiting commands as it is.
-/
namespace Sys2Proof.Machine

@[simp] theorem after_execHeadDoorbell_pending (q : Req) (p r : Nat) (v : W32) (st : State) : (after st (execHeadDoorbell q p r v st)).pending = st.pending := by
  unfold execHeadDoorbell
  refine after_run_pending _ _ _ ?_
  repeat' first
    | with_reducible rfl
    | (simp; done)
    | split
    | intro _
    | simp

@[simp] theorem after_execTailDoorbell_pending (q : Req) (p r : Nat) (v : W32) (stores : List Host.Cell) (st : State) : (after st (execTailDoorbell q p r v stores st)).pending = st.pending := by
  unfold execTailDoorbell
  refine after_run_pending _ _ _ ?_
  repeat' first
    | with_reducible rfl
    | (simp; done)
    | split
    | intro _
    | simp

@[simp] theorem after_execWabort_pending (q : Req) (p n : Nat) (v : W32) (st : State) : (after st (execWabort q p n v st)).pending = st.pending := by
  unfold execWabort
  refine after_run_pending _ _ _ ?_
  repeat' first
    | with_reducible rfl
    | (simp; done)
    | split
    | intro _
    | simp

@[simp] theorem State.readTouch_pending (s : State) (q : Req) (off : Nat) :
    (State.readTouch s q off).pending = s.pending := by
  unfold State.readTouch
  repeat' first
    | with_reducible rfl
    | (simp; done)
    | split
    | intro _
    | simp

@[simp] theorem State.readBar0_pending (s : State) (q : Req) (off size : Nat) :
    (State.readBar0 s q off size).1.pending = s.pending := by
  unfold State.readBar0
  repeat' first
    | with_reducible rfl
    | (simp; done)
    | split
    | intro _
    | (refine (State.wide_pending (hf := ?_) ..).trans ?_)
    | simp

@[simp] theorem State.readBar4_pending (s : State) (q : Req) (off size : Nat) :
    (State.readBar4 s q off size).1.pending = s.pending := by
  unfold State.readBar4
  repeat' first
    | with_reducible rfl
    | (simp; done)
    | split
    | intro _
    | (refine (State.wide_pending (hf := ?_) ..).trans ?_)
    | simp

@[simp] theorem State.writeBar4_pending (s : State) (q : Req) (off size : Nat) (v : Word) :
    (State.writeBar4 s q off size v).pending = s.pending := by
  unfold State.writeBar4
  repeat' first
    | with_reducible rfl
    | (simp; done)
    | split
    | intro _
    | simp

@[simp] theorem State.writeBar2_pending (s : State) (q : Req) (off : Nat) (v : Word) :
    (State.writeBar2 s q off v).pending = s.pending := by
  unfold State.writeBar2
  repeat' first
    | with_reducible rfl
    | (simp; done)
    | split
    | intro _
    | simp

@[simp] theorem State.badAccess_pending (s : State) (q : Req) (bar off bytes : Nat) (wr : Bool) :
    (State.badAccess s q bar off bytes wr).pending = s.pending := by
  unfold State.badAccess
  repeat' first
    | with_reducible rfl
    | (simp; done)
    | split
    | intro _
    | simp

@[simp] theorem State.barRead_pending (s : State) (q : Req) (bar off size : Nat) :
    (State.barRead s q bar off size).pending = s.pending := by
  unfold State.barRead
  repeat' first
    | with_reducible rfl
    | (simp; done)
    | split
    | intro _
    | simp

@[simp] theorem State.bar0Write_pending (s : State) (q : Req) (f : Find) (off size : Nat) (v : Word) :
    (State.bar0Write s q f off size v).pending = s.pending := by
  unfold State.bar0Write
  repeat' first
    | with_reducible rfl
    | (simp; done)
    | split
    | intro _
    | (refine (State.tryWrite_pending (hx_ := ‹_›) ..).trans ?_)
    | simp

@[simp] theorem State.barWrite_pending (s : State) (q : Req) (f : Find) (bar off size : Nat) (v : Word) :
    (State.barWrite s q f bar off size v).pending = s.pending := by
  unfold State.barWrite
  repeat' first
    | with_reducible rfl
    | (simp; done)
    | split
    | intro _
    | simp

@[simp] theorem State.crierRun_pending (s : State) (q : Req) (f : Find) (r size : Nat) (v : Word) (l : List Nat) :
    (State.crierRun s q f r size v l).1.pending = s.pending := by
  unfold State.crierRun
  refine foldl_pend (fun x : State × Bool => x.1) _ (fun x n => ?_) _ _
  split
  · rename_i t h; exact State.tryWrite_pending (hx_ := h)
  · rfl

@[simp] theorem State.crierWrite_pending (s : State) (q : Req) (off size : Nat) (v : Word) :
    (State.crierWrite s q off size v).pending = s.pending := by
  unfold State.crierWrite
  repeat' first
    | with_reducible rfl
    | (simp; done)
    | split
    | intro _
    | simp

@[simp] theorem State.crierRead_pending (s : State) (q : Req) (off size : Nat) :
    (State.crierRead s q off size).pending = s.pending := by
  unfold State.crierRead
  repeat' first
    | with_reducible rfl
    | (simp; done)
    | split
    | intro _
    | simp

@[simp] theorem State.anyRead_pending (s : State) (q : Req) (bar off size : Nat) :
    (State.anyRead s q bar off size).pending = s.pending := by
  unfold State.anyRead
  repeat' first
    | with_reducible rfl
    | (simp; done)
    | split
    | intro _
    | simp

@[simp] theorem State.regResult_pending (s : State) (seq : Byte) (status : Nat) (v : Word) :
    (State.regResult s seq status v).pending = s.pending := by
  unfold State.regResult
  repeat' first
    | with_reducible rfl
    | (simp; done)
    | split
    | intro _
    | simp

end Sys2Proof.Machine
end

