-- ==== Sys2Proof/Laws/QueueScalar.lean ====
section
/-!
SUPPORT. The operations of Scalar.lean leave the queue of waiting commands as it is.
-/
namespace Sys2Proof.Machine

@[simp] theorem State.alu_pending (s : State) (n k : Nat) (rd ra rb : BitVec 5) (f : Word → Word → Word) :
    (State.alu s n k rd ra rb f).pending = s.pending := by
  unfold State.alu
  repeat' first
    | with_reducible rfl
    | (simp; done)
    | split
    | intro _
    | (refine (State.scalar_pending (hf := ?_) ..).trans ?_)
    | simp

@[simp] theorem State.alu1_pending (s : State) (n k : Nat) (rd ra rb : BitVec 5) (f : Word → Nat) :
    (State.alu1 s n k rd ra rb f).pending = s.pending := by
  unfold State.alu1
  repeat' first
    | with_reducible rfl
    | (simp; done)
    | split
    | intro _
    | (refine (State.scalar_pending (hf := ?_) ..).trans ?_)
    | simp

@[simp] theorem State.aluI_pending (s : State) (n k : Nat) (rd ra : BitVec 5) (imm : BitVec 15) (f : Word → Word → Word) :
    (State.aluI s n k rd ra imm f).pending = s.pending := by
  unfold State.aluI
  repeat' first
    | with_reducible rfl
    | (simp; done)
    | split
    | intro _
    | (refine (State.scalar_pending (hf := ?_) ..).trans ?_)
    | simp

@[simp] theorem State.shiftI_pending (s : State) (n k : Nat) (rd ra : BitVec 5) (imm : BitVec 15) (f : Word → Nat → Word) :
    (State.shiftI s n k rd ra imm f).pending = s.pending := by
  unfold State.shiftI
  repeat' first
    | with_reducible rfl
    | (simp; done)
    | split
    | intro _
    | (refine (State.scalar_pending (hf := ?_) ..).trans ?_)
    | simp

end Sys2Proof.Machine
end

