-- ==== Sys2Proof/Tests/Slice0.lean ====
section
/-!
SUPPORT. The author's own tests: ill-formed commands are refused, a few single steps with results worked out by hand from the spec, and for
each statement a state and operands that meet the hypotheses of its clauses together.
-/
namespace Sys2Proof.Tests
open Sys2Proof.Machine
set_option Elab.async false

/-! ## Small states -/

/-- A started device: floor plan published, halls up, both pairs with an active member and a standby, four slices, far memory. -/
def tDev : State := { State.reset with
  time := 5000000000, fpValid := true
  boot := { phase := 9, pwrgd := true, trained := true, fpgen := 2 }
  port := { width := 16, speed := 5, cxl := true, memActive := true }
  halls := [0, 1, 2, 3].map (fun h => (h, { rails := true, up := true, diode := 4000 }))
  slices := [0, 1, 2, 3].map (fun n => (n, { u := 0x0FE00000 }))
  svc := { sp := [(0, { role := 3 }), (1, { role := 2 }), (2, { role := 3 }), (3, { role := 2 })] }
  far := { usable := 4 } }

def tOn (x : Stall) : State := { tDev with stalls := [(0, x)] }

def tRun (t : Thread) : State := tOn { th := [(0, t)] }

/-- A thread before a scalar half, with a handler, in a pitch's stall. -/
def tScalar : Thread := { st := .run, pc := 0x1000, npc := 0x1010, evec := 0x8000, g := [(1, 0x100), (2, 0x2C0)] }

def tWide : Thread := { tScalar with half := true }

/-! ## Witnesses: the queue, reset, well-formedness -/

theorem witness_StepRunsTheFrontCommand :
    ({ tDev with pending := [.gatehouseTrip, .selogSync 0] } : State).pending = .gatehouseTrip :: [.selogSync 0] ∧ tDev.pending = [] := by
  decide

theorem witness_EveryStepTakesOneCommand : ∃ t, step { tDev with pending := [.arrayCold 255] } = .next t := ⟨_, rfl⟩

theorem witness_EveryStepKeepsMemoryCanonical :
    tDev.mem.wf = true ∧ ∃ t, step { tDev with pending := [.arrayCold 0] } = .next t := ⟨by decide, _, rfl⟩

theorem witness_WellFormedCommandsComplete :
    WellFormed (.snop 255 3) = true ∧ WellFormed (.snop 256 3) = false ∧ WellFormed (.snop 255 4) = false := by decide

/-! ## Witnesses: scalar halves -/

theorem tScalar_atScalar : (tRun tScalar).atScalar 0 0 := by unfold State.atScalar; decide

theorem tScalar_handles : (tRun tScalar).handles 0 0 := by unfold State.handles; decide

theorem tWide_atWide : (tRun tWide).atWide 0 0 := by unfold State.atWide; decide

theorem tWide_goesOn : (tRun tWide).goesOn 0 0 := by unfold State.goesOn; decide

theorem tWide_handles : (tRun tWide).handles 0 0 := by unfold State.handles; decide

theorem witness_OprWritesItsResult : (tRun tScalar).atScalar 0 0 := tScalar_atScalar

theorem witness_OprCountsBits : (tRun tScalar).atScalar 0 0 ∧ (tRun tScalar).handles 0 0 ∧ (31 : BitVec 5) ≠ 0 :=
  ⟨tScalar_atScalar, tScalar_handles, by decide⟩

theorem witness_ImmediateFormsWriteTheirResult :
    (tRun tScalar).atScalar 0 0 ∧ (tRun tScalar).handles 0 0 ∧ (63 : BitVec 15).toNat < 64 ∧ 64 ≤ (64 : BitVec 15).toNat :=
  ⟨tScalar_atScalar, tScalar_handles, by decide⟩

theorem witness_LoadsReadStallSpace :
    let s := tRun tScalar
    s.atScalar 0 0 ∧
    ∀ sz ∈ [1, 2, 4, 8],
      let a := ((s.thread 0 0).gr 1 + (0 : BitVec 15).signExtend 64).toNat
      a % sz = 0 ∧ s.fenceRefuses 0 (tgtOf 0 a) = false ∧ s.mapped 0 (tgtOf 0 a) = true ∧ s.tgtFault (tgtOf 0 a) sz = none :=
  ⟨tScalar_atScalar, by decide⟩

theorem witness_StoresWriteTheOwnSlice :
    let s := tRun { tScalar with g := [(1, 0x0FDFFFF8)] }
    s.atScalar 0 0 ∧
    ∀ sz ∈ [1, 2, 4, 8],
      let a := ((s.thread 0 0).gr 1 + (0 : BitVec 15).signExtend 64).toNat
      a < unit256 ∧ a % sz = 0 ∧ a < s.usableOf 0 ∧ s.heldRow 0 a = false ∧ s.sliceBad (unit256 * 0 + a) = false ∧
      NSet.has s.mem.lost 0 = false := by unfold State.atScalar; decide

/-- Stall 1's window is refused to stall 0 where they belong to different pitches. -/
def tTwo : State := { tRun { tScalar with g := [(1, 0x1010000000)] } with
  pt := { tDev.pt with active := { cfg := [(0, 0x4029), (1, 0x4029)], smap := [(1, 0x11)], tally := [(0, 0x4000000000000)] } } }

theorem witness_BranchesChooseTheNextPair : (tRun tScalar).atScalar 0 0 := tScalar_atScalar

theorem witness_JumpsLinkAndTransfer :
    let s := tRun tScalar
    s.atScalar 0 0 ∧ ((s.thread 0 0).gr 1 + (16 : BitVec 15).signExtend 64).toNat % 16 = 0 ∧
    ((s.thread 0 0).gr 1 + (8 : BitVec 15).signExtend 64).toNat % 16 ≠ 0 ∧ s.handles 0 0 :=
  ⟨tScalar_atScalar, by decide, by decide, tScalar_handles⟩

theorem witness_SpecialRegistersReadAndWrite :
    let s := tRun { tScalar with g := [(1, 0xFFFFFFFFFFFFFFF0), (2, 8)] }
    s.atScalar 0 0 ∧ s.handles 0 0 ∧ ((s.thread 0 0).gr 1).toNat % 16 = 0 ∧ ((s.thread 0 0).gr 2).toNat % 16 ≠ 0 ∧
    (5 : BitVec 15).toNat ∉ [0, 1, 2, 3, 4, 8, 9, 0x10, 0x11, 0x12, 0x13, 0x14, 0x15, 0x20, 0x21, 0x22, 0x23, 0x24] ∧
    (0x24 : BitVec 15).toNat ∉ [0x10, 0x11, 0x12, 0x13, 0x14, 0x15, 0x20, 0x21, 0x22, 0x23] := by
  unfold State.atScalar State.handles; decide

theorem witness_ExceptionsEnterTheHandler :
    (tRun tScalar).handles 0 0 ∧ (tRun tScalar).atScalar 0 0 ∧ (tRun tWide).handles 0 0 ∧ (tRun tWide).atWide 0 0 :=
  ⟨tScalar_handles, tScalar_atScalar, tWide_handles, tWide_atWide⟩

theorem witness_UnhandledExceptionsEndTheKernel :
    let s := tOn { th := [(0, { tScalar with evec := 0 })], work := some (.item 0 63 7) }
    s.atScalar 0 0 ∧ ¬ s.handles 0 0 ∧ (s.stall 0).work = some (.item 0 63 7) := by unfold State.atScalar State.handles; decide

theorem witness_EretKendAndFence :
    let s := tRun tScalar
    s.atScalar 0 0 ∧ s.handles 0 0 ∧ (s.thread 0 0).tsig = 0 ∧ (∀ i < 2, ((s.stall 0).porter i).busy = false) ∧ 4 ≤ (4 : BitVec 10).toNat ∧
    (tRun { tScalar with tsig := 1 }).atScalar 0 0 ∧ ((tRun { tScalar with tsig := 1 }).thread 0 0).tsig ≠ 0 := by
  unfold State.atScalar State.handles; decide

theorem witness_SyncgReleasesTheGroupTogether :
    let s := tOn { th := [(0, tScalar), (1, { tScalar with st := .syncg })] }
    let u := tOn { th := [(0, tScalar), (3, tScalar)] }
    s.atScalar 0 0 ∧ (∀ j < 4, j ≠ 0 → (s.thread 0 j).st = .off ∨ (s.thread 0 j).st = .syncg) ∧
    u.atScalar 0 0 ∧ ∃ j < 4, j ≠ 0 ∧ (u.thread 0 j).st ≠ .off ∧ (u.thread 0 j).st ≠ .syncg := by unfold State.atScalar; decide

theorem witness_FetchFillsTheInstructionBuffer :
    let s := tRun tScalar
    (s.thread 0 0).st ≠ .off ∧ (s.stall 0).ibuf.any (fun l => l.line = (0x10 : Word)) = false ∧ (s.stall 0).ibuf.any (fun l => l.line = (0x11 : Word)) = false ∧
    s.atScalar 0 0 ∧ (s.thread 0 0).pc / 256 = 0x10 ∧ (s.thread 0 0).pc.toNat % 16 = 0 ∧
    s.fenceRefuses 0 (tgtOf 0 0x1000) = false ∧ s.mapped 0 (tgtOf 0 0x1000) = true ∧ s.tgtFault (tgtOf 0 0x1000) 16 = none ∧
    (s.thread 0 0).pc / 256 ≠ 0x11 ∧ s.fenceRefuses 0 (tgtOf 0 0x1100) = false ∧ s.mapped 0 (tgtOf 0 0x1100) = true ∧
    s.aheadLine 0 (s.thread 0 0) 0x11 = true ∧ s.aheadLine 0 (s.thread 0 0) 0x20 = false ∧
    s.mapped 0 (tgtOf 0 0x0FE00000) = false ∧ tTwo.fenceRefuses 0 (tgtOf 0 0x1010000000) = true := by
  unfold State.atScalar; decide +kernel

theorem witness_FencedAccessesAreRefused :
    tTwo.atScalar 0 0 ∧ tTwo.pitchOf 0 = some 0 ∧
    (let a := ((tTwo.thread 0 0).gr 1 + (0 : BitVec 15).signExtend 64).toNat
     tTwo.fenceRefuses 0 (tgtOf 0 a) = true ∧ a % 8 = 0) := by unfold State.atScalar; decide

/-! ## Witnesses: wide halves -/

theorem witness_WnopAndTrelRetireThePair :
    let s := tRun tWide
    let u := tRun { tWide with ending := true }
    s.atWide 0 0 ∧ (s.stall 0).stopping = false ∧ (s.thread 0 0).ending = false ∧ s.handles 0 0 ∧
    ({ td := 1 } : WF) ≠ {} ∧ ({ td := 1 } : WF) ≠ { ga := 0 } ∧
    u.atWide 0 0 ∧ (u.stall 0).stopping = false ∧ (u.thread 0 0).ending = true ∧ ∀ j < 4, j ≠ 0 → (u.thread 0 j).st = .off := by
  unfold State.atWide State.handles; decide

/-- A TLD of tile 31 from address 0x100, rows 0x2C0 bytes apart. -/
def tTld : WF := { td := 31, ga := 1, gs := 2 }

theorem witness_TldLoadsTheFragment :
    let s := tRun tWide
    let T := s.thread 0 0
    let g := T.loopRegs tTld
    let base : Nat → Base := fun _ => .at_ 0x100
    s.atWide 0 0 ∧ s.goesOn 0 0 ∧
    tTld = { td := tTld.td, ga := tTld.ga, gs := tTld.gs, loop := tTld.loop, off := tTld.off, hint := tTld.hint } ∧
    g.count tTld.loop = some 1 ∧ g.misaligned tTld 1 = none ∧ tTld.loop = 0 ∧
    ((0x100 : Word) + wOff tTld).toNat % 64 = 0 ∧
    (∀ r < 8, s.readable 0 ((0x100 : Word) + wOff tTld + BitVec.ofNat 64 (8 * 0 + r) * g.gs).toNat 64) ∧
    s.loopBase 0 0 g tTld.loop 0 = (s, base 0) :=
  ⟨tWide_atWide, tWide_goesOn, by decide, by decide, by decide, by decide, by decide, by unfold State.readable; decide +kernel, rfl⟩

/-- The same with LOOP 1: two iterations, of which TSTART leaves the second. -/
def tTldLoop : WF := { tTld with td := 30, loop := 1 }

theorem witness_TldLoadsTheFragment_loop :
    let s := tRun { tWide with batchcnt := 2, batchstr := 0x1000, tstart := 0x10000 }
    let T := s.thread 0 0
    let g := T.loopRegs tTldLoop
    s.atWide 0 0 ∧ s.goesOn 0 0 ∧ g.count tTldLoop.loop = some 2 ∧ g.misaligned tTldLoop 2 = none ∧
    T.tstart = BitVec.ofNat 64 (65536 * 1) ∧ tTldLoop.td.toNat + 2 ≤ 32 ∧
    (∀ r < 8, s.readable 0 ((0x1100 : Word) + wOff tTldLoop + BitVec.ofNat 64 (8 * 0 + r) * g.gs).toNat 64) ∧
    s.loopBase 0 0 g tTldLoop.loop 1 = (s, .at_ 0x1100) :=
  ⟨by unfold State.atWide; decide, by unfold State.goesOn; decide, by decide, by decide, by decide, by decide,
   by unfold State.readable; decide +kernel, rfl⟩

def tTst : WF := { ta := 31, ga := 1, gs := 2 }

theorem witness_TstStoresTheFragment :
    let s := tRun tWide
    let T := s.thread 0 0
    let g := T.loopRegs tTst
    s.atWide 0 0 ∧ s.goesOn 0 0 ∧ g.count tTst.loop = some 1 ∧ g.misaligned tTst 1 = none ∧
    (s.stall 0).goodFragment 0 31 ∧
    (∀ r < 8, s.writable 0 ((0x100 : Word) + wOff tTst + BitVec.ofNat 64 (8 * 0 + r) * g.gs).toNat) ∧
    s.loopBase 0 0 g tTst.loop 0 = (s, .at_ 0x100) :=
  ⟨tWide_atWide, tWide_goesOn, by decide, by decide, by unfold Stall.goodFragment; decide, by unfold State.writable; decide +kernel, rfl⟩

/-- PCOPY of the bytes in g3 from g1 to g2 by porter 1. -/
def tPcopy : WF := { td := 2, ta := 3, ga := 1, sub := 1 }

theorem witness_PorterInstructionsStartAndWait :
    (∀ len ∈ [0, 64, 65536, 65537], ∀ src ∈ [0x100, 0x101], ∀ dst ∈ [0x200, 0x220],
      let s := tRun { tWide with g := [(1, BitVec.ofNat 64 src), (2, BitVec.ofNat 64 dst), (3, BitVec.ofNat 64 len)] }
      s.atWide 0 0 ∧ s.goesOn 0 0 ∧ s.handles 0 0 ∧ ((s.stall 0).porter 1).busy = false) ∧
    (let s := tOn { th := [(0, { tWide with g := [(1, 0x100), (2, 0x200), (3, 64)] })], port := [(1, { busy := true })] }
     s.atWide 0 0 ∧ s.goesOn 0 0 ∧ ((s.stall 0).porter 1).busy = true) ∧
    (tPcopy.sub.toNat < 2 ∧
      tPcopy = { td := tPcopy.td, ta := tPcopy.ta, tb := tPcopy.tb, ga := tPcopy.ga, off := tPcopy.off, hint := tPcopy.hint, sub := 1 }) := by
  unfold State.atWide State.goesOn State.handles; decide

/-- Porter 0 of stall 0 moves 65,536 bytes and signals tally 5; thread 3 waits for it. -/
def tMove : State :=
  tOn { th := [(3, { tWide with st := .pwait })], port := [(0, { busy := true, src := 0, dst := 0x10000, len := 0x10000, tally := 5, th := 0 })] }

theorem witness_PorterTransfersCopyTheirBytes :
    let p := (tMove.stall 0).porter 0
    (tMove.stall 0).stopping = false ∧ p.busy = true ∧ p.th < 4 ∧ p.len % 64 = 0 ∧ p.len ≤ 65536 ∧ p.src.toNat % 64 = 0 ∧ p.dst.toNat % 64 = 0 ∧
    (∀ j < 4, (tMove.thread 0 j).ending = false) ∧
    p.src.toNat + p.len ≤ min unit256 (tMove.usableOf 0) ∧ p.dst.toNat + p.len ≤ min unit256 (tMove.usableOf 0) ∧
    unit256 * 0 + p.src.toNat + p.len ≤ unit256 * 0 + p.dst.toNat ∧ NSet.has tMove.mem.lost 0 = false ∧
    tMove.tallyFenced 0 (p.tally.toNat % 2 ^ 18) = false := by decide

theorem witness_PorterTransfersCopyTheirBytes_words (a : Nat) (h : a < unit256) : tMove.sliceBad a = false ∧ tMove.heldRow 0 a = false := by
  have e : a / unit256 = 0 := by unfold unit256 at *; omega
  unfold State.sliceBad State.heldRow
  rw [e]
  exact ⟨rfl, rfl⟩

theorem witness_PorterTransfersCopyTheirBytes_unmapped :
    let s := tOn { port := [(1, { busy := true, src := 0x0FE00000, dst := 0, len := 64 })] }
    let p := (s.stall 0).porter 1
    (s.stall 0).stopping = false ∧ p.busy = true ∧ 0 < p.len ∧ p.len % 64 = 0 ∧ p.src.toNat % 64 = 0 ∧ p.tally = 0 ∧
    (∀ j < 4, (s.thread 0 j).ending = false) ∧ s.fenceRefuses 0 (tgtOf 0 p.src.toNat) = false ∧ s.mapped 0 (tgtOf 0 p.src.toNat) = false := by decide

theorem witness_GroupOperationsGatherTheGroup :
    (let s := tOn { th := [(0, tWide), (3, tScalar)] }
     s.atWide 0 0 ∧ (s.stall 0).stopping = false ∧ (s.stall 0).wop = none ∧
     ∃ j < 4, j ≠ 0 ∧ (s.thread 0 j).st ≠ .off ∧ (s.thread 0 j).st ≠ .group) ∧
    (let s := tOn { th := [(0, tWide), (3, { tWide with st := .group, pc := 0x2000 })] }
     s.atWide 0 0 ∧ (∀ j < 4, j ≠ 0 → (s.thread 0 j).st = .off ∨ (s.thread 0 j).st = .group) ∧
     (∃ j < 4, j ≠ 0 ∧ (s.thread 0 j).st = .group ∧ (s.thread 0 j).pc ≠ (s.thread 0 0).pc) ∧
     ∀ j < 4, j = 0 ∨ (s.thread 0 j).st = .group → s.handles 0 j) := by unfold State.atWide State.handles; decide

/-- The last thread of the group arrives, thread 1 waits with the same operation. -/
def tGroup (op : GOp) (w : WF) (arr : ArraySt := {}) : State :=
  tOn { th := [(0, tWide), (1, { tWide with st := .group, gop := some (op, w) })], arr := arr }

/-- What GroupOperationsIssueOnce asks of the group. -/
abbrev tHere (s : State) (op : GOp) (w : WF) : Prop :=
  (s.thread 0 0).st = .run ∧ (s.thread 0 0).half = true ∧ (s.thread 0 0).stop = false ∧ (s.stall 0).stopping = false ∧
  (s.stall 0).wop = none ∧
  (∀ j < 4, j ≠ 0 → (s.thread 0 j).st = .off ∨
    (s.thread 0 j).st = .group ∧ (s.thread 0 j).pc = (s.thread 0 0).pc ∧ (s.thread 0 j).gop = some (op, w)) ∧
  (∀ j < 4, (s.thread 0 j).ending = false) ∧ (aIn w.fmt.toNat).isSome = true ∧ s.fmtOff w.fmt.toNat = false

abbrev tResumes (s : State) (w : WF) : Prop :=
  ((s.thread 0 0).loopRegs w).count w.loop = some 1 ∧ (s.thread 0 0).tstartAt 1 w.rows.toNat = some (0, 0) ∧
  ((s.thread 0 0).loopRegs w).misaligned w 1 = none

def tMwld : WF := { ta := 3, fmt := 4 }
def tMstrm : WF := { ga := 1, gs := 2, rows := 32, td := 30 }
def tMfill : WF := { td := 4, ta := 2, tb := 3, rows := 32 }
def tHmv : WF := { td := 6, ta := 1, ga := 1, gs := 2, rows := 16, imm8 := 1 }

theorem witness_GroupOperationsIssueOnce_mwld :
    tHere (tGroup .mwld tMwld) .mwld tMwld ∧ ((tGroup .mwld tMwld).stall 0).tileBad 3 = false := by decide +kernel

theorem witness_GroupOperationsIssueOnce_mstrm :
    tHere (tGroup .mstrm tMstrm { loaded := true }) .mstrm tMstrm ∧ tResumes (tGroup .mstrm tMstrm { loaded := true }) tMstrm := by decide +kernel

theorem witness_GroupOperationsIssueOnce_mstrmFields :
    (tGroup .mstrm tMstrm { loaded := true }).rndOff tMstrm.rnd = false ∧ mstrmBad { loaded := true } tMstrm 0x2C0 = false ∧
    (tGroup .mstrm tMstrm { loaded := true }).weightBad 0 0 = false ∧ bitsOf tMstrm.sub.toNat 0 3 < 4 ∧ tMstrm.rows ≠ 0 ∧
    (∀ j < 2, (tGroup .mstrm tMstrm).handles 0 j) ∧ tHere (tGroup .mstrm { tMstrm with rows := 0 }) .mstrm { tMstrm with rows := 0 } ∧
    ((tGroup .mstrm tMstrm).stall 0).arr.loaded = false := by unfold State.handles; decide +kernel

theorem witness_GroupOperationsIssueOnce_mfill :
    tHere (tGroup .mfill tMfill) .mfill tMfill ∧ tWide.tstartAt 1 32 = some (0, 0) ∧ ((tGroup .mfill tMfill).stall 0).tileBad 3 = false ∧
    (∀ x ∈ [tMfill.ta.toNat, tMfill.tb.toNat], x < 32 ∧ x ≠ tMfill.td.toNat ∧ x ≠ tMfill.td.toNat + 1) := by
  decide +kernel

theorem witness_GroupOperationsIssueOnce_hmv :
    tHere (tGroup .hmv tHmv) .hmv tHmv ∧ tResumes (tGroup .hmv tHmv) tHmv ∧ hmvBad tHmv 0x2C0 1 = false ∧
    bitsOf (tGroup .hmv tHmv).fw.disable 6 1 = 0 ∧
    ∀ q < 1, ((tGroup .hmv tHmv).stall 0).rowBad 1 q = false := by decide +kernel
/-! ## Witnesses: engines and vectors -/

/-- A stall whose array or hawker works. -/
def tWork (o : WOp) : State := tOn { th := [(0, { tWide with st := .group })], arr := { loaded := true, on := true, cold := false }, wop := some o }

def tOp (op : GOp) (w : WF) : WOp :=
  { op := op, f := w, parts := [0], ga := 0x100, gs := 0x40, cnt := 0, str := 0, plist := 0, iter := 0, row := 0, blk := 0, acc := [],
    issue := 0, done := false }

theorem witness_ArrayPassesWriteTheirRow :
    let o := tOp .mfill { tMfill with td := 4 }
    let s := tWork o
    (s.stall 0).wop = some o ∧ o.done = false ∧ o.f.fmt.toNat ≤ 6 ∧ o.f.acc = false ∧
    (s.stall 0).passAt o (0 + wOff o.f) 1000000 = true ∧ (s.stall 0).passAt o (0 + wOff o.f) 0 = false ∧
    (s.stall 0).rowBad o.f.ta.toNat o.row = false := by decide +kernel

theorem witness_ArrayPassesWriteTheirRow_mstrm :
    let o := tOp .mstrm { tMstrm with gs := 2 }
    let s := tWork o
    (s.stall 0).wop = some o ∧ (s.stall 0).passAt o (0x100 + wOff o.f) 1000000 = true ∧ s.wopBase 0 o = (s, .at_ 0x100) ∧
    (0x100 + wOff o.f).toNat % 64 = 0 ∧ s.readable 0 0x100 64 :=
  ⟨rfl, by decide +kernel, rfl, by decide, by unfold State.readable; decide +kernel⟩

set_option maxRecDepth 8000 in
theorem witness_ArrayPassesWriteTheirRow_scaled :
    let o := tOp .mstrm { tMstrm with gs := 2, fmt := 4, acc := true, td := 4 }
    let s := tWork o
    (s.stall 0).passAt o (0x100 + wOff o.f) 1000000 = true ∧ s.wopBase 0 o = (s, .at_ 0x100) ∧ s.readable 0 0x100 64 ∧ s.readable 0 0x140 4 ∧
    s.passOld 0 o = (s, List.replicate 32 0, none) :=
  ⟨by decide +kernel, rfl, by unfold State.readable; decide +kernel, by unfold State.readable; decide +kernel, rfl⟩

theorem witness_HawkerStepsTakeEightBlocks :
    let o := tOp .hmv tHmv
    let s := tWork o
    (s.stall 0).wop = some o ∧ o.op = .hmv ∧ o.done = false ∧ aIn o.f.fmt.toNat = some ⟨8, some .e4m3, false⟩ ∧
    s.wopBase 0 o = (s, .at_ 0x100) ∧ (0x100 + wOff o.f).toNat % 64 = 0 ∧ s.readable 0 0x100 32 ∧ s.hmvOutBad 0 o = false ∧
    o.f.imm8.toNat ≤ o.blk + 1 ∧ ({ o with f := { tHmv with imm8 := 2 } } : WOp).blk + 1 < 2 :=
  ⟨rfl, rfl, rfl, by decide +kernel, rfl, by decide, by unfold State.readable; decide +kernel, by decide +kernel, by decide, by decide⟩

theorem witness_HawkerStepsTakeEightBlocks_finish :
    let o := { tOp .hmv tHmv with done := true }
    let s := tWork o
    o.parts = (s.stall 0).running ∧ (∀ j ∈ o.parts, (s.thread 0 j).ending = false) ∧ (s.stall 0).stopping = false := by decide +kernel

theorem witness_EnginePowerFollowsUse :
    (tDev.stall 255).wop = none ∧ ((tWork (tOp .hmv tHmv)).stall 0).wop = some (tOp .hmv tHmv) := ⟨rfl, rfl⟩

theorem witness_VectorElementwiseOps :
    let s := tRun tWide
    let w : WF := { td := 31, ta := 0, tb := 30, fmt := 5, rnd := 1, sub := 8 }
    s.atWide 0 0 ∧ s.goesOn 0 0 ∧ vfmt w.fmt.toNat = some ⟨16, some .bf16⟩ ∧ vrnd ⟨16, some .bf16⟩ w.rnd = some .zero ∧
    (s.stall 0).goodFragment 0 0 ∧ (s.stall 0).goodFragment 0 31 :=
  ⟨tWide_atWide, tWide_goesOn, by decide, by decide, by unfold Stall.goodFragment; decide, by unfold Stall.goodFragment; decide⟩

theorem witness_VectorFunctionsAndReductions :
    let s := tRun tWide
    s.atWide 0 0 ∧ s.goesOn 0 0 ∧ (s.stall 0).goodFragment 0 7 ∧ vfmt 7 = some ⟨32, some .fp32⟩ ∧ vrnd ⟨32, some .fp32⟩ 0 = some .even ∧
    vfmtCvt 8 = some ⟨32, none⟩ ∧ vfmtCvt 6 = some ⟨8, none⟩ ∧ 3 < max 32 8 / min 32 8 :=
  ⟨tWide_atWide, tWide_goesOn, by unfold Stall.goodFragment; decide, by decide, by decide, by decide, by decide, by decide⟩

/-! ## Witnesses: tallies -/

/-- A thread with a tally identifier in g1 and an operand in g2. -/
def tTally (t : Thread) : State := { tOn { th := [(0, { t with g := [(1, 0x3FFFF), (2, 7)] })] } with
  pt := { tDev.pt with active := { cfg := [(0, 0x4029)], tally := [(0, 0x4000000000000)] } } }

theorem witness_TallyInstructionsIssueTheirOperation :
    let s := tTally tScalar
    let a := (s.thread 0 0).gr 1
    s.pitchOf 0 = some 0 ∧ a.extractLsb' 18 14 = 0 ∧ a.extractLsb' 48 15 = 0 ∧ a.getLsbD 63 = false ∧
    (s.applied 0).ownsTally 0 (a.toNat % 2 ^ 18) = true ∧ (s.thread 0 0).tsig < 8 ∧
    8 ≤ ((tTally { tScalar with tsig := 8 }).thread 0 0).tsig := by decide +kernel

theorem witness_TallyInstructionsIssueTheirOperation_fenced :
    let s := { tTally tScalar with pt := { tDev.pt with active := { cfg := [(0, 0x4029)], tally := [(0, 0x100000000)] } } }
    s.pitchOf 0 = some 0 ∧ (s.applied 0).ownsTally 0 0x3FFFF = false := by decide +kernel

theorem witness_TallyResultsReachTheirThread :
    let s := tRun { tScalar with st := .tally, rd := 31, resp := some (.val 5) }
    (s.thread 0 0).st = .tally ∧ (s.thread 0 0).resp = some (.val 5) ∧
    ((tRun { tScalar with st := .tally, resp := some (.fail 4 9) }).thread 0 0).resp = some (.fail 4 9) := by decide

/-- A TAKE of tally 262,143 on its way, another thread watching it. -/
def tFlight (op : Nat) (pois : NSet) : State := { tOn { th := [(0, { tScalar with st := .tally }), (1, { tScalar with st := .tally })] } with
  tally := { pois := pois, watches := [{ id := 262143, cond := 0, x := 5, owner := .thread 0 1 }],
             flight := [{ op := op, id := 262143, x := 5, cond := 0, owner := .thread 0 0 }] } }

theorem witness_TallyOperationsActOnTheirTally :
    ∀ op < 4, let s := tFlight op []
      firstOp s.tally.flight (.thread 0 0) op = some { op := op, id := 262143, x := 5, cond := 0, owner := .thread 0 0 } ∧
      s.tallyLost (some (hallOf 0)) 262143 = none ∧ NSet.has s.tally.pois 262143 = false ∧ (s.thread 0 0).st = .tally ∧
      (s.thread 0 0).due = none ∧ (s.stall 0).stopping = false ∧ tallyCond 0 (s.tallyVal 262143) 5 = false ∧
      (s.updStall 0 (fun x => { x with saving := true })).tally = s.tally ∧
      ((s.updStall 0 (fun x => { x with saving := true })).stall 0).stopping = true := by decide +kernel

theorem witness_PoisonedTalliesFailUntilSet :
    ∀ op < 4, let s := { tFlight op [262143] with tally := { (tFlight op [262143]).tally with watches := [] } }
      firstOp s.tally.flight (.thread 0 0) op = some { op := op, id := 262143, x := 5, cond := 0, owner := .thread 0 0 } ∧
      s.tallyLost (some (hallOf 0)) 262143 = none ∧ NSet.has s.tally.pois 262143 = true ∧ s.tally.watches = [] ∧
      (({ s with halls := [] } : State).hall (262143 / 65536)).rails = false ∧
      (({ s with halls := [(3, { rails := true, cutoff := true })] } : State).hall 3).cutoff = true ∧ 262143 / 65536 ≠ hallOf 0 := by decide +kernel
/-! ## Witnesses: the context, slices and integrity -/

theorem witness_StallsStopSaveAndRestore :
    let s := tOn { th := [(0, tScalar), (3, { tWide with st := .tally })] }
    inReq (.sp 0) = true ∧ reqIsSp (.sp 0) = true ∧ s.isReq (.sp 0) = true ∧ (s.fpOf 0).state = 0 ∧ (s.hall 0).up = true ∧
    (s.hall 0).cutoff = false ∧ (s.stall 0).wop = none ∧ (∀ i < 2, ((s.stall 0).porter i).busy = false) ∧
    (∀ k < 4, (s.thread 0 k).due = none) ∧ s.cv.conv = [] ∧ (s.stall 0).halting = false ∧ (s.thread 0 3).st = .tally ∧
    (s.thread 0 3).stop = false ∧ s.tally.watches = [] ∧ ((tRun tScalar).thread 0 0).half = false ∧
    s.dropsSlice (slotAddr 0 1) = false := by decide +kernel

theorem witness_StallsStopSaveAndRestore_saving :
    let s := tOn { th := [(0, { tScalar with stop := true })], saving := true }
    (s.stall 0).saving = true ∧ (∀ k < 4, (s.thread 0 k).st = .off ∨ (s.thread 0 k).stop = true) ∧
    (∀ a, a < unit256 → s.dropsSlice a = false) ∧
    (let u := tOn { th := [(0, tScalar)], saving := true }
     (u.stall 0).saving = true ∧ (u.thread 0 0).st ≠ .off ∧ (u.thread 0 0).stop = false) :=
  ⟨by decide, by decide, fun a h => by
    have e : a / unit256 = 0 := by unfold unit256 at *; omega
    unfold State.dropsSlice State.heldRow
    rw [e]; rfl, by decide⟩

/-- A save whose header is good and whose body is empty lies in slot 1 of stall 0. -/
def tSaved : State := { tDev with mem := { slice := [(slotAddr 0 1, 1)] } }

theorem witness_StallsStopSaveAndRestore_restore :
    tSaved.restoreBad 0 1 (Mem.rdBytes tSaved.mem.slice (slotAddr 0 1) 64) [] = false ∧
    leAt (Mem.rdBytes tSaved.mem.slice (slotAddr 0 1) 64) 12 4 % 0x20000 - 64 = 0 ∧
    tDev.restoreBad 0 1 (Mem.rdBytes tDev.mem.slice (slotAddr 0 1) 64) [] = true := by decide +kernel

theorem witness_RefreshFollowsItsFrame :
    let s := { tDev with halls := [(0, { rails := true, quarter := 4, lowerOk := [(7, 0)], cmdSeen := true })] }
    (tDev.hall 3).rails = true ∧ (tDev.hall 3).quarter < 4 ∧ (s.hall 0).rails = true ∧ (s.hall 0).quarter = 4 ∧ (s.hall 3).rails = false ∧
    tDev.isReq (.sp 0) = true ∧ tDev.fw.recovery = false ∧ reqIsSp (.sp 0) = true ∧ (∀ l < 8, (0x5555 : BitVec 16).toNat / 4 ^ l % 4 ≠ 3) ∧
    lowerBand (tDev.layerEst 3 7) < (tDev.hall 3).mult.toNat / 4 ^ 7 % 4 ∧
    (({ tDev with halls := [(0, { mult := 0 })] } : State).hall 0).mult.toNat / 4 ^ 7 % 4 = 0 := by decide +kernel

theorem witness_SliceRequestsMeetTheTimetable :
    (∀ near : Bool, ∀ kind ∈ [AccKind.read, .write, .partialWrite], ∀ u ∈ [tDev, tOn { work := some (.jisan 0) }],
      u.mayIssue 0 (u.sliceOf 0) { no := 0, near := near, off := 0, kind := kind, arr := if near then 4196 else 4096 + 940, fresh := false }
        (if near then 4196 else 4096 + 940) = true) ∧
    (tDev.sliceOf 0).wait = [] ∧ (tDev.sliceOf 0).live = [] ∧ (tOn { work := some (.jisan 0) }).isolated 0 = true ∧
    (∀ p ∈ [1, 2], ∀ j, tDev.accepts p 0 j = true) :=
  ⟨by decide +kernel, rfl, rfl, rfl, fun p h j => by
    rcases (by simpa using h : p = 1 ∨ p = 2) with rfl | rfl <;> rfl⟩

theorem witness_SliceRequestsMeetTheTimetable_far :
    tTwo.pitchOf 0 = some 0 ∧ tTwo.fenceRefuses 0 (tgtOf 0 0x1010000000) = true ∧ tDev.fenceRefuses 0 (tgtOf 0 0x1010000000) = false ∧
    (tgtOf 0 0x1010000000).leaves 0 = true ∧ tDev.segsOn 0 = true ∧ Tab.get [] tDev.net.wait 0 = [] ∧ tDev.outstanding 0 1 < 32 ∧
    endHall (tgtOf 0 0x1010000000).endpoint = 0 ∧ (tDev.inq (inqKey 0 0 0 false)).length + 1 + 4 ≤ tDev.credits 0 false ∧
    ({ tDev with pt := { tDev.pt with active := { cfg := [(0, 0x4029)] } } } : State).tallyFenced 0 5 = true := by decide +kernel

/-- A device with line 0 of slice 0 written. -/
def tWritten : State := { tDev with mem := { sliceValid := [0], slice := [(0, 7)], sliceUe := [3] } }

theorem witness_ErrorsAreCorrectedRetriedAndPoisoned :
    let u : EUnit := .slice 0 0
    tDev.unitFresh u = true ∧ tWritten.unitFresh u = false ∧ tWritten.injector u = none ∧ tWritten.readWord u [] = .clean ∧
    tWritten.readWord u [(4, 0x10)] = .corrected 4 ∧ tWritten.erasedAt u ≠ some 4 ∧
    tWritten.readWord u [(4, 0x10), (9, 1)] = .uncorrectable ∧ tWritten.wasUe u = false ∧ tWritten.wasUe (.slice 0 96) = true ∧
    tWritten.unitPois (.slice 0 96) = false ∧ inUnit u = true ∧ inWho (.item 0 63 7) = true ∧
    ({ tWritten with mem := { tWritten.mem with slicePois := [0] } } : State).readWord u [] = .poisoned ∧
    ({ tWritten with slices := [(0, { erased := [(0, 4)] })] } : State).erasedAt u = some 4 := by decide +kernel

theorem witness_MaintenanceOfMemoryAndItsLog :
    let e := { mkEnt 3 0 0 (some 0) 0 0 with time := 0 }
    let s := { tWritten with
      slices := [(0, { map := [{ row := 5, spare := some 7, time := 0, copying := true }] })], integ := { log := [(1023, e)] } }
    (∃ x ∈ (s.sliceOf 0).map, x.row = 5 ∧ x.copying = true) ∧ (∀ x ∈ (s.sliceOf 1).map, ¬ (x.row = 5 ∧ x.copying = true)) ∧
    s.sint ≠ 0 ∧ (s.hall 0).rails = true ∧ 1048576 * 0 + 4 * 0 + 0 ∈ s.mem.sliceValid ∧ s.mem.sliceValid.Pairwise (· < ·) ∧
    Tab.get 0 (s.sliceOf 0).scrub 0 = 0 ∧ (s.hall 4).rails = false ∧ s.isReq .host = true ∧
    (s.reqSt .host).page = false ∧ Tab.find s.integ.log 1023 = some e ∧ Tab.find s.integ.log 0 = none ∧ s.seesEntry .host e = true ∧
    ({ s with port := { s.port with mld := true } } : State).isReq (.ld 1) = true ∧
    ({ s with port := { s.port with mld := true } } : State).seesEntry (.ld 1) e = false := by decide +kernel

/-- A packet of which one resend has failed twice, and far memory of one written line on module 0. -/
def tMaint : State := { tDev with
  mem := { farValid := [0] }
  far := { used := 15, ml := 4, chcap := 1, usable := 4, mod := [(0, { state := 3, present := true, power := true })] }
  integ := { resend := [(1, 2, 3, 2)] } }

theorem witness_MaintenanceOfMemoryAndItsLog_packets :
    tMaint.injectorFor 7 (fun _ => true) = none ∧ tMaint.integ.resend.find? (fun x => decide (x.1 = 1 ∧ x.2.1 = 2 ∧ x.2.2.1 = 3)) = some (1, 2, 3, 2) ∧
    crc32c (([] : List Byte).take 60 ++ ([] : List Byte).drop 64) = BitVec.ofNat 32 (leNat ((([] : List Byte).drop 60).take 4)) ∧
    crc32c (([1] : List Byte).take 60 ++ ([1] : List Byte).drop 64) ≠ BitVec.ofNat 32 (leNat ((([1] : List Byte).drop 60).take 4)) ∧
    inPkt (.tally 0x3FFFF (.thread 255 3) true) = true := by decide +kernel

theorem witness_MaintenanceOfMemoryAndItsLog_far :
    0 ∈ tMaint.mem.farValid ∧ (tMaint.chanOf 0).1 / 8 = 0 ∧ tMaint.stranded 0 = false ∧ tMaint.fint ≠ 0 ∧ (tMaint.module 0).state = 3 ∧
    Tab.get 0 tMaint.integ.farScrub (tMaint.chanOf 0).1 ≤ (tMaint.chanOf 0).2 ∧ (tMaint.module 3).state ≠ 3 := by decide +kernel

/-! ## Witnesses: rings, items and the window -/

/-- 64 bytes of a descriptor, its bytes that are not 0 listed. -/
def tDesc (l : List (Nat × Byte)) : List Byte := (List.range 64).map (fun i => (l.lookup i).getD 0)

/-- Item 7 of ring 63 of pitch 0. -/
def tItem (l : List (Nat × Byte)) (started : Bool := false) : State := { tDev with
  rings := { items := [{ p := 0, r := 63, seq := 7, fno := 0, desc := tDesc ([(1, 1), (4, 7)] ++ l), start := if started then some 5 else none }] } }

def tRing : State := { tDev with
  setup := [((0x180000 + 0x3F00) / 4, 0x10000), ((0x180000 + 0x3F08) / 4, 0x20000), ((0x180000 + 0x3F10) / 4, 4)]
  rings := { ring := [(63, { enable := true, dbtail := 15, fetch := 3, cqhead := 14, written := 2 })] } }

theorem witness_RingsEnableFetchAndRelease :
    tRing.isReq .host = true ∧ tRing.fw.recovery = false ∧ reqOwns .host 0 = true ∧ tRing.ringLog2 0 63 = 4 ∧ tRing.ringN 0 63 = 16 ∧
    tRing.sqbase 0 63 ≠ 0 ∧ tRing.cqbase 0 63 ≠ 0 ∧ 63 < tRing.pt.active.ringcount 0 ∧ tRing.pt.active.enabled 0 = true ∧
    (tRing.ring 0 63).enable = true ∧ ({ tRing with rings := {} }.ring 0 63).enable = false ∧ { tRing with rings := {} }.ringActive 0 63 = false ∧
    tRing.reqPitch .host 0 = true ∧ ((0 + 16 - 14) % 16 ≤ (tRing.ring 0 63).written) ∧ tRing.turn = some (0, 63) ∧ tDev.turn = none ∧
    (tRing.ring 0 63).fetch < 16 ∧ (tRing.ring 0 63).fetch + 8 ≤ 16 ∧
    (∀ j < 8, NSet.has tRing.mem.hostPois ((tRing.sqbase 0 63 + 64 * ((3 + j) % 16)) / 64) = false) := by decide +kernel

theorem witness_RingsEnableFetchAndRelease_failed :
    let s := { tRing with mem := { hostPois := [tRing.nextEntry 0 63 / 64] } }
    let u := { tRing with rings := { ring := [(63, { enable := true, dbtail := 3, fetch := 12, cqhead := 14, written := 2 })] } }
    s.turn = some (0, 63) ∧ NSet.has s.mem.hostPois (s.nextEntry 0 63 / 64) = true ∧
    s.journalRoom (leNat (s.rdHost (s.nextEntry 0 63) 1)) = true ∧
    u.turn = some (0, 63) ∧ (u.ring 0 63).dbtail < (u.ring 0 63).fetch ∧ u.pinflight 0 + 8 < 4096 ∧ u.dinflight + 8 < 32768 ∧
    u.inflight 0 63 + 2 + 8 < 16 ∧ u.jreserved + u.svc.jr.length + 64 ≤ 131072 ∧ u.mem.hostPois = [] := by decide +kernel

theorem witness_RingsEnableFetchAndRelease_held :
    let h : Held := { fn := 0, item := none, addr := 0x1000, data := [1], vec := none }
    let s := { tDev with rings := { held := [h] }, port := { tDev.port with bmeOff := [0] } }
    s.cv.coll = [] ∧ (∀ p, (s.jis1 p).load = none) ∧ (∀ h ∈ s.rings.held, h.fn = 0 → h.item = none) ∧ (s.ring 0 0).unsig = 0 :=
  ⟨rfl, fun _ => rfl, by decide, by decide⟩

/-- Whether a check passes, and the status with which it stops. -/
def tPass {α : Type} (c : Chk α) : Bool := match c with | .pass _ => true | .stop _ _ => false
def tStop {α : Type} (c : Chk α) : Nat := match c with | .pass _ => 0 | .stop st _ => st

/-- What check c says of the first item. -/
def tCheck {α : Type} (s : State) (c : Item → α) (f : α → Bool) : Bool := match s.rings.items with | i :: _ => f (c i) | [] => false

theorem witness_RecordsEndItemsAtTheTail :
    let s := tItem [(0, 8)]
    (s.item 0 63 7).isSome = true ∧ (s.ready 0 63 7 (fun t => t = 0 || decide (8 ≤ t))).isSome = true ∧ s.item 0 63 8 = none ∧
    tCheck s s.nopCheck tPass = true ∧ tCheck (tItem [(0, 8), (20, 1)]) (tItem [(0, 8), (20, 1)]).nopCheck (fun c => tStop c == 0x20) = true ∧
    ((tItem [(0, 5), (16, 1)]).ready 0 63 7 (· = 5)).isSome = true ∧
    tCheck (tItem [(0, 5), (16, 1)]) (tItem [(0, 5), (16, 1)]).fenceCheck tPass = true ∧
    tCheck s (fun i => i) (fun i => i.desc.length == 64) = true ∧ s.bme (s.fnOf 0) = true ∧
    { s with port := { s.port with bmeOff := [0] } }.bme 0 = false := by decide +kernel

theorem witness_ItemsStartAndEnd_kernel :
    let s := tItem [(0, 1), (25, 15), (26, 1)]
    let u := tItem [(0, 1), (25, 16), (26, 1)]
    (s.ready 0 63 7 (· = 1)).isSome = true ∧ tCheck s s.kernelCheck tPass = true ∧ tCheck u u.kernelCheck (fun c => tStop c == 0x20) = true ∧
    s.pairActive 0 = true ∧ s.stallReady 0 = true ∧ ({ s with svc := {} } : State).pairActive 0 = false := by decide +kernel

theorem witness_ItemsStartAndEnd_running :
    let k := tItem [(0, 1), (12, 1), (25, 1)] true
    let s := { k with rings := { items := k.rings.items.map (fun i => { i with stalls := [0] }) } }
    let u := { s with stalls := [(0, { th := [(0, { kended := true })] })] }
    (s.item 0 63 7).isSome = true ∧ tCheck s (fun i => i) (fun i => i.start.isSome && i.timeout ≠ 0 && i.type = 1 && i.stat == 0) = true ∧
    (u.thread 0 0).kended = true ∧ (u.thread 0 0).st = .off ∧ (s.thread 0 0).kended = false := by decide +kernel

/-- A buffer table of two entries: 4 KiB of host memory at 0x40000, readable and writable, and 4 KiB of the device from DPA 0. -/
def tBufs (l : List (Nat × Byte)) : State := { tItem l with
  setup := [(0x184000 / 4, 0x30000), (0x184008 / 4, 2)]
  mem := { host := [(0x30002, 4), (0x30009, 0x10), (0x3000D, 0x0D), (0x30019, 0x10), (0x3001D, 0x0E)] } }

theorem witness_ItemsStartAndEnd_copy :
    let s := tBufs [(0, 2), (18, 1), (40, 64)]
    (s.ready 0 63 7 (· = 2)).isSome = true ∧ s.bme (s.fnOf 0) = true ∧ tCheck s (fun i => s.copyCheck i false) tPass = true ∧
    tCheck s (fun i => s.copyCheck i true) (fun c => tStop c == 0x22) = true ∧
    tCheck (tItem [(0, 2)] true) (fun i => i) (fun i => i.start.isSome && i.type = 2 && i.stat == 0) = true := by decide +kernel

theorem witness_ItemsStartAndEnd_batch :
    let s := tBufs [(0, 3), (16, 1), (32, 64), (56, 0xFF), (57, 0xFF)]
    let u := tBufs [(0, 3), (16, 0x22), (32, 64)]
    (s.ready 0 63 7 (· = 3)).isSome = true ∧ tCheck s (fun i => s.batchCheck i false) tPass = true ∧
    tCheck s (fun i => s.batchGone i [] i.near (s.nearCheck i.p i.near [])) (fun e => e == none) = true ∧
    (u.ready 0 63 7 (· = 3)).isSome = true ∧ tCheck u (fun i => u.batchCheck i false) tPass = true ∧
    tCheck u (fun i => u.batchCheck i true) (fun c => tStop c == 0x22) = true ∧ u.spaceFault 0 1 0x40000 64 = none ∧
    tCheck (tItem [(0, 3)] true) (fun i => i) (fun i => i.start.isSome && i.type = 3 && i.stat == 0) = true := by decide +kernel

theorem witness_ItemsStartAndEnd_tally :
    let g := tItem [(0, 4), (20, 2)]
    (g.ready 0 63 7 (· = 4)).isSome = true ∧ tCheck g g.tallyCheck tPass = true ∧
    tCheck (tItem [(0, 4), (20, 4)]) (tItem [(0, 4), (20, 4)]).tallyCheck (fun c => tStop c == 0x20) = true := by decide +kernel

/-- Slot 63 of pitch 0 in window mode, set up for a FILL of 64 bytes at DPA 0. -/
def tWin (busy : Bool) : State := { tDev with pt := { tDev.pt with active := { cfg := [(0, 0x402D)] } }, slots := [(63, { target := 0, len := 64, busy := busy })] }

theorem witness_WindowOperationsRunAndEnd :
    let s := tWin false
    let y := fun (op : Nat) => ({ cmd := BitVec.ofNat 64 op, target := 0, len := 64, value := 0, table := 0 } : Near)
    s.reqPitch .host 0 = true ∧ s.windowMode 0 = true ∧ (s.slot 0 63).busy = false ∧ (s.pctl 0).quiesce = false ∧ tDev.windowMode 0 = false ∧
    (∀ op ∈ [1, 0x22, 4], (y op).fmtOk = true ∧ (y op).alignOk = true ∧ 0 < (y op).length ∧ s.nearCheck 0 (y op) (s.slot 0 63).bytes = none) ∧
    (y 0).fmtOk = false ∧ ({ y 1 with len := 0 } : Near).length = 0 ∧ (y 1).n ≤ 64 ∧ s.nearCheck 0 { y 1 with target := 0x0FE00000 } [] = some 0x21 ∧
    s.dropsSlice (s.nearAddr 0 0) = false ∧ s.sliceBad (s.nearAddr 0 0) = false ∧ s.sliceBad (s.nearAddr 0 0 / 64 * 64 + 32) = false ∧
    (∀ j < (y 4).n, s.sliceBad (s.nearAddr 0 ((y 4).target.toNat + j)) = false) ∧ NSet.has s.mem.lost (s.nearAddr 0 0 / unit256) = false ∧
    (tWin true).windowMode 0 = true ∧ ((tWin true).slot 0 63).busy = true ∧ ((tWin true).slot 0 63).lcmd.toNat % 16 ≠ 3 ∧
    ((tWin true).slot 0 63).pstat = 0 ∧ ((tWin true).slot 0 63).undo = [] := by decide +kernel

theorem witness_WindowOperationsRunAndEnd_gather :
    let y : Near := { cmd := 0x1053, target := 0, len := 0, value := 0, table := 0x10040 }
    y.op = 3 ∧ y.fmtOk = true ∧ y.alignOk = true ∧ 0 < y.length ∧ (tWin false).nearCheck 0 y ((tWin false).slot 0 63).bytes = none := by
  decide +kernel

/-! ## Witnesses: pitches, Jisan and Caravan -/

theorem witness_PitchTableCommitsAndPitchesReset :
    tDev.isReq .host = true ∧ tDev.fw.recovery = false ∧ tDev.ptWriter .host = true ∧ tDev.commitCheck 1 = none ∧
    tDev.commitCheck 0 = some (0x24, 1, 0) ∧
    (({ tDev with pt := { tDev.pt with gen := 1 } } : State).applying = true) ∧ { tDev with port := { tDev.port with mld := true } }.ptWriter (.sp 1) = false ∧
    (tDev.stall 255).gen = tDev.pt.gen ∧ tDev.published = true ∧ State.reset.published = false ∧ reqOwns (.ld 1) 0 = false ∧
    tDev.isFn 0 = true ∧ tDev.isFn 1 = false := by decide +kernel

theorem witness_PitchTableCommitsAndPitchesReset_apply :
    let s := { tDev with pt := { tDev.pt with gen := 1 } }
    (s.stall 0).gen ≠ s.pt.gen ∧ (s.stall 0).idle = true ∧ s.pt.active.owner 0 = some 0 ∧ (s.stall 0).served = 0 := by decide +kernel

theorem witness_PitchTableCommitsAndPitchesReset_quiet : tDev.pitchesQuiet :=
  ⟨rfl, rfl, by decide +kernel, fun _ _ => rfl, fun n _ => by
    have h : Tab.get {} tDev.stalls n = ({} : Stall) := rfl
    unfold State.stall; rw [h]; rfl⟩

/-- Jisan serves pitch 0: slot 0 is READY on stall 0, one request runs and one waits. -/
def tJis (st : Nat) (run : Option JRun) : State := { tDev with
  fw := { jisan := true }
  pt := { tDev.pt with active := { cfg := [(0, 0x402B)] } }
  jis := [(0, { slot := [(15, { st := st, stalls := [0], ctxmax := 100, kvtok := 1, logitoff := 0x10000 })], run := run })] }

/-- Bytes of 96, those that are not 0 listed: TOPP 1.0, STREAMEVERY 2, no stop token. -/
def tPar : List Byte := (List.range 96).map (fun i => if 64 ≤ i then 0xFF else (([(6, 0x80), (7, 0x3F), (26, 2)] : List (Nat × Byte)).lookup i).getD 0)

/-- A package of one logical stall and no tensors: one kernel of no bytes, the step area at 0, logits at 0x10000, KV at 0x20000. -/
def tPkg : List Byte :=
  let body : List Byte := [1, 1] ++ zeros 30
  let head : List Byte := [0x4A, 0x41, 0x53, 0x4E, 1, 0, 1, 0, 2, 0, 0, 0, 16, 0, 0, 0, 64, 0, 0, 0, 0, 0, 2, 0] ++ zeros 6 ++ [1, 0] ++ zeros 8 ++
    [0, 0, 0, 0, 0, 0, 0, 0, 96, 0, 0, 0, 0, 0, 0, 0, 0, 0, 1, 0]
  head ++ (List.range 4).map (fun i => (BitVec.ofNat 8 ((crc32 body).toNat / 256 ^ i))) ++ body

/-- Jisan serves pitch 0, whose buffer 0 lies in host memory. Item 7 of ring 63 asks slot 15 for one token of one. -/
def tAsk : State := { tBufs [(0, 6), (16, 15), (22, 0xFF), (23, 0xFF), (40, 1), (44, 1)] with
  fw := { jisan := true }
  pt := { tDev.pt with active := { cfg := [(0, 0x402B)] } }
  jis := [(0, { slot := [(15, { st := 2, stalls := [0], vocab := 2, ctxmax := 100, kvtok := 64, kvbase := 0x0FDFF000, logitoff := 0x10000, defpar := tPar })] })] }

theorem witness_JisanLoadsModelsAndServesRequests :
    (tJis 2 none).isReq .host = true ∧ (tJis 2 none).fw.recovery = false ∧ (tJis 2 none).pt.active.jisan 0 = true ∧
    (tJis 2 none).jisanRuns = true ∧ tDev.jisanRuns = false ∧ tDev.pt.active.jisan 0 = false ∧ ((tJis 2 none).jis1 0).mig = [] ∧
    (((tJis 2 none).jis1 0).slotOf 15).st = 2 ∧ (((tJis 1 none).jis1 0).slotOf 15).st = 1 ∧ (tJis 2 none).stallReady 0 = true ∧
    bitsOf (tJis 2 none).fw.disable 1 1 = 0 ∧ ((tJis 2 none).jis1 0).load = none ∧ (((tJis 2 none).jis1 0).slotOf 14).st = 0 ∧
    ((tJis 2 none).pctl 0).resetting = false ∧ (tJis 2 none).bme ((tJis 2 none).fnOf 0) = true ∧
    fld (0xF01 : Word) 0 3 = 1 ∧ fld (0xF02 : Word) 0 3 = 2 ∧ fld (0xF01 : Word) 8 4 = 15 := by decide +kernel

theorem witness_JisanLoadsModelsAndServesRequests_load :
    let s := { tAsk with mem := { host := tAsk.mem.host ++ (tPkg.zipIdx 0x40000).filterMap (fun (x : Byte × Nat) => if x.1 = 0 then none else some (x.2, x.1)) } }
    (match s.readBufs 0 false [(0, false)] with
      | .ok [u] =>
        let head := s.spaceRead 0 u.kind u.base 64
        let b := s.spaceRead 0 u.kind u.base (pkgTotal head)
        decide (pkgTotal head = 96 ∧ 96 ≤ u.len ∧ u.kind = 1 ∧ s.spaceFault 0 1 u.base 96 = none ∧ leAt head 4 2 = 1 ∧ leAt head 0 4 = 0x4E53414A ∧
          pkgFieldsOk b = true ∧ leAt b 60 4 = (crc32 (b.drop 64)).toNat ∧ s.pkgFits 0 b ((s.goodStalls 0).take (pkgStalls b)) = true)
      | _ => false) = true := by decide +kernel

theorem witness_JisanLoadsModelsAndServesRequests_copies :
    let x : JSlot := { st := 1, stalls := [0] }
    (x.copies.foldl (fun (w : JWr) c => w.copy 0 x c) (⟨tAsk.used, false⟩ : JWr)).bad = false ∧ x.src.1 = 0 ∧
    ({ tAsk with jis := [(0, { mig := [(15, 0, 3)] })] } : State).jisanRuns = true ∧
    (({ tAsk with jis := [(0, { mig := [(15, 0, 3)] })] } : State).jis1 0).mig = [(15, 0, 3)] := by decide +kernel

theorem witness_JisanLoadsModelsAndServesRequests_request :
    (tAsk.readyJis 0 63 7).isSome = true ∧ tAsk.readyJis 0 63 8 = none ∧ tAsk.bme (tAsk.fnOf 0) = true ∧
    tCheck tAsk (fun i => tAsk.jisanCheck i false) tPass = true ∧ tCheck tAsk (fun i => tAsk.jisanCheck i true) (fun c => tStop c == 0x22) = true ∧
    tCheck tAsk (fun i => i.f 22 2) (fun x => x == 0xFFFF) = true := by decide +kernel

/-- A request of slot 15 with one input token, in the stage given. -/
def tReq (st : Nat) (inp out : List W32) : JReq :=
  { r := 63, seq := 7, fno := 0, slot := 15, session := 0, par := tPar, outb := (1, 0x40000), strm := (0, 0), inp := inp, maxnew := 5, st := st, out := out,
    blocks := [0x0FDFF000] }

def tSeq (a : JReq) (run : Option JRun) : State := { tAsk with
  jis := [(0, { (tAsk.jis1 0) with reqs := [a], run := run })]
  rings := { items := tAsk.rings.items.map (fun i => { i with bufs := [{ idx := 0, base := 0x40000, len := 0x1000, kind := 1, rd := true, wr := true }] }) } }

theorem witness_JisanLoadsModelsAndServesRequests_admission :
    let a := tReq 0 [] []
    let s := tSeq a none
    least (fun a => a.fno) ((s.jis1 0).reqs.filter (fun a => a.st = 0)) = some a ∧ (s.item 0 63 7).isSome = true ∧ s.jisanRuns = true ∧
    ((s.jis1 0).slotOf 15).st = 2 ∧ (s.jis1 0).running.length < s.batchMax 0 ∧ (s.jis1 0).parked = [] ∧ (s.pctl 0).quiesce = false ∧
    hostFailIn (1, 0x40000) 4 none = none ∧ parContinue tPar = false ∧ (s.jis1 0).sessSlot 0 = some (s.jis1 0) ∧
    tCheck s (fun i => i.incount) (fun n => n == 1) = true ∧ cdiv 2 16 ≤ (s.freeBlks (s.jis1 0) ((s.jis1 0).slotOf 15)).length ∧
    s.spaceFault 0 1 0x40000 4 = none := by decide +kernel

theorem witness_JisanLoadsModelsAndServesRequests_step :
    let a := tReq 1 [] [1]
    let s := tSeq a none
    let x := (s.jis1 0).slotOf 15
    s.jisanRuns = true ∧ x.st = 2 ∧ (s.jis1 0).run = none ∧ (s.jis1 0).mig = [] ∧ x.stalls.all s.stallReady = true ∧ x.stalls.Nodup ∧
    (∀ m ∈ x.stalls, m < 256) ∧ (s.jis1 0).reqs = [a] ∧ a.out ≠ [] ∧ a.toks.length = a.kv + 1 ∧ cdiv (a.kv + 1) 16 ≤ a.blocks.length ∧
    64 + 32 + seqBytes 1 a.blocks.length ≤ x.logitoff - x.stepoff ∧ (s.jis1 0).youngest = some a := by decide +kernel

theorem witness_JisanLoadsModelsAndServesRequests_stepEnd :
    let a := tReq 1 [5] []
    let g : JRun := { slot := 15, start := 0, parts := [⟨63, 7, 1, true⟩] }
    let s := tSeq a (some g)
    let z := (s.jis1 0).slotOf 15
    (s.jis1 0).run = some g ∧ s.stepOver z = true ∧ g.start + s.stepLim 0 ≤ s.time ∧ Tab.find s.jfail 0 = none ∧ s.svc.retire = [] ∧ g.bad = false ∧
    s.logitsBad z g.parts = false ∧ (s.jis1 0).req 63 7 = some a ∧ a.outb.1 = 1 ∧ s.bme (s.fnOf 0) = true ∧ s.tokensWait 0 g.parts = false ∧
    (match pickToken (elemsOf 4 (Mem.rdBytes s.mem.slice (z.logitAt 0).1 (z.logitAt 0).2)) (leAt a.par 0 4) (leAt a.par 4 4) (leAt a.par 8 4)
      a.seed a.out.length with
      | .tok k => decide ({ a with kv := 1, out := [BitVec.ofNat 32 k] }.stops z k = none)
      | _ => false) = true ∧ 1 % a.every ≠ 0 ∧ (s.jis1 0).tokens ≠ BitVec.allOnes 48 := by decide +kernel

theorem witness_JisanLoadsModelsAndServesRequests_stepFails :
    let g : JRun := { slot := 15, start := 0, parts := [] }
    let j := (tSeq (tReq 1 [5] []) (some g)).jis1 0
    let s := { tSeq (tReq 1 [5] []) (some g) with
      jfail := [(0, (4, 0))], stalls := [(0, { th := [(0, { st := .run })] })]
      jis := [(0, { j with slot := [(15, { j.slotOf 15 with tmask := 1 })] })] }
    let z := (s.jis1 0).slotOf 15
    (s.jis1 0).run = some g ∧ Tab.find s.jfail 0 = some (4, 0) ∧ g.start + s.stepLim 0 ≤ s.time ∧ s.stepOver z = false := by decide +kernel

theorem witness_JisanLoadsModelsAndServesRequests_parked :
    let a := tReq 2 [5] []
    let s := tSeq { a with session := 5 } none
    least (fun a => a.adm) (s.jis1 0).parked = some { a with session := 5 } ∧ a.blocks ≠ [] ∧ (s.jis1 0).run = none ∧
    a.blocks.length ≤ (s.freeBlks (s.jis1 0) ((s.jis1 0).slotOf 15)).length ∧
    (s.jis1 0).reqs.filter (fun a => a.session = 5) = [{ a with session := 5 }] := by decide +kernel

theorem witness_JisanLoadsModelsAndServesRequests_policy :
    let y : JSess := { id := 5, toks := [1], slot := 15, kv := 1, blocks := [0x0FDFF000], far := false, used := 0 }
    let s := { tAsk with jis := [(0, { (tAsk.jis1 0) with sess := [y] })] }
    least (fun y => y.used) ((s.jis1 0).sess.filter (fun y => (s.jis1 0).idle y && !y.far && y.blocks ≠ [])) = some y ∧ s.jisanRuns = true ∧
    ({ tAsk with pt := { tAsk.pt with active := {} } } : State).pt.active.owner 3 = some 0 ∧
    ({ tAsk with pt := { tAsk.pt with active := { cfg := [(0, 0x402B)], smap := [(3, 0)] } } } : State).pt.active.owner 3 = none ∧
    (∀ l < 8, multOf ((0x5555 : W32).setWidth 16) l ≠ 3) := by decide +kernel

/-- The device 5 on the Ethernet port 0, with an open convoy to peer 9. -/
def tNet (c : Convoy) : State := { tDev with
  setup := [(0xA000 / 4, 0x10005)]
  cv := { port := [(0, 2)], peer := [(9, { own := 1, ports := 1, valid := true })], conv := [(72, c)] } }

def tFrame : Frame := { port := 0, src := 9, dst := 5, tp := 0, sp := 0, cgen := 3, msg := 1, psn := 0, ack := 0, key := 0 }

/-- The same with pitch 0 open to Caravan and a convoy of generation 3. -/
def tPeer (c : Convoy) : State := { tNet { c with st := 2, gen := 3 } with
  setup := [(0xA000 / 4, 0x10005), (0x184200 / 4, 1)]
  tally := { val := [(5, 7)] } }

theorem witness_FramesMoveTheirConvoy :
    inFrame tFrame = true ∧ tDev.cvMine tFrame = false ∧ (tNet {}).cvMine tFrame = true ∧ ((tNet {}).conv 9 0).st = 0 ∧ ((tNet {}).conv 9 0).tx = [] ∧
    (tNet {}).openConvoys.length < 4096 ∧ ((tNet { st := 1, gen := 3 }).conv 9 0).gen = tFrame.cgen ∧
    (tNet { st := 1, gen := 3, epoch := 8 }).cvMine tFrame = true ∧ ((tNet { st := 1, gen := 3, epoch := 8 }).conv 9 0).epoch = 8 ∧
    (tNet { st := 2, gen := 3 }).cvCurrent tFrame = true ∧ (tNet { st := 2, gen := 2 }).cvCurrent tFrame = false := by decide +kernel

theorem witness_FramesMoveTheirConvoy_acks :
    let c := (tPeer { tx := [{ kind := 4, psn := 0 }, { kind := 4, psn := 1 }], sent := 2, psn := 2 }).conv 9 0
    (1 : Nat) ≤ c.sent ∧ c.sent ≤ c.tx.length ∧ c.ops = [] ∧ tFrame.ece = false ∧
    BitVec.ofNat 32 tFrame.ack + 1 = (c.tx.head?.map (fun q => q.psn)).getD c.psn + BitVec.ofNat 32 1 ∧
    ((tPeer {}).conv 9 0).tx = [] ∧ ((tPeer {}).conv 9 0).sent = 0 ∧ ((tPeer {}).conv 9 0).cut = none := by decide +kernel

theorem witness_FramesMoveTheirConvoy_writes :
    let s := tPeer {}
    let y : CvRx := { watch := false, msg := 1, tp := 0, sp := 0, addr := 0, len := 8, got := 0, sig := 0 }
    let c := (tPeer { rx := [y] }).conv 9 0
    s.cvMine tFrame = true ∧ s.cvCurrent tFrame = true ∧ (s.conv 9 0).ahead = [] ∧ (s.conv 9 0).due < 15 ∧
    BitVec.ofNat 32 tFrame.psn = (s.conv 9 0).expect ∧ (s.conv 9 0).ops = [] ∧ s.cvWriteCheck 0 0 0 64 0 = none ∧
    s.cvWriteCheck 0 1 0 64 0 = some 0x22 ∧ s.cvWriteCheck 0 0 0x0FE00000 64 0 = some 0x21 ∧
    c.rx = [y] ∧ y.addr % 64 + 8 ≤ 64 ∧ y.got + 8 ≤ y.len ∧ s.cvGone 0 0 8 = none ∧ s.cvPlace 0 0 = .slice 0 0 ∧ NSet.has s.mem.lost 0 = false ∧
    bit32 y.sig 31 = false := by decide +kernel

theorem witness_FramesMoveTheirConvoy_words (a : Nat) (h : a / 64 = 0) : (tPeer {}).sliceBad a = false ∧ (tPeer {}).dropsSlice a = false := by
  have e : a / unit256 = 0 := by unfold unit256; omega
  unfold State.sliceBad State.dropsSlice State.heldRow
  rw [e]
  exact ⟨rfl, rfl⟩

theorem witness_FramesMoveTheirConvoy_tallies :
    let s := tPeer {}
    let o : CvOp := { op := 2, owner := .thread 0 0, sp := 0, msg := 1, first := 0, last := 0, len := 0, ra := 0 }
    let u := { tPeer { ops := [o] } with stalls := [(0, { th := [(0, { tScalar with st := .tally })] })] }
    s.cvTallyCheck 0 0 5 false = none ∧ s.tallyLost none 5 = none ∧ NSet.has s.tally.pois 5 = false ∧ s.tally.watches = [] ∧
    s.cvTallyCheck 0 1 5 (!NSet.has s.tally.pois 5 && !tallyCond 0 (s.tallyVal 5) 0) = some 0x22 ∧
    (u.conv 9 0).ops = [o] ∧ o.msg = tFrame.msg ∧ o.dead = false ∧ (u.thread 0 0).st = .tally := by decide +kernel

theorem witness_FramesMoveTheirConvoy_collectives :
    let e : Coll := {
      p := 0, r := 63, seq := 7, h := 63, inst := 1, st := 1, op := 1, ety := 2, m := 2, rank := 0, next := 9, prev := 8, len := 4,
      inp := [], out := ⟨0, 0, 0x1000, 2, true, true⟩, off := 0 }
    let s := { tPeer {} with cv := { (tPeer {}).cv with coll := [e] } }
    s.cv.coll = [e] ∧ s.collLive e = true ∧ s.cv.early = [] ∧ e.p = tFrame.tp ∧ e.next = tFrame.src ∧ e.prev ≠ tFrame.src ∧ e.okN = false ∧ e.okP = false ∧
    (Tab.get (0 : W32) (tPeer {}).cv.inst (64 * 0 + 63)).toNat < (1 : W32).toNat := by decide +kernel

theorem witness_FramesMoveTheirConvoy_order :
    (BitVec.ofNat 32 { tFrame with psn := 256 }.psn - ((tPeer {}).conv 9 0).expect).toNat = 256 ∧
    2 ^ 31 ≤ (BitVec.ofNat 32 { tFrame with psn := 0 }.psn - ((tPeer { expect := 1 }).conv 9 0).expect).toNat := by decide

/-! ## Witnesses: operations, network, far memory, power, heat -/

theorem witness_RemoteOperationsLeaveAndTimersRun :
    let c := ((tNet { st := 2, due := 1, sent := 1, tx := [{ kind := 4 }] }).conv 9 0)
    c.st = 2 ∧ c.due ≠ 0 ∧ c.sent ≠ 0 ∧ c.tx = [{ kind := 4 }] ∧ c.ops = [] ∧ c.rx = [] ∧ ((tNet { st := 1 }).conv 9 0).st = 1 ∧
    (tNet { st := 2 }).cvQuiet 9 0 = true ∧ (tNet { st := 2, tx := [{ kind := 4 }] }).cvQuiet 9 0 = false ∧
    Tab.get 0 (tNet {}).cv.port 0 = 2 ∧ Tab.get 0 (tNet {}).cv.port 7 ≠ 2 ∧ (tNet {}).cvValid = true ∧ (tNet {}).isReq .host = true ∧
    ((tNet {}).reqSt .host).page = false ∧ (({ tDev with req := [(0, { page := true })] } : State).reqSt .host).page = true ∧
    tDev.cv.conv = [] ∧ tDev.readyCop 0 63 7 (fun c => c = 1) = none ∧ tDev.portOn 0 = true ∧
    ({ tDev with boot := { tDev.boot with ssc := true } } : State).portOn 0 = false := by
  decide +kernel

/-- Item 7 of ring 63 of pitch 0 with two buffers, device 5, an open convoy to device 9, and handle 0 of two devices. -/
def tCop (l : List (Nat × Byte)) : State := { tBufs ([(0, 7)] ++ l) with
  setup := [(0xA000 / 4, 0x10005), (0x184000 / 4, 0x30000), (0x184008 / 4, 2), (0x184200 / 4, 1), (0x184800 / 4, 0x90009), (0x184804 / 4, 2), (0x18480C / 4, 0x10201)]
  cv := (tPeer {}).cv }

theorem witness_RemoteOperationsLeaveAndTimersRun_write :
    let s := tCop [(18, 9), (40, 64)]
    let u := tCop [(18, 5), (40, 64)]
    (s.readyCop 0 63 7 (fun c => c ≠ 1 && c ≠ 2)).isSome = true ∧ s.bme (s.fnOf 0) = true ∧ tCheck s (fun i => s.remoteWriteCheck i false) tPass = true ∧
    tCheck s (fun i => s.remoteWriteCheck i true) (fun c => tStop c == 0x22) = true ∧ s.spaceFault 0 1 0x40000 64 = none ∧
    s.cvDev = 5 ∧ s.livePorts 9 ≠ [] ∧ (s.conv 9 0).ops = [] ∧ tCheck u (fun i => u.remoteWriteCheck i false) tPass = true ∧
    u.cvWriteCheck (u.cvRpitch 0) (u.cvKey 0) 0 64 0 = none ∧ u.cvPlace (u.cvRpitch 0) 0 = .slice 0 0 ∧
    u.cvWriteCheck (u.cvRpitch 0) (u.cvKey 0) 0x0FE00000 64 0 = some 0x21 := by decide +kernel

theorem witness_RemoteOperationsLeaveAndTimersRun_tally :
    let s := tCop [(16, 1), (18, 9), (20, 0xFF), (21, 0xFF)]
    let u := tCop [(16, 1), (18, 5), (20, 0xFF), (21, 0xFF)]
    (s.readyCop 0 63 7 (fun c => c = 1)).isSome = true ∧ tCheck s s.remoteTallyCheck tPass = true ∧ tCheck u u.remoteTallyCheck tPass = true ∧
    u.cvTallyCheck (u.cvRpitch 0) (u.cvKey 0) 0 false = none := by decide +kernel

theorem witness_RemoteOperationsLeaveAndTimersRun_collective :
    let s := tCop [(16, 2), (32, 1), (40, 64)]
    (s.readyCop 0 63 7 (fun c => c = 2)).isSome = true ∧ s.bme (s.fnOf 0) = true ∧ tCheck s (fun i => s.collectiveCheck i false) tPass = true ∧
    s.cv.early = [] ∧ s.cv.coll = [] ∧ (s.handle 0 0).next = 9 ∧ s.livePorts 9 ≠ [] := by decide +kernel

/-- A flit from stall 0 at router r of hall 0 to the endpoint given; the links of the hall stand in state 2, and the upstream direction of
link 0 holds what is given. -/
def tFlit (r dst : Nat) (up : List Flit) : State := { tDev with net := {
  link := [(0, { state := 2, dir := [(1, { buf := up, seq := 7 })] }), (1, { state := 2 }), (2, { state := 2 }), (3, { state := 2 })]
  inq := [(inqKey 0 r 4 false, [{ src := 0, dst := dst, rsp := false }])] } }

theorem witness_AislesArcadesAndClocksMove :
    let f : Flit := { src := 0, dst := 1, rsp := false }
    let s := tFlit 0 1 []
    s.segsOn 0 = true ∧ (s.hall 4).rails = false ∧ State.reset.segsOn 0 = false ∧ s.inq (inqKey 0 0 4 false) = [f] ∧
    (∀ j < 5, ∀ c, ¬ (j = 4 ∧ c = false) → s.inq (inqKey 0 0 j c) = []) ∧ Tab.get [] s.net.wait 0 = [] ∧
    s.routeOf 0 0 f = .east ∧ neighbour 0 .east = some (1, 2) ∧ (s.inq (inqKey 0 1 2 false)).length < s.credits 0 false ∧
    (tFlit 1 1 []).routeOf 0 1 f = .here ∧ (tFlit 0 256 []).routeOf 0 0 { f with dst := 256 } = .south ∧
    (tFlit 0 256 []).linkRoom 0 1 { f with dst := 256 } = true ∧
    s.isReq (.sp 0) = true ∧ (s.fpOf 0).state = 0 ∧ (s.hall 0).up = true ∧ (s.hall 0).cutoff = false ∧ State.reset.segsOn 0 = false ∧
    (s.stall 0).clk.slewing = false ∧ 8 ≤ fld32 (60 : W32) 0 6 ∧ fld32 (60 : W32) 0 6 ≤ 60 ∧ fld32 (61 : W32) 0 6 = 61 := by decide +kernel

theorem witness_AislesArcadesAndClocksMove_full :
    let f : Flit := { src := 0, dst := 1, rsp := false }
    let s := { tFlit 0 1 [] with net := { (tFlit 0 1 []).net with
      inq := [(inqKey 0 0 4 false, [f]), (inqKey 0 1 2 false, List.replicate 8 f)] } }
    s.credits 0 false ≤ (s.inq (inqKey 0 1 2 false)).length ∧
    ({ s with stalls := [(0, { clk := { slewing := true } })] }.stall 0).clk.slewing = true := by decide +kernel

theorem witness_AislesArcadesAndClocksMove_beats :
    let f : Flit := { src := 0, dst := 64, rsp := false }
    let far : Tab ArcLink := [(4, { state := 2 }), (5, { state := 2 }), (6, { state := 2 }), (7, { state := 2 })]
    let s := { tFlit 0 0 [f] with net := { (tFlit 0 0 [f]).net with link := (tFlit 0 0 [f]).net.link ++ far } }
    ((s.link 0).side 1).buf = [f] ∧ 2 ≤ (s.link 0).state ∧ ((s.link 0).side 1).stop = false ∧ s.injectorFor 6 (fun a => a % 16 = 0) = none ∧
    (∀ c < 8, Tab.get [] s.net.wait (2 * (256 + c)) = []) ∧ (s.link 0).beats = 1 ∧ endHall f.dst = 1 ∧ (s.hall 1).rails = true ∧
    s.exitHeld 1 f.dcol = false ∧ s.linkRoom (4 * 1 + (s.hall 1).linkOf f.dcol) 0 f = true ∧
    ({ s with halls := [] }.hall 1).rails = false ∧ ({ s.link 0 with state := 3 } : ArcLink).beats = 2 := by decide +kernel

theorem witness_AislesArcadesAndClocksMove_lanes :
    let s := { tDev with
      net := { link := [(0, { state := 1, was := 3, retrain := true, dir := [(0, { stop := true, faulty := [15], bad := [3] })] }), (1, { state := 3 })] }
      halls := [(0, { rails := true, up := true, afeat := 1 })] }
    NSet.has ((s.link 0).side 0).faulty 15 = true ∧ bitsOf (s.hall 0).afeat 0 1 = 1 ∧ bitsOf (Tab.get 0 ((s.link 0).side 0).lanes 15) 6 1 = 0 ∧
    ((s.link 0).side 0).stop = true ∧ (s.link 0).retrain = true ∧ (s.link 0).state = 1 ∧ 3 ≤ (s.link 1).state ∧ (s.link 1).state ≤ 5 ∧
    max (capOf ⟨1, 2, 3, 0⟩).vmin (capOf ⟨1, 3, 1, 0⟩).vmin ≤ min (capOf ⟨1, 2, 3, 0⟩).vmax (capOf ⟨1, 3, 1, 0⟩).vmax ∧
    min (capOf ⟨1, 1, 3, 0⟩).vmax (capOf ⟨2, 3, 1, 0⟩).vmax < max (capOf ⟨1, 1, 3, 0⟩).vmin (capOf ⟨2, 3, 1, 0⟩).vmin := by decide +kernel

theorem witness_AislesArcadesAndClocksMove_remap :
    let f : Flit := { src := 0, dst := 256, rsp := false }
    let s := { tFlit 0 256 [] with net := { (tFlit 0 256 []).net with link := [(0, { state := 5 }), (1, { state := 2 }), (2, { state := 2 }), (3, { state := 2 })] } }
    let moved := (List.range 8).filter (fun c => bitsOf (s.wantedRemap 0).toNat (2 * c) 2 ≠ (s.hall 0).linkOf c)
    moved ≠ [] ∧ s.drained 0 moved = false ∧ s.inq (inqKey 0 0 4 false) = [f] ∧ ({ s with net := { s.net with inq := [] } }).drained 0 moved = true := by
  decide +kernel

/-- Module 3 in the state given. -/
def tMod (st busy left : Nat) : State := { tDev with far := {
  used := 15, ml := 4, chcap := 1, usable := 4
  mod := [(3, { state := st, present := true, power := true, trained := true, busy := busy, left := left, total := 5 })] } }

theorem witness_FarMemoryServesMovesAndDisplaces :
    (tMod 3 0 0).usableFar ≤ 0x8000000000 ∧ 0 < (tMod 3 0 0).usableFar ∧ (tMod 3 0 0).cachePitch 0 = none ∧
    ((tMod 3 0 0).module 3).power = true ∧ (tDev.module 3).power = false ∧ (tMod 3 0 0).isReq .host = true ∧ (tMod 3 0 0).published = true ∧
    bitsOf (tMod 3 0 0).fw.disable 5 1 = 0 ∧ ((tMod 5 0 0).module 3).state = 5 ∧ ((tMod 5 1 0).module 3).busy = 1 ∧
    ((tMod 4 0 1).module 3).left = 1 ∧ 1 < ((tMod 6 0 2).module 3).left ∧ ((tMod 1 0 0).module 3).present = true ∧
    ((tMod 3 0 0).module 3).inUse = true ∧ bitsOf ((tMod 3 0 0).module 3).retch 7 1 = 0 ∧ ((tMod 5 0 0).module 3).inUse = false ∧
    (tMod 3 0 0).displaceCheck 3 = some 0x24 ∧ (tMod 4 0 1).stranded ((tMod 4 0 1).moveLine 3 4 * 256) = false := by decide +kernel

theorem witness_FarMemoryServesMovesAndDisplaces_displace :
    let s := { tMod 3 0 0 with far := { (tMod 3 0 0).far with ml := 2 } }
    s.displaceCheck 3 = none ∧ s.published = true := by decide +kernel

/-- Far unit 0 is pitch 0's, cached; line 0 is written, and a read of it and a write of another line wait for their channel. -/
def tCached (ways : List CWay) : State := { tMod 3 0 0 with
  mem := { farValid := [0] }
  pt := { tDev.pt with active := { cfg := [(0, 0x4029)], far := [(0, 0x10000)] } }
  far := { (tMod 3 0 0).far with cache := if ways = [] then [] else [(0, ways)], q := [(31, [(0, false), (256, true)])] } }

theorem witness_FarMemoryServesMovesAndDisplaces_cache :
    let s := tCached []
    0 < s.usableFar ∧ s.cachePitch 0 = some 0 ∧ s.setDead (setOf 0) = false ∧ NSet.has s.mem.farValid 0 = true ∧ s.stranded 0 = false ∧
    s.pt.active.defhint 0 = 2 ∧ NSet.has s.far.dis (setOf 0 * 12 + 0) = false ∧ Tab.get [] s.far.cache (setOf 0) = [] ∧
    (Tab.get [] (tCached [⟨0, 0, false⟩]).far.cache (setOf 0)).find? (fun w => w.line = 0) = some ⟨0, 0, false⟩ ∧
    (Tab.get [] s.far.q 31)[1]? = some (256, true) ∧ (Tab.get [] s.far.q 31)[0]? = some (0, false) := by decide +kernel

theorem witness_FarMemoryServesMovesAndDisplaces_found :
    let f : ModFind := { passes := [1, 4], spdMax := 3, tested := true, rawBytes := 2 ^ 34, ranks := 2 }
    f.supported = true ∧ chcapOf f.rawBytes = some 3 ∧ 1 ∈ f.passes ∧ 1 ≤ f.spdMax ∧ ¬ (4 ≤ f.spdMax) ∧ ((tMod 2 0 0).module 3).state = 2 ∧
    chcapOf 0 = none := by decide +kernel

theorem witness_PowerGovernsRailsAndClocks :
    let s := { tDev with pwr := { cap := 59, quiet := some 0, rail := [(4, { lim := true, cap := 56 }), (0, { cap := 9 })] } }
    tDev.pwrState 255 = 1 ∧ bit32 (tDev.rw32 (stallPwrOff 255)) 2 = false ∧ tDev.isReq (.sp 0) = true ∧
    (600 ≤ fld32 (600 : W32) 0 16 ∧ fld32 (880 : W32) 0 16 ≤ 880) ∧ (s.rail 4).lim = true ∧ 8 < (s.rail 0).cap ∧ (s.rail 1).lim = false ∧
    s.cool.grant = none ∧ 100 * 0 < 95 * s.plimit ∧ s.pwr.cap < 60 ∧ 0 + 1000000 ≤ s.time ∧ s.pwr.rose + 1000000 ≤ s.time ∧
    s.plimit < 0xFFFF := by decide +kernel

theorem witness_PowerGovernsRailsAndClocks_due :
    let s := { tDev with pwr := { rail := [(4, { lim := true, limited := some 0 })] }, cool := { grant := some 9000000000 } }
    let u := { tOn { gated := true, clk := { stretch := true } } with pwr := { rail := [(0, { cap := 8 })] } }
    max ((s.rail 4).limited.getD 0) ((s.rail 4).rose.getD 0) + (s.rail 4).holdNow s.time * 1000000000 ≤ s.time ∧
    s.cool.grant.isSome = true ∧ s.pwr.capped = false ∧ s.pwr.exc = none ∧ 0 < s.plimit ∧ s.plimit < s.plimit + 1 ∧ s.plimit + 1 ≤ s.pexc ∧
    (u.stall 0).gated = true ∧ (u.rail 0).cap ≤ 8 ∧ (u.stall 0).clk.stretch = true ∧ ¬ (600 ≤ fld32 (599 : W32) 0 16) ∧
    fld32 (881 : W32) 0 16 = 881 := by decide +kernel

theorem witness_HeatIsMeasuredForecastAndThrottled :
    thermistorOk (-1000) = true ∧ thermistorOk 10000 = true ∧ thermistorOk 10001 = false ∧ (tDev.hall 3).rails = true ∧
    (tDev.hall 3).clamp = false ∧ tDev.pairActive 1 = true ∧ tDev.cool.sensfault = false ∧ tDev.cool.tin ≤ tDev.cool.tout + 200 ∧
    ({ tDev with cool := { sensfault := true, tin := 2500, tout := 2500 } } : State).cool.valid = true ∧
    ({ tDev with cool := { tin := 301, tout := 100 } } : State).cool.tout + 200 < 301 := by decide +kernel

theorem witness_HeatIsMeasuredForecastAndThrottled_fault :
    let s := { tDev with
      setup := [(0x20C40C / 4, 0x100)], fw := { jisan := true }
      cool := { lowflow := true, flows := [], pending := some 1, k := 9, want := 8 }
      halls := [(0, { rails := true, clamp := true, diode := 10001 }), (1, { rails := true, diode := 9500, cool := some 4900000000 }),
        (2, { rails := true, diode := 9501 })] }
    s.cool.lowflow = true ∧ s.lowFlowNow = false ∧ bit32 (s.rw32 0x20C40C) 8 = true ∧ s.cool.pending.isSome = true ∧ s.jisanRuns = true ∧
    s.cool.want < s.cool.k ∧ (s.hall 0).clamp = true ∧ 10000 < (s.hall 0).diode ∧ (s.hall 1).cool = some 4900000000 ∧
    4900000000 + 100000000 ≤ s.time ∧ (∀ l < 8, s.layerEst 1 l ≤ 95 * nano) ∧ ¬ ((s.hall 2).diode ≤ 9500) ∧ (∀ l < 8, s.layerEst 2 l ≤ 100 * nano) := by
  decide +kernel

/-! ## Witnesses: trips and starts, service, firmware, observation, registers, mailbox -/

theorem witness_HallsTripAndReturnAndStartsRun :
    let s := { tDev with halls := [(3, { tripped := true, diode := 7999 })] }
    let u := { tDev with halls := [(3, { tripped := true, rearmed := true, returning := true })] }
    (tDev.hall 3).tripped = false ∧ (tDev.hall 3).rails = true ∧ (s.hall 3).tripped = true ∧ (s.hall 3).rearmed = false ∧
    (s.hall 3).diode < 8000 ∧ (u.hall 3).returning = true ∧ (u.hall 3).rearmed = true ∧ tDev.isReq (.sp 0) = true ∧ tDev.published = true ∧
    tDev.cool.gtrip = false ∧ tDev.boot.pwrgd = true ∧ State.reset.boot.pwrgd = false ∧ tDev.warmKind ≠ 0 ∧ tDev.boot.phase ≠ 0 ∧
    tDev.dl.held = [] ∧ ({ tDev with dl := { held := [1] } } : State).dl.held ≠ [] := by decide +kernel

theorem witness_HallsTripAndReturnAndStartsRun_return :
    let x : HallSt := { tripped := true, rearmed := true, returning := true, gcap := capOf ⟨1, 1, 7, 1⟩ }
    let s := { tDev with halls := [(3, x)], net := {} }
    let lose : HallFind := { lanes := [0, 1, 2, 3].flatMap (fun a => [(12 + a, 0, 0, 40), (12 + a, 1, 8, 40)]) }
    let goes := fun (g : HallFind) (b : Bool) => (s.negotiate 3 g.cap).any (fun u =>
      u.returnFits 3 && (((u.updHall 3 (fun y => { y with rails := true })).align 3).trainLinks 3 g).linked 3 == b)
    goes {} true = true ∧ goes lose false = true ∧ s.negotiate 3 ⟨2, 2, 7, 1⟩ = none ∧
    ({ tDev with setup := [(0x20C000 / 4, 2)] } : State).trips24 3 < 3 ∧
    3 ≤ ({ tDev with halls := [(3, { trips := [1, 2, 3] })] } : State).trips24 3 := by decide +kernel

theorem witness_HallsTripAndReturnAndStartsRun_starts :
    ({ State.reset with boot := { pwrgd := true } } : State).warmKind = 0 ∧ ({ tDev with cool := { gtrip := true } } : State).cool.gtrip = true ∧
    tDev.pairActive 1 = true ∧ tDev.dl.fault = false ∧ tDev.isReq (.ld 0) = false ∧
    ({ tDev with port := { tDev.port with mld := true } } : State).isReq (.ld 0) = true := by decide +kernel

theorem witness_HallsTripAndReturnAndStartsRun_full :
    2031608 < ({ tDev with dl := { a := { recs := List.replicate 2031609 0 } } } : State).dl.a.recs.length :=
  lt_of_lt_of_eq (by norm_num) (List.length_replicate (n := 2031609)).symm

theorem witness_ServiceProcessorsFailTakeOverAndCount :
    let s := { tDev with svc := { tDev.svc with salvBusy := true } }
    let u := { tDev with svc := { sp := [(0, { role := 4 }), (1, { role := 1 }), (2, { role := 3 })] } }
    (tDev.sp 0).role = 3 ∧ (tDev.sp 1).role = 2 ∧ (tDev.sp (otherSp 0)).role = 2 ∧ (tDev.sp 0).hb + tDev.hbTimeout ≤ tDev.time ∧
    tDev.rings.items = [] ∧ tDev.pairActive 0 = true ∧ (u.sp 0).role = 4 ∧ u.pairActive 1 = true ∧ u.pairActive 0 = false ∧
    s.svc.salvBusy = true ∧ tDev.hostKernel 255 = false ∧ (tDev.fpOf 255).state = 0 ∧ tDev.inStep 255 = false ∧ svcWriter .host = true ∧
    bit32 (0x1FF : W32) 8 = true ∧ fld32 (0x1FF : W32) 0 8 = 255 ∧ tDev.boot.pwrgd = true := by decide +kernel

/-- A salvage of stall 0 to stall 1, lines 0 and 1 of stall 0 valid. -/
def tSalvage (pois : NSet) : State := { tDev with
  setup := [(0x2110 / 4, 0x100)], fp := [(0, { state := 2, cause := 9 })], svc := { tDev.svc with salvBusy := true }, pt := { tDev.pt with ctl := [(0, { quiesce := true })] }
  mem := { sliceValid := [0, 1], slicePois := pois } }

theorem witness_ServiceProcessorsFailTakeOverAndCount_salvage :
    (tSalvage []).salvageOk 0 1 = true ∧ ((tSalvage []).sliceFault 0 256).isSome = false ∧ ((tSalvage [8]).sliceFault 256 256).isSome = true ∧
    fld32 ((tSalvage []).rw32 0x2110) 8 8 = 1 ∧ (tSalvage []).dropsSlice 0x10000000 = false ∧ tDev.salvageOk 0 1 = false ∧
    1 < min 1048576 (min (tDev.sliceOf 0).u (tDev.sliceOf 1).u / 256) := by decide +kernel

theorem witness_ServiceProcessorsFailTakeOverAndCount_ledger :
    let k : CkPt := { gen := 1, jpos := 0, preset := [], jis := [] }
    let s := { tDev with
      svc := { tDev.svc with pair := [(0, { a := some k })], online := some 1, retire := [3] }
      fw := { upd := 1 }, ledger := { fault := true, flushed := some 4000000000, cyc := [(hallRec 0 1, (2000, 4000))] } }
    (s.pair 0).latest = some k ∧ s.svc.online = some 1 ∧ s.svc.retire.contains 3 = true ∧ s.fw.upd = 1 ∧ s.ledger.fault = true ∧
    s.time < 4000000000 + 60000000000 ∧ (2000 : Int) + 2000 ≤ 4000 ∧ Tab.find s.ledger.cyc (hallRec 0 1) = some (2000, 4000) ∧
    s.fails24 0 < 2 ∧ 2 ≤ ({ s with svc := { s.svc with sp := [(0, { role := 3, fails := [1, 2] })] } } : State).fails24 0 := by decide +kernel

theorem witness_ServiceProcessorsFailTakeOverAndCount_none : ∀ n, tDev.stallOut n = false := fun _ => rfl

/-- A PLDM session in the stage given, with an update of 5,000 bytes of slot 1 of which `got` have come. -/
def tUpd (pldm upd got : Nat) (ready : List Nat) : State := { tDev with
  fw := { pldm := pldm, upd := upd, upSlot := 1, upLen := 5000, upGot := got, ready := ready } }

theorem witness_FirmwareUpdatesTransferVerifyAndActivate :
    tDev.mctpUp = true ∧ tDev.updBusy = false ∧ tDev.fw.pldm = 0 ∧ (tUpd 1 0 0 []).fw.pldm = 1 ∧ (tUpd 2 0 0 [1]).fw.ready ≠ [] ∧
    2 * (1 - 1) + (tUpd 2 0 0 []).inactive 0 < 4 ∧ 0 < slotBytes 1 ∧ (tUpd 3 1 4096 []).fw.upGot + (904 : Nat) = 5000 ∧
    min 4096 (5000 - 4096) = 904 ∧ (tUpd 3 1 5000 []).fw.upLen ≤ (tUpd 3 1 5000 []).fw.upGot ∧ (tUpd 4 3 0 []).fw.upd = 3 := by decide +kernel

theorem witness_FirmwareUpdatesTransferVerifyAndActivate_mailbox :
    let s := { tDev with fw := { upd := 1, upMbox := true, upSlot := 1, upGot := 8, rec_ := { slots := [0, 2, 0, 2] } } }
    let u := { tDev with fw := { gslot := some 0, rec_ := { run := [1, 0xFF], pend := [0, 0xFF], slots := [2, 0, 0, 0] } }, setup := [(0x1108 / 4, 2)] }
    s.hasMbox 0 = true ∧ s.hasMbox 1 = false ∧ s.fwMbox 0 = true ∧ ({ tDev with port := { tDev.port with mld := true } } : State).fwMbox 0 = false ∧
    8 + (8 : Nat) ≤ slotBytes 1 ∧ s.updBusy = true ∧ tDev.inactive 0 = 0 ∧ s.fw.rec_.slots.getD 1 0 = 2 ∧ s.fw.rec_.slots.getD 3 0 = 2 ∧
    s.onlineOff = false ∧ ({ s with fw := { disable := 1024 } } : State).onlineOff = true ∧
    u.trial 0 = true ∧ u.trial 1 = false ∧ bit32 (u.rw32 0x1108) 1 = true ∧ (∀ h < 4, (u.hall h).tripped = false) := by decide +kernel

/-- Monitor 0 of stall 0 set up for source 1, a first bin of 5 and a window of 10. -/
def tMon (src win : Nat) : State := { tDev with setup := [(0x300000 / 4, BitVec.ofNat 32 src), (0x300008 / 4, BitVec.ofNat 32 win)] }

theorem witness_MonitorCommitsTakeEffectAtTheBoundary :
    inReq .host = true ∧ tDev.isReq .host = true ∧ tDev.fw.recovery = false ∧ fwWriter .host = true ∧ bit32 (1 : W32) 0 = true ∧
    (tMon 1 0xA0005).rw64 (monBase 0) = 1 ∧ fld ((tMon 1 0xA0005).rw64 (monBase 0 + 8)) 0 16 = 5 ∧
    fld ((tMon 1 0xA0005).rw64 (monBase 0 + 8)) 16 20 = 10 ∧ fld ((tMon 7 0xA0005).rw64 (monBase 0)) 0 8 = 7 ∧
    (tDev.monitor 0).pending = false := by decide +kernel

theorem witness_MonitorsTracersAndInjectorsRun :
    tDev.isReq .host = true ∧ tDev.isReq (.sp 0) = true ∧ tDev.unlocked = false ∧
    ({ tDev with setup := [(0x380000 / 4, 0x3C01)] } : State).unlocked = true ∧ (tDev.stall 255).sel.st = 0 := by decide +kernel

/-- The event machine of stall 0: state, settings, positions and buffer. -/
def tSel (st : Nat) (cfg : Word) (buf : List Byte) : State := tOn { sel := { st := st, cfg := cfg, sink := 12 * 2 ^ 26, buf := buf } }

theorem witness_MonitorsTracersAndInjectorsRun_trace :
    let s := { tOn {} with setup := [((stallBase 0 + 0x400) / 4, 1), ((stallBase 0 + 0x41C) / 4, 0), ((stallBase 0 + 0x418) / 4, 0x30000000)] }
    let lvl := { tDev with obs := { mon := [(512, { cfg := 0x226 })] }, pwr := { p1 := 77 } }
    s.selSink 0 = some 0 ∧ tDev.selSink 0 = none ∧ tDev.isReq .host = true ∧ (tDev.fpOf 0).state = 0 ∧ (tDev.hall 0).cutoff = false ∧
    ((tSel 1 1 []).sel 0).st = 1 ∧ ((tSel 2 0x401 []).sel 0).st = 2 ∧ fld ((tSel 2 0xC01 []).sel 0).cfg 10 3 = 3 ∧
    (0 : Word).toNat ≤ ((tSel 2 0xC01 []).sel 0).pairs ∧ ((tSel 2 1 []).sel 0).sync + 4096 * max 1 0 ≤ (tSel 2 1 []).cycle 0 ∧
    ((tSel 2 1 []).syncBytes 0).length ≤ 4096 ∧ ((tSel 3 1 [7]).sel 0).buf = [7] ∧ ((tSel 3 1 [7]).stall 0).porter 1 = {} ∧
    2 ^ fld ((tSel 3 1 [7]).sel 0).sink 26 5 = 4096 ∧ bit ((tSel 3 0x11 [7]).sel 0).cfg 4 = true ∧ (tSel 3 0x11 [7]).bme 0 = true ∧
    bit (lvl.monitor 512).cfg 9 = true ∧ lvl.level 512 (lvl.monitor 512) = some 77 ∧ srcLevel 0x26 = true ∧ srcLevel 1 = false := by decide +kernel

theorem witness_MonitorsTracersAndInjectorsRun_full :
    let s := tSel 2 0x21 (List.replicate 2049 0)
    2048 ≤ (s.sel 0).buf.length ∧ bit (s.sel 0).cfg 5 = true ∧ bit (s.sel 0).cfg 4 = false ∧ bit (s.sel 0).cfg 6 = false ∧
    ((tOn { sel := { wptr := 4096, cfg := 0x21, sink := 12 * 2 ^ 26 } }).sel 0).wptr.toNat = 2 ^ 12 := by decide +kernel

theorem witness_RegistersAndPortsAnswer :
    tDev.isReq .host = true ∧ tDev.fw.recovery = false ∧ inBar 0 0x3FFFFF8 = true ∧ inBar 4 0x3FFFF8 = true ∧ inCrier 0x3C00310 = true ∧
    tDev.crierAt 0x3C00310 ≠ none ∧ tDev.crierAt 0x2000000 ≠ none ∧ tDev.platform = some 2 ∧ tDev.mayRead (.sp 2) 0x100 = true ∧
    regFormat 0x100 3 true = true ∧ tDev.isFn 0 = true ∧ tDev.boot.phase ≠ 0 ∧ tDev.isLd 0 = true ∧ tDev.cxlServed 0 = true ∧
    tDev.backed (tDev.placeDpa 0 0) = true ∧ tDev.placeFault (tDev.placeDpa 0 0) 64 = none ∧ tDev.placeValid (tDev.placeDpa 0 0) = false ∧
    tWritten.placeValid (tWritten.placeDpa 0 0) = true ∧ tDev.placeHeld (tDev.placeDpa 0 0) = false ∧
    tDev.backed (tDev.placeDpa 0 0xFE00000) = false := by decide +kernel

/-- Under CXL with decoder 0 of the one logical device over its first gibibyte at host address 2^40, one way of 256 bytes. -/
def tHdm (mem : MemSt) : State := { tDev with
  port := { tDev.port with hdm := [(0, { hpa := 2 ^ 40, base := 0, size := 2 ^ 28, ways := 2, gran := 256, lock := true })] }, mem := mem }

theorem witness_RegistersAndPortsAnswer_cxl :
    let s := tHdm { sliceValid := [0], slice := [(0, 7)], slicePois := [8], lost := [1] }
    let d : HdmSet := { hpa := 0, base := 0, size := 2 ^ 28, ways := 1, gran := 256, lock := false }
    s.cxlServed 0 = true ∧ s.hpaDpa 0 (2 ^ 40) = some 0 ∧ s.hpaDpa 0 (2 ^ 40 + 513) = some 257 ∧ s.hpaDpa 0 (2 ^ 40 + 300) = some 44 ∧
    s.hpaDpa 0 0 = none ∧ s.placeDpa 0 0 = .slice 0 0 ∧ s.placeFault (s.placeDpa 0 0) 64 = none ∧ s.placeValid (s.placeDpa 0 0) = true ∧
    (s.placeFault (s.placeDpa 0 256) 64).isSome = true ∧ s.backed (s.placeDpa 0 256) = true ∧
    s.placeHeld (s.placeDpa 0 0) = false ∧ s.placeHeld ((s.placeDpa 0 0).plus 32) = false ∧ s.backed (s.placeDpa 0 0xFE00000) = false ∧
    tDev.port.hdm = [] ∧ s.hdmOk 0 d = tDev.hdmOk 0 d := by decide +kernel

theorem witness_RegistersAndPortsAnswer_foreign :
    let s := { tDev with port := { tDev.port with mld := true } }
    tDev.isReq (.ld 1) = false ∧ s.isReq (.ld 1) = true ∧ s.mayWrite (.ld 1) 0x100 = false ∧
    tDev.boot.pwrgd = true ∧ State.reset.boot.pwrgd = false ∧ tDev.isFn 1 = false ∧ (tDev.slot 0 0).busy = false ∧ goodSize 0x10 3 = false ∧
    (tDev.ring 0 0).enable = false := by decide +kernel

theorem witness_MailboxAndFabricManagerAnswer :
    tDev.hasMbox 0 = true ∧ tDev.hasMbox 1 = false ∧ tDev.fw.recovery = false ∧ tDev.backed (tDev.placeDpa 0 0) = true ∧
    tDev.placeHeld (tDev.placeDpa 0 0) = false ∧ tDev.boot.phase = 9 ∧ State.reset.boot.phase ≠ 9 ∧ tDev.port.mld = false ∧
    (tDev.recsOf 0 3).length = 0 := by decide +kernel

/-! ## A command that names a unit the device does not have is refused, one term for each check -/

theorem test_illformed_stall : WellFormed (.arrayCold 256) = false ∧ WellFormed (.arrayCold 255) = true := by decide
theorem test_illformed_thread : WellFormed (.snop 0 4) = false ∧ WellFormed (.snop 255 3) = true := by decide
theorem test_illformed_pitch : WellFormed (.flr 16) = false ∧ WellFormed (.flr 15) = true := by decide
theorem test_illformed_ring : WellFormed (.ringEnable .host 0 64) = false ∧ WellFormed (.ringEnable .host 15 63) = true := by decide
theorem test_illformed_hall : WellFormed (.refreshSlot 4) = false ∧ WellFormed (.refreshSlot 3) = true := by decide
theorem test_illformed_link : WellFormed (.retrain .host 16) = false ∧ WellFormed (.retrain .host 15) = true := by decide
theorem test_illformed_pair : WellFormed (.checkpoint 2) = false ∧ WellFormed (.checkpoint 1) = true := by decide
theorem test_illformed_group : WellFormed (.laneTest 0 0 16 [] true) = false ∧ WellFormed (.laneTest 0 1 15 [] true) = true := by decide
theorem test_illformed_channel : WellFormed (.farChannelAccess 32 ⟨true, .served⟩) = false ∧ WellFormed (.farChannelAccess 31 ⟨true, .served⟩) = true := by decide
theorem test_illformed_rail : WellFormed (.railLimited 5) = false ∧ WellFormed (.railLimited 4) = true := by decide
theorem test_illformed_domain : WellFormed (.domainEstimate 1096 0) = false ∧ WellFormed (.domainEstimate 1095 0) = true := by decide
theorem test_illformed_port : WellFormed (.ethernetPortDown 8) = false ∧ WellFormed (.ethernetPortDown 7) = true := by decide
theorem test_illformed_device : WellFormed (.rtoExpiry 65536 0) = false ∧ WellFormed (.rtoExpiry 65535 0) = true := by decide
theorem test_illformed_monitor : WellFormed (.windowBoundary 576) = false ∧ WellFormed (.windowBoundary 575) = true := by decide
theorem test_illformed_log : WellFormed (.eventLogEntryRead .host 1024) = false ∧ WellFormed (.eventLogEntryRead .host 1023) = true := by decide
theorem test_illformed_bar :
    WellFormed (.lowHalfRead .host 4 0x400000) = false ∧ WellFormed (.lowHalfRead .host 1 0) = false ∧
    WellFormed (.lowHalfRead .host 0 0x3FFFFFF) = true := by decide
theorem test_illformed_crier :
    WellFormed (.crierRead .host 0x1FFFFFF 8) = false ∧ WellFormed (.crierRead .host 0x2000000 8) = true := by decide
theorem test_illformed_requester : WellFormed (.vsetWrite (.sp 4) 0 0) = false ∧ WellFormed (.vsetWrite (.ld 16) 0 0) = false := by decide
theorem test_illformed_owner :
    WellFormed (.takeTally (.thread 0 4)) = false ∧ WellFormed (.takeTally (.desc 16 0 0)) = false ∧
    WellFormed (.takeTally (.porter 0 2 0)) = false ∧ WellFormed (.takeTally (.remote 65536 0 0)) = false := by decide
theorem test_illformed_unit :
    WellFormed (.poisonReadback (.slice 0 0x10000000) .scrub ⟨[], []⟩) = false ∧ WellFormed (.poisonReadback (.tile 0 32 0 0) .scrub ⟨[], []⟩) = false ∧
    WellFormed (.poisonReadback (.fcache 0 12 0) .scrub ⟨[], []⟩) = false ∧ WellFormed (.poisonReadback (.tile 0 31 31 7) .scrub ⟨[], []⟩) = true := by decide
theorem test_illformed_who :
    WellFormed (.poisonReadback (.slice 0 0) (.window 0 64) ⟨[], []⟩) = false ∧ WellFormed (.poisonReadback (.slice 0 0) (.porter 0 1) ⟨[], []⟩) = true := by
  decide
theorem test_illformed_frame :
    WellFormed (.probeFrame { tFrame with tp := 16 }) = false ∧ WellFormed (.probeFrame { tFrame with port := 8 }) = false ∧
    WellFormed (.probeFrame tFrame) = true := by decide

/-! ## Single steps, with results worked out by hand -/

/-- The state a command leaves. -/
def tAfter (c : Instr) (s : State) : State :=
  match step { s with pending := [c] } with
  | .next t => t
  | _ => State.reset

/-- 06: 0x100 - 0x2C0 wraps modulo 2^64. -/
theorem test_sub_wraps : ((tAfter (.subG 0 0 3 1 2) (tRun tScalar)).thread 0 0).gr 3 = 0xFFFFFFFFFFFFFE40 := by decide +kernel

/-- 06: a register right shift by 0x100 moves by the low six bits, 0. -/
theorem test_shift_takes_six_bits : ((tAfter (.srlG 0 0 3 2 1) (tRun tScalar)).thread 0 0).gr 3 = 0x2C0 := by decide +kernel

/-- 06: a write to g0 is dropped, and the next pair follows. -/
theorem test_g0_reads_zero :
    ((tAfter (.addG 0 0 0 1 2) (tRun tScalar)).thread 0 0).gr 0 = 0 ∧
    ((tAfter (.addG 0 0 0 1 2) (tRun tScalar)).thread 0 0).npc = 0x1010 := by decide +kernel

/-- 06: a division by zero gives all ones. -/
theorem test_div_by_zero : ((tAfter (.divuG 0 0 3 1 0) (tRun tScalar)).thread 0 0).gr 3 = 0xFFFFFFFFFFFFFFFF := by decide +kernel

/-- A command that names no unit stops, and an idle step is one nanosecond. -/
theorem test_stop_and_idle :
    step { tDev with pending := [.refreshSlot 4] } = .fault .noSuchUnit ∧ (step tDev = .next { tDev with time := 5000000001 }) := ⟨rfl, rfl⟩

/-- 22: an access of 3 bytes at BAR0 offset 0x10 is counted, with its offset, direction, size code and BAR. -/
theorem test_bad_size_is_counted :
    ((tAfter (.barAccessBadSize .host 0 0x10 3 true) tDev).reqSt .host).cnt = 1 := by decide +kernel

/-- 22: a read of the count clears it. -/
theorem test_read_clears_the_count :
    ((tAfter (.readClear .host 0 0x28 4) (tAfter (.barAccessBadSize .host 0 0x10 3 true) tDev)).reqSt .host).cnt = 0 := by decide +kernel

end Sys2Proof.Tests
end

section
/-!
SUPPORT. Registers and ports: what an access of a BAR, of a crier range, over MCTP, of configuration space and by CXL.mem does (00, 02, 22), up to
the statement RegistersAndPortsAnswer.
-/
namespace Sys2Proof.Machine

/-! ## The commands of the ports, where their units exist -/

section
variable {s : State} {q : Req} {bar off size bytes ld dec : Nat} {v : Word}

theorem exec_readClear (hq : inReq q = true) (hb : inBar bar off = true) :
    exec (.readClear q bar off size) s = .next (s.anyRead q bar off size) := by
  change run (inReq q && inBar bar off) _ = _
  simp [hq, hb]

theorem exec_lowHalfRead (hq : inReq q = true) (hb : inBar bar off = true) :
    exec (.lowHalfRead q bar off) s = .next (s.anyRead q bar off 4) := by
  change run (inReq q && inBar bar off) _ = _
  simp [hq, hb]

theorem exec_setupRegisterWrite {f : Find} (hq : inReq q = true) (hb : inBar bar off = true) :
    exec (.setupRegisterWrite q bar off size v f) s =
      .next (if bar = 0 ∧ inCrier off then s.crierWrite q off size v else s.barWrite q f bar off size v) := by
  change run (inReq q && inBar bar off) _ = _
  simp [hq, hb]

theorem exec_barAccessBadSize {wr : Bool} (hq : inReq q = true) (hb : inBar bar off = true) :
    exec (.barAccessBadSize q bar off bytes wr) s =
      .next (if !s.isReq q ∨ bar ≠ 0 ∧ !reqIsHost q ∨ goodSize off bytes then s else s.badAccess q bar off bytes wr) := by
  change run (inReq q && inBar bar off) _ = _
  simp [hq, hb]

theorem exec_crierWrite (hq : inReq q = true) (hc : inCrier off = true) :
    exec (.crierWrite q off size v) s = .next (s.crierWrite q off size v) := by
  change run (inReq q && inCrier off) _ = _
  simp [hq, hc]

theorem exec_crierRead (hq : inReq q = true) (hc : inCrier off = true) :
    exec (.crierRead q off size) s = .next (s.crierRead q off size) := by
  change run (inReq q && inCrier off) _ = _
  simp [hq, hc]

theorem exec_hdmDecoderCommit {d : HdmSet} (hl : ld < 16) (hd : dec < 2) :
    exec (.hdmDecoderCommit ld dec d) s =
      .next (if !s.port.cxl ∨ !s.isLd ld then s
        else if (Tab.find s.port.hdm (2 * ld + dec)).any (fun x => x.lock) ∨ !s.hdmOk ld d then { s with out := .resp 1 [] }
        else { s with port := { s.port with hdm := Tab.set s.port.hdm (2 * ld + dec) d }, out := .resp 0 [] }) := by
  change run (inPitch ld && inTwo dec) _ = _
  simp [inPitch, inTwo, hl, hd]

theorem exec_cxlMemRead (hl : ld < 16) :
    exec (.cxlMemRead ld off) s = .next (s.cxlAt ld off (fun s a => s.cxlRead ld a)) := by
  change run (inPitch ld) _ = _
  simp [inPitch, hl]

theorem exec_cxlMemWrite {data : Row} (hl : ld < 16) :
    exec (.cxlMemWrite ld off data) s =
      .next (s.cxlAt ld off (fun s a => s.cxlStore ld a (fun s pl => (s.wrPlace pl (rowBytes data)).s))) := by
  change run (inPitch ld) _ = _
  simp [inPitch, hl]

theorem exec_memWrPtl {data : Row} {be : Word} (hl : ld < 16) :
    exec (.memWrPtl ld off data be) s =
      .next (s.cxlAt ld off (fun s a => s.cxlStore ld a (fun s pl =>
        [0, 1].foldl (fun s w => s.partWord ld (a / 64 * 64) pl (rowBytes data) be w) s))) := by
  change run (inPitch ld) _ = _
  simp [inPitch, hl]

end

/-! ## Access errors -/

theorem Observed.req {s t : State} (h : Observed s t) : t.req = s.req := by
  have e := congrArg State.req h.1
  exact e

/-- The record an access error makes of its requester (22 R468, R469). -/
def ReqSt.recorded (r : ReqSt) (bar off bytes : Nat) (wr : Bool) : ReqSt :=
  { r with
    cnt := if r.cnt = BitVec.allOnes 32 then r.cnt else r.cnt + 1
    info := if r.cnt = 0 then pack [(off, 0, 26), (ofBool wr, 26, 1), (sizeCode bytes, 27, 3), (barCode bar, 30, 2)] else r.info }

/-- An access error is the record of its requester and, at the first one, an event. -/
theorem accessError_observed (s : State) (q : Req) (bar off bytes : Nat) (wr : Bool) :
    Observed (s.updReq q (·.recorded bar off bytes wr)) (s.accessError q bar off bytes wr) := by
  have recorded_here : (s.updReq q fun r => { r with
      cnt := if r.cnt = BitVec.allOnes 32 then r.cnt else r.cnt + 1
      info := if (s.reqSt q).cnt = 0 then
        pack [(off, 0, 26), (ofBool wr, 26, 1), (sizeCode bytes, 27, 3), (barCode bar, 30, 2)] else (s.reqSt q).info }) =
      s.updReq q (·.recorded bar off bytes wr) := rfl
  unfold State.accessError
  simp only
  rw [recorded_here]
  split
  · cases q
    · exact raiseEvent_observed ..
    · exact raiseEvent_observed ..
    · exact .refl _
  · exact .refl _

@[simp] theorem reqSt_updReq (s : State) (q : Req) (f : ReqSt → ReqSt) : (s.updReq q f).reqSt q = f (s.reqSt q) := by
  simp [State.reqSt, State.updReq]

theorem reqSt_accessError (s : State) (q : Req) (bar off bytes : Nat) (wr : Bool) :
    (s.accessError q bar off bytes wr).reqSt q = (s.reqSt q).recorded bar off bytes wr := by
  rw [← reqSt_updReq s q (·.recorded bar off bytes wr), State.reqSt, (accessError_observed ..).req]
  rfl

theorem accessError_setup (s : State) (q : Req) (bar off bytes : Nat) (wr : Bool) :
    (s.accessError q bar off bytes wr).setup = s.setup := (accessError_observed ..).setup

theorem ReqSt.recorded_cnt (r : ReqSt) (bar off bytes : Nat) (wr : Bool) :
    (r.recorded bar off bytes wr).cnt.toNat = min 0xFFFFFFFF (r.cnt.toNat + 1) := by
  unfold ReqSt.recorded
  dsimp only
  split
  · rename_i h; rw [h]; rfl
  · rename_i h
    have h' : r.cnt.toNat ≠ 4294967295 := fun e => h (BitVec.eq_of_toNat_eq e)
    have := r.cnt.isLt
    rw [BitVec.toNat_add, show (1 : W32).toNat = 1 from rfl]
    omega

/-- An entry of the event log that enters no CXL event log leaves the set-up registers. -/
theorem logEvent_nil_setup (s : State) (e : LogEnt) : (s.logEvent e []).setup = s.setup := by
  have raise : ∀ (t : State) (p : Nat), (t.raiseEvent p).setup = t.setup := fun t p => (raiseEvent_observed t p).setup
  unfold State.logEvent
  simp only [List.foldl_nil, ite_self]
  split
  · split
    · exact raise ..
    · split
      · rfl
      · exact raise ..
  · rfl

theorem logFree_setup (s : State) : s.logFree.setup = s.setup := logEvent_nil_setup ..

theorem foreignWrite_setup (s : State) (q : Req) : (s.foreignWrite q).setup = s.setup := by
  cases q with
  | sp i => simp only [State.foreignWrite]; split <;> simp [logFree_setup]
  | host => rfl
  | ld p => rfl

/-! ## Accesses that are refused whole -/

section
variable {s : State} {q : Req} {bar off size : Nat} {v : Word} {f : Find}

/-- Requester q exists, and BAR `bar` is one it reaches (22 R466). -/
def State.reaches (s : State) (q : Req) (bar : Nat) : Prop := s.isReq q = true ∧ (bar = 0 ∨ reqIsHost q = true)

theorem absent_or_foreign_of_not_reaches (h : ¬ s.reaches q bar) : s.isReq q = false ∨ bar ≠ 0 ∧ reqIsHost q = false := by
  cases hr : s.isReq q
  · exact .inl rfl
  · refine .inr ⟨fun e => h ⟨hr, .inl e⟩, ?_⟩
    cases hh : reqIsHost q
    · rfl
    · exact absurd ⟨hr, .inr hh⟩ h

theorem anyRead_of_not_reaches (h : ¬ s.reaches q bar) : s.anyRead q bar off size = s := by
  rcases absent_or_foreign_of_not_reaches h with hr | ⟨hb, hh⟩
  · simp [State.anyRead, State.crierRead, State.barRead, hr]
  · simp [State.anyRead, State.barRead, hb, hh]

theorem anyRead_badSize (h : s.reaches q bar) (hg : goodSize off size = false) :
    s.anyRead q bar off size = s.badAccess q bar off size false := by
  obtain ⟨hr, hb⟩ := h
  unfold State.anyRead
  split
  · rename_i hc
    simp [State.crierRead, hr, hg, hc.1]
  · rcases hb with hb | hb <;> simp [State.barRead, hr, hb, hg]

theorem barWrite_absent (hr : s.isReq q = false) : s.barWrite q f bar off size v = s.foreignWrite q := by
  simp [State.barWrite, hr]

theorem crierWrite_absent (hr : s.isReq q = false) : s.crierWrite q off size v = s.foreignWrite q := by
  simp [State.crierWrite, hr]

theorem barWrite_badSize (h : s.reaches q bar) (hg : goodSize off size = false) :
    s.barWrite q f bar off size v = s.accessError q bar off size true := by
  obtain ⟨hr, hb⟩ := h
  rcases hb with hb | hb <;> simp [State.barWrite, State.badAccess, hr, hb, hg]

end

/-! ## Reads of BAR0 -/

/-- What a read leaves as it is, whatever counts as read by it. -/
structure ReadKeeps (s t : State) : Prop where
  setup : t.setup = s.setup
  mem : t.mem = s.mem
  items : t.rings.items = s.rings.items
  outbox : t.outbox = s.outbox

theorem ReadKeeps.refl (s : State) : ReadKeeps s s := ⟨rfl, rfl, rfl, rfl⟩

theorem ReadKeeps.trans {s t u : State} (h : ReadKeeps s t) (g : ReadKeeps t u) : ReadKeeps s u :=
  ⟨g.setup.trans h.setup, g.mem.trans h.mem, g.items.trans h.items, g.outbox.trans h.outbox⟩

theorem ReadKeeps.ite {s t u : State} {c : Prop} [Decidable c] (h : ReadKeeps s t) (g : ReadKeeps s u) :
    ReadKeeps s (if c then t else u) := by
  split
  · exact h
  · exact g

/-- Every branch of what a read does changes a count, a mark or a stall, and none of these. -/
theorem readTouch_keeps (s : State) (q : Req) (off : Nat) : ReadKeeps s (s.readTouch q off) := by
  unfold State.readTouch
  extract_lets p land
  repeat' refine ReadKeeps.ite ?_ ?_
  all_goals exact ⟨rfl, rfl, rfl, rfl⟩

section
variable {s : State} {q : Req} {off size : Nat} {w : Word}

theorem anyRead_bar0 (hr : s.isReq q = true) (hc : inCrier off = false) (hg : goodSize off size = true) :
    s.anyRead q 0 off size = { (s.readBar0 q off size).1 with out := .reg (s.readBar0 q off size).2 } := by
  simp [State.anyRead, State.barRead, hr, hc, hg]

theorem readBar0_denied (h : s.mayRead q off = false) (h8 : size = 8 → s.mayRead q (off + 4) = false) :
    s.readBar0 q off size = (s, 0) := by
  unfold State.readBar0
  by_cases e : size = 8 <;> simp_all

/-- A register of 32 bits. -/
theorem readBar0_narrow (h : s.mayRead q off = true) (hn : s.regWide q (off / 8 * 8) = none) :
    s.readBar0 q off 4 = (s.readTouch q off, ((s.regNarrow q off).getD 0).setWidth 64) := by
  simp [State.readBar0, State.dword, h, hn]

/-- The state after a read of the low half or of the whole of a 64-bit register: its high half is latched (00 R8). -/
def State.latched (s : State) (q : Req) (off : Nat) (w : Word) : State :=
  { (s.readTouch q off).readTouch q (off + 4) with shadow := Tab.set s.shadow (shadowKey q 0 off) ((w >>> 32).setWidth 32) }

theorem latched_keeps (s : State) (q : Req) (off : Nat) (w : Word) : ReadKeeps s (s.latched q off w) := by
  obtain ⟨h1, h2, h3, h4⟩ := (readTouch_keeps s q off).trans (readTouch_keeps (s.readTouch q off) q (off + 4))
  exact ⟨h1, h2, h3, h4⟩

theorem wordOf_halves (w : Word) :
    wordOf ((w.setWidth 32).toNat + 4294967296 * ((w >>> 32).setWidth 32).toNat) = w := by
  apply BitVec.eq_of_toNat_eq
  have := w.isLt
  simp only [wordOf, BitVec.toNat_ofNat, BitVec.toNat_setWidth, BitVec.toNat_ushiftRight, Nat.shiftRight_eq_div_pow]
  omega

theorem setWidth_low (w : Word) : (w.setWidth 32).setWidth 64 = w &&& 0xFFFFFFFF := by
  apply BitVec.eq_of_toNat_eq
  rw [BitVec.toNat_and, show (0xFFFFFFFF : Word).toNat = 2 ^ 32 - 1 from rfl, Nat.and_two_pow_sub_one_eq_mod]
  simp only [BitVec.toNat_setWidth]
  omega

/-- The dwords of a 64-bit register. -/
theorem dword_wide (hw : s.regWide q (off / 8 * 8) = some w) : s.dword q off = halfAt w off := by
  simp [State.dword, hw]

theorem readBar0_wide (h : s.mayRead q off = true) (h0 : off % 8 = 0) (hw : s.regWide q off = some w) :
    s.readBar0 q off 8 = (s.latched q off w, w) ∧ s.readBar0 q off 4 = (s.latched q off w, w &&& 0xFFFFFFFF) := by
  have h8 : off / 8 * 8 = off := by omega
  have low : s.dword q off = w.setWidth 32 := by
    rw [dword_wide (w := w) (by rw [h8, hw])]; simp [halfAt, h0]
  have high : s.dword q (off + 4) = (w >>> 32).setWidth 32 := by
    rw [dword_wide (w := w) (by rw [show (off + 4) / 8 * 8 = off by omega, hw])]; simp [halfAt, show (off + 4) % 8 = 4 by omega]
  constructor
  · simp only [State.readBar0, h, h8, hw, low, high, wordOf_halves]
    rfl
  · simp only [State.readBar0, h, h8, hw, low, high, setWidth_low]
    simp [h0, State.latched]

theorem readBar0_high (h : s.mayRead q off = true) (h4 : off % 8 = 4) (hw : s.regWide q (off - 4) = some w) :
    s.readBar0 q off 4 = (s, (Tab.get 0 s.shadow (shadowKey q 0 (off - 4))).setWidth 64) := by
  simp [State.readBar0, h, h4, show off / 8 * 8 = off - 4 by omega, hw]

/-- An aligned read of BAR0 outside the crier ranges, as the command sees it. -/
theorem exec_read_bar0 (hq : inReq q = true) (hr : s.isReq q = true) (hc : inCrier off = false) (ho : off < 0x4000000) :
    (goodSize off size = true →
      exec (.readClear q 0 off size) s = .next { (s.readBar0 q off size).1 with out := .reg (s.readBar0 q off size).2 }) ∧
    (off % 4 = 0 → exec (.lowHalfRead q 0 off) s = .next { (s.readBar0 q off 4).1 with out := .reg (s.readBar0 q off 4).2 }) := by
  have hb : inBar 0 off = true := by simp [inBar, ho]
  refine ⟨fun hg => ?_, fun h4 => ?_⟩
  · rw [exec_readClear hq hb, anyRead_bar0 hr hc hg]
  · rw [exec_lowHalfRead hq hb, anyRead_bar0 hr hc (by simp [goodSize, h4])]

/-- What the statement asks of a read that returns w. -/
def Reads (s : State) (a : Ans) (w : Word) : Prop :=
  Completes a (fun t => t.out = .reg w ∧ t.setup = s.setup ∧ t.mem = s.mem ∧ t.rings.items = s.rings.items)

theorem ReadKeeps.reads {t : State} (h : ReadKeeps s t) : Reads s (.next { t with out := .reg w }) w :=
  ⟨_, rfl, rfl, h.setup, h.mem, h.items⟩

/-- Outside recovery the host under SLD and the service processors read every register outside the MSI-X table. -/
theorem mayRead_of_open (hrec : s.fw.recovery = false) (hq : reqIsSp q = true ∨ q = .host) (ho : off < 0xF0000 ∨ 0x100000 ≤ off) :
    s.mayRead q off = true := by
  have h : ¬ (0xF0000 ≤ off ∧ off < 0x100000) := by omega
  cases q <;> simp_all [State.mayRead, reqIsSp]

theorem exec_read_narrow4 (hq : inReq q = true) (hr : s.isReq q = true) (hm : s.mayRead q off = true) (hc : off < 0x2000000)
    (h4 : off % 4 = 0) (hn : s.regWide q (off / 8 * 8) = none) :
    exec (.readClear q 0 off 4) s = .next { s.readTouch q off with out := .reg (((s.regNarrow q off).getD 0).setWidth 64) } := by
  rw [(exec_read_bar0 hq hr (by simp [inCrier]; omega) (by omega)).1 (by simp [goodSize, h4]), readBar0_narrow hm hn]

theorem exec_read_wide8 (hq : inReq q = true) (hr : s.isReq q = true) (hm : s.mayRead q off = true) (hc : inCrier off = false)
    (ho : off < 0x4000000) (h0 : off % 8 = 0) (hw : s.regWide q off = some w) :
    exec (.readClear q 0 off 8) s = .next { s.latched q off w with out := .reg w } := by
  rw [(exec_read_bar0 hq hr hc ho).1 (by simp [goodSize, h0]), (readBar0_wide hm h0 hw).1]

end

/-- Reads of the counts that clear as they are read (00 R7; 12 R278; 15 R341; 16 R364; 22 R468), and of the timebase. -/
theorem reads_clear_counts {s : State} {q : Req} (hq : inReq q = true) (ho : s.setupOpen q) (hp : reqIsSp q = true ∨ q = .host) :
    Reads s (exec (.readClear q 0 0x28 4) s) ((s.reqSt q).cnt.setWidth 64) ∧
    Completes (exec (.readClear q 0 0x28 4) s) (fun t => (t.reqSt q).cnt = 0) ∧
    Completes (exec (.readClear q 0 0x6000 4) s) (fun t => t.integ = { s.integ with overrun := 0 }) ∧
    Completes (exec (.readClear q 0 0x202180 4) s) (fun t => t.pwr = { s.pwr with overrun := 0 }) ∧
    Completes (exec (.readClear q 0 0x20C500 4) s) (fun t => t.cool = { s.cool with overrun := 0 }) ∧
    Completes (exec (.readClear q 0 0x100 8) s) (fun t => t.out = .reg (BitVec.ofNat 64 s.time)) := by
  obtain ⟨hr, hrec⟩ := ho
  have may : ∀ off, off < 0xF0000 ∨ 0x100000 ≤ off → s.mayRead q off = true := fun off => mayRead_of_open hrec hp
  have cnt : exec (.readClear q 0 0x28 4) s =
      .next { s.readTouch q 0x28 with out := .reg ((s.reqSt q).cnt.setWidth 64) } :=
    exec_read_narrow4 hq hr (may _ (by decide)) (by decide) rfl (by simp [State.regWide, State.gateWide])
  refine ⟨cnt ▸ (readTouch_keeps ..).reads, cnt ▸ ⟨_, rfl, ?_⟩, ?_, ?_, ?_, ?_⟩
  · exact congrArg ReqSt.cnt (reqSt_updReq s q (fun r => { r with cnt := 0 }))
  · rw [exec_read_narrow4 hq hr (may _ (by decide)) (by decide) rfl (by simp [State.regWide, State.gateWide])]
    exact ⟨_, rfl, rfl⟩
  · rw [exec_read_narrow4 hq hr (may _ (by decide)) (by decide) rfl (by simp [State.regWide, State.farWide])]
    exact ⟨_, rfl, by simp [State.readTouch]⟩
  · rw [exec_read_narrow4 hq hr (may _ (by decide)) (by decide) rfl (by simp [State.regWide, State.farWide])]
    exact ⟨_, rfl, by simp [State.readTouch]⟩
  · rw [exec_read_wide8 (w := wordOf s.time) hq hr (may _ (by decide)) rfl (by decide) rfl (by simp [State.regWide, State.gateWide])]
    exact ⟨_, rfl, rfl⟩

/-! ## Writes of BAR0 -/

/-- The state a write is tried in: the requester's error count at 0, so that a refusal shows (22 R468). -/
def State.uncounted (s : State) (q : Req) : State := s.updReq q (fun x => { x with cnt := 0 })

section
variable {s t : State} {q : Req} {off size : Nat} {v : Word} {f : Find}

/-- A write that leaves the requesters as they are is taken. -/
theorem tryWrite_taken (hm : s.mayWrite q off = true) (hw : (s.uncounted q).rawWrite q f off size v = t)
    (hk : t.req = (s.uncounted q).req) : s.tryWrite q f off size v = some { t with req := s.req } := by
  have here : t.reqSt q = { s.reqSt q with cnt := 0 } := by
    rw [State.reqSt, hk]
    exact reqSt_updReq s q _
  have known : (Tab.find t.req (reqNum q)).isNone = false := by
    rw [hk]
    simp [State.uncounted, State.updReq]
  unfold State.tryWrite
  rw [if_neg (by simp [hm])]
  extract_lets r u
  have hu : u = t := hw
  rw [hu, if_neg (by simp [here]), if_neg (by simp [known]), if_pos (by rw [here])]

/-- A write that ends in an access error is refused. -/
theorem tryWrite_refused {bar o n : Nat} {wr : Bool}
    (hw : (s.uncounted q).rawWrite q f off size v = (s.uncounted q).accessError q bar o n wr) : s.tryWrite q f off size v = none := by
  have counted : (((s.uncounted q).accessError q bar o n wr).reqSt q).cnt ≠ 0 := by
    rw [reqSt_accessError]
    simp [State.uncounted, ReqSt.recorded]
  unfold State.tryWrite
  extract_lets r u
  have hu : u = (s.uncounted q).accessError q bar o n wr := hw
  rw [hu, if_pos counted, ite_self]

theorem tryWrite_not_mayWrite (hm : s.mayWrite q off = false) : s.tryWrite q f off size v = none := by
  simp [State.tryWrite, hm]

/-- An aligned write of BAR0 outside the crier ranges, as the command sees it. -/
theorem exec_write_bar0 (hq : inReq q = true) (hr : s.isReq q = true) (hc : inCrier off = false) (ho : off < 0x4000000)
    (hg : goodSize off size = true) :
    exec (.setupRegisterWrite q 0 off size v f) s = .next (s.bar0Write q f off size v) := by
  rw [exec_setupRegisterWrite hq (by simp [inBar, ho])]
  simp [hc, State.barWrite, hr, hg]

theorem bar0Write_refused (h : s.tryWrite q f off size v = none) : s.bar0Write q f off size v = s.accessError q 0 off size true := by
  simp [State.bar0Write, h]

theorem bar0Write_taken (h : s.tryWrite q f off size v = some t) : s.bar0Write q f off size v = t := by
  simp [State.bar0Write, h]

theorem rawWrite_wide (hrec : s.fw.recovery = false) (h0 : off % 8 = 0) (hw : (s.regWide q off).isSome = true) :
    s.rawWrite q f off 8 v = s.write64 q off v true true := by
  simp [State.rawWrite, hrec, show off / 8 * 8 = off by omega, hw]

theorem rawWrite_narrow (hrec : s.fw.recovery = false) (hn : s.regWide q (off / 8 * 8) = none) :
    s.rawWrite q f off 4 v = s.write32 q f off (v.setWidth 32) := by
  simp [State.rawWrite, hrec, hn]

/-- What a 64-bit register takes of a write by a requester who may write it. -/
theorem exec_write_wide (hq : inReq q = true) (ho : s.setupOpen q) (hm : s.mayWrite q off = true) (hc : off < 0x2000000) (h0 : off % 8 = 0)
    (hw : ((s.uncounted q).regWide q off).isSome = true) (ht : (s.uncounted q).write64 q off v true true = t)
    (hk : t.req = (s.uncounted q).req) :
    exec (.setupRegisterWrite q 0 off 8 v f) s = .next { t with req := s.req } := by
  rw [exec_write_bar0 hq ho.1 (by simp [inCrier]; omega) (by omega) (by simp [goodSize, h0])]
  exact congrArg _ (bar0Write_taken (tryWrite_taken hm ((rawWrite_wide (s := s.uncounted q) ho.2 h0 hw).trans ht) hk))

/-- What a 32-bit register takes of a write by a requester who may write it. -/
theorem exec_write_narrow (hq : inReq q = true) (ho : s.setupOpen q) (hm : s.mayWrite q off = true) (hc : off < 0x2000000) (h4 : off % 4 = 0)
    (hn : (s.uncounted q).regWide q (off / 8 * 8) = none) (ht : (s.uncounted q).write32 q f off (v.setWidth 32) = t)
    (hk : t.req = (s.uncounted q).req) :
    exec (.setupRegisterWrite q 0 off 4 v f) s = .next { t with req := s.req } := by
  rw [exec_write_bar0 hq ho.1 (by simp [inCrier]; omega) (by omega) (by simp [goodSize, h4])]
  exact congrArg _ (bar0Write_taken (tryWrite_taken hm ((rawWrite_narrow (s := s.uncounted q) ho.2 hn).trans ht) hk))

/-- A register that a write leaves alone stays, and so does everything else. -/
theorem exec_write_ignored (hq : inReq q = true) (ho : s.setupOpen q) (hm : s.mayWrite q off = true) (hc : off < 0x2000000) (h0 : off % 8 = 0)
    (hw : ((s.uncounted q).regWide q off).isSome = true) (ht : (s.uncounted q).write64 q off v true true = s.uncounted q) :
    exec (.setupRegisterWrite q 0 off 8 v f) s = .next s := exec_write_wide (t := s.uncounted q) hq ho hm hc h0 hw ht rfl

theorem mayWrite_of_open (hp : reqIsSp q = true ∨ q = .host) (ho : off < 0xF0000 ∨ 0x100000 ≤ off ∧ off < 0x400000) :
    s.mayWrite q off = true := by
  rcases hp with hp | rfl
  · cases q <;> simp [reqIsSp, State.mayWrite] at hp ⊢
    omega
  · simp [State.mayWrite]
    omega

end

/-! ## Registers -/

section
variable {s : State} {q : Req} {v : Word} {f : Find} {n p r k i : Nat}

/-- IDENT, REVISION and the timebase take no write. -/
theorem writes_to_readOnly (hq : inReq q = true) (ho : s.setupOpen q) (hp : reqIsSp q = true ∨ q = .host) :
    exec (.setupRegisterWrite q 0 0 8 v f) s = .next s ∧ exec (.setupRegisterWrite q 0 8 8 v f) s = .next s ∧
    exec (.setupRegisterWrite q 0 0x100 8 v f) s = .next s := by
  refine ⟨?_, ?_, ?_⟩ <;>
    exact exec_write_ignored hq ho (mayWrite_of_open hp (by decide)) (by decide) rfl (by simp [State.regWide, State.gateWide])
      (by simp [State.write64])

@[simp] theorem uncounted_port : (s.uncounted q).port = s.port := rfl

@[simp] theorem uncounted_ring : (s.uncounted q).ring p r = s.ring p r := rfl

@[simp] theorem uncounted_rw32 (o : Nat) : (s.uncounted q).rw32 o = s.rw32 o := rfl

theorem uncounted_ptWriter : (s.uncounted q).ptWriter q = s.ptWriter q := by cases q <;> rfl

/-- STALLMAP of stall n in the shadow table (04 R86). -/
theorem write_stallmap (hq : inReq q = true) (ho : s.setupOpen q) (hp : reqIsSp q = true ∨ q = .host) (hn : n < 256) :
    (s.ptWriter q = false → exec (.setupRegisterWrite q 0 (0x102000 + 4 * n) 4 v f) s =
      .next (s.accessError q 0 (0x102000 + 4 * n) 4 true)) ∧
    (s.ptWriter q = true → Completes (exec (.setupRegisterWrite q 0 (0x102000 + 4 * n) 4 v f) s) (fun t =>
      t = { s with pt := t.pt } ∧ t.pt.active = s.pt.active ∧ t.pt.shadow.mapOf n = v.setWidth 32 &&& 0xFFF1 ∧
      ∀ m, m ≠ n → t.pt.shadow.mapOf m = s.pt.shadow.mapOf m)) := by
  have hm : s.mayWrite q (0x102000 + 4 * n) = true := mayWrite_of_open hp (by omega)
  have narrow : (s.uncounted q).regWide q ((0x102000 + 4 * n) / 8 * 8) = none := by
    generalize e : (0x102000 + 4 * n) / 8 * 8 = o
    have : 0x102000 ≤ o ∧ o < 0x102400 := by omega
    simp [State.regWide, State.pitchWide, show ¬ o < 0xF0000 by omega, show ¬ o < 0x100000 by omega, show o < 0x180000 by omega,
      show ¬ o < 0x101400 by omega, show ¬ 0x104000 ≤ o by omega, show ¬ 0x111000 ≤ o by omega]
  have act : (s.uncounted q).write32 q f (0x102000 + 4 * n) (v.setWidth 32) =
      orElse (s.uncounted q) q (0x102000 + 4 * n) (s.ptWriter q) (fun s =>
        { s with pt := { s.pt with shadow := { s.pt.shadow with smap := Tab.set s.pt.shadow.smap n (v.setWidth 32 &&& 0xFFF1) } } }) := by
    simp [State.write32, State.pitchWrite, show ¬ 0x102000 + 4 * n < 0xF0000 by omega, show ¬ 0x102000 + 4 * n < 0x100000 by omega,
      show 0x102000 + 4 * n < 0x180000 by omega, show 0x102000 + 4 * n < 0x102400 by omega, uncounted_ptWriter]
  refine ⟨fun hw => ?_, fun hw => ?_⟩
  · rw [exec_write_bar0 hq ho.1 (by simp [inCrier]; omega) (by omega) (by simp [goodSize]), bar0Write_refused]
    refine tryWrite_refused ((rawWrite_narrow (s := s.uncounted q) ho.2 narrow).trans ?_) (bar := 0) (o := 0x102000 + 4 * n) (n := 4) (wr := true)
    rw [act, hw]
    rfl
  · rw [hw] at act
    rw [exec_write_narrow hq ho hm (by omega) (by omega) narrow act rfl]
    refine ⟨_, rfl, rfl, rfl, ?_, fun m h => ?_⟩
    · exact Tab.get_set_same ..
    · exact Tab.get_set_ne _ _ _ h

/-- A dword of a vector's address or data in the MSI-X table (02 R32). -/
theorem write_msix (hq : inReq q = true) (ho : s.setupOpen q) (hh : reqIsHost q = true) (hk : k < msixCount q) (hi : i < 3) :
    Completes (exec (.setupRegisterWrite q 0 (0xF0000 + 16 * k + 4 * i) 4 v f) s) (fun t => t = { s with port := t.port } ∧
      s.msixDw (msixFn q) k 3 = t.msixDw (msixFn q) k 3 ∧
      t.msixDw (msixFn q) k i = if i = 0 then v.setWidth 32 &&& 0xFFFFFFFC else v.setWidth 32) := by
  have hc : k < 2048 := by cases q <;> simp [msixCount] at hk <;> omega
  have hm : s.mayWrite q (0xF0000 + 16 * k + 4 * i) = true := by
    cases q with
    | host => simp [State.mayWrite]; omega
    | ld p => simp [State.mayWrite, show 0xF0000 ≤ 0xF0000 + 16 * k + 4 * i by omega, show 0xF0000 + 16 * k + 4 * i < 0x100000 by omega]
    | sp j => cases hh
  have narrow : (s.uncounted q).regWide q ((0xF0000 + 16 * k + 4 * i) / 8 * 8) = none := by
    generalize e : (0xF0000 + 16 * k + 4 * i) / 8 * 8 = o
    simp [State.regWide, show ¬ o < 0xF0000 by omega, show o < 0x100000 by omega]
  have act : (s.uncounted q).write32 q f (0xF0000 + 16 * k + 4 * i) (v.setWidth 32) =
      { s.uncounted q with
          port := { s.port with
            msix := Tab.set s.port.msix ((msixFn q * 2048 + k) * 4 + i) (if i = 0 then v.setWidth 32 &&& 0xFFFFFFFC else v.setWidth 32) } } := by
    have e1 : 0xF0000 + 16 * k + 4 * i - 0xF0000 = 16 * k + 4 * i := by omega
    have e2 : (16 * k + 4 * i) / 16 = k := by omega
    have e3 : (16 * k + 4 * i) / 4 % 4 = i := by omega
    simp only [State.write32, State.msixWrite, e1, e2, e3]
    simp [show ¬ 0xF0000 + 16 * k + 4 * i < 0xF0000 by omega, show 0xF0000 + 16 * k + 4 * i < 0x100000 by omega,
      show ¬ 16 * msixCount q ≤ 16 * k + 4 * i by omega, show i ≠ 3 by omega]
  rw [exec_write_narrow hq ho hm (by omega) (by omega) narrow act rfl]
  refine ⟨_, rfl, rfl, ?_, ?_⟩
  · exact (Tab.get_set_ne _ _ _ (by omega)).symm
  · simp [State.msixDw, show i ≠ 3 by omega]

/-- The requester reaches the ring blocks of pitch p (22 R466). -/
theorem mayWrite_ringBlock (hq : ∀ j, q = .ld j → j = p) (hp : p < 16) {x : Nat} (hx : x < 0x8000) :
    s.mayWrite q (0x180000 + 0x8000 * p + x) = true := by
  cases q with
  | host => simp [State.mayWrite]; omega
  | ld j =>
    obtain rfl := hq j rfl
    simp [State.mayWrite, show 0x180000 + 0x8000 * j + x < 0x188000 + 0x8000 * j by omega]
  | sp i => simp [State.mayWrite]; omega

theorem regWide_ringBlock (hp : p < 16) {x : Nat} (hx : x < 0x8000) :
    s.regWide q (0x180000 + 0x8000 * p + x) = s.ringWide p x := by
  have e1 : (0x180000 + 0x8000 * p + x - 0x180000) / 0x8000 = p := by omega
  have e2 : (0x180000 + 0x8000 * p + x) % 0x8000 = x := by omega
  simp only [State.regWide, e1, e2]
  rw [if_neg (by omega), if_neg (by omega), if_neg (by omega), if_pos (by omega)]

theorem write64_ringBlock (hp : p < 16) {x : Nat} (hx : x < 0x8000) {lo hi : Bool} :
    s.write64 q (0x180000 + 0x8000 * p + x) v lo hi = s.blockWrite64 q p x v lo hi := by
  have e1 : (0x180000 + 0x8000 * p + x - 0x180000) / 0x8000 = p := by omega
  have e2 : (0x180000 + 0x8000 * p + x) % 0x8000 = x := by omega
  simp only [State.write64, e1, e2]
  rw [if_neg (by omega), if_neg (by omega), if_pos (by omega)]

theorem write32_ringBlock (hp : p < 16) {x : Nat} (hx : x < 0x8000) {w : W32} :
    s.write32 q f (0x180000 + 0x8000 * p + x) w = s.blockWrite q p x w := by
  have e1 : (0x180000 + 0x8000 * p + x - 0x180000) / 0x8000 = p := by omega
  have e2 : (0x180000 + 0x8000 * p + x) % 0x8000 = x := by omega
  simp only [State.write32, e1, e2]
  rw [if_neg (by omega), if_neg (by omega), if_neg (by omega), if_pos (by omega)]

/-- While ENABLE is 1 SQBASE and CQBASE keep their values (03 R47). -/
theorem write_ringBases_enabled (hq : inReq q = true) (ho : s.setupOpen q) (hj : ∀ j, q = .ld j → j = p) (hp : p < 16) (hr : r < 64)
    (he : (s.ring p r).enable = true) {k : Nat} (hk : k = 0 ∨ k = 8) :
    exec (.setupRegisterWrite q 0 (0x180000 + 0x8000 * p + (0x100 * r + k)) 8 v f) s = .next s := by
  have hx : 0x100 * r + k < 0x4000 := by omega
  have e1 : (0x100 * r + k) % 0x100 = k := by omega
  have e2 : (0x100 * r + k) / 0x100 = r := by omega
  refine exec_write_ignored hq ho (mayWrite_ringBlock hj hp (by omega)) (by omega) (by omega) ?_ ?_
  · rw [regWide_ringBlock hp (by omega)]
    simp [State.ringWide, hx, e1, hk]
  · rw [write64_ringBlock hp (by omega)]
    simp [State.blockWrite64, hx, e2, he]

/-- RINGCFG: while ENABLE is 1 its low five bits keep their value (03 R47). -/
theorem write_ringcfg (hq : inReq q = true) (ho : s.setupOpen q) (hj : ∀ j, q = .ld j → j = p) (hp : p < 16) (hr : r < 64) :
    Completes (exec (.setupRegisterWrite q 0 (0x180000 + 0x8000 * p + (0x100 * r + 0x10)) 4 v f) s) (fun t =>
      t = { s with setup := t.setup } ∧
      t.rw32 (0x180000 + 0x8000 * p + (0x100 * r + 0x10)) = (if (s.ring p r).enable = true then
        (v.setWidth 32 &&& 0xFFFFFF00) ||| (s.rw32 (0x180000 + 0x8000 * p + (0x100 * r + 0x10)) &&& 0x1F)
        else v.setWidth 32 &&& 0xFFFFFF1F) ∧
      ∀ o, o / 4 ≠ (0x180000 + 0x8000 * p + (0x100 * r + 0x10)) / 4 → t.rw32 o = s.rw32 o) := by
  have hx : 0x100 * r + 0x10 < 0x4000 := by omega
  have e1 : (0x100 * r + 0x10) % 0x100 = 0x10 := by omega
  have e2 : (0x100 * r + 0x10) / 0x100 = r := by omega
  have e3 : (0x180000 + 0x8000 * p + (0x100 * r + 0x10)) / 8 * 8 = 0x180000 + 0x8000 * p + (0x100 * r + 0x10) := by omega
  have narrow : (s.uncounted q).regWide q ((0x180000 + 0x8000 * p + (0x100 * r + 0x10)) / 8 * 8) = none := by
    rw [e3, regWide_ringBlock hp (by omega)]
    simp [State.ringWide, hx, e1]
  have act := write32_ringBlock (s := s.uncounted q) (q := q) (f := f) hp (x := 0x100 * r + 0x10) (by omega) (w := v.setWidth 32)
  simp only [State.blockWrite, hx, e1, e2, if_true, uncounted_ring, uncounted_rw32] at act
  rw [exec_write_narrow hq ho (mayWrite_ringBlock hj hp (by omega)) (by omega) (by omega) narrow act rfl]
  refine ⟨_, rfl, rfl, ?_, fun o h => ?_⟩
  · exact Tab.get_set_same ..
  · exact Tab.get_set_ne _ _ _ h

end

/-! ## Doorbells and the window of the host -/

section
variable {s : State} {v : Word} {f : Find} {p r size k : Nat}

/-- An aligned write of the host to BAR2 is one of a doorbell page. -/
theorem exec_write_bar2 (hr : s.isReq .host = true) (hs : size = 4 ∨ size = 8) (hp : p < 16) {x : Nat} (hx : x < 0x1000) (h8 : x % 8 = 0) :
    exec (.setupRegisterWrite .host 2 (0x1000 * p + x) size v f) s = .next (s.writeBar2 .host (0x1000 * p + x) v) := by
  have hg : goodSize (0x1000 * p + x) size = true := by
    rcases hs with rfl | rfl <;> simp [goodSize] <;> omega
  rw [exec_setupRegisterWrite rfl (by simp [inBar]; omega)]
  simp [State.barWrite, hr, hg, reqIsHost]

/-- A write to the tail or head doorbell of ring r is the doorbell command (03 R51, R53). -/
theorem write_doorbells (hr : s.isReq .host = true) (hs : size = 4 ∨ size = 8) (hp : p < 16) (hring : r < 64) :
    exec (.setupRegisterWrite .host 2 (0x1000 * p + 8 * r) size v f) s = exec (.tailDoorbell .host p r (v.setWidth 32) []) s ∧
    exec (.setupRegisterWrite .host 2 (0x1000 * p + (0x200 + 8 * r)) size v f) s = exec (.headDoorbell .host p r (v.setWidth 32)) s := by
  have page : ∀ x < 0x1000, pageAt .host (0x1000 * p + x) = some (p, x) := by
    intro x hx
    simp only [pageAt, Option.some.injEq, Prod.mk.injEq]
    omega
  have ok : (inReq .host && inPitch p && inRing r) = true := by simp [inReq, inPitch, inRing, hp, hring]
  constructor
  · rw [exec_write_bar2 hr hs hp (by omega) (by omega)]
    change _ = run (inReq .host && inPitch p && inRing r) _
    simp only [State.writeBar2, page (8 * r) (by omega), ok, run_true]
    simp [show 8 * r < 0x200 by omega, execTailDoorbell, after, ok]
  · rw [exec_write_bar2 hr hs hp (by omega) (by omega)]
    change _ = run (inReq .host && inPitch p && inRing r) _
    simp only [State.writeBar2, page (0x200 + 8 * r) (by omega), ok, run_true]
    simp [show (0x200 + 8 * r) % 8 = 0 by omega, show 0x200 + 8 * r < 0x400 by omega, execHeadDoorbell, after, ok]

/-- A register of slot r of pitch p lies in the host's BAR4 at its own offset (02 R32). -/
theorem windowAt_slot (hr : r < 64) {x : Nat} (hx : x < 0x1000) :
    windowAt .host (0x40000 * p + 0x1000 * r + x) = some (p, 0x1000 * r + x) := by
  simp only [windowAt, Option.some.injEq, Prod.mk.injEq]
  omega

/-- A write of the host to a slot register. -/
theorem exec_write_slot (hr : s.isReq .host = true) (hs : size = 4 ∨ size = 8) (hp : p < 16) (hn : r < 64) {x : Nat} (hx : x < 0x1000)
    (h8 : x % 8 = 0) :
    exec (.setupRegisterWrite .host 4 (0x40000 * p + 0x1000 * r + x) size v f) s =
      .next (s.writeBar4 .host (0x40000 * p + 0x1000 * r + x) size v) := by
  have hg : goodSize (0x40000 * p + 0x1000 * r + x) size = true := by
    rcases hs with rfl | rfl <;> simp [goodSize] <;> omega
  rw [exec_setupRegisterWrite rfl (by simp [inBar]; omega)]
  simp [State.barWrite, hr, hg, reqIsHost]

theorem writeBar4_off (hw : s.windowMode p = false) (hn : r < 64) {x : Nat} (hx : x < 0x1000) :
    s.writeBar4 .host (0x40000 * p + 0x1000 * r + x) size v = s := by
  simp [State.writeBar4, windowAt_slot hn hx, hw]

/-- WABORT (02 R43). -/
theorem write_wabort (hr : s.isReq .host = true) (hs : size = 4 ∨ size = 8) (hp : p < 16) (hn : r < 64) :
    exec (.setupRegisterWrite .host 4 (0x40000 * p + 0x1000 * r + 0x38) size v f) s =
      if s.windowMode p = true then exec (.wabort .host p r (v.setWidth 32)) s else .next s := by
  rw [exec_write_slot hr hs hp hn (by decide) rfl]
  have ok : (inReq .host && inPitch p && inRing r) = true := by simp [inReq, inPitch, inRing, hp, hn]
  split
  · rename_i hw
    change _ = run (inReq .host && inPitch p && inRing r) _
    have e1 : (0x1000 * r + 0x38) / 0x1000 = r := by omega
    have e2 : (0x1000 * r + 0x38) % 0x1000 = 0x38 := by omega
    simp only [State.writeBar4, windowAt_slot hn (show 0x38 < 0x1000 by decide), e1, e2]
    simp [hw, execWabort, after, ok]
  · rename_i hw
    rw [writeBar4_off (by simpa using hw) hn (by decide)]

/-- While BUSY a slot register takes no write (02 R36). -/
theorem writeBar4_busy (hw : s.windowMode p = true) (hb : (s.slot p r).busy = true) (hn : r < 64) {x : Nat} (hx : x < 0x38) (h20 : x ≠ 0x20) :
    s.writeBar4 .host (0x40000 * p + 0x1000 * r + x) size v = s.winErr p := by
  have e1 : (0x1000 * r + x) / 0x1000 = r := by omega
  have e2 : (0x1000 * r + x) % 0x1000 = x := by omega
  simp only [State.writeBar4, windowAt_slot hn (show x < 0x1000 by omega), e1, e2]
  simp [hw, hb, h20, show x ≠ 0x38 by omega, show ¬ 0x40 ≤ x by omega, show x ≠ 0x3C by omega]

theorem mergeHalf_both (w : Word) : mergeHalf w v true true = v := by
  apply BitVec.eq_of_toNat_eq
  have := v.isLt
  simp only [mergeHalf, wordOf, fld, bitsOf, if_true, BitVec.toNat_ofNat]
  omega

/-- WTARGET and WVALUE of a slot that is not BUSY. -/
theorem writeBar4_idle (hw : s.windowMode p = true) (hb : (s.slot p r).busy = false) (hn : r < 64) :
    s.writeBar4 .host (0x40000 * p + 0x1000 * r + 0) 8 v = s.updSlot p r (fun x => { x with target := v }) ∧
    s.writeBar4 .host (0x40000 * p + 0x1000 * r + 0x10) 8 v = s.updSlot p r (fun x => { x with value := v }) := by
  have e : ∀ x < 0x1000, (0x1000 * r + x) / 0x1000 = r ∧ (0x1000 * r + x) % 0x1000 = x := by omega
  constructor
  · simp only [State.writeBar4, windowAt_slot hn (show 0 < 0x1000 by decide), (e 0 (by decide)).1, (e 0 (by decide)).2]
    simp [hw, hb, Slot.write, mergeHalf_both]
  · simp only [State.writeBar4, windowAt_slot hn (show 0x10 < 0x1000 by decide), (e 0x10 (by decide)).1, (e 0x10 (by decide)).2]
    simp [hw, hb, Slot.write, mergeHalf_both]

/-- WRESULT reads the slot's result. -/
theorem read_wresult (hr : s.isReq .host = true) (hp : p < 16) (hn : r < 64) (hw : s.windowMode p = true) :
    Reads s (exec (.readClear .host 4 (0x40000 * p + 0x1000 * r + 0x30) 8) s) (s.slot p r).result := by
  have hg : goodSize (0x40000 * p + 0x1000 * r + 0x30) 8 = true := by simp [goodSize]; omega
  have e1 : (0x1000 * r + 0x30) / 0x1000 = r := by omega
  have e2 : (0x1000 * r + 0x30) % 0x1000 = 0x30 := by omega
  rw [exec_readClear rfl (by simp [inBar]; omega)]
  simp only [State.anyRead, State.barRead, State.readBar4, windowAt_slot hn (show 0x30 < 0x1000 by decide), e1, e2]
  simp only [hr, hg, hw, reqIsHost, Slot.wide]
  exact ⟨_, rfl, rfl, rfl, rfl, rfl⟩

end

/-! ## Criers -/

section
variable {s : State} {q : Req} {off size x m : Nat} {v : Word} {l : List Nat}

theorem crierWrite_at (ho : s.setupOpen q) (hg : goodSize off size = true) (ha : s.crierAt off = some (l, x)) :
    s.crierWrite q off size v =
      if s.crierOk q x size = false then s.accessError q 0 off size true
      else if (s.crierRun q {} x size v (s.crierSet q l)).2 = true then
        (s.crierRun q {} x size v (s.crierSet q l)).1.accessError q 0 off size true
      else (s.crierRun q {} x size v (s.crierSet q l)).1 := by
  simp [State.crierWrite, ho.1, ho.2, hg, ha]

/-- An offset of the crier ranges that names no stalls. -/
theorem crier_unassigned (ho : s.setupOpen q) (hg : goodSize off size = true) (ha : s.crierAt off = none) :
    s.crierWrite q off size v = s ∧ s.crierRead q off size = { s with out := .reg 0 } := by
  simp [State.crierWrite, State.crierRead, ho.1, ho.2, hg, ha]

theorem crierRun_one {t : State} {f : Find} (ht : s.tryWrite q f (stallBase m + x) size v = some t) :
    s.crierRun q f x size v [m] = (t, false) := by
  simp [State.crierRun, ht]

theorem crierRead_empty (ho : s.setupOpen q) (hg : goodSize off size = true) (ha : s.crierAt off = some (l, x)) (he : s.crierSet q l = []) :
    s.crierRead q off size = { s with out := .reg 0 } := by
  simp [State.crierRead, ho.1, ho.2, hg, ha, he]

/-- A 32-bit register of the lowest-numbered stall of the set. -/
theorem crierRead_lowest {l' : List Nat} (ho : s.setupOpen q) (hg : goodSize off 4 = true) (ha : s.crierAt off = some (l, x))
    (he : s.crierSet q l = m :: l') (hn : s.stallWide m (x / 8 * 8) = none) :
    s.crierRead q off 4 = { s.awake m with out := .reg ((s.stallDword m x).setWidth 64) } := by
  simp [State.crierRead, ho.1, ho.2, hg, ha, he, hn, State.awake]

end

/-! ## A crier write of STALLPWR -/

section
variable {s t : State} {q : Req} {v : Word} {n m : Nat} {w : W32}

/-- Stall n takes a write of STALLPWR by q: it wakes and stores the fields. -/
def State.setStallPwr (s : State) (w : W32) (n : Nat) : State := (s.awake n).setRw32 (stallPwrOff n) w

theorem stallPwrOff_bounds (hn : n < 256) :
    0x1000000 ≤ stallBase n + 0x310 ∧ stallBase n + 0x310 < 0x2000000 ∧ (stallBase n + 0x310) % 8 = 0 ∧
    (stallBase n + 0x310) % 0x10000 = 0x310 ∧ stallOfOff (stallBase n + 0x310) = n := by
  unfold stallBase stallOfOff
  omega

/-- Each stall's STALLPWR has a dword of its own. -/
theorem stallPwrOff_dword_inj (h : stallPwrOff n / 4 = stallPwrOff m / 4) : n = m := by
  unfold stallPwrOff stallBase at h
  omega

/-- Requester q reaches stall n, whose block answers. -/
structure CrierReach (s : State) (q : Req) (n : Nat) : Prop where
  req : s.isReq q = true
  recovery : s.fw.recovery = false
  own : ∀ p, q = .ld p → s.pitchOf n = some p
  good : (s.fpOf n).state = 0
  up : (s.hall (n / 64)).up = true
  open_ : (s.hall (n / 64)).cutoff = false

theorem mem_crierSet {l : List Nat} (ho : s.setupOpen q) (h : n ∈ s.crierSet q l) : n ∈ l ∧ CrierReach s q n := by
  obtain ⟨hl, hp⟩ := List.mem_filter.1 h
  simp only [Bool.and_eq_true, decide_eq_true_eq, Bool.not_eq_true'] at hp
  obtain ⟨⟨⟨hg, hu⟩, hc⟩, hown⟩ := hp
  refine ⟨hl, ho.1, ho.2, ?_, hg, hu, hc⟩
  rintro p rfl
  simpa using hown

/-- One stall's write reaches no other stall's condition. -/
theorem CrierReach.setStallPwr (h : CrierReach s q n) : CrierReach (s.setStallPwr w m) q n := by
  obtain ⟨h1, h2, h3, h4, h5, h6⟩ := h
  refine ⟨?_, h2, fun p hp => ?_, h4, h5, h6⟩
  · cases q <;> exact h1
  · have gen : ((s.setStallPwr w m).stall n).gen = (s.stall n).gen := by
      show ((s.awake m).stall n).gen = _
      rw [State.awake, State.stall_updStall]
      split
      · rename_i e; rw [e]
      · rfl
    rw [← h3 p hp, State.pitchOf, State.pitchOf, State.applied, State.applied, gen]
    rfl

/-- A stall that is reached takes a write of STALLPWR. -/
theorem tryWrite_stallpwr (h : CrierReach s q n) (hn : n < 256) :
    s.tryWrite q {} (stallBase n + 0x310) 4 v = some (s.setStallPwr (v.setWidth 32 &&& 0xFF04) n) := by
  obtain ⟨lo, hi, h8, hx, hs⟩ := stallPwrOff_bounds hn
  have hm : s.mayWrite q (stallBase n + 0x310) = true := by
    cases q with
    | host => simp [State.mayWrite]; omega
    | sp i => simp [State.mayWrite]; omega
    | ld p => simp [State.mayWrite, lo, hi, hs, h.own p rfl]
  have narrow : (s.uncounted q).regWide q ((stallBase n + 0x310) / 8 * 8) = none := by
    rw [show (stallBase n + 0x310) / 8 * 8 = stallBase n + 0x310 by omega, State.regWide, hx, hs]
    rw [if_neg (by omega), if_neg (by omega), if_neg (by omega), if_neg (by omega), if_neg (by omega), if_neg (by omega), if_pos (by omega)]
    rfl
  have act : (s.uncounted q).write32 q {} (stallBase n + 0x310) (v.setWidth 32) =
      (s.uncounted q).setStallPwr (v.setWidth 32 &&& 0xFF04) n := by
    rw [State.write32, hx, hs]
    rw [if_neg (by omega), if_neg (by omega), if_neg (by omega), if_neg (by omega), if_neg (by omega), if_neg (by omega)]
    have hr : (s.uncounted q).isReq q = true := by
      have := h.req
      cases q <;> exact this
    have hg : ((s.uncounted q).fpOf n).state = 0 := h.good
    have hu : ((s.uncounted q).hall (n / 64)).up = true := h.up
    have hc : ((s.uncounted q).hall (n / 64)).cutoff = false := h.open_
    have hown : ∀ p, q = .ld p → (s.uncounted q).pitchOf n = some p := h.own
    cases q with
    | ld p => simp [State.stallRegWrite, State.stallTry, hr, hg, hu, hc, hown p rfl, State.setStallPwr, State.awake]
    | host => simp [State.stallRegWrite, State.stallTry, hr, hg, hu, hc, State.setStallPwr, State.awake]
    | sp i => simp [State.stallRegWrite, State.stallTry, hr, hg, hu, hc, State.setStallPwr, State.awake]
  exact tryWrite_taken hm ((rawWrite_narrow (s := s.uncounted q) h.recovery narrow).trans act) rfl

/-- The stalls of the set take the write in turn, and none refuses it. -/
theorem crierRun_stallpwr (l : List Nat) (h : ∀ n ∈ l, n < 256 ∧ CrierReach s q n) :
    s.crierRun q {} 0x310 4 v l = (l.foldl (fun s n => s.setStallPwr (v.setWidth 32 &&& 0xFF04) n) s, false) := by
  unfold State.crierRun
  induction l generalizing s with
  | nil => rfl
  | cons n l ih =>
    obtain ⟨hn, hr⟩ := h n (by simp)
    simp only [List.foldl_cons, tryWrite_stallpwr hr hn]
    exact ih (fun m hm => ⟨(h m (by simp [hm])).1, (h m (by simp [hm])).2.setStallPwr⟩)

theorem rw32_setStallPwr :
    (s.setStallPwr w n).rw32 (stallPwrOff m) = if m = n then w else s.rw32 (stallPwrOff m) := by
  rw [State.setStallPwr, State.rw32_setRw32]
  by_cases e : m = n
  · rw [if_pos e, if_pos (by rw [e])]
  · rw [if_neg e, if_neg (fun h => e (stallPwrOff_dword_inj h))]
    rfl

theorem foldl_setStallPwr (l : List Nat) :
    (l.foldl (fun s n => s.setStallPwr w n) s).rw32 (stallPwrOff m) = (if m ∈ l then w else s.rw32 (stallPwrOff m)) ∧
    (l.foldl (fun s n => s.setStallPwr w n) s).mem = s.mem := by
  induction l generalizing s with
  | nil => simp
  | cons n l ih =>
    obtain ⟨h1, h2⟩ := ih (s := s.setStallPwr w n)
    simp only [List.foldl_cons, h1, h2, rw32_setStallPwr, List.mem_cons]
    refine ⟨?_, rfl⟩
    by_cases e : m = n <;> simp [e]

/-- A crier write of STALLPWR sets it in every stall of the set, and in no other (22 R473 to R475). -/
theorem crierWrite_stallpwr (hq : inReq q = true) (ho : s.setupOpen q) :
    Completes (exec (.crierWrite q 0x3C00310 4 v) s) (fun t =>
      (∀ m < 256, m ∈ s.crierSet q allStalls → t.rw32 (stallPwrOff m) = v.setWidth 32 &&& 0xFF04) ∧
      (∀ m < 256, m ∉ s.crierSet q allStalls → t.rw32 (stallPwrOff m) = s.rw32 (stallPwrOff m)) ∧ t.mem = s.mem) := by
  have ha : s.crierAt 0x3C00310 = some (allStalls, 0x310) := by simp [State.crierAt]
  have hk : s.crierOk q 0x310 4 = true := by
    simp [State.crierOk, State.stallLive, State.stallWide, State.stallNarrow, dagger, daggerSp]
  have hset : ∀ n ∈ s.crierSet q allStalls, n < 256 ∧ CrierReach s q n := fun n hn =>
    ⟨List.mem_range.1 (mem_crierSet ho hn).1, (mem_crierSet ho hn).2⟩
  have hfold := fun (m : Nat) => foldl_setStallPwr (s := s) (m := m) (w := v.setWidth 32 &&& 0xFF04) (s.crierSet q allStalls)
  rw [exec_crierWrite hq rfl, crierWrite_at ho rfl ha, hk, if_neg (by decide), crierRun_stallpwr _ hset, if_neg Bool.false_ne_true]
  refine ⟨_, rfl, fun m _ hin => ?_, fun m _ hout => ?_, (hfold 0).2⟩
  · exact (hfold m).1.trans (if_pos hin)
  · exact (hfold m).1.trans (if_neg hout)

end

/-! ## Sets of numbers -/

theorem NSet.has_iff (t : NSet) (a : Nat) : NSet.has t a = true ↔ a ∈ t := by simp [NSet.has]

theorem NSet.mem_add (t : NSet) (a b : Nat) : b ∈ NSet.add t a ↔ b = a ∨ b ∈ t := by
  induction t with
  | nil => simp [NSet.add]
  | cons k t ih =>
    unfold NSet.add
    split
    · rename_i e; simp [e]
    · split
      · simp
      · rw [List.mem_cons, ih, List.mem_cons, or_left_comm]

theorem NSet.has_add (t : NSet) (a b : Nat) : NSet.has (NSet.add t a) b = (decide (b = a) || NSet.has t b) := by
  rw [Bool.eq_iff_iff, NSet.has_iff, NSet.mem_add, Bool.or_eq_true, NSet.has_iff, decide_eq_true_eq]

theorem NSet.has_del (t : NSet) (a b : Nat) : NSet.has (NSet.del t a) b = (decide (b ≠ a) && NSet.has t b) := by
  rw [Bool.eq_iff_iff, NSet.has_iff, NSet.del, List.mem_filter, Bool.and_eq_true, NSet.has_iff, and_comm]

/-! ## Register access over MCTP (22 R472) -/

section
variable {s : State} {i off size : Nat} {rs : Bool} {sq : Byte} {v w : Word} {f : Find}

/-- REG_RESULT as a message: the sequence number of the request, STATUS and the value. -/
def regAnswer (sq : Byte) (st : Nat) (w : Word) : Msg :=
  .mctp 0x22 (toLE 1 0x22 ++ [sq] ++ zeros 2 ++ toLE 1 st ++ zeros 7 ++ toLE 8 w.toNat)

theorem regResult_eq (t : State) (st : Nat) : t.regResult sq st w = { t with outbox := t.outbox ++ [regAnswer sq st w] } := rfl

theorem isReq_platform (h : s.platform = some i) : s.isReq (.sp i) = true := by
  have role : (s.sp i).role = 3 := by simpa using List.find?_some h
  exact decide_eq_true role

theorem reg_no_platform (h : s.platform = none) :
    exec (.regRead sq off size rs) s = .next s ∧ exec (.regWriteMsg sq off size v rs f) s = .next s := by
  constructor
  · change execRegRead .. = _
    simp [execRegRead, h]
  · change execRegWriteMsg .. = _
    simp [execRegWriteMsg, h]

/-- A request in a bad format is answered 0x20. -/
theorem reg_bad_format (h : s.platform = some i) (hf : regFormat off size rs = false) :
    exec (.regRead sq off size rs) s = .next { s with outbox := s.outbox ++ [regAnswer sq 0x20 0] } ∧
    exec (.regWriteMsg sq off size v rs f) s = .next { s with outbox := s.outbox ++ [regAnswer sq 0x20 0] } := by
  constructor
  · change execRegRead .. = _
    simp [execRegRead, h, hf, regResult_eq]
  · change execRegWriteMsg .. = _
    simp [execRegWriteMsg, h, hf, regResult_eq]

/-- A request for what the member does not reach is answered 0x22. -/
theorem reg_unreached (h : s.platform = some i) (hf : regFormat off size rs = true) (hc : s.regReach (.sp i) off size = false) :
    exec (.regRead sq off size rs) s = .next { s with outbox := s.outbox ++ [regAnswer sq 0x22 0] } ∧
    exec (.regWriteMsg sq off size v rs f) s = .next { s with outbox := s.outbox ++ [regAnswer sq 0x22 0] } := by
  constructor
  · change execRegRead .. = _
    simp [execRegRead, h, hf, hc, regResult_eq]
  · change execRegWriteMsg .. = _
    simp [execRegWriteMsg, h, hf, hc, regResult_eq]

/-- A read of a 64-bit register is answered 0 with its value. -/
theorem regRead_wide (h : s.platform = some i) (hf : regFormat off 3 rs = true) (hc : s.regReach (.sp i) off 3 = true)
    (hp : inCrier off = false) (hm : s.mayRead (.sp i) off = true) (hw : s.regWide (.sp i) off = some w) :
    Completes (exec (.regRead sq off 3 rs) s) (fun t => t.outbox = s.outbox ++ [regAnswer sq 0 w] ∧ t.out = s.out ∧ t.setup = s.setup ∧
      t.mem = s.mem) := by
  have h0 : off % 8 = 0 := by simp [regFormat] at hf; omega
  have read : s.barRead (.sp i) 0 off (2 ^ 3) = { s.latched (.sp i) off w with out := .reg w } := by
    simp only [State.barRead, isReq_platform h, show goodSize off (2 ^ 3) = true by simp [goodSize, h0]]
    rw [show (2 ^ 3 : Nat) = 8 from rfl, (readBar0_wide hm h0 hw).1]
    simp
  obtain ⟨hset, hmem, -, hbox⟩ := latched_keeps s (.sp i) off w
  change Completes (execRegRead ..) _
  simp only [execRegRead, h, hf, hc, hp, read, regResult_eq, run_true]
  exact ⟨_, rfl, by rw [← hbox]; rfl, rfl, hset, hmem⟩

/-- A write is answered as it is tried. -/
theorem regWrite_tried (h : s.platform = some i) (hf : regFormat off size rs = true) (hc : s.regReach (.sp i) off size = true)
    (hp : inCrier off = false) :
    (s.tryWrite (.sp i) f off (2 ^ size) v = none →
      exec (.regWriteMsg sq off size v rs f) s = .next { s with outbox := s.outbox ++ [regAnswer sq 0x22 0] }) ∧
    (∀ t, s.tryWrite (.sp i) f off (2 ^ size) v = some t →
      exec (.regWriteMsg sq off size v rs f) s = .next { t with outbox := t.outbox ++ [regAnswer sq 0 0] }) := by
  constructor
  · intro ht
    change execRegWriteMsg .. = _
    simp [execRegWriteMsg, h, hf, hc, hp, ht, regResult_eq]
  · intro t ht
    change execRegWriteMsg .. = _
    simp [execRegWriteMsg, h, hf, hc, hp, ht, regResult_eq]

end

/-! ## The host port -/

section
variable {s : State} {n r ld off dec : Nat} {apn sw : Bool} {cv : W32} {d : HdmSet}

/-- A width and a speed that a link trains to, once phase 2 has ended (02 R15). -/
def State.trains (s : State) (n r : Nat) : Prop :=
  s.boot.phase ≠ 0 ∧ (n = 1 ∨ n = 2 ∨ n = 4 ∨ n = 8 ∨ n = 16) ∧ 1 ≤ r ∧ r ≤ 5

theorem linkTraining_iff : s.trains n r ↔ ¬ (s.boot.phase = 0 ∨ ! [1, 2, 4, 8, 16].contains n ∨ r = 0 ∨ 5 < r) := by
  simp only [State.trains, List.contains_eq_mem, List.mem_cons, List.not_mem_nil, Bool.not_eq_true', decide_eq_false_iff_not, or_false]
  omega

theorem exec_linkTraining :
    (¬ s.trains n r → exec (.linkTraining n r apn sw) s = .next s) ∧
    (s.trains n r → exec (.linkTraining n r apn sw) s = .next { s with port := { s.port with
        width := n, speed := r, cxl := apn && decide (3 ≤ r), pcieOnly := !(apn && decide (3 ≤ r)), mld := (apn && decide (3 ≤ r)) && sw
        hdm := if (apn && decide (3 ≤ r)) = true then s.port.hdm else [] } }) := by
  rw [linkTraining_iff]
  constructor
  · intro h
    change execLinkTraining .. = _
    rw [execLinkTraining, if_pos (not_not.1 h), run_true]
  · intro h
    change execLinkTraining .. = _
    rw [execLinkTraining, if_neg h, run_true]

theorem exec_configurationRequest {x : Option W32} :
    exec (.configurationRequest ld off x) s = execConfigurationRequest ld off x s := rfl

/-- A configuration request before the port answers (17 R369). -/
theorem configuration_unserved {x : Option W32} (hl : ld < 16) :
    (s.boot.pwrgd = false → exec (.configurationRequest ld off x) s = .next s) ∧
    (s.boot.pwrgd = true → s.boot.phase = 0 → exec (.configurationRequest ld off x) s = .next { s with out := .crs }) ∧
    (s.boot.pwrgd = true → s.boot.phase ≠ 0 → s.isFn ld = false → exec (.configurationRequest ld off x) s = .next { s with out := .ur }) := by
  refine ⟨fun hp => ?_, fun hp h0 => ?_, fun hp h0 hf => ?_⟩
  · rw [exec_configurationRequest]
    simp [execConfigurationRequest, inPitch, hl, hp]
  · rw [exec_configurationRequest]
    simp [execConfigurationRequest, inPitch, hl, hp, h0]
  · rw [exec_configurationRequest]
    simp [execConfigurationRequest, inPitch, hl, hp, h0, hf]

/-- A function of the port answers configuration requests. -/
structure State.configOpen (s : State) (ld : Nat) : Prop where
  pwrgd : s.boot.pwrgd = true
  phase : s.boot.phase ≠ 0
  fn : s.isFn ld = true

theorem configuration_read (hl : ld < 16) (h : s.configOpen ld) :
    exec (.configurationRequest ld off none) s = .next { s.used with out := .reg ((s.cfgDword ld (off % 4096 / 4 * 4)).setWidth 64) } := by
  rw [exec_configurationRequest]
  simp [execConfigurationRequest, inPitch, hl, h.pwrgd, h.phase, h.fn, State.used]

theorem configuration_write (hl : ld < 16) (h : s.configOpen ld) :
    exec (.configurationRequest ld off (some cv)) s = .next { s.cfgWrite ld (off % 4096 / 4 * 4) cv with out := .none } := by
  rw [exec_configurationRequest]
  simp [execConfigurationRequest, inPitch, hl, h.pwrgd, h.phase, h.fn]

theorem configuration_identity (hl : ld < 16) (h : s.configOpen ld) :
    exec (.configurationRequest ld 0 none) s = .next { s.used with out := .reg (Config.ident &&& 0xFFFFFFFF) } := by
  rw [configuration_read hl h, ← setWidth_low]
  rfl

/-- A BAR of n bytes decodes the address bits at and above n, and is a 64-bit memory BAR. -/
theorem barLow_bits {k : Nat} (hk : 4 ≤ k) (hk' : k < 32) (v : W32) :
    barLow v (2 ^ k) &&& 0xF = 4 ∧ ∀ a, (barLow v (2 ^ k)).getLsbD a = true → a = 2 ∨ 2 ^ k ≤ 2 ^ a := by
  have four : ∀ a, (4 : W32).getLsbD a = decide (a = 2) := by
    intro a
    by_cases ha : a < 32
    · exact (show ∀ a < 32, (4 : W32).getLsbD a = decide (a = 2) by decide) a ha
    · rw [BitVec.getLsbD_of_ge _ _ (by omega), eq_comm, decide_eq_false_iff_not]
      omega
  have fifteen : ∀ a < 32, (0xF : W32).getLsbD a = decide (a < 4) := by decide
  have mask : ∀ a, (barLow v (2 ^ k)).getLsbD a = (v.getLsbD a && (decide (a < 32) && decide (k ≤ a)) || decide (a = 2)) := by
    intro a
    have pos := Nat.two_pow_pos k
    have lt : 2 ^ k - 1 < 2 ^ 32 := by
      have := Nat.pow_lt_pow_right (show 1 < 2 by decide) hk'
      omega
    rw [barLow, BitVec.getLsbD_or, BitVec.getLsbD_and, BitVec.getLsbD_ofNat, four,
      show 2 ^ 32 - 2 ^ k = 2 ^ 32 - (2 ^ k - 1 + 1) by omega, Nat.testBit_two_pow_sub_succ lt, Nat.testBit_two_pow_sub_one]
    by_cases h1 : a < 32 <;> simp [h1, ← decide_not]
  constructor
  · apply BitVec.eq_of_getLsbD_eq
    intro a ha
    rw [BitVec.getLsbD_and, mask, fifteen a ha, four]
    by_cases h4 : a < 4
    · simp [h4, show ¬ k ≤ a by omega]
    · simp [h4, show a ≠ 2 by omega]
  · intro a ha
    rw [mask] at ha
    simp only [Bool.or_eq_true, Bool.and_eq_true, decide_eq_true_eq] at ha
    rcases ha with ⟨-, -, ha⟩ | ha
    · exact .inr (Nat.pow_le_pow_right (by decide) ha)
    · exact .inl ha

theorem barBytes_pow (i : Nat) : ∃ k, 4 ≤ k ∧ k < 32 ∧ s.barBytes i = 2 ^ k := by
  unfold State.barBytes
  split
  · exact ⟨26, by decide⟩
  · split
    · exact ⟨12, by decide⟩
    · exact ⟨16, by decide⟩
  · split
    · exact ⟨18, by decide⟩
    · exact ⟨22, by decide⟩

theorem cfgHeader_bar {i : Nat} (hi : i < 3) : s.cfgHeader ld (0x10 + 8 * i) = barLow (s.cfgRw ld (0x10 + 8 * i)) (s.barBytes i) := by
  match i, hi with
  | 0, _ => rfl
  | 1, _ => rfl
  | 2, _ => rfl

/-- The DVSEC shows Memory_Active in both ranges and two decoders (02 R22). -/
theorem cfgDvsec_fields :
    bit32 (s.cfgDvsec ld 0x1C) 1 = s.port.memActive ∧ bit32 (s.cfgDvsec ld 0x2C) 1 = s.port.memActive ∧
    fld32 (s.cfgDvsec ld 8) 20 2 = 2 := by
  have low : ∀ n : Nat, bit32 (BitVec.ofNat 32 (n / unit256 % 16 * unit256 + (1 + 2 * ofBool s.port.memActive))) 1 = s.port.memActive := by
    intro n
    have := Nat.mod_lt (n / unit256) (show 0 < 16 by decide)
    generalize n / unit256 % 16 = j at this
    cases s.port.memActive
    · simp only [bit32, fld32, bitsOf, unit256, ofBool, BitVec.toNat_ofNat, decide_eq_false_iff_not]
      simp only [if_false, Bool.false_eq_true]
      omega
    · simp only [bit32, fld32, bitsOf, unit256, ofBool, BitVec.toNat_ofNat, decide_eq_true_eq]
      simp only [if_true]
      omega
  exact ⟨low _, low _, (by decide : fld32 (0x002E0000 : W32) 20 2 = 2)⟩

/-- A write that clears Bus Master Enable. -/
theorem configuration_clears_bme (hl : ld < 16) (h : s.configOpen ld) (hb : bit32 cv 2 = false) :
    Completes (exec (.configurationRequest ld 4 (some cv)) s) (fun t =>
      s.bme ld = true → t.bme ld = false ∧ t.mem = s.mem ∧ t.rings = s.rings) := by
  rw [configuration_write hl h]
  refine ⟨_, rfl, fun _ => ?_⟩
  simp [State.cfgWrite, hb, State.bme, NSet.has_add]

/-- A write of a BAR changes it and nothing else, unless it is Device Control. -/
theorem configuration_bar (hl : ld < 16) (h : s.configOpen ld) {i : Nat} (hi : i < 3) (ho : off = 0x10 + 8 * i)
    (hc : off ≠ Config.capBase 0 + 8) :
    Completes (exec (.configurationRequest ld off (some cv)) s) (fun t =>
      t = { s with port := t.port, out := .none } ∧ t.cfgHeader ld off = barLow cv (s.barBytes i)) := by
  have e : off % 4096 / 4 * 4 = off := by omega
  rw [configuration_write hl h, e]
  have stored : s.cfgWrite ld off cv = { s with port := { s.port with cfg := Tab.set s.port.cfg (1024 * ld + off / 4) cv } } := by
    simp [State.cfgWrite, hc, show off ≠ 4 by omega]
  rw [stored]
  refine ⟨_, rfl, rfl, ?_⟩
  subst ho
  rw [cfgHeader_bar hi]
  congr 1
  exact Tab.get_set_same ..

/-- HDM_DECODER_COMMIT (02 R22). -/
theorem hdmDecoderCommit_answers (hl : ld < 16) (hd : dec < 2) :
    (¬ (s.port.cxl = true ∧ s.isLd ld = true) → exec (.hdmDecoderCommit ld dec d) s = .next s) ∧
    (s.port.cxl = true ∧ s.isLd ld = true →
      (∃ x, Tab.find s.port.hdm (2 * ld + dec) = some x ∧ x.lock = true) ∨ s.hdmOk ld d = false →
        exec (.hdmDecoderCommit ld dec d) s = .next { s with out := .resp 1 [] }) ∧
    (s.port.cxl = true ∧ s.isLd ld = true → ¬ (∃ x, Tab.find s.port.hdm (2 * ld + dec) = some x ∧ x.lock = true) →
      s.hdmOk ld d = true → exec (.hdmDecoderCommit ld dec d) s = .next { s with
        port := { s.port with hdm := Tab.set s.port.hdm (2 * ld + dec) d }
        out := .resp 0 [] }) := by
  have locked : (Tab.find s.port.hdm (2 * ld + dec)).any (fun x => x.lock) = true ↔
      ∃ x, Tab.find s.port.hdm (2 * ld + dec) = some x ∧ x.lock = true := by
    rw [Option.any_eq_true]
  rw [← locked, exec_hdmDecoderCommit hl hd]
  refine ⟨fun h => ?_, fun h hx => ?_, fun h hx hk => ?_⟩
  · rw [if_pos (by simpa [Classical.or_iff_not_imp_left] using h)]
  · rw [if_neg (by simp [h.1, h.2]), if_pos (by simpa using hx)]
  · rw [if_neg (by simp [h.1, h.2]), if_neg (by simpa [hk] using hx)]

end

/-! ## HDM decoders -/

/-- A decoder gives the device its chunks of an interleaved range in order (02 R22). -/
theorem hdmDecode_chunks {d : HdmSet} {k : Nat} (hg : 0 < d.gran) (hw : 0 < d.ways) (hk : k < d.size) :
    hdmDecode d (d.hpa + k / d.gran * (d.gran * d.ways) + k % d.gran) = some (d.base + k) := by
  have hmod := Nat.mod_lt k hg
  have hdiv := Nat.div_add_mod k d.gran
  have wide : d.gran ≤ d.gran * d.ways := Nat.le_mul_of_pos_right _ hw
  have offset : d.hpa + k / d.gran * (d.gran * d.ways) + k % d.gran - d.hpa = k / d.gran * (d.gran * d.ways) + k % d.gran := by omega
  have below : k / d.gran * (d.gran * d.ways) + k % d.gran < d.size * d.ways := by
    calc k / d.gran * (d.gran * d.ways) + k % d.gran
        ≤ k / d.gran * (d.gran * d.ways) + k % d.gran * d.ways := Nat.add_le_add_left (Nat.le_mul_of_pos_right _ hw) _
      _ = (d.gran * (k / d.gran) + k % d.gran) * d.ways := by ring
      _ = k * d.ways := by rw [hdiv]
      _ < d.size * d.ways := Nat.mul_lt_mul_of_pos_right hk hw
  have chunk : (k / d.gran * (d.gran * d.ways) + k % d.gran) / (d.gran * d.ways) = k / d.gran := by
    rw [Nat.mul_comm (k / d.gran), Nat.mul_add_div (Nat.mul_pos hg hw), Nat.div_eq_of_lt (Nat.lt_of_lt_of_le hmod wide), Nat.add_zero]
  have within : (k / d.gran * (d.gran * d.ways) + k % d.gran) % d.gran = k % d.gran := by
    rw [Nat.mul_left_comm, Nat.mul_add_mod, Nat.mod_mod]
  unfold hdmDecode
  simp only [offset, chunk, within]
  rw [if_pos ⟨by omega, below⟩, Nat.add_assoc, Nat.mul_comm, hdiv]

theorem hpaDpa_first {s : State} {ld k : Nat} {d : HdmSet} (hd : Tab.find s.port.hdm (2 * ld) = some d) (hg : 0 < d.gran) (hw : 0 < d.ways)
    (hk : k < d.size) : s.hpaDpa ld (d.hpa + k / d.gran * (d.gran * d.ways) + k % d.gran) = some (d.base + k) := by
  simp [State.hpaDpa, hd, hdmDecode_chunks hg hw hk]

/-! ## Load -/

theorem devLoad_lt (n d : Nat) : devLoad n d < 4 := by
  unfold devLoad
  repeat' split
  all_goals decide

theorem loadOf_lt (s : State) (pl : Place) (wr : Bool) : s.loadOf pl wr < 4 := by
  cases pl with
  | none => exact Nat.zero_lt_succ _
  | slice n o => exact devLoad_lt _ _
  | far o => exact devLoad_lt _ _

/-! ## A far access moves cache lines and queue entries alone -/

/-- t differs from s at most in the far cache, the queues of the far channels and the poison list. -/
def FarMoved (s t : State) : Prop :=
  t = { s with far := { s.far with q := t.far.q, cache := t.far.cache }, port := { s.port with poison := t.port.poison } }

theorem FarMoved.refl (s : State) : FarMoved s s := rfl

theorem FarMoved.trans {s t u : State} (h : FarMoved s t) (g : FarMoved t u) : FarMoved s u := by
  unfold FarMoved at h g ⊢
  rw [g, h]

theorem FarMoved.ite {s t u : State} {c : Prop} [Decidable c] (h : FarMoved s t) (g : FarMoved s u) : FarMoved s (if c then t else u) := by
  split
  · exact h
  · exact g

theorem setCache_farMoved (s : State) (set : Nat) (l : List CWay) : FarMoved s (s.setCache set l) := rfl

theorem enqueue_farMoved (s : State) (l : Nat) (wr : Bool) : FarMoved s (s.enqueue l wr) := by
  unfold State.enqueue
  exact .ite (.refl s) rfl

theorem writeBack_farMoved (s : State) (l : Nat) : FarMoved s (s.writeBack l) := by
  unfold State.writeBack
  exact .ite rfl (enqueue_farMoved ..)

theorem allocate_farMoved (s : State) (set line : Nat) (dirty : Bool) : FarMoved s (s.allocate set line dirty) := by
  unfold State.allocate
  extract_lets ways
  split
  · exact setCache_farMoved ..
  · split
    · exact .refl s
    · exact .trans (.ite (writeBack_farMoved ..) (.refl s)) (setCache_farMoved ..)

theorem cacheAccess_farMoved (s : State) (l hint : Nat) (wr whole : Bool) : FarMoved s (s.cacheAccess l hint wr whole) := by
  have through : ∀ set ways, FarMoved s ((s.writeBack l).setCache set ways) := fun set ways =>
    (writeBack_farMoved ..).trans (setCache_farMoved ..)
  unfold State.cacheAccess
  extract_lets set ways rest valid
  split
  · exact .ite (setCache_farMoved ..) (.ite (.ite (setCache_farMoved ..) (setCache_farMoved ..)) (.refl s))
  · exact .ite (setCache_farMoved ..) (.ite (through ..) (through ..))
  · exact .ite ((enqueue_farMoved ..).trans (allocate_farMoved ..)) (enqueue_farMoved ..)
  · exact .ite (.trans (.ite (.refl s) (enqueue_farMoved ..)) (allocate_farMoved ..)) (enqueue_farMoved ..)

theorem farAccess_farMoved (s : State) (t : PTab) (o hint : Nat) (wr whole : Bool) : FarMoved s (s.farAccess t o hint wr whole) := by
  unfold State.farAccess
  extract_lets l
  refine .ite (.refl s) ?_
  split
  · exact .ite (enqueue_farMoved ..) (cacheAccess_farMoved ..)
  · exact enqueue_farMoved ..

theorem farTouch_farMoved (s : State) (t : PTab) (o n hint : Nat) (wr : Bool) : FarMoved s (s.farTouch t o n hint wr) := by
  unfold State.farTouch
  generalize wordsOf 256 o n = ws
  induction ws generalizing s with
  | nil => exact .refl s
  | cons w ws ih => exact (farAccess_farMoved ..).trans (ih _)

theorem cxlTouch_farMoved (s : State) (pl : Place) (wr : Bool) : FarMoved s (s.cxlTouch pl wr) := by
  cases pl with
  | far o => exact farTouch_farMoved ..
  | slice n o => exact .refl s
  | none => exact .refl s

/-! ## Places -/

/-- The 32-byte word at a place reads as uncorrectable. -/
def State.placeBad (s : State) (pl : Place) : Bool :=
  match pl with
  | .slice n off => s.sliceBad (unit256 * n + off)
  | .far o => s.farBad o
  | .none => false

/-- The byte at a place. -/
def MemSt.byteAt (m : MemSt) (pl : Place) : Byte :=
  match pl with
  | .slice n off => Mem.rd m.slice (unit256 * n + off)
  | .far o => Mem.rd m.far o
  | .none => 0

/-- A byte of a memory whose offset is a multiple of `n`. -/
def Place.aligned (pl : Place) (n : Nat) : Prop :=
  match pl with
  | .slice _ off => off % n = 0
  | .far o => o % n = 0
  | .none => False

theorem FarMoved.place {s t : State} (h : FarMoved s t) (pl : Place) :
    t.mem = s.mem ∧ t.placeBad pl = s.placeBad pl ∧ t.placeHeld pl = s.placeHeld pl := by
  unfold FarMoved at h
  rw [h]
  cases pl <;> exact ⟨rfl, rfl, rfl⟩

theorem placeDpa_aligned {s : State} {ld a : Nat} (ha : a % 64 = 0) (hb : s.backed (s.placeDpa ld a) = true) :
    (s.placeDpa ld a).aligned 64 := by
  have slice : a % unit256 % 64 = 0 := by unfold unit256; omega
  have far : (a - dpaFar) % 64 = 0 := by unfold dpaFar; omega
  have share : ∀ k, (a - dpaFar + unit256 * k) % 64 = 0 := by
    intro k
    unfold unit256
    omega
  have nowhere : s.placeDpa ld a ≠ .none := by
    intro e
    rw [e] at hb
    cases hb
  unfold State.placeDpa at nowhere ⊢
  split
  · rename_i hlt
    rw [if_pos hlt] at nowhere
    split
    · rename_i hm
      rw [if_pos hm] at nowhere
      split
      · exact slice
      · rename_i hn
        exact absurd (by rw [hn]) nowhere
    · exact slice
  · rename_i hlt
    rw [if_neg hlt] at nowhere
    split
    · rename_i hm
      rw [if_pos hm] at nowhere
      extract_lets at nowhere ⊢
      split
      · exact share _
      · rename_i hn
        exact absurd (if_neg hn) nowhere
    · exact far

theorem wordsOf_granule {a : Nat} (h : a % 64 = 0) : wordsOf 32 a 64 = [a / 32, a / 32 + 1] := by
  have two : (a + 64 - 1) / 32 - a / 32 + 1 = 2 := by omega
  rw [wordsOf, if_neg (by decide), two]
  simp [List.range_succ, Nat.add_comm]

/-- A granule is readable when both its words are. -/
theorem placeFault_none_iff {s : State} {pl : Place} (h : pl.aligned 64) :
    s.placeFault pl 64 = none ↔ s.placeBad pl = false ∧ s.placeBad (pl.plus 32) = false := by
  cases pl with
  | none => exact h.elim
  | slice n o =>
    have h : o % 64 = 0 := h
    have a : (unit256 * n + o) % 64 = 0 := by unfold unit256; omega
    have e1 : (unit256 * n + o) / 32 * 32 = unit256 * n + o := by omega
    have e2 : ((unit256 * n + o) / 32 + 1) * 32 = unit256 * n + (o + 32) := by omega
    simp [State.placeFault, State.sliceFault, wordsOf_granule a, State.placeBad, Place.plus, e1, e2]
  | far o =>
    have h : o % 64 = 0 := h
    have e1 : o / 32 * 32 = o := by omega
    have e2 : (o / 32 + 1) * 32 = o + 32 := by omega
    simp [State.placeFault, State.farFault, wordsOf_granule h, State.placeBad, Place.plus, e1, e2]

/-- A granule of readable words holds no poisoned one. -/
theorem placePois_of_good {s : State} {pl : Place} (h : pl.aligned 64) (h1 : s.placeBad pl = false) (h2 : s.placeBad (pl.plus 32) = false) :
    s.placePois pl = false := by
  cases pl with
  | none => exact h.elim
  | slice n o =>
    have h : o % 64 = 0 := h
    have a : (unit256 * n + o) % 64 = 0 := by unfold unit256; omega
    have e : (unit256 * n + (o + 32)) / 32 = (unit256 * n + o) / 32 + 1 := by omega
    simp only [State.placeBad, Place.plus, State.sliceBad, Bool.or_eq_false_iff, e] at h1 h2
    simp [State.placePois, wordsOf_granule a, h1, h2]
  | far o =>
    have h : o % 64 = 0 := h
    have e : (o + 32) / 32 = o / 32 + 1 := by omega
    simp only [State.placeBad, Place.plus, State.farBad, Bool.or_eq_false_iff, e] at h1 h2
    simp [State.placePois, wordsOf_granule h, h1, h2]

theorem rdBytes_getD (m : Mem) (a n j : Nat) (h : j < n) : (Mem.rdBytes m a n).getD j 0 = Mem.rd m (a + j) := by
  induction n generalizing a j with
  | zero => omega
  | succ n ih =>
    cases j with
    | zero => rfl
    | succ j =>
      rw [Mem.rdBytes, List.getD_cons_succ, ih _ _ (by omega)]
      congr 1
      omega

theorem rdBytes_length (m : Mem) (a n : Nat) : (Mem.rdBytes m a n).length = n := by
  induction n generalizing a with
  | zero => rfl
  | succ n ih => rw [Mem.rdBytes, List.length_cons, ih]

theorem rdPlace_length (s : State) (pl : Place) (n : Nat) : (s.rdPlace pl n).length = n := by
  cases pl with
  | none => exact List.length_replicate
  | slice m o => exact rdBytes_length ..
  | far o => exact rdBytes_length ..

theorem rdPlace_getD (s : State) (pl : Place) {n j : Nat} (h : j < n) : (s.rdPlace pl n).getD j 0 = s.mem.byteAt (pl.plus j) := by
  cases pl with
  | none => simp [State.rdPlace, zeros, MemSt.byteAt, Place.plus, h]
  | slice m o => rw [State.rdPlace, rdBytes_getD _ _ _ _ h, Nat.add_assoc]; rfl
  | far o => exact rdBytes_getD _ _ _ _ h

/-! ## Stores of whole words -/

/-- t is s with the bytes `g 0 … g (n − 1)` stored at a place and no other byte changed; no word that was readable has become unreadable. -/
structure Stores (n : Nat) (s : State) (pl : Place) (g : Nat → Byte) (t : State) : Prop where
  rest : t = { s with mem := t.mem }
  host : t.mem.host = s.mem.host
  shelf : t.mem.shelf = s.mem.shelf
  inside : ∀ j < n, t.mem.byteAt (pl.plus j) = g j
  slice : ∀ b, (∀ m o, pl = .slice m o → b < unit256 * m + o ∨ unit256 * m + o + n ≤ b) → Mem.rd t.mem.slice b = Mem.rd s.mem.slice b
  far : ∀ b, (∀ o, pl = .far o → b < o ∨ o + n ≤ b) → Mem.rd t.mem.far b = Mem.rd s.mem.far b
  good : ∀ x, s.placeBad x = false → t.placeBad x = false

/-- A store changes no byte of a place before it or after it. -/
theorem Stores.byteAt_out {n : Nat} {s t : State} {pl : Place} {g : Nat → Byte} (h : Stores n s pl g t) {x : Place} {i j : Nat}
    (hx : pl = x.plus i) (hj : j < i ∨ i + n ≤ j) : t.mem.byteAt (x.plus j) = s.mem.byteAt (x.plus j) := by
  subst hx
  cases x with
  | none => rfl
  | slice m o =>
    refine h.slice _ (fun m' o' e => ?_)
    simp only [Place.plus, Place.slice.injEq] at e
    obtain ⟨rfl, rfl⟩ := e
    omega
  | far o =>
    refine h.far _ (fun o' e => ?_)
    simp only [Place.plus, Place.far.injEq] at e
    omega

/-- Nothing stored is a store of the bytes that stand there. -/
theorem Stores.nothing (n : Nat) (s : State) (pl : Place) : Stores n s pl (fun j => s.mem.byteAt (pl.plus j)) s where
  rest := rfl
  host := rfl
  shelf := rfl
  inside _ _ := rfl
  slice _ _ := rfl
  far _ _ := rfl
  good _ h := h

theorem Stores.congr {n : Nat} {s t : State} {pl : Place} {g g' : Nat → Byte} (h : Stores n s pl g t) (e : ∀ j < n, g j = g' j) :
    Stores n s pl g' t := { h with inside := fun j hj => (h.inside j hj).trans (e j hj) }

theorem Place.plus_plus (pl : Place) (i j : Nat) : (pl.plus i).plus j = pl.plus (i + j) := by
  cases pl <;> simp [Place.plus, Nat.add_assoc]

theorem Place.plus_zero (pl : Place) : pl.plus 0 = pl := by cases pl <;> rfl

/-- Two stores one behind the other are one. -/
theorem Stores.append {n m : Nat} {s t u : State} {pl : Place} {g g' : Nat → Byte} (h : Stores n s pl g t) (h' : Stores m t (pl.plus n) g' u) :
    Stores (n + m) s pl (fun j => if j < n then g j else g' (j - n)) u where
  rest := by rw [h'.rest, h.rest]
  host := h'.host.trans h.host
  shelf := h'.shelf.trans h.shelf
  inside j hj := by
    by_cases hn : j < n
    · rw [h'.byteAt_out rfl (.inl hn), h.inside j hn, if_pos hn]
    · have := h'.inside (j - n) (by omega)
      rw [Place.plus_plus, show n + (j - n) = j by omega] at this
      rw [this, if_neg hn]
  slice b hb := by
    rw [h'.slice b, h.slice b]
    · intro k o e
      have := hb k o e
      omega
    · intro k o e
      cases pl with
      | slice k' o' =>
        simp only [Place.plus, Place.slice.injEq] at e
        obtain ⟨rfl, rfl⟩ := e
        have := hb k' o' rfl
        omega
      | far o' => cases e
      | none => cases e
  far b hb := by
    rw [h'.far b, h.far b]
    · intro o e
      have := hb o e
      omega
    · intro o e
      cases pl with
      | far o' =>
        simp only [Place.plus, Place.far.injEq] at e
        have := hb o' rfl
        omega
      | slice k' o' => cases e
      | none => cases e
  good x hx := h'.good x (h.good x hx)

theorem rd_wrBytes_inside (m : Mem) (a : Nat) {l : List Byte} {j : Nat} (hj : j < l.length) :
    Mem.rd (Mem.wrBytes m a l) (a + j) = l.getD j 0 := by
  rw [← rdBytes_getD _ _ _ _ hj, Mem.rdBytes_wrBytes]

theorem NSet.has_addRange (t : NSet) (a n b : Nat) : NSet.has (NSet.addRange t a n) b = (decide (a ≤ b ∧ b < a + n) || NSet.has t b) := by
  induction n with
  | zero => simp [NSet.addRange]
  | succ n ih =>
    rw [NSet.addRange, NSet.has_add, ih, Bool.eq_iff_iff]
    simp only [Bool.or_eq_true, decide_eq_true_eq]
    constructor
    · rintro (h | h | h)
      · exact .inl (by omega)
      · exact .inl (by omega)
      · exact .inr h
    · rintro (h | h)
      · by_cases e : b = a + n
        · exact .inl e
        · exact .inr (.inl (by omega))
      · exact .inr (.inr h)

/-- Memory with the 32 bytes `b` stored whole at stack address a: the word is poisoned no more, the others of an unwritten line of a lost
block are (12 R262, R265). -/
def State.sliceStored (s : State) (a : Nat) (b : List Byte) : MemSt :=
  { s.mem with
    slice := Mem.wrBytes s.mem.slice a b
    sliceValid := NSet.add s.mem.sliceValid (a / 256)
    slicePois := NSet.del (if NSet.has s.mem.lost (a / unit256) && !NSet.has s.mem.sliceValid (a / 256) then
      NSet.addRange s.mem.slicePois (a / 256 * 8) 8 else s.mem.slicePois) (a / 32)
    sliceUe := if s.sliceBad a then NSet.add s.mem.sliceUe (a / 32) else s.mem.sliceUe }

theorem wrSliceWord_whole {s : State} {a : Nat} {b : List Byte} (ha : a % 32 = 0) (hb : b.length = 32) (hd : s.dropsSlice a = false) :
    (s.wrSliceWord a b).s = { s with mem := s.sliceStored a b } := by
  unfold State.wrSliceWord
  extract_lets n m w line full lostLine m1 m2
  rw [if_neg (by simp [hd]), if_pos (show full = true by simp [full, ha, hb])]
  by_cases hl : lostLine = true
  · simp only [m2, m1, hl, State.sliceStored]
    rw [if_pos (show lostLine = true from hl)]
    rfl
  · simp only [m2, m1, hl, State.sliceStored]
    rw [if_neg (show ¬ lostLine = true from hl)]
    rfl

theorem sliceBad_sliceStored {s : State} {a x : Nat} {b : List Byte} (h : s.sliceBad x = false) :
    ({ s with mem := s.sliceStored a b } : State).sliceBad x = false := by
  simp only [State.sliceBad, Bool.or_eq_false_iff, Bool.and_eq_false_iff, Bool.not_eq_false'] at h
  obtain ⟨⟨hheld, hpois⟩, hlost⟩ := h
  have unlisted : NSet.has (if NSet.has s.mem.lost (a / unit256) && !NSet.has s.mem.sliceValid (a / 256) then
      NSet.addRange s.mem.slicePois (a / 256 * 8) 8 else s.mem.slicePois) (x / 32) = false := by
    split
    · rename_i hl
      rw [NSet.has_addRange, hpois, Bool.or_false, decide_eq_false_iff_not]
      intro hr
      have line : x / 256 = a / 256 := by omega
      have stall : x / unit256 = a / unit256 := by unfold unit256; omega
      rw [line, stall] at hlost
      rcases hlost with h | h <;> simp [h] at hl
    · exact hpois
  have lost : (NSet.has s.mem.lost (x / unit256) && !NSet.has (NSet.add s.mem.sliceValid (a / 256)) (x / 256)) = false := by
    rcases hlost with h | h <;> simp [NSet.has_add, h]
  have held : ({ s with mem := s.sliceStored a b } : State).heldRow (x / unit256) (x % unit256) = false := hheld
  simp only [State.sliceBad, held]
  simp only [State.sliceStored, NSet.has_del, unlisted, lost]
  simp

theorem sliceBad_sliceStored_same {s : State} {a : Nat} {b : List Byte} (hd : s.dropsSlice a = false) :
    ({ s with mem := s.sliceStored a b } : State).sliceBad a = false := by
  have held : ({ s with mem := s.sliceStored a b } : State).heldRow (a / unit256) (a % unit256) = false := hd
  simp only [State.sliceBad, held]
  simp [State.sliceStored, NSet.has_del, NSet.has_add]

/-- Memory with the 32 bytes `b` stored whole at far offset o. -/
def State.farStored (s : State) (o : Nat) (b : List Byte) : MemSt :=
  { s.mem with
    far := Mem.wrBytes s.mem.far o b
    farValid := NSet.add s.mem.farValid (o / 256)
    farPois := NSet.del s.mem.farPois (o / 32)
    farUe := if s.farBad o then NSet.add s.mem.farUe (o / 32) else s.mem.farUe }

theorem wrFarWord_whole {s : State} {o : Nat} {b : List Byte} (ho : o % 32 = 0) (hb : b.length = 32) (hd : s.stranded o = false) :
    (s.wrFarWord o b).s = { s with mem := s.farStored o b } := by
  unfold State.wrFarWord
  extract_lets m w full m2
  rw [if_neg (by simp [hd]), if_pos (show full = true by simp [full, ho, hb])]
  rfl

/-- A place where a word may be stored: aligned, in a memory, and no held row or stranded line. -/
def State.storable (s : State) (pl : Place) : Prop := pl.aligned 32 ∧ s.placeHeld pl = false

/-- The state after a word is stored whole at a place. -/
def State.stored (s : State) (pl : Place) (b : List Byte) : State :=
  match pl with
  | .slice n o => { s with mem := s.sliceStored (unit256 * n + o) b }
  | .far o => { s with mem := s.farStored o b }
  | .none => s

theorem pieces_nil (sz n a : Nat) : pieces sz n a [] = [] := by cases n <;> rfl

theorem pieces_cons {sz a : Nat} (n : Nat) {b : List Byte} (hb : b ≠ []) (ha : a % sz = 0) :
    pieces sz (n + 1) a b = (a, b.take sz) :: pieces sz n (a + sz) (b.drop sz) := by
  cases b with
  | nil => exact absurd rfl hb
  | cons x b => simp [pieces, ha]

theorem ne_nil_of_length {b : List Byte} {n : Nat} (h : b.length = n) (hn : 0 < n) : b ≠ [] := by
  rintro rfl
  exact absurd h (by simp; omega)

theorem pieces_word {a : Nat} {b : List Byte} (ha : a % 32 = 0) (hb : b.length = 32) : pieces 32 (b.length + 1) a b = [(a, b)] := by
  rw [hb, pieces_cons _ (ne_nil_of_length hb (by decide)) ha, List.drop_eq_nil_of_le (by omega), List.take_of_length_le (by omega), pieces_nil]

theorem pieces_granule {a : Nat} {b : List Byte} (ha : a % 32 = 0) (hb : b.length = 64) :
    pieces 32 (b.length + 1) a b = [(a, b.take 32), (a + 32, b.drop 32)] := by
  have hd : (b.drop 32).length = 32 := by simp [hb]
  rw [hb, pieces_cons _ (ne_nil_of_length hb (by decide)) ha, pieces_cons _ (ne_nil_of_length hd (by decide)) (by omega),
    List.drop_eq_nil_of_le (show (b.drop 32).length ≤ 32 by omega), List.take_of_length_le (show (b.drop 32).length ≤ 32 by omega), pieces_nil]

theorem wrPlace_word {s : State} {pl : Place} {b : List Byte} (h : s.storable pl) (hb : b.length = 32) :
    (s.wrPlace pl b).s = s.stored pl b := by
  obtain ⟨ha, hd⟩ := h
  cases pl with
  | none => exact ha.elim
  | slice n o =>
    have h0 : (unit256 * n + o) % 32 = 0 := by
      have ha : o % 32 = 0 := ha
      unfold unit256
      omega
    simp only [State.wrPlace, State.wrSlice, State.wrPieces, pieces_word h0 hb, List.foldl_cons, List.foldl_nil]
    exact wrSliceWord_whole h0 hb hd
  | far o =>
    simp only [State.wrPlace, State.wrFar, State.wrPieces, pieces_word ha hb, List.foldl_cons, List.foldl_nil]
    exact wrFarWord_whole ha hb hd

/-- A word written whole where it may be stored is stored, readable and valid (05 R119; 12 R265). -/
theorem stored_stores {s : State} {pl : Place} {b : List Byte} (h : s.storable pl) (hb : b.length = 32) :
    Stores 32 s pl (fun j => b.getD j 0) (s.stored pl b) ∧ (s.stored pl b).placeBad pl = false ∧ (s.stored pl b).placeValid pl = true := by
  obtain ⟨ha, hd⟩ := h
  cases pl with
  | none => exact ha.elim
  | slice n o =>
    refine ⟨⟨rfl, rfl, rfl, fun j hj => ?_, fun x hx => ?_, fun _ _ => rfl, fun x hx => ?_⟩, sliceBad_sliceStored_same hd, ?_⟩
    · show Mem.rd (Mem.wrBytes _ _ _) (unit256 * n + (o + j)) = _
      rw [← Nat.add_assoc, rd_wrBytes_inside _ _ (by omega)]
    · exact Mem.rd_wrBytes_out _ _ _ _ (by have := hx n o rfl; omega)
    · cases x with
      | slice n' o' => exact sliceBad_sliceStored hx
      | far o' => exact hx
      | none => rfl
    · show NSet.has (NSet.add _ _) _ = true
      simp [NSet.has_add]
  | far o =>
    have held : ∀ x, ({ s with mem := s.farStored o b } : State).stranded x = s.stranded x := fun _ => rfl
    refine ⟨⟨rfl, rfl, rfl, fun j hj => ?_, fun _ _ => rfl, fun x hx => ?_, fun x hx => ?_⟩, ?_, ?_⟩
    · exact rd_wrBytes_inside _ _ (by omega)
    · exact Mem.rd_wrBytes_out _ _ _ _ (by have := hx o rfl; omega)
    · cases x with
      | slice n' o' => exact hx
      | none => rfl
      | far o' =>
        simp only [State.placeBad, State.farBad, Bool.or_eq_false_iff] at hx ⊢
        refine ⟨hx.1, ?_⟩
        show NSet.has (NSet.del _ _) _ = false
        rw [NSet.has_del, hx.2, Bool.and_false]
    · have hd : s.stranded o = false := hd
      simp only [State.placeBad, State.farBad, State.stored, held, hd]
      simp [State.farStored, NSet.has_del]
    · show NSet.has (NSet.add _ _) _ = true
      simp [NSet.has_add]

theorem stored_placeHeld (s : State) (pl x : Place) (b : List Byte) : (s.stored pl b).placeHeld x = s.placeHeld x := by
  cases pl <;> cases x <;> rfl

theorem aligned_words {pl : Place} (h : pl.aligned 64) : pl.aligned 32 ∧ (pl.plus 32).aligned 32 := by
  cases pl with
  | none => exact h.elim
  | slice n o =>
    have h : o % 64 = 0 := h
    constructor <;> show _ % 32 = 0 <;> omega
  | far o =>
    have h : o % 64 = 0 := h
    constructor <;> show _ % 32 = 0 <;> omega

/-- A granule written whole is its two words written in turn. -/
theorem wrPlace_granule {s : State} {pl : Place} {b : List Byte} (ha : pl.aligned 64) (hb : b.length = 64) :
    (s.wrPlace pl b).s = ((s.wrPlace pl (b.take 32)).s.wrPlace (pl.plus 32) (b.drop 32)).s := by
  have ht : (b.take 32).length = 32 := by simp [hb]
  have hd : (b.drop 32).length = 32 := by simp [hb]
  cases pl with
  | none => rfl
  | slice n o =>
    have h0 : (unit256 * n + o) % 32 = 0 := by
      have ha : o % 64 = 0 := ha
      unfold unit256
      omega
    simp only [State.wrPlace, State.wrSlice, State.wrPieces, Place.plus, ← Nat.add_assoc, pieces_granule h0 hb, pieces_word h0 ht,
      pieces_word (show (unit256 * n + o + 32) % 32 = 0 by omega) hd, List.foldl_cons, List.foldl_nil]
  | far o =>
    have h0 : o % 32 = 0 := by
      have ha : o % 64 = 0 := ha
      omega
    simp only [State.wrPlace, State.wrFar, State.wrPieces, Place.plus, pieces_granule h0 hb, pieces_word h0 ht,
      pieces_word (show (o + 32) % 32 = 0 by omega) hd, List.foldl_cons, List.foldl_nil]

/-- A granule written whole where it may be stored: it holds the bytes and is readable and valid, and nothing else has changed. -/
theorem wrPlace_granule_stores {s : State} {pl : Place} {b : List Byte} (ha : pl.aligned 64) (hb : b.length = 64)
    (h1 : s.placeHeld pl = false) (h2 : s.placeHeld (pl.plus 32) = false) :
    Stores 64 s pl (fun j => b.getD j 0) (s.wrPlace pl b).s ∧ (s.wrPlace pl b).s.placeFault pl 64 = none ∧
    (s.wrPlace pl b).s.placeValid pl = true := by
  have ht : (b.take 32).length = 32 := by simp [hb]
  have hd : (b.drop 32).length = 32 := by simp [hb]
  have first : s.storable pl := ⟨(aligned_words ha).1, h1⟩
  have second : (s.stored pl (b.take 32)).storable (pl.plus 32) := ⟨(aligned_words ha).2, (stored_placeHeld ..).trans h2⟩
  obtain ⟨st1, good1, valid1⟩ := stored_stores first ht
  obtain ⟨st2, good2, -⟩ := stored_stores second hd
  rw [wrPlace_granule ha hb, wrPlace_word first ht, wrPlace_word second hd]
  refine ⟨(st1.append st2).congr (fun j hj => ?_), (placeFault_none_iff ha).2 ⟨st2.good _ good1, good2⟩, ?_⟩
  · split
    · rw [List.getD_eq_getElem?_getD, List.getElem?_take_of_lt ‹_›, ← List.getD_eq_getElem?_getD]
    · rw [List.getD_eq_getElem?_getD, List.getElem?_drop, ← List.getD_eq_getElem?_getD]
      congr 1
      omega
  · cases pl with
    | none => exact ha.elim
    | slice n o => exact (NSet.has_add ..).trans (by rw [show NSet.has _ _ = true from valid1, Bool.or_true])
    | far o => exact (NSet.has_add ..).trans (by rw [show NSet.has _ _ = true from valid1, Bool.or_true])

/-! ## Partial writes -/

theorem toLE_length (n v : Nat) : (toLE n v).length = n := by
  induction n generalizing v with
  | zero => rfl
  | succ n ih => rw [toLE, List.length_cons, ih]

theorem placeFault_word_none {s : State} {pl : Place} (h : pl.aligned 32) (hg : s.placeBad pl = false) : s.placeFault pl 32 = none := by
  have one : ∀ a, a % 32 = 0 → wordsOf 32 a 32 = [a / 32] ∧ a / 32 * 32 = a := by
    intro a ha
    refine ⟨?_, by omega⟩
    rw [wordsOf, if_neg (by decide), show (a + 32 - 1) / 32 - a / 32 + 1 = 1 by omega]
    simp
  cases pl with
  | none => rfl
  | slice n o =>
    have h0 : (unit256 * n + o) % 32 = 0 := by
      have h : o % 32 = 0 := h
      unfold unit256
      omega
    have hg : s.sliceBad (unit256 * n + o) = false := hg
    simp [State.placeFault, State.sliceFault, one _ h0, hg]
  | far o =>
    have hg : s.farBad o = false := hg
    simp [State.placeFault, State.farFault, one o h, hg]

section
variable {s t : State} {ld dpa w : Nat} {pl : Place} {data : List Byte} {be : Word}

/-- The byte j of a partial write: the new one where it is enabled, else the one that stands there. -/
def partByte (s : State) (pl : Place) (data : List Byte) (be : Word) (j : Nat) : Byte :=
  if bit be j = true then data.getD j 0 else s.mem.byteAt (pl.plus j)

/-- One readable word of a partial write holds the enabled bytes, and the rest as it stood (02 R28). -/
theorem partWord_stores (hs : s.storable (pl.plus (32 * w))) (hg : s.placeBad (pl.plus (32 * w)) = false) (hd : data.length = 64) (hw : w < 2) :
    Stores 32 s (pl.plus (32 * w)) (fun j => partByte s pl data be (32 * w + j)) (s.partWord ld dpa pl data be w) := by
  have enabled : ∀ j < 32, ((List.range 32).map (fun i => bit be (32 * w + i)))[j]? = some (bit be (32 * w + j)) := by
    intro j hj
    rw [List.getElem?_map, List.getElem?_range hj]
    rfl
  have new_len : ((data.drop (32 * w)).take 32).length = 32 := by
    rw [List.length_take, List.length_drop]
    omega
  have new_at : ∀ j < 32, ((data.drop (32 * w)).take 32).getD j 0 = data.getD (32 * w + j) 0 := by
    intro j hj
    rw [List.getD_eq_getElem?_getD, List.getElem?_take_of_lt hj, List.getElem?_drop, ← List.getD_eq_getElem?_getD]
  unfold State.partWord
  extract_lets q en new
  have en_at : ∀ j < 32, bit be (32 * w + j) ∈ en := fun j hj => List.mem_of_getElem? (enabled j hj)
  split
  · rename_i hnone
    refine (Stores.nothing 32 s (pl.plus (32 * w))).congr (fun j hj => ?_)
    have off : bit be (32 * w + j) = false := by simpa using List.all_eq_true.1 hnone _ (en_at j hj)
    rw [partByte, off, if_neg (by decide), Place.plus_plus]
  · split
    · rename_i hall
      rw [wrPlace_word hs new_len]
      refine (stored_stores hs new_len).1.congr (fun j hj => ?_)
      have on : bit be (32 * w + j) = true := by simpa using List.all_eq_true.1 hall _ (en_at j hj)
      rw [partByte, on, if_pos rfl, new_at j hj]
    · rw [placeFault_word_none hs.1 hg, if_neg (by decide)]
      have len : ((en.zip (new.zip (s.rdPlace q 32))).map (fun x => if x.1 then x.2.1 else x.2.2)).length = 32 := by
        have en_len : en.length = 32 := by rw [List.length_map, List.length_range]
        have new_len' : new.length = 32 := new_len
        simp [en_len, new_len', rdPlace_length]
      rw [wrPlace_word hs len]
      refine (stored_stores hs len).1.congr (fun j hj => ?_)
      have new_j : new[j]? = some (data.getD (32 * w + j) 0) := by
        have hj' : j < new.length := by rw [show new.length = 32 from new_len]; exact hj
        rw [← new_at j hj, List.getElem?_eq_getElem hj', List.getD_eq_getElem _ _ hj']
      have old_j : (s.rdPlace q 32)[j]? = some (s.mem.byteAt (pl.plus (32 * w + j))) := by
        have hj' : j < (s.rdPlace q 32).length := by rw [rdPlace_length]; exact hj
        rw [← Place.plus_plus, ← rdPlace_getD s q hj, List.getElem?_eq_getElem hj', List.getD_eq_getElem _ _ hj']
      have zipped : (en.zip (new.zip (s.rdPlace q 32)))[j]? =
          some (bit be (32 * w + j), data.getD (32 * w + j) 0, s.mem.byteAt (pl.plus (32 * w + j))) :=
        List.getElem?_zip_eq_some.2 ⟨enabled j hj, List.getElem?_zip_eq_some.2 ⟨new_j, old_j⟩⟩
      rw [List.getD_eq_getElem?_getD, List.getElem?_map, zipped]
      rfl

/-- A partial write of a readable granule that may be stored: it holds the enabled bytes and the rest as it stood, and stays readable. -/
theorem partWords_store (ha : pl.aligned 64) (hd : data.length = 64) (h1 : s.placeHeld pl = false) (h2 : s.placeHeld (pl.plus 32) = false)
    (hf : s.placeFault pl 64 = none) (ht : [0, 1].foldl (fun s w => s.partWord ld dpa pl data be w) s = t) :
    Stores 64 s pl (partByte s pl data be) t ∧ t.placeFault pl 64 = none := by
  obtain ⟨g1, g2⟩ := (placeFault_none_iff ha).1 hf
  obtain ⟨a1, a2⟩ := aligned_words ha
  have st1 := partWord_stores (s := s) (ld := ld) (dpa := dpa) (be := be) (w := 0) (pl := pl) (by rw [Place.plus_zero]; exact ⟨a1, h1⟩)
    (by rw [Place.plus_zero]; exact g1) hd (by decide)
  rw [Place.plus_zero] at st1
  have held : ∀ {u : State} {n : Nat} {g : Nat → Byte} {x : Place}, Stores n s pl g u → u.placeHeld x = s.placeHeld x := by
    intro u n g x h
    rw [h.rest]
    cases x <;> rfl
  have st2 := partWord_stores (s := s.partWord ld dpa pl data be 0) (ld := ld) (dpa := dpa) (be := be) (w := 1) (pl := pl)
    ⟨a2, (held st1).trans h2⟩ (st1.good _ g2) hd (by decide)
  have hu : t = (s.partWord ld dpa pl data be 0).partWord ld dpa pl data be 1 := ht.symm
  rw [hu]
  refine ⟨(st1.append st2).congr (fun j hj => ?_), (placeFault_none_iff ha).2 ⟨st2.good _ (st1.good _ g1), st2.good _ (st1.good _ g2)⟩⟩
  split
  · rw [Nat.mul_zero, Nat.zero_add]
  · rw [show 32 * 1 + (j - 32) = j by omega, partByte, partByte, st1.byteAt_out (Place.plus_zero pl).symm (by omega)]

end

/-! ## CXL.mem -/

section
variable {s t : State} {ld off b : Nat} {data : Row} {be : Word} {f : State → Nat → State}

/-- A request that is not served, or that no decoder claims, changes nothing. -/
theorem cxlAt_unclaimed (h : s.cxlServed ld = false ∨ s.hpaDpa ld off = none) : s.cxlAt ld off f = s := by
  unfold State.cxlAt
  rcases h with h | h
  · rw [h]; rfl
  · rw [h]; exact ite_self _

theorem cxlAt_claimed (hs : s.cxlServed ld = true) (hb : s.hpaDpa ld off = some b) : s.cxlAt ld off f = f s b := by
  simp [State.cxlAt, hs, hb]

/-- A read of a granule that nothing backs returns poison. -/
theorem cxlRead_unbacked (h : s.backed (s.placeDpa ld (b / 64 * 64)) = false) :
    (s.cxlRead ld b).out = .line 0 true 0 ∧ (s.cxlRead ld b).mem = s.mem := by
  refine ⟨?_, State.cxlRead_mem ..⟩
  simp [State.cxlRead, h]

theorem cxlStore_unbacked {g : State → Place → State} (h : s.backed (s.placeDpa ld (b / 64 * 64)) = false) :
    (s.cxlStore ld b g).out = .resp 0 [] ∧ (s.cxlStore ld b g).mem = s.mem := by
  simp [State.cxlStore, h]

theorem mem_addPoison (x : Nat × Nat) : x ∈ (s.addPoison [x]).port.poison := by
  by_cases h : x ∈ s.port.poison <;> simp [State.addPoison, h]

/-- A read of an unreadable granule returns poison, and its DPA is on the poison list (02 R27). -/
theorem cxlRead_fault (h : s.backed (s.placeDpa ld (b / 64 * 64)) = true)
    (hf : (s.placeFault (s.placeDpa ld (b / 64 * 64)) 64).isSome = true) :
    (s.cxlRead ld b).out = .line 0 true (if s.placeValid (s.placeDpa ld (b / 64 * 64)) = true then
      s.loadOf (s.placeDpa ld (b / 64 * 64)) false else 0) ∧
    (s.cxlRead ld b).mem = s.mem ∧ (ld, b / 64 * 64) ∈ (s.cxlRead ld b).port.poison := by
  refine ⟨?_, State.cxlRead_mem .., ?_⟩
  · simp [State.cxlRead, h, hf]
  · simp only [State.cxlRead, h, hf]
    exact mem_addPoison _

theorem cxlRead_good (h : s.backed (s.placeDpa ld (b / 64 * 64)) = true) (hf : s.placeFault (s.placeDpa ld (b / 64 * 64)) 64 = none) :
    (s.placeValid (s.placeDpa ld (b / 64 * 64)) = false →
      s.cxlRead ld b = { s.cxlTouch (s.placeDpa ld (b / 64 * 64)) false with out := .line 0 false 0 }) ∧
    (s.placeValid (s.placeDpa ld (b / 64 * 64)) = true →
      s.cxlRead ld b = { s.cxlTouch (s.placeDpa ld (b / 64 * 64)) false with
        out := .line (rowOf (s.rdPlace (s.placeDpa ld (b / 64 * 64)) 64)) false (s.loadOf (s.placeDpa ld (b / 64 * 64)) false) }) := by
  constructor <;> intro hv <;> simp [State.cxlRead, h, hf, hv]

/-- A held or stranded place drops the write. -/
theorem cxlStore_held {g : State → Place → State} (h : s.backed (s.placeDpa ld (b / 64 * 64)) = true)
    (hh : s.placeHeld (s.placeDpa ld (b / 64 * 64)) = true) :
    (s.cxlStore ld b g).mem = s.mem ∧ (s.cxlStore ld b g).out = .resp (s.loadOf (s.placeDpa ld (b / 64 * 64)) true) [] := by
  simp [State.cxlStore, h, hh]

theorem cxlStore_open {g : State → Place → State} (h : s.backed (s.placeDpa ld (b / 64 * 64)) = true)
    (hh : s.placeHeld (s.placeDpa ld (b / 64 * 64)) = false) :
    s.cxlStore ld b g = { (g (s.cxlTouch (s.placeDpa ld (b / 64 * 64)) true) (s.placeDpa ld (b / 64 * 64))).unlist ld (b / 64 * 64)
      (s.placeDpa ld (b / 64 * 64)) with out := .resp (s.loadOf (s.placeDpa ld (b / 64 * 64)) true) [] } := by
  simp [State.cxlStore, h, hh]

theorem unlist_eq (ld dpa : Nat) (pl : Place) :
    s.unlist ld dpa pl = { s with port := { s.port with poison := (s.unlist ld dpa pl).port.poison } } := by
  unfold State.unlist
  split <;> rfl

theorem unlist_poison {pl : Place} (ld dpa : Nat) (h : s.placePois pl = false) : (ld, dpa) ∉ (s.unlist ld dpa pl).port.poison := by
  simp [State.unlist, h]

/-- A granule at pl is stored and answered with DevLoad l: it is readable, and outside it no byte has changed. -/
def GranuleStored (s : State) (pl : Place) (l : Nat) (t : State) : Prop :=
  t.out = .resp l [] ∧ t.placeFault pl 64 = none ∧ t.mem.host = s.mem.host ∧ t.mem.shelf = s.mem.shelf ∧
  (∀ b, (∀ m o, pl = .slice m o → b < unit256 * m + o ∨ unit256 * m + o + 64 ≤ b) → Mem.rd t.mem.slice b = Mem.rd s.mem.slice b) ∧
  ∀ b, (∀ o, pl = .far o → b < o ∨ o + 64 ≤ b) → Mem.rd t.mem.far b = Mem.rd s.mem.far b

/-- What a CXL.mem write leaves, from what its store leaves. -/
theorem granuleStored_of_stores {u : State} {pl : Place} {g : Nat → Byte} {l ld dpa : Nat} (hm : FarMoved s u) (h : Stores 64 u pl g t)
    (hf : t.placeFault pl 64 = none) :
    GranuleStored s pl l { t.unlist ld dpa pl with out := .resp l [] } ∧
    ∀ j < 64, (({ t.unlist ld dpa pl with out := .resp l [] } : State).rdPlace pl 64).getD j 0 = g j := by
  have mem := (hm.place pl).1
  rw [unlist_eq]
  refine ⟨⟨rfl, ?_, h.host.trans (by rw [mem]), h.shelf.trans (by rw [mem]), fun x hx => ?_, fun x hx => ?_⟩, fun j hj => ?_⟩
  · rw [← hf]
    cases pl <;> rfl
  · rw [← mem]; exact h.slice x hx
  · rw [← mem]; exact h.far x hx
  · rw [rdPlace_getD _ _ hj]; exact h.inside j hj

theorem eq_of_getD {l l' : List Byte} {n : Nat} (h : l.length = n) (h' : l'.length = n) (e : ∀ j < n, l.getD j 0 = l'.getD j 0) : l = l' := by
  refine List.ext_getElem (h.trans h'.symm) (fun j h1 h2 => ?_)
  have := e j (by omega)
  rwa [List.getD_eq_getElem _ _ h1, List.getD_eq_getElem _ _ h2] at this

theorem placeValid_of_mem {pl : Place} (h : t.mem = s.mem) : t.placeValid pl = s.placeValid pl := by
  cases pl <;> simp [State.placeValid, h]

/-- A CXL.mem write of a granule that may be stored. -/
theorem cxlMemWrite_stores {pl : Place} {a : Nat} (ha : b / 64 * 64 = a) (hpl : s.placeDpa ld a = pl) (h : s.backed pl = true)
    (h1 : s.placeHeld pl = false) (h2 : s.placeHeld (pl.plus 32) = false)
    (ht : s.cxlStore ld b (fun s pl => (s.wrPlace pl (rowBytes data)).s) = t) :
    GranuleStored s pl (s.loadOf pl true) t ∧ t.rdPlace pl 64 = rowBytes data ∧ t.placeValid pl = true ∧ (ld, a) ∉ t.port.poison := by
  have al : pl.aligned 64 := hpl ▸ placeDpa_aligned (by omega) (by rw [hpl]; exact h)
  have moved := cxlTouch_farMoved s pl true
  have len : (rowBytes data).length = 64 := toLE_length ..
  obtain ⟨st, hf, hv⟩ := wrPlace_granule_stores (s := s.cxlTouch pl true) al len (((moved.place pl).2.2).trans h1)
    (((moved.place _).2.2).trans h2)
  obtain ⟨g1, g2⟩ := (placeFault_none_iff al).1 hf
  obtain ⟨stored, bytes⟩ := granuleStored_of_stores (l := s.loadOf pl true) (ld := ld) (dpa := a) moved st hf
  subst ha hpl
  rw [cxlStore_open h h1] at ht
  subst ht
  refine ⟨stored, eq_of_getD (rdPlace_length ..) len bytes, (placeValid_of_mem ?_).trans hv,
    unlist_poison _ _ (placePois_of_good al g1 g2)⟩
  exact State.unlist_mem ..

/-- A partial CXL.mem write of a readable granule that may be stored. -/
theorem memWrPtl_stores {pl : Place} {a : Nat} (ha : b / 64 * 64 = a) (hpl : s.placeDpa ld a = pl) (h : s.backed pl = true)
    (h1 : s.placeHeld pl = false) (h2 : s.placeHeld (pl.plus 32) = false) (hf : s.placeFault pl 64 = none)
    (ht : s.cxlStore ld b (fun s pl => [0, 1].foldl (fun s w => s.partWord ld (b / 64 * 64) pl (rowBytes data) be w) s) = t) :
    GranuleStored s pl (s.loadOf pl true) t ∧
    ∀ j < 64, (t.rdPlace pl 64).getD j 0 = if bit be j = true then (rowBytes data).getD j 0 else (s.rdPlace pl 64).getD j 0 := by
  have al : pl.aligned 64 := hpl ▸ placeDpa_aligned (by omega) (by rw [hpl]; exact h)
  have moved := cxlTouch_farMoved s pl true
  have readable : (s.cxlTouch pl true).placeFault pl 64 = none := by
    rw [placeFault_none_iff al] at hf ⊢
    rwa [(moved.place _).2.1, (moved.place _).2.1]
  obtain ⟨st, hf'⟩ := partWords_store (s := s.cxlTouch pl true) (ld := ld) (dpa := b / 64 * 64) (be := be) al (toLE_length 64 data.toNat)
    (((moved.place pl).2.2).trans h1) (((moved.place _).2.2).trans h2) readable rfl
  obtain ⟨stored, bytes⟩ := granuleStored_of_stores (l := s.loadOf pl true) (ld := ld) (dpa := a) moved st hf'
  subst ha hpl
  rw [cxlStore_open h h1] at ht
  subst ht
  refine ⟨stored, fun j hj => (bytes j hj).trans ?_⟩
  rw [partByte, (moved.place (s.placeDpa ld (b / 64 * 64))).1, rdPlace_getD s _ hj]
  rfl

end

/-! ## The statement's parts -/

section
variable {s : State} {q : Req} {bar off size bytes ld n p r : Nat} {wr : Bool} {v : Word} {f : Find} {data : Row} {be : Word} {cv : W32}

/-- An access that does not reach its BAR changes nothing. -/
theorem accesses_of_not_reaches (hq : inReq q = true) (hb : inBar bar off = true) (h : ¬ s.reaches q bar) :
    exec (.readClear q bar off size) s = .next s ∧ exec (.lowHalfRead q bar off) s = .next s ∧
    exec (.barAccessBadSize q bar off bytes wr) s = .next s ∧
    (s.isReq q = true → exec (.setupRegisterWrite q bar off size v f) s = .next s) := by
  refine ⟨?_, ?_, ?_, fun hr => ?_⟩
  · rw [exec_readClear hq hb, anyRead_of_not_reaches h]
  · rw [exec_lowHalfRead hq hb, anyRead_of_not_reaches h]
  · rw [exec_barAccessBadSize hq hb, if_pos]
    rcases absent_or_foreign_of_not_reaches h with hr | hf
    · exact .inl (by simp [hr])
    · exact .inr (.inl (by simp [hf]))
  · rw [exec_setupRegisterWrite hq hb]
    rcases absent_or_foreign_of_not_reaches h with hr' | ⟨h0, hh⟩
    · rw [hr] at hr'
      cases hr'
    · simp [h0, State.barWrite, hr, hh]

/-- A write of an absent requester (18 R391). -/
theorem write_absent (hq : inReq q = true) (hb : inBar bar off = true) (hr : s.isReq q = false) :
    exec (.setupRegisterWrite q bar off size v f) s = .next (s.foreignWrite q) ∧
    ((∀ i, q = .sp i → (s.sp i).role ≠ 2) → s.foreignWrite q = s) ∧ (s.foreignWrite q).setup = s.setup ∧
    (s.foreignWrite q).mem = s.mem := by
  refine ⟨?_, fun h => ?_, foreignWrite_setup .., State.foreignWrite_mem ..⟩
  · rw [exec_setupRegisterWrite hq hb, crierWrite_absent hr, barWrite_absent hr, ite_self]
  · cases q with
    | host => rfl
    | ld p => rfl
    | sp i => exact if_neg (h i rfl)

/-- An access of a bad size is recorded, and a read of it answers Unsupported Request (02 R31; 22 R468, R469). -/
theorem accesses_of_badSize (hq : inReq q = true) (hb : inBar bar off = true) (h : s.reaches q bar) (hg : goodSize off bytes = false) :
    exec (.barAccessBadSize q bar off bytes true) s = .next (s.accessError q bar off bytes true) ∧
    exec (.barAccessBadSize q bar off bytes false) s = .next { s.accessError q bar off bytes false with out := .ur } ∧
    exec (.readClear q bar off bytes) s = .next { s.accessError q bar off bytes false with out := .ur } ∧
    (bar ≠ 0 ∨ inCrier off = false → exec (.setupRegisterWrite q bar off bytes v f) s = .next (s.accessError q bar off bytes true)) ∧
    ((s.accessError q bar off bytes wr).reqSt q).cnt.toNat = min 0xFFFFFFFF ((s.reqSt q).cnt.toNat + 1) ∧
    ((s.reqSt q).cnt ≠ 0 → ((s.accessError q bar off bytes wr).reqSt q).info = (s.reqSt q).info) ∧
    (s.accessError q bar off bytes wr).setup = s.setup ∧ (s.accessError q bar off bytes wr).mem = s.mem ∧
    ((s.reqSt q).cnt = 0 → ((s.accessError q bar off bytes wr).reqSt q).info =
      pack [(off, 0, 26), (ofBool wr, 26, 1), (sizeCode bytes, 27, 3), (barCode bar, 30, 2)]) := by
  have bad : ∀ w, exec (.barAccessBadSize q bar off bytes w) s = .next (s.badAccess q bar off bytes w) := by
    intro w
    obtain ⟨hr, hh⟩ := h
    rw [exec_barAccessBadSize hq hb, if_neg]
    rcases hh with hh | hh <;> simp [hr, hh, hg]
  rw [reqSt_accessError]
  refine ⟨bad true, bad false, ?_, fun hp => ?_, ReqSt.recorded_cnt .., fun h0 => if_neg h0, accessError_setup .., State.accessError_mem ..,
    fun h0 => if_pos h0⟩
  · rw [exec_readClear hq hb, anyRead_badSize h hg]
    rfl
  · rw [exec_setupRegisterWrite hq hb, if_neg, barWrite_badSize h hg]
    rintro ⟨h0, hc⟩
    rcases hp with hp | hp
    · exact hp h0
    · rw [hp] at hc
      cases hc

/-- Reads of BAR0 outside the crier ranges (00 R7, R8; 22 R466). -/
theorem reads_of_bar0 (hq : inReq q = true) (hr : s.isReq q = true) (hc : inCrier off = false) (ho : off < 0x4000000) :
    (goodSize off size = true → s.mayRead q off = false → (size = 8 → s.mayRead q (off + 4) = false) →
      exec (.readClear q 0 off size) s = .next { s with out := .reg 0 }) ∧
    (s.mayRead q off = true → off % 4 = 0 →
      (s.regWide q (off / 8 * 8) = none → Reads s (exec (.lowHalfRead q 0 off) s) (((s.regNarrow q off).getD 0).setWidth 64)) ∧
      (∀ w, off % 8 = 0 → s.regWide q off = some w → Reads s (exec (.readClear q 0 off 8) s) w ∧
        Completes (exec (.readClear q 0 off 8) s) (fun t => Tab.get 0 t.shadow (shadowKey q 0 off) = (w >>> 32).setWidth 32) ∧
        Completes (exec (.lowHalfRead q 0 off) s) (fun t => t.out = .reg (w &&& 0xFFFFFFFF) ∧
          Tab.get 0 t.shadow (shadowKey q 0 off) = (w >>> 32).setWidth 32)) ∧
      (∀ w, off % 8 = 4 → s.regWide q (off - 4) = some w →
        exec (.lowHalfRead q 0 off) s = .next { s with out := .reg ((Tab.get 0 s.shadow (shadowKey q 0 (off - 4))).setWidth 64) })) := by
  obtain ⟨read, low⟩ := exec_read_bar0 (size := size) hq hr hc ho
  refine ⟨fun hg hm h8 => ?_, fun hm h4 => ⟨fun hn => ?_, fun w h0 hw => ⟨?_, ?_, ?_⟩, fun w h4' hw => ?_⟩⟩
  · rw [read hg, readBar0_denied hm h8]
  · rw [low h4, readBar0_narrow hm hn]
    exact (readTouch_keeps ..).reads
  · rw [exec_read_wide8 hq hr hm hc ho h0 hw]
    exact (latched_keeps ..).reads
  · rw [exec_read_wide8 hq hr hm hc ho h0 hw]
    exact ⟨_, rfl, Tab.get_set_same ..⟩
  · rw [low h4, (readBar0_wide hm h0 hw).2]
    exact ⟨_, rfl, rfl, Tab.get_set_same ..⟩
  · rw [low h4, readBar0_high hm h4' hw]

theorem write_not_mayWrite (hq : inReq q = true) (ho : s.setupOpen q) (hc : inCrier off = false) (hb : inBar 0 off = true)
    (hg : goodSize off size = true) (hm : s.mayWrite q off = false) :
    exec (.setupRegisterWrite q 0 off size v f) s = .next (s.accessError q 0 off size true) := by
  have hlt : off < 0x4000000 := by simpa [inBar] using hb
  rw [exec_write_bar0 hq ho.1 hc hlt hg, bar0Write_refused (tryWrite_not_mayWrite hm)]

theorem barAccess_goodSize (hq : inReq q = true) (hb : inBar bar off = true) (hg : goodSize off bytes = true) :
    exec (.barAccessBadSize q bar off bytes wr) s = .next s := by
  rw [exec_barAccessBadSize hq hb, if_pos (.inr (.inr hg))]

/-- The registers of a ring (03 R46, R47). -/
theorem writes_to_ring {b : Nat} (hq : inReq q = true) (ho : s.setupOpen q) (hp : p < 16) (hr : r < 64)
    (hb : b = 0x180000 + 0x8000 * p + 0x100 * r) (hj : ∀ j, q = .ld j → j = p) :
    ((s.ring p r).enable = true → exec (.setupRegisterWrite q 0 b 8 v f) s = .next s ∧
      exec (.setupRegisterWrite q 0 (b + 8) 8 v f) s = .next s) ∧
    Completes (exec (.setupRegisterWrite q 0 (b + 0x10) 4 v f) s) (fun t => t = { s with setup := t.setup } ∧
      t.rw32 (b + 0x10) = (if (s.ring p r).enable = true then (v.setWidth 32 &&& 0xFFFFFF00) ||| (s.rw32 (b + 0x10) &&& 0x1F)
        else v.setWidth 32 &&& 0xFFFFFF1F) ∧ ∀ o, o / 4 ≠ b / 4 + 4 → t.rw32 o = s.rw32 o) := by
  subst hb
  obtain ⟨t, ht, heq, hcfg, hothers⟩ := write_ringcfg (v := v) (f := f) hq ho hj hp hr
  rw [← Nat.add_assoc] at ht hcfg hothers
  refine ⟨fun he => ⟨?_, ?_⟩, t, ht, heq, hcfg, fun o h => hothers o (by omega)⟩
  · exact write_ringBases_enabled hq ho hj hp hr he (.inl rfl)
  · rw [Nat.add_assoc]
    exact write_ringBases_enabled hq ho hj hp hr he (.inr rfl)

/-- The host's doorbells and window slots (02 R32 to R36; 03 R51, R53). -/
theorem host_window (hr : s.isReq .host = true) (hs : size = 4 ∨ size = 8) (hp : p < 16) (hn : r < 64) :
    let w := fun (o z : Nat) => Instr.setupRegisterWrite .host 4 (0x40000 * p + 0x1000 * r + o) z v f
    exec (.setupRegisterWrite .host 2 (0x1000 * p + 8 * r) size v f) s = exec (.tailDoorbell .host p r (v.setWidth 32) []) s ∧
    exec (.setupRegisterWrite .host 2 (0x1000 * p + 0x200 + 8 * r) size v f) s = exec (.headDoorbell .host p r (v.setWidth 32)) s ∧
    exec (w 0x38 size) s = (if s.windowMode p = true then exec (.wabort .host p r (v.setWidth 32)) s else .next s) ∧
    (s.windowMode p = false → exec (w 0 8) s = .next s) ∧
    (s.windowMode p = true → (s.slot p r).busy = true → exec (w 0 8) s = .next (s.winErr p) ∧ exec (w 0x28 8) s = .next (s.winErr p)) ∧
    (s.windowMode p = true → (s.slot p r).busy = false → exec (w 0 8) s = .next (s.updSlot p r (fun x => { x with target := v })) ∧
      exec (w 0x10 8) s = .next (s.updSlot p r (fun x => { x with value := v }))) ∧
    (s.windowMode p = true → Reads s (exec (.readClear .host 4 (0x40000 * p + 0x1000 * r + 0x30) 8) s) (s.slot p r).result) := by
  have write : ∀ {x : Nat}, x < 0x1000 → x % 8 = 0 → exec (.setupRegisterWrite .host 4 (0x40000 * p + 0x1000 * r + x) 8 v f) s =
      .next (s.writeBar4 .host (0x40000 * p + 0x1000 * r + x) 8 v) := exec_write_slot hr (.inr rfl) hp hn
  refine ⟨(write_doorbells hr hs hp hn).1, ?_, write_wabort hr hs hp hn, fun hw => ?_, fun hw hb => ⟨?_, ?_⟩, fun hw hb => ⟨?_, ?_⟩,
    fun hw => read_wresult hr hp hn hw⟩
  · rw [Nat.add_assoc]
    exact (write_doorbells hr hs hp hn).2
  · exact (write (by decide) rfl).trans (congrArg _ (writeBar4_off hw hn (by decide)))
  · exact (write (by decide) rfl).trans (congrArg _ (writeBar4_busy hw hb hn (by decide) (by decide)))
  · exact (write (by decide) rfl).trans (congrArg _ (writeBar4_busy hw hb hn (by decide) (by decide)))
  · exact (write (by decide) rfl).trans (congrArg _ (writeBar4_idle hw hb hn).1)
  · exact (write (by decide) rfl).trans (congrArg _ (writeBar4_idle hw hb hn).2)

theorem crier_accesses_unassigned (hq : inReq q = true) (ho : s.setupOpen q) (hc : inCrier off = true) (hg : goodSize off size = true)
    (ha : s.crierAt off = none) :
    exec (.crierWrite q off size v) s = .next s ∧ exec (.crierRead q off size) s = .next { s with out := .reg 0 } :=
  ⟨(exec_crierWrite hq hc).trans (congrArg _ (crier_unassigned ho hg ha).1),
    (exec_crierRead hq hc).trans (congrArg _ (crier_unassigned (v := v) ho hg ha).2)⟩

/-- Crier accesses of a set of stalls (22 R473 to R475). -/
theorem crier_accesses {l : List Nat} {x : Nat} (hq : inReq q = true) (ho : s.setupOpen q) (hc : inCrier off = true)
    (hg : goodSize off size = true) (ha : s.crierAt off = some (l, x)) :
    (s.crierOk q x size = false → exec (.crierWrite q off size v) s = .next (s.accessError q 0 off size true)) ∧
    (s.crierSet q l = [] → exec (.crierRead q off size) s = .next { s with out := .reg 0 } ∧
      (s.crierOk q x size = true → exec (.crierWrite q off size v) s = .next s)) ∧
    (∀ m t, s.crierSet q l = [m] → s.crierOk q x size = true → s.tryWrite q {} (stallBase m + x) size v = some t →
      exec (.crierWrite q off size v) s = .next t) ∧
    (∀ m l', s.crierSet q l = m :: l' → size = 4 → s.stallWide m (x / 8 * 8) = none →
      exec (.crierRead q off 4) s = .next { s.awake m with out := .reg ((s.stallDword m x).setWidth 64) }) := by
  refine ⟨fun hk => ?_, fun he => ⟨?_, fun hk => ?_⟩, fun m t he hk ht => ?_, fun m l' he h4 hn => ?_⟩
  · rw [exec_crierWrite hq hc, crierWrite_at ho hg ha, if_pos hk]
  · rw [exec_crierRead hq hc, crierRead_empty ho hg ha he]
  · rw [exec_crierWrite hq hc, crierWrite_at ho hg ha, hk, he]
    rfl
  · rw [exec_crierWrite hq hc, crierWrite_at ho hg ha, hk, he, crierRun_one ht]
    rfl
  · subst h4
    rw [exec_crierRead hq hc, crierRead_lowest ho hg ha he hn]

/-- The fields of configuration space that the standard fixes, and what a write of it does (02 R15, R22, R30). -/
theorem configuration_answers (hl : ld < 16) (h : s.configOpen ld) :
    exec (.configurationRequest ld 0 none) s = .next { s.used with out := .reg (Config.ident &&& 0xFFFFFFFF) } ∧
    exec (.configurationRequest ld off none) s = .next { s.used with out := .reg ((s.cfgDword ld (off % 4096 / 4 * 4)).setWidth 64) } ∧
    (∀ i < 3, s.cfgHeader ld (0x10 + 8 * i) &&& 0xF = 4 ∧
      ∀ a, (barLow cv (s.barBytes i)).getLsbD a = true → a = 2 ∨ 2 ^ a ≥ s.barBytes i) ∧
    bit32 (s.cfgDvsec ld 0x1C) 1 = s.port.memActive ∧ bit32 (s.cfgDvsec ld 0x2C) 1 = s.port.memActive ∧ fld32 (s.cfgDvsec ld 8) 20 2 = 2 ∧
    (bit32 cv 2 = false → Completes (exec (.configurationRequest ld 4 (some cv)) s) (fun t =>
      s.bme ld = true → t.bme ld = false ∧ t.mem = s.mem ∧ t.rings = s.rings)) ∧
    (∀ i < 3, off = 0x10 + 8 * i → off ≠ Config.capBase 0 + 8 → Completes (exec (.configurationRequest ld off (some cv)) s) (fun t =>
      t = { s with port := t.port, out := .none } ∧ t.cfgHeader ld off = barLow cv (s.barBytes i))) := by
  refine ⟨configuration_identity hl h, configuration_read hl h, fun i hi => ?_, cfgDvsec_fields.1, cfgDvsec_fields.2.1, cfgDvsec_fields.2.2,
    configuration_clears_bme hl h, fun i hi => configuration_bar hl h hi⟩
  obtain ⟨k, hk, hk', e⟩ := barBytes_pow (s := s) i
  rw [cfgHeader_bar hi, e]
  exact ⟨(barLow_bits hk hk' _).1, (barLow_bits hk hk' cv).2⟩

/-- CXL.mem accesses of a claimed granule (02 R21, R23, R26 to R28). -/
theorem cxl_accesses {b a : Nat} {pl : Place} (hl : ld < 16) (hs : s.cxlServed ld = true) (hb : s.hpaDpa ld off = some b)
    (ha : b / 64 * 64 = a) (hpl : s.placeDpa ld a = pl) :
    (s.backed pl = false →
      Completes (exec (.cxlMemRead ld off) s) (fun t => t.out = .line 0 true 0 ∧ t.mem = s.mem) ∧
      Completes (exec (.cxlMemWrite ld off data) s) (fun t => t.out = .resp 0 [] ∧ t.mem = s.mem) ∧
      Completes (exec (.memWrPtl ld off data be) s) (fun t => t.out = .resp 0 [] ∧ t.mem = s.mem)) ∧
    (s.backed pl = true →
      ((s.placeFault pl 64).isSome = true → Completes (exec (.cxlMemRead ld off) s) (fun t =>
        t.out = .line 0 true (if s.placeValid pl = true then s.loadOf pl false else 0) ∧ t.mem = s.mem ∧ (ld, a) ∈ t.port.poison)) ∧
      (s.placeFault pl 64 = none → s.placeValid pl = false →
        exec (.cxlMemRead ld off) s = .next { s.cxlTouch pl false with out := .line 0 false 0 }) ∧
      (s.placeFault pl 64 = none → s.placeValid pl = true →
        exec (.cxlMemRead ld off) s =
          .next { s.cxlTouch pl false with out := .line (rowOf (s.rdPlace pl 64)) false (s.loadOf pl false) }) ∧
      (s.placeHeld pl = true →
        Completes (exec (.cxlMemWrite ld off data) s) (fun t => t.mem = s.mem ∧ t.out = .resp (s.loadOf pl true) []) ∧
        Completes (exec (.memWrPtl ld off data be) s) (fun t => t.mem = s.mem ∧ t.out = .resp (s.loadOf pl true) [])) ∧
      (s.placeHeld pl = false → s.placeHeld (pl.plus 32) = false →
        Completes (exec (.cxlMemWrite ld off data) s) (fun t => GranuleStored s pl (s.loadOf pl true) t ∧ t.rdPlace pl 64 = rowBytes data ∧
          t.placeValid pl = true ∧ (ld, a) ∉ t.port.poison) ∧
        (s.placeFault pl 64 = none → Completes (exec (.memWrPtl ld off data be) s) (fun t => GranuleStored s pl (s.loadOf pl true) t ∧
          ∀ j < 64, (t.rdPlace pl 64).getD j 0 = if bit be j = true then (rowBytes data).getD j 0 else (s.rdPlace pl 64).getD j 0)))) := by
  have read : exec (.cxlMemRead ld off) s = .next (s.cxlRead ld b) := (exec_cxlMemRead hl).trans (congrArg _ (cxlAt_claimed hs hb))
  have write : exec (.cxlMemWrite ld off data) s = .next (s.cxlStore ld b (fun s pl => (s.wrPlace pl (rowBytes data)).s)) :=
    (exec_cxlMemWrite hl).trans (congrArg _ (cxlAt_claimed hs hb))
  have part : exec (.memWrPtl ld off data be) s = .next (s.cxlStore ld b (fun s pl =>
      [0, 1].foldl (fun s w => s.partWord ld (b / 64 * 64) pl (rowBytes data) be w) s)) :=
    (exec_memWrPtl hl).trans (congrArg _ (cxlAt_claimed hs hb))
  rw [read, write, part]
  refine ⟨fun hk => ?_, fun hk => ⟨fun hf => ⟨_, rfl, ?_⟩, fun hf hv => ?_, fun hf hv => ?_, fun hh => ?_, fun h1 h2 =>
    ⟨⟨_, rfl, cxlMemWrite_stores ha hpl hk h1 h2 rfl⟩, fun hf => ⟨_, rfl, memWrPtl_stores ha hpl hk h1 h2 hf rfl⟩⟩⟩⟩
  all_goals subst ha hpl
  · exact ⟨⟨_, rfl, cxlRead_unbacked hk⟩, ⟨_, rfl, cxlStore_unbacked hk⟩, ⟨_, rfl, cxlStore_unbacked hk⟩⟩
  · exact cxlRead_fault hk hf
  · exact congrArg _ ((cxlRead_good hk hf).1 hv)
  · exact congrArg _ ((cxlRead_good hk hf).2 hv)
  · exact ⟨⟨_, rfl, cxlStore_held hk hh⟩, ⟨_, rfl, cxlStore_held hk hh⟩⟩

/-- CXL.mem accesses that no decoder claims. -/
theorem cxl_unclaimed (hl : ld < 16) (h : s.cxlServed ld = false ∨ s.hpaDpa ld off = none) :
    exec (.cxlMemRead ld off) s = .next s ∧ exec (.cxlMemWrite ld off data) s = .next s ∧ exec (.memWrPtl ld off data be) s = .next s :=
  ⟨(exec_cxlMemRead hl).trans (congrArg _ (cxlAt_unclaimed h)), (exec_cxlMemWrite hl).trans (congrArg _ (cxlAt_unclaimed h)),
    (exec_memWrPtl hl).trans (congrArg _ (cxlAt_unclaimed h))⟩

end

/-- Settles O59: reads and writes of the BARs, criers and register messages over MCTP by what `readBar0`, `tryWrite` and `crierRun` do; the
CXL.mem accesses by what a store of whole 32-byte words leaves. -/
theorem registersAndPortsAnswer : Obligations.RegistersAndPortsAnswer := by
  unfold Obligations.RegistersAndPortsAnswer
  intro s q bar off size bytes n p r dec ld wr apn sw rs v f d data be sq cv hq hbar hn hp hr hdec hld still reads reach wr0 plain
  refine ⟨accesses_of_not_reaches hq hbar, write_absent hq hbar, barAccess_goodSize hq hbar, accesses_of_badSize hq hbar,
    fun h hc ho => reads_of_bar0 hq h hc ho, fun ho => reads_clear_counts hq ho, fun ho => ⟨?_, fun hsp => ?_, ?_, ?_, ?_⟩,
    fun ho hc hg => ⟨crier_accesses_unassigned hq ho hc hg, fun l x ha => crier_accesses hq ho hc hg ha⟩,
    crierWrite_stallpwr hq, reg_no_platform, fun i hi => ⟨reg_bad_format hi, reg_unreached hi, ?_, regWrite_tried hi⟩, exec_linkTraining,
    (configuration_unserved hld).1,
    fun hpg => ⟨(configuration_unserved hld).2.1 hpg, (configuration_unserved hld).2.2 hpg,
      fun h0 hfn => configuration_answers hld ⟨hpg, h0, hfn⟩⟩, hdmDecoderCommit_answers hld hdec, cxl_unclaimed hld,
    fun hd hg hw k hk => hpaDpa_first hd hg hw hk, fun b hs hb => ⟨loadOf_lt .., loadOf_lt .., cxl_accesses hld hs hb rfl rfl⟩⟩
  · exact fun hc h0 hg hm => write_not_mayWrite hq ho hc (h0 ▸ hbar) hg hm
  · obtain ⟨ident, revision, gtime⟩ := writes_to_readOnly (v := v) (f := f) hq ho hsp
    exact ⟨ident, revision, gtime, write_stallmap hq ho hsp hn⟩
  · exact fun hh k i hk hi => write_msix hq ho hh hk hi
  · exact fun hj => writes_to_ring hq ho hp hr rfl hj
  · rintro rfl hs
    exact host_window ho.1 hs hp hr
  · rintro w hf hc hplain rfl hm hw
    exact regRead_wide hi hf hc hplain hm hw

end Sys2Proof.Machine
end

section
/-!
SUPPORT. The mailbox of a logical device and the Fabric Manager: what a command that is heard answers, and what the poison commands do to
memory and to the poison list (02, 18, 19), up to the statement MailboxAndFabricManagerAnswer.
-/
namespace Sys2Proof.Machine

/-! ## Commands of the mailbox -/

section
variable {s : State} {ld : Nat} {c : Instr} {f : State → State}

/-- The mailbox of logical device ld is there, and the device is not in recovery. -/
def State.hears (s : State) (ld : Nat) : Prop := s.hasMbox ld = true ∧ s.fw.recovery = false

/-- A command of logical device ld's mailbox that is refused in recovery. -/
def MailboxCommand (ld : Nat) (c : Instr) : Prop := ∃ f, ∀ s, exec c s = run (inPitch ld) (s.mboxTry ld f)

theorem run_inPitch (hl : ld < 16) : run (inPitch ld) s = .next s := by simp [inPitch, hl]

theorem mboxTry_heard (hl : ld < 16) (h : s.hears ld) : run (inPitch ld) (s.mboxTry ld f) = .next (f s) := by
  obtain ⟨has, running⟩ := h
  rw [run_inPitch hl]
  simp [State.mboxTry, has, running]

theorem MailboxCommand.unheard (hc : MailboxCommand ld c) (hl : ld < 16) (h : ¬ s.hasMbox ld = true) : exec c s = .next s := by
  obtain ⟨f, hf⟩ := hc
  rw [hf, run_inPitch hl]
  simp [State.mboxTry, h]

theorem MailboxCommand.recovery (hc : MailboxCommand ld c) (hl : ld < 16) (h : s.hasMbox ld = true) (hr : s.fw.recovery = true) :
    exec c s = .next (s.mbox 3 []) := by
  obtain ⟨f, hf⟩ := hc
  rw [hf, run_inPitch hl]
  simp [State.mboxTry, h, hr]

/-- What holds of every mailbox command holds of the fourteen that the statement names. -/
theorem forall_mailboxCommands {P : Instr → Prop} (h : ∀ c, MailboxCommand ld c → P c) {log n off len dpa : Nat} {pol : W32} {ns : Word}
    {cel : Bool} {data : Row} :
    P (.getEventRecords ld log) ∧ P (.clearEventRecords ld log n) ∧ P (.getEventInterruptPolicy ld) ∧ P (.setEventInterruptPolicy ld pol) ∧
    P (.getFwInfo ld) ∧ P (.getTimestamp ld) ∧ P (.setTimestamp ld ns) ∧ P (.getSupportedLogs ld) ∧ P (.getLog ld cel off len) ∧
    P (.identifyMemoryDevice ld) ∧ P (.getHealthInfo ld) ∧ P (.getPoisonList ld dpa len) ∧ P (.injectPoison ld dpa) ∧
    P (.clearPoison ld dpa data) := by
  and_intros <;> exact h _ ⟨_, fun _ => rfl⟩

/-- An opcode outside the Command Effects Log and not of firmware transfer is unsupported, in recovery too. -/
theorem unsupportedMailboxCommand_answers {opcode : Nat} (hl : ld < 16) :
    (¬ s.hasMbox ld = true → exec (.unsupportedMailboxCommand ld opcode) s = .next s) ∧
    (s.hasMbox ld = true → ¬ (opcode = 0x201 ∨ opcode = 0x202 ∨ opcode ∈ s.celRows.map Prod.fst) →
      exec (.unsupportedMailboxCommand ld opcode) s = .next (s.mbox 3 [])) := by
  have answer : exec (.unsupportedMailboxCommand ld opcode) s = .next
      (if !s.hasMbox ld ∨ ([0x0201, 0x0202] ++ s.celRows.map Prod.fst).contains opcode then s else s.mbox 3 []) := run_inPitch hl
  rw [answer]
  refine ⟨fun h => ?_, fun h hop => ?_⟩
  · rw [if_pos (.inl (by simpa using h))]
  · rw [if_neg]
    simp only [h, List.contains_iff_mem, List.mem_append, List.mem_cons, List.not_mem_nil, or_false, or_assoc]
    simpa using hop

end

/-! ## Events, calendar and logs -/

section
variable {s : State} {ld log n off len : Nat} {pol : W32} {ns : Word} {cel : Bool}

/-- Event records: they are returned, and the oldest n alone are cleared (02 R29). -/
theorem eventRecords_answer (hl : ld < 16) (h : s.hears ld) :
    (3 < log → exec (.getEventRecords ld log) s = .next (s.mbox 2 []) ∧ exec (.clearEventRecords ld log n) s = .next (s.mbox 2 [])) ∧
    (log ≤ 3 →
      exec (.getEventRecords ld log) s = .next (s.mbox 0
        (toLE 2 (s.recsOf ld log).length ++ (s.recsOf ld log).flatMap (fun r => toLE 2 r.handle ++ r.ent.bytes))) ∧
      ((s.recsOf ld log).length < n → exec (.clearEventRecords ld log n) s = .next (s.mbox 0xE [])) ∧
      (n ≤ (s.recsOf ld log).length → Completes (exec (.clearEventRecords ld log n) s) (fun t =>
        t = { s with port := { s.port with recs := t.port.recs }, out := .mbox 0 [] } ∧
        ∀ r, r ∈ t.port.recs ↔ r ∈ s.port.recs ∧ r ∉ (s.recsOf ld log).take n))) := by
  have get : exec (.getEventRecords ld log) s = .next (if 3 < log then s.mbox 2 [] else s.mbox 0
    (toLE 2 (s.recsOf ld log).length ++ (s.recsOf ld log).flatMap (fun r => toLE 2 r.handle ++ r.ent.bytes))) := mboxTry_heard hl h
  have clear : exec (.clearEventRecords ld log n) s = .next (if 3 < log then s.mbox 2 []
    else if (s.recsOf ld log).length < n then s.mbox 0xE []
    else ({ s with port := { s.port with
      recs := s.port.recs.filter (fun r => !((s.recsOf ld log).take n).contains r) } }).mbox 0 []) := mboxTry_heard hl h
  rw [get, clear]
  refine ⟨fun hlog => ?_, fun hlog => ?_⟩
  · rw [if_pos hlog, if_pos hlog]
    exact ⟨rfl, rfl⟩
  · rw [if_neg (Nat.not_lt.2 hlog), if_neg (Nat.not_lt.2 hlog)]
    refine ⟨rfl, fun hn => by rw [if_pos hn], fun hn => ⟨_, by rw [if_neg (Nat.not_lt.2 hn)], rfl, fun r => ?_⟩⟩
    exact List.mem_filter.trans (by simp)

theorem getEventInterruptPolicy_answers (hl : ld < 16) (h : s.hears ld) :
    exec (.getEventInterruptPolicy ld) s = .next (s.mbox 0 (toLE 4 (Tab.get (0 : W32) s.port.policy ld).toNat)) := mboxTry_heard hl h

/-- The interrupt policy is refused with a reserved setting, and reads as it was set (02 R29). -/
theorem setEventInterruptPolicy_answers (hl : ld < 16) (h : s.hears ld) :
    ((∃ i < 4, 2 ≤ fld32 pol (8 * i) 2) → exec (.setEventInterruptPolicy ld pol) s = .next (s.mbox 2 [])) ∧
    ((∀ i < 4, fld32 pol (8 * i) 2 < 2) → Completes (exec (.setEventInterruptPolicy ld pol) s) (fun t =>
      t = { s with port := { s.port with policy := t.port.policy }, out := .mbox 0 [] } ∧
      (∀ k, k ≠ ld → Tab.get (0 : W32) t.port.policy k = Tab.get (0 : W32) s.port.policy k) ∧
      Completes (exec (.getEventInterruptPolicy ld) t) (fun u => u.out = .mbox 0 (toLE 4 pol.toNat)))) := by
  have set : exec (.setEventInterruptPolicy ld pol) s = .next (if threads4.any (fun i => 2 ≤ fld32 pol (8 * i) 2) then s.mbox 2 []
    else ({ s with port := { s.port with policy := Tab.set s.port.policy ld pol } }).mbox 0 []) := mboxTry_heard hl h
  have reserved : threads4.any (fun i => 2 ≤ fld32 pol (8 * i) 2) = true ↔ ∃ i < 4, 2 ≤ fld32 pol (8 * i) 2 := by
    simp only [show threads4 = List.range 4 from rfl, List.any_eq_true, List.mem_range, decide_eq_true_eq]
  rw [set]
  refine ⟨fun hb => by rw [if_pos (reserved.2 hb)], fun hg => ?_⟩
  have fine : ¬ threads4.any (fun i => 2 ≤ fld32 pol (8 * i) 2) = true := by
    rw [reserved]
    rintro ⟨i, hi, hb⟩
    exact absurd (hg i hi) (Nat.not_lt.2 hb)
  rw [if_neg fine]
  refine ⟨_, rfl, rfl, fun k hk => Tab.get_set_ne _ _ _ hk, _, getEventInterruptPolicy_answers hl h, ?_⟩
  change Out.mbox 0 (toLE 4 (Tab.get 0 (Tab.set s.port.policy ld pol) ld).toNat) = _
  rw [Tab.get_set_same]

/-- The slots of GET_FW_INFO are numbered from 1, the gatehouse's two before Jisan's (19 R429). -/
theorem getFwInfo_answers (hl : ld < 16) (h : s.hears ld) :
    exec (.getFwInfo ld) s = .next (s.mbox 0 ([4] ++
      [if s.fw.gslot.isSome = true then BitVec.ofNat 8 (s.fw.gslot.getD 0 + 1) else 255] ++
      [if s.fw.jslot.isSome = true then BitVec.ofNat 8 (s.fw.jslot.getD 0 + 3) else 255] ++
      [0, 1, 2, 3].flatMap (fun i => toLE 4 (imgVersion (flashAt (s.imageOf i) 0 512))))) := by
  have slot : ∀ (o : Option Nat) (k : Nat), toLE 1 (match o with | some i => i + k | none => 0xFF) =
      [if o.isSome = true then BitVec.ofNat 8 (o.getD 0 + k) else 255] := by
    intro o k
    cases o <;> rfl
  rw [← slot s.fw.gslot 1, ← slot s.fw.jslot 3]
  exact mboxTry_heard hl h

theorem getTimestamp_answers (hl : ld < 16) (h : s.hears ld) : exec (.getTimestamp ld) s = .next (s.mbox 0 (toLE 8 s.calendar.toNat)) :=
  mboxTry_heard hl h

/-- A counter of the ledger set to a value of 64 bits holds it, the largest included: besides the counter only the overflow bits
change. -/
theorem ledgerSet_word (s : State) (o : Nat) (v : Word) :
    s.ledgerSet o v.toNat = { s with ledger := { s.ledger with
      cnt := Tab.set s.ledger.cnt (o / 8) v
      flags := (s.ledgerSet o v.toNat).ledger.flags } } := by
  have hv := v.isLt
  unfold State.ledgerSet
  dsimp only
  split
  · have : v = BitVec.allOnes 64 := by
      apply BitVec.eq_of_toNat_eq
      rw [BitVec.toNat_allOnes]
      omega
    rw [this]
  · rw [BitVec.ofNat_toNat, BitVec.setWidth_eq]

/-- SET_TIMESTAMP sets the calendar and the ledger's copy of it, and the calendar reads as set (18 R411). -/
theorem setTimestamp_answers (hl : ld < 16) (h : s.hears ld) :
    Completes (exec (.setTimestamp ld ns) s) (fun t => t = { s with ledger := t.ledger, out := .mbox 0 [] } ∧ t.calendar = ns.toNat ∧
      t.ledger.unsynced = false ∧ t.ledgerAt 0x60 = ns.toNat ∧ (∀ o, o / 8 ≠ 12 → t.ledgerAt o = s.ledgerAt o) ∧
      Completes (exec (.getTimestamp ld) t) (fun u => u.out = .mbox 0 (toLE 8 ns.toNat))) := by
  have set : exec (.setTimestamp ld ns) s = .next ((({ s with ledger := { s.ledger with
    offset := (ns.toNat : Int) - (s.time : Int), unsynced := false } }).ledgerSet 0x60 ns.toNat).mbox 0 []) := mboxTry_heard hl h
  rw [ledgerSet_word] at set
  have calendar : (s.time : Int) + ((ns.toNat : Int) - s.time) = ns.toNat := by omega
  refine ⟨_, set, rfl, calendar, rfl, ?_, fun o ho => ?_, _, getTimestamp_answers hl h, ?_⟩
  · exact congrArg BitVec.toNat (Tab.get_set_same ..)
  · exact congrArg BitVec.toNat (Tab.get_set_ne _ _ _ ho)
  · exact congrArg (fun x : Int => Out.mbox 0 (toLE 8 x.toNat)) calendar

/-- GET_LOG returns bytes of the Command Effects Log alone (02 R29). -/
theorem getLog_answers (hl : ld < 16) (h : s.hears ld) :
    (cel = false ∨ s.celBytes.length < off + len → exec (.getLog ld cel off len) s = .next (s.mbox 2 [])) ∧
    (cel = true → off + len ≤ s.celBytes.length → Completes (exec (.getLog ld cel off len) s) (fun t => t = { s with out := t.out } ∧
      ∃ d, t.out = .mbox 0 d ∧ d.length = len ∧ ∀ i < len, d.getD i 0 = s.celBytes.getD (off + i) 0)) := by
  have get : exec (.getLog ld cel off len) s = .next (if !cel ∨ s.celBytes.length < off + len then s.mbox 2 []
    else s.mbox 0 ((s.celBytes.drop off).take len)) := mboxTry_heard hl h
  rw [get]
  refine ⟨fun hb => by rw [if_pos (by simpa using hb)], fun hc hn => ?_⟩
  rw [if_neg (by simp [hc, hn])]
  refine ⟨_, rfl, rfl, _, rfl, ?_, fun i hi => ?_⟩
  · rw [List.length_take, List.length_drop]
    omega
  · simp only [List.getD_eq_getElem?_getD, List.getElem?_take_of_lt hi, List.getElem?_drop]

end

/-! ## The memory device -/

section
variable {s : State} {ld dpa len : Nat}

theorem identifyMemoryDevice_answers (hl : ld < 16) (h : s.hears ld) :
    exec (.identifyMemoryDevice ld) s = .next (s.mbox 0 (toLE 8 (s.volatileBytes ld) ++ toLE 8 0)) := mboxTry_heard hl h

/-- Under SLD every slice and all usable far memory are the one device's. -/
theorem volatileBytes_sld (h : s.port.mld = false) :
    s.volatileBytes ld = ((List.range 256).map s.usableOf).foldl (· + ·) 0 + unit256 * s.far.usable := by
  simp [State.volatileBytes, h, allStalls, State.usableFar]

/-- GET_HEALTH_INFO tells the temperature of the hottest hall. -/
theorem getHealthInfo_answers (hl : ld < 16) (h : s.hears ld) :
    Completes (exec (.getHealthInfo ld) s) (fun t => ∃ d : Int, t = { s with out := .mbox 0 (toLE 2 ((d / 100) % 65536).toNat) } ∧
      (∃ h < 4, d = (s.hall h).diode) ∧ ∀ h < 4, (s.hall h).diode ≤ d) := by
  refine ⟨_, mboxTry_heard hl h, _, rfl, ?_⟩
  obtain ⟨here, top⟩ := List.max?_eq_some_iff.1 (List.max?_cons' (x := (s.hall 0).diode) (xs := threads4.map (fun h => (s.hall h).diode)))
  refine ⟨?_, fun i hi => top _ (.tail _ (List.mem_map.2 ⟨i, List.mem_range.2 hi, rfl⟩))⟩
  rcases List.mem_cons.1 here with e | e
  · exact ⟨0, by decide, e⟩
  · obtain ⟨i, hi, e⟩ := List.mem_map.1 e
    exact ⟨i, List.mem_range.1 hi, e.symm⟩

end

/-! ## Poison -/

section
variable {s t : State} {ld dpa n o : Nat} {pl : Place} {data : Row}

/-- A mailbox command has succeeded whose effect on memory is at one granule. -/
def GranuleAlone (s : State) (pl : Place) (t : State) : Prop :=
  (∀ b, (∀ m o, pl = .slice m o → b < unit256 * m + o ∨ unit256 * m + o + 64 ≤ b) → Mem.rd t.mem.slice b = Mem.rd s.mem.slice b) ∧
  (∀ b, (∀ o, pl = .far o → b < o ∨ o + 64 ≤ b) → Mem.rd t.mem.far b = Mem.rd s.mem.far b) ∧
  t.mem.host = s.mem.host ∧ t.mem.shelf = s.mem.shelf ∧ t.out = .mbox 0 []

/-- The state after the granule at a place is poisoned. -/
def State.poisPlace (s : State) (pl : Place) : State :=
  match pl with
  | .slice n off => s.poisSlice (unit256 * n + off)
  | .far o => s.poisFar o
  | .none => s

theorem mem_addPoison_of_ne {x y : Nat × Nat} (h : y ≠ x) : y ∈ (s.addPoison [x]).port.poison ↔ y ∈ s.port.poison := by
  by_cases hx : x ∈ s.port.poison <;> simp [State.addPoison, hx, h]

theorem mem_unlist_of_ne {x : Nat × Nat} (h : x ≠ (ld, dpa)) : x ∈ (s.unlist ld dpa pl).port.poison ↔ x ∈ s.port.poison := by
  unfold State.unlist
  split
  · rfl
  · simp [h]

theorem poisSlice_held (h : s.dropsSlice n = true) : s.poisSlice n = s := by simp [State.poisSlice, h]

theorem poisFar_stranded (h : s.stranded o = true) : s.poisFar o = s := by simp [State.poisFar, h]

/-- A held or stranded place keeps what it holds. -/
theorem poisPlace_held (h : s.placeHeld pl = true) : s.poisPlace pl = s := by
  cases pl with
  | slice m o => exact poisSlice_held h
  | far o => exact poisFar_stranded h
  | none => rfl

theorem placeBad_of_held (h : s.placeHeld pl = true) : s.placeBad pl = true := by
  cases pl with
  | slice m o =>
    have h : s.heldRow ((unit256 * m + o) / unit256) ((unit256 * m + o) % unit256) = true := h
    simp only [State.placeBad, State.sliceBad, h, Bool.true_or]
  | far o =>
    have h : s.stranded o = true := h
    simp only [State.placeBad, State.farBad, h, Bool.true_or]
  | none => cases h

/-- Memory with the granule at stack address a poisoned: in an unwritten line of a lost block the whole line is (12 R262). -/
def State.slicePoisoned (s : State) (a : Nat) : MemSt :=
  { s.mem with
    sliceValid := NSet.add s.mem.sliceValid (a / 256)
    slice := Mem.clear s.mem.slice (a / 64 * 64) 64
    slicePois := if NSet.has s.mem.lost (a / unit256) && !NSet.has s.mem.sliceValid (a / 256) then
      NSet.addRange s.mem.slicePois (a / 256 * 8) 8 else NSet.addRange s.mem.slicePois (a / 64 * 2) 2 }

theorem poisSlice_open {a : Nat} (h : s.dropsSlice a = false) : s.poisSlice a = { s with mem := s.slicePoisoned a } := by
  simp [State.poisSlice, h, State.slicePoisoned]

theorem sliceBad_slicePoisoned {a : Nat} (ha : a % 64 = 0) : ({ s with mem := s.slicePoisoned a } : State).sliceBad a = true := by
  have poisoned : NSet.has (s.slicePoisoned a).slicePois (a / 32) = true := by
    dsimp only [State.slicePoisoned]
    split <;> rw [NSet.has_addRange, decide_eq_true (by omega), Bool.true_or]
  simp only [State.sliceBad, poisoned, Bool.or_true, Bool.true_or]

/-- Memory with the granule at far offset o poisoned. -/
def State.farPoisoned (s : State) (o : Nat) : MemSt :=
  { s.mem with
    farValid := NSet.add s.mem.farValid (o / 256)
    far := Mem.clear s.mem.far (o / 64 * 64) 64
    farPois := NSet.addRange s.mem.farPois (o / 64 * 2) 2 }

theorem poisFar_open (h : s.stranded o = false) : s.poisFar o = { s with mem := s.farPoisoned o } := by
  simp [State.poisFar, h, State.farPoisoned]

theorem farBad_farPoisoned (ho : o % 64 = 0) : ({ s with mem := s.farPoisoned o } : State).farBad o = true := by
  have poisoned : NSet.has (s.farPoisoned o).farPois (o / 32) = true := by
    dsimp only [State.farPoisoned]
    rw [NSet.has_addRange, decide_eq_true (by omega), Bool.true_or]
  simp only [State.farBad, poisoned, Bool.or_true]

theorem rd_clear_granule_out {m : Mem} {a b : Nat} (ha : a % 64 = 0) (hb : b < a ∨ a + 64 ≤ b) :
    Mem.rd (Mem.clear m (a / 64 * 64) 64) b = Mem.rd m b := by
  rw [Mem.rd_clear, if_neg (by omega)]

/-- The poisoning of a granule makes it unreadable and changes nothing outside it (02 R27; 12 R264). -/
theorem poisPlace_alone (ha : pl.aligned 64) :
    GranuleAlone s pl ((s.poisPlace pl).mbox 0 []) ∧ (s.poisPlace pl).placeBad pl = true ∧ (s.poisPlace pl).port = s.port := by
  by_cases hh : s.placeHeld pl = true
  · rw [poisPlace_held hh]
    exact ⟨⟨fun _ _ => rfl, fun _ _ => rfl, rfl, rfl, rfl⟩, placeBad_of_held hh, rfl⟩
  have hh : s.placeHeld pl = false := by simpa using hh
  cases pl with
  | none => exact ha.elim
  | slice m o =>
    have h0 : (unit256 * m + o) % 64 = 0 := by
      have ha : o % 64 = 0 := ha
      unfold unit256
      omega
    rw [State.poisPlace, poisSlice_open hh]
    exact ⟨⟨fun b hb => rd_clear_granule_out h0 (hb m o rfl), fun _ _ => rfl, rfl, rfl, rfl⟩, sliceBad_slicePoisoned h0, rfl⟩
  | far o =>
    rw [State.poisPlace, poisFar_open hh]
    exact ⟨⟨fun _ _ => rfl, fun b hb => rd_clear_granule_out ha (hb o rfl), rfl, rfl, rfl⟩, farBad_farPoisoned ha, rfl⟩

theorem placeFault_isSome_of_bad (ha : pl.aligned 64) (h : s.placeBad pl = true) : (s.placeFault pl 64).isSome = true := by
  refine Option.isSome_iff_ne_none.2 (fun hn => ?_)
  rw [((placeFault_none_iff ha).1 hn).1] at h
  cases h

/-- The refusals of the poison commands: a DPA that is no granule's, and one that nothing backs. -/
theorem poison_refused (hl : ld < 16) (h : s.hears ld) :
    (dpa % 64 ≠ 0 → exec (.injectPoison ld dpa) s = .next (s.mbox 2 []) ∧ exec (.clearPoison ld dpa data) s = .next (s.mbox 2 [])) ∧
    (dpa % 64 = 0 → s.backed (s.placeDpa ld dpa) = false →
      exec (.injectPoison ld dpa) s = .next (s.mbox 0xF []) ∧ exec (.clearPoison ld dpa data) s = .next (s.mbox 0xF [])) := by
  refine ⟨fun hm => ⟨?_, ?_⟩, fun hm hb => ⟨?_, ?_⟩⟩
  all_goals refine (mboxTry_heard hl h).trans (congrArg _ ?_)
  · exact if_pos hm
  · exact if_pos hm
  · exact (if_neg (not_not.2 hm)).trans (if_pos (by simp [hb]))
  · exact (if_neg (not_not.2 hm)).trans (if_pos (by simp [hb]))

theorem exec_injectPoison (hl : ld < 16) (h : s.hears ld) (hm : dpa % 64 = 0) (hb : s.backed (s.placeDpa ld dpa) = true) :
    exec (.injectPoison ld dpa) s = .next (((s.addPoison [(ld, dpa)]).poisPlace (s.placeDpa ld dpa)).mbox 0 []) := by
  refine (mboxTry_heard hl h).trans (congrArg _ ?_)
  dsimp only
  rw [if_neg (not_not.2 hm), if_neg (by simp [hb])]
  split
  · rw [poisPlace_held ‹_›]
  · cases s.placeDpa ld dpa <;> rfl

/-- INJECT_POISON makes the granule unreadable and lists it (02 R27, R29). -/
theorem injectPoison_answers (hl : ld < 16) (h : s.hears ld) (hpl : s.placeDpa ld dpa = pl) (hm : dpa % 64 = 0) (hb : s.backed pl = true) :
    Completes (exec (.injectPoison ld dpa) s) (fun t => GranuleAlone s pl t ∧ (ld, dpa) ∈ t.port.poison ∧ (t.placeFault pl 64).isSome = true ∧
      ∀ x, x ≠ (ld, dpa) → (x ∈ t.port.poison ↔ x ∈ s.port.poison)) := by
  subst hpl
  have al := placeDpa_aligned hm hb
  obtain ⟨alone, bad, port⟩ := poisPlace_alone (s := s.addPoison [(ld, dpa)]) al
  refine ⟨_, exec_injectPoison hl h hm hb, alone, ?_, placeFault_isSome_of_bad al ?_, fun x hx => ?_⟩
  · change _ ∈ (State.poisPlace _ _).port.poison
    rw [port]
    exact mem_addPoison _
  · rw [← bad]
    cases s.placeDpa ld dpa <;> rfl
  · change _ ∈ (State.poisPlace _ _).port.poison ↔ _
    rw [port]
    exact mem_addPoison_of_ne hx

theorem exec_clearPoison (hl : ld < 16) (h : s.hears ld) (hm : dpa % 64 = 0) (hb : s.backed (s.placeDpa ld dpa) = true) :
    exec (.clearPoison ld dpa data) s = .next (if s.placeHeld (s.placeDpa ld dpa) then s.mbox 0x11 []
      else (((s.wrPlace (s.placeDpa ld dpa) (rowBytes data)).s).unlist ld dpa (s.placeDpa ld dpa)).mbox 0 []) :=
  (mboxTry_heard hl h).trans (congrArg _ ((if_neg (not_not.2 hm)).trans (if_neg (by simp [hb]))))

/-- CLEAR_POISON stores the data, makes the granule readable and takes it off the list, and stores nothing else (02 R27, R29). -/
theorem clearPoison_answers (hl : ld < 16) (h : s.hears ld) (hpl : s.placeDpa ld dpa = pl) (hm : dpa % 64 = 0) (hb : s.backed pl = true) :
    (s.placeHeld pl = true → exec (.clearPoison ld dpa data) s = .next (s.mbox 0x11 [])) ∧
    (s.placeHeld pl = false → s.placeHeld (pl.plus 32) = false → Completes (exec (.clearPoison ld dpa data) s) (fun t => GranuleAlone s pl t ∧
      t.rdPlace pl 64 = rowBytes data ∧ t.placeFault pl 64 = none ∧ (ld, dpa) ∉ t.port.poison ∧
      ∀ x, x ≠ (ld, dpa) → (x ∈ t.port.poison ↔ x ∈ s.port.poison))) := by
  subst hpl
  rw [exec_clearPoison hl h hm hb]
  refine ⟨fun hh => by rw [if_pos hh], fun h1 h2 => ?_⟩
  rw [if_neg (by simp [h1])]
  have al := placeDpa_aligned hm hb
  have len : (rowBytes data).length = 64 := toLE_length ..
  obtain ⟨st, readable, -⟩ := wrPlace_granule_stores al len h1 h2
  obtain ⟨good1, good2⟩ := (placeFault_none_iff al).1 readable
  obtain ⟨⟨-, fault, host, shelf, slice, far⟩, bytes⟩ :=
    granuleStored_of_stores (l := 0) (ld := ld) (dpa := dpa) (FarMoved.refl s) st readable
  have port : (s.wrPlace (s.placeDpa ld dpa) (rowBytes data)).s.port = s.port := by rw [st.rest]
  refine ⟨_, rfl, ⟨slice, far, host, shelf, rfl⟩, eq_of_getD (rdPlace_length ..) len bytes, fault,
    unlist_poison _ _ (placePois_of_good al good1 good2), fun x hx => ?_⟩
  exact (mem_unlist_of_ne hx).trans (by rw [port])

end

/-! ## The Fabric Manager -/

section
variable {s : State} {f : State → State}

/-- A Fabric Manager command is not heard before the device answers. -/
theorem fmTry_unheard (h : s.boot.phase ≠ 9) : run true (s.fmTry f) = .next s := by simp [State.fmTry, h]

theorem fmTry_heard (h : s.boot.phase = 9) : run true (s.fmTry f) = .next (f s) := by simp [State.fmTry, h]

/-- Fabric Manager commands read the active table, and set nothing (02 R19). -/
theorem fabricManager_answers (h : s.boot.phase = 9) :
    exec .getLdInfo s = .next (s.mbox 0 (toLE 2 16 ++ (List.range 16).flatMap (fun p => toLE 8 (s.ldBytes p)))) ∧
    exec .getLdAllocations s = .next (s.mbox 0 (toLE 1 16 ++ (List.range 16).flatMap (fun p =>
      toLE 8 (s.pt.active.stallsOf p).length ++ toLE 8 (s.pt.active.farsize p)))) ∧
    exec .setLdAllocations s = .next (s.mbox 3 []) ∧ exec .setQosControl s = .next (s.mbox 3 []) ∧
    Completes (exec .getQosControl s) (fun t =>
      (∃ d, t.out = .mbox 0 d ∧ d.length = 8) ∧ t = { s with out := t.out, freeCtr := t.freeCtr }) :=
  ⟨fmTry_heard h, fmTry_heard h, fmTry_heard h, fmTry_heard h, _, fmTry_heard h, ⟨_, rfl, toLE_length ..⟩, rfl⟩

end

/-- Settles O60: what a mailbox command does is its effect where the mailbox hears it; poison and stored data stay within the one granule. -/
theorem mailboxAndFabricManagerAnswer : Obligations.MailboxAndFabricManagerAnswer := by
  unfold Obligations.MailboxAndFabricManagerAnswer
  intro s ld log n dpa len off opcode pol ns cel data hl still tells has here both
  refine ⟨fun absent => ⟨forall_mailboxCommands fun _ hc => hc.unheard hl absent, (unsupportedMailboxCommand_answers hl).1 absent⟩,
    fun there hr => forall_mailboxCommands fun _ hc => hc.recovery hl there hr, (unsupportedMailboxCommand_answers hl).2, fun heard => ?_,
    fun h => ⟨fmTry_unheard h, fmTry_unheard h, fmTry_unheard h, fmTry_unheard h, fmTry_unheard h⟩, fabricManager_answers⟩
  obtain ⟨badLog, goodLog⟩ := eventRecords_answer (log := log) (n := n) hl heard
  obtain ⟨reserved, policy⟩ := setEventInterruptPolicy_answers (pol := pol) hl heard
  obtain ⟨noLog, celLog⟩ := getLog_answers (cel := cel) (off := off) (len := len) hl heard
  obtain ⟨misaligned, unbacked⟩ := poison_refused (dpa := dpa) (data := data) hl heard
  refine ⟨badLog, goodLog, getEventInterruptPolicy_answers hl heard, reserved, policy, getFwInfo_answers hl heard,
    getTimestamp_answers hl heard, setTimestamp_answers hl heard, mboxTry_heard hl heard, noLog, celLog, fun sld => ?_,
    fun _ => identifyMemoryDevice_answers hl heard, getHealthInfo_answers hl heard, mboxTry_heard hl heard, misaligned, unbacked,
    fun hm hb => ⟨injectPoison_answers hl heard rfl hm hb, clearPoison_answers hl heard rfl hm hb⟩⟩
  rw [← volatileBytes_sld sld]
  exact identifyMemoryDevice_answers hl heard

end Sys2Proof.Machine
end

section
/-!
SUPPORT. Service continuity: failures and takeovers of the service processors, checkpoints, commanded retirement, salvage and the lifetime
ledger (18; 03 R81; 19 R425; 21 R456, R457, R463), up to the statement ServiceProcessorsFailTakeOverAndCount.
-/
namespace Sys2Proof.Machine

/-! ## What logs, halts and ends of work leave as it is -/

/-- A fold whose every step keeps a part of the state keeps it. -/
theorem foldl_keeps {σ α β : Type} (k : σ → β) {f : σ → α → σ} (h : ∀ s a, k (f s a) = k s) (l : List α) (s : σ) :
    k (l.foldl f s) = k s := by
  induction l generalizing s with
  | nil => rfl
  | cons a l ih => exact (ih _).trans (h s a)

/-- The state without the event log, the ports, messages, interrupts held and the count of free values. -/
def State.unlogged (s : State) : State :=
  { s with freeCtr := 0, outbox := [], integ := {}, port := {}, rings := { s.rings with held := [] } }

/-- t differs from s at most in logs and messages. -/
def Logged (s t : State) : Prop := t.unlogged = s.unlogged

/-- The state without what the halt of a stall changes: also memory, stalls, tallies, far queues, convoys and the pitches' fence logs. Of the
pitches' control it keeps PRESETGEN. -/
def State.unhalted (s : State) : State × (Nat → W32) :=
  ({ s.unlogged with mem := {}, stalls := [], tally := {}, far := {}, cv := {}, pt := { s.pt with ctl := [] } },
    fun p => (s.pctl p).presetgen)

/-- t differs from s at most in what the halt of a stall changes. -/
def Halted (s t : State) : Prop := t.unhalted = s.unhalted

/-- The state without what the end of an item or of a Jisan slot changes: also rings, slots of the window, Jisan's state and the journal. -/
def State.unworked (s : State) : State :=
  { s.unhalted.1 with rings := {}, jis := [], slots := [], svc := { s.svc with jr := [], jnext := 0 } }

/-- t differs from s at most in what the end of work changes. -/
def Ended (s t : State) : Prop := t.unworked = s.unworked

section
variable {s t u : State}

theorem Logged.refl (s : State) : Logged s s := rfl
theorem Logged.trans (h : Logged s t) (g : Logged t u) : Logged s u := Eq.trans g h
theorem Halted.refl (s : State) : Halted s s := rfl
theorem Halted.trans (h : Halted s t) (g : Halted t u) : Halted s u := Eq.trans g h
theorem Ended.refl (s : State) : Ended s s := rfl
theorem Ended.trans (h : Ended s t) (g : Ended t u) : Ended s u := Eq.trans g h

theorem Logged.foldl {α : Type} {f : State → α → State} (h : ∀ s a, Logged s (f s a)) (l : List α) (s : State) : Logged s (l.foldl f s) :=
  foldl_keeps State.unlogged h l s

theorem Halted.foldl {α : Type} {f : State → α → State} (h : ∀ s a, Halted s (f s a)) (l : List α) (s : State) : Halted s (l.foldl f s) :=
  foldl_keeps State.unhalted h l s

theorem Ended.foldl {α : Type} {f : State → α → State} (h : ∀ s a, Ended s (f s a)) (l : List α) (s : State) : Ended s (l.foldl f s) :=
  foldl_keeps State.unworked h l s

theorem Logged.ite {c : Prop} [Decidable c] (h : Logged s t) (g : Logged s u) : Logged s (if c then t else u) := by
  split
  · exact h
  · exact g

theorem Halted.ite {c : Prop} [Decidable c] (h : Halted s t) (g : Halted s u) : Halted s (if c then t else u) := by
  split
  · exact h
  · exact g

theorem Ended.ite {c : Prop} [Decidable c] (h : Ended s t) (g : Ended s u) : Ended s (if c then t else u) := by
  split
  · exact h
  · exact g

theorem Logged.keeps {β : Type} (h : Logged s t) (k : State → β) : k t.unlogged = k s.unlogged := congrArg k h
theorem Halted.keeps {β : Type} (h : Halted s t) (k : State × (Nat → W32) → β) : k t.unhalted = k s.unhalted := congrArg k h
theorem Ended.keeps {β : Type} (h : Ended s t) (k : State → β) : k t.unworked = k s.unworked := congrArg k h

theorem Logged.mem (h : Logged s t) : t.mem = s.mem := h.keeps State.mem
theorem Logged.stalls (h : Logged s t) : t.stalls = s.stalls := h.keeps State.stalls
theorem Logged.jis (h : Logged s t) : t.jis = s.jis := h.keeps State.jis
theorem Logged.items (h : Logged s t) : t.rings.items = s.rings.items := h.keeps (fun x : State => x.rings.items)
theorem Logged.pctl (h : Logged s t) (p : Nat) : t.pctl p = s.pctl p := h.keeps (fun x : State => x.pctl p)

theorem Halted.svc (h : Halted s t) : t.svc = s.svc := h.keeps (fun x => x.1.svc)
theorem Halted.items (h : Halted s t) : t.rings.items = s.rings.items := h.keeps (fun x => x.1.rings.items)
theorem Halted.presetgen (h : Halted s t) (p : Nat) : (t.pctl p).presetgen = (s.pctl p).presetgen := h.keeps (fun x => x.2 p)

theorem Ended.ledger (h : Ended s t) : t.ledger = s.ledger := h.keeps State.ledger
theorem Ended.fp (h : Ended s t) : t.fp = s.fp := h.keeps State.fp
theorem Ended.fw (h : Ended s t) : t.fw = s.fw := h.keeps State.fw
theorem Ended.setup (h : Ended s t) : t.setup = s.setup := h.keeps State.setup
theorem Ended.svcSp (h : Ended s t) : t.svc.sp = s.svc.sp := h.keeps (fun x : State => x.svc.sp)
theorem Ended.svcPair (h : Ended s t) : t.svc.pair = s.svc.pair := h.keeps (fun x : State => x.svc.pair)
theorem Ended.online (h : Ended s t) : t.svc.online = s.svc.online := h.keeps (fun x : State => x.svc.online)
theorem Ended.retStat (h : Ended s t) : t.svc.retStat = s.svc.retStat := h.keeps (fun x : State => x.svc.retStat)

theorem Logged.halted (h : Logged s t) : Halted s t := by
  refine Prod.ext ?_ (funext fun p => congrArg PCtl.presetgen (h.pctl p))
  exact h.keeps (fun x =>
    { x with mem := {}, stalls := [], tally := {}, far := {}, cv := {}, pt := { x.pt with ctl := [] } })

theorem Halted.ended (h : Halted s t) : Ended s t :=
  h.keeps (fun x => ({ x.1 with rings := {}, jis := [], slots := [], svc := { x.1.svc with jr := [], jnext := 0 } } : State))

theorem Logged.ended (h : Logged s t) : Ended s t := h.halted.ended

theorem Observed.halted (h : Observed s t) : Halted s t := by
  have rest := h.1
  exact congrArg (fun x : State => ({ x.unlogged with mem := {}, tally := {}, far := {}, cv := {}, pt := { x.pt with ctl := [] } },
    fun p => (x.pctl p).presetgen)) rest

theorem FarMoved.halted (h : FarMoved s t) : Halted s t := by
  rw [h]
  rfl

end

/-! ### Logs -/

theorem fire_logged (s : State) (fn v : Nat) : Logged s (s.fire fn v) := by
  unfold State.fire State.signalVec State.send
  exact .ite (.ite rfl rfl) rfl

theorem raiseEvent_logged (s : State) (p : Nat) : Logged s (s.raiseEvent p) := fire_logged ..

theorem raiseAll_logged (s : State) : Logged s s.raiseAll := .foldl raiseEvent_logged _ _

theorem cxlRecord_logged (s : State) (ld log : Nat) (e : LogEnt) : Logged s (s.cxlRecord ld log e) := by
  unfold State.cxlRecord
  exact .ite (.trans rfl (fire_logged ..)) rfl

theorem logEvent_logged (s : State) (e : LogEnt) (lds : List Nat) : Logged s (s.logEvent e lds) := by
  have record : ∀ u log a, Logged s u → Logged s (lds.foldl (fun s l => s.cxlRecord l log a) u) := fun u log a h =>
    h.trans (.foldl (fun s l => cxlRecord_logged s l log a) _ _)
  unfold State.logEvent
  extract_lets i a full u w
  have told : Logged s w := by
    refine .trans (t := u) rfl (.ite ?_ (.refl _))
    split
    · exact raiseEvent_logged ..
    · exact .ite rfl (raiseEvent_logged ..)
  exact .ite (record w 2 a told) (.ite (record w 1 a told) told)

theorem logUe_logged (s : State) (e : LogEnt) (lds : List Nat) : Logged s (s.logUe e lds) := by
  unfold State.logUe
  exact .ite rfl (logEvent_logged ..)

theorem logFree_logged (s : State) : Logged s s.logFree := .trans (t := s.used) rfl (logEvent_logged ..)

/-! ### Halts -/

theorem fenceLog_halted (s : State) (n agent th : Nat) (wr : Bool) (addr : Word) (target : Option Nat) :
    Halted s (s.fenceLog n agent th wr addr target) := by
  unfold State.fenceLog
  split
  · exact .refl s
  · rename_i p _
    extract_lets c first src u
    have noted : Halted s u := by
      refine Prod.ext rfl (funext fun j => ?_)
      show (u.pctl j).presetgen = _
      rw [State.pctl_updPctl]
      split
      · rename_i e; subst e; rfl
      · rfl
    exact .ite (noted.trans (raiseEvent_logged ..).halted) noted

/-- t differs from s at most in memory. -/
def MemMoved (s t : State) : Prop := t = { s with mem := t.mem }

theorem MemMoved.refl (s : State) : MemMoved s s := rfl

theorem MemMoved.trans {s t u : State} (h : MemMoved s t) (g : MemMoved t u) : MemMoved s u := by
  unfold MemMoved at h g ⊢
  rw [g, h]

theorem MemMoved.halted {s t : State} (h : MemMoved s t) : Halted s t := by
  rw [h]
  rfl

theorem wrPieces_memMoved {f : State → Nat → List Byte → WrRes} (h : ∀ s a b, MemMoved s (f s a b).s) (l : List (Nat × List Byte))
    (s : State) :
    MemMoved s (s.wrPieces f l).s := by
  have go : ∀ r : WrRes, MemMoved r.s (l.foldl (fun r x => let r' := f r.s x.1 x.2; ⟨r'.s, r.drop <|> r'.drop⟩) r).s := by
    induction l with
    | nil => exact fun r => .refl _
    | cons x l ih => exact fun r => (h r.s x.1 x.2).trans (ih _)
  exact go ⟨s, none⟩

theorem wrSliceWord_memMoved (s : State) (a : Nat) (b : List Byte) : MemMoved s (s.wrSliceWord a b).s := by
  unfold State.wrSliceWord
  extract_lets
  repeat' split
  all_goals rfl

theorem wrFarWord_memMoved (s : State) (o : Nat) (b : List Byte) : MemMoved s (s.wrFarWord o b).s := by
  unfold State.wrFarWord
  extract_lets
  repeat' split
  all_goals rfl

theorem wrSlice_memMoved (s : State) (a : Nat) (b : List Byte) : MemMoved s (s.wrSlice a b).s := wrPieces_memMoved wrSliceWord_memMoved _ _

theorem wrFar_memMoved (s : State) (o : Nat) (b : List Byte) : MemMoved s (s.wrFar o b).s := wrPieces_memMoved wrFarWord_memMoved _ _

theorem poisSlice_memMoved (s : State) (a : Nat) : MemMoved s (s.poisSlice a) := by
  unfold State.poisSlice
  extract_lets
  split <;> rfl

theorem poisFar_memMoved (s : State) (o : Nat) : MemMoved s (s.poisFar o) := by
  unfold State.poisFar
  extract_lets
  split <;> rfl

theorem tgtPath_halted (s : State) (n hint : Nat) (t : Tgt) (len : Nat) (wr : Bool) : Halted s (s.tgtPath n hint t len wr) := by
  cases t with
  | far o => exact (farTouch_farMoved ..).halted
  | shelf m off => exact .ite rfl (.refl s)
  | slice a => exact .refl s
  | none => exact .refl s

theorem stallRead_halted (s : State) (n agent th a len hint : Nat) : Halted s (s.stallRead n agent th a len hint).s := by
  unfold State.stallRead
  extract_lets t u
  have path : Halted s u := tgtPath_halted ..
  split
  · exact fenceLog_halted ..
  · split
    · exact .refl s
    · split
      · exact path.trans (logUe_logged ..).halted
      · exact path

theorem tgtWrite_halted (s : State) (n agent : Nat) (t : Tgt) (b : List Byte) : Halted s (s.tgtWrite n agent t b).s := by
  unfold State.tgtWrite
  extract_lets r
  have written : Halted s r.s := by
    cases t with
    | slice a => exact (wrSlice_memMoved ..).halted
    | shelf m off => rfl
    | far o => exact (wrFar_memMoved ..).halted
    | none => exact .refl s
  split
  · exact written
  · exact written.trans (logEvent_logged ..).halted

theorem stallWrite_halted (s : State) (n agent th a : Nat) (b : List Byte) (hint : Nat) :
    Halted s (s.stallWrite n agent th a b hint).s := by
  unfold State.stallWrite
  extract_lets t r
  split
  · exact fenceLog_halted ..
  · split
    · exact .refl s
    · split
      · exact (logEvent_logged ..).halted
      · exact (tgtPath_halted ..).trans (tgtWrite_halted ..)

theorem poisTgt_halted (s : State) (t : Tgt) : Halted s (s.poisTgt t) := by
  cases t with
  | slice a => exact (poisSlice_memMoved ..).halted
  | far o => exact (poisFar_memMoved ..).halted
  | shelf n off => rfl
  | none => exact .refl s

theorem granule_halted (m : Move) (n th hint : Nat) : Halted m.s (m.granule n th hint).s := by
  unfold Move.granule
  split
  · exact .refl _
  · extract_lets r t w
    have read : Halted m.s r.s := stallRead_halted ..
    split
    · exact .ite (read.trans (poisTgt_halted ..)) read
    · have written : Halted m.s w.s := read.trans (stallWrite_halted ..)
      split <;> exact written

theorem porterRun_halted (s : State) (n i g : Nat) : Halted s (s.porterRun n i g).s := by
  unfold State.porterRun
  exact foldl_keeps (fun m : Move => m.s.unhalted) (fun m _ => granule_halted ..) _ _

theorem porterStop_halted (s : State) (n i : Nat) : Halted s (s.porterStop n i) := by
  unfold State.porterStop
  extract_lets p m
  exact .ite (.trans (t := m.s) (.trans (t := s.used) rfl (porterRun_halted ..)) rfl) (.refl s)

theorem cvEmit_halted (s : State) (peer port : Nat) (q : CvPkt) : Halted s (s.cvEmit peer port q) := by
  unfold State.cvEmit
  exact .ite rfl (.refl s)

theorem cvRoom_halted {s u : State} (h : s.cvRoom = some u) : Halted s u := by
  unfold State.cvRoom at h
  split at h
  · cases h; exact .refl _
  · split at h
    · cases h
    · cases h; rfl

theorem updConv_halted (s : State) (peer port : Nat) (f : Convoy → Convoy) : Halted s (s.updConv peer port f) := rfl

theorem cvPump_halted (s : State) (peer port : Nat) : Halted s (s.cvPump peer port) := by
  unfold State.cvPump
  extract_lets c l u
  split
  · exact .refl s
  · split
    · split
      · exact .refl s
      · rename_i v hv
        exact ((cvRoom_halted hv).trans (updConv_halted ..)).trans (cvEmit_halted ..)
    · exact .ite (.refl s) ((Halted.foldl (fun s q => cvEmit_halted s peer port q) l s).trans (updConv_halted u ..))

theorem cvPut_halted (s : State) (peer port msg : Nat) (l : List CvPkt) : Halted s (s.cvPut peer port msg l) := by
  unfold State.cvPut
  exact (updConv_halted ..).trans (cvPump_halted ..)

theorem cvReply_halted (s : State) (peer port : Nat) (q : CvPkt) : Halted s (s.cvReply peer port q) := cvPut_halted ..

theorem opWithdraw_halted (s : State) (peer port : Nat) (o : CvOp) (st : Nat) : Halted s (s.opWithdraw peer port o st) := by
  unfold State.opWithdraw
  exact (updConv_halted ..).trans (cvReply_halted ..)

theorem waitsWithdraw_halted (s : State) (f : TOwner → Bool) (st : Nat) : Halted s (s.waitsWithdraw f st) := by
  unfold State.waitsWithdraw
  refine .foldl (fun s e => ?_) _ _
  exact .foldl (fun s o => opWithdraw_halted ..) _ _

theorem orphan_halted (s : State) (f : TOwner → Bool) : Halted s (s.orphan f) := by
  unfold State.orphan
  exact (waitsWithdraw_halted s f 0x12).trans rfl

theorem updStall_halted (s : State) (n : Nat) (f : Stall → Stall) : Halted s (s.updStall n f) := rfl

theorem boundary_halted (s : State) (n : Nat) : Halted s (s.boundary n) := rfl

theorem selEvent_halted (s : State) (n code : Nat) : Halted s (s.selEvent n code) := by
  unfold State.selEvent
  exact .ite (selEmit_observed ..).halted (.refl s)

theorem halt_halted (s : State) (n : Nat) : Halted s (s.halt n) := by
  unfold State.halt
  extract_lets a b c
  have stopped : Halted s a := (porterStop_halted ..).trans (porterStop_halted ..)
  have told : Halted s b := stopped.trans (.ite (selEvent_halted ..) (.refl _))
  exact ((told.trans (updStall_halted ..)).trans (orphan_halted c _)).trans (boundary_halted ..)

theorem haltWork_halted (s : State) (w : Work) : Halted s (s.haltWork w) := .foldl halt_halted _ _

/-! ### Ends of items -/

theorem updItem_ended (s : State) (p r : Nat) (seq : W32) (f : Item → Item) : Ended s (s.updItem p r seq f) := rfl

theorem updRing_ended (s : State) (p r : Nat) (f : Ring → Ring) : Ended s (s.updRing p r f) := rfl

theorem fireRing_ended (s : State) (p r : Nat) : Ended s (s.fireRing p r) := (updRing_ended ..).trans (fire_logged ..).ended

theorem moderate_ended (s : State) (i : Item) : Ended s (s.moderate i) := by
  unfold State.moderate
  extract_lets g u
  have counted : Ended s u := updRing_ended ..
  exact .ite (fireRing_ended ..) (.ite (.refl s) (.ite (counted.trans (fireRing_ended ..)) counted))

theorem wrHost_ended (s : State) (a : Nat) (b : List Byte) : Ended s (s.wrHost a b) := rfl

theorem putRecord_ended (s : State) (i : Item) (rt : Nat) : Ended s (s.putRecord i rt) := by
  unfold State.putRecord
  exact (wrHost_ended ..).trans (updRing_ended ..)

theorem writeRecord_ended (s : State) (i : Item) : Ended s (s.writeRecord i) := by
  unfold State.writeRecord
  exact .ite ((putRecord_ended ..).trans (moderate_ended ..)) rfl

theorem journal_ended (s : State) (i : Item) (stage : Stage) : Ended s (s.journal i stage) := rfl

theorem finish_ended (s : State) (p r : Nat) (seq : W32) : Ended s (s.finish p r seq) := by
  unfold State.finish
  split
  · exact .refl s
  · extract_lets r u v
    have left : Ended s u := rfl
    exact ((left.trans (journal_ended ..)).trans (orphan_halted ..).ended).trans (writeRecord_ended ..)

theorem granWrite_ended (s : State) (ld kind a : Nat) (b : List Byte) (hint : Nat) : Ended s (s.granWrite ld kind a b hint).s := by
  unfold State.granWrite
  split
  · exact wrHost_ended ..
  · split
    · exact (wrSlice_memMoved ..).halted.ended
    · exact (FarMoved.halted (farTouch_farMoved ..)).ended.trans (wrFar_memMoved ..).halted.ended
    · exact .refl s

theorem spaceReport_ended (s : State) (p ty req kind a : Nat) : Ended s (s.spaceReport p ty req kind a) := by
  unfold State.spaceReport
  refine .ite (.refl s) ?_
  split
  · exact (logUe_logged ..).ended
  · exact (logUe_logged ..).ended
  · exact .refl s

theorem itemWrite_ended (s : State) (p r : Nat) (seq : W32) (req kind a : Nat) (b : List Byte) (hint : Nat) :
    Ended s (s.itemWrite p r seq req kind a b hint) := by
  refine .foldl (fun s x => ?_) _ _
  extract_lets at_ u w u' v
  have written : Ended s v := granWrite_ended ..
  split
  · exact written
  · exact written.trans (spaceReport_ended ..)

theorem spaceTouch_ended (s : State) (ld kind a n hint : Nat) (wr : Bool) : Ended s (s.spaceTouch ld kind a n hint wr) := by
  unfold State.spaceTouch
  refine .ite (.refl s) ?_
  split
  · exact (FarMoved.halted (farTouch_farMoved ..)).ended
  · exact .refl s

theorem revertOne_ended (s : State) (u : Undo) : Ended s (s.revertOne u) := by
  unfold State.revertOne
  exact .ite (.refl s) (.ite rfl (.ite rfl (.ite rfl rfl)))

theorem used_ended (s : State) : Ended s s.used := rfl

theorem indeterminate_ended (s : State) (l : List Undo) : Ended s (s.indeterminate l) := by
  unfold State.indeterminate
  refine .foldl (fun s u => ?_) _ _
  exact .trans (.ite (revertOne_ended ..) (.refl s)) (used_ended _)

/-! ### Collectives -/

theorem cvAbort_ended (s : State) (peer port msg st : Nat) : Ended s (s.cvAbort peer port msg st) := (cvReply_halted ..).ended

theorem cvMsg_ended (s : State) (d : Nat) : Ended s (s.cvMsg d).1 := rfl

theorem updColl_ended (s : State) (p r : Nat) (seq : W32) (f : Coll → Coll) : Ended s (s.updColl p r seq f) := rfl

theorem collTake_ended (s : State) (c : Coll) : Ended s (s.collTake c) := rfl

theorem collSend_ended (s : State) (c : Coll) (peer port msg step : Nat) (b : List Byte) : Ended s (s.collSend c peer port msg step b) :=
  (cvPut_halted ..).ended

theorem collBegin_ended (s : State) (c : Coll) : Ended s (s.collBegin c) := by
  unfold State.collBegin
  extract_lets x t u c' a b c'' v w
  have touched : Ended s t := spaceTouch_ended ..
  have read : Ended s u := by
    refine touched.trans ?_
    simp only [u]
    split
    · exact .trans (spaceReport_ended ..) rfl
    · exact .refl t
  have numbered : Ended s b.1 := read.trans (by
    simp only [b]
    split
    · exact cvMsg_ended ..
    · exact (cvMsg_ended ..).trans (cvMsg_ended ..))
  have sent : Ended s w := (numbered.trans (updColl_ended ..)).trans (collSend_ended ..)
  exact .ite sent (sent.trans (collSend_ended ..))

theorem collNext_ended (s : State) (p h : Nat) : Ended s (s.collNext p h) := by
  unfold State.collNext
  extract_lets l
  clear_value l
  refine .ite (.refl s) ?_
  split
  · exact .refl s
  · exact .ite (collBegin_ended ..) (.refl s)

theorem collLeave_ended (s : State) (c : Coll) : Ended s (s.collLeave c) := (collTake_ended ..).trans (collNext_ended ..)

theorem collAbort_ended (s : State) (c : Coll) (st : Nat) : Ended s (s.collAbort c st) := by
  unfold State.collAbort
  extract_lets a b d
  have next : Ended a b := cvAbort_ended ..
  have told : Ended a d := .ite (.refl a) (.ite next (next.trans (cvAbort_ended ..)))
  exact ((collTake_ended ..).trans told).trans (collNext_ended ..)

theorem collWrite_ended (s : State) (c : Coll) (q : Nat) (b : List Byte) : Ended s (s.collWrite c q b) := itemWrite_ended ..

theorem collDone_ended (s : State) (c : Coll) : Ended s (s.collDone c) := by
  unfold State.collDone
  split
  · exact collLeave_ended ..
  · exact .ite (((collAbort_ended ..).trans (indeterminate_ended ..)).trans (finish_ended ..))
      (((updItem_ended ..).trans (collLeave_ended ..)).trans (finish_ended ..))

theorem collStep_ended (s : State) (c : Coll) : Ended s (s.collStep c) := by
  unfold State.collStep
  extract_lets x last got whole fin u c' v w
  have written : Ended s u := .ite (collWrite_ended ..) (.refl s)
  have sent : Ended s w := (written.trans (updColl_ended ..)).trans (.ite (collSend_ended ..) (.refl v))
  exact .ite (sent.trans (collDone_ended ..)) sent

theorem collRun_ended (s : State) (p r : Nat) (seq : W32) (n : Nat) : Ended s (s.collRun p r seq n) := by
  induction n generalizing s with
  | zero => exact .refl s
  | succ n ih =>
    unfold State.collRun
    split
    · exact .refl s
    · exact .ite ((collStep_ended ..).trans (ih _)) (.refl s)

/-- The output of a collective goes back to what it was. -/
theorem revertAll_ended (l : List Undo) (s : State) : Ended s (l.foldl State.revertOne s) := .foldl revertOne_ended _ _

theorem collStop_ended (s : State) (c : Coll) (st : Nat) (tell : List (Nat × Nat × Nat)) : Ended s (s.collStop c st tell) := by
  unfold State.collStop
  extract_lets a b
  have told : Ended s a := by
    refine (collTake_ended s c).trans (.foldl (fun s x => ?_) _ _)
    exact cvAbort_ended ..
  have settled : Ended a b := by
    simp only [b]
    split
    · exact .refl a
    · exact .ite (((revertAll_ended ..).trans (updItem_ended ..)).trans (finish_ended ..))
        (((updItem_ended ..).trans (indeterminate_ended ..)).trans (finish_ended ..))
  exact (told.trans settled).trans (collNext_ended ..)

theorem collStart_ended (s : State) (c : Coll) : Ended s (s.collStart c) := by
  unfold State.collStart
  extract_lets failed c' a b d
  have written : Ended s b := (updColl_ended ..).trans (.ite (collWrite_ended ..) (.ite (collWrite_ended ..) (.refl a)))
  have sent : Ended s d := written.trans (.ite (.refl b) (collSend_ended ..))
  exact .ite (collStop_ended ..) (.ite (sent.trans (collDone_ended ..)) (sent.trans (collRun_ended ..)))

theorem collReject_ended (s : State) (c : Coll) : Ended s (s.collReject c) := by
  unfold State.collReject
  split
  · exact collAbort_ended ..
  · extract_lets a
    have back : Ended s a := (revertAll_ended ..).trans (updItem_ended ..)
    exact back.trans ((collAbort_ended ..).trans (finish_ended ..))

theorem collPacket_ended (s : State) (c : Coll) (e : CvEarly) : Ended s (s.collPacket c e) := by
  unfold State.collPacket
  extract_lets c' a
  exact .ite (collStop_ended ..) (.ite (.ite (collReject_ended ..) ((updColl_ended ..).trans (.ite (collStart_ended ..) (.refl a))))
    ((updColl_ended ..).trans (collRun_ended ..)))

theorem collDrain_ended (s : State) (p h n : Nat) : Ended s (s.collDrain p h n) := by
  induction n generalizing s with
  | zero => exact .refl s
  | succ n ih =>
    unfold State.collDrain
    split
    · exact .refl s
    · split
      · exact .refl s
      · extract_lets cv a
        have taken : Ended s a := rfl
        exact (taken.trans (collPacket_ended ..)).trans (ih _)

/-! ### What an event ends -/

theorem serviceWrite_ended (s : State) (p kind a : Nat) (b : List Byte) : Ended s (s.serviceWrite p kind a b) := by
  unfold State.serviceWrite
  refine .ite rfl (.foldl (fun s x => ?_) _ _)
  exact granWrite_ended ..

theorem updJis_ended (s : State) (p : Nat) (f : JPitch → JPitch) : Ended s (s.updJis p f) := rfl

theorem jEnd_ended (s : State) (p r : Nat) (seq : W32) (st reason : Nat) : Ended s (s.jEnd p r seq st reason) := by
  unfold State.jEnd
  split
  · exact .refl s
  · extract_lets a
    have told : Ended s a := .ite (.ite (serviceWrite_ended ..) (.refl s)) (.refl s)
    exact (told.trans (updItem_ended ..)).trans (updJis_ended ..)

theorem cvOpsEnd_ended (s : State) (p r : Nat) (seq : W32) (st : Nat) : Ended s (s.cvOpsEnd p r seq st) := by
  unfold State.cvOpsEnd
  refine .foldl (fun s e => ?_) _ _
  refine .foldl (fun s o => ?_) _ _
  extract_lets a
  exact .ite (.trans (updConv_halted ..).ended (.ite (.refl a) (cvAbort_ended ..))) (.refl s)

theorem collEnd_ended (s : State) (p r : Nat) (seq : W32) (st : Nat) : Ended s (s.collEnd p r seq st) := by
  unfold State.collEnd
  split
  · exact .refl s
  · exact (collAbort_ended ..).trans (collDrain_ended ..)

theorem settleDest_ended (s : State) (p r : Nat) (seq : W32) : Ended s (s.settleDest p r seq) := by
  unfold State.settleDest
  split
  · exact .refl s
  · extract_lets d
    exact .ite (((used_ended s).trans (indeterminate_ended ..)).trans (updItem_ended ..)) ((indeterminate_ended ..).trans (updItem_ended ..))

theorem freeStalls_ended (s : State) (i : Item) : Ended s (s.freeStalls i) := by
  unfold State.freeStalls
  exact .foldl (fun _ _ => (boundary_halted ..).ended) _ _

theorem endItemAs_ended (s : State) (p r : Nat) (seq : W32) (st reason : Nat) : Ended s (s.endItemAs p r seq st reason) := by
  unfold State.endItemAs
  split
  · exact .refl s
  · extract_lets i a b
    have stopped : Ended s a := (updItem_ended ..).trans (haltWork_halted ..).ended
    have ended : Ended s b := stopped.trans (((cvOpsEnd_ended ..).trans (collEnd_ended ..)).trans (jEnd_ended ..))
    exact .ite ((freeStalls_ended ..).trans (finish_ended ..)) (ended.trans ((settleDest_ended ..).trans (finish_ended ..)))

theorem endItem_ended (s : State) (p r : Nat) (seq : W32) (st : Nat) : Ended s (s.endItem p r seq st) := endItemAs_ended ..

theorem endItems_ended (s : State) (f : Item → Bool) (st : Nat) : Ended s (s.endItems f st) := by
  unfold State.endItems
  exact .foldl (fun _ _ => endItem_ended ..) _ _

theorem slotFinish_ended (s : State) (p n st ce : Nat) : Ended s (s.slotFinish p n st ce) := by
  unfold State.slotFinish
  extract_lets d tot st' good gather data a
  have settled : Ended s a := .ite (.refl s) (.trans (t := { s with freeCtr := s.freeCtr + 32 }) rfl (indeterminate_ended ..))
  exact .ite (.refl s) (settled.trans rfl)

theorem slotsEnd_ended (s : State) (st : Nat) (f : Nat → Bool) : Ended s (s.slotsEnd st f) := by
  unfold State.slotsEnd
  refine .foldl (fun s p => ?_) _ _
  refine .foldl (fun s n => ?_) _ _
  exact .ite (slotFinish_ended ..) (.refl s)

theorem stallEnds_ended (s : State) (n st : Nat) : Ended s (s.stallEnds n st) := (slotsEnd_ended ..).trans (endItems_ended ..)

/-! ### Jisan's slots -/

theorem slotStale_ended (s : State) (p k st : Nat) : Ended s (s.slotStale p k st) := by
  unfold State.slotStale
  extract_lets a b
  have stopped : Ended s a := .ite ((haltWork_halted ..).ended.trans (updJis_ended ..)) (.refl s)
  exact (stopped.trans (endItems_ended ..)).trans (updJis_ended ..)

theorem migrate_ended (s : State) (p k i n : Nat) : Ended s (s.migrate p k i n) := by
  unfold State.migrate
  split
  · exact .ite (slotStale_ended ..) ((haltWork_halted ..).ended.trans (updJis_ended ..))
  · exact slotStale_ended ..

theorem jisStallGone_ended (s : State) (n : Nat) : Ended s (s.jisStallGone n) := by
  unfold State.jisStallGone
  refine .foldl (fun s p => ?_) _ _
  extract_lets l a b
  have again : Ended a b := .foldl (fun _ _ => migrate_ended ..) _ _
  exact ((updJis_ended ..).trans again).trans (.foldl (fun _ _ => migrate_ended ..) _ _)

theorem settleFirm_ended (s : State) (c : Option CkPt) (blank : Bool) (i : Item) : Ended s (s.settleFirm c blank i) := by
  have again : Ended s (s.retryItem i) := ((haltWork_halted ..).ended.trans (updJis_ended ..)).trans (updItem_ended ..)
  unfold State.settleFirm
  extract_lets
  split
  · exact .ite again (endItem_ended ..)
  · exact .ite (.refl s) (.ite again ((updItem_ended ..).trans (endItem_ended ..)))
  · exact .refl s

theorem jisCatchUp_ended (s : State) : Ended s s.jisCatchUp := by
  unfold State.jisCatchUp
  refine .foldl (fun s n => .ite (.refl s) (.ite ?_ (jisStallGone_ended ..))) _ _
  refine .foldl (fun s p => ?_) _ _
  exact .foldl (fun _ _ => slotStale_ended ..) _ _

theorem blankJis_ended (s : State) : Ended s s.blankJis := by
  unfold State.blankJis
  extract_lets a
  have blank : Ended s a := rfl
  exact blank.trans (Logged.foldl raiseEvent_logged _ _).ended

theorem loadJis_ended (s : State) (c : CkPt) : Ended s (s.loadJis c) := rfl

theorem settleAll_ended (s : State) (c : Option CkPt) (blank : Bool) : Ended s (s.settleAll c blank) := by
  unfold State.settleAll
  extract_lets a b
  have stopped : Ended s a := .foldl (fun _ _ => (haltWork_halted ..).ended) _ _
  have settled : Ended a b := .foldl (fun _ _ => settleFirm_ended ..) _ _
  refine (stopped.trans settled).trans ?_
  split
  · exact (loadJis_ended ..).trans (jisCatchUp_ended ..)
  · exact blankJis_ended b

/-! ## Counters of the ledger -/

section
variable (s : State) (o v off k : Nat)

/-- A counter set, as read: it sticks at its largest value (18 R407). -/
theorem ledgerAt_ledgerSet : (s.ledgerSet o v).ledgerAt off = if off / 8 = o / 8 then min (2 ^ 64 - 1) v else s.ledgerAt off := by
  unfold State.ledgerAt State.ledgerSet
  extract_lets l
  split
  · simp only [Tab.get_set, l]
    split
    · rw [BitVec.toNat_allOnes]
      omega
    · rfl
  · simp only [Tab.get_set, l]
    split
    · rw [BitVec.toNat_ofNat]
      omega
    · rfl

theorem ledgerAt_lt : s.ledgerAt off < 2 ^ 64 := BitVec.isLt _

theorem ledgerAt_congr (h : off / 8 = o / 8) : s.ledgerAt off = s.ledgerAt o := by
  unfold State.ledgerAt
  rw [h]

theorem ledgerAt_ledgerAdd :
    (s.ledgerAdd o k).ledgerAt off = if off / 8 = o / 8 then min (2 ^ 64 - 1) (s.ledgerAt off + k) else s.ledgerAt off := by
  have bound := ledgerAt_lt s off
  unfold State.ledgerAdd
  split
  · split <;> omega
  · rw [ledgerAt_ledgerSet]
    split
    · rw [ledgerAt_congr s o off ‹_›]
    · rfl

end

/-- t differs from s at most in the ledger. -/
def Counted (s t : State) : Prop := t = { s with ledger := t.ledger }

section
variable {s t u : State}

theorem Counted.refl (s : State) : Counted s s := rfl

theorem Counted.trans (h : Counted s t) (g : Counted t u) : Counted s u := by
  unfold Counted at h g ⊢
  rw [g, h]

theorem Counted.ite {c : Prop} [Decidable c] (h : Counted s t) (g : Counted s u) : Counted s (if c then t else u) := by
  split
  · exact h
  · exact g

theorem Counted.foldl {α : Type} {f : State → α → State} (h : ∀ s a, Counted s (f s a)) (l : List α) (s : State) :
    Counted s (l.foldl f s) := by
  induction l generalizing s with
  | nil => exact .refl s
  | cons a l ih => exact (h s a).trans (ih _)

/-- What a part of the state that the ledger does not enter reads. -/
theorem Counted.keeps {β : Type} (h : Counted s t) (k : State → β) (hk : ∀ s l, k { s with ledger := l } = k s) : k t = k s := by
  rw [h, hk]

end

theorem ledgerSet_counted (s : State) (o v : Nat) : Counted s (s.ledgerSet o v) := by
  unfold State.ledgerSet
  exact .ite rfl rfl

theorem ledgerAdd_counted (s : State) (o k : Nat) : Counted s (s.ledgerAdd o k) := by
  unfold State.ledgerAdd
  exact .ite (.refl s) (ledgerSet_counted ..)

/-! ## Service processors and pairs -/

section
variable (s : State) (i j : Nat) (f : SpSt → SpSt) (g : PairSt → PairSt)

theorem sp_updSp : (s.updSp i f).sp j = if j = i then f (s.sp i) else s.sp j := Tab.get_set ..

theorem pair_updPair : (s.updPair i g).pair j = if j = i then g (s.pair i) else s.pair j := Tab.get_set ..

theorem sp_congr {s t : State} (h : t.svc.sp = s.svc.sp) (m : Nat) : t.sp m = s.sp m := by
  unfold State.sp
  rw [h]

theorem pair_congr {s t : State} (h : t.svc.pair = s.svc.pair) (q : Nat) : t.pair q = s.pair q := by
  unfold State.pair
  rw [h]

theorem pairActive_iff (q : Nat) : s.pairActive q = true ↔ (s.sp (2 * q)).role = 3 ∨ (s.sp (2 * q + 1)).role = 3 := by
  simp [State.pairActive, State.sp]

theorem otherSp_ne : otherSp i ≠ i := by
  unfold otherSp
  split <;> omega

theorem otherSp_pair : otherSp i / 2 = i / 2 := by
  unfold otherSp
  split <;> omega

/-- The members of a pair are a processor and its other. -/
theorem pairActive_self : s.pairActive (i / 2) = true ↔ (s.sp i).role = 3 ∨ (s.sp (otherSp i)).role = 3 := by
  rw [pairActive_iff]
  unfold otherSp
  split
  · rw [show 2 * (i / 2) = i by omega]
  · rw [show 2 * (i / 2) = i - 1 by omega, show i - 1 + 1 = i by omega, or_comm]

end

theorem Counted.sp {s t : State} (h : Counted s t) (m : Nat) : t.sp m = s.sp m := h.keeps (fun x => x.sp m) (fun _ _ => rfl)

section
variable {s : State} {i c : Nat}

theorem run_inHall {t : State} (hi : i < 4) : run (inHall i) t = .next t := by simp [inHall, hi]

/-- A processor that is neither standby nor active has no heartbeat and cannot fail (18 R392). -/
theorem service_still (hi : i < 4) (h2 : (s.sp i).role ≠ 2) (h3 : (s.sp i).role ≠ 3) :
    exec (.heartbeat i) s = .next s ∧ exec (.heartbeatTimeout i) s = .next s ∧ exec (.watchdogExpiry i) s = .next s ∧
    exec (.fatalFault i) s = .next s := by
  have fails : s.declareFailed i = s := by simp [State.declareFailed, h2, h3]
  refine ⟨(run_inHall hi).trans ?_, (run_inHall hi).trans ?_, (run_inHall hi).trans ?_, (run_inHall hi).trans ?_⟩
  · rw [if_neg (by simp [h2, h3])]
  · rw [fails, ite_self]
  · rw [fails]
  · rw [fails]

theorem heartbeatTimeout_early (hi : i < 4) (h : s.time < (s.sp i).hb + s.hbTimeout) : exec (.heartbeatTimeout i) s = .next s :=
  (run_inHall hi).trans (by rw [if_neg (by omega)])

/-- HB is the member's own (18 R392). -/
theorem heartbeat_beats (hi : i < 4) (h : (s.sp i).role = 2 ∨ (s.sp i).role = 3) :
    Completes (exec (.heartbeat i) s) (fun t => t = { s with svc := t.svc, setup := t.setup } ∧ t.sp i = { s.sp i with hb := s.time } ∧
      (∀ m, m ≠ i → t.sp m = s.sp m) ∧ t.rw32 (0x2000 + 32 * i) = 0x10000) := by
  refine ⟨_, (run_inHall hi).trans (by rw [if_pos h]), rfl, ?_, fun m hm => ?_, ?_⟩
  · exact (sp_updSp s i i (fun x => { x with hb := s.time })).trans (if_pos rfl)
  · exact (sp_updSp s i m (fun x => { x with hb := s.time })).trans (if_neg hm)
  · exact (State.rw32_setRw32 ..).trans (if_pos rfl)

/-! ## Checkpoints -/

theorem find_map_value {α β : Type} (f : α → β) (t : Tab α) (a : Nat) :
    Tab.find (t.map (fun e => (e.1, f e.2))) a = (Tab.find t a).map f := by
  induction t with
  | nil => rfl
  | cons e t ih =>
    obtain ⟨k, v⟩ := e
    simp only [List.map_cons, Tab.find, ih]
    split <;> rfl

/-- A table of some keys, read at one of them. -/
theorem find_paired {α : Type} (f : Nat → α) {l : List Nat} {p : Nat} (hp : p ∈ l) : Tab.find (l.map (fun p => (p, f p))) p = some (f p) := by
  induction l with
  | nil => cases hp
  | cons k l ih =>
    simp only [List.map_cons, Tab.find]
    split
    · rename_i e; rw [e]
    · exact ih ((List.mem_cons.1 hp).resolve_left (Ne.symm ‹_›))

/-- The checkpoint that the active member of pair q commits (18 R393). -/
def State.newCkpt (s : State) (q : Nat) : CkPt :=
  { gen := (s.pair q).cgen + 1, jpos := s.svc.jnext - 1, preset := allPitches.map (fun p => (p, (s.pctl p).presetgen)),
    jis := if q = 0 then s.jis else [] }

/-- A pair after its active member has committed checkpoint k. -/
def PairSt.committed (x : PairSt) (k : CkPt) : PairSt :=
  { x with cgen := x.cgen + 1, last := 1 - x.last, a := if x.last = 0 then x.a else some k, b := if x.last = 0 then some k else x.b }

/-- A pitch of Jisan whose moved sequences' blocks are released. -/
def JPitch.released (j : JPitch) : JPitch := { j with rel := [] }

/-- What a commit of pair q makes of the state. -/
structure Commits (s : State) (q : Nat) (t : State) : Prop where
  rest : t = { s with svc := t.svc, jis := t.jis }
  svc : t.svc = { s.svc with pair := Tab.set s.svc.pair q ((s.pair q).committed (s.newCkpt q)), jr := t.svc.jr }
  jr : q = 0 → t.svc.jr = s.svc.jr.filter (fun e => (s.item e.pitch e.ring e.seq).isSome || !serialLt e.jseq (s.svc.jnext - 1))
  jis : t.jis = if q = 0 then s.jis.map (fun e => (e.1, e.2.released)) else s.jis

theorem commitCkpt_commits {q : Nat} (h : s.pairActive q = true) : Commits s q (s.commitCkpt q) := by
  unfold State.commitCkpt
  rw [if_neg (by simp [h])]
  by_cases hq : q = 0
  · subst hq
    exact ⟨rfl, rfl, fun _ => rfl, rfl⟩
  · extract_lets x jpos k u
    rw [if_neg hq]
    exact ⟨rfl, rfl, fun h => absurd h hq, (if_neg hq).symm⟩

section
variable {q : Nat} {t : State} (h : Commits s q t)
include h

theorem Commits.sp (m : Nat) : t.sp m = s.sp m := by
  unfold State.sp
  rw [h.svc]

theorem Commits.pair (r : Nat) : t.pair r = if r = q then (s.pair q).committed (s.newCkpt q) else s.pair r := by
  unfold State.pair
  rw [h.svc]
  exact Tab.get_set ..

theorem Commits.jis1 (p : Nat) : (t.jis1 p).slot = (s.jis1 p).slot ∧ (t.jis1 p).sess = (s.jis1 p).sess := by
  unfold State.jis1
  rw [h.jis]
  split
  · unfold Tab.get
    rw [find_map_value JPitch.released]
    cases Tab.find s.jis p <;> exact ⟨rfl, rfl⟩
  · exact ⟨rfl, rfl⟩

end

theorem checkpoint_still (hc : c < 2) (h : s.pairActive c = false) : exec (.checkpoint c) s = .next s := by
  change run (inTwo c) _ = _
  simp [inTwo, hc, State.commitCkpt, h]

/-- CHECKPOINT writes the buffer that the last marker does not name (18 R393, R395). -/
theorem checkpoint_commits (hc : c < 2) (h : s.pairActive c = true) :
    Completes (exec (.checkpoint c) s) (fun t =>
      let y := t.pair c
      let k := if (s.pair c).last = 0 then y.b else y.a
      t = { s with svc := t.svc, jis := t.jis } ∧ t.svc.sp = s.svc.sp ∧ t.pair (1 - c) = s.pair (1 - c) ∧
      y.cgen = (s.pair c).cgen + 1 ∧ y.last = 1 - (s.pair c).last ∧
      (if (s.pair c).last = 0 then y.a = (s.pair c).a else y.b = (s.pair c).b) ∧
      (∃ z, k = some z ∧ z.gen = y.cgen ∧ z.jpos = s.svc.jnext - 1 ∧ (∀ p < 16, Tab.get 0 z.preset p = (s.pctl p).presetgen) ∧
        z.jis = if c = 0 then s.jis else []) ∧
      (∀ p, (t.jis1 p).slot = (s.jis1 p).slot ∧ (t.jis1 p).sess = (s.jis1 p).sess) ∧
      (c = 0 → t.svc.jr = s.svc.jr.filter (fun e => (s.item e.pitch e.ring e.seq).isSome || !serialLt e.jseq (s.svc.jnext - 1)))) := by
  have commits := commitCkpt_commits h
  have named : (s.commitCkpt c).pair c = (s.pair c).committed (s.newCkpt c) := (commits.pair c).trans (if_pos rfl)
  refine ⟨s.commitCkpt c, show run (inTwo c) (s.commitCkpt c) = _ by simp [inTwo, hc], ?_⟩
  beta_reduce
  extract_lets y k
  have hy : y = (s.pair c).committed (s.newCkpt c) := named
  refine ⟨commits.rest, by rw [commits.svc], (commits.pair _).trans (if_neg (by omega)), by rw [hy]; rfl, by rw [hy]; rfl, ?_,
    ⟨s.newCkpt c, ?_, by rw [hy]; rfl, rfl, fun p hp => ?_, rfl⟩, commits.jis1, commits.jr⟩
  · rw [hy]
    split <;> rename_i e <;> simp [PairSt.committed, e]
  · simp only [k, hy]
    split <;> rename_i e <;> simp [PairSt.committed, e]
  · simp [State.newCkpt, Tab.get, find_paired (fun p => (s.pctl p).presetgen) (l := allPitches) (List.mem_range.2 hp)]

end

/-! ## A member fails -/

section
variable {s t : State} {i : Nat}

/-- A member that fails at a time, with its failures of the last 24 h (18 R392, R399). -/
def SpSt.failedAt (x : SpSt) (now : Nat) : SpSt :=
  { x with role := 4, fails := now :: x.fails.filter (fun t => decide (now < t + 24 * hourNs)) }

/-- The state once a member is marked failed and, at its third failure in 24 h, retired (18 R392, R399). -/
def State.lostSp (s : State) (i : Nat) : State :=
  let u := (s.updSp i (fun x => x.failedAt s.time)).ledgerAdd (spRec i 2) 1
  if 3 ≤ u.fails24 i then u.retireSp i else u

/-- Member i has failed, or is retired by its third failure in 24 h. -/
structure Loses (s : State) (i : Nat) (t : State) : Prop where
  rest : t = { s with svc := { s.svc with sp := t.svc.sp }, ledger := t.ledger }
  role : (t.sp i).role = if 2 ≤ s.fails24 i then 5 else 4
  fails : (t.sp i).fails.head? = some s.time
  others : ∀ m, m ≠ i → t.sp m = s.sp m
  count : t.ledgerAt (spRec i 2) = min (2 ^ 64 - 1) (s.ledgerAt (spRec i 2) + 1)
  counters : ∀ off, off / 8 ≠ spRec i 2 / 8 → off / 8 ≠ spRec i 5 / 8 → t.ledgerAt off = s.ledgerAt off

theorem spRec_ne {i j k l : Nat} (hk : k < 8) (hl : l < 8) (h : i ≠ j ∨ k ≠ l) : spRec i k / 8 ≠ spRec j l / 8 := by
  unfold spRec
  omega

/-- A member that is retired (18 R399). -/
theorem retireSp_sp (j : Nat) : (s.retireSp i).sp j = if j = i then { s.sp i with role := 5 } else s.sp j :=
  ((ledgerSet_counted ..).sp j).trans (sp_updSp ..)

theorem retireSp_rest : s.retireSp i = { s with svc := { s.svc with sp := (s.retireSp i).svc.sp }, ledger := (s.retireSp i).ledger } := by
  unfold State.retireSp
  have counted := ledgerSet_counted (s.updSp i (fun x => { x with role := 5 })) (spRec i 5) s.retireTime
  rw [counted]
  rfl

theorem retireSp_ledgerAt {off : Nat} (h : off / 8 ≠ spRec i 5 / 8) : (s.retireSp i).ledgerAt off = s.ledgerAt off :=
  (ledgerAt_ledgerSet ..).trans (if_neg h)

theorem lostSp_loses (s : State) (i : Nat) : Loses s i (s.lostSp i) := by
  unfold State.lostSp
  extract_lets u
  have counted : Counted (s.updSp i (fun x => x.failedAt s.time)) u := ledgerAdd_counted ..
  have member : u.sp i = (s.sp i).failedAt s.time := (counted.sp i).trans ((sp_updSp ..).trans (if_pos rfl))
  have others : ∀ m, m ≠ i → u.sp m = s.sp m := fun m hm => (counted.sp m).trans ((sp_updSp ..).trans (if_neg hm))
  have counters : ∀ off, u.ledgerAt off = _ := fun off => ledgerAt_ledgerAdd _ (spRec i 2) off 1
  have rest : u = { s with svc := { s.svc with sp := u.svc.sp }, ledger := u.ledger } := by
    rw [counted]
    rfl
  have time : u.time = s.time := counted.keeps State.time (fun _ _ => rfl)
  have third : u.fails24 i = s.fails24 i + 1 := by
    unfold State.fails24
    rw [member, time]
    simp [SpSt.failedAt, hourNs]
  rw [third]
  by_cases h : 2 ≤ s.fails24 i
  · rw [if_pos (by omega)]
    refine ⟨?_, ?_, ?_, fun m hm => ?_, ?_, fun off h2 h5 => ?_⟩
    · rw [retireSp_rest, rest]
    · rw [retireSp_sp, if_pos rfl, if_pos h]
    · rw [retireSp_sp, if_pos rfl]
      simp [member, SpSt.failedAt]
    · rw [retireSp_sp, if_neg hm, others m hm]
    · rw [retireSp_ledgerAt (spRec_ne (by decide) (by decide) (.inr (by decide))), counters, if_pos rfl]
      rfl
    · rw [retireSp_ledgerAt h5, counters, if_neg h2]
      rfl
  · rw [if_neg (by omega)]
    refine ⟨rest, ?_, ?_, others, ?_, fun off h2 _ => ?_⟩
    · rw [member, if_neg h]
      rfl
    · simp [member, SpSt.failedAt]
    · rw [counters, if_pos rfl]
      rfl
    · rw [counters, if_neg h2]
      rfl

/-- SIMPLEX and NONE of a pair, and nothing else of it. -/
theorem pairFlags_pair (q r : Nat) :
    (s.pairFlags q).pair r = if r = q then
      { s.pair q with
        none_ := !s.pairActive q
        simplex := (decide ((s.sp (2 * q)).role = 5) != decide ((s.sp (2 * q + 1)).role = 5)) && s.pairActive q } else s.pair r :=
  pair_updPair ..

theorem pairFlags_sp (q m : Nat) : (s.pairFlags q).sp m = s.sp m := rfl

/-- A standby that fails is lost, and the pair simplex once it is retired (18 R399). -/
theorem standby_fails (h2 : (s.sp i).role = 2) :
    Loses s i ((s.lostSp i)) ∧ s.declareFailed i = (s.lostSp i).pairFlags (i / 2) := by
  refine ⟨lostSp_loses .., ?_⟩
  unfold State.declareFailed
  extract_lets was u
  have hw : was = 2 := h2
  rw [if_neg (by omega), if_pos hw]
  rfl

/-- The one of a pair whose other is active and not retired: SIMPLEX says that it is retired. -/
theorem pairFlags_simplex (h : (s.sp (otherSp i)).role = 3) :
    ((s.pairFlags (i / 2)).pair (i / 2)).simplex = decide ((s.sp i).role = 5) := by
  have active : s.pairActive (i / 2) = true := (pairActive_self s i).2 (.inr h)
  rw [pairFlags_pair, if_pos rfl]
  simp only [active, Bool.and_true]
  unfold otherSp at h
  split at h
  · have e : 2 * (i / 2) = i := by omega
    rw [e, h]
    simp
  · have e : 2 * (i / 2) = i - 1 := by omega
    have e' : i - 1 + 1 = i := by omega
    rw [e, e', h]
    simp

end

/-! ## A member takes over -/

section
variable {s t w : State} {i : Nat}

/-- A member that becomes active now. -/
def SpSt.activeAt (x : SpSt) (now : Nat) : SpSt := { x with role := 3, hb := now }

/-- A pair owned by the member of a parity. -/
def PairSt.ownedBy (x : PairSt) (o : Nat) : PairSt := { x with owner := o }

/-- Member i is active and its pair's owner, as the takeover begins. -/
def State.named (s : State) (i : Nat) : State :=
  (s.updSp i (fun x => x.activeAt s.time)).updPair (i / 2) (fun x => x.ownedBy (i % 2))

/-- The state in which a member takes over, before its pair goes on (18 R396). -/
def State.promoted (s : State) (i : Nat) : State := ((s.named i).logFree).ledgerAdd (spRec i 3) 1

/-- Member i is active and its pair's owner, with a checkpoint committed. -/
structure TakesOver (s : State) (i : Nat) (t : State) : Prop where
  role : (t.sp i).role = 3
  hb : (t.sp i).hb = s.time
  others : ∀ m, m ≠ i → t.sp m = s.sp m
  owner : (t.pair (i / 2)).owner = i % 2
  served : (t.pair (i / 2)).none_ = false
  cgen : (t.pair (i / 2)).cgen = (s.pair (i / 2)).cgen + 1
  last : (t.pair (i / 2)).last = 1 - (s.pair (i / 2)).last
  count : t.ledgerAt (spRec i 3) = min (2 ^ 64 - 1) (s.ledgerAt (spRec i 3) + 1)
  counters : ∀ off, off / 8 ≠ spRec i 3 / 8 → t.ledgerAt off = s.ledgerAt off
  online : t.svc.online = s.svc.online

/-- But for the ledger, a promotion changes the member, its pair and the logs. -/
theorem promoted_logged (s : State) (i : Nat) : Logged { s.named i with ledger := (s.promoted i).ledger } (s.promoted i) := by
  have counted : Counted (s.named i).logFree (s.promoted i) := ledgerAdd_counted ..
  have logged := (logFree_logged (s.named i)).keeps (fun x => { x with ledger := (s.promoted i).ledger })
  rw [Logged, counted]
  exact logged

theorem promoted_sp (s : State) (i m : Nat) : (s.promoted i).sp m = if m = i then (s.sp i).activeAt s.time else s.sp m :=
  (sp_congr (congrArg SvcSt.sp (promoted_logged s i).halted.svc) m).trans (sp_updSp s i m (fun x => x.activeAt s.time))

theorem promoted_pair (s : State) (i q : Nat) :
    (s.promoted i).pair q = if q = i / 2 then (s.pair (i / 2)).ownedBy (i % 2) else s.pair q :=
  (pair_congr (congrArg SvcSt.pair (promoted_logged s i).halted.svc) q).trans (pair_updPair s (i / 2) q (fun x => x.ownedBy (i % 2)))

theorem promoted_ledgerAt (s : State) (i off : Nat) : (s.promoted i).ledgerAt off =
    if off / 8 = spRec i 3 / 8 then min (2 ^ 64 - 1) (s.ledgerAt off + 1) else s.ledgerAt off := by
  have logged : (s.named i).logFree.ledgerAt off = s.ledgerAt off :=
    congrArg (fun l : LedgerSt => (Tab.get (0 : Word) l.cnt (off / 8)).toNat) (logFree_logged (s.named i)).ended.ledger
  rw [State.promoted, ledgerAt_ledgerAdd, logged]

/-- What a promotion leaves of the state, but for the member, the pair, the ledger and the logs. -/
theorem promoted_keeps {β : Type} (s : State) (i : Nat) (k : State → β) (hk : ∀ s v l, k { s with svc := v, ledger := l } = k s) :
    k (s.promoted i).unlogged = k s.unlogged := by
  have kept := (promoted_logged s i).keeps k
  exact kept.trans (hk s.unlogged (s.named i).svc (s.promoted i).ledger)

theorem promoted_fp (s : State) (i : Nat) : (s.promoted i).fp = s.fp := promoted_keeps s i State.fp (fun _ _ _ => rfl)

theorem promoted_pt (s : State) (i : Nat) : (s.promoted i).pt = s.pt := promoted_keeps s i State.pt (fun _ _ _ => rfl)

theorem promoted_items (s : State) (i : Nat) : (s.promoted i).rings.items = s.rings.items :=
  promoted_keeps s i (fun x => x.rings.items) (fun _ _ _ => rfl)

theorem promoted_jis (s : State) (i : Nat) : (s.promoted i).jis = s.jis := promoted_keeps s i State.jis (fun _ _ _ => rfl)

theorem promoted_mem (s : State) (i : Nat) : (s.promoted i).mem = s.mem := promoted_keeps s i State.mem (fun _ _ _ => rfl)

theorem promoted_stalls (s : State) (i : Nat) : (s.promoted i).stalls = s.stalls := promoted_keeps s i State.stalls (fun _ _ _ => rfl)

theorem promoted_fw (s : State) (i : Nat) : (s.promoted i).fw = s.fw := promoted_keeps s i State.fw (fun _ _ _ => rfl)

/-- A takeover ends with the pair's flags and a checkpoint, whatever it has settled before: the processors, the pair and the ledger stand as
they did when the member was promoted. -/
theorem takesOver_of_promoted {q : Nat} (hq : i / 2 = q) (sp : w.svc.sp = (s.promoted i).svc.sp) (online : w.svc.online = (s.promoted i).svc.online)
    (ledger : w.ledger = (s.promoted i).ledger)
    (owner : (w.pair q).owner = i % 2) (cgen : (w.pair q).cgen = (s.pair q).cgen) (last : (w.pair q).last = (s.pair q).last) :
    TakesOver s i ((w.pairFlags q).commitCkpt q) := by
  subst hq
  have member : ∀ m, w.sp m = if m = i then (s.sp i).activeAt s.time else s.sp m := fun m =>
    (sp_congr sp m).trans (promoted_sp ..)
  have active : w.pairActive (i / 2) = true := (pairActive_self w i).2 (.inl (by rw [member, if_pos rfl]; rfl))
  have commits := commitCkpt_commits (s := w.pairFlags (i / 2)) active
  have committed := (commits.pair (i / 2)).trans (if_pos rfl)
  rw [pairFlags_pair, if_pos rfl, active] at committed
  have count : ∀ off, ((w.pairFlags (i / 2)).commitCkpt (i / 2)).ledgerAt off = (s.promoted i).ledgerAt off := fun off => by
    rw [commits.rest]
    exact congrArg (fun l : LedgerSt => (Tab.get (0 : Word) l.cnt (off / 8)).toNat) ledger
  refine ⟨?_, ?_, fun m hm => ?_, ?_, ?_, ?_, ?_, ?_, fun off h => ?_, ?_⟩
  · rw [commits.sp, pairFlags_sp, member, if_pos rfl]; rfl
  · rw [commits.sp, pairFlags_sp, member, if_pos rfl]; rfl
  · rw [commits.sp, pairFlags_sp, member, if_neg hm]
  · rw [committed]; exact owner
  · rw [committed]; rfl
  · rw [committed]; exact congrArg (· + 1) cgen
  · rw [committed]; exact congrArg (1 - ·) last
  · rw [count, promoted_ledgerAt, if_pos rfl]
  · rw [count, promoted_ledgerAt, if_neg h]
  · rw [commits.svc]
    have kept := congrArg SvcSt.online (promoted_logged s i).halted.svc
    exact online.trans kept

/-- An update in progress ends with a takeover of the platform pair (19 R422). -/
def State.updateDropped (s : State) : State :=
  if s.fw.upd = 1 ∨ s.fw.upd = 2 then { s with fw := { s.fw with upd := 0, pldm := 0 } } else s

theorem takeOver_platform (h : i / 2 = 1) : s.takeOver i = ((s.promoted i).updateDropped.pairFlags 1).commitCkpt 1 := by
  unfold State.takeOver
  extract_lets q u v w x
  have hv : v = s.promoted i := rfl
  rw [if_pos h]
  have hx : x = v.updateDropped := rfl
  rw [hx, hv]

/-- The checkpoint format of the Jisan image in a slot (19 R425). -/
def State.ckptFormat (s : State) (k : Option Nat) : Option Nat := k.map (fun k => imgCkptfmt (s.imageOf (2 + k)))

/-- A takeover of the service pair that finds no checkpoint it can load (18 R397). -/
def State.takesBlank (s : State) (i : Nat) : Bool :=
  (s.pair 0).latest.isNone || decide (s.ckptFormat s.fw.jslot ≠ s.ckptFormat (s.sp i).img)

/-- The state of a service pair's takeover once Jisan's work is settled. -/
def State.tookJisan (s : State) (i : Nat) : State := ((s.promoted i).runImage i).settleAll (s.pair 0).latest (s.takesBlank i)

theorem promoted_latest (s : State) (i : Nat) : ((s.promoted i).pair 0).latest = (s.pair 0).latest := by
  rw [promoted_pair]
  split
  · rename_i h; rw [← h]; rfl
  · rfl

theorem promoted_takesBlank (s : State) (i : Nat) : (s.promoted i).takesBlank i = s.takesBlank i := by
  unfold State.takesBlank State.ckptFormat State.imageOf
  rw [promoted_latest, promoted_fw, promoted_sp, if_pos rfl]
  rfl

theorem takeOver_service (h : i / 2 = 0) :
    s.takeOver i = (((s.tookJisan i).updPair 0 (fun x => { x with blank := s.takesBlank i })).pairFlags 0).commitCkpt 0 := by
  unfold State.takeOver
  extract_lets q u v w x fmt c blank y z
  have hq : ¬ q = 1 := by omega
  have hc : c = (s.pair 0).latest := promoted_latest s i
  have hb : blank = s.takesBlank i := promoted_takesBlank s i
  have hy : y = s.tookJisan i := by
    have shape : y = ((s.promoted i).runImage i).settleAll c blank := rfl
    rw [shape, hc, hb]
    rfl
  have hz : z = y.updPair 0 (fun x => { x with blank := blank }) := rfl
  rw [if_neg hq, hz, hy, hb]

theorem runImage_svc (s : State) (i : Nat) : (s.runImage i).svc = s.svc := rfl

theorem runImage_ledger (s : State) (i : Nat) : (s.runImage i).ledger = s.ledger := rfl

theorem tookJisan_ended (s : State) (i : Nat) : Ended ((s.promoted i).runImage i) (s.tookJisan i) := settleAll_ended ..

theorem takeOver_takesOver (hi : i < 4) : TakesOver s i (s.takeOver i) := by
  have pairs : i / 2 = 1 ∨ i / 2 = 0 := by omega
  rcases pairs with h | h
  · have svc : (s.promoted i).updateDropped.svc = (s.promoted i).svc := by
      unfold State.updateDropped
      split <;> rfl
    rw [takeOver_platform h]
    have pair : (s.promoted i).updateDropped.pair 1 = (s.pair 1).ownedBy (i % 2) := by
      rw [pair_congr (congrArg SvcSt.pair svc), promoted_pair, if_pos h.symm, h]
    refine takesOver_of_promoted h (congrArg SvcSt.sp svc) (congrArg SvcSt.online svc) ?_ ?_ ?_ ?_
    · unfold State.updateDropped
      split <;> rfl
    all_goals rw [pair]; rfl
  · have ended := tookJisan_ended s i
    rw [takeOver_service h]
    have sp := ended.svcSp
    have online := ended.online
    have ledger := ended.ledger
    have pairs := ended.svcPair
    rw [runImage_svc] at sp online pairs
    rw [runImage_ledger] at ledger
    generalize s.tookJisan i = w at sp online ledger pairs ⊢
    have pair : w.pair 0 = (s.pair 0).ownedBy (i % 2) := by
      rw [pair_congr pairs, promoted_pair, if_pos h.symm, h]
    refine takesOver_of_promoted h sp online ledger ?_ ?_ ?_
    all_goals rw [pair_updPair, if_pos rfl, pair]; rfl

end

/-! ## Jisan's slots after a takeover -/

section
variable {s t : State} {i p : Nat}

/-- Jisan's state of a pitch in a blank takeover (18 R397). -/
def JPitch.blanked (j : JPitch) : JPitch := { j with slot := [], sess := [], reqs := [], run := none, mig := [], load := none, rel := [] }

theorem blankJis_jis (s : State) : s.blankJis.jis = s.jis.map (fun e => (e.1, e.2.blanked)) :=
  (Logged.foldl raiseEvent_logged _ _).jis

theorem blankJis_slots (s : State) (p : Nat) : (s.blankJis.jis1 p).slot = [] ∧ (s.blankJis.jis1 p).sess = [] := by
  unfold State.jis1
  rw [blankJis_jis]
  unfold Tab.get
  rw [find_map_value JPitch.blanked]
  cases Tab.find s.jis p <;> exact ⟨rfl, rfl⟩

/-- A blank takeover leaves Jisan no slot and no session. -/
theorem settleAll_blank (c : Option CkPt) (p : Nat) :
    ((s.settleAll c true).jis1 p).slot = [] ∧ ((s.settleAll c true).jis1 p).sess = [] := by
  unfold State.settleAll
  extract_lets a b
  cases c <;> exact blankJis_slots b p

/-- A table of some pitches, read at one of them. -/
theorem find_somePitches {α : Type} (f : Nat → α) (c : Nat → Prop) [DecidablePred c] (hp : p < 16) :
    Tab.find (allPitches.filterMap (fun p => if c p then none else some (p, f p))) p = if c p then none else some (f p) := by
  have general : ∀ l : List Nat,
      Tab.find (l.filterMap (fun p => if c p then none else some (p, f p))) p = if p ∈ l ∧ ¬ c p then some (f p) else none := by
    intro l
    induction l with
    | nil => rfl
    | cons k l ih =>
      by_cases hk : c k
      · rw [List.filterMap_cons_none (by rw [if_pos hk]), ih]
        by_cases e : p = k
        · subst e; simp [hk]
        · simp [e]
      · rw [List.filterMap_cons_some (by rw [if_neg hk])]
        simp only [Tab.find, ih]
        by_cases e : k = p
        · subst e; simp [hk]
        · simp [e, Ne.symm e]
  rw [general, allPitches]
  by_cases h : c p <;> simp [h, hp]

/-- What a checkpoint makes of Jisan's state of pitch p: nothing where the pitch has been reset since (21 R456). -/
def State.loadedJis (s : State) (c : CkPt) (p : Nat) : JPitch :=
  let k : JPitch := if Tab.get 0 c.preset p = (s.pctl p).presetgen then Tab.get {} c.jis p else {}
  { s.jis1 p with slot := k.slot, sess := k.sess, nextAdm := k.nextAdm, reqs := [], run := none, mig := [], load := none, rel := [] }

theorem loadJis_jis (s : State) (k : CkPt) : (s.loadJis k).jis = allPitches.filterMap (fun p =>
    if (Tab.find s.jis p).isNone ∧ (Tab.find k.jis p).isNone then none else some (p, s.loadedJis k p)) := rfl

/-- The slots of a loaded checkpoint: those of a pitch that has not been reset since (21 R456). -/
theorem loadJis_slot (s : State) (k : CkPt) (hp : p < 16) :
    ((s.loadJis k).jis1 p).slot = if Tab.get 0 k.preset p = (s.pctl p).presetgen then (Tab.get {} k.jis p : JPitch).slot else [] := by
  have loaded : (s.loadedJis k p).slot = if Tab.get 0 k.preset p = (s.pctl p).presetgen then (Tab.get {} k.jis p : JPitch).slot else [] :=
    apply_ite JPitch.slot ..
  rw [State.jis1, loadJis_jis, Tab.get, find_somePitches _ (fun p => (Tab.find s.jis p).isNone ∧ (Tab.find k.jis p).isNone) hp]
  split
  · rename_i h
    have none : Tab.find k.jis p = none := by simpa using h.2
    simp [Tab.get, none]
  · exact loaded

theorem jisCatchUp_good (h : ∀ n, s.stallOut n = false) : s.jisCatchUp = s := by
  unfold State.jisCatchUp
  refine List.foldl_fixed' (fun n => ?_) _
  rw [h n]
  rfl

/-- A takeover with no item in flight and every stall in service loads the checkpoint's slots (18 R396). -/
theorem settleAll_loads (k : CkPt) (items : s.rings.items = []) (out : ∀ n, s.stallOut n = false) (hp : p < 16) :
    ((s.settleAll (some k) false).jis1 p).slot =
      if Tab.get 0 k.preset p = (s.pctl p).presetgen then (Tab.get {} k.jis p : JPitch).slot else [] := by
  unfold State.settleAll
  extract_lets a b
  have stopped : Halted s a := .foldl (fun _ _ => haltWork_halted ..) _ _
  have settled : b = a := by
    simp only [b, stopped.items, items, List.filter_nil, List.foldl_nil]
  have good : ∀ n, (b.loadJis k).stallOut n = false := fun n => by
    have fp : (b.loadJis k).fp = s.fp := by
      rw [settled]
      exact ((loadJis_ended a k).fp).trans stopped.ended.fp
    unfold State.stallOut State.fpOf at out ⊢
    rw [fp]
    exact out n
  change ((b.loadJis k).jisCatchUp.jis1 p).slot = _
  rw [jisCatchUp_good good, loadJis_slot b k hp, settled, stopped.presetgen]

end

/-! ## What a takeover of the service pair gives Jisan -/

section
variable {s t : State} {i : Nat}

theorem stallOut_congr (h : t.fp = s.fp) (n : Nat) : t.stallOut n = s.stallOut n := by
  unfold State.stallOut State.fpOf
  rw [h]

theorem pctl_congr (h : t.pt = s.pt) (p : Nat) : t.pctl p = s.pctl p := by
  unfold State.pctl
  rw [h]

theorem runImage_fp (s : State) (i : Nat) : (s.runImage i).fp = s.fp := rfl

theorem runImage_pt (s : State) (i : Nat) : (s.runImage i).pt = s.pt := rfl

theorem runImage_items (s : State) (i : Nat) : (s.runImage i).rings.items = s.rings.items := rfl

theorem runImage_sp (s : State) (i m : Nat) : (s.runImage i).sp m = s.sp m := rfl

theorem runImage_jslot (s : State) (i : Nat) : (s.runImage i).fw.jslot = (s.sp i).img := rfl

theorem tookJisan_sp (s : State) (i m : Nat) : (s.tookJisan i).sp m = (s.promoted i).sp m :=
  (sp_congr (tookJisan_ended s i).svcSp m).trans (runImage_sp ..)

/-- The pair, the image and Jisan's slots after member i of the service pair took over with no item in flight and every stall in service. -/
theorem takeOver_jisan (h : i / 2 = 0) (items : s.rings.items = []) (out : ∀ n, s.stallOut n = false) :
    (s.takeOver i).fw.jslot = (s.sp i).img ∧ ((s.takeOver i).pair 0).blank = s.takesBlank i ∧
    (s.takesBlank i = true → ∀ p, ((s.takeOver i).jis1 p).slot = [] ∧ ((s.takeOver i).jis1 p).sess = []) ∧
    (∀ k, (s.pair 0).latest = some k → s.takesBlank i = false → ∀ p < 16, ((s.takeOver i).jis1 p).slot =
      if Tab.get 0 k.preset p = (s.pctl p).presetgen then (Tab.get {} k.jis p : JPitch).slot else []) := by
  have member : (s.promoted i).sp i = (s.sp i).activeAt s.time := (promoted_sp ..).trans (if_pos rfl)
  have blank : s.takesBlank i = true → ∀ p, ((s.tookJisan i).jis1 p).slot = [] ∧ ((s.tookJisan i).jis1 p).sess = [] := fun hb p => by
    rw [State.tookJisan, hb]
    exact settleAll_blank _ p
  have loads : ∀ k, (s.pair 0).latest = some k → s.takesBlank i = false → ∀ p < 16, ((s.tookJisan i).jis1 p).slot =
      if Tab.get 0 k.preset p = (s.pctl p).presetgen then (Tab.get {} k.jis p : JPitch).slot else [] := fun k hk hb p hp => by
    have good : ∀ n, ((s.promoted i).runImage i).stallOut n = false := fun n =>
      (stallOut_congr ((runImage_fp ..).trans (promoted_fp s i)) n).trans (out n)
    have pctl : ((s.promoted i).runImage i).pctl p = s.pctl p := pctl_congr ((runImage_pt ..).trans (promoted_pt s i)) p
    have none : ((s.promoted i).runImage i).rings.items = [] := (runImage_items ..).trans ((promoted_items s i).trans items)
    rw [State.tookJisan, hk, hb, settleAll_loads k none good hp, pctl]
  have image : (s.tookJisan i).fw.jslot = (s.sp i).img := by
    rw [(tookJisan_ended s i).fw, runImage_jslot, member]
    rfl
  have active : (s.tookJisan i).pairActive 0 = true := by
    have role : ((s.tookJisan i).sp i).role = 3 := by
      rw [tookJisan_sp, member]
      rfl
    rw [← h]
    exact (pairActive_self _ i).2 (.inl role)
  rw [takeOver_service h]
  generalize s.tookJisan i = w at blank loads image active ⊢
  generalize hu : (w.updPair 0 (fun x => { x with blank := s.takesBlank i })).pairFlags 0 = u
  have activeU : u.pairActive 0 = true := by rw [← hu]; exact active
  have commits := commitCkpt_commits activeU
  have jis : ∀ p, u.jis1 p = w.jis1 p := fun p => by rw [← hu]; rfl
  refine ⟨?_, ?_, fun hb p => ?_, fun k hk hb p hp => ?_⟩
  · rw [commits.rest, ← image, ← hu]
    rfl
  · rw [commits.pair, if_pos rfl, ← hu]
    show ((State.pairFlags _ 0).pair 0).blank = _
    rw [pairFlags_pair, if_pos rfl, pair_updPair, if_pos rfl]
  · rw [(commits.jis1 p).1, (commits.jis1 p).2, jis]
    exact blank hb p
  · rw [(commits.jis1 p).1, jis]
    exact loads k hk hb p hp

end

/-! ## HEARTBEAT_TIMEOUT, WATCHDOG_EXPIRY and FATAL_FAULT -/

section
variable {s t : State} {e : Instr} {i : Nat}

theorem pairFlags_ledgerAt (s : State) (q off : Nat) : (s.pairFlags q).ledgerAt off = s.ledgerAt off := rfl

/-- Each of the three failures of a member, a timeout once its time has passed (18 R392). -/
def FailureOf (s : State) (i : Nat) (e : Instr) : Prop :=
  (e = .heartbeatTimeout i ∧ (s.sp i).hb + s.hbTimeout ≤ s.time) ∨ e = .watchdogExpiry i ∨ e = .fatalFault i

theorem failure_declares (hi : i < 4) (h : FailureOf s i e) : exec e s = .next (s.declareFailed i) := by
  rcases h with ⟨rfl, late⟩ | rfl | rfl
  · exact (run_inHall hi).trans (by rw [if_pos late])
  · exact run_inHall hi
  · exact run_inHall hi

/-- A failed active member of the service pair leaves the running Jisan failed (18 R400). -/
def State.markJisan (s : State) (i : Nat) : State :=
  if i < 2 ∧ s.fw.jisan then { s with fw := { s.fw with jfailed := true } } else s

theorem markJisan_rest (s : State) (i : Nat) : s.markJisan i = { s with fw := { s.fw with jfailed := (s.markJisan i).fw.jfailed } } := by
  unfold State.markJisan
  split <;> rfl

theorem markJisan_sp (s : State) (i m : Nat) : (s.markJisan i).sp m = s.sp m := by rw [markJisan_rest]; rfl

theorem markJisan_ledgerAt (s : State) (i off : Nat) : (s.markJisan i).ledgerAt off = s.ledgerAt off := by rw [markJisan_rest]; rfl

/-- The state once the active member i has failed. -/
def State.fallen (s : State) (i : Nat) : State := (s.lostSp i).markJisan i

theorem fallen_sp (s : State) (i m : Nat) : (s.fallen i).sp m = (s.lostSp i).sp m := markJisan_sp ..

theorem fallen_ledgerAt (s : State) (i off : Nat) : (s.fallen i).ledgerAt off = (s.lostSp i).ledgerAt off := markJisan_ledgerAt ..

/-- What the failure of an active member leaves of the state. -/
theorem fallen_keeps {β : Type} (s : State) (i : Nat) (k : State → β)
    (hk : ∀ s sp l b, k { s with svc := { s.svc with sp := sp }, ledger := l, fw := { s.fw with jfailed := b } } = k s) :
    k (s.fallen i) = k s := by
  rw [State.fallen, markJisan_rest, (lostSp_loses s i).rest]
  exact hk s ..

theorem fallen_pair (s : State) (i q : Nat) : (s.fallen i).pair q = s.pair q := fallen_keeps s i (fun x => x.pair q) (fun _ _ _ _ => rfl)

theorem fallen_other (s : State) {i m : Nat} (h : m ≠ i) : (s.fallen i).sp m = s.sp m :=
  (fallen_sp ..).trans ((lostSp_loses s i).others m h)

theorem fallen_takesBlank (s : State) {i m : Nat} (h : m ≠ i) : (s.fallen i).takesBlank m = s.takesBlank m := by
  have slot : (s.fallen i).fw.jslot = s.fw.jslot := fallen_keeps s i (fun x => x.fw.jslot) (fun _ _ _ _ => rfl)
  have format : (s.fallen i).ckptFormat = s.ckptFormat := fallen_keeps s i State.ckptFormat (fun _ _ _ _ => rfl)
  unfold State.takesBlank
  rw [fallen_pair, slot, format, fallen_other s h]

theorem takesBlank_iff : s.takesBlank i = true ↔
    (s.pair 0).latest = none ∨ s.ckptFormat s.fw.jslot ≠ s.ckptFormat (s.sp i).img := by
  simp [State.takesBlank]

/-- A failed active member is followed by its standby, or its pair has none (18 R396, R400). -/
theorem active_fails (h3 : (s.sp i).role = 3) : s.declareFailed i =
    if ((s.fallen i).sp (otherSp i)).role = 2 then (s.fallen i).takeOver (otherSp i)
    else if i < 2 ∧ ((s.fallen i).logFree.pairFlags (i / 2)).pairActive 1 then
      ((s.fallen i).logFree.pairFlags (i / 2)).settleAll none true
    else (s.fallen i).logFree.pairFlags (i / 2) := by
  unfold State.declareFailed
  extract_lets was u v o w x
  have hw : was = 3 := h3
  have hv : v = s.lostSp i := rfl
  have hx : x = v.markJisan i := rfl
  rw [hv] at hx
  rw [if_neg (by omega), if_neg (by omega), hx]
  rfl

/-- Member i has failed: for good the third time in 24 h (18 R392, R399). -/
def MemberLost (s : State) (i : Nat) (t : State) : Prop :=
  (t.sp i).role = (if 2 ≤ s.fails24 i then 5 else 4) ∧ (t.sp i).fails.head? = some s.time ∧
  t.ledgerAt (spRec i 2) = min (2 ^ 64 - 1) (s.ledgerAt (spRec i 2) + 1)

theorem memberLost_of (sp : t.sp i = (s.lostSp i).sp i) (count : t.ledgerAt (spRec i 2) = (s.lostSp i).ledgerAt (spRec i 2)) :
    MemberLost s i t := by
  have loses := lostSp_loses s i
  exact ⟨by rw [sp, loses.role], by rw [sp, loses.fails], by rw [count, loses.count]⟩

/-- Its standby has taken over from member i. -/
def StandbyTook (s : State) (i : Nat) (t : State) : Prop :=
  MemberLost s i t ∧ (t.sp (otherSp i)).role = 3 ∧ (t.sp (otherSp i)).hb = s.time ∧ (∀ m, m ≠ i → m ≠ otherSp i → t.sp m = s.sp m) ∧
  (t.pair (i / 2)).owner = otherSp i % 2 ∧ (t.pair (i / 2)).none_ = false ∧ (t.pair (i / 2)).cgen = (s.pair (i / 2)).cgen + 1 ∧
  (t.pair (i / 2)).last = 1 - (s.pair (i / 2)).last ∧
  t.ledgerAt (spRec (otherSp i) 3) = min (2 ^ 64 - 1) (s.ledgerAt (spRec (otherSp i) 3) + 1)

theorem otherSp_lt (hi : i < 4) : otherSp i < 4 := by
  unfold otherSp
  split <;> omega

theorem standbyTook_of_fallen (hi : i < 4) : StandbyTook s i ((s.fallen i).takeOver (otherSp i)) := by
  have ne := otherSp_ne i
  have loses := lostSp_loses s i
  have takes := takeOver_takesOver (s := s.fallen i) (otherSp_lt hi)
  generalize (s.fallen i).takeOver (otherSp i) = t at takes ⊢
  have time : (s.fallen i).time = s.time := fallen_keeps s i State.time (fun _ _ _ _ => rfl)
  obtain ⟨role, hb, others, owner, served, cgen, last, count, counters, -⟩ := takes
  rw [otherSp_pair] at owner served cgen last
  rw [fallen_pair] at cgen last
  refine ⟨memberLost_of ?_ ?_, role, hb.trans time, fun m hm ho => ?_, owner, served, cgen, last, ?_⟩
  · rw [others i ne.symm, fallen_sp]
  · rw [counters _ (spRec_ne (by decide) (by decide) (.inl ne.symm)), fallen_ledgerAt]
  · rw [others m ho, fallen_other s hm]
  · rw [count, fallen_ledgerAt, loses.counters _ (spRec_ne (by decide) (by decide) (.inl ne)) (spRec_ne (by decide) (by decide) (.inl ne))]

/-- A standby fails (18 R392, R399). -/
theorem failure_of_standby (hi : i < 4) (he : FailureOf s i e) (h2 : (s.sp i).role = 2) :
    Completes (exec e s) (fun t => MemberLost s i t ∧ (∀ m, m ≠ i → m ≠ i → t.sp m = s.sp m) ∧
      t = { s with svc := t.svc, ledger := t.ledger } ∧
      ((s.sp (otherSp i)).role = 3 → (t.pair (i / 2)).simplex = decide (2 ≤ s.fails24 i))) := by
  obtain ⟨loses, declared⟩ := standby_fails h2
  refine ⟨_, (failure_declares hi he).trans (congrArg _ declared), memberLost_of (pairFlags_sp ..) (pairFlags_ledgerAt ..),
    fun m hm _ => (pairFlags_sp ..).trans (loses.others m hm), ?_, fun h3 => ?_⟩
  · have rest := loses.rest
    generalize s.lostSp i = u at rest ⊢
    rw [rest]
    rfl
  · rw [pairFlags_simplex (by rw [loses.others _ (otherSp_ne i), h3]), loses.role]
    by_cases third : 2 ≤ s.fails24 i <;> simp [third]

/-- The active member fails and no standby follows it: the pair has none, and a service pair leaves Jisan no slot (18 R400). -/
theorem failure_without_standby (hi : i < 4) (he : FailureOf s i e) (h3 : (s.sp i).role = 3)
    (ho2 : (s.sp (otherSp i)).role ≠ 2) (ho3 : (s.sp (otherSp i)).role ≠ 3) :
    Completes (exec e s) (fun t => MemberLost s i t ∧ (∀ m, m ≠ i → m ≠ i → t.sp m = s.sp m) ∧
      (t.pair (i / 2)).none_ = true ∧ (2 ≤ i → t.jis = s.jis ∧ t.rings.items = s.rings.items) ∧
      (i < 2 → s.pairActive 1 = true → ∀ p < 16, (t.jis1 p).slot = [] ∧ (t.jis1 p).sess = [])) := by
  have declared := active_fails h3
  have other := fallen_other s (otherSp_ne i)
  have loses := lostSp_loses s i
  rw [if_neg (by rw [other]; exact ho2)] at declared
  have logged := logFree_logged (s.fallen i)
  have member : ∀ m, (s.fallen i).logFree.sp m = (s.lostSp i).sp m := fun m => by
    rw [sp_congr (congrArg SvcSt.sp logged.halted.svc), fallen_sp]
  have sp : ∀ m, ((s.fallen i).logFree.pairFlags (i / 2)).sp m = (s.lostSp i).sp m := fun m => (pairFlags_sp ..).trans (member m)
  have served : (((s.fallen i).logFree.pairFlags (i / 2)).pair (i / 2)).none_ = true := by
    have idle : ¬ (s.fallen i).logFree.pairActive (i / 2) = true := by
      rw [pairActive_self, member, member, loses.role, loses.others _ (otherSp_ne i)]
      rintro (h | h)
      · split at h <;> omega
      · exact ho3 h
    rw [pairFlags_pair, if_pos rfl]
    simpa using idle
  have count : ∀ off, ((s.fallen i).logFree.pairFlags (i / 2)).ledgerAt off = (s.lostSp i).ledgerAt off := fun off => by
    rw [← fallen_ledgerAt]
    exact congrArg (fun l : LedgerSt => (Tab.get (0 : Word) l.cnt (off / 8)).toNat) logged.ended.ledger
  have jis : ((s.fallen i).logFree.pairFlags (i / 2)).jis = s.jis :=
    logged.jis.trans (fallen_keeps s i State.jis (fun _ _ _ _ => rfl))
  have items : ((s.fallen i).logFree.pairFlags (i / 2)).rings.items = s.rings.items :=
    logged.items.trans (fallen_keeps s i (fun x => x.rings.items) (fun _ _ _ _ => rfl))
  generalize (s.fallen i).logFree.pairFlags (i / 2) = v at declared sp served count jis items
  refine ⟨_, (failure_declares hi he).trans (congrArg _ declared), ?_⟩
  by_cases settles : i < 2 ∧ v.pairActive 1 = true
  · rw [if_pos settles]
    have ended := settleAll_ended v none true
    refine ⟨memberLost_of ?_ ?_, fun m hm _ => ?_, ?_, fun h => absurd settles.1 (by omega), fun _ _ p _ => settleAll_blank ..⟩
    · rw [sp_congr ended.svcSp, sp]
    · rw [← count]
      exact congrArg (fun l : LedgerSt => (Tab.get (0 : Word) l.cnt (spRec i 2 / 8)).toNat) ended.ledger
    · rw [sp_congr ended.svcSp, sp, loses.others m hm]
    · rw [pair_congr ended.svcPair, served]
  · rw [if_neg settles]
    refine ⟨memberLost_of (sp i) (count _), fun m hm _ => (sp m).trans (loses.others m hm), served, fun _ => ⟨jis, items⟩, fun h active => ?_⟩
    have still : v.pairActive 1 = true := by
      rw [pairActive_iff] at active ⊢
      rw [sp, sp, loses.others _ (by omega), loses.others _ (by omega)]
      exact active
    exact absurd ⟨h, still⟩ settles

end

/-! ## The standby takes over -/

section
variable {s t : State} {e : Instr} {i : Nat}

theorem failure_taken (hi : i < 4) (he : FailureOf s i e) (h3 : (s.sp i).role = 3) (ho : (s.sp (otherSp i)).role = 2) :
    exec e s = .next ((s.fallen i).takeOver (otherSp i)) := by
  rw [failure_declares hi he, active_fails h3, if_pos (by rw [fallen_other s (otherSp_ne i), ho])]

theorem updateDropped_rest (s : State) : s.updateDropped = { s with fw := s.updateDropped.fw } := by
  unfold State.updateDropped
  split <;> rfl

/-- An update in progress is dropped. -/
theorem updateDropped_upd (h : s.fw.upd = 1 ∨ s.fw.upd = 2) : s.updateDropped.fw.upd = 0 ∧ s.updateDropped.fw.pldm = 0 := by
  unfold State.updateDropped
  rw [if_pos h]
  exact ⟨rfl, rfl⟩

/-- What a takeover of the platform pair leaves: memory, stalls, Jisan and the items; an update in progress ends (19 R422). -/
theorem takeOver_platform_keeps (h : i / 2 = 1) :
    (s.takeOver i).mem = s.mem ∧ (s.takeOver i).stalls = s.stalls ∧ (s.takeOver i).jis = s.jis ∧
    (s.takeOver i).rings.items = s.rings.items ∧
    (s.fw.upd = 1 ∨ s.fw.upd = 2 → (s.takeOver i).fw.upd = 0 ∧ (s.takeOver i).fw.pldm = 0) := by
  rw [takeOver_platform h]
  have mem := promoted_mem s i
  have stalls := promoted_stalls s i
  have jis := promoted_jis s i
  have items := promoted_items s i
  have fw := promoted_fw s i
  have member : ((s.promoted i).sp i).role = 3 := by
    rw [promoted_sp, if_pos rfl]
    rfl
  generalize s.promoted i = v at mem stalls jis items fw member ⊢
  have active : (v.updateDropped.pairFlags 1).pairActive 1 = true := by
    have same : v.updateDropped.sp i = v.sp i := by rw [updateDropped_rest]; rfl
    rw [← h]
    exact (pairActive_self _ i).2 (.inl (by rw [pairFlags_sp, same, member]))
  have commits := commitCkpt_commits active
  have jisSame := commits.jis
  rw [if_neg (by decide)] at jisSame
  rw [commits.rest]
  refine ⟨?_, ?_, ?_, ?_, fun hu => ?_⟩
  · rw [← mem, updateDropped_rest]; rfl
  · rw [← stalls, updateDropped_rest]; rfl
  · rw [← jis]
    exact jisSame.trans (by rw [updateDropped_rest]; rfl)
  · rw [← items, updateDropped_rest]; rfl
  · rw [← fw] at hu
    exact updateDropped_upd hu

/-- The active member of the platform pair fails and its standby takes over (18 R396, 19 R422). -/
theorem failure_on_platform (hi : i < 4) (he : FailureOf s i e) (h3 : (s.sp i).role = 3) (ho : (s.sp (otherSp i)).role = 2) (h : 2 ≤ i) :
    Completes (exec e s) (fun t => StandbyTook s i t ∧
      t.mem = s.mem ∧ t.stalls = s.stalls ∧ t.jis = s.jis ∧ t.rings.items = s.rings.items ∧
      (s.fw.upd = 1 ∨ s.fw.upd = 2 → t.fw.upd = 0 ∧ t.fw.pldm = 0)) := by
  refine ⟨_, failure_taken hi he h3 ho, standbyTook_of_fallen hi, ?_⟩
  have pair : otherSp i / 2 = 1 := by rw [otherSp_pair]; omega
  have keeps := takeOver_platform_keeps (s := s.fallen i) pair
  rw [fallen_keeps s i State.mem (fun _ _ _ _ => rfl), fallen_keeps s i State.stalls (fun _ _ _ _ => rfl),
    fallen_keeps s i State.jis (fun _ _ _ _ => rfl), fallen_keeps s i (fun x => x.rings.items) (fun _ _ _ _ => rfl),
    fallen_keeps s i (fun x => x.fw.upd) (fun _ _ _ _ => rfl)] at keeps
  exact keeps

/-- The active member of the service pair fails with no item in flight and every stall in service, and its standby takes over: Jisan's slots
are the checkpoint's, or none in a blank takeover (18 R396, R397). -/
theorem failure_on_service (hi : i < 4) (he : FailureOf s i e) (h3 : (s.sp i).role = 3) (ho : (s.sp (otherSp i)).role = 2) (h : i < 2)
    (items : s.rings.items = []) (out : ∀ n, s.stallOut n = false) :
    Completes (exec e s) (fun t => StandbyTook s i t ∧ t.fw.jslot = (s.sp (otherSp i)).img ∧
      ((s.pair 0).latest = none ∨ s.ckptFormat s.fw.jslot ≠ s.ckptFormat (s.sp (otherSp i)).img →
        (t.pair 0).blank = true ∧ ∀ p < 16, (t.jis1 p).slot = [] ∧ (t.jis1 p).sess = []) ∧
      (∀ k, (s.pair 0).latest = some k → s.ckptFormat s.fw.jslot = s.ckptFormat (s.sp (otherSp i)).img → (t.pair 0).blank = false ∧
        ∀ p < 16, (t.jis1 p).slot = if Tab.get 0 k.preset p = (s.pctl p).presetgen then (Tab.get {} k.jis p : JPitch).slot else [])) := by
  refine ⟨_, failure_taken hi he h3 ho, standbyTook_of_fallen hi, ?_⟩
  have pair : otherSp i / 2 = 0 := by rw [otherSp_pair]; omega
  have fp : (s.fallen i).fp = s.fp := fallen_keeps s i State.fp (fun _ _ _ _ => rfl)
  have pt : (s.fallen i).pt = s.pt := fallen_keeps s i State.pt (fun _ _ _ _ => rfl)
  have work : (s.fallen i).rings.items = s.rings.items := fallen_keeps s i (fun x => x.rings.items) (fun _ _ _ _ => rfl)
  obtain ⟨jslot, blank, empty, loads⟩ := takeOver_jisan pair (work.trans items) (fun n => (stallOut_congr fp n).trans (out n))
  rw [fallen_other s (otherSp_ne i)] at jslot
  rw [fallen_takesBlank s (otherSp_ne i)] at blank empty loads
  rw [fallen_pair] at loads
  refine ⟨jslot, fun no => ?_, fun k hk format => ?_⟩
  · have taken := takesBlank_iff.2 no
    exact ⟨blank.trans taken, fun p _ => empty taken p⟩
  · have taken : s.takesBlank (otherSp i) = false := by
      rw [Bool.eq_false_iff, Ne, takesBlank_iff, hk, format]
      simp
    refine ⟨blank.trans taken, fun p hp => ?_⟩
    rw [loads k hk taken p hp, pctl_congr pt]

end

/-! ## SP_RESTART_DONE -/

section
variable {s t u : State} {i : Nat}

/-- t differs from s at most in the firmware's state. -/
def Booted (s t : State) : Prop := t = { s with fw := t.fw }

theorem Booted.refl (s : State) : Booted s s := rfl

theorem Booted.trans (h : Booted s t) (g : Booted t u) : Booted s u := by
  unfold Booted at h g ⊢
  rw [g, h]

theorem bootWrite_booted (s : State) (f : BootRec → BootRec) : Booted s (s.bootWrite f) := rfl

/-- The slot that boots is chosen with the boot record alone written (19 R423). -/
theorem chooseSlot_booted (s : State) (c : Nat) (bad : State → Nat → Bool) : Booted s (s.chooseSlot c bad).1 := by
  unfold State.chooseSlot
  extract_lets r pend drop a x v o
  have dropped : ∀ (w : State) (clear : Bool), Booted w (drop w clear) := fun _ _ => rfl
  have chosen : Booted s v := by
    simp only [v, x]
    split
    · exact .refl s
    · split
      · exact dropped s false
      · split
        · exact (bootWrite_booted s _).trans (dropped ..)
        · exact bootWrite_booted s (fun r => { r with tries := r.tries.set c (r.tries.getD c 0 - 1) })
  split
  · exact chosen
  · split
    · exact chosen
    · split <;> exact chosen

/-- t is s with another image named for member i. -/
structure Imaged (s : State) (i : Nat) (t : State) : Prop where
  rest : t = { s with svc := { s.svc with sp := t.svc.sp }, fw := t.fw }
  member : t.sp i = { s.sp i with img := (t.sp i).img }
  others : ∀ m, m ≠ i → t.sp m = s.sp m

theorem Imaged.refl (s : State) (i : Nat) : Imaged s i s := ⟨rfl, rfl, fun _ _ => rfl⟩

theorem updSp_imaged (h : Booted s t) (k : Option Nat) : Imaged s i (t.updSp i (fun y => { y with img := k })) := by
  have same : ∀ m, t.sp m = s.sp m := fun m => by rw [h]; rfl
  refine ⟨?_, ?_, fun m hm => ?_⟩
  · rw [h]; rfl
  · rw [sp_updSp, if_pos rfl, same]
  · rw [sp_updSp, if_neg hm, same]

theorem restartImage_imaged (s : State) (i : Nat) : Imaged s i (s.restartImage i) := by
  unfold State.restartImage
  split
  · exact .refl s i
  · exact updSp_imaged (chooseSlot_booted ..) _

theorem Imaged.role (h : Imaged s i t) (m : Nat) : (t.sp m).role = (s.sp m).role := by
  by_cases hm : m = i
  · subst hm; rw [h.member]
  · rw [h.others m hm]

theorem Imaged.active (h : Imaged s i t) (q : Nat) : t.pairActive q = s.pairActive q := by
  rw [Bool.eq_iff_iff, pairActive_iff, pairActive_iff, h.role, h.role]

/-- Member i's restart is counted, and the online activation that asked for it ends. -/
def State.returned (s : State) (i : Nat) : State :=
  State.ledgerAdd { s with svc := { s.svc with online := if decide (s.svc.online = some i) then none else s.svc.online } } (spRec i 4) 1

theorem returned_rest (s : State) (i : Nat) : s.returned i =
    { s with svc := { s.svc with online := if decide (s.svc.online = some i) then none else s.svc.online }, ledger := (s.returned i).ledger } :=
  ledgerAdd_counted ..

theorem returned_sp (s : State) (i m : Nat) : (s.returned i).sp m = s.sp m := by rw [returned_rest]; rfl

theorem returned_online (s : State) (i : Nat) (h : s.svc.online = some i) : (s.returned i).svc.online = none := by
  rw [returned_rest]
  exact if_pos (decide_eq_true h)

theorem returned_ledgerAt (s : State) (i : Nat) : (s.returned i).ledgerAt (spRec i 4) = min (2 ^ 64 - 1) (s.ledgerAt (spRec i 4) + 1) :=
  (ledgerAt_ledgerAdd ..).trans (if_pos rfl)

/-- Member i's restart is counted and its image chosen: an online activation's member restarts with the same image (19 R425). -/
def State.reloaded (s : State) (i : Nat) : State :=
  if 2 ≤ i then s.returned i
  else if (s.sp i).role = 1 ∧ !decide (s.svc.online = some i) then
    (s.returned i).updSp i (fun y => { y with img := ((s.returned i).sp (otherSp i)).img })
  else (s.returned i).restartImage i

theorem reloaded_imaged (s : State) (i : Nat) : Imaged (s.returned i) i (s.reloaded i) := by
  unfold State.reloaded
  split
  · exact .refl _ i
  · split
    · exact updSp_imaged (.refl _) _
    · exact restartImage_imaged _ i

theorem restarted_eq (ok : Bool) (role : (s.sp i).role = 4 ∨ (s.sp i).role = 1) (other : s.pairActive (1 - i / 2) = true) :
    s.restarted i ok = if ok = false then ((s.returned i).retireSp i).pairFlags (i / 2)
      else if s.svc.online = some i then ((s.reloaded i).updSp (otherSp i) (fun y => { y with role := 1 })).takeOver i
      else if s.pairActive (i / 2) = true then
        ((s.reloaded i).updSp i (fun y => { y with role := 2, hb := s.time })).pairFlags (i / 2)
      else (s.reloaded i).takeOver i := by
  have active : (s.reloaded i).pairActive (i / 2) = s.pairActive (i / 2) := by
    rw [(reloaded_imaged s i).active, Bool.eq_iff_iff, pairActive_iff, pairActive_iff, returned_sp, returned_sp]
  have time : (s.reloaded i).time = s.time := by
    rw [(reloaded_imaged s i).rest, returned_rest]
  unfold State.restarted
  extract_lets x o online v w z
  have hw : w = s.returned i := rfl
  have hz : z = s.reloaded i := rfl
  have hx : ¬ (x.role ≠ 4 ∧ x.role ≠ 1) := fun h => role.elim h.1 h.2
  rw [if_neg (by rw [other]; exact not_or.2 ⟨hx, by decide⟩), hw, hz, active, time]
  cases ok <;> simp [online, o]

theorem restart_eq (hi : i < 4) (ok : Bool) : exec (.spRestartDone i ok) s = .next (s.restarted i ok) := run_inHall hi

theorem restart_still (hi : i < 4) (ok : Bool) (h : (s.sp i).role ≠ 4 ∧ (s.sp i).role ≠ 1 ∨ s.pairActive (1 - i / 2) = false) :
    exec (.spRestartDone i ok) s = .next s := by
  rw [restart_eq hi, State.restarted, if_pos (by simpa using h)]

/-- Member i's restart is counted, and ends its online activation. -/
def RestartCounted (s : State) (i : Nat) (t : State) : Prop :=
  t.ledgerAt (spRec i 4) = min (2 ^ 64 - 1) (s.ledgerAt (spRec i 4) + 1) ∧ (s.svc.online = some i → t.svc.online = none)

theorem restartCounted_of (count : t.ledgerAt (spRec i 4) = (s.returned i).ledgerAt (spRec i 4))
    (online : t.svc.online = (s.returned i).svc.online) : RestartCounted s i t :=
  ⟨count.trans (returned_ledgerAt s i), fun h => online.trans (returned_online s i h)⟩

theorem reloaded_sp (s : State) {i m : Nat} (h : m ≠ i) : (s.reloaded i).sp m = s.sp m :=
  ((reloaded_imaged s i).others m h).trans (returned_sp ..)

theorem reloaded_ledgerAt (s : State) (i off : Nat) : (s.reloaded i).ledgerAt off = (s.returned i).ledgerAt off := by
  rw [(reloaded_imaged s i).rest]; rfl

theorem reloaded_online (s : State) (i : Nat) : (s.reloaded i).svc.online = (s.returned i).svc.online := by
  rw [(reloaded_imaged s i).rest]

/-- A member that does not come back is retired (18 R399). -/
theorem restart_retires (hi : i < 4) (role : (s.sp i).role = 4 ∨ (s.sp i).role = 1) (other : s.pairActive (1 - i / 2) = true) :
    Completes (exec (.spRestartDone i false) s) (fun t => RestartCounted s i t ∧ (t.sp i).role = 5 ∧ (∀ m, m ≠ i → t.sp m = s.sp m) ∧
      t = { s with svc := t.svc, ledger := t.ledger }) := by
  have retires := retireSp_rest (s := s.returned i) (i := i)
  have member := fun m => retireSp_sp (s := s.returned i) (i := i) m
  have count := retireSp_ledgerAt (s := s.returned i) (i := i) (off := spRec i 4) (spRec_ne (by decide) (by decide) (.inr (by decide)))
  have rest := returned_rest s i
  refine ⟨_, (restart_eq hi _).trans (by rw [restarted_eq false role other, if_pos rfl]), restartCounted_of ?_ ?_, ?_, fun m hm => ?_, ?_⟩
  · rw [pairFlags_ledgerAt, count]
  · generalize (s.returned i).retireSp i = u at retires
    have kept : (u.pairFlags (i / 2)).svc.online = u.svc.online := rfl
    rw [kept, retires]
  · rw [pairFlags_sp, member, if_pos rfl]
  · rw [pairFlags_sp, member, if_neg hm, returned_sp]
  · generalize (s.returned i).retireSp i = u at retires ⊢
    generalize s.returned i = v at retires rest
    rw [retires, rest]
    rfl

/-- The member of an online activation takes over, and its other restarts (19 R425). -/
theorem restart_online (hi : i < 4) (role : (s.sp i).role = 4 ∨ (s.sp i).role = 1) (other : s.pairActive (1 - i / 2) = true)
    (online : s.svc.online = some i) :
    Completes (exec (.spRestartDone i true) s) (fun t => RestartCounted s i t ∧ (t.sp i).role = 3 ∧ (t.sp (otherSp i)).role = 1 ∧
      (∀ m, m ≠ i → m ≠ otherSp i → t.sp m = s.sp m) ∧ (t.pair (i / 2)).owner = i % 2) := by
  have takes := takeOver_takesOver (s := (s.reloaded i).updSp (otherSp i) (fun y => { y with role := 1 })) hi
  refine ⟨_, (restart_eq hi _).trans (by rw [restarted_eq true role other, if_neg (by decide), if_pos online]), restartCounted_of ?_ ?_,
    takes.role, ?_, fun m hm ho => ?_, takes.owner⟩
  · rw [takes.counters _ (spRec_ne (by decide) (by decide) (.inr (by decide)))]
    exact reloaded_ledgerAt ..
  · rw [takes.online]
    exact reloaded_online ..
  · rw [takes.others _ (otherSp_ne i), sp_updSp, if_pos rfl]
  · rw [takes.others m hm, sp_updSp, if_neg ho, reloaded_sp s hm]

/-- A member comes back beside an active one: it is the standby (18 R399). -/
theorem restart_standby (hi : i < 4) (role : (s.sp i).role = 4 ∨ (s.sp i).role = 1) (other : s.pairActive (1 - i / 2) = true)
    (online : s.svc.online ≠ some i) (active : s.pairActive (i / 2) = true) :
    Completes (exec (.spRestartDone i true) s) (fun t => RestartCounted s i t ∧ (t.sp i).role = 2 ∧ (t.sp i).hb = s.time ∧
      (∀ m, m ≠ i → t.sp m = s.sp m) ∧ t = { s with svc := t.svc, ledger := t.ledger, fw := t.fw }) := by
  have member := fun m => sp_updSp (s.reloaded i) i m (fun y => { y with role := 2, hb := s.time })
  have rest := (reloaded_imaged s i).rest
  have first := returned_rest s i
  refine ⟨_, (restart_eq hi _).trans (by rw [restarted_eq true role other, if_neg (by decide), if_neg online, if_pos active]),
    restartCounted_of ?_ ?_, ?_, ?_, fun m hm => ?_, ?_⟩
  · exact reloaded_ledgerAt ..
  · exact reloaded_online ..
  · rw [pairFlags_sp, member, if_pos rfl]
  · rw [pairFlags_sp, member, if_pos rfl]
  · rw [pairFlags_sp, member, if_neg hm, reloaded_sp s hm]
  · generalize s.reloaded i = u at rest ⊢
    generalize s.returned i = v at rest first
    rw [rest, first]
    rfl

/-- A member comes back where none is active: it takes over (18 R399). -/
theorem restart_takes (hi : i < 4) (role : (s.sp i).role = 4 ∨ (s.sp i).role = 1) (other : s.pairActive (1 - i / 2) = true)
    (online : s.svc.online ≠ some i) (active : s.pairActive (i / 2) = false) :
    Completes (exec (.spRestartDone i true) s) (fun t => RestartCounted s i t ∧ (t.sp i).role = 3 ∧ (t.pair (i / 2)).owner = i % 2 ∧
      (t.pair (i / 2)).none_ = false) := by
  have takes := takeOver_takesOver (s := s.reloaded i) hi
  refine ⟨_, (restart_eq hi _).trans
    (by rw [restarted_eq true role other, if_neg (by decide), if_neg online, if_neg (by rw [active]; decide)]),
    restartCounted_of ?_ ?_, takes.role, takes.owner, takes.served⟩
  · rw [takes.counters _ (spRec_ne (by decide) (by decide) (.inr (by decide))), reloaded_ledgerAt]
  · rw [takes.online, reloaded_online]

/-- SP_RESTART_DONE gives a standby, an active member where none is, or a retired one (18 R399; 19 R425). -/
theorem restart_ends (hi : i < 4) (ok : Bool) (role : (s.sp i).role = 4 ∨ (s.sp i).role = 1) (other : s.pairActive (1 - i / 2) = true) :
    Completes (exec (.spRestartDone i ok) s) (fun t =>
      t.ledgerAt (spRec i 4) = min (2 ^ 64 - 1) (s.ledgerAt (spRec i 4) + 1) ∧ (s.svc.online = some i → t.svc.online = none) ∧
      (ok = false → (t.sp i).role = 5 ∧ (∀ m, m ≠ i → m ≠ i → t.sp m = s.sp m) ∧ t = { s with svc := t.svc, ledger := t.ledger }) ∧
      (ok = true → s.svc.online = some i → (t.sp i).role = 3 ∧ (t.sp (otherSp i)).role = 1 ∧
        (∀ m, m ≠ i → m ≠ otherSp i → t.sp m = s.sp m) ∧ (t.pair (i / 2)).owner = i % 2) ∧
      (ok = true → s.svc.online ≠ some i → s.pairActive (i / 2) = true → (t.sp i).role = 2 ∧ (t.sp i).hb = s.time ∧
        (∀ m, m ≠ i → m ≠ i → t.sp m = s.sp m) ∧ t = { s with svc := t.svc, ledger := t.ledger, fw := t.fw }) ∧
      (ok = true → s.svc.online ≠ some i → s.pairActive (i / 2) = false → (t.sp i).role = 3 ∧ (t.pair (i / 2)).owner = i % 2 ∧
        (t.pair (i / 2)).none_ = false)) := by
  cases ok
  case false =>
    obtain ⟨t, done, ⟨count, ends⟩, retired, others, rest⟩ := restart_retires hi role other
    exact ⟨t, done, count, ends, fun _ => ⟨retired, fun m hm _ => others m hm, rest⟩, nofun, nofun, nofun⟩
  case true =>
    by_cases online : s.svc.online = some i
    · obtain ⟨t, done, ⟨count, ends⟩, taken⟩ := restart_online hi role other online
      exact ⟨t, done, count, ends, nofun, fun _ _ => taken, fun _ h => absurd online h, fun _ h => absurd online h⟩
    · cases active : s.pairActive (i / 2)
      case false =>
        obtain ⟨t, done, ⟨count, ends⟩, taken⟩ := restart_takes hi role other online active
        exact ⟨t, done, count, ends, nofun, fun _ h => absurd h online, nofun, fun _ _ _ => taken⟩
      case true =>
        obtain ⟨t, done, ⟨count, ends⟩, standby, hb, others, rest⟩ := restart_standby hi role other online active
        exact ⟨t, done, count, ends, nofun, fun _ h => absurd h online, fun _ _ _ => ⟨standby, hb, fun m hm _ => others m hm, rest⟩, nofun⟩

end

/-! ## A stall retires -/

section
variable {s t u : State} {n : Nat}

/-- No item, no convoy and no porter's move is in progress. -/
def State.Resting (s : State) : Prop :=
  s.rings.items = [] ∧ s.cv.conv = [] ∧ ∀ n i, (Tab.get {} (s.stall n).port i : Porter).busy = false

/-- What leaves a device at rest as it is, and its memory. -/
structure Calm (s t : State) : Prop where
  stays : s.Resting → t.Resting ∧ t.mem = s.mem

theorem Calm.refl (s : State) : Calm s s := ⟨fun h => ⟨h, rfl⟩⟩

theorem Calm.trans (h : Calm s t) (g : Calm t u) : Calm s u := ⟨fun rest => by
  obtain ⟨resting, mem⟩ := h.stays rest
  obtain ⟨resting', mem'⟩ := g.stays resting
  exact ⟨resting', mem'.trans mem⟩⟩

theorem Calm.ite {c : Prop} [Decidable c] (h : Calm s t) (g : Calm s u) : Calm s (if c then t else u) := by
  split
  · exact h
  · exact g

theorem Calm.foldl {α : Type} {f : State → α → State} (h : ∀ s a, Calm s (f s a)) (l : List α) (s : State) : Calm s (l.foldl f s) := by
  induction l generalizing s with
  | nil => exact .refl s
  | cons a l ih => exact (h s a).trans (ih _)

theorem Observed.calm (h : Observed s t) : Calm s t := ⟨fun ⟨items, conv, idle⟩ => by
  have rings := congrArg (fun x : State => x.rings.items) h.1
  have cv := congrArg (fun x : State => x.cv.conv) h.1
  refine ⟨⟨rings.trans items, cv.trans conv, fun m i => ?_⟩, h.mem⟩
  have port := congrArg Stall.port (h.2 m)
  have idle := idle m i
  rw [← show (t.stall m).port = (s.stall m).port from port] at idle
  exact idle⟩

theorem Logged.calm (h : Logged s t) : Calm s t := ⟨fun ⟨items, conv, idle⟩ => by
  have cv := h.keeps (fun x : State => x.cv.conv)
  refine ⟨⟨h.items.trans items, cv.trans conv, fun m i => ?_⟩, h.mem⟩
  unfold State.stall
  rw [h.stalls]
  exact idle m i⟩

/-- An update of a stall under which no porter of it begins to move. -/
theorem updStall_calm (s : State) (n : Nat) (f : Stall → Stall) (hf : ∀ x : Stall, (f x).port = x.port ∨ (f x).port = []) :
    Calm s (s.updStall n f) := ⟨fun ⟨items, conv, idle⟩ => by
  refine ⟨⟨items, conv, fun m i => ?_⟩, rfl⟩
  rw [State.stall_updStall]
  split
  · rcases hf (s.stall n) with h | h
    · rw [h]; exact idle n i
    · rw [h]; rfl
  · exact idle m i⟩

theorem porterStop_calm (s : State) (n i : Nat) : Calm s (s.porterStop n i) := ⟨fun rest => by
  have still : s.porterStop n i = s := by
    unfold State.porterStop
    extract_lets p
    have idle : p.busy = false := rest.2.2 n i
    rw [idle]
    rfl
  rw [still]
  exact ⟨rest, rfl⟩⟩

theorem orphan_calm (s : State) (f : TOwner → Bool) : Calm s (s.orphan f) := ⟨fun ⟨items, conv, idle⟩ => by
  have still : s.waitsWithdraw f 0x12 = s := by
    unfold State.waitsWithdraw
    rw [conv]
    rfl
  unfold State.orphan
  rw [still]
  exact ⟨⟨items, congrArg (List.map _) conv, idle⟩, rfl⟩⟩

theorem boundary_calm (s : State) (n : Nat) : Calm s (s.boundary n) := by
  unfold State.boundary
  exact updStall_calm s n _ (fun _ => .inl rfl)

theorem halt_calm (s : State) (n : Nat) : Calm s (s.halt n) := by
  unfold State.halt
  extract_lets a b c
  have stopped : Calm s a := (porterStop_calm ..).trans (porterStop_calm ..)
  have told : Calm a (a.selEvent n 5) := by
    unfold State.selEvent
    exact .ite (selEmit_observed ..).calm (.refl a)
  have discarded : Calm b c := updStall_calm b n _ (fun _ => .inr rfl)
  exact (((stopped.trans (.ite told (.refl a))).trans discarded).trans (orphan_calm c _)).trans (boundary_calm ..)

theorem haltWork_calm (s : State) (w : Work) : Calm s (s.haltWork w) := .foldl halt_calm _ _

theorem endItems_calm (s : State) (f : Item → Bool) (st : Nat) : Calm s (s.endItems f st) := ⟨fun rest => by
  have still : s.endItems f st = s := by
    unfold State.endItems
    rw [rest.1]
    rfl
  rw [still]
  exact ⟨rest, rfl⟩⟩

theorem updJis_calm (s : State) (p : Nat) (f : JPitch → JPitch) : Calm s (s.updJis p f) := ⟨fun rest => ⟨rest, rfl⟩⟩

theorem slotStale_calm (s : State) (p k st : Nat) : Calm s (s.slotStale p k st) := by
  unfold State.slotStale
  extract_lets a b
  have stopped : Calm s a := .ite ((haltWork_calm ..).trans (updJis_calm ..)) (.refl s)
  exact (stopped.trans (endItems_calm ..)).trans (updJis_calm ..)

theorem migrate_calm (s : State) (p k i n : Nat) : Calm s (s.migrate p k i n) := by
  unfold State.migrate
  split
  · exact .ite (slotStale_calm ..) ((haltWork_calm ..).trans (updJis_calm ..))
  · exact slotStale_calm ..

theorem jisStallGone_calm (s : State) (n : Nat) : Calm s (s.jisStallGone n) := by
  unfold State.jisStallGone
  refine .foldl (fun s p => ?_) _ _
  extract_lets l a b
  have again : Calm a b := .foldl (fun s x => migrate_calm ..) _ _
  exact ((updJis_calm ..).trans again).trans (.foldl (fun s x => migrate_calm ..) _ _)

/-- With no window operation in flight none ends. -/
theorem slotsEnd_idle (st : Nat) (f : Nat → Bool) (h : ∀ p n, (s.slot p n).busy = false) : s.slotsEnd st f = s := by
  unfold State.slotsEnd
  generalize List.range 64 = slots
  refine List.foldl_fixed' (fun p => ?_) _
  refine List.foldl_fixed' (fun n => ?_) _
  extract_lets d w touched
  have idle : d.busy = false := h p n
  rw [if_neg (by rw [idle]; simp)]

theorem dlAppend_rest (s : State) (r : Word) : s.dlAppend r = { s with dl := (s.dlAppend r).dl } := by
  unfold State.dlAppend
  extract_lets d
  split <;> rfl

theorem fpEvent_logged (s : State) : Logged { s with boot := s.fpEvent.boot } s.fpEvent := by
  unfold State.fpEvent
  split
  · have logged := raiseAll_logged { s with boot := { s.boot with fpgen := s.boot.fpgen + 2, changed := true, changedAt := s.time } }
    generalize State.raiseAll _ = t at logged ⊢
    have boot : t.boot = _ := logged.keeps State.boot
    rw [boot]
    exact logged
  · exact .refl s

/-- The floor plan names stall n as retired, and what its block reads is kept (12 R273; 22 R476). -/
def State.leaves (s : State) (n cause : Nat) : State := State.keepBlock { s with fp := Tab.set s.fp n { state := 2, cause := cause } } n

theorem leaves_setup (s : State) (n cause : Nat) : (s.leaves n cause).setup = s.setup := rfl

theorem leaves_retStat (s : State) (n cause : Nat) : (s.leaves n cause).svc.retStat = s.svc.retStat := rfl

theorem leaves_fp (s : State) (n cause : Nat) : (s.leaves n cause).fp = Tab.set s.fp n { state := 2, cause := cause } := rfl

theorem leaves_calm (s : State) (n cause : Nat) : Calm s (s.leaves n cause) := ⟨fun rest => ⟨rest, rfl⟩⟩

/-- Stall n has retired with a cause (12 R273; 18 R404). -/
structure StallRetires (s : State) (n cause : Nat) (t : State) : Prop where
  setup : t.setup = s.setup
  retStat : t.svc.retStat = s.svc.retStat
  fp : t.fp = Tab.set s.fp n { state := 2, cause := cause }
  count : t.ledgerAt (stallRec n 6) = min (2 ^ 64 - 1) cause
  mem : s.Resting → (∀ p k, (s.slot p k).busy = false) → t.mem = s.mem

/-- A record of the defect list and its event enter nothing but the list, FPGEN and the messages. -/
theorem recorded_keeps {β : Type} (s : State) (r : Word) (k : State → β) (hk : ∀ s d b, k { s with dl := d, boot := b } = k s) :
    k (s.dlAppend r).fpEvent.unlogged = k s.unlogged := by
  have logged := (fpEvent_logged (s.dlAppend r)).keeps k
  rw [logged, dlAppend_rest]
  exact hk s.unlogged _ _

theorem stallEnds_calm (st : Nat) (h : ∀ p k, (s.slot p k).busy = false) : Calm s (s.stallEnds n st) := by
  unfold State.stallEnds
  rw [slotsEnd_idle st _ h]
  exact endItems_calm ..

/-- A stall retires in four stages: its work ends, the floor plan names it, Jisan's slots leave it, and the records are made. -/
theorem stallRetires_of {a b c d : State} {cause : Nat} (r : Word) (ended : Ended s a) (named : b = a.leaves n cause) (gone : Ended b c)
    (counted : Counted c d) (count : d.ledgerAt (stallRec n 6) = min (2 ^ 64 - 1) cause)
    (calm : (∀ p k, (s.slot p k).busy = false) → Calm s c) : StallRetires s n cause (d.dlAppend r).fpEvent := by
  have setup : b.setup = a.setup := by rw [named, leaves_setup]
  have retStat : b.svc.retStat = a.svc.retStat := by rw [named, leaves_retStat]
  have fp : b.fp = Tab.set a.fp n { state := 2, cause := cause } := by rw [named, leaves_fp]
  refine ⟨?_, ?_, ?_, ?_, fun rest idle => ?_⟩
  · have kept := recorded_keeps d r State.setup (fun _ _ _ => rfl)
    have named := counted.keeps State.setup (fun _ _ => rfl)
    exact kept.trans (named.trans (gone.setup.trans (setup.trans ended.setup)))
  · have kept := recorded_keeps d r (fun x => x.svc.retStat) (fun _ _ _ => rfl)
    have named := counted.keeps (fun x => x.svc.retStat) (fun _ _ => rfl)
    exact kept.trans (named.trans (gone.retStat.trans (retStat.trans ended.retStat)))
  · have kept := recorded_keeps d r State.fp (fun _ _ _ => rfl)
    have named := counted.keeps State.fp (fun _ _ => rfl)
    rw [ended.fp] at fp
    exact kept.trans (named.trans (gone.fp.trans fp))
  · have kept := recorded_keeps d r (fun x => x.ledgerAt (stallRec n 6)) (fun _ _ _ => rfl)
    exact kept.trans count
  · rw [State.fpEvent_mem, State.dlAppend_mem, counted]
    exact ((calm idle).stays rest).2

theorem retireStall_retires {cause : Nat} (h1 : (s.fpOf n).state ≠ 1) (h2 : (s.fpOf n).state ≠ 2) :
    StallRetires s n cause (s.retireStall n cause) := by
  unfold State.retireStall
  rw [if_neg (not_or.2 ⟨h1, h2⟩)]
  extract_lets a b c d
  have ended : Ended s a := (stallEnds_ended s n 0x11).trans (halt_halted _ n).ended
  have named : b = a.leaves n cause := rfl
  have gone : Ended b c := (jisStallGone_ended b n).trans (logEvent_logged ..).ended
  have counted : Counted c d := (ledgerSet_counted ..).trans (ledgerSet_counted ..)
  have count : d.ledgerAt (stallRec n 6) = min (2 ^ 64 - 1) cause := (ledgerAt_ledgerSet ..).trans (if_pos rfl)
  refine stallRetires_of _ ended named gone counted count (fun idle => ?_)
  have halted : Calm s a := (stallEnds_calm 0x11 idle).trans (halt_calm ..)
  have removed : Calm a b := leaves_calm ..
  exact ((halted.trans removed).trans (jisStallGone_calm b n)).trans (logEvent_logged ..).calm

end

/-! ## RETIRECMD and SALVAGE -/

section
variable {s t : State} {q : Req} {v : W32} {n : Nat}

/-- A write to a register of the setup page that a requester reaches (22 R466). -/
theorem setupTry_of_open (ho : s.setupOpen q) (off bytes : Nat) (ok : Bool) (f : State → State) :
    s.setupTry q off bytes ok f = if ok then f s else s.accessError q 0 off bytes true := by
  obtain ⟨reached, running⟩ := ho
  simp [State.setupTry, reached, running]

theorem retireCmd_eq (hq : inReq q = true) (ho : s.setupOpen q) : exec (.retireCmd q v) s =
    .next (if svcWriter q && s.published then s.retireCmd v else s.accessError q 0 0x2118 4 true) := by
  change run (inReq q) _ = _
  rw [setupTry_of_open ho, run, hq]
  rfl

theorem salvage_eq (hq : inReq q = true) (ho : s.setupOpen q) : exec (.salvage q v) s =
    .next (if svcWriter q && s.published then s.salvageCmd v else s.accessError q 0 0x2110 4 true) := by
  change run (inReq q) _ = _
  rw [setupTry_of_open ho, run, hq]
  rfl

theorem service_refused (hq : inReq q = true) (ho : s.setupOpen q) (h : svcWriter q = false ∨ s.published = false) :
    exec (.retireCmd q v) s = .next (s.accessError q 0 0x2118 4 true) ∧ exec (.salvage q v) s = .next (s.accessError q 0 0x2110 4 true) := by
  have refused : (svcWriter q && s.published) = false := by
    rcases h with h | h <;> simp [h]
  rw [retireCmd_eq hq ho, salvage_eq hq ho, refused]
  exact ⟨rfl, rfl⟩

/-- A GO bit, once set, reads 1 (00 R7; log entry 40). -/
theorem go_bit (r v : W32) (k : Nat) :
    (r ||| v) &&& BitVec.twoPow 32 k = if bit32 v k = true then BitVec.twoPow 32 k else r &&& BitVec.twoPow 32 k := by
  have named : bit32 v k = v.getLsbD k := by
    rw [BitVec.getLsbD, Nat.testBit_eq_decide_div_mod_eq]
    rfl
  rw [BitVec.and_twoPow, BitVec.and_twoPow, BitVec.getLsbD_or, named]
  cases v.getLsbD k <;> simp

/-- RETIRECMD without GO names a stall. -/
theorem retireCmd_names (h : bit32 v 8 = false) :
    s.retireCmd v = s.setRw32 0x2118 (BitVec.ofNat 32 (fld32 v 0 8) ||| (s.rw32 0x2118 &&& 0x100)) := by
  have go : (s.rw32 0x2118 ||| v) &&& 0x100 = s.rw32 0x2118 &&& 0x100 := (go_bit _ v 8).trans (by rw [h]; rfl)
  unfold State.retireCmd
  extract_lets n u a w b
  have hu : u = s.setRw32 0x2118 (BitVec.ofNat 32 n ||| (s.rw32 0x2118 &&& 0x100)) := by simp only [u, go]
  rw [h, if_pos (by decide), hu]

/-- What keeps a stall from retiring on command (18 R404). -/
def State.retireFree (s : State) (n : Nat) : Prop :=
  s.hostKernel n = false ∧ (s.fpOf n).state ≠ 1 ∧ (s.fpOf n).state ≠ 2 ∧ s.svc.retire.contains n = false

/-- RETIRECMD as read after GO, and its STATUS. -/
def State.retireSet (s : State) (n st : Nat) : State :=
  let u := s.setRw32 0x2118 (BitVec.ofNat 32 n ||| 0x100)
  { u with svc := { u.svc with retStat := st } }

theorem retireSet_rw32 (s : State) (n st : Nat) : (s.retireSet n st).rw32 0x2118 = BitVec.ofNat 32 n ||| 0x100 :=
  (State.rw32_setRw32 s 0x2118 0x2118 (BitVec.ofNat 32 n ||| 0x100)).trans (if_pos rfl)

theorem retireCmd_go (h : bit32 v 8 = true) : s.retireCmd v =
    if s.hostKernel (fld32 v 0 8) ∨ (s.fpOf (fld32 v 0 8)).state = 1 ∨ (s.fpOf (fld32 v 0 8)).state = 2 ∨
        s.svc.retire.contains (fld32 v 0 8) then
      s.retireSet (fld32 v 0 8) 0x24
    else if s.inStep (fld32 v 0 8) then
      { s.retireSet (fld32 v 0 8) 0 with svc := { s.svc with retStat := 0, retire := s.svc.retire ++ [fld32 v 0 8] } }
    else (s.retireSet (fld32 v 0 8) 0).retireStall (fld32 v 0 8) 11 := by
  have go : (s.rw32 0x2118 ||| v) &&& 0x100 = 0x100 := (go_bit _ v 8).trans (by rw [h]; rfl)
  unfold State.retireCmd
  extract_lets n u a w b
  have hu : u = s.setRw32 0x2118 (BitVec.ofNat 32 n ||| 0x100) := by simp only [u, go]
  have hw : w = s.retireSet n 0 := by
    simp only [w, a, hu]
    rfl
  rw [h, if_neg (by decide), hw, hu]
  rfl

theorem retire_refused (h : bit32 v 8 = true) (hf : ¬ s.retireFree (fld32 v 0 8)) : s.retireCmd v = s.retireSet (fld32 v 0 8) 0x24 := by
  rw [retireCmd_go h, if_pos]
  by_contra none
  simp only [not_or, Bool.not_eq_true] at none
  exact hf none

theorem retire_goes (h : bit32 v 8 = true) (hf : s.retireFree (fld32 v 0 8)) : s.retireCmd v =
    if s.inStep (fld32 v 0 8) then
      { s.retireSet (fld32 v 0 8) 0 with svc := { s.svc with retStat := 0, retire := s.svc.retire ++ [fld32 v 0 8] } }
    else (s.retireSet (fld32 v 0 8) 0).retireStall (fld32 v 0 8) 11 := by
  obtain ⟨kernel, retired, gone, waits⟩ := hf
  rw [retireCmd_go h, if_neg (by rw [kernel, waits]; simp [retired, gone])]

theorem resting_of_quiet (h : s.pitchesQuiet) : s.Resting := ⟨h.1, h.2.1, h.2.2.2.2⟩

/-- A stall of no work retires at once with cause 11 (18 R404). -/
theorem retire_at_once (hf : s.retireFree n) : let t := (s.retireSet n 0).retireStall n 11
    t.rw32 0x2118 = BitVec.ofNat 32 n ||| 0x100 ∧ t.svc.retStat = 0 ∧ t.fpOf n = { state := 2, cause := 11 } ∧
    (∀ m, m ≠ n → t.fpOf m = s.fpOf m) ∧ t.ledgerAt (stallRec n 6) = 11 ∧ (s.pitchesQuiet → t.mem = s.mem) := by
  obtain ⟨-, retired, gone, -⟩ := hf
  have retires := retireStall_retires (s := s.retireSet n 0) (n := n) (cause := 11) retired gone
  generalize (s.retireSet n 0).retireStall n 11 = t at retires
  obtain ⟨setup, retStat, fp, count, mem⟩ := retires
  have named : ∀ m, t.fpOf m = if m = n then { state := 2, cause := 11 } else s.fpOf m := fun m => by
    rw [State.fpOf, fp]
    exact Tab.get_set ..
  refine ⟨?_, retStat, (named n).trans (if_pos rfl), fun m hm => (named m).trans (if_neg hm), ?_, fun quiet => ?_⟩
  · rw [← retireSet_rw32 s n 0, State.rw32, setup, State.rw32]
  · rw [count]; rfl
  · exact mem (resting_of_quiet (s := s.retireSet n 0) quiet) quiet.2.2.2.1

/-- RETIRECMD with GO: refused, waiting for a step of Jisan, or done (18 R404). -/
theorem retire_commanded (hq : inReq q = true) (ho : s.setupOpen q) (hw : svcWriter q = true) (hp : s.published = true) (h : bit32 v 8 = true)
    (hn : fld32 v 0 8 = n) : Completes (exec (.retireCmd q v) s) (fun t => t.rw32 0x2118 = BitVec.ofNat 32 n ||| 0x100 ∧
      (¬ s.retireFree n → t.svc.retStat = 0x24 ∧ t = { s with svc := t.svc, setup := t.setup } ∧ t.svc.retire = s.svc.retire) ∧
      (s.retireFree n → s.inStep n = true → t.svc.retStat = 0 ∧ t.svc.retire = s.svc.retire ++ [n] ∧
        t = { s with svc := t.svc, setup := t.setup }) ∧
      (s.retireFree n → s.inStep n = false → t.svc.retStat = 0 ∧ t.fpOf n = { state := 2, cause := 11 } ∧
        (∀ m, m ≠ n → t.fpOf m = s.fpOf m) ∧
        t.ledgerAt (stallRec n 6) = 11 ∧
        (s.pitchesQuiet → (∀ p, (s.jis1 p).slot = []) → t.mem.slice = s.mem.slice ∧ t.mem.far = s.mem.far))) := by
  subst hn
  refine ⟨s.retireCmd v, (retireCmd_eq hq ho).trans (by rw [hw, hp]; rfl), ?_⟩
  by_cases free : s.retireFree (fld32 v 0 8)
  · rw [retire_goes h free]
    cases step : s.inStep (fld32 v 0 8)
    case true => exact ⟨retireSet_rw32 s _ 0, fun no => absurd free no, fun _ _ => ⟨rfl, rfl, rfl⟩, nofun⟩
    case false =>
      rw [if_neg (by decide)]
      obtain ⟨reg, stat, named, others, count, mem⟩ := retire_at_once free
      refine ⟨reg, fun no => absurd free no, nofun, fun _ _ => ⟨stat, named, others, count, fun quiet _ => ?_⟩⟩
      rw [mem quiet]
      exact ⟨rfl, rfl⟩
  · rw [retire_refused h free]
    exact ⟨retireSet_rw32 s _ 0x24, fun _ => ⟨rfl, rfl, rfl⟩, fun yes => absurd yes free, fun yes => absurd yes free⟩

/-- A write of SALVAGE while one runs changes nothing. -/
theorem salvage_busy (hq : inReq q = true) (ho : s.setupOpen q) (hw : svcWriter q = true) (hp : s.published = true) (h : s.svc.salvBusy = true) :
    exec (.salvage q v) s = .next s := by
  rw [salvage_eq hq ho, hw, hp, State.salvageCmd, h]
  rfl

/-- SALVAGE as read after a write: GO, once set, reads 1 until a start (00 R7; log entry 40). -/
def State.salvageSet (s : State) (v : W32) : State :=
  s.setRw32 0x2110 (BitVec.ofNat 32 (fld32 v 0 16) ||| ((s.rw32 0x2110 ||| v) &&& 0x10000))

theorem salvageCmd_idle (h : s.svc.salvBusy = false) : s.salvageCmd v =
    if bit32 v 16 = false then s.salvageSet v
    else if s.salvageOk (fld32 v 0 8) (fld32 v 8 8) = true then { s.salvageSet v with svc := { s.svc with salvBusy := true } }
    else { s.salvageSet v with svc := { s.svc with salvStat := 0x24 } } := by
  unfold State.salvageCmd
  rw [h, if_neg (by decide)]
  cases bit32 v 16 <;> rfl

/-- SALVAGE starts on its conditions (18 R405). -/
theorem salvage_commanded (hq : inReq q = true) (ho : s.setupOpen q) (hw : svcWriter q = true) (hp : s.published = true)
    (h : s.svc.salvBusy = false) : Completes (exec (.salvage q v) s) (fun t =>
      t.rw32 0x2110 = BitVec.ofNat 32 (fld32 v 0 16) ||| ((s.rw32 0x2110 ||| v) &&& 0x10000) ∧
      t = { s with svc := t.svc, setup := t.setup } ∧
      t.svc = (if bit32 v 16 = false then s.svc
        else if s.salvageOk (fld32 v 0 8) (fld32 v 8 8) = true then { s.svc with salvBusy := true } else { s.svc with salvStat := 0x24 })) := by
  refine ⟨s.salvageCmd v, (salvage_eq hq ho).trans (by rw [hw, hp]; rfl), ?_⟩
  have set : (s.salvageSet v).rw32 0x2110 = _ := (State.rw32_setRw32 ..).trans (if_pos rfl)
  rw [salvageCmd_idle h]
  cases bit32 v 16
  case false => exact ⟨set, rfl, rfl⟩
  case true => cases s.salvageOk (fld32 v 0 8) (fld32 v 8 8) <;> exact ⟨set, rfl, rfl⟩

end

/-! ## What a write to one line of a slice leaves -/

section
variable {s t u : State} {p : Nat → Prop} {L a : Nat} {b : List Byte}

/-- t differs from s at most in what the lines of slices that p names hold. -/
structure LinesMoved (p : Nat → Prop) (s t : State) : Prop where
  rest : t = { s with mem := { s.mem with
    slice := t.mem.slice, sliceValid := t.mem.sliceValid, slicePois := t.mem.slicePois, sliceUe := t.mem.sliceUe } }
  byte : ∀ a, ¬ p (a / 256) → Mem.rd t.mem.slice a = Mem.rd s.mem.slice a
  valid : ∀ k, ¬ p k → NSet.has t.mem.sliceValid k = NSet.has s.mem.sliceValid k
  pois : ∀ w, ¬ p (w / 8) → NSet.has t.mem.slicePois w = NSet.has s.mem.slicePois w

theorem LinesMoved.refl (p : Nat → Prop) (s : State) : LinesMoved p s s := ⟨rfl, fun _ _ => rfl, fun _ _ => rfl, fun _ _ => rfl⟩

theorem LinesMoved.trans (h : LinesMoved p s t) (g : LinesMoved p t u) : LinesMoved p s u := by
  refine ⟨?_, fun a ha => (g.byte a ha).trans (h.byte a ha), fun k hk => (g.valid k hk).trans (h.valid k hk),
    fun w hw => (g.pois w hw).trans (h.pois w hw)⟩
  have second := g.rest
  rw [h.rest] at second
  exact second

theorem LinesMoved.mono {r : Nat → Prop} (h : LinesMoved p s t) (hp : ∀ k, p k → r k) : LinesMoved r s t :=
  ⟨h.rest, fun a ha => h.byte a (fun n => ha (hp _ n)), fun k hk => h.valid k (fun n => hk (hp _ n)),
    fun w hw => h.pois w (fun n => hw (hp _ n))⟩

theorem LinesMoved.foldl {α : Type} {f : State → α → State} {l : List α} (h : ∀ s, ∀ a ∈ l, LinesMoved p s (f s a)) (s : State) :
    LinesMoved p s (l.foldl f s) := by
  induction l generalizing s with
  | nil => exact .refl p s
  | cons a l ih =>
    exact (h s a (List.mem_cons_self ..)).trans (ih (fun s x hx => h s x (List.mem_cons_of_mem _ hx)) _)

theorem LinesMoved.drops (h : LinesMoved p s t) (a : Nat) : t.dropsSlice a = s.dropsSlice a := by
  rw [h.rest]; rfl

theorem LinesMoved.bad (h : LinesMoved p s t) (ha : ¬ p (a / 256)) : t.sliceBad a = s.sliceBad a := by
  have held : t.heldRow (a / unit256) (a % unit256) = s.heldRow (a / unit256) (a % unit256) := h.drops a
  have lost : t.mem.lost = s.mem.lost := by rw [h.rest]
  have word : a / 32 / 8 = a / 256 := Nat.div_div_eq_div_mul ..
  unfold State.sliceBad
  extract_lets m n m'
  rw [held, h.pois _ (by rw [word]; exact ha), lost, h.valid _ ha]

/-- Memory as a store finds it: the line is valid, and the words of a lost, unwritten one are poisoned (R262). -/
def State.lineOpened (s : State) (a : Nat) : MemSt :=
  { s.mem with
    sliceValid := NSet.add s.mem.sliceValid (a / 256)
    slicePois := if NSet.has s.mem.lost (a / unit256) && !NSet.has s.mem.sliceValid (a / 256) then
      NSet.addRange s.mem.slicePois (a / 256 * 8) 8 else s.mem.slicePois }

/-- A store within one word moves its line. -/
theorem wrSliceWord_lines (s : State) (ha : a % 32 = 0) (hb : b.length ≤ 32) : LinesMoved (· = a / 256) s (s.wrSliceWord a b).s := by
  have stored : ∀ (m : Mem) x, ¬ x / 256 = a / 256 → Mem.rd (Mem.wrBytes m a b) x = Mem.rd m x := fun m x hx =>
    Mem.rd_wrBytes_out _ _ _ _ (by omega)
  have added : ∀ k, ¬ k = a / 256 → NSet.has (NSet.add s.mem.sliceValid (a / 256)) k = NSet.has s.mem.sliceValid k := fun k hk => by
    simp [NSet.has_add, hk]
  have poisoned : ∀ w, ¬ w / 8 = a / 256 → NSet.has (if NSet.has s.mem.lost (a / unit256) && !NSet.has s.mem.sliceValid (a / 256) then
      NSet.addRange s.mem.slicePois (a / 256 * 8) 8 else s.mem.slicePois) w = NSet.has s.mem.slicePois w := fun w hw => by
    split
    · rw [NSet.has_addRange, decide_eq_false (by omega), Bool.false_or]
    · rfl
  unfold State.wrSliceWord
  extract_lets n m w line full lostLine m1 m2
  have opened : m2 = s.lineOpened a := by
    simp only [m2, m1, lostLine, State.lineOpened]
    split <;> rfl
  rw [opened]
  split
  · exact .refl _ s
  · split
    · refine ⟨rfl, fun x hx => stored _ x hx, added, fun x hx => ?_⟩
      dsimp only [State.lineOpened]
      rw [NSet.has_del, poisoned x hx, decide_eq_true (by omega), Bool.true_and]
    · split
      · exact ⟨rfl, fun _ _ => rfl, added, poisoned⟩
      · exact ⟨rfl, fun x hx => stored _ x hx, added, poisoned⟩

/-- A poisoned granule moves its line. -/
theorem poisSlice_lines (s : State) (a : Nat) : LinesMoved (· = a / 256) s (s.poisSlice a) := by
  cases h : s.dropsSlice a
  case true => rw [poisSlice_held h]; exact .refl _ s
  case false =>
    rw [poisSlice_open h]
    refine ⟨rfl, fun x hx => ?_, fun k hk => ?_, fun w hw => ?_⟩
    · exact (Mem.rd_clear ..).trans (if_neg (by omega))
    · simp [State.slicePoisoned, NSet.has_add, hk]
    · dsimp only [State.slicePoisoned]
      split <;> rw [NSet.has_addRange, decide_eq_false (by omega), Bool.false_or]

/-! ## Whole lines -/

/-- The words of aligned bytes. -/
theorem pieces_words {k n : Nat} (ha : a % 32 = 0) (hb : b.length = 32 * k) (hn : k ≤ n) :
    pieces 32 n a b = (List.range k).map (fun i => (a + 32 * i, (b.drop (32 * i)).take 32)) := by
  induction k generalizing a b n with
  | zero =>
    have none : b = [] := List.eq_nil_of_length_eq_zero hb
    rw [none, pieces_nil]
    rfl
  | succ k ih =>
    obtain ⟨n, rfl⟩ : ∃ m, n = m + 1 := ⟨n - 1, by omega⟩
    have some : b ≠ [] := fun h => by rw [h] at hb; simp at hb
    rw [pieces_cons n some ha, ih (by omega) (by rw [List.length_drop]; omega) (by omega), List.range_succ_eq_map, List.map_cons, List.map_map]
    refine congrArg₂ _ rfl (List.map_congr_left fun i _ => ?_)
    simp only [Function.comp, List.drop_drop, Nat.succ_eq_add_one]
    rw [show 32 * (i + 1) = 32 + 32 * i by omega, Nat.add_assoc]

theorem wrPieces_fold (f : State → Nat → List Byte → WrRes) (l : List (Nat × List Byte)) (s : State) :
    (s.wrPieces f l).s = l.foldl (fun s x => (f s x.1 x.2).s) s := by
  have go : ∀ r : WrRes, (l.foldl (fun r x => let r' := f r.s x.1 x.2; ⟨r'.s, r.drop <|> r'.drop⟩) r).s =
      l.foldl (fun s x => (f s x.1 x.2).s) r.s := by
    induction l with
    | nil => exact fun _ => rfl
    | cons x l ih => exact fun r => ih _
  exact go ⟨s, none⟩

/-- The store of the first k words of aligned bytes. -/
def State.wordsStored (s : State) (a : Nat) (b : List Byte) (k : Nat) : State :=
  (List.range k).foldl (fun s i => (s.wrSliceWord (a + 32 * i) ((b.drop (32 * i)).take 32)).s) s

theorem wrSlice_words {k : Nat} (ha : a % 32 = 0) (hb : b.length = 32 * k) : (s.wrSlice a b).s = s.wordsStored a b k := by
  unfold State.wrSlice State.wordsStored
  rw [wrPieces_fold, pieces_words ha hb (by omega), List.foldl_map]

theorem wordsStored_succ (s : State) (a : Nat) (b : List Byte) (k : Nat) : s.wordsStored a b (k + 1) =
    ((s.wordsStored a b k).wrSliceWord (a + 32 * k) ((b.drop (32 * k)).take 32)).s := by
  simp [State.wordsStored, List.range_succ]

theorem wordsStored_lines (s : State) {k : Nat} (hk : k ≤ 8) : LinesMoved (· = L) s (s.wordsStored (256 * L) b k) := by
  refine .foldl (fun s i hi => ?_) s
  have small := List.mem_range.1 hi
  exact (wrSliceWord_lines s (by omega) (by simp)).mono (fun m hm => by omega)

/-- The words of a line stored whole read as written, are not poisoned, and the line is valid. -/
theorem wordsStored_holds (open_ : ∀ x, x / 256 = L → s.dropsSlice x = false) {k : Nat} (hb : 32 * k ≤ b.length) (hk : k ≤ 8) :
    (∀ j < 32 * k, Mem.rd (s.wordsStored (256 * L) b k).mem.slice (256 * L + j) = b.getD j 0 ∧
      NSet.has (s.wordsStored (256 * L) b k).mem.slicePois ((256 * L + j) / 32) = false) ∧
    (0 < k → NSet.has (s.wordsStored (256 * L) b k).mem.sliceValid L = true) := by
  induction k with
  | zero => exact ⟨fun j hj => by omega, fun h => absurd h (by decide)⟩
  | succ k ih =>
    obtain ⟨held, valid⟩ := ih (by omega) (by omega)
    have lines := wordsStored_lines (L := L) (b := b) s (show k ≤ 8 by omega)
    rw [wordsStored_succ]
    generalize s.wordsStored (256 * L) b k = v at held valid lines ⊢
    have word : ((b.drop (32 * k)).take 32).length = 32 := by simp; omega
    have drops : v.dropsSlice (256 * L + 32 * k) = false := by rw [lines.drops]; exact open_ _ (by omega)
    rw [wrSliceWord_whole (by omega) word drops]
    have line : (256 * L + 32 * k) / 256 = L := by omega
    refine ⟨fun j hj => ?_, fun _ => ?_⟩
    · by_cases old : j < 32 * k
      · obtain ⟨byte, pois⟩ := held j old
        refine ⟨?_, ?_⟩
        · rw [← byte]
          exact Mem.rd_wrBytes_out _ _ _ _ (.inl (by omega))
        · have known := valid (by omega)
          dsimp only [State.sliceStored]
          rw [line, known, if_neg (by simp), NSet.has_del, pois, Bool.and_false]
      · obtain ⟨i, rfl⟩ : ∃ i, j = 32 * k + i := ⟨j - 32 * k, by omega⟩
        refine ⟨?_, ?_⟩
        · rw [← Nat.add_assoc]
          refine (rd_wrBytes_inside _ _ (by omega)).trans ?_
          rw [List.getD_eq_getElem?_getD, List.getElem?_take_of_lt (by omega), List.getElem?_drop, ← List.getD_eq_getElem?_getD]
        · dsimp only [State.sliceStored]
          rw [NSet.has_del, decide_eq_false (by omega), Bool.false_and]
    · dsimp only [State.sliceStored]
      rw [line, NSet.has_add, decide_eq_true rfl, Bool.true_or]

end

/-! ## SALVAGE_DONE -/

section
variable {s t u : State} {src dst l a L : Nat} {bad : Bool}

/-- The granules of a line, poisoned up to the k-th. -/
def State.granulesPoisoned (s : State) (a k : Nat) : State := (List.range k).foldl (fun s i => s.poisSlice (a + 64 * i)) s

theorem granulesPoisoned_succ (s : State) (a k : Nat) :
    s.granulesPoisoned a (k + 1) = (s.granulesPoisoned a k).poisSlice (a + 64 * k) := by
  simp [State.granulesPoisoned, List.range_succ]

theorem granulesPoisoned_lines (s : State) {k : Nat} (hk : k ≤ 4) : LinesMoved (· = L) s (s.granulesPoisoned (256 * L) k) := by
  refine .foldl (fun s i hi => ?_) s
  have small := List.mem_range.1 hi
  exact (poisSlice_lines s _).mono (fun m hm => by omega)

/-- The granules poisoned stay so, and the line is valid. -/
theorem granulesPoisoned_holds (open_ : ∀ x, x / 256 = L → s.dropsSlice x = false) {k : Nat} (hk : k ≤ 4) :
    (∀ j < 64 * k, NSet.has (s.granulesPoisoned (256 * L) k).mem.slicePois ((256 * L + j) / 32) = true) ∧
    (0 < k → NSet.has (s.granulesPoisoned (256 * L) k).mem.sliceValid L = true) := by
  induction k with
  | zero => exact ⟨fun j hj => by omega, fun h => absurd h (by decide)⟩
  | succ k ih =>
    obtain ⟨held, -⟩ := ih (by omega)
    have lines := granulesPoisoned_lines (L := L) s (show k ≤ 4 by omega)
    rw [granulesPoisoned_succ]
    generalize s.granulesPoisoned (256 * L) k = v at held lines ⊢
    have drops : v.dropsSlice (256 * L + 64 * k) = false := by rw [lines.drops]; exact open_ _ (by omega)
    rw [poisSlice_open drops]
    refine ⟨fun j hj => ?_, fun _ => ?_⟩
    · dsimp only [State.slicePoisoned]
      split
      · rw [NSet.has_addRange, decide_eq_true (by omega), Bool.true_or]
      · rw [NSet.has_addRange, Bool.or_eq_true]
        by_cases old : j < 64 * k
        · exact .inr (held j old)
        · exact .inl (decide_eq_true (by omega))
    · dsimp only [State.slicePoisoned]
      rw [NSet.has_add, decide_eq_true (by omega), Bool.true_or]

/-- Line l of SRC cannot be read. -/
def State.linePoor (s : State) (src l : Nat) (bad : Bool) : Prop := bad = true ∨ (s.sliceFault (unit256 * src + l * 256) 256).isSome = true

theorem line_address (n l : Nat) : unit256 * n + l * 256 = 256 * (1048576 * n + l) := by
  rw [show unit256 = 256 * 1048576 from rfl, Nat.mul_add, Nat.mul_assoc, Nat.mul_comm l]

theorem salvageLine_poor (h : s.linePoor src l bad) : s.salvageLine src dst l bad = s.granulesPoisoned (256 * (1048576 * dst + l)) 4 := by
  unfold State.salvageLine
  extract_lets a b
  unfold State.linePoor at h
  rw [if_pos h, ← line_address]
  rfl

theorem salvageLine_good (h : ¬ s.linePoor src l bad) : s.salvageLine src dst l bad =
    s.wordsStored (256 * (1048576 * dst + l)) (Mem.rdBytes s.mem.slice (256 * (1048576 * src + l)) 256) 8 := by
  unfold State.salvageLine
  extract_lets a b
  unfold State.linePoor at h
  rw [if_neg h, ← line_address, ← line_address]
  have aligned : b % 32 = 0 := by
    have line : b = 256 * (1048576 * dst + l) := line_address ..
    omega
  exact wrSlice_words aligned (rdBytes_length ..)

theorem salvageLine_lines (s : State) (src dst l : Nat) (bad : Bool) : LinesMoved (· = 1048576 * dst + l) s (s.salvageLine src dst l bad) := by
  by_cases h : s.linePoor src l bad
  · rw [salvageLine_poor h]
    exact granulesPoisoned_lines s (by decide)
  · rw [salvageLine_good h]
    exact wordsStored_lines s (by decide)

/-- The bytes of a line that did not move fault as they did. -/
theorem sliceFault_lines {p : Nat → Prop} (h : LinesMoved p s t) (hp : ¬ p L) : t.sliceFault (256 * L) 256 = s.sliceFault (256 * L) 256 := by
  unfold State.sliceFault wordsOf
  refine congrArg _ (List.find?_congr fun w hw => ?_)
  rw [if_neg (by decide), List.mem_map] at hw
  obtain ⟨i, hi, rfl⟩ := hw
  rw [List.mem_range] at hi
  refine h.bad ?_
  rwa [show (i + 256 * L / 32) * 32 / 256 = L by omega]

theorem linePoor_lines {p : Nat → Prop} (h : LinesMoved p s t) (hp : ¬ p (1048576 * src + l)) :
    t.linePoor src l bad ↔ s.linePoor src l bad := by
  unfold State.linePoor
  rw [line_address, sliceFault_lines h hp]

/-- Line l of DST is what a salvage of it from SRC, as s has it, makes of it. -/
def LineSalvaged (s : State) (src dst l : Nat) (bad : Bool) (t : State) : Prop :=
  (∀ b < 256, ¬ s.linePoor src l bad →
    Mem.rd t.mem.slice (unit256 * dst + l * 256 + b) = Mem.rd s.mem.slice (unit256 * src + l * 256 + b) ∧
    NSet.has t.mem.slicePois ((unit256 * dst + l * 256 + b) / 32) = false) ∧
  (∀ b < 256, s.linePoor src l bad → NSet.has t.mem.slicePois ((unit256 * dst + l * 256 + b) / 32) = true) ∧
  NSet.has t.mem.sliceValid (1048576 * dst + l) = true

/-- The lines of slice n. -/
def inSlice (n k : Nat) : Prop := k / 1048576 = n

theorem lineSalvaged_of_line (hl : l < 1048576) (ne : src ≠ dst) (h : LinesMoved (inSlice dst) s t)
    (open_ : ∀ x, x / 256 = 1048576 * dst + l → s.dropsSlice x = false) :
    LineSalvaged s src dst l bad (t.salvageLine src dst l bad) := by
  have other : ¬ inSlice dst (1048576 * src + l) := by
    unfold inSlice
    omega
  have drops : ∀ x, x / 256 = 1048576 * dst + l → t.dropsSlice x = false := fun x hx => (h.drops x).trans (open_ x hx)
  have poor := linePoor_lines (bad := bad) h other
  unfold LineSalvaged
  simp only [line_address]
  by_cases hp : s.linePoor src l bad
  · obtain ⟨pois, valid⟩ := granulesPoisoned_holds drops (k := 4) (by decide)
    rw [salvageLine_poor (poor.2 hp)]
    exact ⟨fun _ _ no => absurd hp no, fun b hb _ => pois b hb, valid (by decide)⟩
  · obtain ⟨held, valid⟩ := wordsStored_holds (b := Mem.rdBytes t.mem.slice (256 * (1048576 * src + l)) 256) drops (k := 8)
      (by rw [rdBytes_length]) (by decide)
    rw [salvageLine_good (fun h => hp (poor.1 h))]
    refine ⟨fun b hb _ => ?_, fun _ _ h => absurd h hp, valid (by decide)⟩
    obtain ⟨byte, pois⟩ := held b hb
    refine ⟨?_, pois⟩
    rw [byte, rdBytes_getD _ _ _ _ hb]
    exact h.byte _ (by rwa [show (256 * (1048576 * src + l) + b) / 256 = 1048576 * src + l by omega])

/-- A salvaged line stays so while other lines move. -/
theorem LineSalvaged.moved {p : Nat → Prop} (h : LineSalvaged s src dst l bad t) (g : LinesMoved p t u) (hp : ¬ p (1048576 * dst + l)) :
    LineSalvaged s src dst l bad u := by
  unfold LineSalvaged at h ⊢
  simp only [line_address] at h ⊢
  obtain ⟨good, poor, valid⟩ := h
  have word : ∀ b < 256, ¬ p ((256 * (1048576 * dst + l) + b) / 32 / 8) := fun b hb => by
    rwa [show (256 * (1048576 * dst + l) + b) / 32 / 8 = 1048576 * dst + l by omega]
  refine ⟨fun b hb no => ?_, fun b hb yes => ?_, ?_⟩
  · rw [g.pois _ (word b hb), g.byte _ (by rwa [show (256 * (1048576 * dst + l) + b) / 256 = 1048576 * dst + l by omega])]
    exact good b hb no
  · rw [g.pois _ (word b hb)]
    exact poor b hb yes
  · rw [g.valid _ hp]
    exact valid

/-- The salvage of some lines. -/
def State.linesSalvaged (s : State) (src dst : Nat) (bad : List Nat) (lines : List Nat) : State :=
  lines.foldl (fun s l => s.salvageLine src dst l (bad.contains l)) s

theorem linesSalvaged_lines (s : State) (src dst : Nat) (bad lines : List Nat) :
    LinesMoved (fun k => ∃ l ∈ lines, k = 1048576 * dst + l) s (s.linesSalvaged src dst bad lines) :=
  .foldl (fun s l hl => (salvageLine_lines s src dst l _).mono (fun _ hk => ⟨l, hl, hk⟩)) s

/-- Each of the lines is salvaged in the end, from SRC as it was before the first. -/
theorem linesSalvaged_holds {bad lines : List Nat} (small : ∀ l ∈ lines, l < 1048576) (ne : src ≠ dst) (hl : l < 1048576)
    (open_ : ∀ x, x / 256 = 1048576 * dst + l → s.dropsSlice x = false) (h : LinesMoved (inSlice dst) s t)
    (done : l ∈ lines ∨ LineSalvaged s src dst l (bad.contains l) t) :
    LineSalvaged s src dst l (bad.contains l) (t.linesSalvaged src dst bad lines) := by
  induction lines generalizing t with
  | nil => exact done.resolve_left List.not_mem_nil
  | cons k lines ih =>
    have moved := salvageLine_lines t src dst k (bad.contains k)
    have inside : LinesMoved (inSlice dst) t (t.salvageLine src dst k (bad.contains k)) := moved.mono fun m hm => by
      have := small k (List.mem_cons_self ..)
      unfold inSlice
      omega
    refine ih (fun m hm => small m (List.mem_cons_of_mem _ hm)) (h.trans inside) ?_
    by_cases e : l = k
    · subst e
      exact .inr (lineSalvaged_of_line hl ne h open_)
    · rcases done with mem | done
      · exact .inl ((List.mem_cons.1 mem).resolve_left e)
      · exact .inr (done.moved moved (by omega))

end

/-! ## SALVAGE_DONE's lines and status -/

section
variable {s t : State} {src dst ce : Nat} {bad : List Nat}

/-- The lines that a salvage copies: the valid ones of SRC below both U. -/
def State.salvageLines (s : State) (src dst : Nat) : List Nat :=
  (s.mem.sliceValid.filter (fun l => decide (1048576 * src ≤ l ∧
    l < 1048576 * src + min 1048576 (min (s.sliceOf src).u (s.sliceOf dst).u / 256)))).map (· - 1048576 * src)

theorem mem_salvageLines {l : Nat} : l ∈ s.salvageLines src dst ↔
    l < min 1048576 (min (s.sliceOf src).u (s.sliceOf dst).u / 256) ∧ NSet.has s.mem.sliceValid (1048576 * src + l) = true := by
  unfold State.salvageLines
  rw [List.mem_map, NSet.has_iff]
  constructor
  · rintro ⟨k, hk, rfl⟩
    rw [List.mem_filter, decide_eq_true_eq] at hk
    obtain ⟨mem, low, high⟩ := hk
    rw [Nat.add_sub_cancel' low]
    exact ⟨by omega, mem⟩
  · rintro ⟨small, mem⟩
    refine ⟨1048576 * src + l, List.mem_filter.2 ⟨mem, ?_⟩, by omega⟩
    rw [decide_eq_true_eq]
    omega

theorem salvaged_still (h : s.svc.salvBusy = false) : exec (.salvageDone ce bad) s = .next s := by
  change run true (s.salvaged ce bad) = _
  unfold State.salvaged
  simp [run, h]

theorem salvaged_refused (h : s.svc.salvBusy = true) (ok : s.salvageOk (fld32 (s.rw32 0x2110) 0 8) (fld32 (s.rw32 0x2110) 8 8) = false) :
    exec (.salvageDone ce bad) s = .next { s with svc := { s.svc with salvBusy := false, salvStat := 0x10 } } := by
  change run true (s.salvaged ce bad) = _
  unfold State.salvaged
  simp [run, h, ok]

theorem salvageOk_ne (h : s.salvageOk src dst = true) : src ≠ dst := by
  simp only [State.salvageOk, Bool.and_eq_true, decide_eq_true_eq] at h
  obtain ⟨⟨⟨⟨⟨⟨differ, -⟩, -⟩, -⟩, -⟩, -⟩, -⟩ := h
  exact differ

/-- A salvage's STATUS: 0x10 where a line could not be read, else whether errors were corrected (18 R405). -/
def State.salvageStatus (s : State) (src dst ce : Nat) (bad : List Nat) : Nat :=
  if (s.salvageLines src dst).any (fun l => bad.contains l || (s.sliceFault (unit256 * src + l * 256) 256).isSome) then 0x10
  else if ce = 0 then 0 else 1

theorem salvaged_eq (h : s.svc.salvBusy = true) (ok : s.salvageOk (fld32 (s.rw32 0x2110) 0 8) (fld32 (s.rw32 0x2110) 8 8) = true)
    (hs : fld32 (s.rw32 0x2110) 0 8 = src) (hd : fld32 (s.rw32 0x2110) 8 8 = dst) :
    exec (.salvageDone ce bad) s =
      .next (let t := s.linesSalvaged src dst bad (s.salvageLines src dst)
        { t with svc := { t.svc with salvBusy := false, salvStat := s.salvageStatus src dst ce bad } }) := by
  change run true (s.salvaged ce bad) = _
  unfold State.salvaged
  subst hs hd
  extract_lets v a b
  have ha : a = fld32 (s.rw32 0x2110) 0 8 := rfl
  have hb : b = fld32 (s.rw32 0x2110) 8 8 := rfl
  rw [h, ha, hb, ok, if_neg (by decide), if_neg (by decide)]
  rfl

/-- SALVAGE_DONE has copied the valid lines, poisoned the bad ones and written nothing else of the slices (18 R405). -/
theorem salvaged_ends (h : s.svc.salvBusy = true) (ok : s.salvageOk (fld32 (s.rw32 0x2110) 0 8) (fld32 (s.rw32 0x2110) 8 8) = true) :
    let src := fld32 (s.rw32 0x2110) 0 8
    let dst := fld32 (s.rw32 0x2110) 8 8
    let top := min 1048576 (min (s.sliceOf src).u (s.sliceOf dst).u / 256)
    let valid := fun (l : Nat) => l < top ∧ NSet.has s.mem.sliceValid (1048576 * src + l) = true
    let poor := fun (l : Nat) => bad.contains l = true ∨ (s.sliceFault (unit256 * src + l * 256) 256).isSome = true
    Completes (exec (.salvageDone ce bad) s) (fun t => t = { s with svc := t.svc, mem := t.mem } ∧
      t.svc.salvBusy = false ∧
      ((∃ l, valid l ∧ poor l) → t.svc.salvStat = 0x10) ∧ (¬ (∃ l, valid l ∧ poor l) → t.svc.salvStat = if ce = 0 then 0 else 1) ∧
      (∀ l b, b < 256 → valid l → ¬ poor l → (∀ a, a / 256 = 1048576 * dst + l → s.dropsSlice a = false) →
        Mem.rd t.mem.slice (unit256 * dst + l * 256 + b) = Mem.rd s.mem.slice (unit256 * src + l * 256 + b) ∧
        NSet.has t.mem.sliceValid (1048576 * dst + l) = true ∧ NSet.has t.mem.slicePois ((unit256 * dst + l * 256 + b) / 32) = false) ∧
      (∀ l b, b < 256 → valid l → poor l → (∀ a, a / 256 = 1048576 * dst + l → s.dropsSlice a = false) →
        NSet.has t.mem.slicePois ((unit256 * dst + l * 256 + b) / 32) = true ∧
        NSet.has t.mem.sliceValid (1048576 * dst + l) = true) ∧
      (∀ a, (∀ l, valid l → a / 256 ≠ 1048576 * dst + l) → Mem.rd t.mem.slice a = Mem.rd s.mem.slice a) ∧
      t.mem.far = s.mem.far ∧ t.mem.shelf = s.mem.shelf ∧ t.mem.host = s.mem.host) := by
  extract_lets src dst top valid poor
  have done := salvaged_eq (ce := ce) (bad := bad) h ok rfl rfl
  have ne : src ≠ dst := salvageOk_ne ok
  have lines : ∀ l, l ∈ s.salvageLines src dst ↔ valid l := fun l => mem_salvageLines
  have small : ∀ l ∈ s.salvageLines src dst, l < 1048576 := fun l hl => lt_of_lt_of_le ((lines l).1 hl).1 (Nat.min_le_left ..)
  have moved := linesSalvaged_lines s src dst bad (s.salvageLines src dst)
  have holds : ∀ l, valid l → (∀ a, a / 256 = 1048576 * dst + l → s.dropsSlice a = false) →
      LineSalvaged s src dst l (bad.contains l) (s.linesSalvaged src dst bad (s.salvageLines src dst)) := fun l hl open_ =>
    linesSalvaged_holds small ne (small l ((lines l).2 hl)) open_ (.refl _ s) (.inl ((lines l).2 hl))
  have found : (s.salvageLines src dst).any (fun l => bad.contains l || (s.sliceFault (unit256 * src + l * 256) 256).isSome) = true ↔
      ∃ l, valid l ∧ poor l := by
    simp only [List.any_eq_true, lines, Bool.or_eq_true]
    rfl
  refine ⟨_, done, ?_⟩
  generalize s.linesSalvaged src dst bad (s.salvageLines src dst) = t at moved holds
  refine ⟨?_, rfl, fun yes => ?_, fun no => ?_, fun l b hb hl good open_ => ?_, fun l b hb hl hp open_ => ?_, fun a ha => ?_, ?_, ?_, ?_⟩
  · rw [moved.rest]
  · exact if_pos (found.2 yes)
  · exact if_neg (fun h => no (found.1 h))
  · obtain ⟨copied, -, known⟩ := holds l hl open_
    exact ⟨(copied b hb good).1, known, (copied b hb good).2⟩
  · obtain ⟨-, poisoned, known⟩ := holds l hl open_
    exact ⟨poisoned b hb hp, known⟩
  · exact moved.byte a (fun ⟨l, hl, e⟩ => ha l ((lines l).1 hl) e)
  · rw [moved.rest]
  · rw [moved.rest]
  · rw [moved.rest]

end

/-! ## Snapshots and FLUSH -/

section
variable {s t : State} {q : Req} {ok : Bool}

/-- A snapshot goes to its slot; a failed one is retried (18 R409). -/
theorem snapshot_eq (s : State) (ok : Bool) :
    (ok = true → s.snapshot ok = { s with ledger := { s.ledger with
      snap := Tab.set s.ledger.snap (s.ledger.seq % 128)
        { seq := s.ledger.seq, cal := s.calendar, time := s.time, cnt := s.ledger.cnt, flags := s.ledger.flags }
      seq := s.ledger.seq + 1, fault := false, due := false } }) ∧
    (ok = false → s.snapshot ok = { s with ledger := { s.ledger with snap := Tab.del s.ledger.snap (s.ledger.seq % 128), fault := true } }) := by
  constructor <;> rintro rfl <;> rfl

theorem ledgerSnapshot_eq : exec (.ledgerSnapshot ok) s = .next (if s.pairActive 1 then s.snapshot ok else s) := rfl

theorem ledgerRetry_eq : exec (.ledgerRetry ok) s = .next (if s.pairActive 1 ∧ s.ledger.fault then s.snapshot ok else s) := rfl

theorem snapshots_still (h : s.pairActive 1 = false) : exec (.ledgerSnapshot ok) s = .next s ∧ exec (.ledgerRetry ok) s = .next s := by
  rw [ledgerSnapshot_eq, ledgerRetry_eq, h]
  exact ⟨rfl, by rw [if_neg (by simp)]⟩

theorem retry_still (h : s.ledger.fault = false) : exec (.ledgerRetry ok) s = .next s := by
  rw [ledgerRetry_eq, h, if_neg (by simp)]

/-- A FLUSH was taken within the last minute. -/
def State.flushedLately (s : State) : Bool := s.ledger.flushed.any (fun t => decide (s.time < t + 60000000000))

theorem flushedLately_iff : s.flushedLately = true ↔ ∃ u, s.ledger.flushed = some u ∧ s.time < u + 60000000000 := by
  simp only [State.flushedLately, Option.any_eq_true, decide_eq_true_eq]

theorem ledgerFlush_eq (hq : inReq q = true) (ho : s.setupOpen q) : exec (.ledgerFlush q) s =
    .next (if svcWriter q = true then
      (if s.flushedLately = true then s else { s with ledger := { s.ledger with due := true, flushed := some s.time } })
      else s.accessError q 0 0x2100 4 true) := by
  change run (inReq q) _ = _
  rw [setupTry_of_open ho, run, hq]
  rfl

/-- FLUSH is taken at most once a minute (18 R409). -/
theorem ledgerFlush_flushes (hq : inReq q = true) (ho : s.setupOpen q) :
    (svcWriter q = false → exec (.ledgerFlush q) s = .next (s.accessError q 0 0x2100 4 true)) ∧
    (svcWriter q = true → (∃ u, s.ledger.flushed = some u ∧ s.time < u + 60000000000) → exec (.ledgerFlush q) s = .next s) ∧
    (svcWriter q = true → (∀ u, s.ledger.flushed = some u → u + 60000000000 ≤ s.time) →
      exec (.ledgerFlush q) s = .next { s with ledger := { s.ledger with due := true, flushed := some s.time } }) := by
  rw [ledgerFlush_eq hq ho]
  refine ⟨fun h => ?_, fun h early => ?_, fun h late => ?_⟩
  · rw [if_neg (by simp [h])]
  · rw [if_pos h, if_pos (flushedLately_iff.2 early)]
  · rw [if_pos h, if_neg]
    rw [flushedLately_iff]
    rintro ⟨u, last, early⟩
    exact absurd (late u last) (Nat.not_le.2 early)

end

/-! ## What a sample leaves of the ledger -/

section
variable {α β : Type} {s t u : State} {k : LedgerSt → β} {c o n : Nat}

/-- t differs from s at most in the ledger, and there not in what k reads. -/
structure Keeps (k : LedgerSt → β) (s t : State) : Prop where
  counted : Counted s t
  kept : k t.ledger = k s.ledger

theorem Keeps.refl (k : LedgerSt → β) (s : State) : Keeps k s s := ⟨.refl s, rfl⟩

theorem Keeps.trans (h : Keeps k s t) (g : Keeps k t u) : Keeps k s u := ⟨h.counted.trans g.counted, g.kept.trans h.kept⟩

theorem Keeps.ite {c : Prop} [Decidable c] (h : Keeps k s t) (g : Keeps k s u) : Keeps k s (if c then t else u) := by
  split
  · exact h
  · exact g

theorem Keeps.foldl {f : State → α → State} {l : List α} (h : ∀ t, ∀ a ∈ l, Keeps k t (f t a)) (s : State) : Keeps k s (l.foldl f s) := by
  induction l generalizing s with
  | nil => exact .refl k s
  | cons a l ih => exact (h s a (List.mem_cons_self ..)).trans (ih (fun t x hx => h t x (List.mem_cons_of_mem _ hx)) _)

/-- Where one element alone changes what k reads, a fold is its step between what keeps it. -/
theorem Keeps.foldl_once {f : State → α → State} {l : List α} {a : α} (nodup : l.Nodup) (mem : a ∈ l)
    (others : ∀ t, ∀ x ∈ l, x ≠ a → Keeps k t (f t x)) (s : State) : ∃ u, Keeps k s u ∧ Keeps k (f u a) (l.foldl f s) := by
  induction l generalizing s with
  | nil => cases mem
  | cons x l ih =>
    obtain ⟨fresh, nodup⟩ := List.nodup_cons.1 nodup
    by_cases e : a = x
    · subst e
      exact ⟨s, .refl k s, .foldl (fun t y hy => others t y (List.mem_cons_of_mem _ hy) (fun e => fresh (e ▸ hy))) _⟩
    · obtain ⟨u, before, after⟩ := ih nodup ((List.mem_cons.1 mem).resolve_left e) (fun t y hy => others t y (List.mem_cons_of_mem _ hy)) (f s x)
      exact ⟨u, (others s x (List.mem_cons_self ..) (Ne.symm e)).trans before, after⟩

/-- A counter and the thermal cycle of its name. -/
def LedgerSt.at_ (c : Nat) (l : LedgerSt) : Nat × Option (Int × Int) := ((Tab.get (0 : Word) l.cnt (c / 8)).toNat, Tab.find l.cyc c)

theorem at_eq (s : State) (c : Nat) : s.ledger.at_ c = (s.ledgerAt c, Tab.find s.ledger.cyc c) := rfl

/-- A counter that goes up changes the counters and their flags alone. -/
theorem ledgerAdd_same (f : LedgerSt → β) (hf : ∀ l c g, f { l with cnt := c, flags := g } = f l) (s : State) (o v : Nat) :
    f (s.ledgerAdd o v).ledger = f s.ledger := by
  unfold State.ledgerAdd State.ledgerSet
  extract_lets l
  split
  · rfl
  · split
    · exact hf ..
    · exact hf l _ l.flags

theorem ledgerAdd_cyc (s : State) (o v : Nat) : (s.ledgerAdd o v).ledger.cyc = s.ledger.cyc :=
  ledgerAdd_same LedgerSt.cyc (fun _ _ _ => rfl) ..

theorem ledgerAdd_frac (s : State) (o v : Nat) : (s.ledgerAdd o v).ledger.frac = s.ledger.frac :=
  ledgerAdd_same LedgerSt.frac (fun _ _ _ => rfl) ..

theorem ledgerAdd_keeps (s : State) (v : Nat) (h : c / 8 ≠ o / 8) : Keeps (LedgerSt.at_ c) s (s.ledgerAdd o v) :=
  ⟨ledgerAdd_counted .., by rw [at_eq, at_eq, ledgerAt_ledgerAdd, if_neg h, ledgerAdd_cyc]⟩

/-- A reading's thermal cycle begins, turns or goes on (18 R408). -/
def State.cycSet (s : State) (o : Nat) (x : Int × Int) : State := { s with ledger := { s.ledger with cyc := Tab.set s.ledger.cyc o x } }

theorem cycSet_keeps (s : State) (x : Int × Int) (h : c ≠ o) : Keeps (LedgerSt.at_ c) s (s.cycSet o x) :=
  ⟨rfl, Prod.ext rfl (Tab.find_set_ne _ _ h)⟩

theorem thermalCycle_keeps (s : State) (r : Int) (h : c / 8 ≠ o / 8) : Keeps (LedgerSt.at_ c) s (s.thermalCycle o r) := by
  have ne : c ≠ o := fun e => h (by rw [e])
  unfold State.thermalCycle
  extract_lets l set
  have sets : ∀ x, Keeps (LedgerSt.at_ c) s (set x) := fun x => cycSet_keeps s x ne
  split
  · exact sets _
  · exact .ite ((sets _).trans (ledgerAdd_keeps _ 1 h)) (.ite (sets _) (sets _))

/-- A reading under a cycle (lo, hi): it counts once the temperature has risen and fallen by 20 °C. -/
theorem thermalCycle_counts {r lo hi : Int} (h : Tab.find s.ledger.cyc o = some (lo, hi)) :
    (s.thermalCycle o r).ledgerAt o = min (2 ^ 64 - 1) (s.ledgerAt o + ofBool (decide (lo + 2000 ≤ hi ∧ r + 2000 ≤ hi))) ∧
    Tab.find (s.thermalCycle o r).ledger.cyc o = some (if lo + 2000 ≤ hi ∧ r + 2000 ≤ hi ∨ r < lo then (r, r) else (lo, max hi r)) := by
  have bound := ledgerAt_lt s o
  have found : ∀ x, Tab.find (s.cycSet o x).ledger.cyc o = some x := fun x => Tab.find_set_same ..
  unfold State.thermalCycle
  rw [h]
  dsimp only
  by_cases turns : lo + 2000 ≤ hi ∧ r + 2000 ≤ hi
  · rw [if_pos turns, if_pos (.inl turns), decide_eq_true turns]
    refine ⟨(ledgerAt_ledgerAdd ..).trans (if_pos rfl), ?_⟩
    rw [ledgerAdd_cyc]
    exact found _
  · rw [if_neg turns, decide_eq_false turns]
    have same : ∀ x, (s.cycSet o x).ledgerAt o = min (2 ^ 64 - 1) (s.ledgerAt o + ofBool false) := fun x =>
      (show (s.cycSet o x).ledgerAt o = s.ledgerAt o from rfl).trans (by simp only [ofBool, Bool.false_eq_true, if_false]; omega)
    by_cases falls : r < lo
    · rw [if_pos falls, if_pos (.inr falls)]
      exact ⟨same _, found _⟩
    · rw [if_neg falls, if_neg (not_or.2 ⟨turns, falls⟩)]
      exact ⟨same _, found _⟩

/-- Counter c of t is that of s and n more; it sticks at its largest value. -/
def Adds (c n : Nat) (s t : State) : Prop := t.ledgerAt c = min (2 ^ 64 - 1) (s.ledgerAt c + n)

theorem ledgerAdd_adds (s : State) (c n : Nat) : Adds c n s (s.ledgerAdd c n) := (ledgerAt_ledgerAdd ..).trans (if_pos rfl)

theorem Keeps.ledgerAt (h : Keeps (LedgerSt.at_ c) s t) : t.ledgerAt c = s.ledgerAt c := congrArg Prod.fst h.kept

theorem Keeps.cyc (h : Keeps (LedgerSt.at_ c) s t) : Tab.find t.ledger.cyc c = Tab.find s.ledger.cyc c := congrArg Prod.snd h.kept

theorem Keeps.adds (h : Keeps (LedgerSt.at_ c) s t) (g : Adds c n t u) : Adds c n s u := by
  unfold Adds at g ⊢
  rw [g, h.ledgerAt]

theorem Adds.keeps (h : Adds c n s t) (g : Keeps (LedgerSt.at_ c) t u) : Adds c n s u := g.ledgerAt.trans h

theorem Keeps.adds_zero (h : Keeps (LedgerSt.at_ c) s t) : Adds c 0 s t := by
  have bound := ledgerAt_lt s c
  unfold Adds
  rw [h.ledgerAt]
  omega

end

/-! ## LEDGER_SAMPLE -/

section
variable {s t u : State} {c n k h l i : Nat}

/-- One second of region k of stall n. -/
def State.sampleRegion (s : State) (x : HallSt) (n k : Nat) : State :=
  let r := 4 * n + k
  let m := max (multOf x.mult (2 * k)) (multOf x.mult (2 * k + 1))
  let s := (s.ledgerAdd (regionRec r 0) 1).thermalCycle (regionRec r 1) (Tab.get 0 x.temp (2 * k + 1) / centi)
  let s := s.ledgerAdd (regionRec r 3) (if m = 1 then 1 else 0)
  let s := s.ledgerAdd (regionRec r 4) (if m = 2 then 1 else 0)
  s.ledgerAdd (regionRec r 5) (if bitsOf x.throttle.toNat (2 * k) 2 = 0 then 0 else 1)

/-- One second of the regions of a stall whose hall has power. -/
def State.sampleRegions (s : State) (x : HallSt) (n : Nat) : State :=
  if !x.rails then s else threads4.foldl (fun s k => s.sampleRegion x n k) s

/-- One second of hall h. -/
def State.sampleHall (s : State) (h : Nat) : State :=
  ((s.ledgerAdd (hallRec h 0) (ofBool (s.hall h).rails)).thermalCycle (hallRec h 1) (s.hall h).diode).ledgerAdd (hallRec h 4)
    (if 10000 < (s.hall h).diode then 1 else 0)

/-- One second of link l. -/
def State.sampleLink (s : State) (l : Nat) : State :=
  s.ledgerAdd (linkRec l 0) (if (s.link l).state = 0 ∨ (s.link l).state = 5 then 0 else 1)

/-- One second of service processor i. -/
def State.sampleSp (s : State) (i : Nat) : State :=
  (s.ledgerAdd (spRec i 0) (if 1 ≤ (s.sp i).role ∧ (s.sp i).role ≤ 3 then 1 else 0)).ledgerAdd (spRec i 1) (if (s.sp i).role = 3 then 1 else 0)

theorem sampleStall_eq (s : State) (n : Nat) : s.sampleStall n =
    (((s.ledgerAdd (stallRec n 0) (if (s.hall (hallOf n)).rails && s.pwrState n < 2 then 1 else 0)).ledgerAdd (stallRec n 1)
      (if (s.hall (hallOf n)).rails && s.pwrState n = 0 then 1 else 0)).ledgerAdd (stallRec n 3)
      (if 9500 < (s.hall (hallOf n)).diode then 1 else 0)).sampleRegions (s.hall (hallOf n)) n := rfl

theorem ledgerSample_eq (s : State) : s.ledgerSample =
    threads4.foldl State.sampleSp ((List.range 16).foldl State.sampleLink (threads4.foldl State.sampleHall
      (allStalls.foldl State.sampleStall (s.ledgerAdd 0x50 1)))) := rfl

/-! ### The places of the counters -/

theorem hallRec_place (h i : Nat) : hallRec h i / 8 = 0x20 + 8 * h + i := by unfold hallRec; omega

theorem spRec_place (m i : Nat) : spRec m i / 8 = 0x40 + 8 * m + i := by unfold spRec; omega

theorem linkRec_place (l i : Nat) : linkRec l i / 8 = 0x60 + 8 * l + i := by unfold linkRec; omega

theorem stallRec_place (n i : Nat) : stallRec n i / 8 = 0xE0 + 8 * n + i := by unfold stallRec; omega

theorem regionRec_place (r i : Nat) : regionRec r i / 8 = 0x8E0 + 8 * r + i := by unfold regionRec; omega

/-! ### What each part leaves -/

/-- A sample of a region enters its counters 0, 1, 3, 4 and 5. -/
theorem sampleRegion_keeps (s : State) (x : HallSt) (hc : ∀ i < 6, i ≠ 2 → c / 8 ≠ 0x8E0 + 8 * (4 * n + k) + i) :
    Keeps (LedgerSt.at_ c) s (s.sampleRegion x n k) := by
  have apart : ∀ i < 6, i ≠ 2 → c / 8 ≠ regionRec (4 * n + k) i / 8 := fun i hi h2 => by
    rw [regionRec_place]
    exact hc i hi h2
  unfold State.sampleRegion
  extract_lets r m a b d
  have first := (ledgerAdd_keeps s 1 (apart 0 (by decide) (by decide))).trans
    (thermalCycle_keeps _ (Tab.get 0 x.temp (2 * k + 1) / centi) (apart 1 (by decide) (by decide)))
  exact ((first.trans (ledgerAdd_keeps a _ (apart 3 (by decide) (by decide)))).trans
    (ledgerAdd_keeps b _ (apart 4 (by decide) (by decide)))).trans (ledgerAdd_keeps d _ (apart 5 (by decide) (by decide)))

theorem sampleRegions_keeps (s : State) (x : HallSt) (hc : ∀ k < 4, ∀ i < 6, i ≠ 2 → c / 8 ≠ 0x8E0 + 8 * (4 * n + k) + i) :
    Keeps (LedgerSt.at_ c) s (s.sampleRegions x n) := by
  refine .ite (.refl _ s) (.foldl (fun t k hk => sampleRegion_keeps t x (hc k ?_)) s)
  simp only [threads4, List.mem_cons, List.not_mem_nil, or_false] at hk
  omega

/-- A sample of a stall enters its counters 0, 1 and 3 and those of its regions. -/
theorem sampleStall_keeps (s : State) (h0 : c / 8 ≠ stallRec n 0 / 8) (h1 : c / 8 ≠ stallRec n 1 / 8) (h3 : c / 8 ≠ stallRec n 3 / 8)
    (hc : ∀ k < 4, ∀ i < 6, i ≠ 2 → c / 8 ≠ 0x8E0 + 8 * (4 * n + k) + i) : Keeps (LedgerSt.at_ c) s (s.sampleStall n) := by
  rw [sampleStall_eq]
  exact (((ledgerAdd_keeps s _ h0).trans (ledgerAdd_keeps _ _ h1)).trans (ledgerAdd_keeps _ _ h3)).trans (sampleRegions_keeps _ _ hc)

theorem sampleHall_keeps (s : State) (hc : c / 8 < 0x20 + 8 * h ∨ 0x28 + 8 * h ≤ c / 8) : Keeps (LedgerSt.at_ c) s (s.sampleHall h) := by
  have apart : ∀ i < 8, c / 8 ≠ hallRec h i / 8 := fun i hi => by
    rw [hallRec_place]
    omega
  exact ((ledgerAdd_keeps s _ (apart 0 (by decide))).trans (thermalCycle_keeps _ _ (apart 1 (by decide)))).trans
    (ledgerAdd_keeps _ _ (apart 4 (by decide)))

theorem sampleLink_keeps (s : State) (hc : c / 8 ≠ 0x60 + 8 * l) : Keeps (LedgerSt.at_ c) s (s.sampleLink l) :=
  ledgerAdd_keeps s _ (by rw [linkRec_place]; exact hc)

theorem sampleSp_keeps (s : State) (hc : c / 8 < 0x40 + 8 * i ∨ 0x48 + 8 * i ≤ c / 8) : Keeps (LedgerSt.at_ c) s (s.sampleSp i) := by
  have apart : ∀ j < 8, c / 8 ≠ spRec i j / 8 := fun j hj => by
    rw [spRec_place]
    omega
  exact (ledgerAdd_keeps s _ (apart 0 (by decide))).trans (ledgerAdd_keeps _ _ (apart 1 (by decide)))

/-! ### What each stage leaves -/

theorem mem_threads4 : i ∈ threads4 ↔ i < 4 := by
  simp only [threads4, List.mem_cons, List.not_mem_nil, or_false]
  omega

theorem threads4_nodup : threads4.Nodup := by decide

theorem stalls_keep (s : State) (hc : c / 8 < 0xE0) : Keeps (LedgerSt.at_ c) s (allStalls.foldl State.sampleStall s) := by
  refine .foldl (fun t n _ => sampleStall_keeps t ?_ ?_ ?_ (fun k _ i _ _ => by omega)) s
  all_goals
    rw [stallRec_place]
    omega

theorem halls_keep (s : State) (hc : c / 8 < 0x20 ∨ 0x40 ≤ c / 8) : Keeps (LedgerSt.at_ c) s (threads4.foldl State.sampleHall s) :=
  .foldl (fun t h hh => sampleHall_keeps t (by have := mem_threads4.1 hh; omega)) s

theorem links_keep (s : State) (hc : c / 8 < 0x60 ∨ 0xE0 ≤ c / 8) : Keeps (LedgerSt.at_ c) s ((List.range 16).foldl State.sampleLink s) :=
  .foldl (fun t l hl => sampleLink_keeps t (by have := List.mem_range.1 hl; omega)) s

theorem sps_keep (s : State) (hc : c / 8 < 0x40 ∨ 0x60 ≤ c / 8) : Keeps (LedgerSt.at_ c) s (threads4.foldl State.sampleSp s) :=
  .foldl (fun t i hi => sampleSp_keeps t (by have := mem_threads4.1 hi; omega)) s

theorem Keeps.hall {β : Type} {f : LedgerSt → β} (hk : Keeps f s t) (h : Nat) : t.hall h = s.hall h :=
  hk.counted.keeps (fun x => x.hall h) (fun _ _ => rfl)

theorem Keeps.pwrState {β : Type} {f : LedgerSt → β} (hk : Keeps f s t) (n : Nat) : t.pwrState n = s.pwrState n :=
  hk.counted.keeps (fun x => x.pwrState n) (fun _ _ => rfl)

/-! ### The counters -/

theorem ledgerSample_counted (s : State) : Counted s s.ledgerSample := by
  rw [ledgerSample_eq]
  have kept : Keeps (LedgerSt.at_ 0) s _ := ((((ledgerAdd_keeps (c := 0) (o := 0x50) s 1 (by decide)).trans (stalls_keep _ (by decide))).trans
    (halls_keep _ (by decide))).trans (links_keep _ (by decide))).trans (sps_keep _ (by decide))
  exact kept.counted

theorem ledgerSample_powered (s : State) : Adds 0x50 1 s s.ledgerSample := by
  rw [ledgerSample_eq]
  exact ((((ledgerAdd_adds s 0x50 1).keeps (stalls_keep _ (by decide))).keeps (halls_keep _ (by decide))).keeps
    (links_keep _ (by decide))).keeps (sps_keep _ (by decide))

/-- A counter of a stall or of a region is counted in the sample of the stalls alone. -/
theorem ledgerSample_stall (hn : n < 256) (hc : 0xE0 ≤ c / 8)
    (others : ∀ t, ∀ m ∈ allStalls, m ≠ n → Keeps (LedgerSt.at_ c) t (t.sampleStall m)) :
    ∃ u, Keeps (LedgerSt.at_ c) s u ∧ Keeps (LedgerSt.at_ c) (u.sampleStall n) s.ledgerSample := by
  obtain ⟨u, before, after⟩ := Keeps.foldl_once (f := State.sampleStall) List.nodup_range (List.mem_range.2 hn) others (s.ledgerAdd 0x50 1)
  refine ⟨u, (ledgerAdd_keeps s 1 (by omega)).trans before, ?_⟩
  rw [ledgerSample_eq]
  exact ((after.trans (halls_keep _ (by omega))).trans (links_keep _ (by omega))).trans (sps_keep _ (by omega))

theorem ledgerSample_ofStall (hn : n < 256) (hi : i < 8) :
    ∃ u, Keeps (LedgerSt.at_ (stallRec n i)) s u ∧ Keeps (LedgerSt.at_ (stallRec n i)) (u.sampleStall n) s.ledgerSample := by
  have place := stallRec_place n i
  refine ledgerSample_stall hn (by omega) (fun t m hm ne => sampleStall_keeps t ?_ ?_ ?_ (fun k _ j _ _ => by omega))
  all_goals
    rw [place, stallRec_place]
    omega

theorem ledgerSample_ofRegion (hn : n < 256) (hk : k < 4) (hi : i < 8) :
    ∃ u, Keeps (LedgerSt.at_ (regionRec (4 * n + k) i)) s u ∧
      Keeps (LedgerSt.at_ (regionRec (4 * n + k) i)) (u.sampleStall n) s.ledgerSample := by
  have place := regionRec_place (4 * n + k) i
  refine ledgerSample_stall hn (by omega) (fun t m hm ne => sampleStall_keeps t ?_ ?_ ?_ (fun k _ j _ _ => by omega))
  all_goals
    have small := List.mem_range.1 hm
    rw [place, stallRec_place]
    omega

theorem ledgerSample_ofHall (hh : h < 4) (hi : i < 8) :
    ∃ u, Keeps (LedgerSt.at_ (hallRec h i)) s u ∧ Keeps (LedgerSt.at_ (hallRec h i)) (u.sampleHall h) s.ledgerSample := by
  have place := hallRec_place h i
  obtain ⟨u, before, after⟩ := Keeps.foldl_once (k := LedgerSt.at_ (hallRec h i)) (f := State.sampleHall) threads4_nodup (mem_threads4.2 hh)
    (fun t m _ ne => sampleHall_keeps t (by omega)) (allStalls.foldl State.sampleStall (s.ledgerAdd 0x50 1))
  refine ⟨u, ((ledgerAdd_keeps s 1 (by omega)).trans (stalls_keep _ (by omega))).trans before, ?_⟩
  rw [ledgerSample_eq]
  exact (after.trans (links_keep _ (by omega))).trans (sps_keep _ (by omega))

theorem ledgerSample_ofLink (hl : l < 16) :
    ∃ u, Keeps (LedgerSt.at_ (linkRec l 0)) s u ∧ Keeps (LedgerSt.at_ (linkRec l 0)) (u.sampleLink l) s.ledgerSample := by
  have place := linkRec_place l 0
  obtain ⟨u, before, after⟩ := Keeps.foldl_once (k := LedgerSt.at_ (linkRec l 0)) (f := State.sampleLink) List.nodup_range (List.mem_range.2 hl)
    (fun t m _ ne => sampleLink_keeps t (by omega)) (threads4.foldl State.sampleHall (allStalls.foldl State.sampleStall (s.ledgerAdd 0x50 1)))
  refine ⟨u, (((ledgerAdd_keeps s 1 (by omega)).trans (stalls_keep _ (by omega))).trans (halls_keep _ (by omega))).trans before, ?_⟩
  rw [ledgerSample_eq]
  exact after.trans (sps_keep _ (by omega))

theorem ledgerSample_ofSp (hm : n < 4) (hi : i < 8) :
    ∃ u, Keeps (LedgerSt.at_ (spRec n i)) s u ∧ Keeps (LedgerSt.at_ (spRec n i)) (u.sampleSp n) s.ledgerSample := by
  have place := spRec_place n i
  obtain ⟨u, before, after⟩ := Keeps.foldl_once (k := LedgerSt.at_ (spRec n i)) (f := State.sampleSp) threads4_nodup (mem_threads4.2 hm)
    (fun t m _ ne => sampleSp_keeps t (by omega))
    ((List.range 16).foldl State.sampleLink (threads4.foldl State.sampleHall (allStalls.foldl State.sampleStall (s.ledgerAdd 0x50 1))))
  refine ⟨u, ?_, by rw [ledgerSample_eq]; exact after⟩
  exact ((((ledgerAdd_keeps s 1 (by omega)).trans (stalls_keep _ (by omega))).trans (halls_keep _ (by omega))).trans
    (links_keep _ (by omega))).trans before

end

/-! ## What LEDGER_SAMPLE counts -/

section
variable {s t u : State} {c n k h l i r : Nat}

theorem ofBool_decide (p : Prop) [Decidable p] : ofBool (decide p) = if p then 1 else 0 := by
  by_cases h : p <;> simp [ofBool, h]

/-- A counter of a stall is counted once (18 R406). -/
theorem sample_stall (hn : n < 256) :
    Adds (stallRec n 0) (ofBool ((s.hall (n / 64)).rails && decide (s.pwrState n < 2))) s s.ledgerSample ∧
    Adds (stallRec n 1) (ofBool ((s.hall (n / 64)).rails && decide (s.pwrState n = 0))) s s.ledgerSample ∧
    Adds (stallRec n 3) (ofBool (decide (9500 < (s.hall (n / 64)).diode))) s s.ledgerSample ∧
    s.ledgerSample.ledgerAt (stallRec n 5) = s.ledgerAt (stallRec n 5) := by
  have apart : ∀ i j, i ≠ j → stallRec n i / 8 ≠ stallRec n j / 8 := fun i j h => by
    rw [stallRec_place, stallRec_place]
    omega
  have regions : ∀ i < 8, ∀ t x, Keeps (LedgerSt.at_ (stallRec n i)) t (t.sampleRegions x n) := fun i hi t x => by
    have place := stallRec_place n i
    exact sampleRegions_keeps t x (fun k _ j _ _ => by omega)
  refine ⟨?_, ?_, ?_, ?_⟩
  · obtain ⟨u, before, after⟩ := ledgerSample_ofStall (s := s) hn (show 0 < 8 by decide)
    rw [sampleStall_eq, before.hall, before.pwrState] at after
    exact before.adds ((((ledgerAdd_adds u _ _).keeps (ledgerAdd_keeps _ _ (apart 0 1 (by decide)))).keeps
      (ledgerAdd_keeps _ _ (apart 0 3 (by decide)))).keeps ((regions 0 (by decide) _ _).trans after))
  · obtain ⟨u, before, after⟩ := ledgerSample_ofStall (s := s) hn (show 1 < 8 by decide)
    rw [sampleStall_eq, before.hall, before.pwrState] at after
    exact before.adds (((ledgerAdd_keeps u _ (apart 1 0 (by decide))).adds ((ledgerAdd_adds _ _ _).keeps
      (ledgerAdd_keeps _ _ (apart 1 3 (by decide))))).keeps ((regions 1 (by decide) _ _).trans after))
  · obtain ⟨u, before, after⟩ := ledgerSample_ofStall (s := s) hn (show 3 < 8 by decide)
    rw [sampleStall_eq, before.hall, before.pwrState] at after
    rw [ofBool_decide]
    exact before.adds ((((ledgerAdd_keeps u _ (apart 3 0 (by decide))).trans (ledgerAdd_keeps _ _ (apart 3 1 (by decide)))).adds
      (ledgerAdd_adds _ _ _)).keeps ((regions 3 (by decide) _ _).trans after))
  · obtain ⟨u, before, after⟩ := ledgerSample_ofStall (s := s) hn (show 5 < 8 by decide)
    have place := stallRec_place n 5
    have kept := sampleStall_keeps (n := n) u (apart 5 0 (by decide)) (apart 5 1 (by decide)) (apart 5 3 (by decide)) (fun k _ j _ _ => by omega)
    exact ((before.trans kept).trans after).ledgerAt

/-- Counter 0 of a region, in the sample of it. -/
theorem sampleRegion_adds (s : State) (x : HallSt) (n k : Nat) : Adds (regionRec (4 * n + k) 0) 1 s (s.sampleRegion x n k) := by
  have apart : ∀ j, 0 ≠ j → regionRec (4 * n + k) 0 / 8 ≠ regionRec (4 * n + k) j / 8 := fun j h => by
    rw [regionRec_place, regionRec_place]
    omega
  unfold State.sampleRegion
  extract_lets r m a b d
  have first := (ledgerAdd_adds s (regionRec (4 * n + k) 0) 1).keeps
    (thermalCycle_keeps _ (Tab.get 0 x.temp (2 * k + 1) / centi) (apart 1 (by decide)))
  exact ((first.keeps (ledgerAdd_keeps a _ (apart 3 (by decide)))).keeps (ledgerAdd_keeps b _ (apart 4 (by decide)))).keeps
    (ledgerAdd_keeps d _ (apart 5 (by decide)))

theorem sampleRegions_adds (s : State) (x : HallSt) (hk : k < 4) :
    Adds (regionRec (4 * n + k) 0) (ofBool x.rails) s (s.sampleRegions x n) := by
  have place := regionRec_place (4 * n + k) 0
  unfold State.sampleRegions
  cases hr : x.rails
  case false => exact (Keeps.refl (LedgerSt.at_ (regionRec (4 * n + k) 0)) s).adds_zero
  case true =>
    obtain ⟨u, before, after⟩ := Keeps.foldl_once (k := LedgerSt.at_ (regionRec (4 * n + k) 0)) (f := fun s k => s.sampleRegion x n k)
      threads4_nodup (mem_threads4.2 hk) (fun t m hm ne => sampleRegion_keeps t x (fun i _ _ => by
        have := mem_threads4.1 hm
        omega)) s
    exact (before.adds (sampleRegion_adds u x n k)).keeps after

/-- Counter 0 of a region is counted once, and counter 2 left (18 R406). -/
theorem sample_region (hr : r < 1024) :
    Adds (regionRec r 0) (ofBool (s.hall (r / 256)).rails) s s.ledgerSample ∧
    s.ledgerSample.ledgerAt (regionRec r 2) = s.ledgerAt (regionRec r 2) := by
  obtain ⟨n, k, hn, hk, rfl⟩ : ∃ n k, n < 256 ∧ k < 4 ∧ r = 4 * n + k := ⟨r / 4, r % 4, by omega, by omega, by omega⟩
  have hall : hallOf n = (4 * n + k) / 256 := by
    unfold hallOf
    omega
  have apart : ∀ i j, i < 8 → regionRec (4 * n + k) i / 8 ≠ stallRec n j / 8 ∨ 8 ≤ j := fun i j hi => by
    rw [regionRec_place, stallRec_place]
    omega
  have before_regions : ∀ i < 8, ∀ t : State, ∀ a b d : Nat, Keeps (LedgerSt.at_ (regionRec (4 * n + k) i)) t
      (((t.ledgerAdd (stallRec n 0) a).ledgerAdd (stallRec n 1) b).ledgerAdd (stallRec n 3) d) := fun i hi t a b d =>
    ((ledgerAdd_keeps t a ((apart i 0 hi).resolve_right (by decide))).trans
      (ledgerAdd_keeps _ b ((apart i 1 hi).resolve_right (by decide)))).trans (ledgerAdd_keeps _ d ((apart i 3 hi).resolve_right (by decide)))
  refine ⟨?_, ?_⟩
  · obtain ⟨u, before, after⟩ := ledgerSample_ofRegion (s := s) (i := 0) hn hk (by decide)
    rw [sampleStall_eq, before.hall, hall] at after
    exact before.adds (((before_regions 0 (by decide) ..).adds (sampleRegions_adds _ _ hk)).keeps after)
  · obtain ⟨u, before, after⟩ := ledgerSample_ofRegion (s := s) (i := 2) hn hk (by decide)
    rw [sampleStall_eq] at after
    have place := regionRec_place (4 * n + k) 2
    have regions : ∀ t x, Keeps (LedgerSt.at_ (regionRec (4 * n + k) 2)) t (t.sampleRegions x n) := fun t x =>
      sampleRegions_keeps t x (fun j _ i _ _ => by omega)
    exact (before.trans (((before_regions 2 (by decide) ..).trans (regions ..)).trans after)).ledgerAt

/-- Counters 0, 1 and 4 of a hall (18 R406, R408). -/
theorem sample_hall (hh : h < 4) :
    Adds (hallRec h 0) (ofBool (s.hall h).rails) s s.ledgerSample ∧
    Adds (hallRec h 4) (ofBool (decide (10000 < (s.hall h).diode))) s s.ledgerSample ∧
    ∀ lo hi, Tab.find s.ledger.cyc (hallRec h 1) = some (lo, hi) →
      Adds (hallRec h 1) (ofBool (decide (lo + 2000 ≤ hi ∧ (s.hall h).diode + 2000 ≤ hi))) s s.ledgerSample ∧
      Tab.find s.ledgerSample.ledger.cyc (hallRec h 1) =
        some (if lo + 2000 ≤ hi ∧ (s.hall h).diode + 2000 ≤ hi ∨ (s.hall h).diode < lo then ((s.hall h).diode, (s.hall h).diode)
          else (lo, max hi (s.hall h).diode)) := by
  have apart : ∀ i j, i ≠ j → hallRec h i / 8 ≠ hallRec h j / 8 := fun i j e => by
    rw [hallRec_place, hallRec_place]
    omega
  refine ⟨?_, ?_, fun lo hi found => ?_⟩
  · obtain ⟨u, before, after⟩ := ledgerSample_ofHall (s := s) (i := 0) hh (by decide)
    rw [State.sampleHall, before.hall] at after
    exact before.adds ((((ledgerAdd_adds u _ _).keeps (thermalCycle_keeps _ _ (apart 0 1 (by decide)))).keeps
      (ledgerAdd_keeps _ _ (apart 0 4 (by decide)))).keeps after)
  · obtain ⟨u, before, after⟩ := ledgerSample_ofHall (s := s) (i := 4) hh (by decide)
    rw [State.sampleHall, before.hall] at after
    rw [ofBool_decide]
    exact before.adds ((((ledgerAdd_keeps u _ (apart 4 0 (by decide))).trans (thermalCycle_keeps _ _ (apart 4 1 (by decide)))).adds
      (ledgerAdd_adds _ _ _)).keeps after)
  · obtain ⟨u, before, after⟩ := ledgerSample_ofHall (s := s) (i := 1) hh (by decide)
    rw [State.sampleHall, before.hall] at after
    have first := before.trans (ledgerAdd_keeps u (ofBool (s.hall h).rails) (apart 1 0 (by decide)))
    generalize u.ledgerAdd (hallRec h 0) (ofBool (s.hall h).rails) = v at first after
    obtain ⟨count, cycle⟩ := thermalCycle_counts (s := v) (r := (s.hall h).diode) (first.cyc.trans found)
    have last := (ledgerAdd_keeps (c := hallRec h 1) (v.thermalCycle (hallRec h 1) (s.hall h).diode) _ (apart 1 4 (by decide))).trans after
    exact ⟨(first.adds count).keeps last, last.cyc.trans cycle⟩

theorem sample_link (hl : l < 16) : Adds (linkRec l 0) (ofBool (decide ((s.link l).state ≠ 0 ∧ (s.link l).state ≠ 5))) s s.ledgerSample := by
  obtain ⟨u, before, after⟩ := ledgerSample_ofLink (s := s) hl
  have link : u.link l = s.link l := before.counted.keeps (fun x => x.link l) (fun _ _ => rfl)
  have amount : (if (s.link l).state = 0 ∨ (s.link l).state = 5 then 0 else 1) =
      ofBool (decide ((s.link l).state ≠ 0 ∧ (s.link l).state ≠ 5)) := by
    rw [ofBool_decide]
    by_cases h : (s.link l).state = 0 ∨ (s.link l).state = 5 <;> simp [h, ← not_or]
  rw [State.sampleLink, link, amount] at after
  exact before.adds ((ledgerAdd_adds u _ _).keeps after)

theorem sample_sp (hn : n < 4) :
    Adds (spRec n 0) (ofBool (decide (1 ≤ (s.sp n).role ∧ (s.sp n).role ≤ 3))) s s.ledgerSample ∧
    Adds (spRec n 1) (ofBool (decide ((s.sp n).role = 3))) s s.ledgerSample := by
  have apart : ∀ i j, i ≠ j → spRec n i / 8 ≠ spRec n j / 8 := fun i j e => by
    rw [spRec_place, spRec_place]
    omega
  rw [ofBool_decide, ofBool_decide]
  refine ⟨?_, ?_⟩
  · obtain ⟨u, before, after⟩ := ledgerSample_ofSp (s := s) (i := 0) hn (by decide)
    rw [State.sampleSp, before.counted.sp] at after
    exact before.adds (((ledgerAdd_adds u _ _).keeps (ledgerAdd_keeps _ _ (apart 0 1 (by decide)))).keeps after)
  · obtain ⟨u, before, after⟩ := ledgerSample_ofSp (s := s) (i := 1) hn (by decide)
    rw [State.sampleSp, before.counted.sp] at after
    exact before.adds (((ledgerAdd_keeps u _ (apart 1 0 (by decide))).adds (ledgerAdd_adds _ _ _)).keeps after)

theorem ledgerSample_still (h : s.boot.pwrgd = false) : exec .ledgerSample s = .next s := by
  change run true (if s.boot.pwrgd then s.ledgerSample else s) = _
  rw [h]
  rfl

/-- LEDGER_SAMPLE counts one second of every unit (18 R406, R408). -/
theorem ledgerSample_counts (h : s.boot.pwrgd = true) : Completes (exec .ledgerSample s) (fun t => t = { s with ledger := t.ledger } ∧
      let up := fun (off : Nat) (b : Bool) => t.ledgerAt off = min (2 ^ 64 - 1) (s.ledgerAt off + ofBool b)
      up 0x50 true ∧
      (∀ n < 256, up (stallRec n 0) ((s.hall (n / 64)).rails && decide (s.pwrState n < 2)) ∧
        up (stallRec n 1) ((s.hall (n / 64)).rails && decide (s.pwrState n = 0)) ∧ up (stallRec n 3) (decide (9500 < (s.hall (n / 64)).diode)) ∧
        t.ledgerAt (stallRec n 5) = s.ledgerAt (stallRec n 5)) ∧
      (∀ r < 1024, up (regionRec r 0) (s.hall (r / 256)).rails ∧ t.ledgerAt (regionRec r 2) = s.ledgerAt (regionRec r 2)) ∧
      (∀ h < 4, up (hallRec h 0) (s.hall h).rails ∧ up (hallRec h 4) (decide (10000 < (s.hall h).diode)) ∧
        ∀ e, Tab.find s.ledger.cyc (hallRec h 1) = some e →
          let d := (s.hall h).diode
          up (hallRec h 1) (decide (e.1 + 2000 ≤ e.2 ∧ d + 2000 ≤ e.2)) ∧
          Tab.find t.ledger.cyc (hallRec h 1) =
            some (if e.1 + 2000 ≤ e.2 ∧ d + 2000 ≤ e.2 ∨ d < e.1 then (d, d) else (e.1, max e.2 d))) ∧
      (∀ k < 16, up (linkRec k 0) (decide ((s.link k).state ≠ 0 ∧ (s.link k).state ≠ 5))) ∧
      ∀ m < 4, up (spRec m 0) (decide (1 ≤ (s.sp m).role ∧ (s.sp m).role ≤ 3)) ∧ up (spRec m 1) (decide ((s.sp m).role = 3))) := by
  refine ⟨s.ledgerSample, ?_, ledgerSample_counted s, ledgerSample_powered s, fun n hn => sample_stall hn, fun r hr => sample_region hr,
    fun h hh => ?_, fun k hk => sample_link hk, fun m hm => sample_sp hm⟩
  · change run true (if s.boot.pwrgd then s.ledgerSample else s) = _
    rw [h]
    rfl
  · obtain ⟨rails, hot, cycles⟩ := sample_hall (s := s) hh
    exact ⟨rails, hot, fun e found => cycles e.1 e.2 found⟩

end

/-! ## BONDQ_ACCUMULATE -/

section
variable {s t u : State} {n k r : Nat} {uw : List Nat}

/-- One millisecond of region k of stall n. -/
def State.bondRegion (s : State) (uw : List Nat) (n k : Nat) : State :=
  let r := 4 * n + k
  let f := Tab.get 0 s.ledger.frac r + s.bondCharge n k uw
  State.ledgerAdd { s with ledger := { s.ledger with frac := Tab.set s.ledger.frac r (f % 1000000000) } } (regionRec r 2) (f / 1000000000)

/-- One millisecond of stall n, where its hall has power. -/
def State.bondStall (s : State) (uw : List Nat) (n : Nat) : State :=
  if !(s.hall (hallOf n)).rails then s else threads4.foldl (fun s k => s.bondRegion uw n k) s

theorem bondq_eq (s : State) (uw : List Nat) : s.bondq uw = allStalls.foldl (fun s n => s.bondStall uw n) s := rfl

/-- A region's bond charge: the counter and the fraction carried. -/
def LedgerSt.bond (r : Nat) (l : LedgerSt) : Nat × Nat := ((Tab.get (0 : Word) l.cnt (regionRec r 2 / 8)).toNat, Tab.get 0 l.frac r)

theorem bond_eq (s : State) (r : Nat) : s.ledger.bond r = (s.ledgerAt (regionRec r 2), Tab.get 0 s.ledger.frac r) := rfl

theorem bondRegion_counted (s : State) (uw : List Nat) (n k : Nat) : Counted s (s.bondRegion uw n k) := by
  unfold State.bondRegion
  exact .trans (t := { s with ledger := { s.ledger with frac := _ } }) rfl (ledgerAdd_counted ..)

/-- What a millisecond makes of a region's counter and fraction. -/
theorem bondRegion_bond (s : State) (uw : List Nat) (n k r : Nat) : (s.bondRegion uw n k).ledger.bond r =
    if r = 4 * n + k then
      (min (2 ^ 64 - 1) (s.ledgerAt (regionRec r 2) + (Tab.get 0 s.ledger.frac r + s.bondCharge n k uw) / 1000000000),
        (Tab.get 0 s.ledger.frac r + s.bondCharge n k uw) % 1000000000)
    else s.ledger.bond r := by
  unfold State.bondRegion
  extract_lets r' f
  have place : regionRec r 2 / 8 = regionRec r' 2 / 8 ↔ r = r' := by
    rw [regionRec_place, regionRec_place]
    omega
  rw [bond_eq, bond_eq, ledgerAt_ledgerAdd, ledgerAdd_frac, Tab.get_set]
  simp only [place]
  by_cases e : r = r'
  · subst e
    rw [if_pos rfl, if_pos rfl, if_pos rfl]
    rfl
  · rw [if_neg e, if_neg e, if_neg e]
    rfl

theorem Keeps.bond (h : Keeps (LedgerSt.bond r) s t) :
    t.ledgerAt (regionRec r 2) = s.ledgerAt (regionRec r 2) ∧ Tab.get 0 t.ledger.frac r = Tab.get 0 s.ledger.frac r := by
  have kept := h.kept
  rwa [bond_eq, bond_eq, Prod.mk.injEq] at kept

theorem bondRegion_keeps (s : State) (h : r ≠ 4 * n + k) : Keeps (LedgerSt.bond r) s (s.bondRegion uw n k) :=
  ⟨bondRegion_counted .., (bondRegion_bond ..).trans (if_neg h)⟩

theorem bondStall_keeps (s : State) (h : ∀ k < 4, r ≠ 4 * n + k) : Keeps (LedgerSt.bond r) s (s.bondStall uw n) := by
  unfold State.bondStall
  exact .ite (.refl _ s) (.foldl (fun t k hk => bondRegion_keeps t (h k (mem_threads4.1 hk))) s)

/-- BONDQ_ACCUMULATE counts each region of a hall with power, the fraction carried (18 R406). -/
theorem bondq_counts (hn : n < 256) (hk : k < 4) :
    if (s.hall (n / 64)).rails = true then
      Tab.get 0 (s.bondq uw).ledger.frac (4 * n + k) = (Tab.get 0 s.ledger.frac (4 * n + k) + s.bondCharge n k uw) % 1000000000 ∧
      (s.bondq uw).ledgerAt (regionRec (4 * n + k) 2) = min (2 ^ 64 - 1)
        (s.ledgerAt (regionRec (4 * n + k) 2) + (Tab.get 0 s.ledger.frac (4 * n + k) + s.bondCharge n k uw) / 1000000000)
    else Tab.get 0 (s.bondq uw).ledger.frac (4 * n + k) = Tab.get 0 s.ledger.frac (4 * n + k) ∧
      (s.bondq uw).ledgerAt (regionRec (4 * n + k) 2) = s.ledgerAt (regionRec (4 * n + k) 2) := by
  obtain ⟨u, before, after⟩ := Keeps.foldl_once (k := LedgerSt.bond (4 * n + k)) (f := fun s n => s.bondStall uw n) (l := allStalls)
    List.nodup_range (List.mem_range.2 hn) (fun t m _ ne => bondStall_keeps t (fun j _ => by omega)) s
  rw [← bondq_eq] at after
  unfold State.bondStall at after
  rw [before.hall, show hallOf n = n / 64 from rfl] at after
  cases rails : (s.hall (n / 64)).rails
  case false =>
    rw [rails] at after
    obtain ⟨count, frac⟩ := (before.trans after).bond
    rw [if_neg (by decide)]
    exact ⟨frac, count⟩
  case true =>
    rw [rails, if_neg (by decide)] at after
    obtain ⟨v, first, last⟩ := Keeps.foldl_once (k := LedgerSt.bond (4 * n + k)) (f := fun s k => s.bondRegion uw n k) threads4_nodup
      (mem_threads4.2 hk) (fun t m _ ne => bondRegion_keeps t (by omega)) u
    have start := before.trans first
    have charge : v.bondCharge n k uw = s.bondCharge n k uw := start.counted.keeps (fun x => x.bondCharge n k uw) (fun _ _ => rfl)
    obtain ⟨count, frac⟩ := start.bond
    obtain ⟨counted, fraction⟩ := last.trans after |>.bond
    have made := bondRegion_bond v uw n k (4 * n + k)
    rw [if_pos rfl, bond_eq, Prod.mk.injEq, charge, count, frac] at made
    rw [if_pos rfl]
    exact ⟨fraction.trans made.2, counted.trans made.1⟩

theorem bondq_counted (s : State) (uw : List Nat) : Counted s (s.bondq uw) := by
  rw [bondq_eq]
  refine .foldl (fun t n => ?_) _ s
  unfold State.bondStall
  exact .ite (.refl t) (.foldl (fun t k => bondRegion_counted t uw n k) _ t)

end

/-! ## LIFE_UPDATE -/

section
variable {s : State} {h r : Nat}

/-- The values of the regions of hall h. -/
def regionValues (h : Nat) (f : Nat → Nat) : List Nat := ((List.range 256).map (fun i => 256 * h + i)).map f

/-- The largest value of the regions of hall h. -/
def regionTop (h : Nat) (f : Nat → Nat) : Nat := (regionValues h f).foldl max 0

theorem mem_regionValues {f : Nat → Nat} {v : Nat} : v ∈ regionValues h f ↔ ∃ r, r / 256 = h ∧ v = f r := by
  simp only [regionValues, List.map_map, List.mem_map, List.mem_range, Function.comp]
  constructor
  · rintro ⟨i, hi, rfl⟩
    exact ⟨_, by omega, rfl⟩
  · rintro ⟨r, hr, rfl⟩
    exact ⟨r % 256, by omega, congrArg f (by omega)⟩

theorem regionValues_ne_nil (h : Nat) (f : Nat → Nat) : regionValues h f ≠ [] := by simp [regionValues]

theorem regionTop_eq (h : Nat) (f : Nat → Nat) : regionTop h f = (regionValues h f).max (regionValues_ne_nil h f) :=
  (List.foldl_max_eq_max _).trans (Nat.zero_max _)

theorem le_regionTop (f : Nat → Nat) (hr : r / 256 = h) : f r ≤ regionTop h f := by
  rw [regionTop_eq]
  exact List.le_max_of_mem (mem_regionValues.2 ⟨r, hr, rfl⟩)

theorem regionTop_attained (f : Nat → Nat) (h : Nat) : ∃ r, r / 256 = h ∧ regionTop h f = f r := by
  rw [regionTop_eq]
  exact mem_regionValues.1 (List.max_mem _)

/-- The four fields of a LIFE word. -/
theorem pack_halves {a b c d : Nat} (ha : a < 65536) (hb : b < 65536) (hc : c < 65536) (hd : d < 65536) :
    let w := pack [(a, 0, 16), (b, 16, 16), (c, 32, 16), (d, 48, 16)]
    bitsOf w.toNat 0 16 = a ∧ bitsOf w.toNat 16 16 = b ∧ bitsOf w.toNat 32 16 = c ∧ bitsOf w.toNat 48 16 = d := by
  have value : (pack [(a, 0, 16), (b, 16, 16), (c, 32, 16), (d, 48, 16)]).toNat = a + b * 2 ^ 16 + c * 2 ^ 32 + d * 2 ^ 48 := by
    rw [pack, BitVec.toNat_ofNat, List.foldl_cons, List.foldl_cons, List.foldl_cons, List.foldl_cons, List.foldl_nil]
    dsimp only
    omega
  simp only [value, bitsOf]
  omega

theorem remainOf_lt (secs : Nat) (l : List Nat) : remainOf secs l < 65536 := by
  unfold remainOf
  extract_lets l
  split
  · decide
  · split <;> omega

/-- Nothing remains of a life whose indicator has reached 1,000 (18 R413). -/
theorem remainOf_reached (secs : Nat) {l : List Nat} {v : Nat} (hv : v ∈ l) (h : 1000 ≤ v) : remainOf secs l = 0 := by
  have mem : v ∈ l.filter (fun v => v ≠ 0) := List.mem_filter.2 ⟨hv, by simp; omega⟩
  unfold remainOf
  extract_lets l'
  rw [if_neg (List.ne_nil_of_mem mem), if_pos (List.any_eq_true.2 ⟨v, mem, decide_eq_true h⟩)]

/-- The indicators of hall h: electromigration, thermal cycles and spares (18 R413). -/
def State.lifeEm (s : State) (h : Nat) : Nat := min 0xFFFF (regionTop h (fun r => s.ledgerAt (regionRec r 2)) * 1000 / bondRated h)

def State.lifeTc (s : State) (h : Nat) : Nat :=
  min 0xFFFF (max (regionTop h (fun r => s.ledgerAt (regionRec r 1))) (s.ledgerAt (hallRec h 1)) * 1000 / tcRated h)

def State.lifeSp (s : State) (h : Nat) : Nat :=
  min 0xFFFF (regionTop h (fun r => ((s.sliceOf (r / 4)).map.filter (fun e => portRow e.row = r % 4)).length) * 1000 / 1024)

def State.lifeLeft (s : State) (h : Nat) : Nat := remainOf (s.ledgerAt (hallRec h 0)) [s.lifeEm h, s.lifeTc h, s.lifeSp h]

theorem lifeWord_eq (s : State) (h : Nat) :
    s.lifeWord h = pack [(s.lifeEm h, 0, 16), (s.lifeTc h, 16, 16), (s.lifeSp h, 32, 16), (s.lifeLeft h, 48, 16)] := rfl

theorem lifeWord_fields (s : State) (h : Nat) :
    bitsOf (s.lifeWord h).toNat 0 16 = s.lifeEm h ∧ bitsOf (s.lifeWord h).toNat 16 16 = s.lifeTc h ∧
    bitsOf (s.lifeWord h).toNat 32 16 = s.lifeSp h ∧ bitsOf (s.lifeWord h).toNat 48 16 = s.lifeLeft h := by
  rw [lifeWord_eq]
  have small : ∀ x, min 0xFFFF x < 65536 := fun x => by omega
  exact pack_halves (small _) (small _) (small _) (remainOf_lt ..)

theorem indicator_mono {a b rated : Nat} (h : a ≤ b) : min 65535 (a * 1000 / rated) ≤ min 65535 (b * 1000 / rated) :=
  min_le_min_left _ (Nat.div_le_div_right (Nat.mul_le_mul_right _ h))

theorem lifeEm_attained (s : State) (hh : h < 4) :
    ∃ r < 1024, r / 256 = h ∧ s.lifeEm h = min 65535 (s.ledgerAt (regionRec r 2) * 1000 / bondRated h) := by
  unfold State.lifeEm
  obtain ⟨r, hr, e⟩ := regionTop_attained (fun r => s.ledgerAt (regionRec r 2)) h
  rw [e]
  exact ⟨r, by omega, hr, rfl⟩

/-- LIFE_UPDATE rates each hall by the worst of its regions (18 R413). -/
theorem lifeUpdate_rates (s : State) : Completes (exec .lifeUpdate s) (fun t => t = { s with ledger := { s.ledger with life := t.ledger.life } } ∧
      ∀ h < 4, ∃ w, Tab.find t.ledger.life h = some w ∧
        (∀ r < 1024, r / 256 = h →
          min 65535 (s.ledgerAt (regionRec r 2) * 1000 / bondRated h) ≤ bitsOf w.toNat 0 16 ∧
          min 65535 (s.ledgerAt (regionRec r 1) * 1000 / tcRated h) ≤ bitsOf w.toNat 16 16) ∧
        (bitsOf w.toNat 0 16 = 0 ∨
          ∃ r < 1024, r / 256 = h ∧ bitsOf w.toNat 0 16 = min 65535 (s.ledgerAt (regionRec r 2) * 1000 / bondRated h)) ∧
        (1000 ≤ bitsOf w.toNat 0 16 ∨ 1000 ≤ bitsOf w.toNat 16 16 ∨ 1000 ≤ bitsOf w.toNat 32 16 → bitsOf w.toNat 48 16 = 0)) := by
  refine ⟨_, rfl, rfl, fun h hh => ⟨s.lifeWord h, find_paired _ (mem_threads4.2 hh), ?_⟩⟩
  obtain ⟨em, tc, sp, left⟩ := lifeWord_fields s h
  rw [em, tc, sp, left]
  refine ⟨fun r _ hr => ⟨?_, ?_⟩, Or.inr (lifeEm_attained s hh), fun reached => ?_⟩
  · exact indicator_mono (le_regionTop (fun r => s.ledgerAt (regionRec r 2)) hr)
  · exact indicator_mono (le_trans (le_regionTop (fun r => s.ledgerAt (regionRec r 1)) hr) (le_max_left ..))
  · rcases reached with reached | reached | reached
    · exact remainOf_reached _ (by simp) reached
    · exact remainOf_reached _ (by simp) reached
    · exact remainOf_reached _ (by simp) reached

end

/-! ## The statement -/

section
variable {s : State} {q : Req} {v : W32} {ok : Bool} {uw : List Nat}

theorem bondq_accumulates (s : State) (uw : List Nat) : Completes (exec (.bondqAccumulate uw) s) (fun t => t = { s with ledger := t.ledger } ∧
    ∀ n k, n < 256 → k < 4 →
      let r := 4 * n + k
      let f := Tab.get 0 s.ledger.frac r + s.bondCharge n k uw
      if (s.hall (n / 64)).rails = true then
        Tab.get 0 t.ledger.frac r = f % 1000000000 ∧ t.ledgerAt (regionRec r 2) = min (2 ^ 64 - 1) (s.ledgerAt (regionRec r 2) + f / 1000000000)
      else Tab.get 0 t.ledger.frac r = Tab.get 0 s.ledger.frac r ∧ t.ledgerAt (regionRec r 2) = s.ledgerAt (regionRec r 2)) :=
  ⟨s.bondq uw, rfl, bondq_counted s uw, fun _ _ hn hk => bondq_counts hn hk⟩

/-- RETIRECMD and SALVAGE, as a requester that reaches the setup page writes them (18 R404, R405). -/
theorem retire_and_salvage (hq : inReq q = true) :
    let n := fld32 v 0 8
    s.setupOpen q →
    (svcWriter q = false ∨ s.published = false → exec (.retireCmd q v) s = .next (s.accessError q 0 0x2118 4 true) ∧
      exec (.salvage q v) s = .next (s.accessError q 0 0x2110 4 true)) ∧
    (svcWriter q = true → s.published = true →
      (bit32 v 8 = false → exec (.retireCmd q v) s = .next (s.setRw32 0x2118 (BitVec.ofNat 32 n ||| (s.rw32 0x2118 &&& 0x100)))) ∧
      (bit32 v 8 = true → Completes (exec (.retireCmd q v) s) (fun t => t.rw32 0x2118 = BitVec.ofNat 32 n ||| 0x100 ∧
        (¬ s.retireFree n → t.svc.retStat = 0x24 ∧ t = { s with svc := t.svc, setup := t.setup } ∧ t.svc.retire = s.svc.retire) ∧
        (s.retireFree n → s.inStep n = true → t.svc.retStat = 0 ∧ t.svc.retire = s.svc.retire ++ [n] ∧
          t = { s with svc := t.svc, setup := t.setup }) ∧
        (s.retireFree n → s.inStep n = false → t.svc.retStat = 0 ∧ t.fpOf n = { state := 2, cause := 11 } ∧
          (∀ m, m ≠ n → t.fpOf m = s.fpOf m) ∧
          t.ledgerAt (stallRec n 6) = 11 ∧
          (s.pitchesQuiet → (∀ p, (s.jis1 p).slot = []) → t.mem.slice = s.mem.slice ∧ t.mem.far = s.mem.far)))) ∧
      (s.svc.salvBusy = true → exec (.salvage q v) s = .next s) ∧
      (s.svc.salvBusy = false → Completes (exec (.salvage q v) s) (fun t =>
        t.rw32 0x2110 = BitVec.ofNat 32 (fld32 v 0 16) ||| ((s.rw32 0x2110 ||| v) &&& 0x10000) ∧
        t = { s with svc := t.svc, setup := t.setup } ∧
        t.svc = (if bit32 v 16 = false then s.svc
          else if s.salvageOk (fld32 v 0 8) (fld32 v 8 8) = true then { s.svc with salvBusy := true } else { s.svc with salvStat := 0x24 })))) := by
  intro n ho
  refine ⟨service_refused hq ho, fun hw hp => ⟨fun h => ?_, fun h => retire_commanded hq ho hw hp h rfl, salvage_busy hq ho hw hp,
    salvage_commanded hq ho hw hp⟩⟩
  rw [retireCmd_eq hq ho, hw, hp, retireCmd_names h]
  rfl

/-- LEDGER_SNAPSHOT, LEDGER_RETRY and LEDGER_FLUSH (18 R409). -/
theorem ledger_kept (hq : inReq q = true) :
    let l := s.ledger
    let k := l.seq % 128
    let shot := fun (x : Instr) =>
      (ok = true → exec x s = .next { s with ledger := { l with
        snap := Tab.set l.snap k { seq := l.seq, cal := s.calendar, time := s.time, cnt := l.cnt, flags := l.flags }
        seq := l.seq + 1, fault := false, due := false } }) ∧
      (ok = false → exec x s = .next { s with ledger := { l with snap := Tab.del l.snap k, fault := true } })
    (s.pairActive 1 = false → exec (.ledgerSnapshot ok) s = .next s ∧ exec (.ledgerRetry ok) s = .next s) ∧
    (l.fault = false → exec (.ledgerRetry ok) s = .next s) ∧
    (s.pairActive 1 = true → shot (.ledgerSnapshot ok) ∧ (l.fault = true → shot (.ledgerRetry ok))) ∧
    (s.setupOpen q →
      (svcWriter q = false → exec (.ledgerFlush q) s = .next (s.accessError q 0 0x2100 4 true)) ∧
      (svcWriter q = true → (∃ u, l.flushed = some u ∧ s.time < u + 60000000000) → exec (.ledgerFlush q) s = .next s) ∧
      (svcWriter q = true → (∀ u, l.flushed = some u → u + 60000000000 ≤ s.time) →
        exec (.ledgerFlush q) s = .next { s with ledger := { l with due := true, flushed := some s.time } })) := by
  intro l k shot
  obtain ⟨taken, lost⟩ := snapshot_eq s ok
  refine ⟨snapshots_still, retry_still, fun active => ⟨?_, fun fault => ?_⟩, ledgerFlush_flushes hq⟩
  · have done : exec (.ledgerSnapshot ok) s = .next (s.snapshot ok) := by rw [ledgerSnapshot_eq, if_pos active]
    exact ⟨fun h => done.trans (congrArg _ (taken h)), fun h => done.trans (congrArg _ (lost h))⟩
  · have done : exec (.ledgerRetry ok) s = .next (s.snapshot ok) := by rw [ledgerRetry_eq, if_pos ⟨active, fault⟩]
    exact ⟨fun h => done.trans (congrArg _ (taken h)), fun h => done.trans (congrArg _ (lost h))⟩

end

/-- Settles O55: each command is taken by its own lemma above. A failure is followed through the state in which the member has fallen, a
takeover through the one in which its standby is promoted, a retirement through its four stages, a salvage line by line, and a sample
counter by counter. -/
theorem serviceProcessorsFailTakeOverAndCount : Obligations.ServiceProcessorsFailTakeOverAndCount := by
  unfold Obligations.ServiceProcessorsFailTakeOverAndCount
  intro s q i c ce v bad uw ok hq hi hc still x o sat others
  refine ⟨service_still hi, heartbeatTimeout_early hi, fun h => ?_, fun e he => ?_, checkpoint_still hc, checkpoint_commits hc,
    restart_still hi ok, restart_ends hi ok, retire_and_salvage hq, salvaged_still, fun busy => ?_, ledger_kept hq, ledgerSample_still,
    ledgerSample_counts, bondq_accumulates s uw, lifeUpdate_rates s⟩
  · obtain ⟨t, done, rest, beat, same, set⟩ := heartbeat_beats hi h
    exact ⟨t, done, rest, beat, fun m hm _ => same m hm, set⟩
  · exact ⟨failure_of_standby hi he, failure_without_standby hi he, failure_on_platform hi he, failure_on_service hi he⟩
  · exact ⟨salvaged_refused busy, salvaged_ends busy⟩

end Sys2Proof.Machine
end

section
/-!
SUPPORT. The scalar half of a pair that writes a register, and the results of the two-operand forms of OPR (06 R130 to R132), up to the
statement OprWritesItsResult.
-/
namespace Sys2Proof.Machine

/-! ## A scalar half that writes a register -/

section
variable {s : State} {n k : Nat}

theorem atScalar_units (h : s.atScalar n k) : (inStall n && inThread k) = true := by
  obtain ⟨hn, hk, -⟩ := h
  simp [inStall, inThread, hn, hk]

/-- A thread that comes next to a scalar half does it: neither an exception due nor an unreadable fetch comes first (06 R130, R140). -/
theorem scalar_of_atScalar (h : s.atScalar n k) (f : Thread → State) : s.scalar n k f = f (s.thread n k) := by
  obtain ⟨-, -, running, first, going, quiet, fetched⟩ := h
  simp [State.scalar, running, first, going, quiet, fetched]

theorem scalarDone_gr (s : State) (n k : Nat) (x : Thread) (next : Word) (r : Nat) :
    ((s.scalarDone n k x next).thread n k).gr r = x.gr r := by
  rw [State.scalarDone, State.thread_setThread_same]
  rfl

theorem scalarDone_setG_writes (s : State) (n k rd : Nat) (v next : Word) :
    ScalarWrites s n k rd v next (s.thread n k).flow (s.scalarDone n k ((s.thread n k).setG rd v) next) := by
  refine ⟨?_, fun hrd => ?_, fun r hr => ?_⟩
  · rw [State.scalarDone, State.thread_setThread_same, Thread.setG]
    split <;> rfl
  · rw [scalarDone_gr, Thread.gr_setG, if_pos ⟨rfl, hrd⟩]
  · rw [scalarDone_gr, Thread.gr_setG, if_neg (fun same => hr same.1)]

/-- A two-operand form of OPR writes RD with the value that its operation gives on RA and RB. -/
theorem alu_writes (h : s.atScalar n k) {rd ra rb : BitVec 5} {f : Word → Word → Word} {v : Word}
    (value : f ((s.thread n k).gr ra.toNat) ((s.thread n k).gr rb.toNat) = v) :
    Completes (run (inStall n && inThread k) (s.alu n k rd ra rb f))
      (ScalarWrites s n k rd.toNat v ((s.thread n k).pc + 16) (s.thread n k).flow) := by
  rw [atScalar_units h, run_true, State.alu, scalar_of_atScalar h, value]
  exact ⟨_, rfl, scalarDone_setG_writes ..⟩

end

/-! ## The results as integers (06 R132) -/

section
variable (a b : Word)

theorem sshiftRight_eq_ofInt (i : Nat) : a.sshiftRight i = BitVec.ofInt 64 (a.toInt / 2 ^ i) := by
  rw [BitVec.sshiftRight_eq, Int.shiftRight_eq_div_pow, Nat.cast_pow, Nat.cast_ofNat]

theorem ite_slt {α : Type} (x y : α) : (if a.slt b then x else y) = if a.toInt < b.toInt then x else y :=
  if_congr BitVec.slt_iff_toInt_lt rfl rfl

theorem ite_ult {α : Type} (x y : α) : (if a.ult b then x else y) = if a.toNat < b.toNat then x else y :=
  if_congr BitVec.ult_iff_toNat_lt rfl rfl

theorem mulHi_natCast (m l : Nat) : mulHi (m : Int) (l : Int) = BitVec.ofNat 64 (m * l / 2 ^ 64) := by
  rw [mulHi, ← BitVec.ofInt_natCast]
  norm_cast

theorem sdiv_eq_ofInt : a.sdiv b = BitVec.ofInt 64 (a.toInt.tdiv b.toInt) :=
  BitVec.eq_of_toInt_eq (by rw [BitVec.toInt_sdiv, BitVec.toInt_ofInt])

theorem srem_eq_ofInt : a.srem b = BitVec.ofInt 64 (a.toInt.tmod b.toInt) := by
  rw [← BitVec.toInt_srem, BitVec.ofInt_toInt]

/-- DIV: the one quotient that overflows is −2^63. -/
theorem divS_eq : divS a b = if b = 0 then BitVec.allOnes 64
    else if a = BitVec.intMin 64 ∧ b = BitVec.allOnes 64 then BitVec.intMin 64 else BitVec.ofInt 64 (a.toInt.tdiv b.toInt) := by
  have overflow : (BitVec.intMin 64).sdiv (BitVec.allOnes 64) = BitVec.intMin 64 := by decide
  rw [divS, ← sdiv_eq_ofInt]
  split_ifs with zero min
  · rfl
  · rw [min.1, min.2, overflow]
  · rfl

/-- REM: the remainder of the quotient that overflows is 0. -/
theorem remS_eq : remS a b = if b = 0 then a
    else if a = BitVec.intMin 64 ∧ b = BitVec.allOnes 64 then 0 else BitVec.ofInt 64 (a.toInt.tmod b.toInt) := by
  have overflow : (BitVec.intMin 64).srem (BitVec.allOnes 64) = 0 := by decide
  rw [remS, ← srem_eq_ofInt]
  split_ifs with zero min
  · rfl
  · rw [min.1, min.2, overflow]
  · rfl

theorem divU_eq : divU a b = if b = 0 then BitVec.allOnes 64 else BitVec.ofNat 64 (a.toNat / b.toNat) := by
  rw [divU, ← BitVec.toNat_udiv, BitVec.ofNat_toNat, BitVec.setWidth_eq]

theorem remU_eq : remU a b = if b = 0 then a else BitVec.ofNat 64 (a.toNat % b.toNat) := by
  rw [remU, ← BitVec.toNat_umod, BitVec.ofNat_toNat, BitVec.setWidth_eq]

end

/-- Settles O6: each form is an `alu` whose operation gives the value stated; the sums, the logic, the logical shifts, MUL and MULH by
definition, the others by the lemma about their result. -/
theorem oprWritesItsResult : Obligations.OprWritesItsResult := by
  unfold Obligations.OprWritesItsResult
  intro s n k rd ra rb h a b w
  exact ⟨alu_writes h rfl, alu_writes h rfl, alu_writes h rfl, alu_writes h rfl, alu_writes h rfl,
    alu_writes h rfl, alu_writes h rfl, alu_writes h (sshiftRight_eq_ofInt ..),
    alu_writes h (ite_slt ..), alu_writes h (ite_ult ..),
    alu_writes h rfl, alu_writes h rfl, alu_writes h (mulHi_natCast ..),
    alu_writes h (divS_eq ..), alu_writes h (divU_eq ..), alu_writes h (remS_eq ..), alu_writes h (remU_eq ..),
    alu_writes h (ite_slt ..), alu_writes h (ite_slt ..), alu_writes h (ite_ult ..), alu_writes h (ite_ult ..)⟩

end Sys2Proof.Machine
end

section
/-!
SUPPORT. The transfer, verification, activation, confirmation and cancelling of firmware images, by PLDM and by the mailbox (19 R419 to R425,
R429, R430; 21 R464), up to the statement FirmwareUpdatesTransferVerifyAndActivate.
-/
namespace Sys2Proof.Machine

/-! ## Images and the boot record -/

section
variable {s t : State} {i : Nat} {l : List Byte}

/-- A slot of the flash is programmed: the images of the others stay. -/
theorem imageOf_of_slot (h : t.fw.slot = Tab.set s.fw.slot i l) (j : Nat) : t.imageOf j = if j = i then l else s.imageOf j := by
  unfold State.imageOf
  rw [h, Tab.get_set]

theorem imageOf_congr (h : t.fw.slot = s.fw.slot) (j : Nat) : t.imageOf j = s.imageOf j := by
  unfold State.imageOf
  rw [h]

/-- The boot record with SLOTSTATE of slot i written. -/
def BootRec.mark (r : BootRec) (i v : Nat) : BootRec := { r with slots := r.slots.set i v, gen := r.gen + 1 }

theorem getD_set_same {α : Type} (l : List α) (i : Nat) (v d : α) : (l.set i v).getD i d = if i < l.length then v else d := by
  rw [List.getD_eq_getElem?_getD, List.getElem?_set_self']
  by_cases h : i < l.length <;> simp [h]

theorem getD_set_ne {α : Type} (l : List α) {i j : Nat} (v d : α) (h : j ≠ i) : (l.set i v).getD j d = l.getD j d := by
  rw [List.getD_eq_getElem?_getD, List.getElem?_set_ne h.symm, List.getD_eq_getElem?_getD]

end

/-! ## Failure and verification of an update -/

/-- t is s with the update ended by LASTERR c, the slot it was writing invalid (19 R421). -/
def UpdateFailed (s t : State) (c : Nat) : Prop :=
  t.fw.upd = 0 ∧ t.fw.pldm = 0 ∧ t.fw.ready = [] ∧ t.fw.lasterr = c ∧ t.fw.slot = s.fw.slot ∧
  t.fw.rec_ = if s.fw.upd = 1 ∨ s.fw.upd = 2 then s.fw.rec_.mark s.fw.upSlot 0 else s.fw.rec_

theorem failUpdate_fails (s : State) (c : Nat) : UpdateFailed s (s.failUpdate c) c := by
  unfold State.failUpdate UpdateFailed
  split <;> exact ⟨rfl, rfl, rfl, rfl, rfl, rfl⟩

theorem failUpdate_booted (s : State) (c : Nat) : Booted s (s.failUpdate c) := by
  unfold State.failUpdate
  split <;> rfl

/-- What verification that finds `e` leaves of slot i (19 R418, R422). -/
def Verified (s t : State) (i : Nat) (e : Option Nat) : Prop :=
  (e = none → t.fw.upd = 3 ∧ t.fw.lasterr = s.fw.lasterr) ∧ (∀ c, e = some c → t.fw.upd = 0 ∧ t.fw.lasterr = c) ∧
  t.fw.rec_.slots.getD i 9 = if i < s.fw.rec_.slots.length then (if e = none then 2 else 0) else 9

/-- Verification writes UPD, LASTERR and the boot record alone. -/
theorem verify_eq (s : State) : s.verify = { s with fw := { s.fw with
    upd := if s.verifyImage s.fw.upSlot = none then 3 else 0
    lasterr := (s.verifyImage s.fw.upSlot).getD s.fw.lasterr
    rec_ := s.fw.rec_.mark s.fw.upSlot (if s.verifyImage s.fw.upSlot = none then 2 else 0) } } := by
  unfold State.verify
  split <;> simp only [*] <;> rfl

theorem verify_verified (s : State) : Verified s s.verify s.fw.upSlot (s.verifyImage s.fw.upSlot) := by
  rw [verify_eq]
  refine ⟨fun h => ?_, fun c h => ?_, getD_set_same ..⟩
  · simp [h]
  · simp [h]

theorem verify_upd_eq_three (s : State) : s.verify.fw.upd = 3 ↔ s.verifyImage s.fw.upSlot = none := by
  rw [verify_eq]
  split <;> simp [*]

/-! ## The endpoint (19 R419, R421) -/

section
variable {s : State} {f : State → State} {n : Nat}

theorem pldmTry_down (h : s.mctpUp = false) : run true (s.pldmTry f) = .next s := by simp [State.pldmTry, h]

theorem pldmTry_up (h : s.mctpUp = true) : run true (s.pldmTry f) = .next (f s) := by simp [State.pldmTry, h]

theorem pldmAt_idle (h : s.mctpUp = true) (hp : s.fw.pldm = 0) : run true (s.pldmAt n f) = .next (s.pldm 0x80 []) :=
  (pldmTry_up h).trans (by rw [if_pos hp])

theorem pldmAt_otherStage (h : s.mctpUp = true) (hp : s.fw.pldm ≠ 0) (hn : s.fw.pldm ≠ n) :
    run true (s.pldmAt n f) = .next (s.pldm 0x84 []) :=
  (pldmTry_up h).trans (by rw [if_neg hp, if_pos hn])

theorem pldmAt_stage (h : s.mctpUp = true) (hp : s.fw.pldm = n) (hn : n ≠ 0) : run true (s.pldmAt n f) = .next (f s) :=
  (pldmTry_up h).trans (by rw [if_neg (by omega), if_neg (by omega)])

end

section
variable {s : State} {comp size off : Nat} {comps : List Nat} {data : List Byte}

/-- Where no endpoint answers, a PLDM command has no effect. -/
theorem pldm_unheard (h : s.mctpUp = false) :
    exec .queryDeviceIdentifiers s = .next s ∧ exec .getFirmwareParameters s = .next s ∧ exec .requestUpdate s = .next s ∧
    exec (.passComponentTable comps) s = .next s ∧ exec (.updateComponent comp size) s = .next s ∧
    exec (.requestFirmwareData off data) s = .next s ∧ exec .transferComplete s = .next s ∧ exec .verifyComplete s = .next s ∧
    exec .applyComplete s = .next s ∧ exec .activateFirmware s = .next s ∧ exec .getStatus s = .next s ∧ exec .cancelUpdate s = .next s := by
  refine ⟨?_, ?_, ?_, ?_, ?_, ?_, ?_, ?_, ?_, ?_, ?_, ?_⟩ <;> exact pldmTry_down h

/-- The inventory commands and GET_STATUS (19 R419). -/
theorem pldm_queries (h : s.mctpUp = true) :
    exec .queryDeviceIdentifiers s = .next (s.pldm 0 (toLE 8 Config.ident.toNat)) ∧
    exec .getStatus s = .next (s.pldm 0 (toLE 1 s.fw.pldm ++ toLE 1 s.updCode ++ toLE 1 s.fw.lasterr)) ∧
    exec .getFirmwareParameters s = .next (s.pldm 0
      (toLE 2 1 ++ toLE 4 (s.versionIn 0 s.fw.gslot) ++ toLE 4 (s.versionIn 0 (some (s.fw.rec_.pend.getD 0 255))) ++
       (toLE 2 2 ++ toLE 4 (s.versionIn 1 s.fw.jslot) ++ toLE 4 (s.versionIn 1 (some (s.fw.rec_.pend.getD 1 255)))))) := by
  refine ⟨pldmTry_up h, pldmTry_up h, (pldmTry_up h).trans ?_⟩
  rw [List.flatMap_cons, List.flatMap_cons, List.flatMap_nil, List.append_nil]
  rfl

theorem requestUpdate_busy (h : s.mctpUp = true) (hb : s.updBusy = true ∨ s.fw.pldm ≠ 0) :
    exec .requestUpdate s = .next { s with fw := { s.fw with lasterr := 0x24 }, out := .resp 0x81 [] } :=
  (pldmTry_up h).trans (by rw [if_pos hb]; rfl)

theorem requestUpdate_opens (h : s.mctpUp = true) (hb : s.updBusy = false) (hp : s.fw.pldm = 0) :
    exec .requestUpdate s = .next { s with fw := { s.fw with pldm := 1, ready := [], upMbox := false }, out := .resp 0 [] } :=
  (pldmTry_up h).trans (by rw [if_neg (by simp [hb, hp])]; rfl)

/-- Outside a session the commands of one are answered 0x80. -/
theorem pldm_noSession (h : s.mctpUp = true) (hp : s.fw.pldm = 0) :
    exec (.passComponentTable comps) s = .next (s.pldm 0x80 []) ∧ exec (.updateComponent comp size) s = .next (s.pldm 0x80 []) ∧
    exec .activateFirmware s = .next (s.pldm 0x80 []) ∧ exec .cancelUpdate s = .next (s.pldm 0x80 []) :=
  ⟨pldmAt_idle h hp, pldmAt_idle h hp, pldmAt_idle h hp, (pldmTry_up h).trans (by rw [if_pos hp])⟩

theorem passComponentTable_passed (h : s.mctpUp = true) (hp : s.fw.pldm = 1) :
    exec (.passComponentTable comps) s = .next { s with
      fw := { s.fw with pldm := 2 }, out := .resp 0 (comps.map (fun c => if c = 1 ∨ c = 2 then 0 else 1)) } :=
  pldmAt_stage h hp (by decide)

/-! ### UPDATE_COMPONENT -/

theorem updateComponent_unknown (h : s.mctpUp = true) (hp : s.fw.pldm = 2) (h1 : comp ≠ 1) (h2 : comp ≠ 2) :
    exec (.updateComponent comp size) s = .next (s.pldm 0 [1]) :=
  (pldmAt_stage h hp (by decide)).trans (by rw [if_pos ⟨h1, h2⟩])

theorem updateComponent_tooLarge (h : s.mctpUp = true) (hp : s.fw.pldm = 2) (hc : comp = 1 ∨ comp = 2) {i : Nat}
    (hi : i = 2 * (comp - 1) + s.inactive (comp - 1)) (hs : slotBytes i < size) :
    Completes (exec (.updateComponent comp size) s) (fun t => t.fw.pldm = 0 ∧ t.fw.lasterr = 0x21 ∧
      t.fw.rec_ = s.fw.rec_.mark i 0 ∧ t.out = .resp 0 [1] ∧ t.fw.slot = s.fw.slot) := by
  subst hi
  exact ⟨_, (pldmAt_stage h hp (by decide)).trans (congrArg _ ((if_neg (by omega)).trans (if_pos hs))), rfl, rfl, rfl, rfl, rfl⟩

/-- A component's download into slot i, as its session begins. -/
def State.downloading (s : State) (i size : Nat) : State := { s with
  out := .resp 0 [0]
  fw := { s.fw with
    rec_ := s.fw.rec_.mark i 1, upd := 1, upSlot := i, upLen := size, upGot := 0, upMbox := false, slot := Tab.set s.fw.slot i [], pldm := 3
    ready := s.fw.ready.filter (· ≠ i) } }

theorem beginDownload_eq (s : State) (i len : Nat) (mbox : Bool) : s.beginDownload i len mbox = { s with fw := { s.fw with
    rec_ := s.fw.rec_.mark i 1, upd := 1, upSlot := i, upLen := len, upGot := 0, upMbox := mbox, slot := Tab.set s.fw.slot i [] } } := rfl

theorem updateComponent_eq (h : s.mctpUp = true) (hp : s.fw.pldm = 2) (hc : comp = 1 ∨ comp = 2) {i : Nat}
    (hi : i = 2 * (comp - 1) + s.inactive (comp - 1)) (hs : size ≤ slotBytes i) :
    exec (.updateComponent comp size) s = .next (s.downloading i size).askBlock := by
  subst hi
  refine (pldmAt_stage h hp (by decide)).trans ?_
  rw [if_neg (by omega), if_neg (by omega), beginDownload_eq]
  rfl

/-- The request for the next block goes out where a block is missing. -/
theorem askBlock_eq (s : State) : s.askBlock = { s with outbox := s.outbox ++ if s.fw.upGot < s.fw.upLen then
    [.pldm (toLE 1 0x15 ++ toLE 4 s.fw.upGot ++ toLE 4 (min 4096 (s.fw.upLen - s.fw.upGot)))] else [] } := by
  unfold State.askBlock
  split
  · rfl
  · rw [List.append_nil]

theorem updateComponent_begins (h : s.mctpUp = true) (hp : s.fw.pldm = 2) (hc : comp = 1 ∨ comp = 2) {i : Nat}
    (hi : i = 2 * (comp - 1) + s.inactive (comp - 1)) (hs : size ≤ slotBytes i) :
    Completes (exec (.updateComponent comp size) s) (fun t => t = { s with fw := t.fw, outbox := t.outbox, out := .resp 0 [0] } ∧
      t.fw.upd = 1 ∧ t.fw.pldm = 3 ∧ t.fw.upSlot = i ∧ t.fw.upLen = size ∧ t.fw.upGot = 0 ∧ t.imageOf i = [] ∧
      (∀ j, j ≠ i → t.imageOf j = s.imageOf j) ∧ t.fw.rec_ = s.fw.rec_.mark i 1 ∧
      t.outbox = s.outbox ++ (if size = 0 then [] else [.pldm (toLE 1 0x15 ++ toLE 4 0 ++ toLE 4 (min 4096 size))])) := by
  rw [updateComponent_eq h hp hc hi hs, askBlock_eq]
  refine ⟨_, rfl, rfl, rfl, rfl, rfl, rfl, rfl, Tab.get_set_same .., fun j hj => Tab.get_set_ne _ _ _ hj, rfl, congrArg (s.outbox ++ ·) ?_⟩
  cases size with
  | zero => rfl
  | succ k => rfl

/-! ### The data and its end -/

/-- The block that was asked for (19 R421). -/
def State.asked (s : State) (off : Nat) (data : List Byte) : Prop :=
  s.fw.pldm = 3 ∧ s.fw.upd = 1 ∧ off = s.fw.upGot ∧ data.length = min 4096 (s.fw.upLen - s.fw.upGot) ∧ data ≠ []

theorem requestFirmwareData_dropped (h : s.mctpUp = true) (ha : ¬ s.asked off data) : exec (.requestFirmwareData off data) s = .next s :=
  (pldmTry_up h).trans (congrArg _ (if_neg ha))

theorem requestFirmwareData_programs (h : s.mctpUp = true) (ha : s.asked off data) :
    Completes (exec (.requestFirmwareData off data) s) (fun t => t.imageOf s.fw.upSlot = s.imageOf s.fw.upSlot ++ data ∧
      (∀ j, j ≠ s.fw.upSlot → t.imageOf j = s.imageOf j) ∧
      t = { s with outbox := t.outbox, fw := { s.fw with slot := t.fw.slot, upGot := s.fw.upGot + data.length } } ∧
      (s.fw.upGot + data.length < s.fw.upLen → ∃ d, t.outbox = s.outbox ++ [.pldm d]) ∧
      (s.fw.upLen ≤ s.fw.upGot + data.length → t.outbox = s.outbox)) := by
  refine ⟨_, (pldmTry_up h).trans (congrArg _ ((if_pos ha).trans (askBlock_eq _))), Tab.get_set_same .., fun j hj => Tab.get_set_ne _ _ _ hj, rfl,
    fun hl => ⟨_, congrArg (s.outbox ++ ·) (if_pos hl)⟩, fun hl => ?_⟩
  exact (congrArg (s.outbox ++ ·) (if_neg (by exact Nat.not_lt.mpr hl))).trans (List.append_nil _)

theorem transferComplete_early (h : s.mctpUp = true) (ha : ¬ (s.fw.pldm = 3 ∧ s.fw.upd = 1 ∧ s.fw.upLen ≤ s.fw.upGot)) :
    exec .transferComplete s = .next s :=
  (pldmTry_up h).trans (congrArg _ (if_neg ha))

theorem transferComplete_verifies (h : s.mctpUp = true) (hp : s.fw.pldm = 3) (hu : s.fw.upd = 1) (hl : s.fw.upLen ≤ s.fw.upGot) :
    Completes (exec .transferComplete s) (fun t => Verified s t s.fw.upSlot (s.verifyImage s.fw.upSlot) ∧ t.fw.pldm = 4 ∧
      t.fw.ready = (if s.verifyImage s.fw.upSlot = none then s.fw.ready ++ [s.fw.upSlot] else s.fw.ready) ∧ t.fw.slot = s.fw.slot ∧
      t = { s with fw := t.fw, outbox := s.outbox ++ [.pldm [0x16, 0]] }) := by
  refine ⟨_, (pldmTry_up h).trans (congrArg _ (if_pos ⟨hp, hu, hl⟩)), verify_verified s, rfl, ?_, ?_, ?_⟩
  · simp only [verify_upd_eq_three]
    rw [verify_eq]
    rfl
  · rw [verify_eq]
    rfl
  · rw [verify_eq]
    rfl

theorem verifyComplete_early (h : s.mctpUp = true) (hp : s.fw.pldm ≠ 4) : exec .verifyComplete s = .next s :=
  (pldmTry_up h).trans (congrArg _ (if_pos hp))

theorem verifyComplete_reports (h : s.mctpUp = true) (hp : s.fw.pldm = 4) :
    exec .verifyComplete s = .next { s with
      fw := if s.fw.upd = 3 then { s.fw with pldm := 5 } else { s.fw with pldm := 0, ready := [] }
      outbox := s.outbox ++ [.pldm [0x17, if s.fw.upd = 3 then 0 else 1]] } := by
  refine (pldmTry_up h).trans (congrArg _ ((if_neg (not_not.mpr hp)).trans ?_))
  split <;> rfl

theorem applyComplete_early (h : s.mctpUp = true) (hp : s.fw.pldm ≠ 5) : exec .applyComplete s = .next s :=
  (pldmTry_up h).trans (congrArg _ (if_neg hp))

theorem applyComplete_reports (h : s.mctpUp = true) (hp : s.fw.pldm = 5) :
    exec .applyComplete s = .next { s with fw := { s.fw with pldm := 2 }, outbox := s.outbox ++ [.pldm [0x18, 0]] } :=
  (pldmTry_up h).trans (congrArg _ (if_pos hp))

end

/-! ## Activation (19 R422, R425) -/

section
variable {s t u : State} {i j k : Nat}

/-- t is s with slots made pending. -/
def Activated (s t : State) : Prop :=
  t = { s with fw := { s.fw with rec_ := { t.fw.rec_ with slots := s.fw.rec_.slots, run := s.fw.rec_.run } } }

theorem Activated.refl (s : State) : Activated s s := rfl

theorem Activated.trans (h : Activated s t) (g : Activated t u) : Activated s u := by
  unfold Activated at h g ⊢
  rw [g, h]

theorem activate_foldl_activated (l : List Nat) (s : State) : Activated s (l.foldl State.activate s) := by
  induction l generalizing s with
  | nil => exact .refl s
  | cons i l ih => exact Activated.trans (t := s.activate i) rfl (ih _)

/-- Slot i is pending with three tries. -/
def State.pendsOn (s : State) (i : Nat) : Prop := s.fw.rec_.pend.getD (i / 2) 9 = i % 2 ∧ s.fw.rec_.tries.getD (i / 2) 9 = 3

/-- The boot record has a PENDING and a TRIES for each of the two components. -/
def State.recordWhole (s : State) : Prop := s.fw.rec_.pend.length = 2 ∧ s.fw.rec_.tries.length = 2

theorem activate_recordWhole (h : s.recordWhole) (j : Nat) : (s.activate j).recordWhole := by
  obtain ⟨hp, ht⟩ := h
  exact ⟨List.length_set.trans hp, List.length_set.trans ht⟩

theorem activate_pendsOn (h : s.recordWhole) (hi : i < 4) : (s.activate i).pendsOn i := by
  obtain ⟨hp, ht⟩ := h
  exact ⟨(getD_set_same ..).trans (if_pos (by omega)), (getD_set_same ..).trans (if_pos (by omega))⟩

theorem pendsOn_activate_of_ne (h : s.pendsOn i) (hj : j / 2 ≠ i / 2) : (s.activate j).pendsOn i := by
  obtain ⟨hp, ht⟩ := h
  exact ⟨(getD_set_ne _ _ _ hj.symm).trans hp, (getD_set_ne _ _ _ hj.symm).trans ht⟩

/-- Of slots activated in turn, the only one of its component is pending after the last. -/
theorem activate_foldl_pendsOn (l : List Nat) (hw : s.recordWhole) (hi : i < 4) (only : ∀ j ∈ l, j / 2 = i / 2 → j = i)
    (h : i ∈ l ∨ s.pendsOn i) : (l.foldl State.activate s).pendsOn i := by
  induction l generalizing s with
  | nil => exact h.resolve_left List.not_mem_nil
  | cons j l ih =>
    refine ih (activate_recordWhole hw j) (fun m hm => only m (List.mem_cons_of_mem j hm)) ?_
    by_cases hj : j / 2 = i / 2
    · obtain rfl := only j List.mem_cons_self hj
      exact .inr (activate_pendsOn hw hi)
    · rcases h with h | h
      · exact .inl ((List.mem_cons.mp h).resolve_left (fun e => hj (e ▸ rfl)))
      · exact .inr (pendsOn_activate_of_ne h hj)

/-- s with standby k restarting for an online activation (19 R425). -/
def State.restarting (s : State) (k : Nat) : State :=
  { s with svc := { s.svc with sp := Tab.set s.svc.sp k { s.sp k with role := 1 }, online := some k } }

theorem restarting_sp (s : State) (k m : Nat) : (s.restarting k).sp m = if m = k then { s.sp k with role := 1 } else s.sp m := Tab.get_set ..

theorem onlineStart_none (h : ∀ k < 2, (s.sp k).role ≠ 2) : s.onlineStart = none := by
  simp [State.onlineStart, h 0, h 1]

theorem onlineStart_standby (hk : k < 2) (h : (s.sp k).role = 2) (first : ∀ j < k, (s.sp j).role ≠ 2) :
    s.onlineStart = some (s.restarting k) := by
  have found : [0, 1].find? (fun i => decide ((s.sp i).role = 2)) = some k := by
    interval_cases k
    · simp [h]
    · simp [h, first 0]
  unfold State.onlineStart
  rw [found]
  rfl

theorem onlineStart_rest (h : s.onlineStart = some t) : t = { s with svc := t.svc } := by
  obtain ⟨k, -, rfl⟩ := Option.map_eq_some_iff.mp h
  rfl

/-- s after the start of an online activation, where there is a standby (19 R425). -/
def State.online (s : State) : State := s.onlineStart.getD s

theorem online_rest (s : State) : s.online = { s with svc := s.online.svc } := by
  unfold State.online
  cases h : s.onlineStart with
  | none => rfl
  | some t => exact onlineStart_rest h

end

section
variable {s : State}

theorem activateFirmware_nothing (h : s.mctpUp = true) (hp : s.fw.pldm = 2) (hr : s.fw.ready = []) :
    exec .activateFirmware s = .next (s.pldm 0x85 []) :=
  (pldmAt_stage h hp (by decide)).trans (congrArg _ (if_pos hr))

/-- The slots of the session activated, and a Jisan slot among them online where the device offers it. -/
def State.sessionActive (s : State) : State :=
  let t := s.fw.ready.foldl State.activate s
  if s.fw.ready.any (fun i => 2 ≤ i) && !t.onlineOff then t.online else t

theorem activateFirmware_eq (h : s.mctpUp = true) (hp : s.fw.pldm = 2) (hr : s.fw.ready ≠ []) : exec .activateFirmware s =
    .next { s.sessionActive with fw := { s.sessionActive.fw with pldm := 0, ready := [] }, out := .resp 0 [0, 0] } :=
  (pldmAt_stage h hp (by decide)).trans (congrArg _ (if_neg hr))

theorem sessionActive_rest (s : State) : s.sessionActive = { s.fw.ready.foldl State.activate s with svc := s.sessionActive.svc } := by
  unfold State.sessionActive
  extract_lets t
  split
  · exact online_rest t
  · rfl

/-- Without a Jisan slot, or where online activation is disabled, no service processor restarts. -/
theorem sessionActive_offline (h : (∀ i ∈ s.fw.ready, i < 2) ∨ s.onlineOff = true) : s.sessionActive.svc = s.svc := by
  have same := activate_foldl_activated s.fw.ready s
  unfold State.sessionActive
  extract_lets t
  have off : t.onlineOff = s.onlineOff := by rw [show t = _ from same]; rfl
  rw [if_neg, show t = _ from same]
  simp only [off, Bool.and_eq_true, List.any_eq_true, decide_eq_true_eq, Bool.not_eq_true']
  rintro ⟨⟨i, hi, two⟩, ho⟩
  rcases h with h | h
  · exact absurd (h i hi) (by omega)
  · rw [h] at ho
    cases ho

theorem sessionActive_online {k : Nat} (hj : ∃ i ∈ s.fw.ready, 2 ≤ i) (ho : s.onlineOff = false) (hk : k < 2) (h : (s.sp k).role = 2)
    (first : ∀ j < k, (s.sp j).role ≠ 2) : s.sessionActive.svc.online = some k ∧ (s.sessionActive.sp k).role = 1 := by
  have same := activate_foldl_activated s.fw.ready s
  unfold State.sessionActive
  extract_lets t
  have off : t.onlineOff = s.onlineOff := by rw [show t = _ from same]; rfl
  have members : ∀ m, t.sp m = s.sp m := sp_congr (by rw [show t = _ from same])
  have started : t.onlineStart = some (t.restarting k) :=
    onlineStart_standby hk (by rw [members, h]) (fun j hj => by rw [members]; exact first j hj)
  have online : t.online = t.restarting k := by rw [State.online, started]; rfl
  rw [if_pos (by simpa [off, ho] using hj), online, restarting_sp, if_pos rfl]
  exact ⟨rfl, rfl⟩

theorem activateFirmware_activates (h : s.mctpUp = true) (hp : s.fw.pldm = 2) (hr : s.fw.ready ≠ []) :
    Completes (exec .activateFirmware s) (fun t => t.fw.pldm = 0 ∧ t.fw.ready = [] ∧ t.out = .resp 0 [0, 0] ∧
      t = { s with fw := t.fw, svc := t.svc, out := t.out } ∧ t.fw.slot = s.fw.slot ∧ t.fw.rec_.slots = s.fw.rec_.slots ∧
      t.fw.rec_.run = s.fw.rec_.run ∧
      (∀ i ∈ s.fw.ready, i < 4 → s.fw.rec_.pend.length = 2 → s.fw.rec_.tries.length = 2 → (∀ j ∈ s.fw.ready, j / 2 = i / 2 → j = i) →
        t.fw.rec_.pend.getD (i / 2) 9 = i % 2 ∧ t.fw.rec_.tries.getD (i / 2) 9 = 3) ∧
      ((∀ i ∈ s.fw.ready, i < 2) ∨ s.onlineOff = true → t.svc = s.svc) ∧
      (∀ k < 2, (∃ i ∈ s.fw.ready, 2 ≤ i) → s.onlineOff = false → (s.sp k).role = 2 → (∀ j < k, (s.sp j).role ≠ 2) →
        t.svc.online = some k ∧ (t.sp k).role = 1)) := by
  have same := activate_foldl_activated s.fw.ready s
  have whole := sessionActive_rest s
  refine ⟨_, activateFirmware_eq h hp hr, rfl, rfl, rfl, ?_, ?_, ?_, ?_, fun i hi hi4 hlp hlt only => ?_, sessionActive_offline,
    fun k hk hj ho h2 first => sessionActive_online hj ho hk h2 first⟩
  · rw [whole, same]
  · rw [whole, same]
  · rw [whole, same]
  · rw [whole, same]
  · rw [whole]
    exact activate_foldl_pendsOn s.fw.ready ⟨hlp, hlt⟩ hi4 only (.inl hi)

end

/-! ## Cancelling (19 R421, R430) -/

section
variable {s : State} {q : Req}

/-- An update that can be cancelled. -/
def State.updating (s : State) : Prop := s.fw.upd = 1 ∨ s.fw.upd = 2 ∨ s.fw.pldm ≠ 0

theorem cancelUpdate_idle (h : ¬ s.updating) : s.cancelUpdate = s := if_neg h

theorem cancelUpdate_updating (h : s.updating) : s.cancelUpdate = s.failUpdate 0x30 := if_pos h

theorem cancelUpdate_command (h : s.mctpUp = true) (hp : s.fw.pldm ≠ 0) :
    Completes (exec .cancelUpdate s) (fun t => UpdateFailed s t 0x30 ∧ t = { s with fw := t.fw, out := .resp 0 [] }) := by
  refine ⟨_, (pldmTry_up h).trans (congrArg _ (if_neg hp)), ?_⟩
  rw [cancelUpdate_updating (.inr (.inr hp))]
  exact ⟨failUpdate_fails s 0x30, congrArg (fun u : State => u.pldm 0 []) (failUpdate_booted s 0x30)⟩

theorem updateAgentTimeout_idle (h : ¬ s.updating) : exec .updateAgentTimeout s = .next s := congrArg (run true) (cancelUpdate_idle h)

theorem updateAgentTimeout_cancels (h : s.updating) :
    Completes (exec .updateAgentTimeout s) (fun t => UpdateFailed s t 0x30 ∧ t = { s with fw := t.fw }) :=
  ⟨_, congrArg (run true) (cancelUpdate_updating h), failUpdate_fails s 0x30, failUpdate_booted s 0x30⟩

/-- A write of FWCTL by a requester that is there: it answers in recovery too (19 R429, R430). -/
theorem run_fwctl (hq : inReq q = true) (hr : s.isReq q = true) (f : State → State) :
    run (inReq q) (s.setupTry q 0x1108 4 (fwWriter q) f) = .next (if fwWriter q then f s else s.accessError q 0 0x1108 4 true) := by
  rw [run, if_pos hq]
  simp [State.setupTry, hr]

theorem fwctl_refused (hq : inReq q = true) (hr : s.isReq q = true) (hw : fwWriter q = false) :
    exec (.fwCancel q) s = .next (s.accessError q 0 0x1108 4 true) ∧ exec (.fwConfirm q) s = .next (s.accessError q 0 0x1108 4 true) :=
  ⟨(run_fwctl hq hr _).trans (by rw [hw]; rfl), (run_fwctl hq hr _).trans (by rw [hw]; rfl)⟩

theorem exec_fwCancel (hq : inReq q = true) (hr : s.isReq q = true) (hw : fwWriter q = true) :
    exec (.fwCancel q) s = .next (s.orRw32 0x1108 4).cancelUpdate :=
  (run_fwctl hq hr _).trans (by rw [if_pos hw])

theorem fwCancel_idle (hq : inReq q = true) (hr : s.isReq q = true) (hw : fwWriter q = true) (h : ¬ s.updating) :
    exec (.fwCancel q) s = .next (s.orRw32 0x1108 4) :=
  (exec_fwCancel hq hr hw).trans (congrArg _ (cancelUpdate_idle h))

theorem fwCancel_cancels (hq : inReq q = true) (hr : s.isReq q = true) (hw : fwWriter q = true) (h : s.updating) :
    Completes (exec (.fwCancel q) s) (fun t => UpdateFailed s t 0x30 ∧ t = { s.orRw32 0x1108 4 with fw := t.fw }) :=
  ⟨_, (exec_fwCancel hq hr hw).trans (congrArg _ (cancelUpdate_updating h)), failUpdate_fails (s.orRw32 0x1108 4) 0x30,
    failUpdate_booted ..⟩

end

/-! ## Confirmation (19 R424) -/

section
variable {s t u : State} {q : Req} {c d : Nat} {ok : Bool}

/-- t is s with components confirmed: the images stay, SVNMIN does not fall. -/
structure Confirming (s t : State) : Prop where
  rest : Booted s t
  slot : t.fw.slot = s.fw.slot
  running : ∀ c, t.running c = s.running c
  slots : t.fw.rec_.slots = s.fw.rec_.slots
  tries : t.fw.rec_.tries = s.fw.rec_.tries
  raised : s.fw.svnmin ≤ t.fw.svnmin

theorem Confirming.trans (h : Confirming s t) (g : Confirming t u) : Confirming s u where
  rest := h.rest.trans g.rest
  slot := g.slot.trans h.slot
  running c := (g.running c).trans (h.running c)
  slots := g.slots.trans h.slots
  tries := g.tries.trans h.tries
  raised := h.raised.trans g.raised

/-- The pending slot of component c. -/
def State.pendingOf (s : State) (c : Nat) : Nat := s.fw.rec_.pend.getD c 255

/-- The security version of the pending image of component c. -/
def State.pendingSecver (s : State) (c : Nat) : Nat := imgSecver (flashAt (s.imageOf (2 * c + s.pendingOf c)) 0 512)

theorem confirmOne_of_not (h : ¬ (s.trial c = true ∧ ok = true)) : s.confirmOne c ok = s :=
  if_pos (by simpa only [not_and_or, Bool.not_eq_true, Bool.not_eq_true'] using h)

theorem confirmOne_of_trial (h : s.trial c = true) : s.confirmOne c true = { s with fw := { s.fw with
    rec_ := { s.fw.rec_ with run := s.fw.rec_.run.set c (s.pendingOf c), pend := s.fw.rec_.pend.set c 255, gen := s.fw.rec_.gen + 1 }
    upd := if s.fw.upd = 3 ∧ s.fw.upSlot = 2 * c + s.pendingOf c then 0 else s.fw.upd
    svnmin := max s.fw.svnmin (s.pendingSecver c) } } :=
  if_neg (by simp [h])

theorem confirmOne_confirming (s : State) (c : Nat) (ok : Bool) : Confirming s (s.confirmOne c ok) := by
  by_cases h : s.trial c = true ∧ ok = true
  · obtain ⟨trial, rfl⟩ := h
    rw [confirmOne_of_trial trial]
    exact ⟨rfl, rfl, fun _ => rfl, rfl, rfl, le_max_left ..⟩
  · rw [confirmOne_of_not h]
    exact ⟨rfl, rfl, fun _ => rfl, rfl, rfl, le_rfl⟩

/-- RUN and PENDING of component c are in t as in s. -/
def SameComponent (s t : State) (c : Nat) : Prop := t.fw.rec_.run[c]? = s.fw.rec_.run[c]? ∧ t.fw.rec_.pend[c]? = s.fw.rec_.pend[c]?

/-- The confirmation of a component leaves the other. -/
theorem confirmOne_other (s : State) (ok : Bool) (h : d ≠ c) : SameComponent s (s.confirmOne d ok) c := by
  by_cases hc : s.trial d = true ∧ ok = true
  · obtain ⟨trial, rfl⟩ := hc
    rw [confirmOne_of_trial trial]
    exact ⟨List.getElem?_set_ne h, List.getElem?_set_ne h⟩
  · rw [confirmOne_of_not hc]
    exact ⟨rfl, rfl⟩

/-- t has confirmed component c of s if it is on trial and `ok`; where not, the component is as before. -/
def ComponentConfirmed (s t : State) (c : Nat) (ok : Bool) : Prop :=
  (s.trial c = true ∧ ok = true → c < s.fw.rec_.run.length → c < s.fw.rec_.pend.length →
    t.fw.rec_.run[c]? = some (s.pendingOf c) ∧ t.fw.rec_.pend[c]? = some 255 ∧ s.pendingSecver c ≤ t.fw.svnmin) ∧
  (¬ (s.trial c = true ∧ ok = true) → SameComponent s t c)

theorem confirmOne_component (s : State) (c : Nat) (ok : Bool) : ComponentConfirmed s (s.confirmOne c ok) c ok := by
  refine ⟨fun ⟨trial, h⟩ hr hp => ?_, fun h => ?_⟩
  · rw [h, confirmOne_of_trial trial]
    exact ⟨List.getElem?_set_self hr, List.getElem?_set_self hp, le_max_right ..⟩
  · rw [confirmOne_of_not h]
    exact ⟨rfl, rfl⟩

/-- A component confirmed stays so while another is. -/
theorem ComponentConfirmed.kept (h : ComponentConfirmed s t c ok) (same : SameComponent t u c) (more : Confirming t u) :
    ComponentConfirmed s u c ok := by
  obtain ⟨confirmed, left⟩ := h
  obtain ⟨run, pend⟩ := same
  refine ⟨fun ht hr hp => ?_, fun hn => ?_⟩
  · obtain ⟨r, p, v⟩ := confirmed ht hr hp
    exact ⟨run.trans r, pend.trans p, v.trans more.raised⟩
  · obtain ⟨r, p⟩ := left hn
    exact ⟨run.trans r, pend.trans p⟩

theorem lt_length_of_getElem? {l m : List Nat} (h : m[c]? = l[c]?) (hc : c < l.length) : c < m.length := by
  have value : m[c]? = some l[c] := h.trans (List.getElem?_eq_getElem hc)
  exact (List.getElem?_eq_some_iff.mp value).1

/-- A component confirmed after another is confirmed of the state before both. -/
theorem ComponentConfirmed.of_same (h : ComponentConfirmed t u c ok) (same : SameComponent s t c) (before : Confirming s t) :
    ComponentConfirmed s u c ok := by
  obtain ⟨confirmed, left⟩ := h
  obtain ⟨run, pend⟩ := same
  have pending : t.pendingOf c = s.pendingOf c := by
    rw [State.pendingOf, State.pendingOf, List.getD_eq_getElem?_getD, pend, List.getD_eq_getElem?_getD]
  have trial : t.trial c = s.trial c := congrArg₂ (fun r p => decide (r = some p)) (before.running c) pending
  have secver : t.pendingSecver c = s.pendingSecver c := by
    rw [State.pendingSecver, pending, imageOf_congr before.slot, State.pendingSecver]
  rw [trial, pending, secver] at confirmed
  rw [trial] at left
  refine ⟨fun ht hr hp => confirmed ht (lt_length_of_getElem? run hr) (lt_length_of_getElem? pend hp), fun hn => ?_⟩
  obtain ⟨r, p⟩ := left hn
  exact ⟨r.trans run, p.trans pend⟩

theorem ComponentConfirmed.fields (h : ComponentConfirmed s t c ok) (hc : c < 2) :
    (s.trial c = true → ok = true → s.fw.rec_.run.length = 2 → s.fw.rec_.pend.length = 2 →
      t.fw.rec_.run.getD c 9 = s.pendingOf c ∧ t.fw.rec_.pend.getD c 9 = 255 ∧ s.pendingSecver c ≤ t.fw.svnmin) ∧
    (s.trial c = false ∨ ok = false → t.fw.rec_.run.getD c 9 = s.fw.rec_.run.getD c 9 ∧ t.fw.rec_.pend.getD c 9 = s.fw.rec_.pend.getD c 9) := by
  obtain ⟨confirmed, left⟩ := h
  simp only [List.getD_eq_getElem?_getD]
  refine ⟨fun ht hok hr hp => ?_, fun hn => ?_⟩
  · obtain ⟨r, p, v⟩ := confirmed ⟨ht, hok⟩ (by omega) (by omega)
    rw [r, p]
    exact ⟨rfl, rfl, v⟩
  · obtain ⟨r, p⟩ := left (by simpa only [not_and_or, Bool.not_eq_true] using hn)
    rw [r, p]
    exact ⟨rfl, rfl⟩

/-- What the confirmation of both components, each where `ok` says so, leaves. -/
theorem confirmBoth_confirms {x : Instr} {ok : Nat → Bool} (hx : exec x s = .next ((s.confirmOne 0 (ok 0)).confirmOne 1 (ok 1))) :
    Completes (exec x s) (fun t => t = { s with fw := t.fw } ∧ s.fw.svnmin ≤ t.fw.svnmin ∧ t.fw.slot = s.fw.slot ∧
      t.fw.rec_.slots = s.fw.rec_.slots ∧ t.fw.rec_.tries = s.fw.rec_.tries ∧ ∀ c < 2,
      (s.trial c = true → ok c = true → s.fw.rec_.run.length = 2 → s.fw.rec_.pend.length = 2 →
        t.fw.rec_.run.getD c 9 = s.pendingOf c ∧ t.fw.rec_.pend.getD c 9 = 255 ∧ s.pendingSecver c ≤ t.fw.svnmin) ∧
      (s.trial c = false ∨ ok c = false →
        t.fw.rec_.run.getD c 9 = s.fw.rec_.run.getD c 9 ∧ t.fw.rec_.pend.getD c 9 = s.fw.rec_.pend.getD c 9)) := by
  have first := confirmOne_confirming s 0 (ok 0)
  have second := confirmOne_confirming (s.confirmOne 0 (ok 0)) 1 (ok 1)
  have both := first.trans second
  refine ⟨_, hx, both.rest, both.raised, both.slot, both.slots, both.tries, fun c hc => ComponentConfirmed.fields ?_ hc⟩
  interval_cases c
  · exact (confirmOne_component ..).kept (confirmOne_other _ _ (by decide)) second
  · exact (confirmOne_component ..).of_same (confirmOne_other _ _ (by decide)) first

theorem fwConfirm_early (hq : inReq q = true) (hr : s.isReq q = true) (hw : fwWriter q = true) (hp : s.published = false) :
    exec (.fwConfirm q) s = .next s :=
  (run_fwctl hq hr _).trans (by rw [if_pos hw, State.confirm, if_neg (by simp [hp])])

theorem fwConfirm_eq (hq : inReq q = true) (hr : s.isReq q = true) (hw : fwWriter q = true) (hp : s.published = true) :
    exec (.fwConfirm q) s = .next ((s.confirmOne 0 true).confirmOne 1 true) :=
  (run_fwctl hq hr _).trans (by rw [if_pos hw, State.confirm, if_pos hp])

/-- The confirmation that comes of itself is due (19 R424; 21 R464). -/
def State.autoDue (s : State) : Prop := bit32 (s.rw32 0x1108) 1 = true ∧ s.published = true ∧ ∀ h < 4, (s.hall h).tripped = false

theorem autoDue_iff : s.autoDue ↔
    bit32 (s.rw32 0x1108) 1 = true ∧ s.published = true ∧ threads4.all (fun h => !(s.hall h).tripped) = true := by
  have halls : threads4.all (fun h => !(s.hall h).tripped) = true ↔ ∀ h < 4, (s.hall h).tripped = false := by
    rw [show threads4 = List.range 4 from rfl]
    simp
  rw [halls]
  rfl

theorem autoconfirmExpiry_early (h : ¬ s.autoDue) : exec .autoconfirmExpiry s = .next s :=
  congrArg (run true) (if_neg (mt autoDue_iff.mpr h))

theorem autoconfirmExpiry_eq (h : s.autoDue) :
    exec .autoconfirmExpiry s = .next ((s.confirmOne 0 true).confirmOne 1 (!s.fw.jfailed && s.jisanRuns)) :=
  congrArg (run true) (if_pos (autoDue_iff.mp h))

end

/-! ## Transfer FW (19 R420 to R422) -/

section
variable {s : State} {ld slot i off : Nat} {data : List Byte} {act : XferAct} {online : Bool}

/-- A logical device without a mailbox does not answer; one that has no firmware commands says so (19 R429). -/
theorem fwMailbox_absent (hl : ld < 16) (h : s.hasMbox ld = false) :
    exec (.transferFw ld slot act off data) s = .next s ∧ exec (.activateFw ld slot online) s = .next s :=
  ⟨(run_inPitch hl).trans (by simp [h]), (run_inPitch hl).trans (by simp [h])⟩

theorem fwMailbox_unsupported (hl : ld < 16) (h : s.hasMbox ld = true) (hf : s.fwMbox ld = false) :
    exec (.transferFw ld slot act off data) s = .next (s.mbox 3 []) ∧ exec (.activateFw ld slot online) s = .next (s.mbox 3 []) :=
  ⟨(run_inPitch hl).trans (by simp [h, hf]), (run_inPitch hl).trans (by simp [h, hf])⟩

theorem exec_transferFw (hl : ld < 16) (h : s.hasMbox ld = true) (hf : s.fwMbox ld = true) :
    exec (.transferFw ld slot act off data) s = .next (s.transferFw slot act off data) :=
  (run_inPitch hl).trans (by simp [h, hf])

theorem exec_activateFw (hl : ld < 16) (h : s.hasMbox ld = true) (hf : s.fwMbox ld = true) :
    exec (.activateFw ld slot online) s = .next (s.activateFw slot online) :=
  (run_inPitch hl).trans (by simp [h, hf])

/-- The transfer in progress came by the mailbox for slot i. -/
def State.mailboxTransfer (s : State) (i : Nat) : Prop := s.fw.upd = 1 ∧ s.fw.upMbox = true ∧ s.fw.upSlot = i

theorem mailboxTransfer_iff : (decide (s.fw.upd = 1) && s.fw.upMbox && decide (s.fw.upSlot = i)) = true ↔ s.mailboxTransfer i := by
  simp [State.mailboxTransfer, and_assoc]

theorem upSlot_of_mailboxTransfer (h : s.mailboxTransfer i) : s.fw.upSlot = i := by
  obtain ⟨-, -, place⟩ := h
  exact place

/-- A command refused because an update is in progress (R421). -/
def State.mailboxBusy (s : State) : State := { s with fw := { s.fw with lasterr := 0x24 }, out := .mbox 6 [] }

theorem transferFw_abort_other (h : ¬ s.mailboxTransfer (slot - 1)) : s.transferFw slot .abort off data = s.mbox 2 [] :=
  if_neg (mt mailboxTransfer_iff.mp h)

theorem transferFw_abort_mine (h : s.mailboxTransfer (slot - 1)) : s.transferFw slot .abort off data = (s.failUpdate 0x30).mbox 0 [] :=
  if_pos (mailboxTransfer_iff.mpr h)

/-- A further part belongs to the transfer in progress. -/
theorem transferFw_more_mine (ha : act = .next ∨ act = .last) (h : s.mailboxTransfer (slot - 1)) :
    s.transferFw slot act off data = s.transferPart off data (act = .last) := by
  rcases ha with rfl | rfl <;> exact if_pos (mailboxTransfer_iff.mpr h)

theorem transferFw_more_other (ha : act = .next ∨ act = .last) (h : ¬ s.mailboxTransfer (slot - 1)) :
    s.transferFw slot act off data = if s.updBusy = true then s.mailboxBusy else s.mbox 9 [] := by
  rcases ha with rfl | rfl <;> exact if_neg (mt mailboxTransfer_iff.mp h)

/-- A first part starts a transfer. -/
theorem transferFw_first (ha : act = .full ∨ act = .first) :
    s.transferFw slot act off data = State.transferFw.start s slot off data (slot - 1) (act = .full) := by
  rcases ha with rfl | rfl <;> rfl

theorem transferFw_first_busy (ha : act = .full ∨ act = .first) (h : s.updBusy = true ∨ s.fw.pldm ≠ 0) :
    s.transferFw slot act off data = s.mailboxBusy :=
  (transferFw_first ha).trans (if_pos h)

theorem transferFw_first_slot (ha : act = .full ∨ act = .first) (hb : s.updBusy = false) (hp : s.fw.pldm = 0)
    (h : slot = 0 ∨ 4 < slot ∨ s.inactive ((slot - 1) / 2) ≠ (slot - 1) % 2) : s.transferFw slot act off data = s.mbox 0xB [] :=
  (transferFw_first ha).trans ((if_neg (by simp [hb, hp])).trans (if_pos h))

theorem transferFw_first_begins (ha : act = .full ∨ act = .first) (hb : s.updBusy = false) (hp : s.fw.pldm = 0)
    (h1 : 1 ≤ slot) (h4 : slot ≤ 4) (hi : s.inactive ((slot - 1) / 2) = (slot - 1) % 2) :
    s.transferFw slot act off data = (s.beginDownload (slot - 1) 0 true).transferPart off data (act = .full) :=
  (transferFw_first ha).trans ((if_neg (by simp [hb, hp])).trans (if_neg (by omega)))

theorem transferPart_outOfOrder (h : off ≠ s.fw.upGot) (last : Bool) : s.transferPart off data last = s.mbox 9 [] := if_pos h

theorem transferPart_tooLarge (h : off = s.fw.upGot) (hs : slotBytes s.fw.upSlot < s.fw.upGot + data.length) (last : Bool) :
    s.transferPart off data last = (s.failUpdate 0x21).mbox 2 [] :=
  (if_neg (not_not.mpr h)).trans (if_pos hs)

theorem transferPart_fits (h : off = s.fw.upGot) (hs : s.fw.upGot + data.length ≤ slotBytes s.fw.upSlot) (last : Bool) :
    s.transferPart off data last = if last = true then
      (s.program data).verify.mbox (if (s.program data).verifyImage (s.program data).fw.upSlot = none then 0 else 0xA) []
      else (s.program data).mbox 0 [] := by
  refine (if_neg (not_not.mpr h)).trans ((if_neg (Nat.not_lt.mpr hs)).trans ?_)
  cases last with
  | false => rfl
  | true => simp only [verify_upd_eq_three]; rfl

/-- s with slot i programmed to hold `l`. -/
def State.flashed (s : State) (i : Nat) (l : List Byte) : State := { s with fw := { s.fw with slot := Tab.set s.fw.slot i l } }

/-- s with a part of an image taken: slot i holds `l`, of which `got` bytes came, and the boot record is `r`. -/
def State.taking (s : State) (i len got : Nat) (r : BootRec) (l : List Byte) : State := { s with fw := { s.fw with
  upd := 1, upMbox := true, upSlot := i, upLen := len, upGot := got, rec_ := r, slot := Tab.set s.fw.slot i l } }

theorem program_mine (h : s.mailboxTransfer i) :
    s.program data = s.taking i s.fw.upLen (s.fw.upGot + data.length) s.fw.rec_ (s.imageOf i ++ data) := by
  obtain ⟨upd, mbox, rfl⟩ := h
  unfold State.taking
  rw [← upd, ← mbox]
  rfl

/-- The erase of a slot leaves no trace once it is programmed. -/
theorem beginDownload_taking (s : State) (i n : Nat) (mbox : Bool) (len got : Nat) (r : BootRec) (l : List Byte) :
    (s.beginDownload i n mbox).taking i len got r l = s.taking i len got r l :=
  congrArg (fun table => { s.taking i len got r l with fw := { (s.taking i len got r l).fw with slot := table } }) (Tab.set_set ..)

theorem program_begun : (s.beginDownload i 0 true).program data = s.taking i 0 (0 + data.length) (s.fw.rec_.mark i 1) ([] ++ data) := by
  have begun : (s.beginDownload i 0 true).mailboxTransfer i := ⟨rfl, rfl, rfl⟩
  have erased : (s.beginDownload i 0 true).imageOf i = [] := Tab.get_set_same ..
  rw [program_mine begun, beginDownload_taking, erased]
  rfl

/-- A part of an image is taken, the last one verified: what `t` is then. -/
def PartTaken (s : State) (i got : Nat) (l : List Byte) (last : Bool) (t : State) : Prop :=
  t = { s with fw := t.fw, out := t.out } ∧ (∀ j, t.imageOf j = if j = i then l else s.imageOf j) ∧ t.fw.upGot = got ∧ t.fw.upMbox = true ∧
  (last = false → t.fw.upd = 1 ∧ t.out = .mbox 0 []) ∧
  (last = true → Verified s t i ((s.flashed i l).verifyImage i) ∧ t.out = .mbox (if (s.flashed i l).verifyImage i = none then 0 else 0xA) [])

theorem taking_taken {len got : Nat} {r : BootRec} {l : List Byte} (hr : r.slots.length = s.fw.rec_.slots.length) (last : Bool) :
    PartTaken s i got l last (if last = true then
      (s.taking i len got r l).verify.mbox (if (s.taking i len got r l).verifyImage i = none then 0 else 0xA) []
      else (s.taking i len got r l).mbox 0 []) := by
  have same : (s.taking i len got r l).verifyImage i = (s.flashed i l).verifyImage i := rfl
  cases last with
  | false => exact ⟨rfl, imageOf_of_slot rfl, rfl, rfl, fun _ => ⟨rfl, rfl⟩, fun h => (by cases h)⟩
  | true =>
    obtain ⟨good, bad, slots⟩ := verify_verified (s.taking i len got r l)
    rw [if_pos rfl]
    refine ⟨?_, imageOf_of_slot ?_, ?_, ?_, fun h => (by cases h), fun _ => ⟨⟨good, bad, slots.trans ?_⟩, by rw [← same]; rfl⟩⟩
    · rw [verify_eq]
      rfl
    · rw [verify_eq]
      rfl
    · rw [verify_eq]
      rfl
    · rw [verify_eq]
      rfl
    · rw [← hr]
      rfl

theorem transferFw_more_taken (ha : act = .next ∨ act = .last) (h : s.mailboxTransfer (slot - 1)) (ho : off = s.fw.upGot)
    (hs : s.fw.upGot + data.length ≤ slotBytes (slot - 1)) :
    PartTaken s (slot - 1) (s.fw.upGot + data.length) (s.imageOf (slot - 1) ++ data) (act = .last) (s.transferFw slot act off data) := by
  rw [transferFw_more_mine ha h, transferPart_fits ho (by rwa [upSlot_of_mailboxTransfer h]), program_mine h]
  exact taking_taken rfl _

theorem transferFw_first_taken (ha : act = .full ∨ act = .first) (hb : s.updBusy = false) (hp : s.fw.pldm = 0) (ho : off = 0)
    (h1 : 1 ≤ slot) (h4 : slot ≤ 4) (hi : s.inactive ((slot - 1) / 2) = (slot - 1) % 2) (hs : data.length ≤ slotBytes (slot - 1)) :
    PartTaken s (slot - 1) (0 + data.length) ([] ++ data) (act = .full) (s.transferFw slot act off data) := by
  rw [transferFw_first_begins ha hb hp h1 h4 hi, transferPart_fits ho ((Nat.zero_add _).trans_le hs), program_begun]
  exact taking_taken List.length_set _

/-- Transfer FW at a mailbox that takes it. -/
theorem transferFw_answers (hl : ld < 16) (h : s.hasMbox ld = true) (hf : s.fwMbox ld = true) :
    let x := Instr.transferFw ld slot act off data
    let i := slot - 1
    let more := act = .next ∨ act = .last
    let first := act = .full ∨ act = .first
    (act = .abort → ¬ s.mailboxTransfer i → exec x s = .next (s.mbox 2 [])) ∧
    (act = .abort → s.mailboxTransfer i →
      Completes (exec x s) (fun t => UpdateFailed s t 0x30 ∧ t = { s with fw := t.fw, out := .mbox 0 [] })) ∧
    (more → ¬ s.mailboxTransfer i → s.updBusy = false → exec x s = .next (s.mbox 9 [])) ∧
    ((more ∧ ¬ s.mailboxTransfer i ∧ s.updBusy = true) ∨ (first ∧ (s.updBusy = true ∨ s.fw.pldm ≠ 0)) → exec x s = .next s.mailboxBusy) ∧
    (more → s.mailboxTransfer i → off ≠ s.fw.upGot → exec x s = .next (s.mbox 9 [])) ∧
    (more → s.mailboxTransfer i → off = s.fw.upGot → slotBytes i < s.fw.upGot + data.length →
      Completes (exec x s) (fun t => UpdateFailed s t 0x21 ∧ t.out = .mbox 2 [])) ∧
    (first → s.updBusy = false → s.fw.pldm = 0 → slot = 0 ∨ 4 < slot ∨ s.inactive (i / 2) ≠ i % 2 → exec x s = .next (s.mbox 0xB [])) := by
  intro x i more first
  rw [show exec x s = .next (s.transferFw slot act off data) from exec_transferFw hl h hf]
  refine ⟨?_, ?_, fun ha hm hb => ?_, ?_, fun ha hm ho => ?_, fun ha hm ho hs => ?_, fun ha hb hp hi => ?_⟩
  · rintro rfl hm
    rw [transferFw_abort_other hm]
  · rintro rfl hm
    rw [transferFw_abort_mine hm]
    exact ⟨_, rfl, failUpdate_fails s 0x30, congrArg (fun u : State => u.mbox 0 []) (failUpdate_booted s 0x30)⟩
  · rw [transferFw_more_other ha hm, if_neg (by simp [hb])]
  · rintro (⟨ha, hm, hb⟩ | ⟨ha, hb⟩)
    · rw [transferFw_more_other ha hm, if_pos hb]
    · rw [transferFw_first_busy ha hb]
  · rw [transferFw_more_mine ha hm, transferPart_outOfOrder ho]
  · rw [transferFw_more_mine ha hm, transferPart_tooLarge ho (by rwa [upSlot_of_mailboxTransfer hm])]
    exact ⟨_, rfl, failUpdate_fails s 0x21, rfl⟩
  · rw [transferFw_first_slot ha hb hp hi]

/-- A part that Transfer FW takes, in progress or first. -/
theorem transferFw_takes (hl : ld < 16) (h : s.hasMbox ld = true) (hf : s.fwMbox ld = true) :
    let i := slot - 1
    let first := act = .full ∨ act = .first
    ((act = .next ∨ act = .last) ∧ s.mailboxTransfer i ∧ off = s.fw.upGot ∧ s.fw.upGot + data.length ≤ slotBytes i) ∨
      (first ∧ s.updBusy = false ∧ s.fw.pldm = 0 ∧ off = 0 ∧ 1 ≤ slot ∧ slot ≤ 4 ∧ s.inactive (i / 2) = i % 2 ∧ data.length ≤ slotBytes i) →
    Completes (exec (.transferFw ld slot act off data) s) (PartTaken s i ((if first then 0 else s.fw.upGot) + data.length)
      ((if first then [] else s.imageOf i) ++ data) (decide (act = .last ∨ act = .full))) := by
  intro i first
  rw [exec_transferFw hl h hf]
  rintro (⟨ha, hm, ho, hs⟩ | ⟨ha, hb, hp, ho, h1, h4, hi, hs⟩)
  · have taken := transferFw_more_taken ha hm ho hs
    rcases ha with rfl | rfl
    · exact ⟨_, rfl, taken⟩
    · exact ⟨_, rfl, taken⟩
  · have taken := transferFw_first_taken ha hb hp ho h1 h4 hi hs
    rcases ha with rfl | rfl
    · exact ⟨_, rfl, taken⟩
    · exact ⟨_, rfl, taken⟩

end

/-! ## Activate FW (19 R420, R425) -/

section
variable {s : State} {ld slot : Nat} {online : Bool}

theorem activateFw_noImage (h : slot = 0 ∨ 4 < slot ∨ s.fw.rec_.slots.getD (slot - 1) 0 ≠ 2) : s.activateFw slot online = s.mbox 0xB [] :=
  if_pos h

variable (h1 : 1 ≤ slot) (h4 : slot ≤ 4) (hv : s.fw.rec_.slots.getD (slot - 1) 0 = 2)
include h1 h4 hv

theorem activateFw_notOnline (ho : online = true) (hi : slot - 1 < 2) : s.activateFw slot online = s.mbox 2 [] :=
  (if_neg (by omega)).trans (if_pos ⟨ho, hi⟩)

theorem activateFw_disabled (ho : online = true) (hi : 2 ≤ slot - 1) (hd : s.onlineOff = true) : s.activateFw slot online = s.mbox 3 [] :=
  (if_neg (by omega)).trans ((if_neg (by omega)).trans (if_pos ⟨ho, hd⟩))

theorem activateFw_offline : s.activateFw slot false = (s.activate (slot - 1)).mbox 0 [] :=
  (if_neg (by omega)).trans ((if_neg (by simp)).trans ((if_neg (by simp)).trans (if_pos rfl)))

theorem activateFw_online (hi : 2 ≤ slot - 1) (hd : s.onlineOff = false) : s.activateFw slot true =
    (s.activate (slot - 1)).onlineStart.elim ((s.activate (slot - 1)).mbox 0xD []) (fun t => t.mbox 0 []) := by
  refine (if_neg (by omega)).trans ((if_neg (by omega)).trans ((if_neg (by simp [hd])).trans ((if_neg (by decide)).trans ?_)))
  cases (s.activate (slot - 1)).onlineStart <;> rfl

/-- What Activate FW of a verified slot leaves: the slot pending, and of an online activation the standby restarting. -/
theorem activateFw_activates (h : online = false ∨ (2 ≤ slot - 1 ∧ s.onlineOff = false)) :
    let t := s.activateFw slot online
    t.fw = (s.activate (slot - 1)).fw ∧ t = { s with fw := t.fw, svc := t.svc, out := t.out } ∧
    (online = false → t.svc = s.svc ∧ t.out = .mbox 0 []) ∧
    (online = true → (∀ k < 2, (s.sp k).role ≠ 2) → t.svc = s.svc ∧ t.out = .mbox 0xD []) ∧
    (∀ k < 2, online = true → (s.sp k).role = 2 → (∀ j < k, (s.sp j).role ≠ 2) → t.out = .mbox 0 [] ∧ t.svc.online = some k ∧
      (t.sp k).role = 1 ∧ ∀ m, m ≠ k → t.sp m = s.sp m) := by
  cases online with
  | false =>
    rw [activateFw_offline h1 h4 hv]
    exact ⟨rfl, rfl, fun _ => ⟨rfl, rfl⟩, fun h => (by cases h), fun _ _ h => (by cases h)⟩
  | true =>
    obtain ⟨hi, hd⟩ := h.resolve_left (by decide)
    rw [activateFw_online h1 h4 hv hi hd]
    refine ⟨?_, ?_, fun h => (by cases h), fun _ absent => ?_, fun k hk _ standby first => ?_⟩
    · cases ht : (s.activate (slot - 1)).onlineStart with
      | none => rfl
      | some t => rw [onlineStart_rest ht]; rfl
    · cases ht : (s.activate (slot - 1)).onlineStart with
      | none => rfl
      | some t => rw [onlineStart_rest ht]; rfl
    · rw [onlineStart_none (s := s.activate (slot - 1)) absent]
      exact ⟨rfl, rfl⟩
    · rw [onlineStart_standby (s := s.activate (slot - 1)) hk standby first]
      exact ⟨rfl, rfl, congrArg SpSt.role ((restarting_sp _ k k).trans (if_pos rfl)), fun m hm => (restarting_sp _ k m).trans (if_neg hm)⟩

end

/-! ## The statement -/

/-- Settles O56: each command is an accepted one or a refusal of its own. What an update's end leaves of the boot record is followed through
`failUpdate` and `verify`; confirmation goes component by component, and a part of an image taken by the mailbox is one programming of its
slot, first or not. -/
theorem firmwareUpdatesTransferVerifyAndActivate : Obligations.FirmwareUpdatesTransferVerifyAndActivate := by
  unfold Obligations.FirmwareUpdatesTransferVerifyAndActivate
  intro s q ld slot off comp size comps data act online hq hl still tells mbox w r failed verified
  refine ⟨pldm_unheard, fun h => ?_, ?_, ?_, ?_⟩
  · obtain ⟨identifiers, status, parameters⟩ := pldm_queries h
    refine ⟨identifiers, status, parameters, requestUpdate_busy h, requestUpdate_opens h, pldm_noSession h,
      pldmAt_otherStage h, fun h0 h2 => ⟨pldmAt_otherStage h h0 h2, pldmAt_otherStage h h0 h2⟩, passComponentTable_passed h,
      fun hp => ⟨updateComponent_unknown h hp, fun hc => ⟨updateComponent_tooLarge h hp hc rfl, updateComponent_begins h hp hc rfl⟩⟩,
      ⟨requestFirmwareData_dropped h, requestFirmwareData_programs h⟩, transferComplete_early h, transferComplete_verifies h,
      verifyComplete_early h, verifyComplete_reports h, applyComplete_early h, applyComplete_reports h, activateFirmware_nothing h,
      activateFirmware_activates h, cancelUpdate_command h⟩
  · exact ⟨updateAgentTimeout_idle, updateAgentTimeout_cancels, fun hr => ⟨fwctl_refused hq hr, fwCancel_idle hq hr, fwCancel_cancels hq hr,
      fwConfirm_early hq hr⟩⟩
  · exact ⟨autoconfirmExpiry_early, fun h => confirmBoth_confirms (autoconfirmExpiry_eq h),
      fun hr hw hp => confirmBoth_confirms (fwConfirm_eq hq hr hw hp)⟩
  · refine ⟨fwMailbox_absent hl, fwMailbox_unsupported hl, fun h hf => ?_⟩
    obtain ⟨other, cancelled, early, busy, order, large, place⟩ := transferFw_answers hl h hf
    refine ⟨other, cancelled, early, busy, order, large, place, fun taken => ?_, fun hn => ?_, fun h1 h4 hv => ⟨?_, ?_, ?_⟩⟩
    · obtain ⟨t, ht, rest, image, got, mailbox, more, last⟩ := transferFw_takes hl h hf taken
      have programmed := (image (slot - 1)).trans (if_pos rfl)
      refine ⟨t, ht, rest, programmed.trans (Tab.get_set_same ..).symm, fun j hj => (image j).trans (if_neg hj), got, mailbox, fun ha => more ?_,
        fun ha => last (decide_eq_true ha)⟩
      rcases ha with rfl | rfl <;> rfl
    · exact (exec_activateFw hl h hf).trans (congrArg _ (activateFw_noImage hn))
    · exact fun ho hi => (exec_activateFw hl h hf).trans (congrArg _ (activateFw_notOnline h1 h4 hv ho hi))
    · exact fun ho hi hd => (exec_activateFw hl h hf).trans (congrArg _ (activateFw_disabled h1 h4 hv ho hi hd))
    · exact fun ho => ⟨_, exec_activateFw hl h hf, activateFw_activates h1 h4 hv ho⟩

end Sys2Proof.Machine
end

section
/-!
SUPPORT. The scales: what a commit stages, what a window's end moves, where a value enters (20 R433 to R438), up to the statement
MonitorCommitsTakeEffectAtTheBoundary.
-/
namespace Sys2Proof.Machine

/-! ## Monitors -/

section
variable {s : State} {q : Req} {m v : Nat} {d : W32} {f : Monitor → Monitor}

@[simp] theorem monitor_updMonitor_same : (s.updMonitor m f).monitor m = f (s.monitor m) := Tab.get_set_same ..

theorem monitor_updMonitor_ne {j : Nat} (h : j ≠ m) : (s.updMonitor m f).monitor j = s.monitor j := Tab.get_set_ne _ _ _ h

theorem run_inMonitor (hm : m < 576) (t : State) : run (inMonitor m) t = .next t := by simp [inMonitor, hm]

theorem exec_mcommit (hq : inReq q = true) (ho : s.setupOpen q) (hm : m < 576) : exec (.mcommit q m d) s =
    .next (if fwWriter q then if bit32 d 0 then s.monCommit m else s else s.accessError q 0 (monBase m + 0x10) 4 true) := by
  change run (inReq q && inMonitor m) _ = _
  rw [setupTry_of_open ho, hq, Bool.true_and, run_inMonitor hm]

theorem mcommit_none (hq : inReq q = true) (hm : m < 576) (ho : s.setupOpen q) (h : bit32 d 0 = false) (hw : fwWriter q = true) :
    exec (.mcommit q m d) s = .next s := by
  rw [exec_mcommit hq ho hm, if_pos hw, h, if_neg (by decide)]

theorem mcommit_refused (hq : inReq q = true) (hm : m < 576) (ho : s.setupOpen q) (hw : fwWriter q = false) :
    exec (.mcommit q m d) s = .next (s.accessError q 0 (monBase m + 0x10) 4 true) := by
  rw [exec_mcommit hq ho hm, hw, if_neg (by decide)]

theorem exec_windowBoundary (hm : m < 576) :
    exec (.windowBoundary m) s = .next (s.updMonitor m (fun x => x.close (s.monTime m))) := run_inMonitor hm _

end

/-! ## Commits (R436) -/

section
variable {s : State} {m : Nat}

/-- The refusals of R436. -/
theorem commitBad_iff (m : Nat) (cfg win : Word) : commitBad m cfg win = true ↔
    (m < 512 ∧ ¬ (1 ≤ fld cfg 0 8 ∧ fld cfg 0 8 ≤ 6)) ∨ (512 ≤ m ∧ ¬ (0x20 ≤ fld cfg 0 8 ∧ fld cfg 0 8 ≤ 0x29)) ∨
    (fld win 0 16 = 0 ∧ bit cfg 8 = false) ∨ fld win 16 20 < 1 ∨ 1000000 < fld win 16 20 ∨
    ((fld cfg 0 8 = 3 ∨ fld cfg 0 8 = 5 ∨ fld cfg 0 8 = 6 ∨ fld cfg 0 8 = 0x21 ∨ fld cfg 0 8 = 0x25 ∨ fld cfg 0 8 = 0x26 ∨
      fld cfg 0 8 = 0x28) ∧ fld win 36 16 = 0) := by
  have source : srcOk m (fld cfg 0 8) = false ↔
      (m < 512 ∧ ¬ (1 ≤ fld cfg 0 8 ∧ fld cfg 0 8 ≤ 6)) ∨ (512 ≤ m ∧ ¬ (0x20 ≤ fld cfg 0 8 ∧ fld cfg 0 8 ≤ 0x29)) := by
    unfold srcOk
    split <;> rw [decide_eq_false_iff_not] <;> omega
  simp [commitBad, source, srcLevel, or_assoc]

/-- A monitor whose settings wait under generation g. -/
def Monitor.staged (x : Monitor) (g : Nat) (cfg win : Word) : Monitor :=
  { x with newCfg := cfg, newWin := win, gen := g, pending := true, err := false }

theorem monCommit_refused (h : commitBad m (s.rw64 (monBase m)) (s.rw64 (monBase m + 8)) = true) :
    s.monCommit m = s.updMonitor m (fun x => { x with err := true }) := if_pos h

theorem monCommit_staged (h : ¬ commitBad m (s.rw64 (monBase m)) (s.rw64 (monBase m + 8)) = true) :
    s.monCommit m = s.updMonitor m (fun x => x.staged ((x.gen + 1) % 65536) (s.rw64 (monBase m)) (s.rw64 (monBase m + 8))) := if_neg h

/-- The settings wait: those in effect and the windows stay. -/
theorem staged_waits (x : Monitor) (g : Nat) (cfg win : Word) : let y := x.staged g cfg win
    y.gen = g ∧ y.pending = true ∧ y.cfg = x.cfg ∧ y.win = x.win ∧ y.live = x.live ∧ y.res = x.res :=
  ⟨rfl, rfl, rfl, rfl, rfl, rfl⟩

/-- What waits takes effect at the boundary, its window carrying its generation (R436, R437). -/
theorem close_staged (x : Monitor) (g : Nat) (cfg win : Word) (t : Nat) : let y := (x.staged g cfg win).close t
    y.cfg = cfg ∧ y.win = win ∧ y.pending = false ∧ y.gen = g ∧ y.live.gen = g ∧ y.res.gen = x.live.gen :=
  ⟨rfl, rfl, rfl, rfl, rfl, rfl⟩

/-- A boundary with nothing waiting keeps settings and generation. -/
theorem close_idle {x : Monitor} (h : x.pending = false) (t : Nat) : let y := x.close t
    y.cfg = x.cfg ∧ y.win = x.win ∧ y.pending = false ∧ y.live.gen = x.live.gen ∧ y.live.short = false := by
  simp [Monitor.close, h]

end

/-- Settles O57: a commit stages its settings or is refused, and the boundary makes what is staged the settings. -/
theorem monitorCommitsTakeEffectAtTheBoundary : Obligations.MonitorCommitsTakeEffectAtTheBoundary := by
  unfold Obligations.MonitorCommitsTakeEffectAtTheBoundary
  intro s q m v hq ho hw hm hv x cfg win src level bad
  have commit : exec (.mcommit q m v) s = .next (s.monCommit m) := by
    rw [exec_mcommit hq ho hm, if_pos hw, if_pos hv]
  refine ⟨fun h => ?_, fun h => ?_, fun h => ?_⟩
  · rw [commit, monCommit_refused ((commitBad_iff ..).2 h)]
    exact ⟨_, rfl, monitor_updMonitor_same, rfl, fun j hj => monitor_updMonitor_ne hj⟩
  · rw [commit, monCommit_staged (fun b => h ((commitBad_iff ..).1 b))]
    refine ⟨_, rfl, ?_⟩
    beta_reduce
    rw [exec_windowBoundary hm, monitor_updMonitor_same]
    obtain ⟨gen, waits, cfg_kept, win_kept, live, res⟩ := staged_waits x ((x.gen + 1) % 65536) cfg win
    refine ⟨gen, waits, cfg_kept, win_kept, live, res, rfl, fun j hj => monitor_updMonitor_ne hj, _, rfl, ?_⟩
    beta_reduce
    rw [monitor_updMonitor_same, monitor_updMonitor_same]
    exact close_staged ..
  · obtain ⟨cfg_kept, win_kept, none_waits, gen_kept, -⟩ := close_idle h (s.monTime m)
    refine ⟨_, exec_windowBoundary hm, ?_⟩
    beta_reduce
    rw [monitor_updMonitor_same]
    exact ⟨cfg_kept, win_kept, none_waits, gen_kept⟩

/-! ## Windows (R435) -/

section
variable {s : State} {m : Nat}

/-- WINDOW_BOUNDARY banks the window and starts the next one empty. -/
theorem windowBoundary_banks (hm : m < 576) : Completes (exec (.windowBoundary m) s) (fun t =>
    let x := s.monitor m
    let y := t.monitor m
    t = { s with obs := t.obs } ∧ (∀ j, j ≠ m → t.monitor j = s.monitor j) ∧ y.rseq = x.rseq + 2 ∧ y.pending = false ∧
    y.res = { x.live with min := if x.live.count = 0 then 0xFFFFFFFF else x.live.min } ∧
    y.live.count = 0 ∧ y.live.sum = 0 ∧ y.live.bin = [] ∧ y.live.under = 0 ∧ y.live.overBin = 0 ∧ y.live.start = s.monTime m ∧
    (x.pending = false → y.cfg = x.cfg ∧ y.win = x.win ∧ y.live.short = false)) := by
  refine ⟨_, exec_windowBoundary hm, ?_⟩
  beta_reduce
  intro x y
  have closed : y = x.close (s.monTime m) := monitor_updMonitor_same
  refine ⟨rfl, fun j hj => monitor_updMonitor_ne hj, ?_⟩
  rw [closed]
  refine ⟨rfl, rfl, rfl, rfl, rfl, rfl, rfl, rfl, rfl, fun h => ?_⟩
  obtain ⟨cfg_kept, win_kept, -, -, whole⟩ := close_idle h (s.monTime m)
  exact ⟨cfg_kept, win_kept, whole⟩

end

/-! ## Values (R433, R434) -/

theorem bitsOf_bitsOf {k l n : Nat} (v lo : Nat) (h : k + l ≤ n) : bitsOf (bitsOf v lo n) k l = bitsOf v (lo + k) l := by
  have split : 2 ^ n = 2 ^ k * 2 ^ (n - k) := by rw [← Nat.pow_add]; congr 1; omega
  unfold bitsOf
  rw [split, Nat.mod_mul_right_div_self, Nat.div_div_eq_div_mul, ← Nat.pow_add, Nat.mod_mod_of_dvd _ (Nat.pow_dvd_pow 2 (by omega))]

theorem stick32_toNat (c : W32) : (stick32 c).toNat = min 0xFFFFFFFF (c.toNat + 1) := by
  have small := c.isLt
  unfold stick32
  split
  · next h => rw [h]; rfl
  · next h =>
    have below : c.toNat ≠ 0xFFFFFFFF := fun e => h (BitVec.eq_of_toNat_eq e)
    rw [BitVec.toNat_add, show (1 : W32).toNat = 1 from rfl]
    omega

section
variable {s : State} {m : Nat} {x : Monitor}

/-- An event source has no level. -/
theorem level_of_event (h : srcLevel (fld x.cfg 0 8) = false) : s.level m x = none := by
  simp only [srcLevel, List.contains_eq_mem, List.mem_cons, List.not_mem_nil, or_false, decide_eq_false_iff_not, not_or] at h
  obtain ⟨h3, h5, h6, h21, h25, h26, h28⟩ := h
  unfold State.level
  split
  case h_8 => rfl
  all_goals contradiction

theorem level_package (h : fld x.cfg 0 8 = 0x26) : s.level m x = some s.pwr.p1 := by
  unfold State.level
  rw [h]
  rfl

theorem level_domain (h : fld x.cfg 0 8 = 0x25) : s.level m x = some (s.domain (fld x.cfg 16 11)).mw := by
  unfold State.level
  rw [h]
  exact congrArg (fun k => some (s.domain k).mw) (bitsOf_bitsOf x.cfg.toNat 16 (by decide))

end

/-- COUNT, SUM, MIN and MAX with a value more. -/
def MonAcc.counted (a : MonAcc) (w : Nat) : MonAcc :=
  { a with
    count := a.count + 1, sum := a.sum + w
    min := if a.count = 0 then BitVec.ofNat 32 w else if (BitVec.ofNat 32 w).ult a.min then BitVec.ofNat 32 w else a.min
    max := if a.max.ult (BitVec.ofNat 32 w) then BitVec.ofNat 32 w else a.max }

/-- The bin of a value at or above BASE, 64 for OVER. -/
def Monitor.slot (x : Monitor) (w : Nat) : Nat := binOf (bit x.cfg 8) (fld x.win 0 16) (w - fld x.cfg 32 32)

/-- The accumulators with a value in UNDER, in OVER or in a bin. -/
def Monitor.binned (x : Monitor) (a : MonAcc) (w : Nat) : MonAcc :=
  if w < fld x.cfg 32 32 then { a with under := stick32 a.under, sat := a.sat || a.under = BitVec.allOnes 32 - 1 }
  else if x.slot w = 64 then { a with overBin := stick32 a.overBin, sat := a.sat || a.overBin = BitVec.allOnes 32 - 1 }
  else
    let b := Tab.get (0 : W32) a.bin (x.slot w)
    { a with bin := Tab.set a.bin (x.slot w) (stick32 b), sat := a.sat || b = BitVec.allOnes 32 - 1 }

theorem place_eq (x : Monitor) (v : Nat) :
    x.place v = { x with live := x.binned (x.live.counted (min v 0xFFFFFFFF)) (min v 0xFFFFFFFF) } := rfl

theorem counted_extremes (a : MonAcc) {w : Nat} (hw : w ≤ 0xFFFFFFFF) :
    (a.counted w).max.toNat = max a.max.toNat w ∧ (a.counted w).min.toNat = if a.count = 0 then w else min a.min.toNat w := by
  have word : (BitVec.ofNat 32 w).toNat = w := by rw [BitVec.toNat_ofNat]; omega
  unfold MonAcc.counted
  simp only [BitVec.ult, word, decide_eq_true_eq]
  constructor
  · split
    · rw [word]; omega
    · omega
  · split
    · exact word
    · split
      · rw [word]; omega
      · omega

/-- A bin takes nothing from the rest of the accumulators, and SAT stays. -/
theorem binned_rest (x : Monitor) (a : MonAcc) (w : Nat) : let y := x.binned a w
    y.count = a.count ∧ y.sum = a.sum ∧ y.max = a.max ∧ y.min = a.min ∧ y.start = a.start ∧ y.short = a.short ∧ y.gen = a.gen ∧
    (a.sat = true → y.sat = true) := by
  unfold Monitor.binned
  have stays : ∀ b : Bool, a.sat = true → (a.sat || b) = true := fun b h => by rw [h, Bool.true_or]
  split
  · exact ⟨rfl, rfl, rfl, rfl, rfl, rfl, rfl, stays _⟩
  · split
    · exact ⟨rfl, rfl, rfl, rfl, rfl, rfl, rfl, stays _⟩
    · exact ⟨rfl, rfl, rfl, rfl, rfl, rfl, rfl, stays _⟩

theorem binOf_eq (log : Bool) (width e : Nat) : binOf log width e =
    if log = true then (if e ≤ 1 then e else 2 * Nat.log2 e + bitsOf e (Nat.log2 e - 1) 1) else min 64 (e / max 1 width) := by
  cases log
  · exact congrArg (fun k => min 64 (e / k)) (Nat.max_comm ..)
  · rfl

/-- A value enters UNDER, OVER or the one bin of R434. -/
theorem binned_one (x : Monitor) (a : MonAcc) (w : Nat) :
    let y := x.binned a w
    let base := fld x.cfg 32 32
    let e := w - base
    let bin := if bit x.cfg 8 = true then (if e ≤ 1 then e else 2 * Nat.log2 e + bitsOf e (Nat.log2 e - 1) 1)
      else min 64 (e / max 1 (fld x.win 0 16))
    (w < base → y.under.toNat = min 0xFFFFFFFF (a.under.toNat + 1) ∧ y.overBin = a.overBin ∧ y.bin = a.bin) ∧
    (base ≤ w → bin = 64 → y.overBin.toNat = min 0xFFFFFFFF (a.overBin.toNat + 1) ∧ y.under = a.under ∧ y.bin = a.bin) ∧
    (base ≤ w → bin ≠ 64 → y.under = a.under ∧ y.overBin = a.overBin ∧
      (Tab.get (0 : W32) y.bin bin).toNat = min 0xFFFFFFFF ((Tab.get (0 : W32) a.bin bin).toNat + 1) ∧
      ∀ j, j ≠ bin → Tab.get (0 : W32) y.bin j = Tab.get (0 : W32) a.bin j) := by
  intro y base e bin
  have same : x.slot w = bin := binOf_eq ..
  rw [← same]
  refine ⟨fun h => ?_, fun h high => ?_, fun h inside => ?_⟩
  · have hy : y = { a with under := stick32 a.under, sat := a.sat || a.under = BitVec.allOnes 32 - 1 } := if_pos h
    rw [hy]
    exact ⟨stick32_toNat _, rfl, rfl⟩
  · have hy : y = { a with overBin := stick32 a.overBin, sat := a.sat || a.overBin = BitVec.allOnes 32 - 1 } :=
      (if_neg (Nat.not_lt.2 h)).trans (if_pos high)
    rw [hy]
    exact ⟨stick32_toNat _, rfl, rfl⟩
  · have hy : y = { a with
        bin := Tab.set a.bin (x.slot w) (stick32 (Tab.get (0 : W32) a.bin (x.slot w)))
        sat := a.sat || Tab.get (0 : W32) a.bin (x.slot w) = BitVec.allOnes 32 - 1 } :=
      (if_neg (Nat.not_lt.2 h)).trans (if_neg inside)
    rw [hy]
    refine ⟨rfl, rfl, ?_, fun j hj => Tab.get_set_ne _ _ _ hj⟩
    exact (congrArg BitVec.toNat (Tab.get_set_same ..)).trans (stick32_toNat _)

section
variable {s : State} {m : Nat}

/-- ENABLE 0 stops accumulation (R437). -/
theorem scalesSample_off (hm : m < 576) (v : Nat) (h : bit (s.monitor m).cfg 9 = false) : exec (.scalesSample m v) s = .next s :=
  (run_inMonitor hm _).trans (congrArg _ (if_neg (by rw [h]; decide)))

/-- SCALES_SAMPLE counts what the source gives: the value itself, or the level it reads. -/
theorem scalesSample_counts (hm : m < 576) (v : Nat) (h : bit (s.monitor m).cfg 9 = true) :
    let x := s.monitor m
    let a := x.live
    let src := fld x.cfg 0 8
    let r := (s.level m x).getD v
    let w := min r 0xFFFFFFFF
    let base := fld x.cfg 32 32
    let e := w - base
    let bin := if bit x.cfg 8 = true then (if e ≤ 1 then e else 2 * Nat.log2 e + bitsOf e (Nat.log2 e - 1) 1)
      else min 64 (e / max 1 (fld x.win 0 16))
    let up := fun (c : W32) => min 0xFFFFFFFF (c.toNat + 1)
    Completes (exec (.scalesSample m v) s) (fun t =>
      let y := (t.monitor m).live
      t = { s with obs := t.obs } ∧ (∀ j, j ≠ m → t.monitor j = s.monitor j) ∧
      t.monitor m = { x with live := y, prev := if src = 6 then (s.link (4 * (m / 128) + fld x.cfg 16 2)).replays else x.prev } ∧
      (srcLevel src = false → r = v) ∧ (src = 0x26 → r = s.pwr.p1) ∧ (src = 0x25 → r = (s.domain (fld x.cfg 16 11)).mw) ∧
      y.count = a.count + 1 ∧ y.sum = a.sum + w ∧ y.max.toNat = max a.max.toNat w ∧
      y.min.toNat = (if a.count = 0 then w else min a.min.toNat w) ∧
      y.start = a.start ∧ y.short = a.short ∧ y.gen = a.gen ∧ (a.sat = true → y.sat = true) ∧
      (w < base → y.under.toNat = up a.under ∧ y.overBin = a.overBin ∧ y.bin = a.bin) ∧
      (base ≤ w → bin = 64 → y.overBin.toNat = up a.overBin ∧ y.under = a.under ∧ y.bin = a.bin) ∧
      (base ≤ w → bin ≠ 64 → y.under = a.under ∧ y.overBin = a.overBin ∧
        (Tab.get (0 : W32) y.bin bin).toNat = up (Tab.get (0 : W32) a.bin bin) ∧
        ∀ j, j ≠ bin → Tab.get (0 : W32) y.bin j = Tab.get (0 : W32) a.bin j)) := by
  intro x a src r w base e bin up
  refine ⟨_, (run_inMonitor hm _).trans (congrArg _ (if_pos h)), ?_⟩
  beta_reduce
  rw [monitor_updMonitor_same, place_eq]
  obtain ⟨count, sum, most, fewest, start, short, gen, sat⟩ := binned_rest x (a.counted w) w
  obtain ⟨greatest, least⟩ := counted_extremes a (w := w) (Nat.min_le_right ..)
  refine ⟨rfl, fun j hj => monitor_updMonitor_ne hj, rfl, fun h => ?_, fun h => ?_, fun h => ?_, count, sum,
    (congrArg BitVec.toNat most).trans greatest, (congrArg BitVec.toNat fewest).trans least, start, short, gen, sat,
    binned_one x (a.counted w) w⟩
  · exact congrArg (·.getD v) (level_of_event h)
  · exact congrArg (·.getD v) (level_package h)
  · exact congrArg (·.getD v) (level_domain h)

end

end Sys2Proof.Machine
end

section
/-!
SUPPORT. The Selog tracer: what its packets leave of its settings and the threads, the event machine and the sinks (20 R439 to R446).
-/
namespace Sys2Proof.Machine

/-! ## The tracer of a stall -/

section
variable {s : State} {n : Nat} {f : Tracer → Tracer}

@[simp] theorem sel_updSel : (s.updSel n f).sel n = f (s.sel n) := by simp [State.sel, State.updSel]

theorem stall_updSel_ne {j : Nat} (h : j ≠ n) : (s.updSel n f).stall j = s.stall j := (State.stall_updStall ..).trans (if_neg h)

theorem updStall_updStall (s : State) (n : Nat) (f g : Stall → Stall) : (s.updStall n f).updStall n g = s.updStall n (fun x => g (f x)) := by
  simp [State.updStall]

theorem updSel_updSel (s : State) (n : Nat) (f g : Tracer → Tracer) : (s.updSel n f).updSel n g = s.updSel n (fun t => g (f t)) :=
  updStall_updStall ..

end

/-! ## What a packet leaves -/

/-- A tracer without what packets change: its buffer, the losses, the times of the last packet and SYNC, and the branches not yet told. -/
def Tracer.settled (t : Tracer) : Tracer := { t with buf := [], lost := 0, cyc := 0, sync := 0, open_ := [], last := [], rep := [] }

theorem Tracer.settled_st (t : Tracer) : t.settled.st = t.st := rfl

theorem Tracer.settled_pairs (t : Tracer) : t.settled.pairs = t.pairs := rfl

theorem tracing_iff (t : Tracer) : t.tracing = true ↔ t.st = 2 := decide_eq_true_iff

/-- Stall n's tracer has emitted packets: its buffer has grown at its end and its settings and state stay; of the rest of the device, at most
counters and event messages changed. -/
structure Emits (n : Nat) (s t : State) : Prop where
  observed : Observed s t
  settled : (t.sel n).settled = (s.sel n).settled
  grows : (s.sel n).buf <+: (t.sel n).buf

section
variable {s t u : State} {n : Nat} {f : Tracer → Tracer}

theorem Emits.refl (n : Nat) (s : State) : Emits n s s := ⟨.refl s, rfl, List.prefix_refl _⟩

theorem Emits.trans (h : Emits n s t) (g : Emits n t u) : Emits n s u :=
  ⟨h.observed.trans g.observed, g.settled.trans h.settled, h.grows.trans g.grows⟩

theorem Emits.foldl {α : Type} {f : State → α → State} (h : ∀ s a, Emits n s (f s a)) (l : List α) (s : State) :
    Emits n s (l.foldl f s) := by
  induction l generalizing s with
  | nil => exact .refl n s
  | cons a l ih => exact (h s a).trans (ih _)

theorem updSel_emits (h : (f (s.sel n)).settled = (s.sel n).settled) (g : (s.sel n).buf <+: (f (s.sel n)).buf) : Emits n s (s.updSel n f) :=
  ⟨updSel_observed .., by rwa [sel_updSel], by rwa [sel_updSel]⟩

/-- Notes of the tracer that are no packets. -/
theorem Emits.notes (h : Emits n s t) (hf : ∀ x, (f x).settled = x.settled ∧ (f x).buf = x.buf) : Emits n s (t.updSel n f) :=
  h.trans (updSel_emits (hf _).1 (by rw [(hf _).2]))

theorem count_sel (s : State) (n b k : Nat) : (s.count n b k).sel n = s.sel n := by
  have raised : ∀ (u : State) p, (u.raiseEvent p).sel n = u.sel n := fun u p => by
    rw [State.sel, State.sel, State.stall, State.stall, (raiseEvent_logged u p).stalls]
  unfold State.count
  extract_lets v u
  have counted : u.sel n = s.sel n := by simp [u, State.sel]
  split
  · split
    · exact (raised ..).trans counted
    · exact counted
  · exact counted

theorem selPut_emits (s : State) (n : Nat) (b : List Byte) (c : Nat) : Emits n s (s.selPut n b c) := by
  unfold State.selPut
  split
  · exact updSel_emits rfl (List.prefix_append ..)
  · have counted : Emits n s (s.count n 9 1) := ⟨count_observed .., by rw [count_sel], by rw [count_sel]⟩
    exact counted.notes fun _ => ⟨rfl, rfl⟩

theorem selSync_emits (s : State) (n : Nat) : Emits n s (s.selSync n) := (selPut_emits ..).notes fun _ => ⟨rfl, rfl⟩

theorem selOvf_emits (s : State) (n : Nat) : Emits n s (s.selOvf n) := by
  unfold State.selOvf
  dsimp only
  split
  · refine .trans (.notes (selPut_emits ..) ?_) (selSync_emits ..)
    exact fun _ => ⟨rfl, rfl⟩
  · exact .refl n s

theorem selEmit_emits (s : State) (n th ty : Nat) (b : List Byte) (c : Nat) : Emits n s (s.selEmit n th ty b c) := by
  unfold State.selEmit
  dsimp only
  split
  · exact ((selOvf_emits ..).trans (selSync_emits ..)).trans (selPut_emits ..)
  · exact (selOvf_emits ..).trans (selPut_emits ..)

theorem selRep_emits (s : State) (n k : Nat) : Emits n s (s.selRep n k) := by
  unfold State.selRep
  split
  · exact .refl n s
  · exact (selEmit_emits ..).notes fun _ => ⟨rfl, rfl⟩

theorem selBr_emits (s : State) (n k : Nat) : Emits n s (s.selBr n k) := by
  unfold State.selBr
  split
  · exact .refl n s
  · dsimp only
    split
    · split
      · refine .trans (.notes (.notes (.refl n s) ?_) ?_) (selRep_emits ..) <;> exact fun _ => ⟨rfl, rfl⟩
      · exact .notes (.notes (.refl n s) fun _ => ⟨rfl, rfl⟩) fun _ => ⟨rfl, rfl⟩
    · refine .notes (.trans (.trans (.notes (.refl n s) ?_) (selRep_emits ..)) (selEmit_emits ..)) ?_ <;> exact fun _ => ⟨rfl, rfl⟩

theorem selPc_emits (s : State) (n k r : Nat) (pc : Word) : Emits n s (s.selPc n k r pc) := by
  unfold State.selPc State.selPacket
  split
  · exact .notes (((selBr_emits ..).trans (selRep_emits ..)).trans (selEmit_emits ..)) fun _ => ⟨rfl, rfl⟩
  · exact .refl n s

theorem selEvent_emits (s : State) (n code : Nat) : Emits n s (s.selEvent n code) := by
  unfold State.selEvent
  split
  · exact selEmit_emits ..
  · exact .refl n s

/-- The branches that the threads have not yet told. -/
theorem branches_emit (s : State) (n : Nat) (l : List Nat) : Emits n s (l.foldl (fun s k => (s.selBr n k).selRep n k) s) :=
  .foldl (fun _ _ => (selBr_emits ..).trans (selRep_emits ..)) _ _

end

/-! ## Tracing begins (R439) -/

section
variable {s : State} {n : Nat}

/-- A tracer that enters TRACING at a cycle. -/
def Tracer.started (t : Tracer) (c : Nat) : Tracer := { t with st := 2, cyc := c, pairs := 0, open_ := [], last := [], rep := [] }

/-- The event and the SYNC that a trace begins with. -/
theorem selStart_emits (s : State) (n : Nat) : Emits n (((s.updSel n (·.started (s.cycle n))).selEvent n 6).selSync n) (s.selStart n) := by
  refine .foldl (fun u k => ?_) _ _
  split
  · exact .refl n u
  · exact selPc_emits ..

theorem selStart_starts (s : State) (n : Nat) : Emits n (s.updSel n (·.started (s.cycle n))) (s.selStart n) :=
  ((selEvent_emits ..).trans (selSync_emits ..)).trans (selStart_emits ..)

theorem selStart_observed (s : State) (n : Nat) : Observed s (s.selStart n) := (updSel_observed ..).trans (selStart_starts ..).observed

theorem selStart_settled (s : State) (n : Nat) : ((s.selStart n).sel n).settled = { (s.sel n).settled with st := 2, pairs := 0 } := by
  rw [(selStart_starts s n).settled, sel_updSel]
  rfl

theorem selStart_st (s : State) (n : Nat) : ((s.selStart n).sel n).st = 2 := by
  rw [← Tracer.settled_st, selStart_settled]

theorem selStart_pairs (s : State) (n : Nat) : ((s.selStart n).sel n).pairs = 0 := by
  rw [← Tracer.settled_pairs, selStart_settled]

/-- A packet that finds room is put at the buffer's end. -/
theorem selPut_room {b : List Byte} {c : Nat} (h : b.length ≤ 4096 - (s.sel n).buf.length) :
    s.selPut n b c = s.updSel n (fun t => { t with buf := t.buf ++ b, cyc := c }) := if_pos h

theorem cycle_updSel (f : Tracer → Tracer) : (s.updSel n f).cycle n = s.cycle n := by
  unfold State.cycle State.updSel
  rw [State.stall_updStall_same]
  rfl

/-- A SYNC starts at a multiple of 64 bytes of the stream (R441). -/
theorem syncBytes_aligned (s : State) (n : Nat) : ∃ r : List Byte, r.length = 22 ∧
    s.syncBytes n = zeros ((64 - ((s.sel n).wptr.toNat + (s.sel n).buf.length) % 64) % 64) ++ ([0x01, 0x53, 0x4C] ++ r) := by
  unfold State.syncBytes
  extract_lets t run gt
  refine ⟨toLE 1 (s.stall n).clk.cur ++ toLE 1 (run + 16 * fld t.cfg 0 4) ++ toLE 8 (s.cycle n) ++ toLE 8 gt ++ zeros 4, rfl, ?_⟩
  have marker : toLE 1 0x01 ++ toLE 2 0x4C53 = ([0x01, 0x53, 0x4C] : List Byte) := by decide
  rw [← marker]
  simp only [List.append_assoc, t, Tracer.pos]

theorem syncBytes_length (s : State) (n : Nat) :
    (s.syncBytes n).length = (64 - ((s.sel n).wptr.toNat + (s.sel n).buf.length) % 64) % 64 + 25 := by
  obtain ⟨r, hr, h⟩ := syncBytes_aligned s n
  rw [h]
  simp [zeros, hr]

/-- A SYNC that finds room. -/
theorem selSync_room (h : (s.syncBytes n).length ≤ 4096 - (s.sel n).buf.length) : s.selSync n =
    s.updSel n (fun t => { t with buf := t.buf ++ s.syncBytes n, cyc := s.cycle n, sync := s.cycle n }) := by
  rw [State.selSync, selPut_room h, updSel_updSel]

/-- A packet of no loss and no time passed has no cycle delta. -/
theorem selEmit_now {th ty c : Nat} {b : List Byte} (hl : (s.sel n).lost = 0) (hc : (s.sel n).cyc = c)
    (h : b.length + 1 ≤ 4096 - (s.sel n).buf.length) : s.selEmit n th ty b c =
    s.updSel n (fun t => { t with buf := t.buf ++ (toLE 1 (ty + 16 * th) ++ b), cyc := c }) := by
  have none_lost : s.selOvf n = s := if_neg (fun k => k.1 hl)
  unfold State.selEmit
  rw [none_lost]
  simp only [hc, Nat.sub_self]
  rw [if_neg (by decide), hc, Nat.max_self, Nat.sub_self]
  refine selPut_room ?_
  simp [deltaOf, toLE]
  omega

/-- A trace that begins on an empty buffer begins with "trace start" and a SYNC. -/
theorem selStart_stream (hb : (s.sel n).buf = []) (hl : (s.sel n).lost = 0) : ∃ r : List Byte,
    ((s.selStart n).sel n).buf =
      [7, 6, 0] ++ (zeros ((64 - ((s.sel n).wptr.toNat + 3) % 64) % 64) ++ ([0x01, 0x53, 0x4C] ++ r)) := by
  have event : (s.updSel n (·.started (s.cycle n))).selEvent n 6 =
      s.updSel n (fun t => { t.started (s.cycle n) with buf := t.buf ++ [7, 6, 0] }) := by
    have tracing : ((s.updSel n (·.started (s.cycle n))).sel n).tracing = true := by rw [sel_updSel]; rfl
    rw [State.selEvent, if_pos tracing, cycle_updSel, selEmit_now, updSel_updSel]
    · rfl
    · rw [sel_updSel]; exact hl
    · rw [sel_updSel]; rfl
    · rw [sel_updSel]; simp [Tracer.started, hb, toLE]
  obtain ⟨r, hr, sync⟩ := syncBytes_aligned (s.updSel n (fun t => { t.started (s.cycle n) with buf := t.buf ++ [7, 6, 0] })) n
  have grown := (selStart_emits s n).grows
  rw [event, selSync_room, sel_updSel, sync] at grown
  · obtain ⟨r', h⟩ := grown
    refine ⟨r ++ r', ?_⟩
    rw [← h]
    simp [hb, Tracer.started]
  · rw [syncBytes_length]
    simp [hb]
    omega

/-- The tracer traces from s on: t counts no pairs yet, and an empty buffer now holds "trace start" and a SYNC. -/
def TraceBegins (n : Nat) (s t : State) : Prop :=
  (t.sel n).st = 2 ∧ (t.sel n).pairs = 0 ∧ t.mem = s.mem ∧
  ((s.sel n).buf = [] → (s.sel n).lost = 0 → (t.sel n).buf.take 3 = [7, 6, 0] ∧
    ((s.sel n).wptr.toNat % 64 = 0 → ((t.sel n).buf.drop 64).take 3 = [0x01, 0x53, 0x4C]))

theorem selStart_begins (s : State) (n : Nat) : TraceBegins n s (s.selStart n) := by
  refine ⟨selStart_st s n, selStart_pairs s n, (selStart_observed s n).mem, fun hb hl => ?_⟩
  obtain ⟨r, h⟩ := selStart_stream hb hl
  rw [h]
  refine ⟨rfl, fun hw => ?_⟩
  rw [show (64 - ((s.sel n).wptr.toNat + 3) % 64) % 64 = 61 by omega]
  rfl

end

/-! ## What the event machine leaves (R439) -/

/-- The settings and the read position of stall n's tracer, and the stall's threads. -/
def State.steady (n : Nat) (s : State) : Word × Word × Tab Thread := ((s.sel n).cfg, (s.sel n).rptr, (s.stall n).th)

section
variable {s t : State} {n : Nat} {f : Tracer → Tracer}

theorem steady_thread (h : t.steady n = s.steady n) (k : Nat) : t.thread n k = s.thread n k := by
  have th : (t.stall n).th = (s.stall n).th := congrArg (fun x => x.2.2) h
  rw [State.thread, State.thread, Stall.thread, Stall.thread, th]

theorem steady_cfg (h : t.steady n = s.steady n) : (t.sel n).cfg = (s.sel n).cfg := congrArg Prod.fst h

theorem steady_rptr (h : t.steady n = s.steady n) : (t.sel n).rptr = (s.sel n).rptr := congrArg (fun x => x.2.1) h

theorem Emits.steady (h : Emits n s t) : t.steady n = s.steady n := by
  have cfg := congrArg Tracer.cfg h.settled
  have rptr := congrArg Tracer.rptr h.settled
  exact Prod.ext cfg (Prod.ext rptr (h.observed.th n))

theorem steady_updSel (h : t.steady n = s.steady n) (hf : ∀ x, (f x).cfg = x.cfg ∧ (f x).rptr = x.rptr) :
    (t.updSel n f).steady n = s.steady n := by
  rw [← h]
  unfold State.steady
  rw [sel_updSel, (hf _).1, (hf _).2, (updSel_observed t n f).th n]

theorem selStart_steady (s : State) (n : Nat) : (s.selStart n).steady n = s.steady n :=
  (selStart_starts ..).steady.trans (steady_updSel rfl fun _ => ⟨rfl, rfl⟩)

theorem selArmed_steady (s : State) (n : Nat) : (s.selArmed n).steady n = s.steady n := by
  have armed : (s.updSel n (fun t => { t with st := 1 })).steady n = s.steady n := steady_updSel rfl fun _ => ⟨rfl, rfl⟩
  unfold State.selArmed
  dsimp only
  split
  · exact (selStart_steady ..).trans armed
  · exact armed

/-- ARMED, or with start code 0 at once TRACING. -/
theorem selArmed_st (s : State) (n : Nat) : ((s.selArmed n).sel n).st = if fld (s.sel n).cfg 8 2 = 0 then 2 else 1 := by
  unfold State.selArmed
  dsimp only
  rw [sel_updSel]
  split
  · exact selStart_st ..
  · rw [sel_updSel]

/-- The sink's bytes lie in the memories. -/
theorem sinkWrite_memMoved (s : State) (n off : Nat) (b : List Byte) : MemMoved s (s.sinkWrite n off b) := by
  unfold State.sinkWrite
  split <;> rfl

theorem sinkWrite_steady (s : State) (n off : Nat) (b : List Byte) : (s.sinkWrite n off b).steady n = s.steady n := by
  rw [sinkWrite_memMoved s n off b]
  rfl

theorem sinkMove_steady (s : State) (n : Nat) : (s.sinkMove n).steady n = s.steady n := by
  unfold State.sinkMove
  dsimp only
  split
  · rfl
  · exact steady_updSel ((sinkWrite_steady ..).trans (sinkWrite_steady ..)) fun _ => ⟨rfl, rfl⟩

/-- The tracer in DONE, before REPEAT arms it again. -/
def State.stopped (s : State) (n : Nat) : State :=
  ((((threads4.foldl (fun s k => (s.selBr n k).selRep n k) s).selEmit n 0 7 (toLE 2 7)
    ((threads4.foldl (fun s k => (s.selBr n k).selRep n k) s).cycle n)).sinkMove n).updSel n (fun t => { t with st := 3 }))

theorem selDone_eq (s : State) (n : Nat) : s.selDone n = if bit ((s.stopped n).sel n).cfg 6 then (s.stopped n).selArmed n else s.stopped n :=
  rfl

theorem stopped_steady (s : State) (n : Nat) : (s.stopped n).steady n = s.steady n :=
  steady_updSel ((sinkMove_steady ..).trans ((branches_emit ..).trans (selEmit_emits ..)).steady) fun _ => ⟨rfl, rfl⟩

theorem selDone_steady (s : State) (n : Nat) : (s.selDone n).steady n = s.steady n := by
  rw [selDone_eq]
  split
  · exact (selArmed_steady ..).trans (stopped_steady ..)
  · exact stopped_steady ..

/-- DONE, or with REPEAT armed again. -/
theorem selDone_st (s : State) (n : Nat) : ((s.selDone n).sel n).st =
    if bit (s.sel n).cfg 6 = true then (if fld (s.sel n).cfg 8 2 = 0 then 2 else 1) else 3 := by
  have cfg := steady_cfg (stopped_steady s n)
  rw [selDone_eq, cfg]
  split
  · rw [selArmed_st, cfg]
  · rw [State.stopped, sel_updSel]

theorem selFlush_steady (s : State) (n : Nat) : (s.selFlush n).steady n = s.steady n := by
  unfold State.selFlush
  dsimp only
  split
  · exact (selDone_steady ..).trans (sinkMove_steady ..)
  · split
    · exact (selOvf_emits ..).steady.trans (sinkMove_steady ..)
    · exact sinkMove_steady ..

end

/-! ## Writes of SELCTL (R439, R445) -/

section
variable {s u : State} {q : Req} {n b : Nat} {v : W32}

theorem awake_stall : (s.awake n).stall n = { s.stall n with gated := false } :=
  State.stall_updStall_same s n (fun x => { x with gated := false })

theorem awake_sel : (s.awake n).sel n = s.sel n := by
  unfold State.sel
  rw [awake_stall]

/-- A write to the block of a stall that answers wakes it (22 R476; 15 R327). -/
theorem stallTry_of_open (h : s.blockOpen q n) (off bytes : Nat) (f : State → State) : s.stallTry q n off bytes true f = f (s.awake n) := by
  obtain ⟨reached, own, working, present, up, powered⟩ := h
  cases q with
  | ld p => simp [State.stallTry, State.awake, reached, own p rfl, working, present, up, powered]
  | host => simp [State.stallTry, State.awake, reached, working, present, up, powered]
  | sp i => simp [State.stallTry, State.awake, reached, working, present, up, powered]

/-- The device with the stall awake and bits of SELCTL set (00 R7). -/
def State.ctlSet (s : State) (n : Nat) (v : W32) : State := (s.awake n).orRw32 (stallBase n + 0x428) v

theorem run_selCtl (hq : inReq q = true) (hn : n < 256) (ho : s.blockOpen q n) (v : W32) (f : State → State) :
    run (inReq q && inStall n) (s.selCtl q n v f) = .next (f (s.ctlSet n (v &&& 7))) := by
  have exist : (inReq q && inStall n) = true := by simp [hq, inStall, hn]
  rw [exist, run_true, State.selCtl, stallTry_of_open ho]
  rfl

theorem exec_selArm (hq : inReq q = true) (hn : n < 256) (ho : s.blockOpen q n) :
    exec (.selArm q n) s = .next ((s.ctlSet n 1).selArm n) := run_selCtl hq hn ho 1 _

theorem exec_selStop (hq : inReq q = true) (hn : n < 256) (ho : s.blockOpen q n) :
    exec (.selStop q n) s = .next ((s.ctlSet n 2).selStop n) := run_selCtl hq hn ho 2 _

theorem exec_selDisarm (hq : inReq q = true) (hn : n < 256) (ho : s.blockOpen q n) :
    exec (.selDisarm q n) s = .next ((s.ctlSet n 4).selDisarm n) := run_selCtl hq hn ho 4 _

theorem ctlSet_stall : (s.ctlSet n v).stall n = { s.stall n with gated := false } := awake_stall

theorem ctlSet_stall_ne {j : Nat} (h : j ≠ n) : (s.ctlSet n v).stall j = s.stall j :=
  (State.stall_updStall s n j (fun x => { x with gated := false })).trans (if_neg h)

theorem ctlSet_sel : (s.ctlSet n v).sel n = s.sel n := awake_sel

theorem ctlSet_steady : (s.ctlSet n v).steady n = s.steady n := by
  unfold State.steady
  rw [ctlSet_sel, ctlSet_stall]

theorem ctlSet_pitchOf : (s.ctlSet n v).pitchOf n = s.pitchOf n := by
  unfold State.pitchOf State.applied
  rw [ctlSet_stall]
  rfl

/-- SELCTL lies apart from the other registers. -/
theorem ctlSet_rw32 {o : Nat} (h : o / 4 ≠ (stallBase n + 0x428) / 4) : (s.ctlSet n v).rw32 o = s.rw32 o :=
  (State.rw32_setRw32 (s.awake n) ..).trans (if_neg h)

theorem ctlSet_rw64 {o : Nat} (h : o / 4 ≠ (stallBase n + 0x428) / 4) (h' : (o + 4) / 4 ≠ (stallBase n + 0x428) / 4) :
    (s.ctlSet n v).rw64 o = s.rw64 o := by
  unfold State.rw64
  rw [ctlSet_rw32 h, ctlSet_rw32 h']

/-- The settings that an ARM latches. -/
theorem ctlSet_settings {o : Nat} (h : o = 0x400 ∨ o = 0x408 ∨ o = 0x410 ∨ o = 0x418 ∨ o = 0x420) :
    (s.ctlSet n v).rw64 (stallBase n + o) = s.rw64 (stallBase n + o) := ctlSet_rw64 (by omega) (by omega)

/-- Buffer table entries are found by the ring blocks' registers and read from host memory. -/
theorem readBufs_congr {p : Nat} {r : Bool} (base : u.buftBase p = s.buftBase p) (count : u.buftCount p = s.buftCount p) (mem : u.mem = s.mem)
    (l : List (Nat × Bool)) : u.readBufs p r l = s.readBufs p r l := by
  induction l with
  | nil => rfl
  | cons e l ih =>
    unfold State.readBufs State.rdHost
    rw [ih, base, count, mem]

theorem ctlSet_readBufs (p : Nat) (r : Bool) (l : List (Nat × Bool)) : (s.ctlSet n v).readBufs p r l = s.readBufs p r l := by
  refine readBufs_congr (u := s.ctlSet n v) (s := s) ?_ ?_ rfl l
  · rw [State.buftBase, State.buftBase, ctlSet_rw64]
    · unfold stallBase; omega
    · unfold stallBase; omega
  · rw [State.buftCount, State.buftCount, ctlSet_rw32]
    unfold stallBase; omega

theorem ctlSet_selSink : (s.ctlSet n v).selSink n = s.selSink n := by
  unfold State.selSink
  dsimp only
  rw [ctlSet_settings (by decide), ctlSet_settings (by decide), ctlSet_settings (by decide), ctlSet_readBufs, ctlSet_pitchOf]

/-- A tracer with the settings of stall n's registers latched, its sink at b. -/
def State.latch (s : State) (n b : Nat) (t : Tracer) : Tracer :=
  { t with
    err := false, cfg := s.rw64 (stallBase n + 0x400), trig := s.rw64 (stallBase n + 0x408), stopAt := s.rw64 (stallBase n + 0x410)
    sink := s.rw64 (stallBase n + 0x418), hoff := s.rw64 (stallBase n + 0x420), base := b }

theorem selArm_active (h : (s.sel n).st = 1 ∨ (s.sel n).st = 2) : (s.ctlSet n 1).selArm n = s.ctlSet n 1 := by
  rw [State.selArm, ctlSet_sel, if_pos h]

theorem selArm_refused (h : ¬ ((s.sel n).st = 1 ∨ (s.sel n).st = 2)) (hs : s.selSink n = none) :
    (s.ctlSet n 1).selArm n = (s.ctlSet n 1).updSel n (fun y => { y with err := true }) := by
  rw [State.selArm, ctlSet_sel, if_neg h, ctlSet_selSink, hs]

theorem selArm_latches (h : ¬ ((s.sel n).st = 1 ∨ (s.sel n).st = 2)) (hs : s.selSink n = some b) :
    (s.ctlSet n 1).selArm n = ((s.ctlSet n 1).updSel n (s.latch n b)).selArmed n := by
  rw [State.selArm, ctlSet_sel, if_neg h, ctlSet_selSink, hs]
  dsimp only
  rw [ctlSet_settings (by decide), ctlSet_settings (by decide), ctlSet_settings (by decide), ctlSet_settings (by decide),
    ctlSet_settings (by decide)]
  rfl

/-- ERR and what an ARM latches. -/
def Tracer.config (t : Tracer) : Bool × Word × Word × Word × Word × Word × Nat := (t.err, t.cfg, t.trig, t.stopAt, t.sink, t.hoff, t.base)

theorem Tracer.config_settled (t : Tracer) : t.settled.config = t.config := rfl

theorem selArmed_config (s : State) (n : Nat) : ((s.selArmed n).sel n).config = (s.sel n).config := by
  unfold State.selArmed
  dsimp only
  split
  · rw [← Tracer.config_settled, selStart_settled, sel_updSel]
    rfl
  · rw [sel_updSel]
    rfl

theorem TraceBegins.of {t : State} (h : TraceBegins n u t) (mem : u.mem = s.mem)
    (sel : (u.sel n).buf = (s.sel n).buf ∧ (u.sel n).lost = (s.sel n).lost ∧ (u.sel n).wptr = (s.sel n).wptr) : TraceBegins n s t := by
  obtain ⟨buf, lost, wptr⟩ := sel
  unfold TraceBegins at h
  rw [mem, buf, lost, wptr] at h
  exact h

theorem selArmed_starts (h : fld (s.sel n).cfg 8 2 = 0) : TraceBegins n s (s.selArmed n) := by
  have code : fld ((s.updSel n (fun t => { t with st := 1 })).sel n).cfg 8 2 = 0 := by rw [sel_updSel]; exact h
  have begun := selStart_begins (s.updSel n (fun t => { t with st := 1 })) n
  unfold State.selArmed
  dsimp only
  rw [if_pos code]
  refine begun.of rfl ?_
  rw [sel_updSel]
  exact ⟨rfl, rfl, rfl⟩

theorem selArmed_waits (h : fld (s.sel n).cfg 8 2 ≠ 0) : s.selArmed n = s.updSel n (fun t => { t with st := 1 }) := by
  unfold State.selArmed
  dsimp only
  rw [sel_updSel]
  exact if_neg h

/-- ARM latches the settings and traces at once for start code 0. -/
theorem selArm_arms (hq : inReq q = true) (hn : n < 256) (ho : s.blockOpen q n) (h : ¬ ((s.sel n).st = 1 ∨ (s.sel n).st = 2))
    (hs : s.selSink n = some b) : Completes (exec (.selArm q n) s) (fun t =>
      let y := t.sel n
      let r := fun (o : Nat) => s.rw64 (stallBase n + o)
      y.err = false ∧ y.cfg = r 0x400 ∧ y.trig = r 0x408 ∧ y.stopAt = r 0x410 ∧ y.sink = r 0x418 ∧ y.hoff = r 0x420 ∧ y.base = b ∧
      (∀ k, t.thread n k = s.thread n k) ∧ (fld y.cfg 8 2 = 0 → TraceBegins n s t) ∧
      (fld y.cfg 8 2 ≠ 0 → y.st = 1 ∧ y.buf = (s.sel n).buf ∧ ∀ j, j ≠ n → t.stall j = s.stall j)) := by
  have latched : ((s.ctlSet n 1).updSel n (s.latch n b)).sel n = s.latch n b (s.sel n) := by rw [sel_updSel, ctlSet_sel]
  have config := selArmed_config ((s.ctlSet n 1).updSel n (s.latch n b)) n
  rw [latched] at config
  have threads : ∀ k, (((s.ctlSet n 1).updSel n (s.latch n b)).selArmed n).thread n k = s.thread n k := by
    intro k
    rw [steady_thread (selArmed_steady ..), (updSel_observed ..).thread, steady_thread ctlSet_steady]
  simp only [Tracer.config, State.latch, Prod.mk.injEq] at config
  obtain ⟨err, cfg, trig, stopAt, sink, hoff, base⟩ := config
  refine ⟨_, (exec_selArm hq hn ho).trans (congrArg _ (selArm_latches h hs)), err, cfg, trig, stopAt, sink, hoff, base, threads,
    fun code => ?_, fun code => ?_⟩
  · rw [cfg] at code
    refine (selArmed_starts (by rw [latched]; exact code)).of rfl ?_
    rw [latched]
    exact ⟨rfl, rfl, rfl⟩
  · rw [cfg] at code
    rw [selArmed_waits (by rw [latched]; exact code), sel_updSel, latched]
    exact ⟨rfl, rfl, fun j hj => (stall_updSel_ne hj).trans ((stall_updSel_ne hj).trans (ctlSet_stall_ne hj))⟩

end

/-! ## Starts and stops (R439) -/

section
variable {s u : State} {q : Req} {n : Nat} {z : Word}

/-- The end of a trace of s, whose settings u still has. -/
theorem selDone_ends (h : u.steady n = s.steady n) :
    (¬ bit (s.sel n).cfg 6 = true → ((u.selDone n).sel n).st = 3) ∧
    (bit (s.sel n).cfg 6 = true → ((u.selDone n).sel n).st = if fld (s.sel n).cfg 8 2 = 0 then 2 else 1) ∧
    ∀ k, (u.selDone n).thread n k = s.thread n k := by
  rw [selDone_st, steady_cfg h]
  exact ⟨fun once => if_neg once, fun again => if_pos again, steady_thread ((selDone_steady ..).trans h)⟩

theorem selStop_idle (hq : inReq q = true) (hn : n < 256) (ho : s.blockOpen q n) (h : ¬ ((s.sel n).st = 1 ∨ (s.sel n).st = 2)) :
    exec (.selStop q n) s = .next (s.ctlSet n 2) := by
  rw [exec_selStop hq hn ho, State.selStop, ctlSet_sel, if_neg h]

theorem selStop_stops (hq : inReq q = true) (hn : n < 256) (ho : s.blockOpen q n) (h : (s.sel n).st = 1 ∨ (s.sel n).st = 2) :
    exec (.selStop q n) s = .next ((s.ctlSet n 2).selDone n) := by
  rw [exec_selStop hq hn ho, State.selStop, ctlSet_sel, if_pos h]

theorem selDisarm_disarms (hq : inReq q = true) (hn : n < 256) (ho : s.blockOpen q n) :
    exec (.selDisarm q n) s = .next ((s.updStall n (fun y => { y with
      gated := false
      sel := { y.sel with st := 0, buf := [], lost := 0, open_ := [], last := [], rep := [] } })).orRw32 (stallBase n + 0x428) 4) := by
  have both := updStall_updStall s n (fun y => { y with gated := false })
    (fun y => { y with sel := { y.sel with st := 0, buf := [], lost := 0, open_ := [], last := [], rep := [] } })
  rw [exec_selDisarm hq hn ho, ← both]
  rfl

theorem exec_traceStart (hn : n < 256) : exec (.traceStart n) s = .next
    (if (s.sel n).st = 1 ∧ (fld (s.sel n).cfg 8 2 = 3 → (s.sel n).trig.toNat ≤ s.copyTime (n / 64) s.time) then s.selStart n else s) := by
  change run (inStall n) _ = _
  rw [inStall, decide_eq_true hn, run_true]
  rfl

theorem traceStart_early (hn : n < 256)
    (h : ¬ ((s.sel n).st = 1 ∧ (fld (s.sel n).cfg 8 2 = 3 → (s.sel n).trig.toNat ≤ s.copyTime (n / 64) s.time))) :
    exec (.traceStart n) s = .next s := (exec_traceStart hn).trans (congrArg _ (if_neg h))

theorem traceStart_starts (hn : n < 256)
    (h : (s.sel n).st = 1 ∧ (fld (s.sel n).cfg 8 2 = 3 → (s.sel n).trig.toNat ≤ s.copyTime (n / 64) s.time)) :
    Completes (exec (.traceStart n) s) (TraceBegins n s) := ⟨_, (exec_traceStart hn).trans (congrArg _ (if_pos h)), selStart_begins s n⟩

/-- The stop event that SELCFG names has come. -/
def State.stopCame (s : State) (n : Nat) : Prop :=
  (s.sel n).st = 2 ∧ fld (s.sel n).cfg 10 3 ≠ 0 ∧ (fld (s.sel n).cfg 10 3 = 3 → (s.sel n).stopAt.toNat ≤ (s.sel n).pairs) ∧
  (fld (s.sel n).cfg 10 3 = 4 → (s.sel n).stopAt.toNat ≤ s.copyTime (hallOf n) s.time)

theorem traceStop_early (hn : n < 256) (h : ¬ s.stopCame n) : exec (.traceStop n) s = .next s := by
  change run (inStall n) _ = _
  rw [inStall, decide_eq_true hn, run_true, if_neg]
  simpa [State.stopCame, tracing_iff, imp_iff_not_or, and_assoc, or_assoc] using h

theorem traceStop_stops (hn : n < 256) (h : s.stopCame n) : exec (.traceStop n) s = .next (s.selDone n) := by
  change run (inStall n) _ = _
  rw [inStall, decide_eq_true hn, run_true, if_pos]
  simpa [State.stopCame, tracing_iff, imp_iff_not_or, and_assoc, or_assoc] using h

/-! ## SYNCs (R443) -/

theorem exec_selogSync (hn : n < 256) : exec (.selogSync n) s = .next
    (if (s.sel n).sync + 4096 * max 1 (fld (s.sel n).cfg 16 16) ≤ s.cycle n then s.selSyncOn n else s) := by
  change run (inStall n) _ = _
  rw [inStall, decide_eq_true hn, run_true]

theorem selogSync_early (hn : n < 256)
    (h : (s.sel n).st ≠ 2 ∨ ¬ (s.sel n).sync + 4096 * max 1 (fld (s.sel n).cfg 16 16) ≤ s.cycle n) : exec (.selogSync n) s = .next s := by
  rw [exec_selogSync hn]
  split
  · next late =>
    have idle : ¬ (s.sel n).tracing = true := fun e => h.elim (fun k => k ((tracing_iff _).1 e)) (fun k => k late)
    rw [State.selSyncOn, if_neg idle]
  · rfl

/-- A SYNC due ends 25 bytes after a multiple of 64 (R441). -/
theorem selogSync_due (hn : n < 256) (h : (s.sel n).st = 2) (late : (s.sel n).sync + 4096 * max 1 (fld (s.sel n).cfg 16 16) ≤ s.cycle n)
    (room : (s.syncBytes n).length ≤ 4096 - (s.sel n).buf.length) :
    ((s.sel n).wptr.toNat + (s.sel n).buf.length + (s.syncBytes n).length) % 64 = 25 ∧
    exec (.selogSync n) s = .next (s.updSel n (fun y => { y with
      buf := y.buf ++ s.syncBytes n
      cyc := s.cycle n
      sync := s.cycle n })) := by
  refine ⟨by rw [syncBytes_length]; omega, ?_⟩
  rw [exec_selogSync hn, if_pos late, State.selSyncOn, if_pos ((tracing_iff _).2 h), selSync_room room]

/-! ## SELRPTR (R446) -/

theorem exec_selrptrWrite (hq : inReq q = true) (hn : n < 256) (ho : s.blockOpen q n) :
    exec (.selrptrWrite q n z) s = .next ((s.awake n).selRptr n z) := by
  change run (inReq q && inStall n) _ = _
  rw [hq, inStall, decide_eq_true hn, Bool.and_true, run_true, stallTry_of_open ho]

theorem selrptrWrite_quiet (hq : inReq q = true) (hn : n < 256) (ho : s.blockOpen q n) (hb : (s.sel n).buf.length < 2048)
    (h : (s.sel n).st ≠ 3 ∨ (s.sel n).buf = []) :
    exec (.selrptrWrite q n z) s = .next ((s.awake n).updSel n (fun y => { y with rptr := z })) := by
  rw [exec_selrptrWrite hq hn ho, State.selRptr, sel_updSel, awake_sel, if_neg]
  rintro (full | ⟨done, left⟩)
  · exact absurd full (Nat.not_le.2 hb)
  · exact h.elim (· done) left

theorem selrptrWrite_writes (hq : inReq q = true) (hn : n < 256) (ho : s.blockOpen q n) :
    Completes (exec (.selrptrWrite q n z) s) (fun t => (t.sel n).rptr = z ∧ ∀ k, t.thread n k = s.thread n k) := by
  have written : (((s.awake n).updSel n (fun y => { y with rptr := z })).sel n).rptr = z := by rw [sel_updSel]
  have threads : ∀ k, ((s.awake n).updSel n (fun y => { y with rptr := z })).thread n k = s.thread n k := fun k => by
    rw [(updSel_observed ..).thread, State.thread, awake_stall]
    rfl
  refine ⟨_, exec_selrptrWrite hq hn ho, ?_⟩
  unfold State.selRptr
  dsimp only
  split
  · exact ⟨(steady_rptr (selFlush_steady ..)).trans written, fun k => (steady_thread (selFlush_steady ..) k).trans (threads k)⟩
  · exact ⟨written, threads⟩

end

end Sys2Proof.Machine
end

section
/-!
SUPPORT. The sinks of the tracer: a flush writes the bytes that a sink takes along its ring (20 R444, R446).
-/
namespace Sys2Proof.Machine

/-! ## Bytes written one by one -/

/-- Byte j of a list is written at the address f j. -/
def Mem.wrAt : Mem → (Nat → Nat) → List Byte → Mem
  | m, _, [] => m
  | m, f, b :: l => Mem.wrAt (Mem.wr m (f 0) b) (fun j => f (j + 1)) l

section
variable {m : Mem} {f g : Nat → Nat} {l l' : List Byte} {a j n off : Nat}

theorem Mem.wrBytes_eq_wrAt : Mem.wrBytes m a l = Mem.wrAt m (fun j => a + j) l := by
  induction l generalizing m a with
  | nil => rfl
  | cons b l ih =>
    rw [Mem.wrBytes, Mem.wrAt, ih]
    simp only [Nat.add_comm, Nat.add_left_comm, Nat.add_zero]

theorem Mem.wrShelf_eq_wrAt : Mem.wrShelf m n off l = Mem.wrAt m (fun j => shelfAddr n (off + j)) l := by
  induction l generalizing m off with
  | nil => rfl
  | cons b l ih =>
    rw [Mem.wrShelf, Mem.wrAt, ih]
    simp only [Nat.add_comm, Nat.add_left_comm, Nat.add_zero]

theorem Mem.wrAt_congr (h : ∀ j < l.length, f j = g j) : Mem.wrAt m f l = Mem.wrAt m g l := by
  induction l generalizing m f g with
  | nil => rfl
  | cons b l ih =>
    rw [Mem.wrAt, Mem.wrAt, h 0 (Nat.zero_lt_succ _)]
    exact ih fun j hj => h (j + 1) (Nat.succ_lt_succ hj)

theorem Mem.wrAt_append : Mem.wrAt m f (l ++ l') = Mem.wrAt (Mem.wrAt m f l) (fun j => f (l.length + j)) l' := by
  induction l generalizing m f with
  | nil => simp [Mem.wrAt]
  | cons b l ih =>
    rw [List.cons_append, Mem.wrAt, Mem.wrAt, ih]
    simp only [List.length_cons, Nat.add_right_comm]

theorem Mem.rd_wrAt_out (h : ∀ j < l.length, a ≠ f j) : Mem.rd (Mem.wrAt m f l) a = Mem.rd m a := by
  induction l generalizing m f with
  | nil => rfl
  | cons b l ih =>
    rw [Mem.wrAt, ih fun j hj => h (j + 1) (Nat.succ_lt_succ hj), Mem.rd_wr, if_neg (h 0 (Nat.zero_lt_succ _))]

/-- Bytes written at addresses of their own read as written. -/
theorem Mem.rd_wrAt_inside (h : ∀ i < l.length, ∀ j < l.length, f i = f j → i = j) (hj : j < l.length) :
    Mem.rd (Mem.wrAt m f l) (f j) = l.getD j 0 := by
  induction l generalizing m f j with
  | nil => exact absurd hj (Nat.not_lt_zero _)
  | cons b l ih =>
    rw [Mem.wrAt]
    cases j with
    | zero =>
      rw [Mem.rd_wrAt_out, Mem.rd_wr, if_pos rfl]
      · rfl
      · exact fun i hi e => absurd (h 0 (Nat.zero_lt_succ _) (i + 1) (Nat.succ_lt_succ hi) e) (Nat.succ_ne_zero i).symm
    | succ j =>
      have apart : ∀ i < l.length, ∀ k < l.length, f (i + 1) = f (k + 1) → i = k := fun i hi k hk e =>
        Nat.succ.inj (h (i + 1) (Nat.succ_lt_succ hi) (k + 1) (Nat.succ_lt_succ hk) e)
      exact ih apart (Nat.lt_of_succ_lt_succ hj)

end

/-! ## A ring -/

section
variable {m : Mem} {g : Nat → Nat} {b : List Byte} {size base w : Nat}

/-- Bytes written up to the end of a ring and on from its start stand along it. -/
theorem wrAt_ring (g : Nat → Nat) (hs : 0 < size) (hb : b.length ≤ size) :
    Mem.wrAt (Mem.wrAt m (fun j => g (base + w % size + j)) (b.take (size - w % size))) (fun j => g (base + 0 + j))
      (b.drop (size - w % size)) = Mem.wrAt m (fun j => g (base + (w + j) % size)) b := by
  have below : w % size < size := Nat.mod_lt _ hs
  have split := Mem.wrAt_append (m := m) (f := fun j => g (base + (w + j) % size)) (l := b.take (size - w % size))
    (l' := b.drop (size - w % size))
  rw [List.take_append_drop] at split
  have before : ∀ j < (b.take (size - w % size)).length, g (base + w % size + j) = g (base + (w + j) % size) := fun j hj => by
    rw [List.length_take] at hj
    rw [Nat.add_assoc, Nat.add_mod w j, Nat.mod_eq_of_lt (a := j) (by omega), Nat.mod_eq_of_lt (a := w % size + j) (by omega)]
  have after : ∀ j < (b.drop (size - w % size)).length,
      g (base + 0 + j) = g (base + (w + ((b.take (size - w % size)).length + j)) % size) := fun j hj => by
    rw [List.length_drop] at hj
    have wrapped : w + ((b.take (size - w % size)).length + j) = size * (w / size + 1) + j := by
      rw [List.length_take, Nat.mul_succ]
      have := Nat.div_add_mod w size
      omega
    rw [wrapped, Nat.mul_add_mod, Nat.mod_eq_of_lt (a := j) (by omega), Nat.add_zero]
  rw [split, Mem.wrAt_congr before, Mem.wrAt_congr after]

/-- The places of a ring are apart. -/
theorem ring_inj {i j : Nat} (hi : i < size) (hj : j < size) (h : (w + i) % size = (w + j) % size) : i = j := by
  have same : i ≡ j [MOD size] := Nat.ModEq.add_left_cancel' w h
  rwa [Nat.ModEq, Nat.mod_eq_of_lt hi, Nat.mod_eq_of_lt hj] at same

/-- What memory holds after bytes have been written along a ring. -/
theorem wrAt_ring_reads (hg : ∀ i < size, ∀ j < size, g (base + i) = g (base + j) → i = j) (hb : b.length ≤ size) :
    (∀ j < b.length, Mem.rd (Mem.wrAt m (fun j => g (base + (w + j) % size)) b) (g (base + (w + j) % size)) = b.getD j 0) ∧
    ∀ a, (∀ j < b.length, a ≠ g (base + (w + j) % size)) → Mem.rd (Mem.wrAt m (fun j => g (base + (w + j) % size)) b) a = Mem.rd m a := by
  have apart : ∀ i < b.length, ∀ j < b.length, g (base + (w + i) % size) = g (base + (w + j) % size) → i = j := fun i hi j hj e =>
    have lt : ∀ k, k % size < size := fun k => Nat.mod_lt _ (by omega)
    ring_inj (by omega) (by omega) (hg _ (lt _) _ (lt _) e)
  exact ⟨fun j hj => Mem.rd_wrAt_inside (f := fun j => g (base + (w + j) % size)) apart hj, fun a h => Mem.rd_wrAt_out h⟩

theorem shelfAddr_inj (n base : Nat) (hs : size ≤ 2097152) :
    ∀ i < size, ∀ j < size, shelfAddr n (base + i) = shelfAddr n (base + j) → i = j := fun i hi j hj h =>
  ring_inj (w := base) (size := 2097152) (by omega) (by omega) (Nat.add_left_cancel h)

end

/-! ## Stores to a shelf without poison -/

section
variable {s : State} {n : Nat}

/-- No word of stall n's shelf is uncorrectable. -/
def State.shelfClean (s : State) (n : Nat) : Prop := ∀ b, NSet.has s.mem.shelfPois (shelfAddr n b / 8) = false

theorem wrShelf_split (m : Mem) (n off k : Nat) (b : List Byte) :
    Mem.wrShelf (Mem.wrShelf m n off (b.take k)) n (off + k) (b.drop k) = Mem.wrShelf m n off b := by
  induction k generalizing m off b with
  | zero => rfl
  | succ k ih =>
    cases b with
    | nil => rfl
    | cons x b =>
      rw [List.take_succ_cons, List.drop_succ_cons, Mem.wrShelf, Mem.wrShelf, Nat.add_comm k 1, ← Nat.add_assoc, ih]

theorem foldl_pieces_wrShelf (n fuel : Nat) (m : Mem) (off : Nat) (b : List Byte) (h : b.length < fuel) :
    (pieces 8 fuel off b).foldl (fun m x => Mem.wrShelf m n x.1 x.2) m = Mem.wrShelf m n off b := by
  induction fuel generalizing m off b with
  | zero => exact absurd h (Nat.not_lt_zero _)
  | succ fuel ih =>
    cases b with
    | nil => rfl
    | cons x b =>
      simp only [pieces, List.foldl_cons]
      rw [ih, wrShelf_split]
      rw [List.length_cons] at h
      rw [List.length_drop, List.length_cons]
      have := Nat.mod_lt off (show 8 > 0 by decide)
      omega

theorem wrShelf_shelf (h : s.shelfClean n) (off : Nat) (b : List Byte) : (s.wrShelf n off b).mem.shelf = Mem.wrShelf s.mem.shelf n off b := by
  have stored : (fun (m : Mem) (x : Nat × List Byte) =>
      if NSet.has s.mem.shelfPois (shelfAddr n x.1 / 8) && x.2.length ≠ 8 then m else Mem.wrShelf m n x.1 x.2) =
      fun m x => Mem.wrShelf m n x.1 x.2 := by
    funext m x
    rw [h x.1]
    rfl
  unfold State.wrShelf
  dsimp only
  rw [stored]
  exact foldl_pieces_wrShelf _ _ _ _ _ (Nat.lt_succ_self _)

theorem wrShelf_clean (h : s.shelfClean n) (off : Nat) (b : List Byte) : (s.wrShelf n off b).shelfClean n := by
  intro a
  refine List.foldlRecOn (motive := fun t => NSet.has t (shelfAddr n a / 8) = false) (pieces 8 (b.length + 1) off b) _ (h a) fun t ht x _ => ?_
  split
  · rw [NSet.has_del, ht, Bool.and_false]
  · exact ht

end

/-! ## What a sink takes (R444) -/

section
variable {s : State} {n : Nat}

/-- Bytes of the buffer that the sink takes. -/
def Tracer.taken (t : Tracer) : Nat := min t.buf.length t.free

/-- Place of byte j of the buffer in the sink. -/
def Tracer.place (t : Tracer) (j : Nat) : Nat := t.base + (t.wptr.toNat + j) % 2 ^ t.log2

/-- The tracer with k bytes moved to the sink. -/
def Tracer.moved (t : Tracer) (k : Nat) : Tracer := { t with buf := t.buf.drop k, wptr := t.wptr + BitVec.ofNat 64 k }

/-- Where in the ring the sink takes its first byte. -/
def Tracer.start (t : Tracer) : Nat := t.wptr.toNat % 2 ^ t.log2

/-- The bytes taken up to the end of the ring, and those on from its start. -/
def Tracer.front (t : Tracer) : List Byte := (t.buf.take t.free).take (2 ^ t.log2 - t.start)

def Tracer.back (t : Tracer) : List Byte := (t.buf.take t.free).drop (2 ^ t.log2 - t.start)

/-- The device with the bytes in the sink, the tracer still to tell. -/
def State.sunk (s : State) (n : Nat) : State := (s.sinkWrite n (s.sel n).start (s.sel n).front).sinkWrite n 0 (s.sel n).back

theorem MemMoved.updSel {t : State} (h : MemMoved s t) (f : Tracer → Tracer) : t.updSel n f = { s.updSel n f with mem := t.mem } := by
  rw [h]
  rfl

theorem sunk_memMoved (s : State) (n : Nat) : MemMoved s (s.sunk n) := (sinkWrite_memMoved ..).trans (sinkWrite_memMoved ..)

theorem sinkMove_moves (h : (s.sel n).host = true → s.bme (s.fnOf ((s.pitchOf n).getD 0)) = true) :
    s.sinkMove n = { s.updSel n (·.moved (s.sel n).taken) with mem := (s.sunk n).mem } := by
  have open_ : ¬ ((s.sel n).host && !(s.bme (s.fnOf ((s.pitchOf n).getD 0)))) = true := by
    intro held
    rw [Bool.and_eq_true, Bool.not_eq_true'] at held
    exact absurd (h held.1) (by rw [held.2]; decide)
  rw [State.sinkMove, if_neg open_, ← (sunk_memMoved s n).updSel, Tracer.taken, Nat.min_comm, ← List.length_take]
  rfl

/-- What the sinks' memory then holds: the bytes taken along the ring, everything else as before. -/
def Sunk (t : Tracer) (addr : Nat → Nat) (m m' : Mem) : Prop :=
  (∀ j < t.taken, Mem.rd m' (addr (t.place j)) = t.buf.getD j 0) ∧
  ∀ a, (∀ j < t.taken, a ≠ addr (t.place j)) → Mem.rd m' a = Mem.rd m a

/-- A sink that puts bytes at the addresses `addr` takes them along its ring. -/
theorem sunk_ring {t : Tracer} {addr : Nat → Nat} {put : Mem → Nat → List Byte → Mem} (m : Mem)
    (puts : ∀ m a b, put m a b = Mem.wrAt m (fun j => addr (a + j)) b)
    (apart : ∀ i < 2 ^ t.log2, ∀ j < 2 ^ t.log2, addr (t.base + i) = addr (t.base + j) → i = j) (hk : t.taken ≤ 2 ^ t.log2) :
    Sunk t addr m (put (put m (t.base + t.start) t.front) (t.base + 0) t.back) := by
  have taken : (t.buf.take t.free).length = t.taken := by rw [List.length_take, Nat.min_comm, Tracer.taken]
  obtain ⟨inside, outside⟩ := wrAt_ring_reads (m := m) (w := t.wptr.toNat) apart (taken.le.trans hk)
  rw [puts, puts, Tracer.front, Tracer.back, Tracer.start, wrAt_ring addr (Nat.two_pow_pos _) (taken.le.trans hk)]
  rw [taken] at inside outside
  refine ⟨fun j hj => (inside j hj).trans ?_, outside⟩
  have room : j < t.free := hj.trans_le (Nat.min_le_right ..)
  rw [List.getD_eq_getElem?_getD, List.getD_eq_getElem?_getD, List.getElem?_take_of_lt room]

theorem sinkWrite_shelf (h : (s.sel n).host = false) (off : Nat) (b : List Byte) :
    s.sinkWrite n off b = s.wrShelf n ((s.sel n).base + off) b := by
  rw [State.sinkWrite, h, if_neg (by decide)]

theorem sinkWrite_host (h : (s.sel n).host = true) (off : Nat) (b : List Byte) :
    s.sinkWrite n off b = s.wrHost ((s.sel n).base + off) b := by
  rw [State.sinkWrite, h, if_pos rfl]

/-- The shelf sink; its ring lies in the shelf once. -/
theorem sunk_shelf (clean : s.shelfClean n) (h : (s.sel n).host = false) (hs : 2 ^ (s.sel n).log2 ≤ 2097152)
    (hk : (s.sel n).taken ≤ 2 ^ (s.sel n).log2) : Sunk (s.sel n) (shelfAddr n) s.mem.shelf (s.sunk n).mem.shelf ∧
    (s.sunk n).mem.slice = s.mem.slice ∧ (s.sunk n).mem.far = s.mem.far ∧ (s.sunk n).mem.host = s.mem.host := by
  have sunk : s.sunk n = (s.wrShelf n ((s.sel n).base + (s.sel n).start) (s.sel n).front).wrShelf n ((s.sel n).base + 0) (s.sel n).back := by
    rw [State.sunk, sinkWrite_shelf h]
    exact sinkWrite_shelf (s := s.wrShelf n _ _) h _ _
  rw [sunk]
  refine ⟨?_, rfl, rfl, rfl⟩
  rw [wrShelf_shelf (s := s.wrShelf n _ _) (wrShelf_clean clean _ _), wrShelf_shelf clean]
  exact sunk_ring (put := fun m a b => Mem.wrShelf m n a b) _ (fun _ _ _ => Mem.wrShelf_eq_wrAt) (shelfAddr_inj n _ hs) hk

/-- The host sink. -/
theorem sunk_host (h : (s.sel n).host = true) (hk : (s.sel n).taken ≤ 2 ^ (s.sel n).log2) :
    Sunk (s.sel n) id s.mem.host (s.sunk n).mem.host ∧
    (s.sunk n).mem.slice = s.mem.slice ∧ (s.sunk n).mem.far = s.mem.far ∧ (s.sunk n).mem.shelf = s.mem.shelf := by
  have sunk : s.sunk n = (s.wrHost ((s.sel n).base + (s.sel n).start) (s.sel n).front).wrHost ((s.sel n).base + 0) (s.sel n).back := by
    rw [State.sunk, sinkWrite_host h]
    exact sinkWrite_host (s := s.wrHost _ _) h _ _
  rw [sunk]
  refine ⟨?_, rfl, rfl, rfl⟩
  exact sunk_ring (put := Mem.wrBytes) (addr := id) _ (fun _ _ _ => Mem.wrBytes_eq_wrAt) (fun _ _ _ _ e => Nat.add_left_cancel e) hk

/-! ## SELOG_FLUSH (R444, R446) -/

/-- The buffer holds 2 KiB or more, or what a stop left, and porter 1 may move it. -/
def State.flushDue (s : State) (n : Nat) : Prop :=
  (2048 ≤ (s.sel n).buf.length ∨ (s.sel n).st = 3) ∧ ((s.stall n).porter 1).busy = false ∧ (s.stall n).saving = false ∧
  (s.stall n).halting = false

theorem selogFlush_early (hn : n < 256) (h : ¬ s.flushDue n) : exec (.selogFlush n) s = .next s := by
  change run (inStall n) _ = _
  rw [inStall, decide_eq_true hn, run_true, if_neg]
  simpa [State.flushDue, Stall.stopping] using h

theorem exec_selogFlush (hn : n < 256) (h : s.flushDue n) : exec (.selogFlush n) s = .next (s.selFlush n) := by
  change run (inStall n) _ = _
  rw [inStall, decide_eq_true hn, run_true, if_pos]
  simpa [State.flushDue, Stall.stopping] using h

/-- The tracer after the move. -/
theorem sinkMove_sel (h : (s.sel n).host = true → s.bme (s.fnOf ((s.pitchOf n).getD 0)) = true) :
    (s.sinkMove n).sel n = (s.sel n).moved (s.sel n).taken := by
  rw [sinkMove_moves h]
  exact sel_updSel (f := (·.moved (s.sel n).taken))

/-- A sink full under STOPFULL ends the trace. -/
theorem selogFlush_full (hn : n < 256) (due : s.flushDue n) (tracing : (s.sel n).st = 2) (stopFull : (s.sel n).stopFull = true)
    (shelf : (s.sel n).host = false) (left : (s.sel n).taken < (s.sel n).buf.length) (once : ¬ bit (s.sel n).cfg 6 = true) :
    Completes (exec (.selogFlush n) s) (fun t => (t.sel n).st = 3) := by
  have sel := sinkMove_sel (s := s) (n := n) (fun h => by rw [shelf] at h; cases h)
  have rest : (s.sel n).buf.drop (s.sel n).taken ≠ [] := fun none => absurd (List.drop_eq_nil_iff.1 none) (Nat.not_le.2 left)
  have full : (((s.sinkMove n).sel n).tracing && ((s.sinkMove n).sel n).stopFull && decide (((s.sinkMove n).sel n).buf ≠ [])) = true := by
    rw [sel, Bool.and_eq_true, Bool.and_eq_true, decide_eq_true_iff]
    exact ⟨⟨(tracing_iff _).2 tracing, stopFull⟩, rest⟩
  have done : s.selFlush n = (s.sinkMove n).selDone n := if_pos full
  refine ⟨_, exec_selogFlush hn due, ?_⟩
  beta_reduce
  rw [done, selDone_st, sel]
  exact if_neg once

/-- A flush that neither ends the trace nor a loss only moves the bytes. -/
theorem selogFlush_moves (hn : n < 256) (due : s.flushDue n) (lost : (s.sel n).lost = 0)
    (goes : (s.sel n).st = 3 ∨ (s.sel n).stopFull = false)
    (h : (s.sel n).host = true → s.bme (s.fnOf ((s.pitchOf n).getD 0)) = true) :
    exec (.selogFlush n) s = .next { s.updSel n (·.moved (s.sel n).taken) with mem := (s.sunk n).mem } := by
  have sel := sinkMove_sel (s := s) (n := n) h
  have ends : ¬ (((s.sinkMove n).sel n).tracing && ((s.sinkMove n).sel n).stopFull && decide (((s.sinkMove n).sel n).buf ≠ [])) = true := by
    rw [sel, Bool.and_eq_true, Bool.and_eq_true, tracing_iff]
    rintro ⟨⟨tracing, full⟩, -⟩
    rcases goes with done | free
    · exact absurd (done.symm.trans tracing) (by decide)
    · exact absurd (free.symm.trans full) (by decide)
  have none_lost : (s.sinkMove n).selOvf n = s.sinkMove n := if_neg fun k => k.1 (by rw [sel]; exact lost)
  have moved : s.selFlush n = s.sinkMove n := by
    rw [State.selFlush, if_neg ends, none_lost, ite_self]
  rw [exec_selogFlush hn due, moved, sinkMove_moves h]

theorem selogFlush_shelf (hn : n < 256) (due : s.flushDue n) (lost : (s.sel n).lost = 0)
    (goes : (s.sel n).st = 3 ∨ (s.sel n).stopFull = false) (fits : (s.sel n).taken ≤ 2 ^ (s.sel n).log2) (h : (s.sel n).host = false)
    (hs : 2 ^ (s.sel n).log2 ≤ 2097152) (clean : s.shelfClean n) : Completes (exec (.selogFlush n) s) (fun t =>
      t = { s.updSel n (·.moved (s.sel n).taken) with mem := t.mem } ∧
      (∀ j < (s.sel n).taken, Mem.rd t.mem.shelf (shelfAddr n ((s.sel n).place j)) = (s.sel n).buf.getD j 0) ∧
      (∀ b, (∀ j < (s.sel n).taken, b ≠ shelfAddr n ((s.sel n).place j)) → Mem.rd t.mem.shelf b = Mem.rd s.mem.shelf b) ∧
      t.mem.slice = s.mem.slice ∧ t.mem.far = s.mem.far ∧ t.mem.host = s.mem.host) := by
  obtain ⟨⟨inside, outside⟩, others⟩ := sunk_shelf clean h hs fits
  exact ⟨_, selogFlush_moves hn due lost goes (fun k => absurd (h.symm.trans k) (by decide)), rfl, inside, outside, others⟩

theorem selogFlush_host (hn : n < 256) (due : s.flushDue n) (lost : (s.sel n).lost = 0)
    (goes : (s.sel n).st = 3 ∨ (s.sel n).stopFull = false) (fits : (s.sel n).taken ≤ 2 ^ (s.sel n).log2) (h : (s.sel n).host = true)
    (master : s.bme (s.fnOf ((s.pitchOf n).getD 0)) = true) : Completes (exec (.selogFlush n) s) (fun t =>
      t = { s.updSel n (·.moved (s.sel n).taken) with mem := t.mem } ∧
      (∀ j < (s.sel n).taken, Mem.rd t.mem.host ((s.sel n).place j) = (s.sel n).buf.getD j 0) ∧
      (∀ b, (∀ j < (s.sel n).taken, b ≠ (s.sel n).place j) → Mem.rd t.mem.host b = Mem.rd s.mem.host b) ∧
      t.mem.slice = s.mem.slice ∧ t.mem.far = s.mem.far ∧ t.mem.shelf = s.mem.shelf) := by
  obtain ⟨⟨inside, outside⟩, others⟩ := sunk_host h fits
  exact ⟨_, selogFlush_moves hn due lost goes (fun _ => master), rfl, inside, outside, others⟩

end

end Sys2Proof.Machine
end

section
/-!
SUPPORT. Jostle: its lock, its expiry and the injectors (20 R447 to R450), and the statement MonitorsTracersAndInjectorsRun.
-/
namespace Sys2Proof.Machine

/-! ## Jostle (R447 to R450) -/

section
variable {s : State} {q : Req} {d : W32} {z : Word} {i : Nat}

/-- Who may write jostle registers now: while they are unlocked, all but logical devices. -/
theorem jostler_iff : s.jostler q = true ↔ s.unlocked = true ∧ ∀ p, q ≠ .ld p := by
  cases q <;> simp [State.jostler]

theorem exec_jostleUnlock (hq : inReq q = true) (ho : s.setupOpen q) : exec (.jostleUnlock q d) s =
    .next (if s.jostler q || (reqIsSp q && bit32 d 0) then s.jctl q d else s.accessError q 0 0x380000 4 true) := by
  change run (inReq q) _ = _
  rw [setupTry_of_open ho, hq, run_true]

theorem jostleTaken_iff : (s.jostler q || (reqIsSp q && bit32 d 0)) = true ↔
    (s.unlocked = true ∧ ∀ p, q ≠ .ld p) ∨ (reqIsSp q = true ∧ bit32 d 0 = true) := by
  rw [Bool.or_eq_true, jostler_iff, Bool.and_eq_true]

/-- JCTL as written: UNLOCK in bit 0, JTIME above. -/
theorem jctl_fields (b : Bool) {x : Nat} (hx : x < 256) :
    bit32 (BitVec.ofNat 32 (ofBool b + 256 * x)) 0 = b ∧ fld32 (BitVec.ofNat 32 (ofBool b + 256 * x)) 8 8 = x := by
  unfold bit32 fld32 bitsOf
  rw [BitVec.toNat_ofNat]
  cases b
  · constructor
    · rw [ofBool, decide_eq_false_iff_not]; simp; omega
    · rw [ofBool]; simp; omega
  · constructor
    · rw [ofBool, decide_eq_true_iff]; simp; omega
    · rw [ofBool]; simp; omega

theorem jostleUnlock_taken (hq : inReq q = true) (ho : s.setupOpen q)
    (h : (s.unlocked = true ∧ ∀ p, q ≠ .ld p) ∨ (reqIsSp q = true ∧ bit32 d 0 = true)) :
    Completes (exec (.jostleUnlock q d) s) (fun t => t = { s with setup := t.setup } ∧
      t.unlocked = (if reqIsSp q = true then bit32 d 0 else s.unlocked) ∧ fld32 (t.rw32 0x380000) 8 8 = fld32 d 8 8 ∧
      ∀ o, o / 4 ≠ 0xE0000 → t.rw32 o = s.rw32 o) := by
  have written : (s.jctl q d).rw32 0x380000 =
      BitVec.ofNat 32 (ofBool (reqIsSp q && bit32 d 0 || !reqIsSp q && s.unlocked) + 256 * fld32 d 8 8) :=
    (State.rw32_setRw32 ..).trans (if_pos rfl)
  have lock : (reqIsSp q && bit32 d 0 || !reqIsSp q && s.unlocked) = if reqIsSp q = true then bit32 d 0 else s.unlocked := by
    cases reqIsSp q <;> simp
  obtain ⟨unlock, time⟩ := jctl_fields (reqIsSp q && bit32 d 0 || !reqIsSp q && s.unlocked) (x := fld32 d 8 8) (Nat.mod_lt _ (by decide))
  refine ⟨_, (exec_jostleUnlock hq ho).trans (congrArg _ (if_pos (jostleTaken_iff.2 h))), rfl, ?_, ?_, fun o ho => ?_⟩
  · rw [State.unlocked, written, unlock, lock]
  · rw [written, time]
  · exact (State.rw32_setRw32 ..).trans (if_neg ho)

theorem jostleUnlock_refused (hq : inReq q = true) (ho : s.setupOpen q)
    (h : ¬ ((s.unlocked = true ∧ ∀ p, q ≠ .ld p) ∨ (reqIsSp q = true ∧ bit32 d 0 = true))) :
    exec (.jostleUnlock q d) s = .next (s.accessError q 0 0x380000 4 true) :=
  (exec_jostleUnlock hq ho).trans (congrArg _ (if_neg (fun k => h (jostleTaken_iff.1 k))))

/-- What an injector accepts (R450). -/
theorem injOk_iff : injOk z = true ↔ (fld z 0 4 = 8 → bit z 16 = false ∧ bit z 40 = false) := by
  simp [injOk, imp_iff_not_or]

theorem exec_jinjcfgWrite (hq : inReq q = true) (ho : s.setupOpen q) (hi : i < 4) : exec (.jinjcfgWrite q i z) s =
    .next (if s.jostler q && injOk z then s.setRw64 (injOff i) (z &&& 0xFFFF01FFFFFFFF7F)
      else s.accessError q 0 (injOff i) 8 true) := by
  change run (inReq q && inHall i) _ = _
  rw [setupTry_of_open ho, hq, Bool.true_and, run_inHall hi]

theorem jinjTaken_iff : (s.jostler q && injOk z) = true ↔
    (s.unlocked = true ∧ ∀ p, q ≠ .ld p) ∧ (fld z 0 4 = 8 → bit z 16 = false ∧ bit z 40 = false) := by
  rw [Bool.and_eq_true, jostler_iff, injOk_iff]

/-- A register of 64 bits reads as written, and no other dword changed. -/
theorem rw64_setRw64 (s : State) {o : Nat} (w : Word) : (s.setRw64 o w).rw64 o = w := by
  have low : (s.setRw64 o w).rw32 o = w.setWidth 32 :=
    (State.rw32_setRw32 ..).trans ((if_neg (by omega)).trans ((State.rw32_setRw32 ..).trans (if_pos rfl)))
  have high : (s.setRw64 o w).rw32 (o + 4) = (w >>> 32).setWidth 32 := (State.rw32_setRw32 ..).trans (if_pos rfl)
  rw [State.rw64, low, high, Nat.mul_comm]
  exact wordOf_halves w

theorem rw32_setRw64 (s : State) {o o' : Nat} (w : Word) (h : o' / 4 ≠ o / 4) (h' : o' / 4 ≠ o / 4 + 1) :
    (s.setRw64 o w).rw32 o' = s.rw32 o' :=
  (State.rw32_setRw32 ..).trans ((if_neg (by omega)).trans ((State.rw32_setRw32 ..).trans (if_neg h)))

theorem jinjcfgWrite_taken (hq : inReq q = true) (ho : s.setupOpen q) (hi : i < 4)
    (h : (s.unlocked = true ∧ ∀ p, q ≠ .ld p) ∧ (fld z 0 4 = 8 → bit z 16 = false ∧ bit z 40 = false)) :
    Completes (exec (.jinjcfgWrite q i z) s) (fun t => t = { s with setup := t.setup } ∧ t.rw64 (injOff i) = z &&& 0xFFFF01FFFFFFFF7F ∧
      ∀ o, o / 4 ≠ injOff i / 4 → o / 4 ≠ injOff i / 4 + 1 → t.rw32 o = s.rw32 o) :=
  ⟨_, (exec_jinjcfgWrite hq ho hi).trans (congrArg _ (if_pos (jinjTaken_iff.2 h))), rfl, rw64_setRw64 .., fun _ h h' => rw32_setRw64 _ _ h h'⟩

theorem jinjcfgWrite_refused (hq : inReq q = true) (ho : s.setupOpen q) (hi : i < 4)
    (h : ¬ ((s.unlocked = true ∧ ∀ p, q ≠ .ld p) ∧ (fld z 0 4 = 8 → bit z 16 = false ∧ bit z 40 = false))) :
    exec (.jinjcfgWrite q i z) s = .next (s.accessError q 0 (injOff i) 8 true) :=
  (exec_jinjcfgWrite hq ho hi).trans (congrArg _ (if_neg (fun k => h (jinjTaken_iff.1 k))))

/-- Keys that a filter drops are not found, keys that it keeps are found as before. -/
theorem find_filter {α : Type} (t : Tab α) (p : Nat → Bool) (a : Nat) :
    Tab.find (t.filter (fun e => p e.1)) a = if p a then Tab.find t a else none := by
  induction t with
  | nil => simp [Tab.find]
  | cons e t ih =>
    obtain ⟨k, v⟩ := e
    by_cases hk : p k
    · rw [List.filter_cons_of_pos (p := fun e : Nat × α => p e.1) hk, Tab.find, Tab.find, ih]
      by_cases h : k = a
      · subst h; simp [hk]
      · simp [h]
    · rw [List.filter_cons_of_neg (p := fun e : Nat × α => p e.1) hk, Tab.find, ih]
      by_cases h : k = a
      · subst h; simp [hk]
      · simp [h]

theorem rw32_resetRw (s : State) (off n o : Nat) :
    (s.resetRw off n).rw32 o = if o / 4 < off / 4 ∨ (off + n) / 4 ≤ o / 4 then s.rw32 o else rwReset o := by
  have found := find_filter s.setup (fun k => decide (k < off / 4) || decide ((off + n) / 4 ≤ k)) (o / 4)
  rw [State.rw32, Tab.get, State.resetRw, found]
  simp only [Bool.or_eq_true, decide_eq_true_eq]
  split
  · rfl
  · rfl

theorem jostleExpiry_expires : Completes (exec .jostleExpiry s) (fun t => t = { s with setup := t.setup, obs := { s.obs with inj := [] } } ∧
    (∀ o, 0x380000 ≤ o → o < 0x381000 → t.rw32 o = rwReset o) ∧ (∀ o, o < 0x380000 ∨ 0x381000 ≤ o → t.rw32 o = s.rw32 o)) :=
  ⟨_, rfl, rfl, fun o h h' => (rw32_resetRw s 0x380000 0x1000 o).trans (if_neg (by omega)),
    fun o h => (rw32_resetRw s 0x380000 0x1000 o).trans (if_pos (by omega))⟩

end

/-! ## The statement -/

/-- Settles O58: each command is taken by its own lemma above. A trace is followed as packets that only add to the buffer, and a flush as bytes written
along a ring whose places are apart. -/
theorem monitorsTracersAndInjectorsRun : Obligations.MonitorsTracersAndInjectorsRun := by
  unfold Obligations.MonitorsTracersAndInjectorsRun
  intro s q n m i v d z hq hn hm hi still
  refine ⟨?_, ?_, fun ho => ⟨jostleUnlock_refused hq ho, jostleUnlock_taken hq ho, jinjcfgWrite_refused hq ho hi, jinjcfgWrite_taken hq ho hi⟩,
    jostleExpiry_expires⟩
  · exact ⟨scalesSample_off hm v, scalesSample_counts hm v, windowBoundary_banks hm, mcommit_none hq hm, mcommit_refused hq hm⟩
  · refine ⟨fun ho => ?_, ⟨traceStart_early hn, traceStart_starts hn⟩,
      ⟨traceStop_early hn, fun h => ⟨_, traceStop_stops hn h, selDone_ends rfl⟩⟩,
      ⟨selogSync_early hn, selogSync_due hn⟩, selogFlush_early hn, selogFlush_full hn, fun due lost goes fits => ⟨?_, ?_⟩⟩
    · exact ⟨fun h => (exec_selArm hq hn ho).trans (congrArg _ (selArm_active h)),
        fun h hs => (exec_selArm hq hn ho).trans (congrArg _ (selArm_refused h hs)), fun b h hs => selArm_arms hq hn ho h hs,
        selStop_idle hq hn ho, fun h => ⟨_, selStop_stops hq hn ho h, selDone_ends ctlSet_steady⟩, selDisarm_disarms hq hn ho,
        selrptrWrite_quiet hq hn ho, selrptrWrite_writes hq hn ho⟩
    · exact selogFlush_shelf hn due lost goes fits
    · exact selogFlush_host hn due lost goes fits

end Sys2Proof.Machine
end
